-- ==== Sys2Proof/Word.lean ====
section
/-! DEFINITION. The word types of the part (R4: registers are 32 bits; R11: Unit IDs are 16 bits; R112: physical
addresses are 48 bits; R130: Domain IDs are 12 bits; R303: FRC ticks). -/

namespace Sys2Proof

/-- One byte of memory. -/
abbrev Byte := BitVec 8
/-- One 32-bit register or memory word (R4). -/
abbrev W32 := BitVec 32
/-- One 64-bit word. -/
abbrev W64 := BitVec 64
/-- A 16-bit Unit ID (R11). -/
abbrev UnitId := BitVec 16
/-- A 48-bit package physical address (R112). -/
abbrev PAddr := BitVec 48
/-- A 12-bit Domain ID (R130). -/
abbrev Domain := BitVec 12
/-- A 5-bit register number of an instruction frame (R47). -/
abbrev RegNo := BitVec 5
/-- A free-running counter value, in ticks of 2 ns (R303, R304). The wrap of the 64-bit count takes about 1,169 years. -/
abbrev Tick := Nat
/-- A sparse table: key and value pairs with rising keys; a key that is not listed holds the table's default. -/
abbrev Tab (α : Type) := List (Nat × α)

end Sys2Proof
end

