-- ==== Sys2Proof/Syntax.lean ====
section
/-! DEFINITION. The commands of the part: one constructor per row of spec/opcode_table.json, with its operands.
The table gives no row a bit encoding; the operands are those the row's rule names (a unit, an address, a value). -/

namespace Sys2Proof

/-- Who writes a register (R131, R136, R223, R271, R273): a package domain, the Gatehouse processor pair, the
sequencer of a Pavilion, the watched processor of a watchdog, the task sequence monitor, a boot ROM, or the Folly's
test lane. -/
inductive Writer where
  | dom (d : Domain)
  | pair
  | seq (pav : Nat)
  | owner
  | tsm
  | rom
  | folly
  deriving DecidableEq, Repr

/-- Fields of a class V instruction (R47, R53) beside its operation code. -/
structure VArgs where
  core : UnitId
  funct3 : BitVec 3
  mask : Bool
  vd : RegNo
  vs1 : RegNo
  vs2 : RegNo
  deriving DecidableEq, Repr

/-- Fields of a class M instruction (R47, R54) beside its funct3. -/
structure MArgs where
  core : UnitId
  fmt : BitVec 4
  rnd : BitVec 2
  sat : Bool
  vd : RegNo
  rs1 : RegNo
  rs2 : RegNo
  deriving DecidableEq, Repr

/-- A protected message as it arrives (R292): header fields, payload bytes and CRC. -/
structure PMsg where
  src : BitVec 16
  seq : BitVec 16
  type : BitVec 8
  more : Bool
  restart : Bool
  stamp : BitVec 32
  payload : List Byte
  crc : BitVec 32
  deriving DecidableEq, Repr

/-- A fabric packet (R146): header fields (STATUS in responses, COUNT in collective ones), header CRC and payload words with their 7
check bits (R148). -/
structure Packet where
  kind : BitVec 4
  spec : Bool
  cls : BitVec 2
  lenM1 : BitVec 6
  tag : BitVec 10
  domain : Domain
  srcUnit : BitVec 16
  addr : PAddr
  ret : BitVec 8
  firstBe : BitVec 4
  lastBe : BitVec 4
  op : BitVec 2
  mcBase : BitVec 16
  mcMask : BitVec 16
  status : BitVec 4
  count : BitVec 16
  hdrCrc : BitVec 16
  payload : List (W32 × BitVec 7)
  deriving DecidableEq, Repr

/-- What a regulator reports of a rail (R388): its target and its voltage in mV, and whether the current exceeds the warning limit. -/
structure RailReport where
  target : Nat
  volts : Nat
  overCurrent : Bool
  deriving DecidableEq, Repr

/-- What a checker reports to the test lane for an injection (R214). -/
inductive TestReport where
  | corrected
  | uncorrectable
  | addressError
  | poison
  | clean
  | mismatch
  | same
  | passA
  | passB
  | arbitration
  | pairPass
  | pairFail
  | rejected
  | early
  | timeout
  | accepted
  | bothFail
  | notBoth
  | latched
  | escalated
  | stays
  deriving DecidableEq, Repr

/-- A link flit as it arrives (R161, R291). -/
structure Flit where
  data : List Byte
  fseq : BitVec 12
  ack : BitVec 12
  poison : BitVec 60
  crc : BitVec 32
  deriving DecidableEq, Repr

/-- A tensor of a graph package as the part reads it (R65, R100): the slot-range map's row and the tensor descriptor. -/
structure TensorDesc where
  region : BitVec 4
  offset : BitVec 44
  fmt : BitVec 4
  safety : Bool
  final : Bool
  dim : List Nat
  stride : List Int
  scale : W32
  rowsM1 : BitVec 8
  colsM1 : BitVec 8
  slotOff : Nat
  tol : Nat
  spread : Bool
  deriving DecidableEq, Repr

/-- A tolerance record (R102): mode, and the uniform pair followed by the column pairs (absolute, relative). -/
structure TolRec where
  mode : BitVec 2
  absTol : W32
  relTol : W32
  cols : List (W32 × W32)
  deriving DecidableEq, Repr

/-- One expected tensor of a golden record (R208): its data's place in the CONST image (R208 places it there) and length. -/
structure GoldenExpect where
  tensor : Nat
  tol : Nat
  off : Nat
  len : Nat
  deriving DecidableEq, Repr

/-- A golden record (R208): its input frames as places in the CONST image, lengths and camera frame counters. -/
structure GoldenRec where
  index : BitVec 4
  inputs : List (Nat × Nat × Nat)
  missing : W32
  expects : List GoldenExpect
  deriving DecidableEq, Repr

/-- A work item (R99): its code block, as a place and a length in the CODE section, and its argument. -/
structure WorkItem where
  code : Nat
  len : Nat
  arg : W32
  deriving DecidableEq, Repr

/-- A network record of a graph package (R87): the spec names its contents and gives it no byte layout. Its work lists stand by tiling
variant and logical Pavilion. -/
structure NetDesc where
  pavilions : Nat
  variants : Nat
  slotCount : Nat
  constPlace : Nat
  work : List (List (List WorkItem))
  tensors : List TensorDesc
  golden : List GoldenRec
  deriving DecidableEq, Repr

/-- A graph package as the part reads it at the end of a load (R87 to R89, R102, R208, R410): beside its header the CODE section, its
networks and tolerance records, and the CONST image with the places it is given, die 0, die 1 and the SPREAD alias (R119). -/
structure PkgDesc where
  pkgId : W32
  pkgVer : W32
  code : List Byte
  networks : List NetDesc
  tols : List TolRec
  sectionTypes : List Nat
  constImage : List Byte
  constBase : List PAddr
  deriving DecidableEq, Repr

/-- A declaration record (R173). -/
structure DeclRec where
  service : BitVec 6
  twoCopy : Bool
  outputs : BitVec 4
  proof : BitVec 2
  missLimit : BitVec 3
  entry : BitVec 8
  resultAge : BitVec 16
  sensorMask : W32
  pavA : BitVec 8
  pavB : BitVec 8
  fallA : BitVec 8
  fallB : BitVec 8
  taskFirst : BitVec 8
  taskCount : BitVec 8
  deriving DecidableEq, Repr

/-- A range record of a slot plan (R174). -/
structure RangeRec where
  first : BitVec 20
  proof : Bool
  entry : BitVec 8
  count : BitVec 20
  fmt : BitVec 4
  final : Bool
  tilesPerRow : BitVec 16
  tol : BitVec 10
  scale : W32
  deriving DecidableEq, Repr

/-- One region of the safety region list (R137). -/
structure Region where
  base : PAddr
  limit : PAddr
  die : Nat
  write : Bool
  read : Bool
  deriving DecidableEq, Repr

/-- The content of a DECLARE transfer (R94, R173, R174, R137, R326). -/
structure DeclSet where
  bank : Nat
  planId : BitVec 16
  mode : BitVec 2
  services : List DeclRec
  ranges : List RangeRec
  tols : List TolRec
  regions : List Region
  triggers : List (List W32)
  reservedZero : Bool
  deriving DecidableEq, Repr

/-- Scope of a restart order (R186): up to 8 Pavilions, one die or the package. -/
inductive Scope where
  | none
  | pavs (mask : BitVec 8)
  | die (d : Nat)
  | package
  deriving DecidableEq, Repr

/-- Pair configuration of the safety parameter record (R242, R261). -/
structure PairCfg where
  func : Nat
  auto : Bool
  tpA : Nat
  tpB : Nat
  sender : Bool
  mask : BitVec 4
  disc : Nat
  filter : Nat
  deriving DecidableEq, Repr

/-- Peer configuration of the safety parameter record (R350, R364). -/
structure PeerCfg where
  en : Bool
  hbReq : Bool
  mac : BitVec 48
  hbPeriod : Nat
  hbTimeout : Nat
  deriving DecidableEq, Repr

/-- The safety parameter record (R172, R227, R242, R280, R350, R445). -/
structure SafetyRecord where
  ghCycle : Nat
  verdictCycles : Nat
  grace : List Nat
  stInterval : Nat
  quiet : List Nat
  budget : List Nat
  tpWidth : Nat
  tpPeriod : Nat
  dtPeriod : Nat
  dtSettle : Nat
  resumeTpA : Nat
  resumeTpB : Nat
  resumeDisc : Nat
  resumeFilter : Nat
  pairs : List PairCfg
  outKind : List Bool
  outResumeEn : List Bool
  tasks : List W32
  nodes : Nat
  toBt : Nat
  quietUs : Nat
  mac : BitVec 48
  vda : BitVec 48
  etype : BitVec 16
  peers : List PeerCfg
  calUser : List Int
  deriving DecidableEq, Repr

/-- An Ethernet frame with its FCS outcome (R346, R347): bytes from the destination address on. -/
structure EthFrame where
  bytes : List Byte
  fcsOk : Bool
  deriving DecidableEq, Repr

/-- The commands. -/
inductive Instr where
  | scalarInstruction (core : UnitId) (word : W32)
  | tsub (core : UnitId) (rd rs1 : RegNo)
  | dsub (core : UnitId) (rd rs1 rs2 : RegNo)
  | qwait (core : UnitId) (rd rs1 rs2 : RegNo)
  | qstat (core : UnitId) (rd rs1 : RegNo)
  | qrst (core : UnitId) (rs1 : RegNo)
  | vadd (a : VArgs)
  | vsub (a : VArgs)
  | vmul (a : VArgs)
  | vfma (a : VArgs)
  | vmin (a : VArgs)
  | vmax (a : VArgs)
  | vclt (a : VArgs)
  | vceq (a : VArgs)
  | vsel (a : VArgs)
  | vexp (a : VArgs)
  | vlog (a : VArgs)
  | vrcp (a : VArgs)
  | vrsqrt (a : VArgs)
  | vrsum (a : VArgs)
  | vrmax (a : VArgs)
  | vbcast (a : VArgs)
  | vld (a : MArgs)
  | vst (a : MArgs)
  | vldg (a : MArgs)
  | vsta (a : MArgs)
  | vacc (a : MArgs)
  | vcvt (a : MArgs)
  | dfence (core : UnitId)
  | vsets (core : UnitId) (fs1 : RegNo)
  | checkin (link : Nat) (dom : Domain) (m : PMsg)
  | sigflush (core : UnitId)
  | pchk (core : UnitId) (rd : RegNo)
  | tensorOpStart (core : UnitId)
  | tensorOpComplete (core : UnitId)
  | dmaCopy (core : UnitId) (ch : Nat)
  | dmaGather (core : UnitId) (ch : Nat)
  | dmaHashgather (core : UnitId) (ch : Nat)
  | dmaFill (core : UnitId) (ch : Nat)
  | dmaDescriptorComplete (core : UnitId) (ch : Nat)
  | vectorInstructionComplete (core : UnitId)
  | runaheadReadResponse (core : UnitId) (ch : Nat) (addr : PAddr) (words : Nat)
  | signatureContextAcquire (core : UnitId) (ch : Nat)
  | signatureMessageQueue (core : UnitId) (ctx : Nat)
  | signatureMessageSend (core : UnitId)
  | scratchpadScrubLine (core : UnitId)
  | coreSrSeedWrite (w : Writer) (core : UnitId) (v : W32)
  | coreBootWrite (w : Writer) (core : UnitId) (v : W32)
  | corePreemptWrite (w : Writer) (core : UnitId) (v : W32)
  | corePreemptClr (w : Writer) (core : UnitId) (v : W32)
  | sigContextWrite (w : Writer) (core : UnitId) (ctx : Nat) (idx : Nat) (v : W32)
  | sigSeqWrite (w : Writer) (core : UnitId) (copy : Bool) (v : W32)
  | cluSpareMapWrite (w : Writer) (clu : UnitId) (v : W32)
  | pkgLoad (w : Writer) (index : BitVec 3)
  | pkgUnload (w : Writer) (index : BitVec 3)
  | pkgLoadComplete (index : BitVec 3) (desc : PkgDesc)
  | bankSwitchRequest (w : Writer) (v : W32)
  | declareReply (m : PMsg)
  | declareReplyTimeout
  | gatherWindowClose (entry : Nat)
  | runStart (entry : Nat) (proof : Bool) (copyB : Bool)
  | coreYield (core : UnitId)
  | workItemComplete (core : UnitId)
  | runDeadline (entry : Nat)
  | preemptTimeout (core : UnitId)
  | runOutcome (m : PMsg) (entry : Nat) (proof : Bool) (runSeq : W32) (outcome : BitVec 2)
  | resultRingConfigWrite (w : Writer) (service : BitVec 6) (which : Nat) (v : W32)
  | mcRead (die : Nat) (addr : PAddr)
  | mcWrite (die : Nat) (addr : PAddr) (words : List (W32 × BitVec 7)) (be : BitVec 64)
  | correctedWriteback (die : Nat)
  | dramScrubLine (die : Nat)
  | sramScrubLine (unit : UnitId)
  | fwWindowCtrlWrite (w : Writer) (inst : Nat) (win : Nat) (v : W32)
  | fwLogClr (w : Writer) (inst : Nat) (v : W32)
  | mcLogClr (w : Writer) (die : Nat) (v : W32)
  | blkDomainWrite (w : Writer) (unit : UnitId) (v : W32)
  | hostRead (bar : Nat) (off : Nat) (words : Nat)
  | hostWrite (bar : Nat) (off : Nat) (bytes : List Byte) (ep : Bool) (relaxed : Bool)
  | fabricRead (die : Nat) (p : Packet)
  | fabricWrite (die : Nat) (p : Packet)
  | fabricResponse (die : Nat) (p : Packet)
  | fabricRetry (die : Nat) (srcUnit : BitVec 16) (ret : BitVec 8) (tag : BitVec 10)
  | fabricTimeout (die : Nat) (srcUnit : BitVec 16) (ret : BitVec 8) (tag : BitVec 10)
  | tagQuarantineEnd (die : Nat) (srcUnit : BitVec 16) (ret : BitVec 8) (tag : BitVec 10)
  | mcastWrite (die : Nat) (p : Packet)
  | reduce (die : Nat) (p : Packet)
  | collectiveContextAcquire (node : Nat)
  | flitReceive (lend : Nat) (group : Nat) (f : Flit)
  | linkReplay (lend : Nat) (group : Nat) (fseq : BitVec 12)
  | linkIdleTimeout (lend : Nat)
  | linkTrain (w : Writer) (lend : Nat) (v : W32)
  | ghLinkAutoDetect (link : Nat)
  | linkPartnerDetected (lend : Nat) (groups : BitVec 16)
  | linkTrainTimeout (lend : Nat)
  | linkNegotiate (lend : Nat)
  | linkGroupTrainEnd (lend : Nat) (pass : BitVec 16)
  | linkMaskExchange (lend : Nat)
  | triggerCycle
  | graceExpiry (out : Nat)
  | verdictInstant (delay collisions : Nat)
  | resultAgeExpiry (service : Nat)
  | proofStale (service : Nat)
  | declare (m : PMsg) (d : DeclSet)
  | restartOrder (m : PMsg) (order : BitVec 8) (scope : Scope)
  | restartAck (m : PMsg)
  | restartAckTimeout (order : BitVec 8)
  | restartDone (m : PMsg)
  | restartDoneTimeout (order : BitVec 8)
  | areas (m : PMsg)
  | areasReply (m : PMsg)
  | runOpen (m : PMsg) (entry : Nat) (proof : Bool) (runSeq : W32) (twoCopy : Bool) (dieA dieB : Nat) (deadline : Tick)
  | slotClearComplete (entry : Nat) (proof : Bool)
  | signature (link : Nat) (dom : Domain) (m : PMsg)
  | arbitrationStart
  | arbitrationEnd (fetchOk : Bool)
  | belvedereDeadline (entry : Nat) (proof : Bool)
  | slotScrubPassStart
  | slotScrubPassEnd
  | bvFailClr (w : Writer) (v : W32)
  | deadline (m : PMsg) (entry : Nat) (newDeadline : Tick)
  | frameEnd (src : Nat)
  | syntheticLineComplete (src : Nat) (spoiled : List (Nat × BitVec 8)) (writesOk : Bool)
  | streamFrameEnd (src : Nat)
  | goldenDue (service : Nat)
  | goldenRunDeadline (entry : Nat)
  | testSliceStart (lane : Nat)
  | testSliceEnd (lane : Nat) (defect : Option (Nat × TestReport)) (noReport : Bool)
  | checkerEligible (checker : Nat)
  | checkerOverdue (checker : Nat)
  | folStFailClr (w : Writer) (v : W32)
  | sourceRise (page : Nat) (bit : Nat) (injected : Bool)
  | errReport (link : Nat) (dom : Domain) (m : PMsg)
  | srcVector (link : Nat) (dom : Domain) (m : PMsg)
  | srcVectorPeriod (die : Nat)
  | concentratorSilence (die : Nat)
  | blkErrClear (w : Writer) (page : Nat) (v : W32)
  | quietPeriodExpiry (cls : Nat)
  | hourlyWindowAdvance
  | fcAck (w : Writer) (v : W32)
  | faultAck (m : PMsg)
  | fcForce (w : Writer) (v : W32)
  | faultForce (m : PMsg)
  | faultNote (m : PMsg)
  | filterExpiry (hw : Bool) (chan : Nat) (since : Nat)
  | testPulseStart (tp : Nat) (hwReads prReads : BitVec 34)
  | testPulseCheck (hw : Bool) (chan : Nat) (sawLow : Bool)
  | discrepancyTimeout (hw : Bool) (pair : Nat)
  | processorSample
  | sioHsCmd (w : Writer) (v : W32)
  | hsCmdExpiry
  | sioLatchSet (w : Writer) (v : W32)
  | adcSample (chan : Nat) (val : BitVec 12)
  | darkTestStart (out : Nat) (lowSide : Bool)
  | darkTestTimeout (out : Nat)
  | sioLockClr (w : Writer) (v : W32)
  | resumePressBegin
  | resumeRelease (first : Bool)
  | resumeDiscrepancyTimeout
  | resumeStuckTimeout (contact : Bool)
  | sioResumeClr (w : Writer) (v : W32)
  | irqSourceEvent (inst : Nat) (src : Nat) (level : Bool)
  | icuClaim (inst : Nat) (tgt : Nat)
  | icuComplete (w : Writer) (inst : Nat) (tgt : Nat) (v : W32)
  | irqModerationEnd (inst : Nat) (src : Nat)
  | icuGctrlWrite (w : Writer) (inst : Nat) (v : W32)
  | wdCtrlWrite (w : Writer) (wd : Nat) (v : W32)
  | wdWindowWrite (w : Writer) (wd : Nat) (close : Bool) (v : W32)
  | wdKey (w : Writer) (wd : Nat) (v : W32)
  | watchdogTimeout (wd : Nat)
  | watchdogCoreReset (core : Nat)
  | watchdogGatehouseReset (imageOk : Bool)
  | wdBiteClr (w : Writer) (wd : Nat) (v : W32)
  | debugHalt (wd : Nat) (crossTrigger : Bool)
  | debugResume (wd : Nat)
  | clockMonitorWindow (clk : Nat) (good : Bool) (imageOk : Bool)
  | taskWindowClose (task : Nat)
  | tsmFailClr (w : Writer) (v : W32)
  | cvuStart (w : Writer) (u : Nat) (v : W32)
  | cvuData8 (w : Writer) (u : Nat) (v : W32)
  | cvuData16 (w : Writer) (u : Nat) (v : W32)
  | cvuData32 (w : Writer) (u : Nat) (v : W32)
  | cvuRunWrite (w : Writer) (u : Nat) (hi : Bool) (v : W32)
  | cvuStatRead (u : Nat)
  | streamTimeout (rx : Nat) (src : BitVec 16)
  | pmLastClr (w : Writer) (rx : Nat) (v : W32)
  | heartbeat (m : PMsg) (node : Nat)
  | frcSnapshot
  | replicaSnapshot (r : Nat)
  | commitRate (w : Writer)
  | commitStepValue (w : Writer)
  | commitStepDomain (w : Writer)
  | marker (echo : List (Option Int))
  | syncWord (r : Nat)
  | replicaSyncLoss (r : Nat)
  | steeringTick
  | domainSelectWrite (w : Writer) (v : W32)
  | domainRecordFetch
  | domainStale (d : Nat)
  | triggerCtrlWrite (w : Writer) (e : Nat) (v : W32)
  | triggerIrq (e : Nat)
  | triggerRun (e : Nat)
  | triggerEth (e : Nat)
  | triggerAdc (e : Nat)
  | captureEdge (inp : Nat) (falling : Bool) (at_ : Tick)
  | captureRead (inp : Nat)
  | ppsPulse
  | ppsPulseEnd
  | msixHoldEnd (vec : Nat)
  | msixUnmask (vec : Nat) (cfg : Option (Bool × Bool))
  | functionLevelReset
  | pcieLinkDown
  | pcieRetrain (w : Writer) (v : W32)
  | csiFrameStart (src : Nat)
  | csiLongPacket (port : Nat) (vc : Nat) (dt : BitVec 6) (payload : List Byte) (eccErrs : Nat) (crcOk : Bool)
  | csiRestart (w : Writer) (port : Nat) (v : W32)
  | ethFrameReceive (mac : Nat) (f : EthFrame)
  | ethFrameTransmit (mac : Nat) (queue : Nat) (bytes : List Byte) (oneStep : Bool)
  | ethLinkUp (mac : Nat) (speed : BitVec 2)
  | t1sFrameReceive (mac : BitVec 48) (etype : BitVec 16) (fcsOk : Bool) (m : PMsg)
  | verdictBeacon
  | foreignBeacon
  | coordinatorResume
  | heartbeatDue (peer : Nat)
  | gatehousePowerOn (imageOk : Bool)
  | gatehouseReset (cause : BitVec 3) (imageOk : Bool)
  | safetyRecordLoad (rec : Option SafetyRecord)
  | ioDieRelease (w : Writer)
  | ioDieReset (w : Writer)
  | manifest (core : UnitId)
  | segment (core : UnitId)
  | check (core : UnitId)
  | reset (w : Writer) (unit : UnitId) (absorb : Bool) (drainTo : BitVec 16)
  | hold (w : Writer) (unit : UnitId) (absorb : Bool) (drainTo : BitVec 16)
  | release (w : Writer) (unit : UnitId)
  | powerDown (w : Writer) (unit : UnitId) (absorb : Bool) (drainTo : BitVec 16)
  | drainComplete (unit : UnitId)
  | drainTimeout (unit : UnitId)
  | absorbComplete (unit : UnitId)
  | unitInitComplete (unit : UnitId) (ok : Bool)
  | firmwareSwitchRequest (w : Writer)
  | firmwareSwitchDone (w : Writer)
  | firmwareSwitchTimeout
  | railMonitorSample (chan : Nat) (mv : Nat)
  | railArmTimeout (chan : Nat)
  | killSet (w : Writer)
  | killRelease (w : Writer)
  | brownOut
  | brownOutRecovery (imageOk : Bool)
  | capTick (est : List Nat) (other : Nat)
  | thermalTick (temps : List Int) (stackTemps : List Int)
  | thermalTrip (die : Nat)
  | pwrPavCfgWrite (w : Writer) (pav : Nat) (v : W32)
  | pwrVreadyWrite (w : Writer) (die : Nat) (v : W32)
  | profileChange (pav : Nat)
  | droopPause (island : Nat)
  | railTelemetryRead (rails : List RailReport)
  | quote
  | challenge
  | unlock
  | extend
  | sprInstall (rec : Option SafetyRecord)
  | ghInstall
  | grottoCommit
  | idTreeBuildComplete
  | challengeLapse
  | gkRestart (w : Writer) (cause : BitVec 2)
  | stageSet (flashOk : Bool)
  | stageGh (flashOk : Bool)
  | activate (flashOk : Bool)
  | confirm (flashOk : Bool)
  | hostCommit
  | hostFaultAck
  | cal (flashOk : Bool)
  | note
  | logPageProgram
  | telemetryPeriod
  | calUserWrite (w : Writer) (inst : Nat) (v : W32)
  | serviceAccessGrant
  | serviceAccessEnd
  | tapReset (tap : Nat)
  | idcode (tap : Nat)
  | samplePreload (tap : Nat) (cells : Nat)
  | extest (tap : Nat)
  | extestPulse (tap : Nat)
  | extestTrain (tap : Nat)
  | clamp (tap : Nat)
  | highz (tap : Nat)
  | ghMbox (word : W32) (valid : Bool)
  | debugAccess (tap : Nat) (op : BitVec 2)
  | bypass (tap : Nat)
  | blkGenSelWrite (w : Writer) (page : Nat) (v : W32)
  | blkLockWrite (w : Writer) (page : Nat) (v : W32)
  | blkInjWrite (w : Writer) (page : Nat) (v : W32)
  | unitClassWrite (w : Writer) (unit : UnitId) (v : W32)
  | unitCtxSrWrite (w : Writer) (core : UnitId) (v : W32)
  | registerWrite (w : Writer) (addr : Nat) (v : W32)
  | computeDiePowerUp (die : Nat)
  | dramTrainingComplete (die : Nat) (ok : Bool)
  | pcieLinkUp (rate : BitVec 3) (width : BitVec 5)
  | ethLinkDown (mac : Nat)
  | dphySyncError (port : Nat)
  | ioDieThermalReset
  | credentialValidTimeout
  deriving DecidableEq, Repr

end Sys2Proof
end

