-- ==== Sys2Proof/Decode.lean ====
section
/-! DEFINITION. Words of the table: spec/opcode_table.json gives every row an empty list of bit fields, so no word of any
width spells a command. -/

namespace Sys2Proof

/-- The command that a word spells by the table's bits: none, for the table gives no row any. -/
def decodeTableWord (_nbits _w : Nat) : Option Instr := none

end Sys2Proof
end

