-- ==== Sys2Proof/Config.lean ====
section
/-! DEFINITION. What the spec leaves open: opaque constants without a body. A statement about one of them holds for
every value it may have (notes/assumptions names each). -/

namespace Sys2Proof.Config

/-- Which of the FP32 values within 2 ulp of exp of an operand the unit returns (R34). -/
opaque expPick : W32 → Nat
/-- Which of the FP32 values within 2 ulp of log of an operand the unit returns (R34). -/
opaque logPick : W32 → Nat
/-- Which of the FP32 values within 1 ulp of the exact reciprocal the unit returns (R34). -/
opaque rcpPick : W32 → Nat
/-- Which of the FP32 values within 1 ulp of the exact reciprocal square root the unit returns (R34). -/
opaque rsqrtPick : W32 → Nat
/-- The three shift amounts of the core's xorshift128+ generator (R37), which the spec does not state: one to the left and two to
the right. -/
opaque srShiftL : Nat
opaque srShiftR1 : Nat
opaque srShiftR2 : Nat
/-- Which 16 bits of the generator's 64-bit sum an element draws (R36, R37). -/
opaque srDraw : W64 → BitVec 16
/-- The identity signature over a quote's 640 bytes at signature index q (R419, R420). -/
opaque quoteSign : Nat → List Byte → List Byte
/-- The n-th draw of 32 bytes from the Grotto's random source (R423). -/
opaque randomDraw : Nat → BitVec 256
/-- A free word: the n-th value that the spec leaves open at that moment. -/
opaque freeWord : Nat → W32
/-- A free choice of bounded range, the n-th of the run. -/
opaque freeNat : Nat → Nat

/-- The place of Pavilion p's preemption area in its die's stack, in areas of 10 MiB (R108: the Groundskeeper assigns it). -/
opaque preemptArea : Nat → Nat
/-- The place of a run's arrival table in its copy's stack, in tables of 512 bytes (R99 names no place). -/
opaque arrivalArea : Nat → Nat

/-- The byte of a synthetic line whose eight bits, the first out of the LFSR in bit 0, are given: R205 states no order (free). -/
opaque synOrder : BitVec 8 → BitVec 8

/-- A core's identification CSRs (mvendorid, marchid, mimpid, mhartid, mconfigptr), by CSR number and Unit ID (R44 gives none). -/
opaque hartInfo : Nat → UnitId → W32

/-- The rate that the Groundskeeper firmware gives its console (R359: it may raise it to 3,000,000 baud). -/
opaque consoleBaud : Nat

end Sys2Proof.Config
end

