-- ==== Sys2Proof/Machine/Tab.lean ====
section
/-! DEFINITION. Sparse tables: lists of key and value pairs with strictly rising keys in which no entry equals the
table's default, so that equal tables are equal data. Every array of the part (registers, memory, per-unit state) is one. -/

namespace Sys2Proof.Machine

/-- The value a table holds at a key: the listed one, or the default of the table. -/
def Tab.get {α : Type} (d : α) : Tab α → Nat → α
  | [], _ => d
  | (k', v) :: r, k => if k' = k then v else if k < k' then d else Tab.get d r k

/-- One entry, or none where the value is the default. -/
def Tab.cell {α : Type} [DecidableEq α] (d : α) (k : Nat) (v : α) (r : Tab α) : Tab α :=
  if v = d then r else (k, v) :: r

/-- The table with a new value at a key, in canonical form. -/
def Tab.set {α : Type} [DecidableEq α] (d : α) : Tab α → Nat → α → Tab α
  | [], k, v => Tab.cell d k v []
  | (k', v') :: r, k, v =>
    if k' = k then Tab.cell d k v r
    else if k < k' then Tab.cell d k v ((k', v') :: r)
    else (k', v') :: Tab.set d r k v

/-- The table with the value at a key changed by a function. -/
def Tab.modify {α : Type} [DecidableEq α] (d : α) (t : Tab α) (k : Nat) (f : α → α) : Tab α :=
  Tab.set d t k (f (Tab.get d t k))

/-- The table without the keys that a range holds: every one of them reads the default again. -/
def Tab.clearIn {α : Type} (t : Tab α) (lo hi : Nat) : Tab α :=
  t.filter (fun e => !(decide (lo ≤ e.1) && decide (e.1 < hi)))

/-- The table restricted by a test of the key. -/
def Tab.keep {α : Type} (t : Tab α) (p : Nat → Bool) : Tab α := t.filter (fun e => p e.1)

/-- Keys strictly rising from a bound on. -/
def Tab.rising {α : Type} : Nat → Tab α → Bool
  | _, [] => true
  | n, (k, _) :: r => decide (n ≤ k) && Tab.rising (k + 1) r

/-- The canonical form. -/
def Tab.wf {α : Type} [DecidableEq α] (d : α) (t : Tab α) : Bool :=
  Tab.rising 0 t && t.all (fun e => !decide (e.2 = d))

end Sys2Proof.Machine
end

