-- ==== Sys2Proof/Machine/Bits.lean ====
section
/-! DEFINITION. Bit fields of words, bytes of words (little-endian, R4, R26) and the bit-serial CRC of R285. -/

namespace Sys2Proof.Machine

/-- Bits [lo + n - 1 : lo] of a natural number. -/
def nfld (v lo n : Nat) : Nat := (v >>> lo) % 2 ^ n

/-- Field [lo + n - 1 : lo] of a word. -/
def fld {w : Nat} (v : BitVec w) (lo n : Nat) : Nat := nfld v.toNat lo n

/-- Bit i of a word. -/
def bit {w : Nat} (v : BitVec w) (i : Nat) : Bool := v.getLsbD i

/-- A Boolean as a bit. -/
def b2n (b : Bool) : Nat := if b then 1 else 0

/-- A 32-bit word from a natural number. -/
def w32 (n : Nat) : W32 := BitVec.ofNat 32 n

/-- A mask of n ones from bit lo on. -/
def maskW (lo n : Nat) : W32 := BitVec.ofNat 32 ((2 ^ n - 1) <<< lo)

/-- The word with field [lo + n - 1 : lo] replaced. -/
def setFld (v : W32) (lo n x : Nat) : W32 :=
  (v &&& ~~~ maskW lo n) ||| (BitVec.ofNat 32 ((x % 2 ^ n) <<< lo))

/-- The word with one bit replaced. -/
def setBit (v : W32) (i : Nat) (b : Bool) : W32 := setFld v i 1 (b2n b)

/-- Whether bit i of a natural number is set. -/
def nbit (n i : Nat) : Bool := n.testBit i

/-- Signed value of the low n bits. -/
def sfld (v n : Nat) : Int := if nbit v (n - 1) then (nfld v 0 n : Int) - (2 ^ n : Nat) else (nfld v 0 n : Int)

/-- The low n bits of an integer in two's complement. -/
def ibits (n : Nat) (x : Int) : Nat := (x % (2 ^ n : Nat)).toNat

/-- The k little-endian bytes of a number. -/
def bytesLE (k n : Nat) : List Byte :=
  (List.range k).map (fun i => BitVec.ofNat 8 (n >>> (8 * i)))

/-- The number that little-endian bytes spell. -/
def ofBytesLE : List Byte → Nat
  | [] => 0
  | b :: r => b.toNat + 256 * ofBytesLE r

/-- A saturating 32-bit count. -/
def satInc (v : W32) : W32 := if v.toNat + 1 < 2 ^ 32 then v + 1 else v

/-- A value limited to n bits. -/
def satN (n x : Nat) : Nat := min x (2 ^ n - 1)

/-- One byte through a reflected CRC register of polynomial `poly`. -/
def crcByteR (poly crc : Nat) (b : Byte) : Nat :=
  (List.range 8).foldl (fun c _ => if nbit c 0 then (c >>> 1) ^^^ poly else c >>> 1) (crc ^^^ b.toNat)

/-- Bytes through a reflected CRC register. -/
def crcR (poly init : Nat) (bs : List Byte) : Nat := bs.foldl (crcByteR poly) init

/-- Number of bits set in the low n bits. -/
def popcnt (n v : Nat) : Nat := (List.range n).foldl (fun a i => a + b2n (nbit v i)) 0

/-- The list of the numbers below n whose bit is set. -/
def bitsOf (n v : Nat) : List Nat := (List.range n).filter (nbit v)

/-- The first element of a list that passes a test, with its place. -/
def findIdx? {α : Type} (p : α → Bool) : List α → Option (Nat × α)
  | [] => none
  | a :: r => if p a then some (0, a) else (findIdx? p r).map (fun q => (q.1 + 1, q.2))

end Sys2Proof.Machine
end

