-- ==== Sys2Proof/Machine/RegTable.lean ====
section
/-! DEFINITION. The register pages (R4, R466, R477, R478, R481): where each block's page lies, which registers it holds,
their access codes (R6), writable bits and reset values. -/

namespace Sys2Proof.Machine

/-! ### Unit IDs (R11, R12) -/

def uLevel (u : UnitId) : Nat := fld u 13 3
def uDie (u : UnitId) : Nat := fld u 10 1
def uPav (u : UnitId) : Nat := fld u 8 2
def uClu (u : UnitId) : Nat := fld u 4 4
def uCore (u : UnitId) : Nat := fld u 0 4

/-- A Unit ID that names a unit (R12). -/
def uValid (u : UnitId) : Bool :=
  decide (uLevel u ≤ 4) && decide (fld u 11 2 = 0)
  && (decide (uLevel u < 1) || decide (uCore u = 0))
  && (decide (uLevel u < 2) || decide (uClu u = 0))
  && (decide (uLevel u < 3) || decide (uPav u = 0))
  && (decide (uLevel u < 4) || decide (uDie u = 0))

/-- The Unit ID of fields. -/
def mkUid (level die pav clu core : Nat) : UnitId :=
  BitVec.ofNat 16 (level * 8192 + die * 1024 + pav * 256 + clu * 16 + core)

/-- The cluster number, 0 to 127, of a core or cluster. -/
def cluIx (u : UnitId) : Nat := uDie u * 64 + uPav u * 16 + uClu u
/-- The Pavilion number, 4 × die + Pavilion, 0 to 7, of a core, cluster or Pavilion. -/
def pavIx (u : UnitId) : Nat := uDie u * 4 + uPav u
/-- The Unit ID of Pavilion p (0 to 7). -/
def pavUid (p : Nat) : UnitId := mkUid 2 (p / 4) (p % 4) 0 0
/-- The Unit ID of die d. -/
def dieUid (d : Nat) : UnitId := mkUid 3 d 0 0 0
/-- The package's Unit ID. -/
def pkgUid : UnitId := 0x8000#16

/-- Whether unit v is unit u or one that u encloses (R14). -/
def uEncl (u v : UnitId) : Bool :=
  decide (uLevel v ≤ uLevel u)
  && (decide (4 ≤ uLevel u) || decide (uDie u = uDie v))
  && (decide (3 ≤ uLevel u) || decide (uPav u = uPav v))
  && (decide (2 ≤ uLevel u) || decide (uClu u = uClu v))
  && (decide (1 ≤ uLevel u) || decide (uCore u = uCore v))

/-- Every Unit ID that names a unit, level by level from the cores up (R10). -/
def coreUids : List UnitId :=
  (List.range 2048).map (fun i => mkUid 0 (i / 1024) (i / 256 % 4) (i / 16 % 16) (i % 16))
def cluUids : List UnitId := (List.range 128).map (fun i => mkUid 1 (i / 64) (i / 16 % 4) (i % 16) 0)
def pavUids : List UnitId := (List.range 8).map pavUid
/-- The cores below a unit. -/
def coresOf (u : UnitId) : List UnitId :=
  match uLevel u with
  | 0 => [u]
  | 1 => (List.range 16).map (fun i => mkUid 0 (uDie u) (uPav u) (uClu u) i)
  | 2 => (List.range 256).map (fun i => mkUid 0 (uDie u) (uPav u) (i / 16) (i % 16))
  | 3 => (List.range 1024).map (fun i => mkUid 0 (uDie u) (i / 256) (i / 16 % 16) (i % 16))
  | _ => coreUids
/-- The clusters below or at a unit. -/
def clusOf (u : UnitId) : List UnitId :=
  match uLevel u with
  | 0 => []
  | 1 => [u]
  | 2 => (List.range 16).map (fun i => mkUid 1 (uDie u) (uPav u) i 0)
  | 3 => (List.range 64).map (fun i => mkUid 1 (uDie u) (i / 16) (i % 16) 0)
  | _ => cluUids
/-- The Pavilions below or at a unit. -/
def pavsOf (u : UnitId) : List UnitId :=
  match uLevel u with
  | 0 => []
  | 1 => []
  | 2 => [u]
  | 3 => (List.range 4).map (fun i => mkUid 2 (uDie u) i 0 0)
  | _ => pavUids
/-- The dies below or at a unit. -/
def diesOf (u : UnitId) : List UnitId :=
  match uLevel u with
  | 3 => [u]
  | 4 => [dieUid 0, dieUid 1]
  | _ => []
/-- Every unit that a unit encloses, itself included, members first (R14). -/
def unitsOf (u : UnitId) : List UnitId :=
  coresOf u ++ clusOf u ++ pavsOf u ++ diesOf u ++ (if uLevel u = 4 then [u] else [])
/-- The units that enclose a unit, itself left out. -/
def enclosersOf (u : UnitId) : List UnitId :=
  ([mkUid 1 (uDie u) (uPav u) (uClu u) 0, mkUid 2 (uDie u) (uPav u) 0 0, mkUid 3 (uDie u) 0 0 0, pkgUid]).drop (uLevel u)

/-! ### Page bases -/

/-- Page p of the window of unit u (R12, R477). -/
def uPage (u : UnitId) (p : Nat) : Nat := 0x020000000000 + 0x10000 * u.toNat + 0x1000 * p
/-- Page p of the I/O die (R478). -/
def ioPage (p : Nat) : Nat := 0x021000000000 + 0x1000 * p
/-- Page p of the Gatehouse (R481). -/
def ghPage (p : Nat) : Nat := 0x40000000 + 0x1000 * p

/-- The kinds of block page. -/
inductive PageKind where
  | unit | core | sig | dma | clu | pav | icu | wd | fw | fab | mc | link | replica
  | mem | rp | store | folRx | cvu | pm | gkBoot | gkId | gkMbox | sec | cal | pwr | pcie | msix | sns | csi | eth
  | ghRst | belief | bv | fol | fc | sio | tsm | bs | ghPwr | grt | t1s | svc
  deriving DecidableEq, Repr

/-- The unit whose window holds an address, where it is valid. -/
def winUnit (a : Nat) : Option UnitId :=
  if 0x020000000000 ≤ a ∧ a < 0x020100000000 then
    let u := BitVec.ofNat 16 (a / 0x10000)
    if uValid u then some u else none
  else none

/-- The page that an address lies in: its kind (R477, R478, R481). Reserved pages have none. -/
def pageKind (a : Nat) : Option PageKind :=
  match winUnit a with
  | some u =>
    let p := a / 0x1000 % 16
    match uLevel u, p with
    | _, 0 => some .unit
    | 0, 1 => some .core
    | 0, 2 => some .sig
    | 0, 3 => some .dma
    | 1, 1 => some .clu
    | 2, 1 => some .pav
    | 2, 2 => some .icu
    | 2, 3 => some .wd
    | 2, 4 => some .fw
    | 3, 1 => some .fab
    | 3, 2 => some .mc
    | 3, 3 => some .fw
    | 3, 4 => some .link
    | 3, 5 => some .link
    | 3, 6 => some .link
    | 3, 7 => some .replica
    | _, _ => none
  | none =>
    if 0x021000000000 ≤ a ∧ a < 0x021001000000 then
      let p := a / 0x1000 % 0x1000
      if p = 0x000 then some .mem else if p = 0x001 then some .fw else if p = 0x002 then some .fab
      else if p ≤ 0x005 then some .link else if p = 0x006 then some .replica else if p = 0x010 then some .rp
      else if 0x011 ≤ p ∧ p ≤ 0x01C then some .store else if p = 0x020 then some .folRx
      else if 0x021 ≤ p ∧ p ≤ 0x024 then some .cvu else if p = 0x025 then some .pm else if p = 0x026 then some .icu
      else if 0x027 ≤ p ∧ p ≤ 0x02A then some .wd else if p = 0x030 then some .gkBoot else if p = 0x031 then some .gkId
      else if p = 0x032 then some .gkMbox else if p = 0x033 then some .sec else if p = 0x034 then some .cal
      else if p = 0x035 then some .pwr else if p = 0x040 then some .pcie else if 0x041 ≤ p ∧ p ≤ 0x049 then some .msix
      else if p = 0x050 then some .sns else if 0x051 ≤ p ∧ p ≤ 0x058 then some .csi
      else if 0x059 ≤ p ∧ p ≤ 0x05C then some .eth else none
    else if 0x40000000 ≤ a ∧ a < 0x40100000 then
      let p := a / 0x1000 % 0x100
      match p with
      | 0x00 => some .ghRst
      | 0x01 => some .belief
      | 0x02 => some .bv
      | 0x03 => some .fol
      | 0x04 => some .fc
      | 0x05 => some .sio
      | 0x06 => some .icu
      | 0x07 => some .wd
      | 0x08 => some .wd
      | 0x09 => some .tsm
      | 0x0A => some .cvu
      | 0x0B => some .cvu
      | 0x0C => some .cvu
      | 0x0D => some .cvu
      | 0x0E => some .pm
      | 0x0F => some .pm
      | 0x10 => some .pm
      | 0x11 => some .pm
      | 0x12 => some .bs
      | 0x13 => some .ghPwr
      | 0x14 => some .grt
      | 0x15 => some .t1s
      | 0x16 => some .svc
      | 0x17 => some .cal
      | 0x18 => some .link
      | 0x19 => some .link
      | 0x1A => some .link
      | _ => none
    else none

/-- TYPE of BLK_ID (R467 and the directory tables). -/
def PageKind.type : PageKind → Nat
  | .unit => 0x001 | .core => 0x002 | .sig => 0x003 | .dma => 0x004 | .clu => 0x005 | .pav => 0x006
  | .icu => 0x020 | .wd => 0x021 | .fw => 0x013 | .fab => 0x010 | .mc => 0x012 | .link => 0x011 | .replica => 0x014
  | .mem => 0x015 | .rp => 0x030 | .store => 0 | .folRx => 0x031 | .cvu => 0x022 | .pm => 0x023 | .gkBoot => 0x032
  | .gkId => 0x033 | .gkMbox => 0x034 | .sec => 0x035 | .cal => 0x036 | .pwr => 0x037 | .pcie => 0x038 | .msix => 0
  | .sns => 0x039 | .csi => 0x03A | .eth => 0x03B | .ghRst => 0x040 | .belief => 0x041 | .bv => 0x042 | .fol => 0x043
  | .fc => 0x044 | .sio => 0x045 | .tsm => 0x046 | .bs => 0x047 | .ghPwr => 0x048 | .grt => 0x049 | .t1s => 0x04A
  | .svc => 0x04B

/-! ### Register rows -/

/-- Access codes (R6). -/
inductive Acc where
  | ro | rw | rw1c | w1s | wo | rwl | rwo
  deriving DecidableEq, Repr

/-- One row of a register table: offset, count, stride, access, writable bits and reset value. -/
structure RegRow where
  off : Nat
  n : Nat
  stride : Nat
  acc : Acc
  mask : W32
  reset : W32
  deriving DecidableEq, Repr

/-- A single register. -/
def row1 (off : Nat) (acc : Acc) (mask reset : W32) : RegRow := ⟨off, 1, 4, acc, mask, reset⟩
/-- A counter: RW over all bits, reset 0. -/
def rowC (off : Nat) : RegRow := ⟨off, 1, 4, .rw, 0xFFFFFFFF#32, 0⟩
/-- A read-only register with reset 0. -/
def rowR (off : Nat) : RegRow := ⟨off, 1, 4, .ro, 0, 0⟩

/-- The common header's writable registers (R466). -/
def headRows : List RegRow :=
  [rowR 0x000, rowR 0x004, row1 0x008 .rw 3#32 1#32, row1 0x00C .ro 0 1#32, rowR 0x010, rowR 0x014,
   row1 0x018 .rw1c 0xFFFFFFFF#32 0, row1 0x01C .rw 0xFFFFFFFF#32 0, row1 0x020 .rw 0xFFFF#32 0,
   row1 0x024 .w1s 1#32 0, rowR 0x028]

/-- The unit control page's header (R374, R472, R475). -/
def unitRows : List RegRow :=
  [row1 0x010 .rw 0xFFFF0017#32 0x03E80000#32, row1 0x014 .ro 0 4#32, row1 0x028 .rw 0xFFF#32 0,
   rowR 0x040, row1 0x044 .rw 3#32 0, ⟨0x048, 4, 4, .rw, 0xFFFFFFFF#32, 0⟩]

/-- Core page (R82). -/
def coreRows : List RegRow :=
  [rowR 0x040, row1 0x044 .rw1c 0x3F#32 0, ⟨0x048, 4, 4, .rw, 0xFFFFFFFF#32, 0⟩, rowR 0x058,
   row1 0x05C .rwl 0xFFFFFFFF#32 0, row1 0x060 .rw 0x3FFFD#32 0, rowR 0x064, rowR 0x068, rowC 0x06C,
   row1 0x070 .rw 0xFFFFFFFF#32 0x100#32, rowR 0x074, rowR 0x078, row1 0x07C .w1s 1#32 0, row1 0x080 .wo 1#32 0]

/-- Signature engine page (R84). -/
def sigRows : List RegRow :=
  [rowC 0x040, row1 0x044 .rw 1#32 0, rowR 0x048, rowR 0x04C,
   ⟨0x080, 4, 0x20, .rw, 0x800FFFFF#32, 0⟩, ⟨0x084, 4, 0x20, .rw, 0x1FFFF#32, 0⟩,
   ⟨0x088, 4, 0x20, .rw, 0xFFFFFFFF#32, 0⟩, ⟨0x08C, 4, 0x20, .rw, 0xFFFFFFFF#32, 0⟩,
   ⟨0x090, 4, 0x20, .rw, 0xFFFFFFFF#32, 0⟩, ⟨0x094, 4, 0x20, .rw, 0xFFFF#32, 0⟩,
   ⟨0x098, 4, 0x20, .rw, 0x3FFFFF#32, 0⟩, ⟨0x09C, 4, 0x20, .rw, 0xFFFFFFFF#32, 0⟩]

/-- DMA page (R85). -/
def dmaRows : List RegRow :=
  [⟨0x040, 4, 4, .ro, 0, 0⟩, ⟨0x050, 4, 4, .ro, 0, 0⟩, row1 0x060 .rw 0xFFFFFFFF#32 0x1000#32, rowC 0x064, rowC 0x068,
   rowC 0x06C]

/-- Cluster page (R86). -/
def cluRows : List RegRow := [row1 0x040 .rw 0x1010F#32 0]

/-- Interrupt controller page (R270, R271). -/
def icuRows : List RegRow :=
  [rowR 0x040, row1 0x044 .rw 1#32 0, ⟨0x060, 4, 0x10, .rw, 0xF#32, 0⟩, ⟨0x064, 4, 0x10, .ro, 0, 0⟩,
   ⟨0x068, 4, 0x10, .wo, 0x1FF#32, 0⟩, ⟨0x06C, 4, 0x10, .ro, 0, 0⟩, ⟨0x100, 8, 4, .ro, 0, 0⟩,
   ⟨0x140, 8, 4, .rw1c, 0xFFFFFFFF#32, 0⟩, ⟨0x180, 8, 4, .ro, 0, 0⟩, ⟨0x800, 256, 8, .rw, 0xFFFF07F7#32, 0⟩,
   ⟨0x804, 256, 8, .ro, 0, 0⟩]

/-- Watchdog page (R279). -/
def wdRows : List RegRow :=
  [row1 0x040 .rwo 0xF#32 0, row1 0x044 .rwo 0xFFFFFF#32 0, row1 0x048 .rwo 0xFFFFFF#32 0, row1 0x04C .wo 0xFFFF#32 0,
   rowR 0x050, rowR 0x054, rowR 0x058, rowR 0x05C, rowR 0x060, row1 0x064 .wo 1#32 0, rowC 0x068]

/-- Firewall page (R138). -/
def fwRows : List RegRow :=
  [rowR 0x040, rowR 0x044, rowR 0x048, rowR 0x04C, row1 0x050 .wo 1#32 0, rowC 0x054, rowC 0x058,
   ⟨0x100, 32, 0x10, .rwl, 0xFFFFFFFF#32, 0⟩, ⟨0x104, 32, 0x10, .rwl, 0xFFFFFFFF#32, 0⟩,
   ⟨0x108, 32, 0x10, .rwl, 0x0FFF0FFF#32, 0⟩, ⟨0x10C, 32, 0x10, .rwl, 0xFF7#32, 0⟩]

/-- Fabric page (R168). -/
def fabRows : List RegRow :=
  [rowR 0x040, row1 0x044 .rw 0x3FFF#32 0x64#32, row1 0x048 .rw 0xFF#32 0x14#32, row1 0x04C .rw 0xF#32 2#32, rowC 0x050,
   rowC 0x054, rowC 0x058, rowC 0x05C, rowC 0x060, rowC 0x064, rowC 0x068, rowR 0x06C]

/-- Memory controller page (R143). -/
def mcRows : List RegRow :=
  [rowR 0x040, rowC 0x044, row1 0x048 .rw 0xFFFFFFFF#32 0x1000#32, rowC 0x04C, rowC 0x050, rowR 0x054, rowR 0x058,
   row1 0x05C .wo 1#32 0, row1 0x060 .rw 0xFF#32 8#32, rowR 0x064, rowR 0x068, rowR 0x06C, rowR 0x070]

/-- Link end page (R169). -/
def linkRows : List RegRow :=
  [rowR 0x040, row1 0x044 .wo 1#32 0, row1 0x048 .rwl 0xFFFFFF1F#32 0x03E81001#32, rowR 0x04C, rowR 0x050, rowR 0x054,
   rowR 0x058, rowR 0x05C, rowC 0x060, rowC 0x064, row1 0x068 .rw 0xFFFF#32 0x2710#32]

/-- Replica page (R333). -/
def replicaRows : List RegRow :=
  [rowR 0x040, rowR 0x044, ⟨0x048, 4, 4, .ro, 0, 0⟩, row1 0x058 .ro 0 2#32, row1 0x05C .rw 1#32 0, ⟨0x060, 4, 4, .ro, 0, 0⟩]

/-- Memory-map page (R142). -/
def memRows : List RegRow := [row1 0x040 .rw 0x7F#32 0]

/-- Run-plan page (R111). -/
def rpRows : List RegRow :=
  [rowR 0x040, row1 0x044 .wo 1#32 0, rowC 0x048, rowR 0x04C, row1 0x050 .rw 0xFFFF0003#32 1#32,
   row1 0x054 .rw 0xFFFF0003#32 1#32, row1 0x060 .wo 0xF#32 0, rowC 0x064, row1 0x068 .rw 0xFFFF#32 0, rowR 0x06C,
   row1 0x070 .rw 0xFFFFFFFF#32 0xC8#32, rowR 0x074, rowC 0x080, rowC 0x084, rowC 0x088, rowC 0x08C, rowC 0x090,
   ⟨0x400, 64, 0x10, .rw, 0xFFFFFFFF#32, 0⟩, ⟨0x404, 64, 0x10, .rw, 0xFFFF#32, 0⟩, ⟨0x408, 64, 0x10, .rw, 0xFF0F#32, 0⟩,
   ⟨0x40C, 64, 0x10, .ro, 0, 0xFFFFFFFF#32⟩]

/-- Plain storage pages (R479). -/
def storeRows : List RegRow := [⟨0, 1024, 4, .rw, 0xFFFFFFFF#32, 0⟩]

/-- Folly receive half (R221). -/
def folRxRows : List RegRow :=
  [row1 0x040 .rwl 0xFFFC0000#32 0, row1 0x044 .rwl 0xFFFF#32 0, ⟨0x100, 32, 0x10, .rw, 0x3FFF0003#32, 0⟩,
   ⟨0x104, 32, 0x10, .rw, 0xFFFFFFFF#32, 0⟩, ⟨0x108, 32, 0x10, .ro, 0, 0x100#32⟩, ⟨0x10C, 32, 0x10, .rw, 0xFFFFFFFF#32, 0⟩]

/-- Check-value unit page (R290). -/
def cvuRows : List RegRow :=
  [row1 0x040 .rw 0x107#32 0x103#32, rowC 0x044, rowC 0x048, row1 0x04C .wo 1#32 0, row1 0x050 .wo 0xFF#32 0,
   row1 0x054 .wo 0xFFFF#32 0, row1 0x058 .wo 0xFFFFFFFF#32 0, row1 0x05C .rw 0xFFFFFFFF#32 0xFFFFFFFF#32, rowC 0x060,
   rowR 0x064, rowR 0x068, rowC 0x06C, rowC 0x070, row1 0x074 .ro 0 0xD#32, rowR 0x078]

/-- Protected message receiver page (R302). -/
def pmRows : List RegRow :=
  [rowR 0x040, rowC 0x044, rowC 0x048, rowC 0x04C, rowC 0x050, rowC 0x054, rowC 0x058, rowC 0x05C, rowC 0x060, rowR 0x064,
   row1 0x068 .wo 1#32 0, row1 0x06C .rw 0xFFFF#32 0, rowR 0x070]

/-- Groundskeeper boot page (R386). -/
def gkBootRows : List RegRow :=
  [row1 0x040 .rw 0xF70F#32 0, row1 0x044 .rw 0xFFFF0077#32 0, rowC 0x048, rowC 0x04C]

/-- Groundskeeper identification page (R448). -/
def gkIdRows : List RegRow :=
  [row1 0x040 .ro 0 0x20484200#32, rowC 0x044, row1 0x048 .rw 7#32 0, rowC 0x04C, row1 0x050 .wo 1#32 0, rowR 0x054,
   row1 0x058 .rw 0xFFF#32 0x3C#32]

/-- Host mailbox (R449). -/
def gkMboxRows : List RegRow :=
  [row1 0x040 .rw 0xFFFF000F#32 0, ⟨0x044, 7, 4, .rw, 0xFFFFFFFF#32, 0⟩, row1 0x060 .rw 0xFFFF00FF#32 0, rowC 0x064,
   row1 0x068 .rw 0x87FF#32 0, row1 0x070 .rw 0xFFFFF000#32 0, row1 0x074 .rw 0xFFFF#32 0, row1 0x078 .rw 0x7FFF#32 0,
   rowC 0x07C, rowC 0x080]

/-- Grotto mailbox (R427). -/
def secRows : List RegRow :=
  [rowC 0x040, ⟨0x100, 64, 4, .rw, 0xFFFFFFFF#32, 0⟩, ⟨0x200, 8, 4, .rwo, 0xFFFFFFFF#32, 0⟩,
   row1 0x220 .rwo 0xFFFFFFFF#32 0, row1 0x224 .rwo 0x80000003#32 0, row1 0x300 .rw 0xFFFF000F#32 0,
   ⟨0x304, 15, 4, .rw, 0xFFFFFFFF#32, 0⟩, rowC 0x340, row1 0x380 .rw 0xFFFF00FF#32 0, rowC 0x384,
   ⟨0x3A0, 8, 4, .rw, 0xFFFFFFFF#32, 0⟩]

/-- Calibration page (R450). -/
def calRows : List RegRow :=
  [row1 0x040 .rw 0xFF#32 0, rowR 0x044, rowC 0x048, rowR 0x04C, rowR 0x050, rowR 0x054, rowR 0x058, rowR 0x05C, rowR 0x060]

/-- Power page (R403). -/
def pwrRows : List RegRow :=
  [row1 0x040 .rw 3#32 2#32, row1 0x044 .ro 0 0x28#32, rowR 0x048, rowR 0x04C, rowR 0x050, ⟨0x054, 2, 4, .rw, 3#32, 0⟩,
   ⟨0x05C, 2, 4, .ro, 0, 0x28#32⟩, ⟨0x080, 8, 4, .rw, 3#32, 1#32⟩, ⟨0x0A0, 8, 4, .ro, 0, 0x01F40004#32⟩,
   row1 0x0C0 .rw 0x7F#32 0, rowR 0x0C4, rowC 0x0C8, rowC 0x0CC, rowC 0x0D0]

/-- Host link page (R360). -/
def pcieRows : List RegRow :=
  [rowR 0x040, row1 0x044 .rw 0xFF1#32 0, row1 0x048 .rw 0x1F07#32 0x1005#32, row1 0x04C .wo 1#32 0, rowC 0x050, rowC 0x054,
   rowC 0x058, rowC 0x05C, ⟨0x084, 15, 4, .rw, 0xFFFF#32, 0⟩, ⟨0x400, 256, 4, .rw, 0xFFFFFFFF#32, 0⟩]

/-- Sensor source page (R361). -/
def snsRows : List RegRow :=
  [rowC 0x040, rowC 0x044, ⟨0x100, 32, 0x20, .rw, 0xFFFFFF#32, 0⟩, ⟨0x104, 32, 0x20, .rw, 0xFFFFF000#32, 0⟩,
   ⟨0x108, 32, 0x20, .rw, 0xFFFF#32, 0⟩, ⟨0x10C, 32, 0x20, .rw, 0xFFFFFFFF#32, 0⟩,
   ⟨0x110, 32, 0x20, .rw, 0x3FFFFFFF#32, 0⟩, ⟨0x114, 32, 0x20, .rw, 0x07FF07FF#32, 0⟩,
   ⟨0x118, 32, 0x20, .rw, 0x000707FF#32, 0⟩, ⟨0x11C, 32, 0x20, .ro, 0, 0⟩]

/-- CSI-2 port page (R362). -/
def csiRows : List RegRow :=
  [row1 0x040 .rw 0x0FFFFFFF#32 0, row1 0x044 .wo 1#32 0, rowR 0x048, rowC 0x04C, rowC 0x050, rowC 0x054, rowC 0x058]

/-- MAC page (R363). -/
def ethRows : List RegRow :=
  [row1 0x040 .rw 0x37#32 0, rowR 0x044, row1 0x048 .rw 0x3FFF#32 0x5EE#32, row1 0x04C .rw 0xFF#32 0, rowC 0x050, rowC 0x054,
   rowC 0x058, rowC 0x05C]

/-- Gatehouse reset page (R385). -/
def ghRstRows : List RegRow :=
  [rowR 0x040, row1 0x044 .wo 1#32 0, row1 0x048 .rw 1#32 0, row1 0x04C .wo 3#32 0, rowR 0x050]

/-- Belief page (R200). -/
def beliefRows : List RegRow :=
  [row1 0x040 .rw 0x3FFF#32 0x3E8#32, row1 0x044 .rw 0x7F#32 0xA#32, ⟨0x048, 4, 4, .rw, 0x1FFF#32, 0x5DC#32⟩,
   ⟨0x058, 4, 4, .ro, 0, 4#32⟩, ⟨0x068, 8, 4, .ro, 0, 0⟩, ⟨0x088, 8, 4, .ro, 0, 0x77777777#32⟩, row1 0x0A8 .rw 0x3F#32 0,
   row1 0x0AC .ro 0 7#32, rowR 0x0B0, rowR 0x0B4, rowR 0x0B8, rowC 0x0BC, rowC 0x0C0, rowC 0x0C4, rowC 0x0C8]

/-- Belvedere page (R201). -/
def bvRows : List RegRow :=
  [rowR 0x040, row1 0x044 .rwl 0xFE000000#32 0, row1 0x048 .rwl 0xFFFF#32 0, row1 0x04C .rwl 0xFE000000#32 0,
   row1 0x050 .rwl 0xFFFF#32 0, row1 0x054 .rw 0xFFF#32 0x3C#32, row1 0x058 .rw 0xFFFFF#32 0, rowR 0x05C, rowC 0x060,
   rowC 0x064, rowC 0x068, rowC 0x06C, rowC 0x070, rowC 0x074, rowC 0x078, rowC 0x07C, rowC 0x080, rowR 0x084, rowR 0x088,
   row1 0x08C .wo 1#32 0]

/-- Folly page of the Gatehouse (R220). -/
def folRows : List RegRow :=
  [rowR 0x040, row1 0x044 .rw 0x3FF#32 0x64#32, rowC 0x048, rowR 0x04C, rowR 0x050, rowR 0x054, row1 0x058 .wo 1#32 0,
   row1 0x05C .rw 0x3F#32 0, rowR 0x060, rowR 0x064, rowC 0x068, rowC 0x06C, rowC 0x070, rowC 0x074, rowC 0x078, rowC 0x07C,
   rowC 0x080, rowC 0x084, rowC 0x088]

/-- Fault collector page (R237). -/
def fcRows : List RegRow :=
  [rowR 0x040, rowR 0x044, row1 0x048 .ro 0 7#32, row1 0x04C .wo 0xFFFF#32 0, rowR 0x050, row1 0x054 .wo 0x8000003F#32 0,
   row1 0x058 .rw 0x3F#32 0, rowR 0x05C, rowR 0x060, rowR 0x064, rowR 0x068, rowC 0x06C, rowC 0x070, rowC 0x074, rowC 0x078,
   ⟨0x100, 16, 0x10, .ro, 0, 7#32⟩, ⟨0x104, 16, 0x10, .rw, 0xFFFF#32, 0⟩, ⟨0x108, 16, 0x10, .rw, 0xFF#32, 0⟩,
   ⟨0x10C, 16, 0x10, .rw, 0xFFFFFFFF#32, 0⟩]

/-- Safety I/O page (R261). -/
def sioRows : List RegRow :=
  [rowR 0x040, rowR 0x044, rowR 0x048, rowR 0x04C, rowR 0x050, row1 0x054 .wo 1#32 0, row1 0x058 .wo 0xF#32 0,
   row1 0x05C .rw 0xF#32 0, row1 0x060 .w1s 0xF#32 0, rowC 0x064, rowC 0x068, rowC 0x06C, rowC 0x070, ⟨0x080, 16, 4, .ro, 0, 0⟩,
   ⟨0x100, 16, 8, .ro, 0, 0⟩, ⟨0x104, 16, 8, .ro, 0, 0⟩, ⟨0x200, 4, 8, .ro, 0, 0⟩, ⟨0x204, 4, 8, .ro, 0, 0x4004#32⟩]

/-- Task sequence monitor page (R283). -/
def tsmRows : List RegRow :=
  [rowC 0x040, rowC 0x044, rowR 0x048, rowR 0x04C, row1 0x050 .wo 1#32 0, ⟨0x400, 256, 4, .ro, 0, 0⟩, ⟨0x800, 256, 4, .ro, 0, 0⟩]

/-- Bandstand page (R331, R332). -/
def bsRows : List RegRow :=
  [⟨0x040, 6, 4, .ro, 0, 0⟩, row1 0x058 .rw 0xFF0003#32 0x00C80002#32, row1 0x05C .rw 0xFFFFFFFF#32 0x03E80064#32,
   row1 0x060 .ro 0 0x11#32, rowR 0x064, row1 0x068 .ro 0 2#32, ⟨0x06C, 6, 4, .ro, 0, 0⟩, rowC 0x084,
   row1 0x088 .rw 0xFF#32 2#32, row1 0x08C .rw 0xFFFF#32 0, rowC 0x090, rowC 0x094, row1 0x098 .rw 0xFFFF#32 0,
   row1 0x09C .wo 3#32 0, row1 0x0A0 .rwl 0xFFFFF000#32 0, row1 0x0A4 .rwl 0xFFFF#32 0, rowC 0x0A8, rowC 0x0AC, rowC 0x0B0,
   rowC 0x0B4, ⟨0x0C0, 3, 4, .ro, 0, 0x200#32⟩, ⟨0x0D0, 3, 4, .rw, 0x3FF#32, 0⟩, row1 0x0E0 .rw 0xFF0F#32 0,
   row1 0x0E4 .rw1c 0xF#32 0, rowR 0x0E8, ⟨0x100, 2, 0x40, .rw, 0x17F#32, 0⟩, ⟨0x104, 2, 0x40, .ro, 0, 0⟩,
   ⟨0x108, 2, 0x40, .ro, 0, 0⟩, ⟨0x10C, 2, 0x40, .ro, 0, 0⟩, ⟨0x110, 2, 0x40, .ro, 0, 0⟩, ⟨0x114, 2, 0x40, .ro, 0, 0⟩,
   ⟨0x118, 2, 0x40, .ro, 0, 0⟩, ⟨0x11C, 2, 0x40, .ro, 0, 0⟩, ⟨0x120, 2, 0x40, .ro, 0, 0⟩, ⟨0x124, 2, 0x40, .ro, 0, 0⟩,
   ⟨0x128, 2, 0x40, .ro, 0, 0⟩, ⟨0x12C, 2, 0x40, .ro, 0, 0⟩, ⟨0x180, 8, 4, .ro, 0, 0⟩, row1 0x1A0 .rw 0x03FF0001#32 0x00640000#32,
   rowR 0x1C0, rowR 0x1C4, ⟨0x200, 16, 4, .ro, 0, 0⟩, ⟨0x400, 64, 0x20, .rw, 0x3F#32, 0⟩,
   ⟨0x404, 64, 0x20, .rw, 0xFFFFFFFF#32, 0⟩, ⟨0x408, 64, 0x20, .rw, 0xFFFFFFFF#32, 0⟩, ⟨0x40C, 64, 0x20, .rw, 0xFFFFFFFF#32, 0⟩,
   ⟨0x410, 64, 0x20, .rw, 0xFFFFFFFF#32, 0⟩, ⟨0x414, 64, 0x20, .rw, 0xFFFFFFFF#32, 0⟩, ⟨0x418, 64, 0x20, .ro, 0, 0⟩,
   ⟨0x41C, 64, 0x20, .ro, 0, 0⟩]

/-- Gatehouse power page (R404). -/
def ghPwrRows : List RegRow :=
  [row1 0x040 .wo 3#32 0, row1 0x044 .ro 0 1#32, rowR 0x048, row1 0x04C .rw 0xF#32 0, rowR 0x050]

/-- Grotto page (R426). -/
def grtRows : List RegRow :=
  [rowR 0x040, rowR 0x044, rowR 0x048, rowR 0x04C, rowR 0x050, rowR 0x054, rowR 0x058, row1 0x05C .rw 7#32 0,
   ⟨0x060, 8, 4, .ro, 0, 0⟩, rowR 0x080, rowC 0x084, rowC 0x088]

/-- 10BASE-T1S page (R364). -/
def t1sRows : List RegRow :=
  [rowR 0x040, rowR 0x044, rowR 0x048, rowR 0x04C, rowR 0x050, rowR 0x054, rowR 0x058, rowC 0x05C, rowC 0x060, rowC 0x064,
   rowC 0x068, row1 0x06C .rw 0xFFFF#32 0, ⟨0x110, 7, 0x10, .ro, 0, 0⟩, ⟨0x114, 7, 0x10, .ro, 0, 0⟩,
   ⟨0x118, 7, 0x10, .ro, 0, 0⟩, ⟨0x11C, 7, 0x10, .ro, 0, 0⟩]

/-- The rows of a page kind after the header. -/
def PageKind.rows : PageKind → List RegRow
  | .unit => unitRows | .core => coreRows | .sig => sigRows | .dma => dmaRows | .clu => cluRows | .pav => []
  | .icu => icuRows | .wd => wdRows | .fw => fwRows | .fab => fabRows | .mc => mcRows | .link => linkRows
  | .replica => replicaRows | .mem => memRows | .rp => rpRows | .store => storeRows | .folRx => folRxRows
  | .cvu => cvuRows | .pm => pmRows | .gkBoot => gkBootRows | .gkId => gkIdRows | .gkMbox => gkMboxRows | .sec => secRows
  | .cal => calRows | .pwr => pwrRows | .pcie => pcieRows | .msix => storeRows | .sns => snsRows | .csi => csiRows
  | .eth => ethRows | .ghRst => ghRstRows | .belief => beliefRows | .bv => bvRows | .fol => folRows | .fc => fcRows
  | .sio => sioRows | .tsm => tsmRows | .bs => bsRows | .ghPwr => ghPwrRows | .grt => grtRows | .t1s => t1sRows
  | .svc => [rowR 0x040]

/-- Whether the page has the common header (R4, R479). -/
def PageKind.hasHead : PageKind → Bool
  | .store => false
  | .msix => false
  | _ => true

/-- Whether a row holds the register at an offset. -/
def RegRow.covers (r : RegRow) (off : Nat) : Bool :=
  decide (r.off ≤ off) && decide ((off - r.off) % r.stride = 0) && decide ((off - r.off) / r.stride < r.n)

/-- The row of the register at an address, if there is one (R5). -/
def regRow (a : Nat) : Option RegRow :=
  match pageKind a with
  | none => none
  | some k => (k.rows ++ (if k.hasHead then headRows else [])).find? (fun r => r.covers (a % 0x1000))

/-- Quiet period in ms and recovery budget of class k by default (R227). -/
def fcDefault (k : Nat) : Nat × Nat :=
  ([(0, 0), (0, 0), (1000, 2), (1000, 4), (100, 8), (100, 8), (100, 16), (100, 4), (10, 64), (100, 4), (100, 8), (1000, 4),
    (1000, 2), (50, 16), (1000, 64), (1000, 8)] : List (Nat × Nat)).getD k (0, 0)

/-- Top page of the range that a firewall instance guards (R133, R137). -/
def fwTop (a : Nat) : Nat :=
  match winUnit a with
  | some u => 0x20000000 + u.toNat * 0x10 + 0xF
  | none => 0x21000FFF

/-- The reset value of the register at an address: the table's, and the values that differ from one instance to the
next (R111, R137, R227, R332); a masked MSI-X entry is the PCI Express reset value (PRESUMED, R340). -/
def regReset (a : Nat) : W32 :=
  match pageKind a, a % 0x1000 with
  | some .fw, 0x104 => w32 (fwTop a)
  | some .fw, 0x108 => 0x0FFF0001#32
  | some .fw, 0x10C => 7#32
  | some .msix, o => if a < ioPage 0x049 ∧ o % 16 = 12 then 1#32 else 0
  | some .bs, 0x400 => 3#32
  | some .rp, 0x01C => 3#32
  | some .fc, 0x01C => 1#32
  | some .fc, o =>
    if 0x100 ≤ o ∧ o < 0x200 ∧ o % 0x10 = 4 then w32 (fcDefault ((o - 0x100) / 0x10)).1
    else if 0x100 ≤ o ∧ o < 0x200 ∧ o % 0x10 = 8 then w32 (fcDefault ((o - 0x100) / 0x10)).2
    else match regRow a with
      | some r => r.reset
      | none => 0
  | _, _ =>
    match regRow a with
    | some r => r.reset
    | none => 0

end Sys2Proof.Machine
end

