-- ==== Sys2Proof/Machine/Names.lean ====
section
/-! DEFINITION. Which units, instances and indices the part has. -/

namespace Sys2Proof.Machine

/-- A Unit ID that names a logical core. -/
def coreOk (u : UnitId) : Bool := uValid u && decide (uLevel u = 0)

/-- The die whose stack holds a canonical address (R112). -/
def dramDie (a : Nat) : Option Nat :=
  if a < 0x600000000 then some 0 else if a < 0xC00000000 then some 1 else none

/-- Whether a die number and a line address name a line of that die's stack. -/
def mcLineOk (d a : Nat) : Bool := decide (dramDie a = some d) && decide (a % 64 = 0)

/-- Windows of firewall instance i: 0 and 1 the memory controllers, 2 to 9 the Pavilion ports, 10 the I/O die (R133). -/
def fwCount (i : Nat) : Nat := if 2 ≤ i ∧ i < 10 then 16 else 32

/-- Sources of an interrupt controller instance (R262): 0 the Gatehouse's, 1 the Groundskeeper's, 2 to 9 the Pavilions'. -/
def icuCount (i : Nat) : Nat := if i = 0 then 128 else if i = 1 then 256 else 64

/-- Targets of an instance (R262). -/
def icuTargets (i : Nat) : Nat := if i = 1 then 4 else 1

/-- A source of an instance that is not reserved (R262, R478, R480). -/
def icuSrcOk (i n : Nat) : Bool :=
  decide (1 ≤ n) &&
  (if i = 0 then decide (n ≤ 16) || (decide (65 ≤ n) && decide (n ≤ 128))
   else if i = 1 then decide (n ≤ 98) || (decide (129 ≤ n) && decide (n ≤ 168) && !(decide (n ≤ 160) && decide (12 ≤ (n - 129) % 16)))
   else decide (i < 10) && decide (n ≤ 20))

/-- A target of an instance. -/
def icuTgtOk (i t : Nat) : Bool := decide (i < 10) && decide (t < icuTargets i)

end Sys2Proof.Machine
end

