-- ==== Sys2Proof/Machine/State.lean ====
section
/-! DEFINITION. The state of the part as plain data. Software-visible registers stand in `regs`, keyed by their address;
what the spec gives a block beside its registers stands in the block's own structure. Every array is a sparse table. -/

namespace Sys2Proof.Machine

/-! ### Compute cores (R43 to R86) -/

/-- A descriptor that waits in a queue (R50): its scratchpad address, its words, the core's issues before it, and the seed of the
stochastic-rounding generator under which it was issued (R37). -/
structure QItem where
  addr : Nat
  words : List W32
  id : Nat
  epoch : Nat
  deriving DecidableEq, Repr

/-- A descriptor in progress in a DMA channel or the tensor queue (R49): its words, the scratchpad address it was
submitted from, the rows done, whether it stalls for a signature context (R75), since when its next access has been answered
TARGET_DRAINING and when it is reissued (R150), and the seed under which it was issued (R37). -/
structure DescRun where
  words : List W32
  addr : Nat
  pos : Nat
  stalled : Bool
  wait : Option (Tick × Tick)
  epoch : Nat
  deriving DecidableEq, Repr

/-- An instruction of the vector queue (R43): class V with its operation, class M with its funct3, or VSETS. -/
inductive VOp where
  | v (a : VArgs) (op : Nat)
  | m (a : MArgs) (f3 : Nat)
  | sets (fs1 : RegNo)
  deriving DecidableEq, Repr

/-- An instruction in the vector queue: the x and f operands read at its issue (rs1, rs2, fs1, fs2), the core's issues before it, its
seed (R37), and whether it has been performed and waits for its completion only. -/
structure VItem where
  op : VOp
  x1 : W32
  x2 : W32
  f1 : W32
  f2 : W32
  id : Nat
  epoch : Nat
  done : Bool
  deriving DecidableEq, Repr

/-- A core queue (R49 to R52): descriptors that wait, the one in progress, in the tensor queue one that is being written out beside it
(R57), the completion counter and the halt state. -/
structure QueueSt where
  waiting : List QItem
  running : Option DescRun
  out : Option DescRun
  counter : BitVec 16
  halted : Bool
  cause : BitVec 3
  failed : Nat
  deriving DecidableEq, Repr

/-- A queue after core reset. -/
def QueueSt.init : QueueSt := ⟨[], none, none, 0, false, 0, 0⟩

/-- Run-ahead data in a channel's buffer (R71): the ticket of the descriptor it was read for, its address, its words, poison as none,
and the halt cause that demanding the poison gives. -/
structure RaData where
  chan : Nat
  ticket : BitVec 16
  addr : Nat
  data : List (Option W32)
  cause : Nat
  deriving DecidableEq, Repr

/-- A signature message waiting for the Gatehouse link (R76). -/
structure SigMsg where
  payload : List Byte
  deriving DecidableEq, Repr

/-- A physical core (R44 to R86). -/
structure CoreSt where
  /-- The sequencer runs (released through CORE_BOOT, R82). -/
  run : Bool
  /-- The sequencer waits in WFI. -/
  wfi : Bool
  pc : W32
  /-- x1 to x31. -/
  x : Tab W32
  /-- f0 to f31. -/
  f : Tab W32
  fcsr : BitVec 8
  /-- The machine-mode CSRs, by CSR number. -/
  csr : Tab W32
  /-- Core cycles beside those of the ticks since the clock started (R44, R82). -/
  cycle : W64
  /-- Instructions retired. -/
  instret : W64
  /-- v0 to v31: key 32 × register + lane. -/
  v : Tab W32
  /-- p0 to p3. -/
  p : Tab W32
  vscale : W32
  /-- Accumulators: key 256 × set + 16 × row + column. -/
  acc : Tab W32
  /-- Whether a set holds INT32 values. -/
  accInt : Tab Bool
  /-- Stochastic-rounding generator (R37): the state that the next instruction issued draws from, the seeds written so far, and the states
that work issued under earlier ones still draws from. -/
  gen : BitVec 128
  epoch : Nat
  olds : Tab (BitVec 128)
  /-- Queues 1 to 6 (R49). -/
  q : Tab QueueSt
  /-- Instructions in the vector queue, and queue entries issued so far. -/
  vq : List VItem
  issued : Nat
  ra : List RaData
  /-- BUSY of context n for channel c: bit 4n + c (R77). -/
  sigBusy : BitVec 16
  sigQ : List SigMsg
  sigSent : W32
  /-- The run whose header the sequencer wrote last (R99): bank, entry, kind, RUN_SEQ, copy. -/
  hdr : Option (Nat × Nat × Bool × W32 × Bool)
  /-- Next scratchpad line of the scrubber (R62). -/
  scrub : Nat
  deriving DecidableEq, Repr

/-- A core as its reset leaves it (R63, R64). -/
def CoreSt.init : CoreSt :=
  ⟨false, false, 0, [], [], 0, [], 0, 0, [], [], 0, [], [], 0, 0, [], [], [], 0, [], 0, [], 0, none, 0⟩

/-! ### Protected messages (R292 to R302) -/

/-- A receiver's stream record (R298): the expected SEQ, the STAMP and time of the last acceptance. -/
structure PmStream where
  seen : Bool
  expect : BitVec 16
  stamp : BitVec 32
  last : Tick
  timedOut : Bool
  /-- Transfer assembly (R297): 0 idle, 1 assembling, 2 discarding the rest. -/
  xfer : Nat
  xferData : List Byte
  deriving DecidableEq, Repr

def PmStream.init : PmStream := ⟨false, 0, 0, 0, false, 0, []⟩

/-! ### Memory and firewalls (R112 to R143) -/

/-- A firewall window as it is in force (R136): BASE, LIMIT, DOM and CTRL. -/
structure FwWin where
  base : W32
  limit : W32
  dom : W32
  ctrl : W32
  deriving DecidableEq, Repr

/-! ### Watchdogs (R272 to R279) -/

/-- A watchdog beside its registers: when counting began or resumed, ticks counted before that, configuration held for the
next service, whether its keys were interrupted, whether its configuration bites, RWO writes taken, and its bite's time and
the boundary that followed. -/
structure WdSt where
  since : Tick
  counted : Nat
  heldCtrl : Option W32
  heldOpen : Option W32
  heldClose : Option W32
  broken : Bool
  badCfg : Bool
  started : Bool
  wroteOpen : Bool
  wroteClose : Bool
  biteAt : Tick
  boundary : Option Tick
  deriving DecidableEq, Repr

def WdSt.init : WdSt := ⟨0, 0, none, none, none, false, false, false, false, false, 0, none⟩

/-! ### Fault collector and belief evidence (R176, R222 to R237) -/

/-- A group of the collector beside its GH_FSW bit; `named` where its first source since it last latched is known. -/
structure FcGrp where
  named : Bool
  injected : Bool
  forced : Bool
  events : BitVec 16
  last : Option Tick
  unit : BitVec 16
  page : Nat
  errBit : Nat
  time : Tick
  deriving DecidableEq, Repr

def FcGrp.init : FcGrp := ⟨false, false, false, 0, none, 0, 0, 0, 0⟩

/-- A class of the collector beside FC_CLASSk_STAT: its last event, the tick on which its last high source fell, its recoveries in the
current minute and the 59 before it; of its last event's tick the level before it, the groups that had events on it, ascending, and
how often they raised the level; and the quiet period that a write replaced, with its tick. -/
structure FcCls where
  event : Tick
  fell : Tick
  mins : List Nat
  before : Nat
  groups : List Nat
  rises : Nat
  quiet : Option (Nat × Tick)
  deriving DecidableEq, Repr

def FcCls.init : FcCls := ⟨0, 0, [], 7, [], 0, none⟩

/-- Where a LATENT event or checker lies (R219): Pavilion, die, the I/O die (on paths with sensors, or on none), Gatehouse. -/
inductive Loc where
  | pav (p : Nat)
  | die (d : Nat)
  | csi (k : Nat)
  | mac (k : Nat)
  | io
  /-- On the path of services with a copy on die d, on the I/O die's end of its link: no restart scope. -/
  | ioLink (d : Nat)
  | nowhere
  | gatehouse
  deriving DecidableEq, Repr

/-- What evidence says (R176). -/
inductive EvKind where
  /-- A real run of a service ended: published check, copies that did not end, its firing and RUN_SEQ, whether an
  outstanding restart order interrupted it. -/
  | run (svc check : Nat) (missA missB : Bool) (fired : Tick) (runSeq : W32) (interrupted : Bool)
  /-- A golden frame of a service ended: which copies failed. -/
  | golden (svc : Nat) (failA failB : Bool)
  /-- A sensor frame: consecutive failures, 0 for a pass. -/
  | frame (src fails : Nat)
  /-- A checker's test ended. -/
  | checker (n : Nat) (pass : Bool)
  /-- An event that left a class at L2 or L3, for a latched group of it: the level. -/
  | group (g lvl : Nat) (loc : Option Loc)
  /-- A class left its fault state. -/
  | clear (cls : Nat)
  /-- A task failed its check. -/
  | task (t : Nat)
  /-- A replica's agreement changed: 0 the I/O die, 1 and 2 the compute dies. -/
  | time (r : Nat) (agree : Bool)
  | age (svc : Nat)
  | stale (svc : Nat)
  /-- A copy moved to its fallback set. -/
  | fallback (svc : Nat)
  deriving DecidableEq, Repr

/-- A piece of evidence with the time at which its producer registered it (R178). -/
structure Ev where
  stamp : Tick
  kind : EvKind
  deriving DecidableEq, Repr

/-! ### Control cycle and safety I/O (R172, R240 to R261) -/

/-- The control cycle (R172, R491): the last and next boundary, boundaries so far, the cycle in µs and VERDICT_CYCLES in
force, boundaries since the last verdict instant, the contents of verdicts to be sent (R198), and the record load's tick. -/
structure CycleSt where
  last : Tick
  next : Option Tick
  count : Nat
  us : Nat
  verdictCycles : Nat
  since : Nat
  verdicts : List (List Byte)
  recLoad : Option Tick
  deriving DecidableEq, Repr

def CycleSt.init : CycleSt := ⟨0, none, 0, 1000, 10, 0, [], none⟩

/-- A dark test in progress (R255): its start, whether it tests the low side, whether the last high-node sample matched, and
the matching samples in a row. -/
structure DarkSt where
  start : Tick
  low : Bool
  hiOk : Bool
  count : Nat
  deriving DecidableEq, Repr

/-- Safety I/O beside its registers. Channel 2k + c is channel c of pair k, 32 and 33 the RESUME contacts; key 16 × path + k
is pair k in the processor path (0) or the hard-wired path (1). -/
structure SioSt where
  /-- Filtered levels of the hard-wired and of the processor path. -/
  hwLevel : BitVec 34
  prLevel : BitVec 34
  /-- When a pair's discrepancy window opened, and which channel changed first. -/
  winAt : Tab Tick
  first : Tab Nat
  /-- When a pair last entered RUN in the processor path. -/
  runAt : Tab Tick
  /-- Two-hand groups whose pairs have not both been STOPPED since the last enable ended. -/
  spent : BitVec 16
  /-- Pairs that have left RUN in the processor path since its last sample. -/
  left : BitVec 16
  disagree : Tab Nat
  /-- Start of each TP output's last pulse. -/
  tpAt : Tab (Option Tick)
  /-- What the channels read at the start of each TP output's last pulse, in the hard-wired and in the processor path (R244). -/
  tpReads : Tab (BitVec 34 × BitVec 34)
  /-- When the filtered value of a channel last changed: key 64 for the hard-wired path, plus the channel. -/
  flipAt : Tab Tick
  /-- Until when SIO_HS_CMD is valid. -/
  hsValid : Option Tick
  /-- Processor commands to apply: boundaries to wait, HS commands, latches. -/
  sched : List (Nat × Nat × Nat)
  sampled : Bool
  latchAt : Tab Tick
  changedAt : Tab Tick
  /-- Outputs whose latch has been cleared since the Gatehouse reset. -/
  gateFree : BitVec 4
  dark : Tab (Option DarkSt)
  darkPass : Tab Tick
  /-- Deviating samples in a row, and since when a node reads MID, by converter channel. -/
  deviate : Tab Nat
  mid : Tab (Option Tick)
  adcSeen : BitVec 16
  /-- When each RESUME contact last closed and opened. -/
  closedAt : Tab Tick
  openAt : Tab Tick
  ready : Bool
  pressAt : Option Tick
  /-- A release whose second contact is still closed. -/
  releaseAt : Option Tick
  /-- RESUME events: stamp and start of the press. -/
  events : List (Tick × Tick)
  /-- A valid safety parameter record is in force (R242). -/
  recOk : Bool
  deriving DecidableEq, Repr

def SioSt.init : SioSt :=
  ⟨0, 0, [], [], [], 0, 0, [], [], [], [], none, [], false, [], [], 0, [], [], [], [], 0, [], [], false, none, none, [], false⟩

/-! ### Links (R161 to R169) -/

/-- A packet that a link's transmitter keeps until it is acknowledged (R161, R162): its link packet number, its group, its words (marked
where they travel as poison), and where it ends in the group's stream, in words. -/
structure LinkPkt where
  num : Nat
  group : Nat
  words : List (W32 × Bool)
  fin : Nat
  deriving DecidableEq, Repr

/-- A link end beside its registers: the flit sequence number expected on each group, the last one acknowledged, the ticks
of each group's replays, the last flit's arrival, the entry into the present state, and LINK_CFG and LINK_TRAIN_TO as they
were at the last entry into DETECT. -/
structure LinkSt where
  expect : Tab Nat
  acked : Tab Nat
  replays : Tab (List Tick)
  last : Tick
  since : Tick
  cfg : W32
  trainTo : Nat
  /-- The transmitter: the next link packet number, the place in the rotation, and per group the words placed on its stream, those not
  yet in a flit, the flits formed, and the last 64 of them with their indices (R161, R162). -/
  num : Nat
  rot : Nat
  placed : Tab Nat
  buf : Tab (List (W32 × Bool))
  formed : Tab Nat
  kept : Tab (List (Nat × Flit))
  unacked : List LinkPkt
  /-- Numbers and lengths of the packets under way on each group, oldest first. -/
  order : Tab (List (Nat × Nat))
  /-- The receiver: words of each group not yet a whole packet, packets that wait for an earlier number, and the next to release. -/
  rbuf : Tab (List (W32 × Bool))
  held : List (Nat × List (W32 × Bool))
  next : Nat
  deriving DecidableEq, Repr

def LinkSt.init : LinkSt := ⟨[], [], [], 0, 0, 0x03E81001#32, 10000, 0, 0, [], [], [], [], [], [], [], [], 0⟩

/-! ### Time (R303 to R333) -/

/-- A trigger entry as it is in force (R321 to R324): its control, argument, next target (ticks, or presented time in units of
2^-16 ns) and period, the words it was loaded from, and when its arming took effect. -/
structure Trig where
  armed : Bool
  action : Nat
  presented : Bool
  discard : Bool
  arg : W32
  target : Nat
  period : Nat
  words : List W32
  armedAt : Tick
  /-- The words of a CTRL write that take effect after the old target's firing (KL-11, R488). -/
  held : Option (List W32)
  deriving DecidableEq, Repr

def Trig.init : Trig := ⟨false, 0, false, false, 0, 0, 0, [], 0, none⟩

/-- A replica as the Gatehouse judges it (R316) and as its die keeps it (R315). -/
structure RepSt where
  bad : Nat
  missed : Nat
  good : Nat
  /-- Error of the replica's count against the FRC, in ticks. -/
  off : Int
  word : Option Tick
  deriving DecidableEq, Repr

def RepSt.init : RepSt := ⟨0, 0, 0, 0, none⟩

/-- A domain record accepted and not yet committed (R312). -/
structure DomRec where
  anchor : Nat
  off : Nat
  rate : Nat
  seq : W32
  jump : Bool
  at_ : Tick
  deriving DecidableEq, Repr

/-- The Bandstand beside its registers. -/
structure BsSt where
  /-- Commit requested: its kind and the tick of the write (R308). -/
  commit : Option (Nat × Tick)
  /-- Domain records to commit, and the tick of each slot's last accepted record. -/
  dom : Tab (Option DomRec)
  domAt : Tab Tick
  marker : Option Tick
  trig : Tab Trig
  reps : Tab RepSt
  caps : Tab (List (Tick × Bool))
  /-- Whole second last reached, and the end of the pulse that is on the PPS output. -/
  ppsSec : Nat
  ppsOn : Option Tick
  /-- Tick of an ADC firing whose round is still to be copied, and whether its round has begun. -/
  snap : Option (Tick × Bool)
  /-- A verdict instant whose domain records are not yet fetched. -/
  fetch : Bool
  deriving DecidableEq, Repr

def BsSt.init : BsSt := ⟨none, [], [], none, [], [], [], 0, none, none, false⟩

/-! ### Runs (R90 to R111) -/

/-- A run-plan entry (R90). -/
structure Entry where
  valid : Bool
  safety : Bool
  svc : Nat
  trig : Nat
  pkg : Nat
  partialOk : Bool
  prio : Nat
  net : Nat
  arg : W32
  gatherUs : Nat
  deadline : Nat
  pavA : Nat
  pavB : Nat
  fallA : Nat
  fallB : Nat
  slotLive : Nat
  slotProof : Nat
  msix : Nat
  notify : Bool
  arenaA : Nat
  arenaMib : Nat
  arenaB : Nat
  deriving DecidableEq, Repr

/-- A frame that has arrived (R96, R99): its source, address, length, camera frame counter and stamp. -/
structure Arrival where
  src : Nat
  addr : Nat
  len : Nat
  ctr : Nat
  at_ : Tick
  deriving DecidableEq, Repr

/-- An open gather window (R96). -/
structure Gather where
  since : Tick
  got : List Arrival
  deriving DecidableEq, Repr

/-- One copy of a run (R93, R98, R107): its set in use and whether that is its fallback set, whether it can run at all, has
started, has ended (and when), has lost an item or was stopped; and the next work item of each logical Pavilion. -/
structure CopyRun where
  set : Nat
  fallback : Bool
  able : Bool
  started : Bool
  ended : Option Tick
  lost : Bool
  stopped : Bool
  next : List Nat
  deriving DecidableEq, Repr

def CopyRun.none : CopyRun := ⟨0, false, false, false, Option.none, false, false, []⟩

/-- A fired run (R98, R99): its bank, and the plan switch instants before its firing. -/
structure Run where
  bank : Nat
  gen : Nat
  entry : Nat
  proof : Bool
  ent : Entry
  net : NetDesc
  constBase : List PAddr
  tols : List TolRec
  two : Bool
  seq : W32
  frame : W32
  fire : Tick
  /-- The deadline; a golden run has none until its first copy starts (R212). -/
  deadline : Option Tick
  missing : W32
  arrivals : List Arrival
  arrival : Tick
  /-- Check of the predecessor's run (R96). -/
  pred : Option Nat
  golden : Nat
  a : CopyRun
  b : CopyRun
  /-- The Belvedere's outcome, once it has arrived. -/
  outcome : Option Nat
  /-- The run has reached its deadline and waits for its outcome only. -/
  finished : Bool
  forced : Bool
  defer : Nat
  /-- Live firings already counted as a deferral, by RUN_SEQ and service. -/
  deferBy : List (Nat × Nat)
  /-- Since when a copy of a golden run is suspended or has not started, up to its deadline as it stands, and which copies (R212). -/
  heldSince : Option Tick
  heldBy : List Bool
  /-- A restart order outstanding since its firing named a unit of its sets (R176). -/
  interrupted : Bool
  deriving DecidableEq, Repr

/-- A work item at a core: its run (bank, entry, kind, RUN_SEQ), copy, logical Pavilion, its number in the work list, and what it is. -/
structure Job where
  bank : Nat
  entry : Nat
  proof : Bool
  seq : W32
  copyB : Bool
  lp : Nat
  item : Nat
  what : WorkItem
  /-- Address of the save record it has (R108). -/
  save : Nat
  deriving DecidableEq, Repr

/-- An item suspended with a complete save record (R108): the Pavilion, the record's address. -/
structure Saved where
  job : Job
  pav : Nat
  core : Nat
  addr : Nat
  deriving DecidableEq, Repr

/-- A pending bank switch (R94): the bank, what was declared, when it was sent, whether the Gatehouse has accepted it. -/
structure SwitchSt where
  bank : Nat
  sent : Tick
  accepted : Option Tick
  deriving DecidableEq, Repr

/-- The run-plan block beside its registers. -/
structure PlanSt where
  switch : Option SwitchSt
  /-- When each declaration transfer was sent whose reply has not come, and whether its switch has been abandoned (R94). -/
  declared : List (Tick × Bool)
  /-- Redundancy mode of the run plan in force (R19, R91). -/
  mode : Nat
  /-- Plan switch instants so far, which tell the plan of a run apart from the one in force (R95). -/
  gen : Nat
  pkgs : Tab (Option PkgDesc)
  /-- Loads begun at each index, to tell packages apart (R209), and the address of each load in progress. -/
  pkgGen : Tab Nat
  pkgAddr : Tab Nat
  runSeq : Tab W32
  frameSeq : Tab Nat
  skipped : Tab Nat
  gathers : Tab (Option Gather)
  runs : List Run
  jobs : Tab (Option Job)
  saved : List Saved
  /-- Since when a core's preemption request stands, and whether its timeout has been counted. -/
  req : Tab (Option (Tick × Bool))
  /-- Result rings in force: base and configuration by service (R111). -/
  rings : Tab (Nat × W32)
  /-- Copies of services on their fallback sets: 2 × service + copy (R382). -/
  onFall : Tab Bool
  /-- Real firings of a service that forced golden runs have still to cost (R211). -/
  skipNext : Tab Nat
  deriving DecidableEq, Repr

def PlanSt.init : PlanSt := ⟨none, [], 1, 0, [], [], [], [], [], [], [], [], [], [], [], [], [], []⟩

/-! ### The Belvedere (R187 to R201) -/

/-- A run record (R187, R189). -/
structure BvRun where
  seq : W32
  two : Bool
  dieA : Nat
  dieB : Nat
  deadline : Tick
  gen : Nat
  svc : Nat
  ranges : List (RangeRec × TolRec)
  clearing : Bool
  /-- Unresolved slots of each range. -/
  left : List Nat
  failed : Bool
  deriving DecidableEq, Repr

/-- What an arbitration compares (R191, R192, R213): a pair, a batch chunk of a range, or a copy's tensor with its expected
data. -/
inductive ArbKind where
  | pair (slot : Nat)
  | chunk (first count : Nat)
  | golden (svc : Nat) (copyB : Bool) (base : Nat) (desc : TensorDesc) (expect : Nat) (tol : TolRec)
  deriving DecidableEq, Repr

/-- An arbitration queued or running: its run record's key, its cost in 1/208 ticks, and its start (R194). -/
structure Arb where
  key : Nat
  kind : ArbKind
  cost : Nat
  start : Option Tick
  deriving DecidableEq, Repr

/-- The Belvedere beside its registers. -/
structure BvSt where
  /-- Run records: key 2 × entry + kind. -/
  runs : Tab (Option BvRun)
  /-- Range records of earlier plans while a run of theirs is open, with the plan they belong to, and the plan in force, counted by plan
  switch instants. -/
  prev : List (Nat × RangeRec)
  gen : Nat
  /-- Messages that wait in each comparator lane (R197). -/
  lanes : Tab (List (List Byte))
  /-- Slot store words, key 2 × slot + copy of the pair; slot states; syndromes of stored words (states from 2^21 on). -/
  words : Tab W32
  states : Tab Nat
  syn : Tab (BitVec 8)
  /-- What a slot's first message said beside its signatures: [0] INVALID, [1] disagrees with its record, [2] word lost,
  [15:8] ROWS_M1, [23:16] COLS_M1. -/
  info : Tab Nat
  queue : List Arb
  scrub : Option Tick
  scrubNext : Tick
  /-- Last pair failure of a service: slot and reason. -/
  lastFail : Tab Nat
  deriving DecidableEq, Repr

def BvSt.init : BvSt := ⟨[], [], 0, [], [], [], [], [], [], none, 0, []⟩

/-! ### The Folly (R203 to R221) -/

/-- A frame that has ended and is being judged (R203, R205, R207): the reason of the checks made, its place and length where it was
written, its counter, the configuration it began under, its number F and its end. -/
structure Judged where
  reason : Nat
  buf : Option (Nat × Nat)
  ctr : Nat
  cfg : W32
  num : Nat
  fin : Tick
  deriving DecidableEq, Repr

/-- A sensor source's receive path (R203 to R207, R335 to R347). -/
structure FrameSt where
  /-- SNS_SRCs registers in force since the port's restart. -/
  conf : List W32
  /-- Frames ended since the port started, modulo 2^16. -/
  ended : Nat
  inFrame : Bool
  /-- The next frame fails LINE: packets were dropped while a synthetic line was in the path. -/
  nextBad : Bool
  lineBad : Bool
  /-- Pattern lines of the frame; whether the first one's CRC or pattern is bad, and its counter where it can be read. -/
  patterns : Nat
  patCrcBad : Bool
  patBad : Bool
  ctr : Option Nat
  /-- FOL_RX_CFGs and FOL_RX_PATs in force since the frame's start (R221). -/
  cfg : W32
  pat : W32
  /-- Input buffers, the longest unused first; the buffer the frame takes, bytes written, image lines seen. -/
  order : List Nat
  buf : Option Nat
  written : Nat
  line : Nat
  /-- A stream's last sequence number; a stream frame that has ended and waits for its synthetic frame. -/
  seqLast : Option Nat
  done : Bool
  /-- Frames whose synthetic lines are in the path, in order. -/
  judged : List Judged
  arrived : Nat
  deriving DecidableEq, Repr

def FrameSt.init : FrameSt :=
  ⟨[], 0, false, false, false, 0, false, false, none, 0, 0, [], none, 0, 0, none, false, [], 0⟩

/-- A MAC (R346, R363): mode and longest frame in force since the link came up, and the tick until which it transmits. -/
structure MacSt where
  mode : Nat
  maxLen : Nat
  busy : Tick
  deriving DecidableEq, Repr

def MacSt.init : MacSt := ⟨0, 1518, 0⟩

/-- The receive paths and MACs of the I/O die: sources, CSI_CTRL in force and bytes in the lane buffer by port, MACs, and the frames
that wait on GATED queues, key 8 × port + queue, with their ONE_STEP. -/
structure RxSt where
  src : Tab FrameSt
  csi : Tab W32
  lane : Tab Nat
  macs : Tab MacSt
  gated : Tab (List (List Byte × Bool))
  deriving DecidableEq, Repr

def RxSt.init : RxSt := ⟨[], [], [], [], []⟩

/-- The 10BASE-T1S port beside its registers (R350 to R356): the tick until which it transmits, the last foreign beacon, the next
heartbeat due to each peer, heartbeats received and not yet accepted, and the verdict cycle begun. -/
structure T1sSt where
  busy : Tick
  foreign : Option Tick
  hbNext : Tab Tick
  inbox : List PMsg
  beacon : Option Tick
  deriving DecidableEq, Repr

def T1sSt.init : T1sSt := ⟨0, none, [], [], none⟩

/-- A service's golden frames (R209 to R213). -/
structure GoldSt where
  index : Nat
  pass : Option Tick
  /-- The due time, where one applies. -/
  due : Option Tick
  /-- Proof interval in force in ms, and the one declared. -/
  interval : Nat
  noGolden : Bool
  /-- Package index, generation and network for which the sequence runs. -/
  pkg : Nat × Nat × Nat
  /-- Comparisons outstanding of copy A and B, whether a copy has failed, and comparisons waiting for room. -/
  cmpA : Nat
  cmpB : Nat
  failA : Bool
  failB : Bool
  judging : Bool
  /-- A copy of the run judged has not ended yet, and the end of the last comparison (R213). -/
  running : Bool
  cmpAt : Tick
  waiting : List Arb
  /-- The last golden run's firing. -/
  fired : Option Tick
  /-- The two density values: stale against twice the longer of them until the change completes (R20). -/
  declared : Nat
  /-- Time of the golden run's deadline, after which waiting comparisons fail. -/
  deadline : Option Tick
  deriving DecidableEq, Repr

def GoldSt.init : GoldSt :=
  ⟨0, none, none, 1000, false, (0, 0, 0), 0, 0, false, false, false, false, 0, [], none, 1000, none⟩

/-- A checker (R214 to R219): its last pass since its unit's reset, whether its last test failed, the slices left in a test
in progress, whether it is overdue or eligible, and whether a failed test waits for its restart. -/
structure ChkSt where
  pass : Option Tick
  failed : Bool
  left : Nat
  overdue : Bool
  eligible : Bool
  wait : Bool
  deriving DecidableEq, Repr

def ChkSt.init : ChkSt := ⟨none, false, 0, false, false, false⟩

/-- The Folly beside its registers. -/
structure FolSt where
  golds : Tab GoldSt
  chks : Tab ChkSt
  /-- The slice that each lane runs: checker and start. -/
  lanes : Tab (Option (Nat × Tick))
  /-- Lanes that idle under R217, until a safety-task start. -/
  blocked : Tab (Option Tick)
  deriving DecidableEq, Repr

def FolSt.init : FolSt := ⟨[], [], [], []⟩

/-! ### Belief (R173 to R186) -/

/-- A cause whose scope is none (R181, R185): a checker, a sensor source, or the I/O die's replica. -/
inductive Cause where
  | checker (n : Nat)
  | source (n : Nat)
  | replica
  | group (g : Nat)
  deriving DecidableEq, Repr

/-- A declared service (R173, R176 to R182). -/
structure SvcSt where
  drec : DeclRec
  /-- Sets in use. -/
  setA : Nat
  setB : Nat
  miss : Nat
  since : Tick
  src : Nat
  checked : Option Tick
  ageGiven : Bool
  staleGiven : Bool
  /-- Golden pass since the service last entered UNTESTED or DOUBTED, or since a further doubt asked for one. -/
  gold : Option Tick
  /-- Restart orders ordered for the service and not done, whether one has failed, whether the doubt asks for a golden frame. -/
  orders : List Nat
  needGold : Bool
  /-- Causes of scope none not yet cleared, passing frames of failing sources, and when the last cause cleared. -/
  causes : List Cause
  clean : Tab Nat
  clearAt : Option Tick
  /-- Last real run: RUN_SEQ and check. -/
  last : Nat × Nat
  /-- The readmission run has ended: its stamp. -/
  readmit : Option Tick
  /-- (a), (c) and (d) of R181 held at the last boundary. -/
  pathWas : Bool
  deriving DecidableEq, Repr

/-- A restart order (R186): number, scope, first sending, whether it was repeated, and its state: 1 ORDERED, 2 ACKED, 3 DONE,
4 FAILED; whether the services it interrupts have been told; and when it was over. -/
structure Order where
  num : Nat
  scope : Scope
  sent : Tick
  again : Option Tick
  state : Nat
  told : Bool
  failSeen : Bool
  overAt : Tick
  deriving DecidableEq, Repr

/-- A restart order that the Groundskeeper carries out (R380): its number and scope, how far it has come (0 units to be held, 1 rails
cycling, 2 stacks training, 3 units initialising, 4 cores loading), dies whose rails are still to be cycled, what it will write
back: registers, windows and watchdog configuration, and the times of its steps. -/
structure GkOrder where
  num : Nat
  scope : Scope
  phase : Nat
  dies : List Nat
  regs : List (Nat × W32)
  fw : List (Nat × FwWin)
  wds : List (Nat × List W32)
  steps : List Tick
  deriving DecidableEq, Repr

/-- The belief engine beside its registers. -/
structure BeliefSt where
  decl : Option DeclSet
  pend : Option DeclSet
  svcs : Tab (Option SvcSt)
  orders : List Order
  nextOrder : Nat
  /-- Grace timers: start and interval by output. -/
  grace : Tab (Option (Tick × Nat))
  /-- Next transition-log record, and the records of the boundary in hand with their services. -/
  logIx : Nat
  rows : List (Nat × List Byte)
  /-- When services that are not declared ceased to be (R200). -/
  gone : Tab Tick
  /-- Restart orders received by the Groundskeeper and not yet done. -/
  gkOrders : List GkOrder
  /-- Areas that the Groundskeeper uses (R188). -/
  gkAreas : List Nat
  deriving DecidableEq, Repr

def BeliefSt.init : BeliefSt := ⟨none, none, [], [], 0, [], 0, [], [], [], []⟩

/-- The status window (R202) as the last boundary left it: generation counter, offsets 0x04 to 0x7F, the verdict content at 0x80, the
service records and the transition log's records. -/
structure WinSt where
  gen : W32
  head : List Byte
  verdict : List Byte
  svcs : List Byte
  log : Tab (List Byte)
  deriving DecidableEq, Repr

def WinSt.init : WinSt := ⟨0, [], [], [], []⟩

/-- Task sequence monitor beside its registers (R280 to R282): origin of the windows in boundaries, tasks whose first window is
over, and boundaries at which each task was last judged. -/
structure TsmSt where
  origin : Nat
  judged : Tab Nat
  served : Nat
  deriving DecidableEq, Repr

def TsmSt.init : TsmSt := ⟨0, [], 0⟩

/-! ### Fabric requests and unit commands (R146 to R160, R374 to R378) -/

/-- A request outstanding at its source (R146, R150, R151, R154): its packet, its place in the order of issue, first issue, FAB_RESP_TO
in ticks at that time, its state (0 awaiting its response, 1 waiting to be reissued, 2 quarantined, 3 held behind an older request,
4 waiting for a collective context), the time of the reissue, and the collective nodes it holds. -/
structure ReqSt where
  ord : Nat
  pkt : Packet
  first : Tick
  respTo : Tick
  st : Nat
  again : Tick
  nodes : List Nat
  deriving DecidableEq, Repr

/-- A unit command in progress (R374 to R377): its CMD and MODE, when its present phase began, DRAIN_TO in ticks, the replies
absorbed, and its phase: 0 waiting for members, 1 draining, 2 absorbing, 3 initialising. -/
structure UCmd where
  cmd : Nat
  absorb : Bool
  since : Tick
  drainTo : Tick
  absorbed : Nat
  phase : Nat
  deriving DecidableEq, Repr

/-- What a boot receiver keeps of a manifest (R372). -/
structure BootRx where
  id : W32
  n : Nat
  len : Nat
  crc : Nat
  deriving DecidableEq, Repr

def BootRx.init : BootRx := ⟨0, 0, 0, 0⟩

/-! ### Security (R405 to R427) -/

/-- A request that the Gatehouse serves (R416 to R418): the words from SEC_REQ to SEC_REQ_CRC, and for one that came through the
TAP the token's words. -/
structure SecReq where
  words : List W32
  tap : Bool
  token : List W32
  deriving DecidableEq, Repr

/-- The Grotto, the Gatehouse eFlash and what the Gatehouse firmware keeps of requests. -/
structure SecSt where
  serial : W64
  /-- KEYHASH, key 4 × role + slot. -/
  keyHash : Tab (List Byte)
  revoked : BitVec 20
  arb : Tab Nat
  mr : Tab (List Byte)
  /-- Firmware slots A and B (0, 1) and the two record copies (2, 3), as signed images. -/
  flash : Tab (List Byte)
  /-- The boot selector, and the slot that runs. -/
  active : Nat
  try_ : Bool
  running : Nat
  /-- The newer record copy, and the header of the record in force. -/
  recNew : Nat
  recHdr : List Byte
  challenge : Option (Tick × List Byte)
  draws : Nat
  scopes : BitVec 4
  /-- Compute dies not yet reset since COMPUTE opened. -/
  diesLeft : BitVec 2
  req : Option SecReq
  tapIn : List W32
  tapOut : List W32
  lastSeq : BitVec 16
  quoteAt : Option Tick
  ghResets : Nat
  releases : Nat
  measRead : Bool
  /-- Reservation ring, next ring word, block in use and next signature in it, and trees whose caches are built. -/
  ring : Tab W64
  ringPos : Nat
  block : Option Nat
  nextSig : Nat
  trees : Nat
  deriving DecidableEq, Repr

def SecSt.init : SecSt :=
  ⟨0, [], 0, [], [], [], 0, false, 0, 0, [], none, 0, 0, 0, none, [], [], 0, none, 0, 0, false, [], 0, none, 0, 1⟩

/-! ### The Groundskeeper (R428 to R450) -/

/-- An event-log record (R440). -/
structure LogRec where
  type : Nat
  payload : List Byte
  rseq : Nat
  stamp : Tick
  flags : W32
  deriving DecidableEq, Repr

/-- The Groundskeeper firmware, the boot flash and the event log. -/
structure GkSt where
  /-- The firmware runs; the boot ROM has halted the cores; a restart waits for its EXTEND response. -/
  up : Bool
  halted : Bool
  waitExt : Bool
  /-- A valid boot selector, ACTIVE and TRY. -/
  selOk : Bool
  active : Nat
  try_ : Bool
  /-- Complete slots: KIND and image of each directory entry. -/
  slots : Tab (Option (List (Nat × List Byte)))
  staging : List Byte
  /-- Retirement record by cluster, and user calibration by item. -/
  retire : Tab W32
  userCal : Tab Int
  running : Nat
  trial : Bool
  /-- Header of the firmware that runs; the ROM's measurement of it is pending until the credentials are valid. -/
  hdr : List Byte
  restarts : List Tick
  restartAt : Tick
  /-- When the I/O die was released, and whether its ROM waits for the credentials. -/
  released : Option Tick
  romWait : Bool
  /-- Last host request served. -/
  served : BitVec 16
  /-- The event log: records not yet programmed with the age of the oldest, records in flash by sector, the next RSEQ, the sector
  sequence, the bytes used of the sector, and records and messages lost. -/
  buf : List LogRec
  bufAt : Tick
  log : List (Nat × LogRec)
  rseq : Nat
  sseq : Nat
  used : Nat
  lost : Nat
  telAt : Tick
  /-- Mirror ring in force: base, pages. -/
  mirror : Nat × Nat
  /-- Messages held while the firmware does not run (R430). -/
  inbox : List PMsg
  /-- The host request that waits for a Grotto response: its KIND. -/
  hostWait : Option Nat
  /-- Highest BOOT_ID in the sectors of the log (R439). -/
  bootId : W32
  /-- Extensions that the firmware has still to request: register and digest (R411, R415). -/
  extQ : List (Nat × List Byte)
  deriving DecidableEq, Repr

def GkSt.init : GkSt :=
  ⟨false, false, false, false, 0, false, [], [], [], [], 0, false, [], [], 0, none, false, 0, [], 0, [], 0, 0, 0, 0, 0, (0, 0), [], none, 0, []⟩

/-- A TAP controller (R458 to R460): its instruction (by opcode; BYPASS where another was loaded that is not open), what its data
register holds, the boundary cells preloaded, and whether its segment is bridged. -/
structure TapSt where
  instr : Nat
  dr : Nat
  cells : Nat
  deriving DecidableEq, Repr

def TapSt.init : TapSt := ⟨1, 0, 0⟩

/-! ### Host link (R337 to R341, R360) -/

/-- The host link beside its registers: the caps and presets that training uses, and each vector's hold: its end and whether
requests have joined it. -/
structure PcieSt where
  maxGen : W32
  eq : W32
  hold : Tab (Option (Tick × Bool))
  deriving DecidableEq, Repr

def PcieSt.init : PcieSt := ⟨0x1005#32, 0, []⟩

/-! ### Power (R387 to R404) -/

/-- A channel of the Gatehouse rail monitor (R389): last scaled sample in mV, samples out of the window in a row, since when it has
read inside its window while not armed. Armed channels show in GH_PWR_STAT. -/
structure RailSt where
  mv : Nat
  out : Nat
  inside : Option Tick
  deriving DecidableEq, Repr

def RailSt.init : RailSt := ⟨0, 0, none⟩

/-- Power and temperature beside their registers: sensor values and stack temperatures in 0.125 °C and °C, ticks in a row below
97 °C by die, energy in units of 10 µJ, the rail monitor, and the RESTART_DONE after which a die's rails must arm. -/
structure PwrSt where
  temps : Tab Int
  stks : Tab Int
  cool : Tab Nat
  energy : Nat
  rails : Tab RailSt
  armFrom : Tab (Option Tick)
  deriving DecidableEq, Repr

def PwrSt.init : PwrSt := ⟨[], [], [], 0, [], []⟩

/-! ### Calibration (R445 to R447) -/

/-- Factory and user values by item; compute dies whose fuse map is loaded. -/
structure CalSt where
  fact : Tab Int
  user : Tab Int
  fuses : BitVec 2
  deriving DecidableEq, Repr

def CalSt.init : CalSt := ⟨[], [], 0⟩

/-! ### Debug UART (R359) -/

/-- The debug UART: the console's rate in baud, with 8 data bits, no parity and 1 stop bit. -/
structure UartSt where
  baud : Nat
  deriving DecidableEq, Repr

def UartSt.init : UartSt := ⟨115200⟩

/-! ### What leaves the part or passes between its blocks -/

/-- Things the part sends. -/
inductive Output where
  /-- A protected message to a destination ID (R292). -/
  | msg (dst : BitVec 16) (m : PMsg)
  /-- An MSI-X memory write (R340). -/
  | msix (vec : Nat) (addr : W64) (data : W32)
  /-- A frame sent by MAC 0 to 3 or by the 10BASE-T1S port, 4, with its egress stamp (R318, R346, R352). -/
  | eth (port : Nat) (bytes : List Byte) (at_ : Tick)
  /-- A frame delivered to the Groundskeeper, with its ingress stamp (R346). -/
  | gkFrame (mac : Nat) (bytes : List Byte) (at_ : Tick)
  /-- The Groundskeeper is asked to restart a source's port (R185, R207). -/
  | portRestart (src : Nat)
  /-- A PLCA beacon of the verdict cycle (R353). -/
  | beacon
  /-- A RESPONSE packet on its way to its source on a die (R146, R149). -/
  | resp (die : Nat) (p : Packet)
  /-- A flit sent on a group of a link end; a replay asked of the partner from a flit; a packet that a link end releases, in packet-number
  order, its payload with regenerated codes (R161, R162). -/
  | flit (e g : Nat) (f : Flit)
  | replay (e g : Nat) (fseq : BitVec 12)
  | released (e num : Nat) (hdr : List W32) (payload : List (W32 × BitVec 7))
  /-- A request has completed at its source with a final status and COUNT (R149, R150). -/
  | done (die : Nat) (srcUnit : BitVec 16) (ret : BitVec 8) (tag : BitVec 10) (status count : Nat)
  /-- A host read completes (R141): 0 Successful, 1 Unsupported Request, 2 Completer Abort; the EP bit, and the words. -/
  | completion (status : Nat) (ep : Bool) (data : List W32)
  deriving DecidableEq, Repr

/-! ### The part -/

/-- A write to a register of a check-value unit that a test slice holds back (R289): the unit, the register's offset and the word. -/
structure CvuWrite where
  unit : Nat
  off : Nat
  value : W32
  deriving DecidableEq, Repr

structure State where
  /-- Commands that wait, first in, first out. -/
  pending : List Instr
  /-- The free-running counter (R303). -/
  frc : Tick
  /-- How many free values the model has drawn (the model's own field). -/
  free : Nat
  /-- Register values, by address. -/
  regs : Tab W32
  /-- BLK_ERR sources that have risen and are not yet reported: page base and bit (R222). -/
  risen : List (Nat × Nat)
  /-- Stored bytes: DRAM by canonical address, SRAM by window address, scratchpads by the model's key (R112, R114). -/
  mem : Tab Byte
  /-- Syndromes of stored check bits, by address of the protected word (R121 to R125). -/
  syn : Tab (BitVec 8)
  out : List Output
  /-- Messages sent per stream since the sender's reset: key 65536 × source + destination (R294). -/
  tx : Tab Nat
  /-- Stream records: key 65536 × receiver + source (R298). -/
  streams : Tab PmStream
  /-- Physical cores: key 17 × cluster + physical core (R78). -/
  cores : Tab CoreSt
  /-- Logical cores marked absent, by Unit ID (R13). -/
  absent : Tab Bool
  /-- Corrected DRAM words that wait to be written back: die and canonical address (R127). -/
  wback : List (Nat × Nat)
  /-- Next SRAM line to scrub, by Unit ID of the cluster or Pavilion (R128). -/
  sramScrub : Tab Nat
  /-- Firewall windows in force, by address of the window's registers (R136). -/
  fwForce : Tab FwWin
  /-- Domains that Pavilions held before their safety domain (R132): Pavilion to 1 + domain. -/
  prevDom : Tab Nat
  /-- Fused spare maps, by cluster number (R78, R368). -/
  fusedMap : Tab W32
  /-- The value that a unit held before the last CVU_RUN write, with its time (KL-12). -/
  cvuOld : Tab (Option (Nat × Tick))
  /-- Service priority of each source in service: key 1024 × instance + source (R265). -/
  icuSvc : Tab Nat
  /-- When the moderation of a source ends (R268). -/
  icuHold : Tab Tick
  /-- Watchdogs 0 to 13. -/
  wds : Tab WdSt
  /-- Processors that a debugger has halted, by watchdog number (R276). -/
  dbgHalted : Tab Bool
  /-- Source groups 0 to 63 of the fault collector. -/
  fcGrp : Tab FcGrp
  /-- Classes 0 to 15 of the fault collector. -/
  fcCls : Tab FcCls
  /-- High sources of groups that are no BLK_ERR bit: key 16 × group + number (clock monitor, lost reports, lockstep). -/
  fcExt : Tab Bool
  /-- Die sources that a report or vector has shown high: page and bit (R224). -/
  fcKnown : List (Nat × Nat)
  /-- Last event of a link condition: key 8 × link + bit, its time and the page of the end that reported (R490). -/
  fcLink : Tab (Option (Tick × Nat))
  /-- When the current minute of the hourly counts ends (R230). -/
  fcMinute : Tick
  /-- Gatehouse links whose die has been silent for 200 µs (R224). -/
  silent : Tab Bool
  /-- When each concentrator last sent its source vector (R224). -/
  vecAt : Tab Tick
  /-- Evidence not yet spent (R178). -/
  evid : List Ev
  /-- Service access is granted (R463). -/
  svcAccess : Bool
  /-- Where the LATENT events since the class entered its fault state lie (R219). -/
  latentAt : List Loc
  /-- A debug scope other than CONSOLE is open (R421). -/
  dbgOpen : Bool
  /-- The control cycle. -/
  cyc : CycleSt
  /-- Safety I/O. -/
  sio : SioSt
  /-- Start of a firmware-switch hold (R251, R384). -/
  fwHold : Option Tick
  /-- Link ends 0 to 11 (see linkPageOf). -/
  links : Tab LinkSt
  /-- The Gatehouse boot ROM has ended (R166, R365). -/
  ghUp : Bool
  /-- The Bandstand. -/
  bs : BsSt
  /-- An AREAS message has been accepted since the Gatehouse reset (R188). -/
  areasOk : Bool
  /-- The run-plan block and the sequencers (R90 to R111). -/
  plan : PlanSt
  /-- The Belvedere. -/
  bv : BvSt
  /-- The Folly. -/
  fol : FolSt
  /-- Belief and restart. -/
  bel : BeliefSt
  /-- The task sequence monitor. -/
  tsm : TsmSt
  /-- Requests outstanding, by die, Unit ID, return port and tag (R146). -/
  reqs : Tab (Option ReqSt)
  /-- Unit commands in progress, by Unit ID. -/
  ucmds : Tab (Option UCmd)
  /-- Collective operations that wait for a context, by node, with the source die (R160). -/
  collWait : Tab (List (Nat × Packet))
  /-- Boot receivers, by physical core. -/
  boot : Tab BootRx
  /-- CORE_FW_LIMIT and the core page BLK_LOCK of unmapped spares, by cluster (R157). -/
  spareFw : Tab (W32 × W32)
  /-- The Grotto and the eFlash. -/
  sec : SecSt
  /-- The Groundskeeper and the boot flash. -/
  gk : GkSt
  /-- TAP controllers 0 to 3: the I/O die, die 0, die 1, the Gatehouse. -/
  taps : Tab TapSt
  /-- The host link. -/
  pcie : PcieSt
  /-- Calibration values. -/
  cal : CalSt
  /-- Power and temperature. -/
  pwr : PwrSt
  /-- When scan last released the safe inputs (R462). -/
  scanEnd : Tick
  /-- When service access last ended (R464). -/
  svcEnd : Tick
  /-- When service access was granted: the grant conditions had then held for 1 s (R463, SVC_STAT.HELD_MS). -/
  svcFrom : Option Tick
  /-- Windows in a row in which a monitored clock was bad: 0 and 1 the compute dies, 2 the I/O die, 3 and 4 the Gatehouse processor and the Bandstand (R278). -/
  clkBad : Tab Nat
  /-- The sensor receive paths and MACs. -/
  rx : RxSt
  /-- The 10BASE-T1S port. -/
  t1s : T1sSt
  /-- The status window. -/
  win : WinSt
  /-- Registers written since the domain reset of their page, by address: BLK_CTRL (R473) and RWO registers (R6). -/
  once : Tab Bool
  /-- Since when each output has been SAFE with its latch set, as far as it is (R463). -/
  safeSince : Tab Tick
  /-- When the last scope other than CONSOLE closed (R463). -/
  scopesAt : Tick
  /-- Clock cycles of each Pavilion, in thousandths, up to the last change of its clock, and when that was (R44, R82). -/
  pavClk : Tab (Nat × Tick)
  /-- The debug UART. -/
  uart : UartSt
  /-- BLK_ERR bits whose last rise an injection through BLK_INJ caused (R235): page and bit. -/
  injSrc : List (Nat × Nat)
  /-- Data bits that the conversion of a die's memory controller flips between decode and encode: a fault of the hardware, none where it works (R126). -/
  convFlip : Tab W64
  /-- Gatehouse TCM by Gatehouse address (R139). -/
  tcm : Tab Byte
  /-- Syndromes of TCM words and of eFlash words, by Gatehouse address (R122, R123). -/
  ghSyn : Tab (BitVec 8)
  /-- One more than the tick on which a source was last seen to rise by the collector: key page + bit, or the key of fcExt (R229). -/
  roseAt : Tab Nat
  /-- The last write that reached each check-value unit (R289). -/
  cvuLast : Tab (Option Tick)
  /-- Writes to check-value units that stall until a test slice ends, oldest first (R289). -/
  cvuStalled : List CvuWrite
  /-- The Groundskeeper's SRAM by local address, and the syndromes of its stored words that are not 0 (R428). -/
  gkSram : Tab Byte
  gkSyn : Tab (BitVec 8)
  deriving DecidableEq, Repr

/-- The part right after reset. -/
def State.reset : State :=
  { pending := []
    frc := 0
    free := 0
    regs := []
    risen := []
    mem := []
    syn := []
    out := []
    tx := []
    streams := []
    cores := []
    absent := []
    wback := []
    sramScrub := []
    fwForce := []
    prevDom := []
    fusedMap := []
    cvuOld := []
    icuSvc := []
    icuHold := []
    wds := []
    dbgHalted := []
    fcGrp := []
    fcCls := []
    fcExt := []
    fcKnown := []
    fcLink := []
    fcMinute := 30000000000
    silent := []
    vecAt := []
    evid := []
    svcAccess := false
    latentAt := []
    dbgOpen := false
    cyc := CycleSt.init
    sio := SioSt.init
    fwHold := none
    links := []
    ghUp := false
    bs := BsSt.init
    areasOk := false
    plan := PlanSt.init
    bv := BvSt.init
    fol := FolSt.init
    bel := BeliefSt.init
    tsm := TsmSt.init
    reqs := []
    ucmds := []
    collWait := []
    boot := []
    spareFw := []
    sec := SecSt.init
    gk := GkSt.init
    taps := []
    pcie := PcieSt.init
    cal := CalSt.init
    pwr := PwrSt.init
    scanEnd := 0
    svcEnd := 0
    svcFrom := none
    clkBad := []
    rx := RxSt.init
    t1s := T1sSt.init
    win := WinSt.init
    once := []
    safeSince := []
    scopesAt := 0
    pavClk := []
    uart := UartSt.init
    injSrc := []
    convFlip := []
    tcm := []
    ghSyn := []
    roseAt := []
    cvuLast := []
    cvuStalled := []
    gkSram := []
    gkSyn := [] }

/-- Why the machine stops with a fault. -/
inductive Fault where
  /-- Raised by every command that names a unit, instance or index the part does not have (R12 and the counts of each
  chapter). No such command can reach the hardware: safe. -/
  | noUnit
  deriving DecidableEq, Repr

/-- Why the model gives a command no meaning. -/
inductive Refusal where
  /-- Raised by an arm of exec whose command has no meaning yet: safe. -/
  | notModelled (mnemonic : String)
  deriving DecidableEq, Repr

end Sys2Proof.Machine
end

