-- ==== Sys2Proof/Machine/Ops.lean ====
section
/-! DEFINITION. The named operations over registers, error bits, free values, check codes and stored words. -/

namespace Sys2Proof.Machine

/-- The outcome of a command. -/
abbrev Out := Host.Outcome State Fault Refusal

/-- A command that happens only under a condition and otherwise leaves the part as it is. -/
def guardNext (c : Bool) (s t : State) : Out := .next (if c then t else s)

/-- A command on a unit or instance: a fault where the part does not have it. -/
def onUnit (ok : Bool) (t : State) : Out := if ok then .next t else .fault .noUnit

/-! ### Registers -/

/-- The value a register holds (its reset value until something changes it). -/
def State.reg (s : State) (a : Nat) : W32 := Tab.get (regReset a) s.regs a

/-- A register given a value. -/
def State.setReg (s : State) (a : Nat) (v : W32) : State :=
  { s with regs := Tab.set (regReset a) s.regs a v }

/-- A field of a register. -/
def State.regF (s : State) (a lo n : Nat) : Nat := fld (s.reg a) lo n

/-- A field of a register given a value. -/
def State.setRegF (s : State) (a lo n x : Nat) : State := s.setReg a (setFld (s.reg a) lo n x)

/-- A saturating counter register advanced by n. -/
def State.countN (s : State) (a n : Nat) : State :=
  s.setReg a (w32 (min ((s.reg a).toNat + n) 0xFFFFFFFF))

/-- A saturating counter register advanced by one. -/
def State.count (s : State) (a : Nat) : State := s.countN a 1

/-- A wrapping counter register advanced by n. -/
def State.countWrap (s : State) (a n : Nat) : State := s.setReg a (s.reg a + w32 n)

/-- Every register of a range of addresses back to its reset value, but for those a test keeps. -/
def State.resetRegs (s : State) (lo hi : Nat) (keep : Nat → Bool) : State :=
  { s with regs := Tab.keep s.regs (fun k => !(decide (lo ≤ k) && decide (k < hi)) || keep k),
           once := Tab.clearIn s.once lo hi }

/-! ### Error bits (R222) -/

def errOff : Nat := 0x018
def errMaskOff : Nat := 0x01C

/-- Whether a source is high: its bit set in BLK_ERR and unmasked (R222). -/
def State.srcHigh (s : State) (page b : Nat) : Bool :=
  bit (s.reg (page + errOff)) b && !bit (s.reg (page + errMaskOff)) b

/-- Whether a page's block is held in reset (R222): that of a unit held by a command (R375), its unit control page apart, and every block
of the I/O die before its release (R366). -/
def State.pageHeld (s : State) (page : Nat) : Bool :=
  match winUnit page with
  | some u => decide (uLevel u ≤ 2) && decide (page / 0x1000 % 16 ≠ 0) && bit (s.reg (uPage u 0 + 0x014)) 3
  | none => decide (0x021000000000 ≤ page) && s.gk.released.isNone

/-- A source rises on this tick (R229). -/
def State.rose (s : State) (key : Nat) : State := { s with roseAt := Tab.set 0 s.roseAt key (s.frc + 1) }

/-- A BLK_ERR bit set; a source that goes high stands as risen (R222). A bit already set is no event, and a block held in reset has none. -/
def State.setErr (s : State) (page b : Nat) : State :=
  if bit (s.reg (page + errOff)) b || s.pageHeld page then s
  else
    let t := { s.setReg (page + errOff) (setBit (s.reg (page + errOff)) b true) with
               injSrc := s.injSrc.filter (fun e => !(decide (e = (page, b)))) }
    if bit (s.reg (page + errMaskOff)) b then t else { t.rose (page + b) with risen := t.risen ++ [(page, b)] }

/-- A BLK_ERR bit set where a condition holds. -/
def State.setErrIf (s : State) (c : Bool) (page b : Nat) : State := if c then s.setErr page b else s

/-- A BLK_ERR bit cleared by hardware. -/
def State.clearErr (s : State) (page b : Nat) : State :=
  s.setReg (page + errOff) (setBit (s.reg (page + errOff)) b false)

/-! ### Injections (R214, R235, R471) -/

def injOff : Nat := 0x020

/-- The check bits that injection n inverts in the 32-bit and in the 64-bit code (R214). -/
def inj32 (n : Nat) : Nat := ([0, 0x01, 0x03, 0x64, 0x7F] : List Nat).getD n 0
def inj64 (n : Nat) : Nat := ([0, 0x01, 0x03, 0x5B, 0xFF] : List Nat).getD n 0

/-- A check made by checker c of a page: the injection applied to it, 0 for none, with COUNT one less (R471). One that the Folly's test
lane armed applies to test accesses alone (R214). -/
def State.injTake (s : State) (page c : Nat) : Nat × State :=
  let v := s.reg (page + injOff)
  if bit v 31 || decide (fld v 8 8 = 0) || decide (fld v 0 4 ≠ c) then (0, s)
  else (fld v 4 4, s.setReg (page + injOff) (setFld v 8 8 (fld v 8 8 - 1)))

/-- A BLK_ERR bit set by a check to which injection n was applied, 0 for none (R235). -/
def State.setErrBy (s : State) (n page b : Nat) : State :=
  let t := s.setErr page b
  if n = 0 || decide (t.reg (page + errOff) = s.reg (page + errOff)) then t else { t with injSrc := (page, b) :: t.injSrc }

/-! ### Free values -/

/-- The next free word, and the state that has drawn it. -/
def State.draw (s : State) : W32 × State := (Config.freeWord s.free, { s with free := s.free + 1 })

/-- The next free number. -/
def State.drawNat (s : State) : Nat × State := (Config.freeNat s.free, { s with free := s.free + 1 })

/-- Something sent. -/
def State.emit (s : State) (o : Output) : State := { s with out := s.out ++ [o] }

/-! ### The check codes (R121 to R125) -/

/-- Columns of d0 to d31 of the 32-bit code (R121). -/
def cols32 : List Nat :=
  [0x07, 0x0B, 0x0D, 0x0E, 0x13, 0x15, 0x16, 0x19, 0x1A, 0x1C, 0x23, 0x25, 0x26, 0x29, 0x2A, 0x2C,
   0x31, 0x32, 0x34, 0x38, 0x43, 0x45, 0x46, 0x49, 0x4A, 0x4C, 0x51, 0x52, 0x54, 0x58, 0x61, 0x62]

/-- Columns of h0 to h15 of the 32-bit code (R121). -/
def hcols32 : List Nat :=
  [0x64, 0x68, 0x70, 0x1F, 0x2F, 0x37, 0x3B, 0x3D, 0x3E, 0x4F, 0x57, 0x5B, 0x5D, 0x5E, 0x67, 0x6B]

/-- The 8-bit values of a weight, ascending. -/
def weight8 (w : Nat) : List Nat := (List.range 256).filter (fun n => popcnt 8 n = w)

/-- Columns of the 64 data bits of the 64-bit code (R123). -/
def cols64 : List Nat := weight8 3 ++ (weight8 5).take 8

/-- Columns of the 16 hash bits of the 64-bit code (R123). -/
def hcols64 : List Nat := ((weight8 5).drop 8).take 16

/-- The 16-bit hash of an address in the 32-bit code (R122). -/
def hash32 (a : Nat) : Nat := nfld a 2 16 ^^^ nfld a 18 16 ^^^ nfld a 34 14

/-- The 16-bit hash of an address in the 64-bit code (R123). -/
def hash64 (a : Nat) : Nat := nfld a 3 16 ^^^ nfld a 19 16 ^^^ nfld a 35 13

/-- XOR of the columns of the bits that are set. -/
def xorCols (cols : List Nat) (v : Nat) : Nat :=
  cols.zipIdx.foldl (fun a c => if nbit v c.2 then a ^^^ c.1 else a) 0

/-- Check bits of a word at an address in the 32-bit code (R121). -/
def check32 (d : W32) (a : Nat) : BitVec 7 :=
  BitVec.ofNat 7 (xorCols cols32 d.toNat ^^^ xorCols hcols32 (hash32 a))

/-- Check bits of a DRAM word at an address in the 64-bit code (R123). -/
def check64 (d : W64) (a : Nat) : BitVec 8 :=
  BitVec.ofNat 8 (xorCols cols64 d.toNat ^^^ xorCols hcols64 (hash64 a))

/-- What a syndrome says (R124). -/
inductive Ecc where
  | clean
  | fixData (i : Nat)
  | fixCheck
  | addr
  | poison
  | ue
  deriving DecidableEq, Repr

/-- The decoding of a syndrome over the columns of a code (R124). -/
def eccDecode (cols hcols : List Nat) (checkBits syn : Nat) : Ecc :=
  if syn = 0 then .clean
  else if syn = 2 ^ checkBits - 1 then .poison
  else match findIdx? (fun c => decide (c = syn)) cols with
    | some (i, _) => .fixData i
    | none =>
      if popcnt checkBits syn = 1 then .fixCheck
      else if hcols.contains syn then .addr
      else .ue

/-- R124 for the 32-bit code. -/
def ecc32 (syn : Nat) : Ecc := eccDecode cols32 hcols32 7 syn
/-- R124 for the 64-bit code. -/
def ecc64 (syn : Nat) : Ecc := eccDecode cols64 hcols64 8 syn

/-- A data word with the bit that a syndrome points at corrected. -/
def Ecc.fix {w : Nat} (e : Ecc) (d : BitVec w) : BitVec w :=
  match e with
  | .fixData i => d ^^^ BitVec.ofNat w (2 ^ i)
  | _ => d

/-- Whether a syndrome's outcome delivers poison to the consumer (R124). -/
def Ecc.bad : Ecc → Bool
  | .addr => true
  | .poison => true
  | .ue => true
  | _ => false

/-- Whether the outcome is a corrected error. -/
def Ecc.corrected : Ecc → Bool
  | .fixData _ => true
  | .fixCheck => true
  | _ => false

/-! ### Stored bytes and words -/

/-- The stored byte at a key; a byte that nothing has written reads 0. -/
def State.byte (s : State) (k : Nat) : Byte := Tab.get 0 s.mem k

/-- A stored byte changed. -/
def State.setByte (s : State) (k : Nat) (b : Byte) : State := { s with mem := Tab.set 0 s.mem k b }

/-- The canonical form of memory: addresses strictly rising, and no entry that equals what an unlisted address reads as. -/
def Memory.wf (m : Tab Byte) : Bool := Tab.wf 0 m

/-- The canonical form of the registers, each of which has a reset value of its own. -/
def regsWf (r : Tab W32) : Bool := Tab.rising 0 r && r.all (fun e => !decide (e.2 = regReset e.1))

/-- The Gatehouse's and the Groundskeeper's own memories are in canonical form. -/
def State.localForm (s : State) : Bool := Memory.wf s.tcm && Tab.wf 0 s.ghSyn && Memory.wf s.gkSram && Tab.wf 0 s.gkSyn

/-- Memories, syndromes and registers are in canonical form. -/
def State.inForm (s : State) : Bool := Memory.wf s.mem && Tab.wf 0 s.syn && regsWf s.regs && s.localForm

/-- Consecutive stored bytes. -/
def State.bytes (s : State) (k n : Nat) : List Byte := (List.range n).map (fun i => s.byte (k + i))

/-- Consecutive bytes stored. -/
def State.setBytes (s : State) : Nat → List Byte → State
  | _, [] => s
  | k, b :: r => State.setBytes (s.setByte k b) (k + 1) r

/-- The 32-bit word stored at a key, without its check. -/
def State.rawW (s : State) (k : Nat) : W32 := w32 (ofBytesLE (s.bytes k 4))

/-- The stored syndrome of a protected word. -/
def State.synAt (s : State) (k : Nat) : Nat := (Tab.get 0 s.syn k).toNat

/-- A stored syndrome given a value. -/
def State.setSyn (s : State) (k n : Nat) : State := { s with syn := Tab.set 0 s.syn k (BitVec.ofNat 8 n) }

/-- A word stored with correct check bits. -/
def State.putW (s : State) (k : Nat) (v : W32) : State := (s.setBytes k (bytesLE 4 v.toNat)).setSyn k 0

end Sys2Proof.Machine
end

