-- ==== Sys2Proof/Machine/Float.lean ====
section
/-! DEFINITION. Number formats and rounding (R21, R22, R28, R32, R35, R36): decoding of a format's bits to an exact value,
exact arithmetic on values, and one rounding into a format. -/

namespace Sys2Proof.Machine

/-- What the top exponent code of a format holds (R21). -/
inductive FTop where
  | ieee
  | e4m3
  | finite
  deriving DecidableEq, Repr

/-- A floating-point format (R21): exponent bits, mantissa bits, bias and top code. -/
structure FFmt where
  eb : Nat
  mb : Nat
  bias : Nat
  top : FTop
  deriving DecidableEq, Repr

def FFmt.fp32 : FFmt := ⟨8, 23, 127, .ieee⟩
def FFmt.bf16 : FFmt := ⟨8, 7, 127, .ieee⟩
def FFmt.fp16 : FFmt := ⟨5, 10, 15, .ieee⟩
def FFmt.e4m3 : FFmt := ⟨4, 3, 7, .e4m3⟩
def FFmt.e5m2 : FFmt := ⟨5, 2, 15, .ieee⟩
def FFmt.e3m2 : FFmt := ⟨3, 2, 3, .finite⟩
def FFmt.e2m3 : FFmt := ⟨2, 3, 1, .finite⟩
def FFmt.e2m1 : FFmt := ⟨2, 1, 1, .finite⟩

/-- An exact value: NaN, an infinity, or ± m × 2^e. -/
inductive FVal where
  | nan
  | inf (s : Bool)
  | fin (s : Bool) (m : Nat) (e : Int)
  deriving DecidableEq, Repr

/-- Rounding modes: those of R35 and the further ones of the RISC-V rm field (R32). -/
inductive Rm where
  | rne
  | sr (draw : BitVec 16)
  | rtz
  | rdn
  | rup
  | rmm
  deriving DecidableEq, Repr

/-- The value that a format's bits encode (R21, R22). -/
def FFmt.decode (f : FFmt) (n : Nat) : FVal :=
  let m := nfld n 0 f.mb
  let ex := nfld n f.mb f.eb
  let s := nbit n (f.mb + f.eb)
  match f.top with
  | .ieee =>
    if ex = 2 ^ f.eb - 1 then (if m = 0 then .inf s else .nan)
    else if ex = 0 then .fin s m (1 - (f.bias : Int) - f.mb)
    else .fin s (m + 2 ^ f.mb) ((ex : Int) - f.bias - f.mb)
  | .e4m3 =>
    if ex = 15 ∧ m = 7 then .nan
    else if ex = 0 then .fin s m (1 - (f.bias : Int) - f.mb)
    else .fin s (m + 2 ^ f.mb) ((ex : Int) - f.bias - f.mb)
  | .finite =>
    if ex = 0 then .fin s m (1 - (f.bias : Int) - f.mb)
    else .fin s (m + 2 ^ f.mb) ((ex : Int) - f.bias - f.mb)

/-- Code of the largest finite magnitude (R21). -/
def FFmt.maxCode (f : FFmt) : Nat :=
  match f.top with
  | .ieee => (2 ^ f.eb - 1) * 2 ^ f.mb - 1
  | .e4m3 => 2 ^ (f.eb + f.mb) - 2
  | .finite => 2 ^ (f.eb + f.mb) - 1

/-- Code of infinity; the canonical NaN in a format that has none (R28). -/
def FFmt.infCode (f : FFmt) : Nat :=
  match f.top with
  | .ieee => (2 ^ f.eb - 1) * 2 ^ f.mb
  | .e4m3 => 2 ^ (f.eb + f.mb) - 1
  | .finite => f.maxCode

/-- The canonical NaN (R22). -/
def FFmt.nanCode (f : FFmt) : Nat :=
  match f.top with
  | .ieee => (2 ^ f.eb - 1) * 2 ^ f.mb + 2 ^ (f.mb - 1)
  | .e4m3 => 0x7F
  | .finite => 0

/-- A magnitude code with its sign bit. -/
def FFmt.withSign (f : FFmt) (s : Bool) (c : Nat) : Nat := if s then c + 2 ^ (f.eb + f.mb) else c

/-- What a signed overflow or infinity becomes where it does not saturate: an infinity, and in E4M3 the canonical NaN (R22, R28). -/
def FFmt.infBits (f : FFmt) (s : Bool) : Nat :=
  match f.top with
  | .e4m3 => f.nanCode
  | _ => f.withSign s f.infCode

/-- m / 2^d rounded to an integer, and whether anything was lost. Stochastic rounding follows R36. -/
def roundAt (rm : Rm) (s : Bool) (m d : Nat) : Nat × Bool :=
  let keep := m >>> d
  let rem := m % 2 ^ d
  if rem = 0 then (keep, false)
  else match rm with
    | .rne =>
      let half := 2 ^ (d - 1)
      (if half < rem ∨ (rem = half ∧ keep % 2 = 1) then keep + 1 else keep, true)
    | .rmm => (if 2 ^ (d - 1) ≤ rem then keep + 1 else keep, true)
    | .rtz => (keep, true)
    | .rdn => (if s then keep + 1 else keep, true)
    | .rup => (if s then keep else keep + 1, true)
    | .sr draw =>
      let d' := min d 16
      let kept := m >>> (d - d')
      ((kept + draw.toNat % 2 ^ d') >>> d', true)

/-- A rounding's outcome: the bits, inexactness, overflow, a tiny inexact result, and tininess as RISC-V detects it. -/
structure Rnd where
  bits : Nat
  nx : Bool
  ovf : Bool
  unf : Bool
  unfRv : Bool
  nv : Bool
  deriving DecidableEq, Repr

/-- Rounding of ± m × 2^e into a format (R28, R32). UF of R38 is judged on the delivered code, below the smallest normal after rounding
(DESIGN CHOICE: R38 does not say whether tininess is judged before or after); the scalar flag follows RISC-V. A NaN made from a number
raises NV (R38). -/
def FFmt.roundFin (f : FFmt) (rm : Rm) (sat : Bool) (s : Bool) (m : Nat) (e : Int) : Rnd :=
  if m = 0 then ⟨f.withSign s 0, false, false, false, false, false⟩
  else
    let qmin : Int := 1 - (f.bias : Int) - f.mb
    let q0 : Int := e + (Nat.log2 m : Int) - f.mb
    let q : Int := max qmin q0
    let (k, nx) := if q ≤ e then (m <<< (e - q).toNat, false) else roundAt rm s m (q - e).toNat
    let (k, q) := if 2 ^ (f.mb + 1) ≤ k then (2 ^ f.mb, q + 1) else (k, q)
    let code : Nat := if k < 2 ^ f.mb then k else (q + f.bias + f.mb).toNat * 2 ^ f.mb + (k - 2 ^ f.mb)
    if f.maxCode < code then
      let toMax : Bool := match rm with
        | .rtz => true
        | .rdn => !s
        | .rup => s
        | _ => sat
      ⟨if toMax then f.withSign s f.maxCode else f.infBits s, true, true, false, false, !toMax && decide (f.top = .e4m3)⟩
    else
      let k0 := if q0 ≤ e then m <<< (e - q0).toNat else (roundAt rm s m (q0 - e).toNat).1
      let tinyRv : Bool := decide (q0 < qmin) && !(decide (q0 = qmin - 1) && decide (2 ^ (f.mb + 1) ≤ k0))
      ⟨f.withSign s code, nx, false, nx && decide (code < 2 ^ f.mb), nx && tinyRv, false⟩

/-- Rounding of any value into a floating-point format (R28): NaN is canonical; an infinity saturates where SAT is set. -/
def FFmt.round (f : FFmt) (rm : Rm) (sat : Bool) : FVal → Rnd
  | .nan => ⟨f.nanCode, false, false, false, false, false⟩
  | .inf s => ⟨if sat then f.withSign s f.maxCode else f.infBits s, false, false, false, false, !sat && decide (f.top = .e4m3)⟩
  | .fin s m e => f.roundFin rm sat s m e

/-- Whether the value is NaN. -/
def FVal.isNan : FVal → Bool
  | .nan => true
  | _ => false

/-- Whether the value is an infinity. -/
def FVal.isInf : FVal → Bool
  | .inf _ => true
  | _ => false

/-- Sign of a value (NaN counts as positive). -/
def FVal.sign : FVal → Bool
  | .nan => false
  | .inf s => s
  | .fin s _ _ => s

/-- Negation. -/
def FVal.neg : FVal → FVal
  | .nan => .nan
  | .inf s => .inf (!s)
  | .fin s m e => .fin (!s) m e

/-- Signed mantissa. -/
def smant (s : Bool) (m : Nat) : Int := if s then -(m : Int) else (m : Int)

/-- Exact product; true where it is a new NaN. -/
def FVal.mul : FVal → FVal → FVal × Bool
  | .nan, _ => (.nan, false)
  | _, .nan => (.nan, false)
  | .inf s, .inf t => (.inf (s != t), false)
  | .inf s, .fin t m _ => if m = 0 then (.nan, true) else (.inf (s != t), false)
  | .fin t m _, .inf s => if m = 0 then (.nan, true) else (.inf (s != t), false)
  | .fin s m e, .fin t n g => (.fin (s != t) (m * n) (e + g), false)

/-- Exact sum; an exact zero of mixed signs is +0, or −0 where `down` is set; true where it is a new NaN. -/
def FVal.add (down : Bool) : FVal → FVal → FVal × Bool
  | .nan, _ => (.nan, false)
  | _, .nan => (.nan, false)
  | .inf s, .inf t => if s = t then (.inf s, false) else (.nan, true)
  | .inf s, .fin _ _ _ => (.inf s, false)
  | .fin _ _ _, .inf s => (.inf s, false)
  | .fin s m e, .fin t n g =>
    let x := min e g
    let v := smant s (m <<< (e - x).toNat) + smant t (n <<< (g - x).toNat)
    if v = 0 then (.fin (if s = t then s else down) 0 x, false)
    else (.fin (decide (v < 0)) v.natAbs x, false)

/-- Order of two numbers; both zeros are equal. NaN never compares. -/
def FVal.lt : FVal → FVal → Bool
  | .nan, _ => false
  | _, .nan => false
  | .inf s, .inf t => s && !t
  | .inf s, .fin _ _ _ => s
  | .fin _ _ _, .inf t => !t
  | .fin s m e, .fin t n g =>
    let x := min e g
    decide (smant s (m <<< (e - x).toNat) < smant t (n <<< (g - x).toNat))

/-- Equality of two numbers; both zeros are equal. NaN never compares. -/
def FVal.eq (a b : FVal) : Bool := !a.isNan && !b.isNan && !FVal.lt a b && !FVal.lt b a

/-- Quotient to 40 bits with a sticky last bit; flags invalid and division by zero. -/
def FVal.div : FVal → FVal → FVal × Bool × Bool
  | .nan, _ => (.nan, false, false)
  | _, .nan => (.nan, false, false)
  | .inf _, .inf _ => (.nan, true, false)
  | .inf s, .fin t _ _ => (.inf (s != t), false, false)
  | .fin s _ _, .inf t => (.fin (s != t) 0 0, false, false)
  | .fin s m e, .fin t n g =>
    if n = 0 then (if m = 0 then (.nan, true, false) else (.inf (s != t), false, true))
    else
      let sh := 40 + Nat.log2 n - Nat.log2 m
      let a := m <<< sh
      (.fin (s != t) (2 * (a / n) + b2n (decide (a % n ≠ 0))) (e - g - sh - 1), false, false)

/-- Integer square root, bit by bit from bit k − 1 down. -/
def isqrtFrom (n : Nat) : Nat → Nat → Nat
  | 0, r => r
  | k + 1, r => let t := r + 2 ^ k; isqrtFrom n k (if t * t ≤ n then t else r)

/-- Largest r with r × r ≤ n. -/
def isqrt (n : Nat) : Nat := isqrtFrom n (Nat.log2 n / 2 + 1) 0

/-- Square root to over 30 bits with a sticky last bit; flags invalid. -/
def FVal.sqrt : FVal → FVal × Bool
  | .nan => (.nan, false)
  | .inf s => if s then (.nan, true) else (.inf false, false)
  | .fin s m e =>
    if m = 0 then (.fin s 0 e, false)
    else if s then (.nan, true)
    else
      let (m, e) := if e % 2 = 0 then (m, e) else (2 * m, e - 1)
      let a := m <<< 64
      let r := isqrt a
      (.fin false (2 * r + b2n (decide (r * r ≠ a))) (e / 2 - 32 - 1), false)

/-- A value rounded to an integer under a mode: the integer and inexactness; none for NaN and infinities. -/
def FVal.toInt (rm : Rm) : FVal → Option (Int × Bool)
  | .nan => none
  | .inf _ => none
  | .fin s m e =>
    if 0 ≤ e then some (smant s (m <<< e.toNat), false)
    else
      let (k, nx) := roundAt rm s m (-e).toNat
      some (smant s k, nx)

/-- An integer as a value. -/
def FVal.ofInt (x : Int) : FVal := .fin (decide (x < 0)) x.natAbs 0

/-- FP32 bits as a value. -/
def fdec (w : W32) : FVal := FFmt.fp32.decode w.toNat

/-- The canonical FP32 NaN (R22). -/
def fnan : W32 := 0x7FC00000#32

/-- Largest integer ≤ m × 2^e with its sign. -/
def floorScaled (v : Int) (e : Int) : Int :=
  if 0 ≤ e then v * (2 ^ e.toNat : Nat) else v / (2 ^ (-e).toNat : Nat)

end Sys2Proof.Machine
end

