-- ==== Sys2Proof/Machine/Transcend.lean ====
section
/-! DEFINITION. Exact enough values of exp and log (R34): fixed point with 448 bits of fraction, far below the 2 ulp that the rule
bounds, and the FP32 values that lie within a number of ulp of a value. -/

namespace Sys2Proof.Machine

/-- Sum of n terms of the exponential series from term k on, whose value is t; y and t have 448 bits of fraction. -/
def expSeries (y : Nat) : Nat → Nat → Nat → Nat
  | 0, _, _ => 0
  | n + 1, k, t => t + expSeries y n (k + 1) (t * y / 2 ^ 448 / (k + 1))

/-- A number with 448 bits of fraction squared n times. -/
def squared : Nat → Nat → Nat
  | 0, x => x
  | n + 1, x => squared n (x * x / 2 ^ 448)

/-- e to the power ± m × 2^e; arguments beyond 112 count as 112, where the result is already infinite or 0. -/
def expVal (s : Bool) (m : Nat) (e : Int) : FVal :=
  if m = 0 then .fin false 1 0
  else
    let y := if FVal.lt (.fin false 112 0) (.fin false m e) then 112 * 2 ^ 440 else m * 2 ^ (e + 440).toNat
    let x := squared 8 (expSeries y 96 0 (2 ^ 448))
    .fin false (2 * (if s then 2 ^ 896 / x else x) + 1) (-449)

/-- Sum of n terms z^k / k over odd k from k on, where t is z^k. -/
def logSeries (zz : Nat) : Nat → Nat → Nat → Nat
  | 0, _, _ => 0
  | n + 1, k, t => t / k + logSeries zz n (k + 2) (t * zz / 2 ^ 448)

/-- log of (d + x) / (d − x), twice the inverse hyperbolic tangent of x / d. -/
def logRatio (x d : Nat) : Nat :=
  let z := x * 2 ^ 448 / d
  2 * logSeries (z * z / 2 ^ 448) 150 1 z

/-- log of m × 2^e, which is above 0. -/
def logVal (m : Nat) (e : Int) : FVal :=
  let l := Nat.log2 m
  let v : Int := (e + l) * logRatio 1 3 + logRatio (m - 2 ^ l) (m + 2 ^ l)
  if v = 0 then .fin false 0 0 else .fin (decide (v < 0)) (2 * v.natAbs + 1) (-449)

/-- The value of an FP32 magnitude code; that of infinity counts as 2^128. -/
def codeVal (c : Nat) : FVal := if c = 0x7F800000 then .fin false 1 128 else FFmt.fp32.decode c

/-- Whether a magnitude code lies within n ulp of ± m × 2^e; below the smallest normal the result is a subnormal or 0 (R34). -/
def inUlp (n m : Nat) (e : Int) (c : Nat) : Bool :=
  let q : Int := if m = 0 then -149 else max (-149) (e + Nat.log2 m - 23)
  let (d, _) := FVal.add false (codeVal c) (.fin true m e)
  let far := match d with
    | .fin _ k x => FVal.lt (.fin false n q) (.fin false k x)
    | _ => true
  !far && (!FVal.lt (.fin false m e) (.fin false 1 (-126)) || decide (c < 2 ^ 23))

/-- The FP32 magnitude codes within n ulp of a magnitude, rising. -/
def ulpCodes (n m : Nat) (e : Int) : List Nat :=
  let r := (FFmt.fp32.roundFin .rtz false false m e).bits
  ((List.range (4 * n + 3)).filter (fun i => decide (2 * n ≤ r + i) && decide (r + i - 2 * n ≤ 0x7F800000)
    && inUlp n m e (r + i - 2 * n))).map (fun i => r + i - 2 * n)

end Sys2Proof.Machine
end

