-- ==== Sys2Proof/Machine/Flags.lean ====
section
/-! DEFINITION. The core's sticky arithmetic flags (R38) and the fflags of the scalar sequencer (R32): what each
operation's rounding says of them. -/

namespace Sys2Proof.Machine

/-- NV, OF, UF, SATACC, MXNAN and META as bits of CORE_ARITH (R82). -/
def flNV : Nat := 1
def flOF : Nat := 2
def flUF : Nat := 4
def flSATACC : Nat := 8
def flMXNAN : Nat := 16
def flMETA : Nat := 32

/-- A flag where a condition holds. -/
def flIf (c : Bool) (f : Nat) : Nat := if c then f else 0

/-- The flags that a rounding raises (R38). -/
def Rnd.flags (r : Rnd) : Nat := flIf r.nv flNV ||| flIf r.ovf flOF ||| flIf r.unf flUF

/-- The flags of CORE_ARITH set; META is mirrored into BLK_ERR (R38, R81). -/
def State.arith (s : State) (u : UnitId) (fl : Nat) : State :=
  if fl = 0 then s
  else
    let a := uPage u 1 + 0x044
    let t := s.setReg a (s.reg a ||| w32 fl)
    if nbit fl 5 then t.setErr (uPage u 1) 3 else t

/-- A result word and the flags it raises. -/
abbrev FRes := W32 × Nat

/-- A value rounded to FP32 by nearest even, with the flags of R38. -/
def toF32 (v : FVal) (nv : Bool) : FRes :=
  let r := FFmt.fp32.round .rne false v
  (w32 r.bits, r.flags ||| flIf nv flNV)

/-- FP32 addition (R32). -/
def fAdd (a b : W32) : FRes := let (v, nv) := FVal.add false (fdec a) (fdec b); toF32 v nv
/-- FP32 subtraction (R32). -/
def fSub (a b : W32) : FRes := let (v, nv) := FVal.add false (fdec a) (fdec b).neg; toF32 v nv
/-- FP32 multiplication (R32). -/
def fMul (a b : W32) : FRes := let (v, nv) := FVal.mul (fdec a) (fdec b); toF32 v nv
/-- FP32 multiply-add with one rounding (R32, R53). -/
def fFma (a b c : W32) : FRes :=
  let (p, n1) := FVal.mul (fdec a) (fdec b)
  let (v, n2) := FVal.add false p (fdec c)
  toF32 v (n1 || n2)
/-- FP32 minimum: NaN where an operand is NaN; −0 is below +0 (R22, R32). -/
def fMin (a b : W32) : FRes :=
  let x := fdec a
  let y := fdec b
  if x.isNan || y.isNan then (fnan, 0)
  else if FVal.lt x y then (a, 0) else if FVal.lt y x then (b, 0) else (a ||| (b &&& 0x80000000#32), 0)
/-- FP32 maximum: NaN where an operand is NaN; +0 is above −0 (R22, R32). -/
def fMax (a b : W32) : FRes :=
  let x := fdec a
  let y := fdec b
  if x.isNan || y.isNan then (fnan, 0)
  else if FVal.lt x y then (b, 0) else if FVal.lt y x then (a, 0)
  else (if bit a 31 && !bit b 31 then b else a, 0)

/-- One of the FP32 values within n ulp of a value, by a choice that the spec leaves open, with its flags (R34, R38); a value above
2^128 is an overflow. -/
def withinUlp (n : Nat) (v : FVal) (pick : Nat) : FRes :=
  match v with
  | .fin s m e =>
    let sign : Nat := if s then 2 ^ 31 else 0
    if FVal.lt (.fin false 1 128) (.fin false m e) then (w32 (sign + 0x7F800000), flOF)
    else
      let cs := ulpCodes n m e
      let c := cs.getD (pick % cs.length) 0
      (w32 (sign + c), flIf (decide (c = 0x7F800000)) flOF
        ||| flIf (decide (c < 2 ^ 23) && !FVal.eq (codeVal c) (.fin false m e)) flUF)
  | _ => (fnan, 0)

/-- exp (R34). -/
def fExp (a : W32) : FRes :=
  match fdec a with
  | .nan => (fnan, 0)
  | .inf s => (if s then 0 else a, 0)
  | .fin s m e =>
    if !s && FVal.lt (.fin false 887228 0) (.fin false (m * 10000) e) then (0x7F800000#32, flOF)
    else withinUlp 2 (expVal s m e) (Config.expPick a)
/-- log (R34). -/
def fLog (a : W32) : FRes :=
  match fdec a with
  | .nan => (fnan, 0)
  | .inf s => if s then (fnan, flNV) else (a, 0)
  | .fin s m e =>
    if m = 0 then (0xFF800000#32, 0) else if s then (fnan, flNV) else withinUlp 2 (logVal m e) (Config.logPick a)
/-- Reciprocal (R34). -/
def fRcp (a : W32) : FRes :=
  match fdec a with
  | .nan => (fnan, 0)
  | .inf s => (if s then 0x80000000#32 else 0, 0)
  | .fin s m e =>
    if m = 0 then (if s then 0xFF800000#32 else 0x7F800000#32, 0)
    else withinUlp 1 (FVal.div (.fin false 1 0) (.fin s m e)).1 (Config.rcpPick a)
/-- Reciprocal square root (R34): the exact value is the square root of the reciprocal. -/
def fRsqrt (a : W32) : FRes :=
  match fdec a with
  | .nan => (fnan, 0)
  | .inf s => if s then (fnan, flNV) else (0, 0)
  | .fin s m e =>
    if m = 0 then (if s then 0xFF800000#32 else 0x7F800000#32, 0)
    else if s then (fnan, flNV)
    else
      let (m', e') := if e % 2 = 0 then (m, e) else (2 * m, e - 1)
      let r := isqrt (2 ^ 160 / m')
      withinUlp 1 (.fin false (2 * r + b2n (decide (r * r * m' ≠ 2 ^ 160))) (-80 - e' / 2 - 1)) (Config.rsqrtPick a)

/-- Pairs of neighbours combined, once over a list: one level of the lane tree of R32, which says no more of its shape than that it
is fixed (DESIGN CHOICE, log entry on the lane tree). -/
def treeLevel (f : W32 → W32 → FRes) : List W32 → List W32 × Nat
  | a :: b :: r =>
    let (w, fl) := f a b
    let (ws, fs) := treeLevel f r
    (w :: ws, fl ||| fs)
  | l => (l, 0)

/-- The binary tree over the lanes, k levels deep (R32). -/
def treeReduce (f : W32 → W32 → FRes) : Nat → List W32 → FRes
  | 0, l => (l.headD 0, 0)
  | k + 1, l =>
    let (l', fl) := treeLevel f l
    let (w, fl') := treeReduce f k l'
    (w, fl ||| fl')

end Sys2Proof.Machine
end

