-- ==== Sys2Proof/Machine/Convert.lean ====
section
/-! DEFINITION. Element formats by code (R48), their storage (R26), widening to FP32 and conversion from FP32 (R28), and
microscaling blocks (R23 to R25, R29). -/

namespace Sys2Proof.Machine

/-- Bits per element of a format code (R48). -/
def elemBits (c : Nat) : Nat :=
  ([4, 8, 8, 8, 16, 16, 32, 32, 8, 8, 6, 6, 4, 8] : List Nat).getD c 0

/-- A microscaling format code (R48). -/
def isMx (c : Nat) : Bool := decide (8 ≤ c) && decide (c ≤ 0xD)
/-- An integer element format code. -/
def isInt (c : Nat) : Bool := decide (c ≤ 1)
/-- A reserved format code (R48). -/
def fmtReserved (c : Nat) : Bool := decide (0xE ≤ c)

/-- The floating-point format of a code, of its elements for a microscaling code. -/
def ffmtOf (c : Nat) : FFmt :=
  match c with
  | 2 => .e4m3 | 3 => .e5m2 | 4 => .fp16 | 5 => .bf16 | 8 => .e4m3 | 9 => .e5m2
  | 0xA => .e3m2 | 0xB => .e2m3 | 0xC => .e2m1 | _ => .fp32

/-- Emax of R29. -/
def mxEmax (c : Nat) : Int :=
  match c with
  | 8 => 8 | 9 => 15 | 0xA => 4 | 0xB => 2 | 0xC => 2 | _ => 0

/-- The value of stored element bits, without scales: integers as codes, MX INT8 in units of 2⁻⁶ (R21). -/
def elemVal (c n : Nat) : FVal :=
  match c with
  | 0 => .ofInt (sfld n 4)
  | 1 => .ofInt (sfld n 8)
  | 0xD => match FVal.ofInt (sfld n 8) with
    | .fin s m e => .fin s m (e - 6)
    | v => v
  | _ => (ffmtOf c).decode n

/-- A value times a power of two. -/
def FVal.scale (v : FVal) (k : Int) : FVal :=
  match v with
  | .fin s m e => .fin s m (e + k)
  | v => v

/-- The value of a microscaling element under its scale byte (R23, R24). -/
def mxVal (c : Nat) (scale n : Nat) : FVal :=
  if scale = 0xFF then .nan else (elemVal c n).scale ((scale : Int) - 127)

/-- Largest and least values of an integer format. -/
def intRange (c : Nat) : Int × Int := if c = 0 then (-8, 7) else (-128, 127)

/-- Conversion of a quotient to an integer format (R28): the bits and the flags. -/
def toIntFmt (c : Nat) (rm : Rm) (v : FVal) : Nat × Nat :=
  let (lo, hi) := intRange c
  let w := elemBits c
  match v with
  | .nan => (0, flNV)
  | .inf s => (ibits w (if s then lo else hi), flNV)
  | .fin s m e =>
    match FVal.toInt rm (.fin s m e) with
    | none => (0, flNV)
    | some (x, _) => if x < lo then (ibits w lo, flOF) else if hi < x then (ibits w hi, flOF) else (ibits w x, 0)

/-- Conversion of one FP32 value to a format that is not microscaling (R28); an integer format divides by the scale, and a division
by a scale of 0 counts as an infinity, or NaN for 0 / 0 (DESIGN CHOICE: R28 states no result there). -/
def convOne (c : Nat) (rm : Rm) (sat : Bool) (scale : W32) (x : W32) : Nat × Nat :=
  if c = 7 then (x.toNat, 0)
  else if isInt c then toIntFmt c rm (FVal.div (fdec x) (fdec scale)).1
  else
    let r := (ffmtOf c).round rm sat (fdec x)
    (r.bits, r.flags)

/-- The halves of the generator's state: the older word lies low. -/
def genOld (g : BitVec 128) : W64 := g.setWidth 64
def genNew (g : BitVec 128) : W64 := (g >>> (64 : Nat)).setWidth 64

/-- One step of xorshift128+ (R37). -/
def genStep (g : BitVec 128) : BitVec 128 :=
  let y := genNew g
  let x := genOld g ^^^ (genOld g <<< Config.srShiftL)
  (x ^^^ y ^^^ (x >>> Config.srShiftR1) ^^^ (y >>> Config.srShiftR2)) ++ y

/-- The rounding mode of a rounding field, with the draw of this element (R35). -/
def rmOf (rnd : Nat) (gen : BitVec 128) : Rm :=
  match rnd with
  | 1 => .sr (Config.srDraw (genOld gen + genNew gen))
  | 2 => .rtz
  | _ => .rne

/-- The generator after an element (R36): each element under SR consumes a draw. -/
def genAfter (rnd : Nat) (gen : BitVec 128) : BitVec 128 := if rnd = 1 then genStep gen else gen

/-- Conversion of a row of values, element by element: the bits, the flags and the generator after. Every element of a row that is
converted under SR draws, whether or not it needed rounding; a NaN block converts no element (DESIGN CHOICE: R36 says 'each element
rounded'). -/
def convList (c rnd : Nat) (sat : Bool) (scale : W32) : BitVec 128 → List W32 → List Nat × Nat × BitVec 128
  | g, [] => ([], 0, g)
  | g, x :: r =>
    let (n, fl) := convOne c (rmOf rnd g) sat scale x
    let (ns, fls, g') := convList c rnd sat scale (genAfter rnd g) r
    (n :: ns, fl ||| fls, g')

/-- The larger of two magnitudes; NaN wins. -/
def maxMag (a b : FVal) : FVal :=
  match a, b with
  | .nan, _ => .nan
  | _, .nan => .nan
  | .inf _, _ => .inf false
  | _, .inf _ => .inf false
  | .fin _ m e, .fin _ n g => if FVal.lt (.fin false m e) (.fin false n g) then .fin false n g else .fin false m e

/-- One element of a block at exponent X (R29 step 4): rounded and clamped. -/
def mxElem (c : Nat) (rm : Rm) (x : Int) (v : FVal) : Nat × Nat :=
  if c = 0xD then
    match v with
    | .fin s m e =>
      match FVal.toInt rm (.fin s m (e - x + 6)) with
      | some (k, _) => (ibits 8 (max (-127) (min 127 k)), 0)
      | none => (0, 0)
    | .inf s => (ibits 8 (if s then -127 else 127), 0)
    | .nan => (0, 0)
  else
    let f := ffmtOf c
    match v with
    | .fin s m e =>
      let r := f.roundFin rm true s m (e - x)
      (r.bits, flIf r.unf flUF)
    | .inf s => (f.withSign s f.maxCode, 0)
    | .nan => (0, 0)

/-- The elements of a block at exponent X, with the generator after. -/
def mxElems (c rnd : Nat) (x : Int) : BitVec 128 → List W32 → List Nat × Nat × BitVec 128
  | g, [] => ([], 0, g)
  | g, w :: r =>
    let (n, fl) := mxElem c (rmOf rnd g) x (fdec w)
    let (ns, fls, g') := mxElems c rnd x (genAfter rnd g) r
    (n :: ns, fl ||| fls, g')

/-- Conversion of 32 values to one microscaling block (R29): scale byte, element bits, flags and generator. -/
def mxBlock (c rnd : Nat) (sat : Bool) (g : BitVec 128) (ws : List W32) : Nat × List Nat × Nat × BitVec 128 :=
  let a := ws.foldl (fun a w => maxMag a (fdec w)) (.fin false 0 0)
  let nanBlock := fun nv => (0xFF, ws.map (fun _ => 0), flMXNAN ||| flIf nv flNV, g)
  match a with
  | .nan => nanBlock false
  | .inf _ =>
    if sat then
      let x : Int := min 127 (127 - mxEmax c)
      let (ns, fl, g') := mxElems c rnd x g ws
      ((x + 127).toNat, ns, fl, g')
    else nanBlock true
  | .fin _ m e =>
    if m = 0 then
      let (ns, _, g') := mxElems c rnd 0 g ws
      (0, ns, 0, g')
    else
      let x : Int := max (-127) (min 127 (e + (Nat.log2 m : Int) - mxEmax c))
      let (ns, fl, g') := mxElems c rnd x g ws
      ((x + 127).toNat, ns, fl, g')

/-- Element bits packed into bytes (R26): fields of the element's width, the lower index in the lower bits. -/
def packElems (w : Nat) (ns : List Nat) : List Byte :=
  bytesLE (w * ns.length / 8) (ns.zipIdx.foldl (fun a e => a + (e.1 % 2 ^ w) <<< (w * e.2)) 0)

/-- n elements of a width unpacked from bytes (R26). -/
def unpackElems (w n : Nat) (bs : List Byte) : List Nat :=
  let v := ofBytesLE bs
  (List.range n).map (fun i => nfld v (w * i) w)

/-- An element widened to FP32 (R54): the value with its scale, rounded to nearest even where FP32 cannot hold it. -/
def widen (v : FVal) : FRes := let r := FFmt.fp32.round .rne false v; (w32 r.bits, r.flags)

/-- An integer code times the FP32 scale, rounded to nearest even (R54). -/
def intScaled (c n : Nat) (scale : W32) : FRes := let (v, nv) := FVal.mul (elemVal c n) (fdec scale); toF32 v nv

/-- FP32 of the bits just converted: what VCVT widens back (R54). -/
def backToF32 (c n : Nat) : W32 := if c = 7 then w32 n else (widen (elemVal c n)).1

end Sys2Proof.Machine
end

