-- ==== Sys2Proof/Machine/Operands.lean ====
section
/-! DEFINITION. The core's operand forms: registers, lanes, predicates, the scratchpad with its code (R61, R62), the
Daxix frame (R47) and traps (R46). -/

namespace Sys2Proof.Machine

/-! ### Cores -/


/-- The Unit ID of a core's cluster and Pavilion. -/
def cluOf (u : UnitId) : UnitId := mkUid 1 (uDie u) (uPav u) (uClu u) 0
def pavOf (u : UnitId) : UnitId := mkUid 2 (uDie u) (uPav u) 0 0

/-- CLU_SPARE_MAP of a cluster (R86). -/
def spareMapAt (clu : UnitId) : Nat := uPage clu 1 + 0x040

/-- The physical core that carries a logical core (R78). -/
def State.phys (s : State) (u : UnitId) : Nat :=
  let m := s.reg (spareMapAt (cluOf u))
  if bit m 8 && decide (fld m 0 4 = uCore u) then 16 else uCore u

/-- Key of a logical core's physical core. -/
def State.physKey (s : State) (u : UnitId) : Nat := 17 * cluIx u + s.phys u

/-- The state of the physical core that carries a logical core. -/
def State.core (s : State) (u : UnitId) : CoreSt := Tab.get CoreSt.init s.cores (s.physKey u)

/-- That state changed. -/
def State.setCore (s : State) (u : UnitId) (c : CoreSt) : State :=
  { s with cores := Tab.set CoreSt.init s.cores (s.physKey u) c }

/-- Whether a logical core is absent (R13). -/
def State.isAbsent (s : State) (u : UnitId) : Bool := Tab.get false s.absent u.toNat

/-- A thermal trip has stopped every clock of a die (R401). -/
def State.tripped (s : State) (d : Nat) : Bool := bit (s.reg (ioPage 0x035 + 0x05C + 4 * d)) 18

/-- Whether the core's sequencer executes instructions: released, not waiting in WFI, not absent. -/
def State.executing (s : State) (u : UnitId) : Bool :=
  (s.core u).run && !(s.core u).wfi && !s.isAbsent u && !s.tripped (uDie u)

/-! ### Core cycles (R44, R82) and the generator (R37) -/

/-- PWR_PAV_STAT of a Pavilion: [31:16] is the clock in force in MHz. -/
def pavMhzAt (p : Nat) : Nat := ioPage 0x035 + 0x0A0 + 4 * p

/-- Cycles of a Pavilion's clock since the part's power-on, in thousandths: those counted up to the last change of the clock, and those
since at the clock in force; a tripped die's clock stands (R401). -/
def State.pavCount (s : State) (p : Nat) : Nat :=
  let x := Tab.get (0, 0) s.pavClk p
  x.1 + (if s.tripped (p / 4) then 0 else (s.frc - x.2) * (2 * s.regF (pavMhzAt p) 16 16))

/-- The clocks of the Pavilions counted up to now, before one of them changes. -/
def State.clkSettle (s : State) : State :=
  { s with pavClk := (List.range 8).foldl (fun t p => Tab.set (0, 0) t p (s.pavCount p, s.frc)) s.pavClk }

/-- A core's clock cycles since the part's power-on. -/
def State.clkCycles (s : State) (u : UnitId) : W64 := BitVec.ofNat 64 (s.pavCount (pavIx u) / 1000)

/-- The core cycle count (R44, R82): one for each instruction executed, and those of the ticks that pass beside them. -/
def State.coreCycles (s : State) (u : UnitId) : W64 := (s.core u).cycle + s.clkCycles u

/-- The generator that work issued under a seed draws from (R37). -/
def CoreSt.genOf (c : CoreSt) (e : Nat) : BitVec 128 := if e = c.epoch then c.gen else Tab.get 0 c.olds e
def CoreSt.setGen (c : CoreSt) (e : Nat) (g : BitVec 128) : CoreSt :=
  if e = c.epoch then { c with gen := g } else { c with olds := Tab.set 0 c.olds e g }

/-- A seed write (R37): what was issued before goes on with the state it began with. -/
def CoreSt.seed (c : CoreSt) (g : BitVec 128) : CoreSt :=
  { c with gen := g, epoch := c.epoch + 1, olds := Tab.set 0 c.olds c.epoch c.gen }

/-! ### Registers of a core -/

/-- x register; x0 reads 0. -/
def CoreSt.rx (c : CoreSt) (r : RegNo) : W32 := if r = 0 then 0 else Tab.get 0 c.x r.toNat
/-- x register written; writes of x0 are discarded. -/
def CoreSt.wx (c : CoreSt) (r : RegNo) (v : W32) : CoreSt := if r = 0 then c else { c with x := Tab.set 0 c.x r.toNat v }
/-- f register. -/
def CoreSt.rf (c : CoreSt) (r : RegNo) : W32 := Tab.get 0 c.f r.toNat
def CoreSt.wf (c : CoreSt) (r : RegNo) (v : W32) : CoreSt := { c with f := Tab.set 0 c.f r.toNat v }
/-- A lane of a vector register (R64). -/
def CoreSt.lane (c : CoreSt) (r : RegNo) (l : Nat) : W32 := Tab.get 0 c.v (32 * r.toNat + l)
/-- The 32 lanes of a vector register. -/
def CoreSt.lanes (c : CoreSt) (r : RegNo) : List W32 := (List.range 32).map (c.lane r)
def CoreSt.setLane (c : CoreSt) (r : RegNo) (l : Nat) (v : W32) : CoreSt :=
  { c with v := Tab.set 0 c.v (32 * r.toNat + l) v }
/-- Predicate register. -/
def CoreSt.pred (c : CoreSt) (n : Nat) : W32 := Tab.get 0 c.p n
def CoreSt.setPred (c : CoreSt) (n : Nat) (v : W32) : CoreSt := { c with p := Tab.set 0 c.p n v }
/-- Lanes written under a mask: a lane whose mask bit is 0 keeps its value (R53). -/
def CoreSt.setLanes (c : CoreSt) (r : RegNo) (m : W32) (vs : List W32) : CoreSt :=
  vs.zipIdx.foldl (fun c e => if bit m e.2 then c.setLane r e.2 e.1 else c) c
/-- The lanes that an instruction writes: those of p0 where MASK is set, else all (R53). -/
def CoreSt.laneMask (c : CoreSt) (mask : Bool) : W32 := if mask then c.pred 0 else 0xFFFFFFFF#32

/-- A queue entry issued. -/
def CoreSt.issue (c : CoreSt) : CoreSt := { c with issued := c.issued + 1 }

/-- A queue of the core (R49). -/
def CoreSt.queue (c : CoreSt) (n : Nat) : QueueSt := Tab.get QueueSt.init c.q n
def CoreSt.setQueue (c : CoreSt) (n : Nat) (q : QueueSt) : CoreSt := { c with q := Tab.set QueueSt.init c.q n q }

/-- The instruction is done: the program counter passes it and the counters of cycles and of retired instructions advance. An instruction
takes one cycle (R43); the cycles of stalls and waits are those of the ticks that pass meanwhile. -/
def CoreSt.advance (c : CoreSt) : CoreSt := { c with pc := c.pc + 4, cycle := c.cycle + 1, instret := c.instret + 1 }

/-! ### Traps (R46) -/

def csrMstatus : Nat := 0x300
def csrMie : Nat := 0x304
def csrMtvec : Nat := 0x305
def csrMepc : Nat := 0x341
def csrMcause : Nat := 0x342
def csrMtval : Nat := 0x343

def CoreSt.rcsr (c : CoreSt) (n : Nat) : W32 := Tab.get 0 c.csr n
def CoreSt.wcsr (c : CoreSt) (n : Nat) (v : W32) : CoreSt := { c with csr := Tab.set 0 c.csr n v }

/-- Exception causes as RISC-V numbers them. -/
def exFetchMis : Nat := 0
def exFetch : Nat := 1
def exIllegal : Nat := 2
def exBreak : Nat := 3
def exLoadMis : Nat := 4
def exLoad : Nat := 5
def exStoreMis : Nat := 6
def exStore : Nat := 7
def exEcall : Nat := 11

/-- The sequencer traps: mepc, mcause and mtval take the pc, the cause and the value; MPIE takes MIE, MIE clears, MPP is
machine mode, and the pc goes to mtvec's base (R46). -/
def CoreSt.trap (c : CoreSt) (cause : Nat) (tval : W32) : CoreSt :=
  let st := c.rcsr csrMstatus
  let st' := setFld (setFld (setFld st 7 1 (fld st 3 1)) 3 1 0) 11 2 3
  let c' := (((c.wcsr csrMepc c.pc).wcsr csrMcause (w32 cause)).wcsr csrMtval tval).wcsr csrMstatus st'
  { c' with pc := c.rcsr csrMtvec &&& 0xFFFFFFFC#32, cycle := c.cycle + 1 }

/-- An exception of core u: the trap, and mcause copied to CORE_MCAUSE (R46). -/
def State.trap (s : State) (u : UnitId) (cause : Nat) (tval : W32) : State :=
  (s.setCore u ((s.core u).trap cause tval)).setReg (uPage u 1 + 0x068) (w32 cause)

/-- An illegal instruction: BLK_ERR.ILLEGAL and the trap (R46). -/
def State.illegal (s : State) (u : UnitId) (word : W32) : State :=
  (s.setErr (uPage u 1) 0).trap u exIllegal word

/-- The word of a Daxix frame (R47). -/
def frame (f7 r2 r1 f3 rd op : Nat) : W32 :=
  w32 (f7 * 2 ^ 25 + r2 * 2 ^ 20 + r1 * 2 ^ 15 + f3 * 2 ^ 12 + rd * 2 ^ 7 + op)

def opQ : Nat := 0x0B
def opV : Nat := 0x2B
def opM : Nat := 0x5B
def opS : Nat := 0x7B

/-- The word of a class V instruction (R53). -/
def vWord (a : VArgs) (op : Nat) : W32 :=
  frame (b2n a.mask * 64 + op) a.vs2.toNat a.vs1.toNat a.funct3.toNat a.vd.toNat opV

/-- The word of a class M instruction (R54). -/
def mWord (a : MArgs) (f3 : Nat) : W32 :=
  frame (a.fmt.toNat * 8 + a.rnd.toNat * 2 + b2n a.sat) a.rs2.toNat a.rs1.toNat f3 a.vd.toNat opM

/-! ### The scratchpad (R61 to R63) -/

def spSize : Nat := 0x40000

/-- Key of scratchpad byte 0 of a physical core in the model's memory. -/
def spBase (key : Nat) : Nat := 0x1000000000000 + key * spSize

/-- Key of a scratchpad byte of a logical core. -/
def State.spKey (s : State) (u : UnitId) (off : Nat) : Nat := spBase (s.physKey u) + off

/-- A correction by a check with injection n counted: CORE_CE_CNT, and CE_THR where it reaches CORE_CE_THR (R62). -/
def State.coreCe (s : State) (u : UnitId) (n : Nat) : State :=
  let t := s.count (uPage u 1 + 0x06C)
  if (t.reg (uPage u 1 + 0x070)).toNat ≤ (t.reg (uPage u 1 + 0x06C)).toNat then t.setErrBy n (uPage u 1) 5 else t

/-- A scratchpad word read through its code (R62): none delivers poison. -/
def State.spReadW (s : State) (u : UnitId) (off : Nat) : Option W32 × State :=
  let k := s.spKey u (off / 4 * 4)
  let d := s.rawW k
  let (n, s) := s.injTake (uPage u 1) 0
  match ecc32 (s.synAt k ^^^ inj32 n) with
  | .clean => (some d, s)
  | .fixData i => (some (Ecc.fix (.fixData i) d), (s.putW k (Ecc.fix (.fixData i) d)).coreCe u n)
  | .fixCheck => (some d, (s.putW k d).coreCe u n)
  | .addr => (none, s.setErrBy n (uPage u 1) 2)
  | .ue => (none, s.setErrBy n (uPage u 1) 1)
  | .poison => (none, s)

/-- Consecutive words read; none where one of them delivers poison. -/
def State.spReadWs (s : State) (u : UnitId) : Nat → Nat → Option (List W32) × State
  | _, 0 => (some [], s)
  | off, n + 1 =>
    let (w, t) := s.spReadW u off
    match w with
    | none => (none, t)
    | some w =>
      let (ws, t') := State.spReadWs t u (off + 4) n
      (ws.map (w :: ·), t')

/-- n bytes read from any offset; none where a word they lie in delivers poison. -/
def State.spRead (s : State) (u : UnitId) (off n : Nat) : Option (List Byte) × State :=
  let base := off / 4 * 4
  let (ws, t) := s.spReadWs u base ((off + n + 3) / 4 - off / 4)
  (ws.map (fun ws => ((ws.flatMap (fun w => bytesLE 4 w.toNat)).drop (off - base)).take n), t)

/-- A scratchpad word written whole (R62). -/
def State.spWriteW (s : State) (u : UnitId) (off : Nat) (v : W32) : State := s.putW (s.spKey u off) v

/-- Part of a word written: a read-modify-write, whose read corrects and reports, and which leaves an uncorrectable word poisoned
(R62, R116, R125). -/
def State.spWriteB (s : State) (u : UnitId) (off : Nat) (b : Byte) : State :=
  let (w, t) := s.spReadW u off
  (if w.isNone then t.setSyn (s.spKey u (off / 4 * 4)) 0x7F else t).setByte (s.spKey u off) b

/-- Bytes written from an offset, whole words as words. -/
def State.spWrite (s : State) (u : UnitId) : Nat → List Byte → State
  | off, a :: b :: c :: d :: r =>
    if off % 4 = 0 then State.spWrite (s.spWriteW u off (w32 (ofBytesLE [a, b, c, d]))) u (off + 4) r
    else State.spWrite (s.spWriteB u off a) u (off + 1) (b :: c :: d :: r)
  | off, a :: r => State.spWrite (s.spWriteB u off a) u (off + 1) r
  | _, [] => s

end Sys2Proof.Machine
end

