-- ==== Sys2Proof/Machine/Memory.lean ====
section
/-! DEFINITION. DRAM and SRAM: the SPREAD alias (R118), the memory controller (R126, R127, R143), cluster and Pavilion
SRAM (R114, R129) and their scrubbers (R128). -/

namespace Sys2Proof.Machine

/-! ### Addresses -/

/-- The canonical address of a SPREAD alias address (R118); any other address as it is. -/
def canonical (a : Nat) : Nat :=
  if 0x1000000000 ≤ a ∧ a < 0x1C00000000 then
    let x := a % 0x1000000000
    0x600000000 * nfld x 12 1 + (x >>> 13) * 0x1000 + nfld x 0 12
  else a


/-- The pseudo-channel of an address (R117), over its offset within the stack. -/
def pseudoChannel (a : Nat) : Nat :=
  let o := a % 0x600000000
  nfld o 8 5 ^^^ nfld o 13 5 ^^^ nfld o 18 5

/-- The memory controller's page of die d. -/
def mcPage (d : Nat) : Nat := uPage (dieUid d) 2

/-! ### The controller's reads (R127) -/

/-- MC_LOG takes the first uncorrectable address (R127, R143). -/
def State.mcLog (s : State) (d a : Nat) (scrub adr conv : Bool) : State :=
  if bit (s.reg (mcPage d + 0x058)) 31 then s
  else (s.setReg (mcPage d + 0x054) (w32 (nfld a 0 32))).setReg (mcPage d + 0x058)
    (w32 (nfld a 32 16 + b2n scrub * 2 ^ 16 + b2n adr * 2 ^ 17 + b2n conv * 2 ^ 18 + 2 ^ 31))

/-- A corrected DRAM word counted, by a check with injection n, and CE_THR (R127). -/
def State.mcCe (s : State) (d n : Nat) : State :=
  let t := s.count (mcPage d + 0x044)
  if (t.reg (mcPage d + 0x048)).toNat ≤ (t.reg (mcPage d + 0x044)).toNat then t.setErrBy n (mcPage d) 2 else t

/-- The raw 64-bit word stored at an address. -/
def State.rawD (s : State) (a : Nat) : W64 := BitVec.ofNat 64 (ofBytesLE (s.bytes a 8))

/-- Words with their codes; poison as the inverted code (R125). -/
def coded (a : Nat) (ws : List (Option W32)) : List (W32 × BitVec 7) :=
  ws.zipIdx.map (fun e => match e.1 with
    | some w => (w, check32 w (a + 4 * e.2))
    | none => (0, ~~~ check32 0 (a + 4 * e.2)))

/-- A DRAM word decoded at the controller (R127): its value, or none for poison. A corrected demand read queues a write-back; a scrub
writes the corrected word back itself (R128). -/
def State.dramDecode (s : State) (d a : Nat) (scrub : Bool) : Option W64 × State :=
  let w := s.rawD a
  let (n, s) := s.injTake (mcPage d) 0
  let e := ecc64 (s.synAt a ^^^ inj64 n)
  match e with
  | .clean => (some w, s)
  | .poison => (none, s.count (mcPage d + 0x050))
  | .addr => (none, ((s.count (mcPage d + 0x04C)).setErrBy n (mcPage d) 1).mcLog d a scrub true false)
  | .ue => (none, ((s.count (mcPage d + 0x04C)).setErrBy n (mcPage d) 0).mcLog d a scrub false false)
  | _ =>
    let v := e.fix w
    if scrub then (some v, ((s.setBytes a (bytesLE 8 v.toNat)).setSyn a 0).mcCe d n)
    else (some v, { s with wback := if s.wback.contains (d, a) then s.wback else s.wback ++ [(d, a)] }.mcCe d n)

/-- A DRAM word sent (R126): its two words are encoded, and where the bits are no longer those decoded both leave as poison, with CONV. -/
def State.dramReadD (s : State) (d a : Nat) (scrub : Bool) : Option W64 × State :=
  let (w, t) := s.dramDecode d a scrub
  match w with
  | none => (none, t)
  | some v =>
    let out := v ^^^ Tab.get 0 t.convFlip d
    if check64 out a = check64 v a ∨ scrub = true then (some out, t) else (none, (t.setErr (mcPage d) 4).mcLog d a false false true)

/-- n DRAM words from an address, as 32-bit words or poison. -/
def State.dramReadDs (s : State) (d : Nat) (scrub : Bool) : Nat → Nat → List (Option W32) × State
  | _, 0 => ([], s)
  | a, n + 1 =>
    let (v, t) := s.dramReadD d a scrub
    let (vs, t') := State.dramReadDs t d scrub (a + 8) n
    ((v.map (fun x => w32 (fld x 0 32))) :: (v.map (fun x => w32 (fld x 32 32))) :: vs, t')

/-! ### The controller's writes (R126) -/

/-- A DRAM word stored, poisoned or not; a write-back waiting for it is dropped (R127). -/
def State.dramPut (s : State) (d a : Nat) (v : W64) (poison : Bool) : State :=
  let t := (s.setBytes a (bytesLE 8 v.toNat)).setSyn a (if poison then 0xFF else 0)
  { t with wback := t.wback.filter (fun e => !(decide (e = (d, a)))) }

/-- One DRAM word written from two payload words (none for poison) under byte enables (R116, R126): whether it is
acknowledged with poison, and the state. -/
def State.dramWriteD (s : State) (d a : Nat) (lo hi : Option W32) (be : Nat) : Bool × State :=
  let new := (lo.getD 0).toNat + 2 ^ 32 * (hi.getD 0).toNat
  let bad := (lo.isNone && decide (be % 16 ≠ 0)) || (hi.isNone && decide (be / 16 % 16 ≠ 0))
  if be % 256 = 0 then (false, s)
  else if be % 256 = 255 then
    if bad then (true, (s.dramPut d a (BitVec.ofNat 64 new) true).setErr (mcPage d) 3)
    else (false, s.dramPut d a (BitVec.ofNat 64 new) false)
  else
    let (old, t) := s.dramDecode d a false
    let o := (old.getD (s.rawD a)).toNat
    let merged := ofBytesLE ((List.range 8).map (fun i => BitVec.ofNat 8 (if nbit be i then new >>> (8 * i) else o >>> (8 * i))))
    let t := if bad then t.setErr (mcPage d) 3 else t
    (bad || old.isNone, t.dramPut d a (BitVec.ofNat 64 merged) (bad || old.isNone))

/-- Consecutive DRAM words written from an aligned address; whether any is acknowledged with poison. -/
def State.dramWriteDs (s : State) (d : Nat) : Nat → List (Option W32) → Nat → Bool × State
  | a, lo :: hi :: r, be =>
    let (p, t) := s.dramWriteD d a lo hi be
    let (q, t') := State.dramWriteDs t d (a + 8) r (be >>> 8)
    (p || q, t')
  | a, [lo], be => s.dramWriteD d a lo (some 0) (be % 16)
  | _, [], _ => (false, s)

/-- A payload word judged by its 32-bit code at its target (R126, R148): its value, or none for poison. -/
def payloadW (a : Nat) (p : W32 × BitVec 7) : Option W32 :=
  let e := ecc32 (p.2 ^^^ check32 p.1 a).toNat
  if e.bad then none else some (e.fix p.1)

/-! ### SRAM words (R129) -/

/-- Whether a unit holds cluster or Pavilion SRAM, and its size (R114). -/
def sramSize (u : UnitId) : Nat := match uLevel u with | 0 => spSize | 1 => 0x200000 | 2 => 0x1000000 | _ => 0

/-- Base of a unit's SRAM window (R114). -/
def sramBase (u : UnitId) : Nat := 0x10000000000 + 0x1000000 * u.toNat

/-- A word of cluster or Pavilion SRAM read through its code (R129). -/
def State.sramReadW (s : State) (u : UnitId) (off : Nat) : Option W32 × State :=
  let k := sramBase u + off / 4 * 4
  let d := s.rawW k
  let b := if uLevel u = 1 then 1 else 0
  let (n, s) := s.injTake (uPage u 1) 0
  let e := ecc32 (s.synAt k ^^^ inj32 n)
  match e with
  | .clean => (some d, s)
  | .poison => (none, s)
  | .ue => (none, s.setErrBy n (uPage u 1) b)
  | .addr => (none, s.setErrBy n (uPage u 1) (b + 1))
  | _ => (some (e.fix d), s.putW k (e.fix d))

/-- Bytes of a new word over those of an old one, by byte enables. -/
def mergeW (old new : W32) (be : Nat) : W32 :=
  w32 (ofBytesLE ((List.range 4).map (fun i => BitVec.ofNat 8 (if nbit be i then new.toNat >>> (8 * i) else old.toNat >>> (8 * i)))))

/-- A word of any SRAM read through its code: a core's scratchpad (R62), a cluster's or Pavilion's SRAM (R129). -/
def State.anyReadW (s : State) (u : UnitId) (off : Nat) : Option W32 × State :=
  if uLevel u = 0 then s.spReadW u off else s.sramReadW u off

/-- A word at a key written under byte enables without a report: that of an unmapped spare, whose pages are not there (R157). -/
def State.cellWriteW (s : State) (k : Nat) (v : Option W32) (be : Nat) : State :=
  if be % 16 = 0 then s
  else match v with
    | none => s.setSyn k 0x7F
    | some v =>
      let e := ecc32 (s.synAt k)
      let t := s.putW k (mergeW (e.fix (s.rawW k)) v be)
      if e.bad ∧ be % 16 ≠ 15 then t.setSyn k 0x7F else t

/-- A word of any SRAM written under byte enables: a partial write is a read-modify-write, whose read corrects and reports (R62, R129),
and which leaves a bad word poisoned (R116, R125). -/
def State.sramWriteW (s : State) (u : UnitId) (off : Nat) (v : Option W32) (be : Nat) : State :=
  let k := if uLevel u = 0 then s.spKey u off else sramBase u + off
  if be % 16 = 0 then s
  else match v with
    | none => s.setSyn k 0x7F
    | some v =>
      if be % 16 = 15 then s.putW k v
      else
        let (old, t) := s.anyReadW u off
        let t := t.putW k (mergeW (old.getD (s.rawW k)) v be)
        if old.isNone then t.setSyn k 0x7F else t

/-! ### Commands -/


/-- MC_READ (R127): a 64-byte line read at the controller. -/
def mcRead (d a : Nat) (s : State) : State := ((s.dramReadDs d false a 8).2).countWrap (mcPage d + 0x06C) 1
def execMcRead (d : Nat) (a : PAddr) (s : State) : Out := onUnit (mcLineOk d a.toNat) (mcRead d a.toNat s)

/-- MC_WRITE (R126): a 64-byte line written at the controller from words with their codes, under byte enables. -/
def mcWrite (d a : Nat) (ws : List (W32 × BitVec 7)) (be : Nat) (s : State) : State :=
  let vs := ws.zipIdx.map (fun e => payloadW (a + 4 * e.2) e.1)
  ((s.dramWriteDs d a vs be).2).countWrap (mcPage d + 0x070) 1
def execMcWrite (d : Nat) (a : PAddr) (ws : List (W32 × BitVec 7)) (be : BitVec 64) (s : State) : Out :=
  onUnit (mcLineOk d a.toNat && decide (ws.length = 16)) (mcWrite d a.toNat ws be.toNat s)

/-- CORRECTED_WRITEBACK (R127): the oldest corrected word of a die waiting to be written back is written. -/
def correctedWriteback (d : Nat) (s : State) : State :=
  match s.wback.find? (fun e => decide (e.1 = d)) with
  | none => s
  | some (_, a) =>
    if (ecc64 (s.synAt a)).corrected then s.dramPut d a ((ecc64 (s.synAt a)).fix (s.rawD a)) false
    else { s with wback := s.wback.filter (fun e => !(decide (e = (d, a)))) }
def execCorrectedWriteback (d : Nat) (s : State) : Out := onUnit (decide (d < 2)) (correctedWriteback d s)

/-- Lines of a stack (R128). -/
def dramLines : Nat := 402653184

/-- DRAM_SCRUB_LINE (R128): the next line is read and corrected; a pass ends after the last line. -/
def dramScrub (d : Nat) (s : State) : State :=
  let pos := (s.reg (mcPage d + 0x064)).toNat
  let t := (s.dramReadDs d true (d * 0x600000000 + pos % dramLines * 64) 8).2
  if pos + 1 < dramLines then t.setReg (mcPage d + 0x064) (w32 (pos + 1))
  else (t.setReg (mcPage d + 0x064) 0).countWrap (mcPage d + 0x068) 1
def execDramScrubLine (d : Nat) (s : State) : Out := onUnit (decide (d < 2)) (dramScrub d s)

/-- Words of an SRAM line read one by one. -/
def State.sramReadWs (s : State) (u : UnitId) : Nat → Nat → State
  | _, 0 => s
  | off, n + 1 => State.sramReadWs (s.sramReadW u off).2 u (off + 4) n

/-- SRAM_SCRUB_LINE (R128): one line of a cluster's or Pavilion's SRAM. -/
def sramScrubLine (u : UnitId) (s : State) : State :=
  let l := Tab.get 0 s.sramScrub u.toNat
  let t := s.sramReadWs u (l * 64) 16
  { t with sramScrub := Tab.set 0 t.sramScrub u.toNat ((l + 1) % (sramSize u / 64)) }
def execSramScrubLine (u : UnitId) (s : State) : Out :=
  onUnit (uValid u && (decide (uLevel u = 1) || decide (uLevel u = 2))) (sramScrubLine u s)

/-- MC_LOG_CLR (R143): writing bit 0 empties the log. -/
def mcLogClr (d : Nat) (v : W32) (s : State) : State :=
  if bit v 0 then (s.setReg (mcPage d + 0x054) 0).setReg (mcPage d + 0x058) 0 else s
def execMcLogClr (_w : Writer) (d : Nat) (v : W32) (s : State) : Out := onUnit (decide (d < 2)) (mcLogClr d v s)

end Sys2Proof.Machine
end

