-- ==== Sys2Proof/Machine/Firewall.lean ====
section
/-! DEFINITION. Domains (R130 to R132) and firewalls (R133 to R138). -/

namespace Sys2Proof.Machine

def domGk : Domain := 0x001#12
def domHost : Domain := 0x002#12
def domRx : Domain := 0x003#12
def domGh : Domain := 0xF00#12
/-- The safety domain of Pavilion p, 4 × die + Pavilion (R130). -/
def domSafety (p : Nat) : Domain := BitVec.ofNat 12 (0xF10 + p)

/-- Address of BLK_DOMAIN of a unit (R130). -/
def domainAt (u : UnitId) : Nat := uPage u 0 + 0x028

/-- The domain that a unit's transactions carry (R130). -/
def State.domainOf (s : State) (u : UnitId) : Domain := BitVec.ofNat 12 (s.regF (domainAt u) 0 12)

/-- The domain of a writer: the pair and the tests of the Gatehouse write as the Gatehouse, a sequencer as its Pavilion. -/
def State.writerDom (s : State) (w : Writer) : Domain :=
  match w with
  | .dom d => d
  | .pair => domGh
  | .seq p => s.domainOf (pavUid p)
  | .owner => domGh
  | .tsm => domGh
  | .rom => domGk
  | .folly => domGh

/-- A write of BLK_DOMAIN to one unit under the test of R131. -/
def State.domainSet (s : State) (d : Domain) (v : Nat) (u : UnitId) : State :=
  let cur := (s.domainOf u).toNat
  if d = domGh ∨ (d = domGk ∧ v ≤ 0xEFF ∧ cur < 0xF00) then s.setReg (domainAt u) (w32 v) else s

/-- BLK_DOMAIN_WRITE (R131): the unit's own field and each present unit below it, each under the same test. -/
def State.writeDomain (s : State) (d : Domain) (u : UnitId) (v : Nat) : State :=
  (u :: (unitsOf u).filter (fun x => decide (x ≠ u) && !s.isAbsent x)).foldl (fun t x => t.domainSet d v x) s

def blkDomainWrite (w : Writer) (u : UnitId) (v : W32) (s : State) : State :=
  s.writeDomain (s.writerDom w) u (fld v 0 12)
def execBlkDomainWrite (w : Writer) (u : UnitId) (v : W32) (s : State) : Out := onUnit (uValid u) (blkDomainWrite w u v s)

/-! ### Instances (R133) -/

/-- The page of firewall instance i: 0 and 1 the memory controllers, 2 to 9 the Pavilion ports, 10 the I/O die. -/
def fwPage (i : Nat) : Nat :=
  if i < 2 then uPage (dieUid i) 3 else if i < 10 then uPage (pavUid (i - 2)) 4 else ioPage 0x001

/-- The first Gatehouse window of an instance (R133). -/
def fwFirstGh (i : Nat) : Nat := if 2 ≤ i ∧ i < 10 then 8 else 16

/-- FW_CFG (R138). -/
def fwCfg (i : Nat) : W32 :=
  w32 (fwCount i + fwFirstGh i * 256 + (if i < 2 then 0 else if i < 10 then 1 else 2) * 65536)

/-- Address of the registers of window w. -/
def fwWinAt (i w : Nat) : Nat := fwPage i + 0x100 + 0x10 * w

/-- A window after reset (R137). -/
def fwWinReset (a : Nat) : FwWin := ⟨regReset a, regReset (a + 4), regReset (a + 8), regReset (a + 12)⟩

/-- A window in force. -/
def State.fwWin (s : State) (a : Nat) : FwWin := Tab.get (fwWinReset a) s.fwForce a

/-- Whether an enabled window covers an address (R134, R138). -/
def FwWin.covers (w : FwWin) (a : Nat) : Bool :=
  let page := a / 0x1000
  bit w.ctrl 0 && decide (w.base.toNat + 2 ^ 32 * fld w.ctrl 4 4 ≤ page) && decide (page ≤ w.limit.toNat + 2 ^ 32 * fld w.ctrl 8 4)

/-- Whether a window permits a domain for an access kind (R134). -/
def FwWin.permits (w : FwWin) (d : Domain) (write : Bool) : Bool :=
  bit w.ctrl (if write then 2 else 1)
  && decide (d.toNat &&& fld w.dom 16 12 = fld w.dom 0 12 &&& fld w.dom 16 12)

/-- The windows of an instance from lo up to hi that cover an address. -/
def State.fwCover (s : State) (i lo hi a : Nat) : List FwWin :=
  ((List.range hi).filter (fun w => decide (lo ≤ w))).map (fun w => s.fwWin (fwWinAt i w)) |>.filter (fun w => w.covers a)

/-- Whether a byte is permitted (R134). -/
def State.fwByte (s : State) (i : Nat) (d : Domain) (write : Bool) (a : Nat) : Bool :=
  if d = 0 then false
  else if d = domGh then true
  else
    let gh := s.fwCover i (fwFirstGh i) (fwCount i) a
    if !gh.isEmpty then gh.any (fun w => w.permits d write)
    else (s.fwCover i 0 (fwFirstGh i) a).any (fun w => w.permits d write)

/-- Whether a transaction of n bytes is permitted: windows cover whole pages, so one byte of each page decides. -/
def State.fwOk (s : State) (i : Nat) (d : Domain) (write : Bool) (a n : Nat) : Bool :=
  ((List.range (n / 0x1000 + 2)).map (fun k => max a ((a / 0x1000 + k) * 0x1000))).all
    (fun x => decide (a + n ≤ x ∧ x ≠ a) || s.fwByte i d write x)

/-- A refusal (R135): a demanded one is logged, counted and raised; a speculative one is counted. -/
def State.fwRefuse (s : State) (i : Nat) (d : Domain) (src : BitVec 16) (write spec : Bool) (a : Nat) : State :=
  let p := fwPage i
  if spec then s.count (p + 0x058)
  else
    let t := if bit (s.reg (p + 0x048)) 31 then s else
      ((s.setReg (p + 0x044) (w32 (nfld a 0 32))).setReg (p + 0x048)
        (w32 (nfld a 32 16 + b2n write * 65536 + 2 ^ 31))).setReg (p + 0x04C) (w32 (src.toNat + d.toNat * 65536))
    (t.count (p + 0x054)).setErr p 0

/-- Whether a writer may write a firewall page, and a Gatehouse window of it (R136). -/
def State.fwWriter (s : State) (w : Writer) (gh : Bool) : Bool :=
  decide (s.writerDom w = domGh) || (!gh && decide (s.writerDom w = domGk))

/-- A write of CTRL puts the whole window in force (R136), unless the lock holds a Groundskeeper window. -/
def fwCtrlWrite (w : Writer) (i win : Nat) (v : W32) (s : State) : State :=
  let a := fwWinAt i win
  let gh := decide (fwFirstGh i ≤ win)
  if !s.fwWriter w gh || (!gh && bit (s.reg (fwPage i + 0x024)) 0) then s
  else
    let t := s.setReg (a + 12) (v &&& 0xFF7#32)
    { t with fwForce := Tab.set (fwWinReset a) t.fwForce a ⟨t.reg a, t.reg (a + 4), t.reg (a + 8), t.reg (a + 12)⟩ }
def execFwWindowCtrlWrite (w : Writer) (i win : Nat) (v : W32) (s : State) : Out :=
  onUnit (decide (i < 11) && decide (win < fwCount i)) (fwCtrlWrite w i win v s)

/-- A window written whole by firmware and put in force: its first and last page, domain match and mask, and its CTRL bits. -/
def State.fwPut (s : State) (i w lo hi dmatch dmask ctrl : Nat) : State :=
  let a := fwWinAt i w
  let x : FwWin := ⟨w32 lo, w32 hi, w32 (dmatch + 65536 * dmask), w32 (ctrl + 16 * (lo / 2 ^ 32 % 16) + 256 * (hi / 2 ^ 32 % 16))⟩
  let t := (((s.setReg a x.base).setReg (a + 4) x.limit).setReg (a + 8) x.dom).setReg (a + 12) x.ctrl
  { t with fwForce := Tab.set (fwWinReset a) t.fwForce a x }

/-- FW_LOG_CLR (R138). -/
def fwLogClr (w : Writer) (i : Nat) (v : W32) (s : State) : State :=
  if s.fwWriter w false && bit v 0 then
    ((s.setReg (fwPage i + 0x044) 0).setReg (fwPage i + 0x048) 0).setReg (fwPage i + 0x04C) 0
  else s
def execFwLogClr (w : Writer) (i : Nat) (v : W32) (s : State) : Out := onUnit (decide (i < 11)) (fwLogClr w i v s)

end Sys2Proof.Machine
end

