-- ==== Sys2Proof/Machine/Icu.lean ====
section
/-! DEFINITION. Interrupt controllers (R262 to R271): instance 0 of the Gatehouse, 1 of the Groundskeeper, 2 to 9 of
Pavilions 0 to 7. A source's line, latches and serving target stand in ICU_SRCn_STAT. -/

namespace Sys2Proof.Machine

/-- The page of an instance. -/
def icuPage (i : Nat) : Nat :=
  if i = 0 then ghPage 0x06 else if i = 1 then ioPage 0x026 else uPage (pavUid (i - 2)) 2

/-- Whether a writer may write an instance (R271). -/
def State.icuMay (s : State) (w : Writer) (i : Nat) : Bool :=
  if i = 0 then decide (w = .pair)
  else if i = 1 then decide (s.writerDom w = domGk)
  else decide (w = .seq (i - 2)) || decide (s.writerDom w = domGk)

def icuCfgA (i n : Nat) : Nat := icuPage i + 0x800 + 8 * (n - 1)
def icuStatA (i n : Nat) : Nat := icuPage i + 0x804 + 8 * (n - 1)
def icuRunA (i t : Nat) : Nat := icuPage i + 0x06C + 0x10 * t

def icuPend : Nat := 0
def icuInsv : Nat := 1
def icuOver : Nat := 2
def icuLine : Nat := 3
def icuHeld : Nat := 6

/-- A status bit of a source. -/
def State.icuBit (s : State) (i n b : Nat) : Bool := bit (s.reg (icuStatA i n)) b

/-- A status bit of a source given a value. -/
def State.icuSet (s : State) (i n b : Nat) (v : Bool) : State :=
  s.setReg (icuStatA i n) (setBit (s.reg (icuStatA i n)) b v)

/-- The target a source is routed to; single-target instances have target 0. -/
def State.icuTarget (s : State) (i n : Nat) : Nat := if i = 1 then s.regF (icuCfgA i n) 8 2 else 0

/-- EN set and PRIO 1 to 15 (R264). -/
def State.icuEnabled (s : State) (i n : Nat) : Bool :=
  bit (s.reg (icuCfgA i n)) 10 && decide (s.regF (icuCfgA i n) 4 4 ≠ 0)

/-- Key of a source in the tables of the controllers. -/
def icuKey (i n : Nat) : Nat := 1024 * i + n

/-- The sources of an instance. -/
def icuSources (i : Nat) : List Nat := (List.range (icuCount i)).map (· + 1)

/-- Sources in service at a target. -/
def State.icuServing (s : State) (i t : Nat) : List Nat :=
  (icuSources i).filter (fun n => s.icuBit i n icuInsv && decide (s.regF (icuStatA i n) 4 2 = t))

/-- The running priority of a target (R265). -/
def State.icuRunning (s : State) (i t : Nat) : Nat :=
  (s.icuServing i t).foldl (fun a n => max a (Tab.get 0 s.icuSvc (icuKey i n))) 0

/-- Whether a source is claimable at a target (R264, R268, R269). -/
def State.icuClaimable (s : State) (i t n : Nat) : Bool :=
  let prio := s.regF (icuCfgA i n) 4 4
  s.icuBit i n icuPend && s.icuEnabled i n && decide (s.icuTarget i n = t)
  && decide (s.regF (icuPage i + 0x060 + 0x10 * t) 0 4 < prio) && decide (s.icuRunning i t < prio)
  && (!s.icuBit i n icuHeld || (s.icuServing i t).isEmpty)
  && !bit (s.reg (icuPage i + 0x044)) 0

/-- The source that a claim returns: the highest PRIO, then the lowest number; 0 for none (R265). -/
def State.icuBest (s : State) (i t : Nat) : Nat :=
  ((icuSources i).filter (s.icuClaimable i t)).foldl
    (fun b n => if b = 0 ∨ s.regF (icuCfgA i b) 4 4 < s.regF (icuCfgA i n) 4 4 then n else b) 0

/-- A target's request line (R264). -/
def State.icuRequest (s : State) (i t : Nat) : Bool := decide (s.icuBest i t ≠ 0)

/-- ICU_RUNt as it reads (R271). -/
def State.icuRunSeen (s : State) (i t : Nat) : W32 :=
  w32 (s.icuRunning i t + s.regF (icuRunA i t) 4 1 * 16 + b2n (s.icuRequest i t) * 32 + (s.icuServing i t).length * 256)

/-- A sleeping target with an enabled pending source routed to it wakes (R267). -/
def State.icuWake (s : State) (i n : Nat) : State :=
  if s.icuBit i n icuPend && s.icuEnabled i n then s.setRegF (icuRunA i (s.icuTarget i n)) 4 1 0 else s

/-- An event (R263): an idle source becomes pending; on a source that is pending or in service it is lost. -/
def State.icuEvent (s : State) (i n : Nat) : State :=
  if s.icuBit i n icuPend || s.icuBit i n icuInsv then s.icuSet i n icuOver true
  else (s.icuSet i n icuPend true).icuWake i n

/-- Whether a level is the active one of a level source. -/
def icuActive (sense : Nat) (level : Bool) : Bool :=
  (decide (sense = 0) && level) || (decide (sense = 1) && !level)

/-! ### Error pins (R14, R80, R222) -/

/-- Whether a source of the pages that a test picks is high: the OR of their error pins. -/
def State.anyPin (s : State) (p : Nat → Bool) : Bool :=
  s.regs.any (fun e => decide (e.1 % 0x1000 = errOff) && (match pageKind e.1 with | some k => k.hasHead | none => false)
    && p (e.1 - errOff) && decide (e.2 &&& ~~~ s.reg (e.1 - errOff + errMaskOff) ≠ 0))

/-- A block's error pin: the OR of its sources (R222). -/
def State.errPin (s : State) (page : Nat) : Bool := s.anyPin (fun x => decide (x = page))

/-- A unit's error pin: a core's the OR of those of its pages 0 to 3 (R80), a group's the OR of its own BLK_ERR bits and the pins of the
units below it (R14). -/
def State.unitPin (s : State) (u : UnitId) : Bool :=
  s.anyPin (fun x => match winUnit x with | some v => uEncl u v | none => false)

/-- Pages of the Gatehouse whose pins raise a source of its controller (R481): source 16 has those without a source of their own. -/
def ghPinPages (n : Nat) : List Nat :=
  if n = 16 then [0x07, 0x08, 0x0A, 0x0B, 0x0C, 0x0D, 0x16, 0x17, 0x18, 0x19, 0x1A]
  else ([(2, [0x04]), (3, [0x01]), (4, [0x02]), (5, [0x03]), (6, [0x05]), (7, [0x09]), (8, [0x0E]), (9, [0x0F]), (10, [0x10]),
    (11, [0x11, 0x15]), (12, [0x12]), (13, [0x00]), (14, [0x14]), (15, [0x13])] : List (Nat × List Nat)).lookup n |>.getD []

/-- The I/O die page whose pin raises a source of the Groundskeeper's controller (R478). -/
def ioPinPage (n : Nat) : Option Nat :=
  if 65 ≤ n ∧ n ≤ 70 then some (n - 65) else if n = 71 then some 0x010 else if n = 72 then some 0x020
  else if 73 ≤ n ∧ n ≤ 76 then some (0x021 + (n - 73)) else if 78 ≤ n ∧ n ≤ 81 then some (0x027 + (n - 78))
  else if n = 84 then some 0x035 else if n = 85 then some 0x040 else if n = 86 then some 0x050
  else if 87 ≤ n ∧ n ≤ 94 then some (0x051 + (n - 87)) else if 95 ≤ n ∧ n ≤ 98 then some (0x059 + (n - 95)) else none

/-- The level of the error pins that raise a source (R478, R480, R481); low where none does. Pavilion SRAM has the SRAM bits of the
Pavilion page. -/
def State.irqPin (s : State) (i n : Nat) : Bool :=
  if i = 0 then (ghPinPages n).any (fun p => s.errPin (ghPage p))
  else if i = 1 then
    match ioPinPage n with
    | some p => s.errPin (ioPage p)
    | none =>
      if 129 ≤ n ∧ n ≤ 160 then
        let d := (n - 129) / 16
        let k := (n - 129) % 16
        if k = 0 then s.unitPin (dieUid d) else if k ≤ 6 then s.errPin (uPage (dieUid d) k)
        else if 8 ≤ k ∧ k < 12 then s.errPin (fwPage (2 + 4 * d + (k - 8))) else false
      else false
  else
    let u := pavUid (i - 2)
    if 1 ≤ n ∧ n ≤ 16 then s.unitPin (mkUid 1 (uDie u) (uPav u) (n - 1) 0)
    else if n = 17 then s.errPin (uPage u 1)
    else if n = 18 then s.srcHigh (uPage u 1) 0 || s.srcHigh (uPage u 1) 1
    else if n = 20 then s.errPin (uPage u 4) else false

/-- The line of a source takes a level; under its SENSE that is an event or not (R263). -/
def State.icuLineTo (s : State) (i n : Nat) (level : Bool) : State :=
  let sense := s.regF (icuCfgA i n) 0 3
  let old := s.icuBit i n icuLine
  let t := s.icuSet i n icuLine level
  let ev := decide (old ≠ level) &&
    (icuActive sense level || (decide (sense = 2) && level) || (decide (sense = 3) && !level) || decide (sense = 4))
  if ev then t.icuEvent i n else t

/-- A block that signals by a pulse (R262). -/
def State.icuPulse (s : State) (i n : Nat) : State := (s.icuLineTo i n true).icuLineTo i n (s.irqPin i n)

/-- Meaning of IRQ_SOURCE_EVENT (R14, R263, R478): a source with an error pin is high while the pin is, and while an event that its
chapter names holds it. -/
def execIrqSourceEvent (i n : Nat) (level : Bool) (s : State) : Out :=
  onUnit (icuSrcOk i n) (s.icuLineTo i n (level || s.irqPin i n))

/-- A read of ICU_CLAIMt (R265): the source returned stands in ICU_CLAIMt. -/
def icuClaim (i t : Nat) (s : State) : State :=
  let n := s.icuBest i t
  let a := icuPage i + 0x064 + 0x10 * t
  if n = 0 then s.setReg a 0
  else
    let cfg := s.reg (icuCfgA i n)
    let u := ((s.icuSet i n icuPend false).icuSet i n icuInsv true).setRegF (icuStatA i n) 4 2 t
    let u := { u with icuSvc := Tab.set 0 u.icuSvc (icuKey i n) (fld cfg 4 4) }
    let u := if fld cfg 16 16 = 0 then u
      else { u.icuSet i n icuHeld true with icuHold := Tab.set 0 u.icuHold (icuKey i n) (u.frc + 500 * fld cfg 16 16) }
    u.setReg a (w32 n)
def execIcuClaim (i t : Nat) (s : State) : Out := onUnit (icuTgtOk i t) (icuClaim i t s)

/-- Service of a source ends (R266); a level source whose line is still active is pending again (R263). -/
def State.icuEnd (s : State) (i n : Nat) : State :=
  let u := (s.icuSet i n icuInsv false).setRegF (icuStatA i n) 4 2 0
  let u := { u with icuSvc := Tab.set 0 u.icuSvc (icuKey i n) 0 }
  if icuActive (u.regF (icuCfgA i n) 0 3) (u.icuBit i n icuLine) then (u.icuSet i n icuPend true).icuWake i n else u

/-- ICU_COMPLETEt (R266). -/
def icuComplete (w : Writer) (i t : Nat) (v : W32) (s : State) : State :=
  if !s.icuMay w i then s
  else
    let n := fld v 0 9
    if (s.icuServing i t).contains n then s.icuEnd i n else s.setErr (icuPage i) 0
def execIcuComplete (w : Writer) (i t : Nat) (v : W32) (s : State) : Out := onUnit (icuTgtOk i t) (icuComplete w i t v s)

/-- Reset of a target ends its services; pending state is kept (R266). -/
def State.icuTargetReset (s : State) (i t : Nat) : State := (s.icuServing i t).foldl (fun u n => u.icuEnd i n) s

/-- IRQ_MODERATION_END (R268): the hold is over once MOD has passed since the claim. -/
def moderationEnd (i n : Nat) (s : State) : State :=
  if s.icuBit i n icuHeld && decide (Tab.get 0 s.icuHold (icuKey i n) ≤ s.frc) then
    { s.icuSet i n icuHeld false with icuHold := Tab.set 0 s.icuHold (icuKey i n) 0 }
  else s
def execIrqModerationEnd (i n : Nat) (s : State) : Out := onUnit (icuSrcOk i n) (moderationEnd i n s)

/-- ICU_GCTRL (R269). -/
def icuGctrl (w : Writer) (i : Nat) (v : W32) (s : State) : State :=
  if s.icuMay w i then s.setReg (icuPage i + 0x044) (v &&& 1) else s
def execIcuGctrlWrite (w : Writer) (i : Nat) (v : W32) (s : State) : Out := onUnit (decide (i < 10)) (icuGctrl w i v s)

/-- ICU_SRCn_CFG written (R268, R271): a reserved SENSE is ignored; MOD rewritten while the source is pending and EN set can
delay its delivery by up to twice the greater value (KL-02), by an open amount. -/
def State.icuCfgWrite (s : State) (w : Writer) (i n : Nat) (v : W32) : State :=
  if !s.icuMay w i || !icuSrcOk i n || decide (5 ≤ fld v 0 3) then s
  else
    let old := fld (s.reg (icuCfgA i n)) 16 16
    let new := fld v 16 16
    let t := s.setReg (icuCfgA i n) (v &&& (if i = 1 then 0xFFFF07F7#32 else 0xFFFF04F7#32))
    let t := t.icuWake i n
    if old = new then t
    else if t.icuBit i n icuPend ∧ bit (s.reg (icuCfgA i n)) 10 = true then
      let (d, t) := t.drawNat
      { t.icuSet i n icuHeld true with
        icuHold := Tab.set 0 t.icuHold (icuKey i n) (t.frc + d % (1000 * max old new + 1)) }
    else if t.icuBit i n icuHeld then
      { t with icuHold := Tab.set 0 t.icuHold (icuKey i n) (Tab.get 0 t.icuHold (icuKey i n) - 500 * old + 500 * new) }
    else t

/-- A bitmap register: bit n − 1 of word w shows a status bit of source n (R271). -/
def State.icuMap (s : State) (i b w : Nat) : W32 :=
  w32 ((List.range 32).foldl (fun a k =>
    if decide (32 * w + k < icuCount i) && s.icuBit i (32 * w + k + 1) b then a + 2 ^ k else a) 0)

/-- ICU_OVERw written (RW1C). -/
def State.icuOverClr (s : State) (w : Writer) (i wd : Nat) (v : W32) : State :=
  if !s.icuMay w i then s
  else (bitsOf 32 v.toNat).foldl (fun t k =>
    if 32 * wd + k < icuCount i then t.icuSet i (32 * wd + k + 1) icuOver false else t) s

end Sys2Proof.Machine
end

