-- ==== Sys2Proof/Machine/Pcie.lean ====
section
/-! DEFINITION. The host link and MSI-X (R337 to R341, R360). -/

namespace Sys2Proof.Machine

def pciePage : Nat := ioPage 0x040
def pcieStatA : Nat := pciePage + 0x040
def msixA (v : Nat) : Nat := ioPage 0x041 + 16 * v
def pbaA (v : Nat) : Nat := ioPage 0x049 + 4 * (v / 32)

def State.pending? (s : State) (v : Nat) : Bool := bit (s.reg (pbaA v)) (v % 32)
def State.setPending (s : State) (v : Nat) (b : Bool) : State := s.setReg (pbaA v) (setBit (s.reg (pbaA v)) (v % 32) b)

/-- Whether nothing may be sent on a vector: link down, Bus Master Enable clear, the function or the vector masked. -/
def State.msixMasked (s : State) (v : Nat) : Bool :=
  !bit (s.reg pcieStatA) 9 || !bit (s.reg pcieStatA) 10 || bit (s.reg pcieStatA) 11 || bit (s.reg (msixA v + 12)) 0

/-- Moderation class of a vector and its hold in ticks (R341). -/
def State.msixMod (s : State) (v : Nat) : Tick :=
  let c := s.regF (pciePage + 0x400 + 4 * (v / 8)) (4 * (v % 8)) 4
  if c = 0 then 0 else 500 * s.regF (pciePage + 0x080 + 4 * c) 0 16

def State.setHold (s : State) (v : Nat) (e : Option (Tick × Bool)) : State :=
  { s with pcie := { s.pcie with hold := Tab.set none s.pcie.hold v e } }

/-- One message on a vector, which starts its hold. -/
def State.msixSend (s : State) (v : Nat) : State :=
  let a := BitVec.ofNat 64 ((s.reg (msixA v)).toNat + 2 ^ 32 * (s.reg (msixA v + 4)).toNat)
  let t := s.emit (.msix v a (s.reg (msixA v + 8)))
  if s.msixMod v = 0 then t else t.setHold v (some (s.frc + s.msixMod v, false))

/-- A request on a vector (R340). -/
def State.msixRequest (s : State) (v : Nat) : State :=
  if s.msixMasked v then s.setPending v true
  else match Tab.get none s.pcie.hold v with
    | some (t, _) => s.setHold v (some (t, true))
    | none => s.msixSend v

/-- Meaning of MSIX_HOLD_END (R341). -/
def msixHoldEnd (v : Nat) (s : State) : State :=
  match Tab.get none s.pcie.hold v with
  | some (t, merged) =>
    if s.frc < t then s
    else
      let u := s.setHold v none
      if !merged then u else if u.msixMasked v then u.setPending v true else u.msixSend v
  | none => s
def execMsixHoldEnd (v : Nat) (s : State) : Out := onUnit (decide (v < 2048)) (msixHoldEnd v s)

/-- A pending vector whose masks are clear sends one message. -/
def State.msixFlush (s : State) (v : Nat) : State :=
  if s.pending? v && !s.msixMasked v then (s.setPending v false).msixSend v else s

/-- Meaning of MSIX_UNMASK (R340): the vector's mask clears, or the host writes Bus Master Enable and the function's mask. -/
def msixUnmask (v : Nat) (cfg : Option (Bool × Bool)) (s : State) : State :=
  match cfg with
  | some (bme, fmask) =>
    let t := s.setReg pcieStatA (setBit (setBit (s.reg pcieStatA) 10 bme) 11 fmask)
    (List.range 2048).foldl State.msixFlush t
  | none => (s.setReg (msixA v + 12) (setBit (s.reg (msixA v + 12)) 0 false)).msixFlush v
def execMsixUnmask (v : Nat) (cfg : Option (Bool × Bool)) (s : State) : Out := onUnit (decide (v < 2048)) (msixUnmask v cfg s)

/-- Meaning of FUNCTION_LEVEL_RESET (R339): configuration space, MSI-X table, pending bits and PCIE_EQ_CFG. -/
def functionReset (s : State) : State :=
  let t := s.resetRegs (ioPage 0x041) (ioPage 0x04A) (fun _ => false)
  let t := (t.setReg pcieStatA (setBit (setBit (t.reg pcieStatA) 10 false) 11 false)).setReg (pciePage + 0x044) 0
  { t with pcie := { t.pcie with hold := [] } }
def execFunctionLevelReset (s : State) : Out := .next (functionReset s)

/-- Meaning of PCIE_LINK_DOWN (R339). -/
def pcieDown (s : State) : State :=
  if bit (s.reg pcieStatA) 9 then
    ((s.setReg pcieStatA (s.reg pcieStatA &&& 0xC00#32)).count (pciePage + 0x05C)).setErr pciePage 0
  else s
def execPcieLinkDown (s : State) : Out := .next (pcieDown s)

/-- Meaning of PCIE_RETRAIN (R338): the caps and presets are those of the next training. -/
def pcieRetrain (w : Writer) (v : W32) (s : State) : State :=
  if w = .dom 0x001#12 ∧ bit v 0 = true then
    { s with pcie := { s.pcie with maxGen := s.reg (pciePage + 0x048), eq := s.reg (pciePage + 0x044) } }
  else s
def execPcieRetrain (w : Writer) (v : W32) (s : State) : Out := .next (pcieRetrain w v s)

/-- Meaning of PCIE_LINK_UP (R337, R338): the rate and width reached, within the caps. -/
def pcieUp (rate width : Nat) (s : State) : State :=
  let cap := if bit (s.reg pcieStatA) 9 then s.pcie.maxGen else s.reg (pciePage + 0x048)
  if rate = 0 ∨ fld cap 0 3 < rate ∨ width = 0 ∨ fld cap 8 5 < width then s
  else
    let t := s.setReg pcieStatA ((s.reg pcieStatA &&& 0xC00#32) ||| w32 (rate + 16 * width + 512))
    (List.range 2048).foldl State.msixFlush { t with pcie := { t.pcie with maxGen := cap, eq := s.reg (pciePage + 0x044) } }
def execPcieLinkUp (rate : BitVec 3) (width : BitVec 5) (s : State) : Out :=
  onUnit (decide (1 ≤ rate.toNat) && decide (rate.toNat ≤ 5) && ([1, 2, 4, 8, 16] : List Nat).contains width.toNat)
    (pcieUp rate.toNat width.toNat s)

end Sys2Proof.Machine
end

