-- ==== Sys2Proof/Machine/Sha.lean ====
section
/-! DEFINITION. SHA-256 and the verification of HSS signatures (R407). The spec names RFC 8554 and gives neither algorithm; both
are PRESUMED from the published standards. -/

namespace Sys2Proof.Machine

/-- Largest r with r^k at most n, found bit by bit from bit b − 1 down. -/
def rootFrom (k n : Nat) : Nat → Nat → Nat
  | 0, r => r
  | b + 1, r => rootFrom k n b (if (r + 2 ^ b) ^ k ≤ n then r + 2 ^ b else r)

/-- The first 32 bits of the fraction of the k-th root of p (p below 512). -/
def rootFraction (k p : Nat) : Nat := rootFrom k (2 ^ (32 * k) * p) 38 0 % 2 ^ 32

/-- The primes below 312, of which there are 64. -/
def smallPrimes : List Nat :=
  (List.range 312).filter (fun n => decide (2 ≤ n) && (List.range n).all (fun d => decide (d < 2) || decide (n % d ≠ 0)))

/-- The round constants: fractions of the cube roots of the first 64 primes. -/
def shaK : List Nat := smallPrimes.map (rootFraction 3)

/-- The first chaining value: fractions of the square roots of the first 8 primes. -/
def shaInit : List W32 := (smallPrimes.take 8).map (fun p => w32 (rootFraction 2 p))

/-- Big-endian bytes of a number. -/
def bytesBE (k n : Nat) : List Byte := (bytesLE k n).reverse
def ofBytesBE (bs : List Byte) : Nat := ofBytesLE bs.reverse

/-- The message schedule, newest word first. -/
def shaSchedule : Nat → List W32 → List W32
  | 0, ws => ws
  | n + 1, ws =>
    let g := fun i => ws.getD i 0
    let s0 := (g 14).rotateRight 7 ^^^ (g 14).rotateRight 18 ^^^ (g 14 >>> 3)
    let s1 := (g 1).rotateRight 17 ^^^ (g 1).rotateRight 19 ^^^ (g 1 >>> 10)
    shaSchedule n ((g 15 + s0 + g 6 + s1) :: ws)

def shaRound (h : List W32) (kw : W32) : List W32 :=
  let g := fun i => h.getD i 0
  let s1 := (g 4).rotateRight 6 ^^^ (g 4).rotateRight 11 ^^^ (g 4).rotateRight 25
  let ch := (g 4 &&& g 5) ^^^ (~~~ g 4 &&& g 6)
  let t1 := g 7 + s1 + ch + kw
  let s0 := (g 0).rotateRight 2 ^^^ (g 0).rotateRight 13 ^^^ (g 0).rotateRight 22
  let mj := (g 0 &&& g 1) ^^^ (g 0 &&& g 2) ^^^ (g 1 &&& g 2)
  [t1 + s0 + mj, g 0, g 1, g 2, g 3 + t1, g 4, g 5, g 6]

def shaBlock (h : List W32) (block : List Byte) : List W32 :=
  let ws := (List.range 16).map (fun i => w32 (ofBytesBE ((block.drop (4 * i)).take 4)))
  let sched := (shaSchedule 48 ws.reverse).reverse
  let e := (List.zip shaK sched).foldl (fun a kw => shaRound a (w32 kw.1 + kw.2)) h
  (List.zip h e).map (fun p => p.1 + p.2)

def shaBlocks : Nat → List W32 → List Byte → List W32
  | 0, h, _ => h
  | n + 1, h, bs => shaBlocks n (shaBlock h (bs.take 64)) (bs.drop 64)

/-- SHA-256: 32 bytes. -/
def sha256 (bs : List Byte) : List Byte :=
  let z := (119 - bs.length % 64) % 64
  let m := bs ++ [0x80#8] ++ List.replicate z 0 ++ bytesBE 8 (8 * bs.length)
  (shaBlocks (m.length / 64) shaInit m).flatMap (fun w => bytesBE 4 w.toNat)

/-! ### HSS (RFC 8554) -/

/-- Winternitz parameter and chain count and checksum shift of an LM-OTS type. -/
def otsParams (t : Nat) : Option (Nat × Nat × Nat) :=
  if t = 1 then some (1, 265, 7) else if t = 2 then some (2, 133, 6) else if t = 3 then some (4, 67, 4)
  else if t = 4 then some (8, 34, 0) else none

/-- Tree height of an LMS type. -/
def lmsHeight (t : Nat) : Option Nat := if 5 ≤ t ∧ t ≤ 9 then some (5 * (t - 4)) else none

/-- Digit i of a byte string in base 2^w. -/
def otsCoef (bs : List Byte) (i w : Nat) : Nat :=
  let b := (bs.getD (i * w / 8) 0).toNat
  (b >>> (8 - (w * (i % (8 / w)) + w))) % 2 ^ w

def otsChain (pre : List Byte) (i : Nat) : Nat → Nat → List Byte → List Byte
  | 0, _, x => x
  | n + 1, j, x => otsChain pre i n (j + 1) (sha256 (pre ++ bytesBE 2 i ++ bytesBE 1 j ++ x))

/-- The candidate LM-OTS public key of a signature. -/
def otsKey (iq : List Byte) (w p ls : Nat) (c y msg : List Byte) : List Byte :=
  let q := sha256 (iq ++ bytesBE 2 0x8181 ++ c ++ msg)
  let sum := (List.range (256 / w)).foldl (fun a i => a + (2 ^ w - 1 - otsCoef q i w)) 0
  let qc := q ++ bytesBE 2 (sum * 2 ^ ls)
  let z := (List.range p).flatMap (fun i =>
    let a := otsCoef qc i w
    otsChain iq i (2 ^ w - 1 - a) a ((y.drop (32 * i)).take 32))
  sha256 (iq ++ bytesBE 2 0x8080 ++ z)

def lmsPath (idn : List Byte) : Nat → List Byte → List Byte → Nat → List Byte
  | _, _, x, 0 => x
  | node, path, x, n + 1 =>
    let sib := path.take 32
    let y := if node % 2 = 1 then sib ++ x else x ++ sib
    lmsPath idn (node / 2) (path.drop 32) (sha256 (idn ++ bytesBE 4 (node / 2) ++ bytesBE 2 0x8383 ++ y)) n

/-- The length of the LMS signature that a byte string begins with, by its types. -/
def lmsSigLen (s : List Byte) : Option Nat :=
  match otsParams (ofBytesBE ((s.drop 4).take 4)) with
  | none => none
  | some (_, p, _) =>
    match lmsHeight (ofBytesBE ((s.drop (40 + 32 * p)).take 4)) with
    | none => none
    | some h => some (44 + 32 * p + 32 * h)

/-- Verification of an LMS signature under a 56-byte public key. -/
def lmsVerify (key msg s : List Byte) : Bool :=
  match otsParams (ofBytesBE ((key.drop 4).take 4)), lmsHeight (ofBytesBE (key.take 4)) with
  | some (w, p, ls), some h =>
    let idn := (key.drop 8).take 16
    let q := ofBytesBE (s.take 4)
    let path := s.drop (44 + 32 * p)
    decide (s.length = 44 + 32 * p + 32 * h) && decide ((s.drop 4).take 4 = (key.drop 4).take 4)
      && decide ((s.drop (40 + 32 * p)).take 4 = key.take 4) && decide (q < 2 ^ h)
      && (let k := otsKey (idn ++ s.take 4) w p ls ((s.drop 8).take 32) ((s.drop 40).take (32 * p)) msg
          let leaf := sha256 (idn ++ bytesBE 4 (2 ^ h + q) ++ bytesBE 2 0x8282 ++ k)
          decide (lmsPath idn (2 ^ h + q) path leaf h = (key.drop 24).take 32))
  | _, _ => false

/-- Verification of an HSS signature of 1 or 2 levels under a 60-byte public key (R407). -/
def hssVerify (key msg sig : List Byte) : Bool :=
  let l := ofBytesBE (key.take 4)
  let pub := key.drop 4
  let rest := sig.drop 4
  decide (key.length = 60) && decide (ofBytesBE (sig.take 4) + 1 = l) &&
    (if l = 1 then lmsVerify pub msg rest
     else if l = 2 then
       match lmsSigLen rest with
       | none => false
       | some n =>
         let low := (rest.drop n).take 56
         lmsVerify pub low (rest.take n) && lmsVerify low msg (rest.drop (n + 56))
     else false)

end Sys2Proof.Machine
end

