-- ==== Sys2Proof/Machine/Messages.lean ====
section
/-! DEFINITION. CRCs with a fold word (R284, R285) and protected messages: their form, sending and the receiver's checks
(R292 to R302). -/

namespace Sys2Proof.Machine

/-- Reflected polynomial of CRC-32C (R284). -/
def polyC : Nat := 0x82F63B78

/-- CRC-32C of bytes, with no fold word (R284). -/
def crc32c (bs : List Byte) : W32 := w32 (crcR polyC 0xFFFFFFFF bs ^^^ 0xFFFFFFFF)

/-- CRC-32C of bytes after a fold word (R285). -/
def crc32cFold (fold : Nat) (bs : List Byte) : W32 := crc32c (bytesLE 8 fold ++ bs)

/-- A payload padded with zeros to a multiple of 4 (R292). -/
def pad4 (bs : List Byte) : List Byte := bs ++ List.replicate ((4 - bs.length % 4) % 4) 0

/-- Header and padded payload of a protected message (R292). -/
def msgBody (m : PMsg) : List Byte :=
  bytesLE 2 m.src.toNat ++ bytesLE 2 m.seq.toNat ++ bytesLE 2 m.payload.length
    ++ [m.type, BitVec.ofNat 8 (b2n m.more + 2 * b2n m.restart)] ++ bytesLE 4 m.stamp.toNat ++ pad4 m.payload

/-- The CRC a message carries for a destination (R293). -/
def msgCrc (dst : BitVec 16) (m : PMsg) : W32 :=
  crc32cFold (2 ^ 48 * m.src.toNat + 2 ^ 32 * dst.toNat + 2 ^ 16 * m.seq.toNat) (msgBody m)

/-! ### IDs and types (R294, R295) -/

def idGatehouse : BitVec 16 := 0xFF00#16
def idGk : BitVec 16 := 0xFF01#16
def idRunPlan : BitVec 16 := 0xFF02#16
def idConc (d : Nat) : BitVec 16 := BitVec.ofNat 16 (0xFF10 + d)
def idBroadcast : BitVec 16 := 0xFFFF#16

/-- The STAMP of R292: counter bits [47:16]. -/
def stampOf (t : Tick) : BitVec 32 := BitVec.ofNat 32 (t / 65536)

/-- A message sent on a stream: the next SEQ, RESTART on the first since the sender's reset (R294). -/
def State.sendMsg (s : State) (src dst : BitVec 16) (type : Nat) (payload : List Byte) : State :=
  let key := 65536 * src.toNat + dst.toNat
  let n := Tab.get 0 s.tx key
  let m : PMsg := ⟨src, BitVec.ofNat 16 n, BitVec.ofNat 8 type, false, decide (n = 0), stampOf s.frc, payload, 0⟩
  let m := { m with crc := msgCrc dst m }
  ({ s with tx := Tab.set 0 s.tx key (n + 1) }).emit (.msg dst m)

/-- A transfer sent as consecutive messages of at most 240 bytes, all but the last with MORE (R297). -/
def State.sendXfer (s : State) (src dst : BitVec 16) (type : Nat) (fuel : Nat) (payload : List Byte) : State :=
  match fuel with
  | 0 => s
  | k + 1 =>
    let key := 65536 * src.toNat + dst.toNat
    let n := Tab.get 0 s.tx key
    let more := decide (240 < payload.length)
    let m : PMsg := ⟨src, BitVec.ofNat 16 n, BitVec.ofNat 8 type, more, decide (n = 0), stampOf s.frc, payload.take 240, 0⟩
    let m := { m with crc := msgCrc dst m }
    let t := ({ s with tx := Tab.set 0 s.tx key (n + 1) }).emit (.msg dst m)
    if more then State.sendXfer t src dst type k (payload.drop 240) else t

/-! ### Receivers (R298) -/

/-- The page of receiver r: 0 to 2 the Gatehouse links of die 0, die 1 and the I/O die, 3 the 10BASE-T1S port, 4 the
I/O die's own receiver. -/
def pmPage (r : Nat) : Nat := if r < 4 then ghPage (0x0E + r) else ioPage 0x025

/-- The ID that a receiver's messages are computed for (R293). The I/O die's receiver takes those of the Groundskeeper
and of the run-plan block, by type (R295). -/
def pmDst (r : Nat) (type : Nat) : BitVec 16 :=
  if r < 4 then idGatehouse
  else if type = 0x11 ∨ type = 0x14 then idRunPlan else idGk

/-- Types and sources that R295 permits on a receiver's interface. The T1S port's peers are checked by its own rules
(R350). -/
def srcTypeOk (r : Nat) (src : BitVec 16) (type : Nat) : Bool :=
  match r with
  | 0 => (uValid src && decide (uLevel src = 0) && decide (uDie src = 0) && (decide (type = 1) || decide (type = 2)))
      || (decide (src = idConc 0) && (decide (type = 3) || decide (type = 4)))
  | 1 => (uValid src && decide (uLevel src = 0) && decide (uDie src = 1) && (decide (type = 1) || decide (type = 2)))
      || (decide (src = idConc 1) && (decide (type = 3) || decide (type = 4)))
  | 2 => (decide (src = idConc 2) && (decide (type = 3) || decide (type = 4)))
      || (decide (src = idRunPlan) && [0x10, 0x12, 0x13].contains type)
      || (decide (src = idGk) && [0x21, 0x22, 0x24, 0x25, 0x26].contains type)
  | 3 => decide (0xFE01 ≤ src.toNat) && decide (src.toNat ≤ 0xFE07) && decide (type = 0x31)
  | 4 => decide (src = idGatehouse) && [0x11, 0x14, 0x20, 0x23, 0x27].contains type
  | _ => false

/-- The stream key of a receiver. -/
def streamKey (r : Nat) (src : BitVec 16) : Nat := 65536 * r + src.toNat

/-- A stream record. -/
def State.stream (s : State) (r : Nat) (src : BitVec 16) : PmStream := Tab.get PmStream.init s.streams (streamKey r src)

/-- A stream record changed. -/
def State.setStream (s : State) (r : Nat) (src : BitVec 16) (p : PmStream) : State :=
  { s with streams := Tab.set PmStream.init s.streams (streamKey r src) p }

/-- The first drop since PM_LAST_BAD was cleared (R302). -/
def State.pmBad (s : State) (r : Nat) (src type cause : Nat) : State :=
  let a := pmPage r + 0x064
  if bit (s.reg a) 31 then s else s.setReg a (w32 (src + type * 65536 + cause * 2 ^ 24 + 2 ^ 31))

/-- A transfer under assembly is discarded (R297). -/
def State.xferDrop (s : State) (r : Nat) (p : PmStream) : PmStream × State :=
  if p.xfer = 1 then ({ p with xfer := 0, xferData := [] }, s.count (pmPage r + 0x060)) else (p, s)

/-- How an accepted message moves its transfer (R297): the payload of a transfer that it completes, and the record and
state after. A RESTART ends the transfer under assembly and begins the new stream's first. -/
def State.xferStep (s : State) (r : Nat) (p : PmStream) (m : PMsg) (broken : Bool) : Option (List Byte) × PmStream × State :=
  let (p, s) := if m.restart then (let (q, t) := s.xferDrop r p; ({ q with xfer := 0, xferData := [] }, t)) else (p, s)
  if p.xfer = 2 then (none, { p with xfer := if m.more then 2 else 0 }, s)
  else if p.xfer = 1 ∧ (broken = true ∨ 262144 < p.xferData.length + m.payload.length) then
    let (p, s) := s.xferDrop r p
    (none, { p with xfer := if m.more then 2 else 0 }, s)
  else if m.more then (none, { p with xfer := 1, xferData := p.xferData ++ m.payload }, s)
  else (some (p.xferData ++ m.payload), { p with xfer := 0, xferData := [] }, s)

/-- The checks of R298 to R300 on a message at receiver r: the payload of a message or transfer that is complete and
acts, and the state with its stream record and counters. `ok` is a further source condition of the interface. -/
def State.pmReceive (s : State) (r : Nat) (ok : Bool) (m : PMsg) : Option (List Byte) × State :=
  let page := pmPage r
  if m.crc ≠ msgCrc (pmDst r m.type.toNat) m ∨ 240 < m.payload.length then
    (none, (s.count (page + 0x048)).pmBad r 0 m.type.toNat 1)
  else if !(ok && srcTypeOk r m.src m.type.toNat) then
    (none, (s.count (page + 0x04C)).pmBad r m.src.toNat m.type.toNat 2)
  else
    let p := s.stream r m.src
    let d := (m.seq - p.expect).toNat
    let repeated : Bool := p.seen && (if m.restart then decide (m.stamp.toNat ≤ p.stamp.toNat) else decide (32768 ≤ d))
    if repeated then
      let t := (s.count (page + 0x050)).pmBad r m.src.toNat m.type.toNat 3
      let (q, t) := t.xferDrop r p
      (none, t.setStream r m.src { q with xfer := if p.xfer = 1 then 2 else q.xfer })
    else
      let gap := if p.seen && !m.restart then d else 0
      let t := s.count (page + 0x044)
      let t := if p.seen && m.restart then t.count (page + 0x058) else t
      let t := if gap = 0 then t else t.countN (page + 0x054) gap
      let (done, q, t) := t.xferStep r p m (p.seen && (m.restart || decide (gap ≠ 0)))
      (done, t.setStream r m.src { q with seen := true, expect := m.seq + 1, stamp := m.stamp, last := s.frc, timedOut := false })

/-- The first message of a stream after a receiver's reset is accepted whatever its SEQ (R300): every record of receiver
r is cleared. -/
def State.clearStreams (s : State) (r : Nat) : State :=
  { s with streams := Tab.clearIn s.streams (65536 * r) (65536 * (r + 1)) }

/-- Stream records in use at a receiver (PM_STAT). -/
def State.streamsUsed (s : State) (r : Nat) : Nat :=
  (s.streams.filter (fun e => decide (e.1 / 65536 = r) && e.2.seen)).length

/-- Meaning of STREAM_TIMEOUT (R301): no acceptance in the interval that closes now; counted once. -/
def State.streamTimeout (s : State) (r : Nat) (src : BitVec 16) (timeout : Tick) : Bool × State :=
  let p := s.stream r src
  if p.seen && !p.timedOut && decide (p.last + timeout ≤ s.frc) then
    let t := s.count (pmPage r + 0x05C)
    let (q, t) := t.xferDrop r p
    (true, t.setStream r src { q with timedOut := true, xfer := if p.xfer = 1 then 2 else q.xfer })
  else (false, s)

end Sys2Proof.Machine
end

