-- ==== Sys2Proof/Machine/Collector.lean ====
section
/-! DEFINITION. The fault collector (R222 to R237, R490): sources, groups, classes, levels, recovery and acknowledge. -/

namespace Sys2Proof.Machine

/-! ### Sources and groups (R225) -/

/-- BLK_ERR bits that a page kind has. -/
def PageKind.errBits : PageKind → Nat
  | .unit => 1 | .core => 6 | .sig => 3 | .dma => 4 | .clu => 3 | .pav => 4 | .icu => 1 | .wd => 1 | .fw => 1 | .fab => 4
  | .mc => 6 | .link => 3 | .replica => 0 | .mem => 0 | .rp => 2 | .store => 0 | .folRx => 1 | .cvu => 1 | .pm => 0
  | .gkBoot => 0 | .gkId => 0 | .gkMbox => 0 | .sec => 0 | .cal => 0 | .pwr => 4 | .pcie => 1 | .msix => 0 | .sns => 0
  | .csi => 4 | .eth => 3 | .ghRst => 1 | .belief => 1 | .bv => 5 | .fol => 4 | .fc => 1 | .sio => 8 | .tsm => 0 | .bs => 1
  | .ghPwr => 10 | .grt => 3 | .t1s => 3 | .svc => 0

/-- Whether a page base and bit name a BLK_ERR bit of the part. -/
def srcOk (page b : Nat) : Bool :=
  decide (page % 0x1000 = 0) && (match pageKind page with | some k => decide (b < k.errBits) | none => false)

/-- The name that SOURCE_RISE gives an output difference between the lockstep cores (R171, R225), which is no BLK_ERR bit: bit 31 of the
collector's page (DESIGN CHOICE). -/
def lockstepSrc : Nat × Nat := (ghPage 0x04, 31)

/-- Page number of a page base within its window or die. -/
def pageNo (page : Nat) : Nat :=
  match winUnit page with
  | some _ => page / 0x1000 % 16
  | none => if 0x40000000 ≤ page ∧ page < 0x40100000 then page / 0x1000 % 0x100 else page / 0x1000 % 0x1000

/-- Unit ID of a source's block as reports and logs carry it (R237, R296). -/
def srcUnit (page : Nat) : BitVec 16 :=
  match winUnit page with
  | some u => u
  | none => if 0x40000000 ≤ page ∧ page < 0x40100000 then 0xFFFE#16 else 0xFFFF#16

/-- The page that a report names. -/
def pageOf (u : BitVec 16) (p : Nat) : Nat := if u = 0xFFFF#16 then ioPage p else uPage u p

/-- Group of a source in a unit window (R225). -/
def unitGroup (u : UnitId) (p b : Nat) : Nat :=
  let n := pavIx u
  let d := uDie u
  match uLevel u, p with
  | 0, 1 => if b = 1 ∨ b = 2 then n else if b = 5 then 55 else 8 + n
  | 0, 2 => if b = 2 then n else 8 + n
  | 0, _ => 8 + n
  | 1, 1 => if b = 0 then 8 + n else n
  | 1, _ => 8 + n
  | 2, 0 => 8 + n
  | 2, 1 => if b < 2 then n else 16 + n
  | 2, 4 => 28 + d
  | 2, _ => 16 + n
  | 3, 2 => if b = 2 then 55 else 24 + d
  | 3, 3 => 28 + d
  | 3, 4 => if b = 2 then 33 else 32
  | 3, 5 => if b = 2 then 34 + d else 36
  | 3, 6 => if b = 2 then 37 + d else 36
  | 3, _ => 26 + d
  | _, _ => 54

/-- Group of a source of an I/O die page. -/
def ioGroup (p b : Nat) : Nat :=
  if p = 0x003 ∨ p = 0x004 then (if b = 2 then 34 + (p - 3) else 36)
  else if p = 0x005 then (if b = 2 then 39 else 36)
  else if 0x027 ≤ p ∧ p ≤ 0x02A then 53
  else if p = 0x035 then 55
  else if p = 0x040 then 52
  else if 0x051 ≤ p ∧ p ≤ 0x058 then 40 + (p - 0x051)
  else if 0x059 ≤ p ∧ p ≤ 0x05C then 48 + (p - 0x059)
  else 54

/-- Group of a source of a Gatehouse page. -/
def ghGroup (p b : Nat) : Nat :=
  match p with
  | 0x02 => 60
  | 0x03 => if b = 1 then 58 else 59
  | 0x05 => 57
  | 0x07 => 62
  | 0x08 => 62
  | 0x13 => 56
  | 0x18 => if b = 2 then 37 else 36
  | 0x19 => if b = 2 then 38 else 36
  | 0x1A => if b = 2 then 39 else 36
  | _ => 61

/-- Group of a source (R225). -/
def srcGroup (page b : Nat) : Nat :=
  match winUnit page with
  | some u => unitGroup u (pageNo page) b
  | none => if 0x40000000 ≤ page ∧ page < 0x40100000 then ghGroup (pageNo page) b else ioGroup (pageNo page) b

/-- Class of a group (R225). -/
def grpClass (g : Nat) : Nat :=
  if g < 8 then 7 else if g < 16 then 8 else if g < 24 then 9 else if g < 26 then 7 else if g < 28 then 10
  else if g < 30 then 8 else if g < 32 then 12 else if g < 40 then 11 else if g < 52 then 13 else if g < 55 then 15
  else ([14, 12, 4, 5, 6, 3, 2, 1, 0] : List Nat).getD (g - 55) 0

/-- Initial level of a group (R225). -/
def grpLevel (g : Nat) : Nat :=
  if g < 8 then 2 else if g < 16 then 0 else if g < 26 then 2 else if g < 28 then 1 else if g < 30 then 0
  else if g < 32 then 3 else if g = 32 then 1 else if g < 36 then 2 else if g = 36 then 0 else if g < 39 then 2
  else if g = 39 then 3 else if g < 52 then 1 else if g = 52 then 0 else if g < 55 then 1
  else ([0, 3, 1, 1, 0, 1, 2, 3, 3] : List Nat).getD (g - 55) 0

/-- Groups of a class, ascending. -/
def clsGroups (k : Nat) : List Nat := (List.range 64).filter (fun g => decide (grpClass g = k))

/-! ### Class state -/

def fcPage : Nat := ghPage 0x04
def fcClsStat (k : Nat) : Nat := fcPage + 0x100 + 0x10 * k
def fcQuietA (k : Nat) : Nat := fcPage + 0x104 + 0x10 * k
def fcBudgetA (k : Nat) : Nat := fcPage + 0x108 + 0x10 * k
def fcEvtA (k : Nat) : Nat := fcPage + 0x10C + 0x10 * k

/-- Level of a class, 7 while clear. -/
def State.fcLevel (s : State) (k : Nat) : Nat := s.regF (fcClsStat k) 0 3
/-- HELD of a class (R230). -/
def State.fcHeld (s : State) (k : Nat) : Bool := bit (s.reg (fcClsStat k)) 3
/-- GH_FSW bit of a group. -/
def State.fcLatched (s : State) (g : Nat) : Bool := bit (s.reg (fcPage + 0x040 + 4 * (g / 32))) (g % 32)
/-- GH_FSW bit given a value. -/
def State.fcLatch (s : State) (g : Nat) (v : Bool) : State :=
  let a := fcPage + 0x040 + 4 * (g / 32)
  s.setReg a (setBit (s.reg a) (g % 32) v)
def State.fcGroup (s : State) (g : Nat) : FcGrp := Tab.get FcGrp.init s.fcGrp g
def State.fcClass (s : State) (k : Nat) : FcCls := Tab.get FcCls.init s.fcCls k
def State.setFcClass (s : State) (k : Nat) (c : FcCls) : State := { s with fcCls := Tab.set FcCls.init s.fcCls k c }

/-- The level at which a group stands (R228): its class's while it is latched, 7 otherwise. -/
def State.grpLevelNow (s : State) (g : Nat) : Nat := if s.fcLatched g then s.fcLevel (grpClass g) else 7

/-- Whether a source of a group is high among those whose keys pass a test (R222, R224): a BLK_ERR bit of the Gatehouse, a die's source
that a report or vector has shown high, or a condition reported without a bit. -/
def State.grpHighOf (s : State) (g : Nat) (p : Nat → Bool) : Bool :=
  s.regs.any (fun e =>
    decide (e.1 < 0x100000000) && decide (e.1 % 0x1000 = errOff)
    && (match pageKind e.1 with | some k => k.hasHead | none => false) &&
    (bitsOf 32 e.2.toNat).any (fun i =>
      decide (srcGroup (e.1 - errOff) i = g) && s.srcHigh (e.1 - errOff) i && p (e.1 - errOff + i)))
  || s.fcKnown.any (fun e => decide (srcGroup e.1 e.2 = g) && p (e.1 + e.2))
  || s.fcExt.any (fun e => decide (e.1 / 16 = g) && e.2 && p e.1)

def State.grpHigh (s : State) (g : Nat) : Bool := s.grpHighOf g (fun _ => true)

/-- Whether a latched group of a class has a high source. -/
def State.clsHigh (s : State) (k : Nat) : Bool := (clsGroups k).any (fun g => s.fcLatched g && s.grpHigh g)
/-- The same, but for sources that have risen on this tick. -/
def State.clsStood (s : State) (k : Nat) : Bool :=
  (clsGroups k).any (fun g => s.fcLatched g && s.grpHighOf g (fun key => decide (Tab.get 0 s.roseAt key ≠ s.frc + 1)))

/-- A state in which sources may have fallen since another: the quiet time of a class whose last high source fell starts
now (R229). -/
def State.withFalls (s t : State) : State :=
  (List.range 16).foldl (fun u k =>
    if s.clsHigh k && !t.clsHigh k then u.setFcClass k { u.fcClass k with fell := t.frc } else u) t

/-- A source that is no BLK_ERR bit goes high, or low (R224). -/
def State.extHigh (s : State) (key : Nat) (on : Bool) : State :=
  let t := { s with fcExt := Tab.set false s.fcExt key on }
  if on then t.rose key else t

/-- Evidence registered now (R178). -/
def State.evidence (s : State) (k : EvKind) : State := { s with evid := s.evid ++ [⟨s.frc, k⟩] }

/-- A class leaves its fault state (R229, R231): the bits of its groups clear. -/
def State.fcClear (s : State) (k : Nat) : State :=
  let t := (clsGroups k).foldl (fun t g => t.fcLatch g false) s
  let t := (t.setRegF (fcClsStat k) 0 3 7).setRegF (fcClsStat k) 3 1 0
  let t := if k = 5 then { t with latentAt := [] } else t
  (t.evidence (.clear k)).icuPulse 0 2

/-- Recoveries of a class in the current minute and the 59 before it (R230). -/
def FcCls.hourly (c : FcCls) : Nat := c.mins.foldl (· + ·) 0

/-- FC_CLASSk_QUIET in force: a write takes effect from the next tick (R237). -/
def State.fcQuietMs (s : State) (k : Nat) : Nat :=
  match (s.fcClass k).quiet with
  | some (old, at_) => if at_ = s.frc then old else s.regF (fcQuietA k) 0 16
  | none => s.regF (fcQuietA k) 0 16

/-- The quiet time of a class has reached its period before this tick's rises (R229). -/
def State.fcQuietDue (s : State) (k : Nat) : Bool :=
  decide (s.fcLevel k ≤ 2) && !s.fcHeld k && !s.clsStood k
  && decide (max (s.fcClass k).event (s.fcClass k).fell + 500000 * s.fcQuietMs k ≤ s.frc)

/-- Meaning of a quiet-period expiry (R229, R230): recovery, or HELD over the budget. -/
def State.fcQuiet (s : State) (k : Nat) : State :=
  if !s.fcQuietDue k then s
  else
    let c := s.fcClass k
    if s.regF (fcBudgetA k) 0 8 < c.hourly + 1 then (s.setRegF (fcClsStat k) 3 1 1).icuPulse 0 2
    else
      let mins := match c.mins with | [] => [1] | m :: r => (m + 1) :: r
      let t := s.setFcClass k { c with mins := mins }
      let t := t.setRegF (fcClsStat k) 16 16 (satN 16 (t.regF (fcClsStat k) 16 16 + 1))
      let t := t.setRegF (fcClsStat k) 8 8 (satN 8 (t.fcClass k).hourly)
      (t.count (fcPage + 0x074)).fcClear k

/-- The FAULT_NOTE of an event (R233): group, class, new level and event stamp. -/
def State.faultNote (s : State) (g lvl : Nat) : State :=
  s.sendMsg idGatehouse idGk 0x23
    ([BitVec.ofNat 8 g, BitVec.ofNat 8 (grpClass g), BitVec.ofNat 8 lvl, 0] ++ bytesLE 4 (nfld s.frc 0 32) ++ bytesLE 4 (nfld s.frc 32 32))

/-- The level that events on groups of a class leave it at, in their order, from a level, 7 for clear, and how often it rose (R228). -/
def fcLevels (before : Nat) (gs : List Nat) : Nat × Nat :=
  gs.foldl (fun a g =>
    let lvl := if a.1 = 7 then grpLevel g else max (min 3 (a.1 + 1)) (grpLevel g)
    (lvl, a.2 + b2n (decide (a.1 ≠ 7) && decide (a.1 < lvl)))) (before, 0)

/-- A list in ascending order with a number put into it. -/
def insertAsc (g : Nat) (gs : List Nat) : List Nat := gs.filter (fun x => decide (x ≤ g)) ++ g :: gs.filter (fun x => decide (g < x))

/-- An event on a group (R228, R233, R237): `src` names its source, `loc` where a LATENT event lies. Rises of one group in one tick are
one event, but for LATENT; events of one class in one tick count in ascending order of their groups, in whatever order they come. -/
def State.fcEvent (s : State) (g : Nat) (src : Option (Nat × Nat)) (injected forced : Bool) (loc : Option Loc) : State :=
  let k := grpClass g
  let s := s.fcQuiet k
  if decide ((s.fcGroup g).last = some s.frc) && loc.isNone then s
  else
    let old := s.fcLevel k
    let c := s.fcClass k
    let again := decide (old ≠ 7) && decide (c.event = s.frc) && !c.groups.isEmpty
    let before := if again then c.before else old
    let gs := if again then insertAsc g c.groups else [g]
    let lvl := (fcLevels before gs).1
    let wasLatched := s.fcLatched g
    let q := s.fcGroup g
    let q := if wasLatched then { q with injected := q.injected || injected, forced := q.forced || forced }
      else { q with named := false, injected := injected, forced := forced, unit := 0, page := 0, errBit := 0, time := s.frc }
    let q := match src with
      | some (p, b) => if q.named then q else { q with named := true, unit := srcUnit p, page := pageNo p, errBit := b, time := s.frc }
      | none => q
    let q := { q with events := BitVec.ofNat 16 (satN 16 (q.events.toNat + 1)), last := some s.frc }
    let t := { s.fcLatch g true with fcGrp := Tab.set FcGrp.init s.fcGrp g q }
    let t := t.setFcClass k { t.fcClass k with event := t.frc, before := before, groups := gs, rises := (fcLevels before gs).2 }
    let t := (t.count (fcEvtA k)).count (fcPage + 0x06C)
    let t := t.countN (fcPage + 0x070) ((fcLevels before gs).2 - (if again then c.rises else 0))
    let t := t.setRegF (fcClsStat k) 0 3 lvl
    let t := match loc with | some l => { t with latentAt := t.latentAt ++ [l] } | none => t
    let t := if 2 ≤ lvl then
        (if loc.isSome then t.evidence (.group g lvl loc)
         else ((clsGroups k).filter t.fcLatched).foldl (fun t h => t.evidence (.group h lvl none)) t)
      else t
    let t := t.faultNote g lvl
    if decide (1 ≤ lvl) || decide (old ≠ lvl) then t.icuPulse 0 2 else t

/-! ### Links (R490) -/

/-- The link that a link page's end belongs to: 0 the Footbridge, 1 and 2 the I/O links, 3 and 4 the dies' Gatehouse links,
5 the I/O die's. -/
def linkOf (page : Nat) : Option Nat :=
  match winUnit page with
  | some u => match pageNo page with
    | 4 => if uLevel u = 3 then some 0 else none
    | 5 => if uLevel u = 3 then some (1 + uDie u) else none
    | 6 => if uLevel u = 3 then some (3 + uDie u) else none
    | _ => none
  | none =>
    if page = ioPage 3 then some 1 else if page = ioPage 4 then some 2 else if page = ioPage 5 then some 5
    else if page = ghPage 0x18 then some 3 else if page = ghPage 0x19 then some 4 else if page = ghPage 0x1A then some 5
    else none

/-- A source's rise is latched (R224, R228); the other end's report of the same link bit within 1 ms is merged (R490). -/
def State.fcLatchSrc (s : State) (page b : Nat) (injected : Bool) : State :=
  let g := srcGroup page b
  match linkOf page with
  | none => s.fcEvent g (some (page, b)) injected false none
  | some l =>
    let key := 8 * l + b
    match Tab.get none s.fcLink key with
    | some (t0, p0) =>
      if p0 ≠ page ∧ s.frc ≤ t0 + 500000 then s
      else { s.fcEvent g (some (page, b)) injected false none with
             fcLink := Tab.set none s.fcLink key (some (s.frc, page)) }
    | none => { s.fcEvent g (some (page, b)) injected false none with
                fcLink := Tab.set none s.fcLink key (some (s.frc, page)) }

/-! ### Reports -/

/-- The die of a page: 0 and 1 the compute dies, 2 the I/O die (which also serves the package window), 3 the Gatehouse. -/
def pageDie (page : Nat) : Nat :=
  match winUnit page with
  | some u => if uLevel u = 4 then 2 else uDie u
  | none => if 0x40000000 ≤ page ∧ page < 0x40100000 then 3 else 2

/-- Payload of an error report (R296). -/
def errReport (t : Tick) (page b : Nat) : List Byte :=
  bytesLE 4 ((srcUnit page).toNat + pageNo page * 65536) ++ bytesLE 4 (b + nfld t 16 24 * 256)

/-- Whether a writer other than the Folly's test lane has armed an injection on a page (R235, R471). -/
def State.injArmed (s : State) (page : Nat) : Bool :=
  !bit (s.reg (page + injOff)) 31 && decide (s.regF (page + injOff) 8 8 ≠ 0)

/-- Meaning of SOURCE_RISE (R171, R222, R224, R228, R235): a source rises, by an error already held in BLK_ERR or by a cause that sets
its bit now, which is an injection where one is armed on the page. The Gatehouse latches its own sources; a die's concentrator sends a
report. -/
def sourceRise (page b : Nat) (injected : Bool) (s : State) : State :=
  if (page, b) = lockstepSrc then s.fcEvent 63 none false false none
  else
  let hit := injected && s.injArmed page
  let s := if s.risen.contains (page, b) then s
    else if hit then (s.injTake page (s.regF (page + injOff) 0 4)).2.setErrBy 1 page b else s.setErr page b
  if !s.risen.contains (page, b) then s
  else
    let t := { s with risen := s.risen.erase (page, b) }
    if pageDie page = 3 then t.fcLatchSrc page b (t.injSrc.contains (page, b))
    else t.sendMsg (idConc (pageDie page)) idGatehouse 0x03 (errReport t.frc page b)
def execSourceRise (page b : Nat) (injected : Bool) (s : State) : Out :=
  onUnit (srcOk page b || decide ((page, b) = lockstepSrc)) (sourceRise page b injected s)

/-- The interrupt that a message's arrival raises (R478, R481). -/
def State.msgIrq (s : State) (r : Nat) : State :=
  if r < 3 then s.icuPulse 0 (8 + r) else if r = 3 then s.icuPulse 0 11 else s.icuPulse 1 77

/-- A message at a receiver (R298): its payload where it is accepted and complete. A die heard again ends its silence. -/
def State.recv (s : State) (r : Nat) (ok : Bool) (m : PMsg) : Option (List Byte) × State :=
  let (p, t) := s.pmReceive r ok m
  let took := !(s.stream r m.src).seen || decide ((t.stream r m.src).expect ≠ (s.stream r m.src).expect)
  let t := if took && (t.stream r m.src).seen then t.msgIrq r else t
  if Tab.get false t.silent r && decide ((t.stream r m.src).last = t.frc) then
    let g := if r < 2 then 37 + r else 39
    (p, t.withFalls ({ t with silent := Tab.set false t.silent r false }.extHigh (16 * g) false))
  else (p, t)

/-- Sources of a die that a report or a vector shows high and that the collector did not know (R224). -/
def State.known (s : State) (es : List (Nat × Nat)) : State :=
  es.foldl (fun t e => if t.fcKnown.contains e then t else { t.rose (e.1 + e.2) with fcKnown := t.fcKnown ++ [e] }) s

/-- ERR_REPORT (R224, R296): the Gatehouse latches the event that a report names. -/
def errReportRx (link : Nat) (dom : Domain) (m : PMsg) (s : State) : State :=
  if dom ≠ 0xF01#12 then s
  else
    let (p, t) := s.recv link (decide (m.type = 0x03)) m
    match p with
    | none => t
    | some bs =>
      let w0 := ofBytesLE (bs.take 4)
      let w1 := ofBytesLE ((bs.drop 4).take 4)
      let page := pageOf (BitVec.ofNat 16 w0) (nfld w0 16 12)
      let b := nfld w1 0 5
      if bs.length = 8 ∧ srcOk page b = true ∧ pageDie page = link then t.known [(page, b)] |>.fcLatchSrc page b (t.injSrc.contains (page, b))
      else t
def execErrReport (link : Nat) (dom : Domain) (m : PMsg) (s : State) : Out :=
  onUnit (decide (link < 3)) (errReportRx link dom m s)

/-- The sources that a vector's entries show high (R296). -/
def vectorSources : List Byte → Nat → List (Nat × Nat)
  | _, 0 => []
  | bs, n + 1 =>
    if bs.length < 8 then []
    else
      let w0 := ofBytesLE (bs.take 4)
      let page := pageOf (BitVec.ofNat 16 w0) (nfld w0 16 12)
      ((bitsOf 32 (ofBytesLE ((bs.drop 4).take 4))).map (fun b => (page, b))).filter (fun e => srcOk e.1 e.2)
        ++ vectorSources (bs.drop 8) n

/-- SRC_VECTOR (R224, R229, R296): a vector says which sources of its die are high and which have fallen; those shown high that were never
reported are latched, in ascending order of their groups, and counted as lost. -/
def srcVectorRx (link : Nat) (dom : Domain) (m : PMsg) (s : State) : State :=
  if dom ≠ 0xF01#12 then s
  else
    let (p, t) := s.recv link (decide (m.type = 0x04)) m
    match p with
    | none => t
    | some bs =>
      let now := (vectorSources bs (bs.length / 8)).filter (fun e => decide (pageDie e.1 = link))
      let lost := now.filter (fun e => !t.fcKnown.contains e)
      let t := t.withFalls { t with fcKnown := t.fcKnown.filter (fun e => decide (pageDie e.1 ≠ link) || now.contains e) }
      lost.foldl (fun t e => (t.count (fcPage + 0x078)).fcLatchSrc e.1 e.2 (t.injSrc.contains e)) (t.known lost)
def execSrcVector (link : Nat) (dom : Domain) (m : PMsg) (s : State) : Out :=
  onUnit (decide (link < 3)) (srcVectorRx link dom m s)

/-- SRC_VECTOR_PERIOD (R224): every 50 µs a concentrator sends every block of its die that has a source high. -/
def srcVectorSend (die : Nat) (s : State) : State :=
  if s.frc < Tab.get 0 s.vecAt die + 25000 then s
  else
    let blocks := s.regs.filter (fun e =>
      decide (e.1 % 0x1000 = errOff) && (match pageKind e.1 with | some k => k.hasHead | none => false)
      && decide (pageDie e.1 = die) && decide (e.2 &&& ~~~ s.reg (e.1 - errOff + errMaskOff) ≠ 0))
    let payload := blocks.flatMap (fun e =>
      bytesLE 4 ((srcUnit e.1).toNat + pageNo (e.1 - errOff) * 65536)
        ++ bytesLE 4 (e.2 &&& ~~~ s.reg (e.1 - errOff + errMaskOff)).toNat)
    { s.sendXfer (idConc die) idGatehouse 0x04 (payload.length / 240 + 1) payload with
      vecAt := Tab.set 0 s.vecAt die s.frc }
def execSrcVectorPeriod (die : Nat) (s : State) : Out := onUnit (decide (die < 3)) (srcVectorSend die s)

/-- The last acceptance of any message at a receiver. -/
def State.lastHeard (s : State) (r : Nat) : Option Tick :=
  (s.streams.filter (fun e => decide (e.1 / 65536 = r) && e.2.seen)).foldl
    (fun a e => some (max (a.getD 0) e.2.last)) none

/-- CONCENTRATOR_SILENCE (R224): no message from a die for 200 µs is an event on its link group, as the die end's report of
DOWN (R490). -/
def concSilence (r : Nat) (s : State) : State :=
  match s.lastHeard r with
  | none => s
  | some t0 =>
    if Tab.get false s.silent r || decide (s.frc < t0 + 100000) then s
    else
      let g := if r < 2 then 37 + r else 39
      let page := if r < 2 then uPage (dieUid r) 6 else ioPage 5
      let t := { s with silent := Tab.set false s.silent r true }.extHigh (16 * g) true
      t.fcLatchSrc page 2 false
def execConcentratorSilence (r : Nat) (s : State) : Out := onUnit (decide (r < 3)) (concSilence r s)

/-! ### Recovery, acknowledge and forcing -/

/-- QUIET_PERIOD_EXPIRY (R229). -/
def execQuietPeriodExpiry (k : Nat) (s : State) : Out := onUnit (decide (k < 16)) (s.fcQuiet k)

/-- HOURLY_WINDOW_ADVANCE (R230): a minute has passed; the oldest minute leaves the hourly counts. -/
def hourlyAdvance (s : State) : State :=
  if s.frc < s.fcMinute then s
  else
    (List.range 16).foldl (fun t k =>
      let c := t.fcClass k
      let mins := if c.hourly = 0 then [] else (0 :: c.mins).take 60
      let t := t.setFcClass k { c with mins := mins }
      t.setRegF (fcClsStat k) 8 8 (satN 8 (t.fcClass k).hourly)) { s with fcMinute := s.fcMinute + 30000000000 }
def execHourlyWindowAdvance (s : State) : Out := .next (hourlyAdvance s)

/-- One class acknowledged (R231): a source still high, or an event on this tick, defeats it. -/
def State.fcAckClass (s : State) (k : Nat) : State :=
  if k < 2 then s
  else
    let s := s.fcQuiet k
    if s.fcLevel k = 7 then s.setRegF (fcPage + 0x050) k 1 0
    else if s.clsHigh k = true ∨ (s.fcClass k).event = s.frc then s.setRegF (fcPage + 0x050) k 1 1
    else (s.fcClear k).setRegF (fcPage + 0x050) k 1 0

/-- A write of FC_ACK (R231). -/
def State.fcAck (s : State) (v : Nat) : State := (bitsOf 16 v).foldl State.fcAckClass s
def fcAckWrite (w : Writer) (v : W32) (s : State) : State := if w = .pair then s.fcAck (fld v 0 16) else s
def execFcAck (w : Writer) (v : W32) (s : State) : Out := .next (fcAckWrite w v s)

/-- A write of FC_FORCE (R236): only while service access is granted. -/
def State.fcForce (s : State) (v : W32) : State :=
  if !bit v 31 then s
  else if s.svcAccess then s.fcEvent (fld v 0 6) none false true none
  else s.setErr fcPage 0
def fcForceWrite (w : Writer) (v : W32) (s : State) : State := if w = .pair then s.fcForce v else s
def execFcForce (w : Writer) (v : W32) (s : State) : Out := .next (fcForceWrite w v s)

/-- FAULT_FORCE (R236): the pair writes FC_FORCE on an accepted message; its payload is the group in [5:0]. -/
def faultForce (m : PMsg) (s : State) : State :=
  let (p, t) := s.recv 2 (decide (m.type = 0x25)) m
  match p with
  | none => t
  | some bs => t.fcForce (w32 (nfld (ofBytesLE (bs.take 4)) 0 6 + 2 ^ 31))
def execFaultForce (m : PMsg) (s : State) : Out := .next (faultForce m s)

/-- BLK_ERR_MASK written (R222): a source whose bit stands rises as it is unmasked, and one that is masked falls. -/
def State.setErrMask (s : State) (page : Nat) (v : W32) : State :=
  let old := s.reg (page + errMaskOff)
  let t := s.setReg (page + errMaskOff) v
  let up := bitsOf 32 ((s.reg (page + errOff) &&& old) &&& ~~~ v).toNat
  let t := { t with risen := t.risen ++ up.map (fun b => (page, b)) }
  s.withFalls (up.foldl (fun t b => t.rose (page + b)) t)

/-- BLK_ERR written (RW1C, R222): bits written 1 fall, but for DEBUG_OPEN while it is held high
(R421), and OVERDUE of the Folly while a checker is overdue (R219). -/
def State.blkErrClear (s : State) (page : Nat) (v : W32) : State :=
  let v := if page = ghPage 0x14 ∧ s.dbgOpen = true then v &&& ~~~ 1#32 else v
  let v := if page = ghPage 0x03 ∧ s.fol.chks.any (fun e => e.2.overdue) = true then v &&& ~~~ 2#32 else v
  let t := s.setReg (page + errOff) (s.reg (page + errOff) &&& ~~~ v)
  s.withFalls t

end Sys2Proof.Machine
end

