-- ==== Sys2Proof/Machine/GhMem.lean ====
section
/-! DEFINITION. The memories of the Gatehouse map (R139) and their codes (R122 to R124): the TCM by words under the 32-bit code, the eFlash
images (R412) by words under the 64-bit code. -/

namespace Sys2Proof.Machine

/-- What stands at a 32-bit address of the processor pair (R139); elsewhere its access faults. -/
inductive GhPlace where
  | flash
  | tcm
  | slots
  | pages
  deriving DecidableEq, Repr

def ghPlace (a : Nat) : Option GhPlace :=
  if a < 0x400000 then some .flash
  else if 0x20000000 ≤ a ∧ a < 0x20080000 then some .tcm
  else if 0x30000000 ≤ a ∧ a < 0x30800000 then some .slots
  else if 0x40000000 ≤ a ∧ a < 0x40100000 then some .pages
  else none

/-- GH_CORE's report of an uncorrectable word (R225). -/
def State.ghWordBad (s : State) : State := s.fcEvent 61 none false false none

/-- A TCM word as it is stored. -/
def State.tcmRaw (s : State) (a : Nat) : W32 := w32 (ofBytesLE ((List.range 4).map (fun i => Tab.get 0 s.tcm (a + i))))
/-- A word stored in the TCM with correct check bits. -/
def State.tcmWrite (s : State) (a : Nat) (v : W32) : State :=
  { s with tcm := ((bytesLE 4 v.toNat).zipIdx).foldl (fun t e => Tab.set 0 t (a + e.2) e.1) s.tcm, ghSyn := Tab.set 0 s.ghSyn a 0 }
/-- A TCM word read through its code: none where it is uncorrectable, which is reported; a corrected one is written back. -/
def State.tcmRead (s : State) (a : Nat) : Option W32 × State :=
  match ecc32 (Tab.get 0 s.ghSyn a).toNat with
  | .clean => (some (s.tcmRaw a), s)
  | e => if e.bad then (none, s.ghWordBad) else (some (e.fix (s.tcmRaw a)), s.tcmWrite a (e.fix (s.tcmRaw a)))

/-! ### The Groundskeeper's SRAM (R428), by its local addresses under the same code -/

def gkSramAt (a : Nat) : Bool := decide (0x08000000 ≤ a) && decide (a < 0x08800000)
def State.gkSramRaw (s : State) (a : Nat) : W32 := w32 (ofBytesLE ((List.range 4).map (fun i => Tab.get 0 s.gkSram (a + i))))
def State.gkSramWrite (s : State) (a : Nat) (v : W32) : State :=
  { s with gkSram := ((bytesLE 4 v.toNat).zipIdx).foldl (fun t e => Tab.set 0 t (a + e.2) e.1) s.gkSram, gkSyn := Tab.set 0 s.gkSyn a 0 }
/-- A word read through its code: none where it is uncorrectable; a corrected one is written back. -/
def State.gkSramRead (s : State) (a : Nat) : Option W32 × State :=
  match ecc32 (Tab.get 0 s.gkSyn a).toNat with
  | .clean => (some (s.gkSramRaw a), s)
  | e => if e.bad then (none, s) else (some (e.fix (s.gkSramRaw a)), s.gkSramWrite a (e.fix (s.gkSramRaw a)))

/-- The eFlash places of firmware slots A and B and of the two copies of the safety parameter record (R412). -/
def flashBase (i : Nat) : Nat := ([0, 0x180000, 0x300000, 0x308000] : List Nat).getD i 0
def flashSize (i : Nat) : Nat := if i < 2 then 0x180000 else 0x8000
/-- The eFlash words of a place that do not decode clean: offset and syndrome. -/
def State.flashErrs (s : State) (i : Nat) : List (Nat × Nat) :=
  (s.ghSyn.filter (fun e => decide (flashBase i ≤ e.1) && decide (e.1 < flashBase i + flashSize i))).map (fun e =>
    (e.1 - flashBase i, e.2.toNat))
/-- The bytes of an image with the data bit that a word's syndrome names put right. -/
def flashFix (img : List Byte) (e : Nat × Nat) : List Byte :=
  match ecc64 e.2 with
  | .fixData j => img.set (e.1 + j / 8) (img.getD (e.1 + j / 8) 0 ^^^ BitVec.ofNat 8 (2 ^ (j % 8)))
  | _ => img
/-- An eFlash image read through its code (R123): nothing of it, and a report, where a word is uncorrectable. -/
def State.flashRead (s : State) (i : Nat) : List Byte × State :=
  let es := s.flashErrs i
  if es.any (fun e => (ecc64 e.2).bad) then ([], s.ghWordBad) else (es.foldl flashFix (Tab.get [] s.sec.flash i), s)
/-- An image programmed into the eFlash with correct check bits. -/
def State.flashPut (s : State) (i : Nat) (img : List Byte) : State :=
  { s with sec := { s.sec with flash := Tab.set [] s.sec.flash i img },
           ghSyn := Tab.clearIn s.ghSyn (flashBase i) (flashBase i + flashSize i) }

end Sys2Proof.Machine
end

