-- ==== Sys2Proof/Machine/Sio.lean ====
section
/-! DEFINITION. Machine safety functions and safe outputs (R240 to R261). -/

namespace Sys2Proof.Machine

def sioPage : Nat := ghPage 0x05
def siCfgA (k : Nat) : Nat := sioPage + 0x100 + 8 * k
def siStatA (k : Nat) : Nat := sioPage + 0x104 + 8 * k
def soCfgA (n : Nat) : Nat := sioPage + 0x200 + 8 * n
def soStatA (n : Nat) : Nat := sioPage + 0x204 + 8 * n
def sioHsCmdA : Nat := sioPage + 0x05C
def sioStatA : Nat := sioPage + 0x040
def sioResStatA : Nat := sioPage + 0x050
/-- GH_OUT_STATn (R200). -/
def outStatA (n : Nat) : Nat := ghPage 0x01 + 0x058 + 4 * n

/-- Pair functions (R246). -/
def fnEstop : Nat := 1
def fnAnti : Nat := 3
def fnTwohand : Nat := 4

/-- Pair states (R245, R261). -/
def prStopped : Nat := 1
def prPendUp : Nat := 2
def prRun : Nat := 3
def prPendDown : Nat := 4
def prFault : Nat := 5

/-- Latch causes (R261). -/
def lcVerdict : Nat := 1
def lcStop : Nat := 2
def lcLatchSet : Nat := 3
def lcReset : Nat := 4
def lcProcessor : Nat := 5
def lcLock : Nat := 6

def State.setSio (s : State) (x : SioSt) : State := { s with sio := x }

/-- A scan instruction that takes the pins is the Gatehouse TAP's current one (R462). -/
def State.scanOn (s : State) : Bool := ([3, 4, 5, 6, 7] : List Nat).contains (Tab.get TapSt.init s.taps 3).instr

def State.siFunc (s : State) (k : Nat) : Nat := s.regF (siCfgA k) 0 3
def State.siAuto (s : State) (k : Nat) : Bool := bit (s.reg (siCfgA k)) 3
def State.siMask (s : State) (k n : Nat) : Bool := bit (s.reg (siCfgA k)) (12 + n)
/-- DISC of a pair in ticks. -/
def State.siDisc (s : State) (k : Nat) : Tick := 500000 * s.regF (siCfgA k) 16 10
/-- State of a pair in a path: hw for the hard-wired one. -/
def State.siState (s : State) (hw : Bool) (k : Nat) : Nat := s.regF (siStatA k) (if hw then 3 else 0) 3
def State.setSiState (s : State) (hw : Bool) (k x : Nat) : State := s.setRegF (siStatA k) (if hw then 3 else 0) 3 x
/-- A stop function (R246). -/
def State.siStop (s : State) (k : Nat) : Bool :=
  [1, 2, 3, 5].contains (s.siFunc k)
/-- A DRIVE_ENABLE output. -/
def State.soDrive (s : State) (n : Nat) : Bool := !bit (s.reg (soCfgA n)) 0
def State.soResumeEn (s : State) (n : Nat) : Bool := bit (s.reg (soCfgA n)) 1
def State.latched (s : State) (n : Nat) : Bool := bit (s.reg (soStatA n)) 2
def State.locked (s : State) (n : Nat) : Bool := bit (s.reg (soStatA n)) 3
/-- PERMIT: present while the verdict is ON or DEGRADED (R183). -/
def State.permit (s : State) (n : Nat) : Bool := decide (s.regF (outStatA n) 0 2 = 1) || decide (s.regF (outStatA n) 0 2 = 2)

/-- Whether a level of channel c of pair k is its active one (R243). -/
def State.siActiveAt (s : State) (k c : Nat) (level : Bool) : Bool :=
  if decide (c = 1) && (decide (s.siFunc k = fnAnti) || decide (s.siFunc k = fnTwohand)) then !level else level

/-- Filtered level of a channel in a path. -/
def State.siLevel (s : State) (hw : Bool) (ch : Nat) : Bool := bit (if hw then s.sio.hwLevel else s.sio.prLevel) ch

/-- Whether channel c of pair k is active in a path. -/
def State.siActive (s : State) (hw : Bool) (k c : Nat) : Bool := s.siActiveAt k c (s.siLevel hw (2 * k + c))

/-- Key of a pair in a path. -/
def siKey (hw : Bool) (k : Nat) : Nat := (if hw then 16 else 0) + k

/-! ### Outputs (R248) -/

/-- Whether every ESTOP pair in whose MASK an output lies is in RUN in the hard-wired evaluation. -/
def State.estopOk (s : State) (n : Nat) : Bool :=
  (List.range 16).all (fun k => !(decide (s.siFunc k = fnEstop) && s.siMask k n) || decide (s.siState true k = prRun))

/-- SOn_LS as commanded, dark tests apart (R248). -/
def State.lsWanted (s : State) (n : Nat) : Bool :=
  s.sio.recOk && s.permit n && !s.latched n && !s.locked n && (!s.soDrive n || s.estopOk n)

/-- Whether the hard-wired path holds SOn_HS low during a firmware-switch hold: the output lies in the MASK of a pair with a channel at its
inactive level (R251). -/
def State.holdLow (s : State) (n : Nat) : Bool :=
  s.fwHold.isSome && (List.range 16).any (fun k =>
    decide (s.siFunc k ≠ 0) && s.siMask k n && !(s.siActive true k 0 && s.siActive true k 1))

/-- SOn_HS as commanded, dark tests apart: the processor's command, held low by LOCK, from a Gatehouse reset until the latch is cleared, and by
the hard-wired path during a hold (R241, R251, R254). -/
def State.hsWanted (s : State) (n : Nat) : Bool :=
  s.sio.recOk && bit (s.reg sioHsCmdA) n && !s.locked n && bit s.sio.gateFree n && !s.holdLow n

/-- The gate pins of one output follow their commands; a change of a command ends a dark test without a verdict (R255). -/
def State.driveOne (s : State) (n : Nat) : State :=
  let ls := s.lsWanted n
  let hs := s.hsWanted n
  let old := s.reg sioStatA
  let changed := decide (bit old (16 + n) ≠ ls) || decide (bit old (20 + n) ≠ hs)
  let t := (s.setRegF sioStatA (16 + n) 1 (b2n ls)).setRegF sioStatA (20 + n) 1 (b2n hs)
  let t := if changed then
      { t with sio := { t.sio with changedAt := Tab.set 0 t.sio.changedAt n t.frc, dark := Tab.set none t.sio.dark n none } }
    else t
  let d := Tab.get none t.sio.dark n
  let dl := match d with | some x => x.low | none => false
  let dh := match d with | some x => !x.low | none => false
  let v := setFld (setFld (setFld (setFld (t.reg (soStatA n)) 0 1 (b2n (hs && !dh))) 1 1 (b2n (ls && !dl))) 4 1 (b2n (!ls)))
    5 1 (b2n d.isSome)
  t.setReg (soStatA n) v

/-- An output's latch is set with a cause (R252); setting a latch already set is its latest setting. -/
def State.setLatch (s : State) (n cause : Nat) : State :=
  let t := (s.setReg (soStatA n) (setFld (setBit (s.reg (soStatA n)) 2 true) 12 4 cause)).setRegF (outStatA n) 2 1 1
  { t with sio := { t.sio with latchAt := Tab.set 0 t.sio.latchAt n t.frc },
           safeSince := if s.latched n then t.safeSince else Tab.set 0 t.safeSince n t.frc }

/-- The latches that the hard-wired path sets during a firmware-switch hold (R251). -/
def State.holdReact (s : State) : State :=
  [0, 1, 2, 3].foldl (fun t n => if t.holdLow n && !t.latched n then t.setLatch n lcStop else t) s

/-- Every gate pin follows its command. -/
def State.drive (s : State) : State := [0, 1, 2, 3].foldl State.driveOne s.holdReact

/-- Latches of a set of outputs. -/
def State.setLatches (s : State) (mask cause : Nat) : State := (bitsOf 4 mask).foldl (fun t n => t.setLatch n cause) s

/-- An output's latch is cleared. -/
def State.clearLatch (s : State) (n : Nat) : State :=
  let t := (s.setRegF (soStatA n) 2 1 0).setRegF (outStatA n) 2 1 0
  { t with sio := { t.sio with gateFree := t.sio.gateFree ||| BitVec.ofNat 4 (2 ^ n) } }

/-- LOCK set with a cause (R254): both gate pins low and the latch set. While service access is granted none is set (R464). -/
def State.setLock (s : State) (n cause errBit : Nat) : State :=
  if s.svcAccess then s else
  let t := s.setReg (soStatA n) (setFld (setBit (s.reg (soStatA n)) 3 true) 8 4 cause)
  ((t.setLatch n lcLock).setErr sioPage errBit).drive

/-! ### Pairs (R245 to R247) -/

/-- A pair has left RUN in a path (R246, R249): the processor path notes it for its next sample, the hard-wired path sets
the latches of the DRIVE_ENABLE outputs of an ESTOP pair. -/
def State.leaveRun (s : State) (hw : Bool) (k : Nat) : State :=
  if hw then
    ([0, 1, 2, 3].foldl (fun t n => if s.siMask k n && s.soDrive n then t.setLatch n lcStop else t) s).drive
  else
    (s.setSio { s.sio with left := s.sio.left ||| BitVec.ofNat 16 (2 ^ k) }).count (sioPage + 0x064)

/-- A pair enters FAULT with a cause. -/
def State.pairFault (s : State) (hw : Bool) (k cause errBit : Nat) : State :=
  let was := s.siState hw k
  let t := ((s.setSiState hw k prFault).setRegF (siStatA k) 8 3 cause).setErr sioPage errBit
  if was = prRun then t.leaveRun hw k else t

/-- The discrepancy window of a pair has closed (R245). -/
def State.discDue (s : State) (hw : Bool) (k : Nat) : Bool :=
  (decide (s.siState hw k = prPendUp) || decide (s.siState hw k = prPendDown))
  && decide (Tab.get 0 s.sio.winAt (siKey hw k) + s.siDisc k ≤ s.frc)

/-- A window that has closed puts the pair into FAULT (R245). -/
def State.discExpire (s : State) (hw : Bool) (k : Nat) : State :=
  if s.discDue hw k then s.pairFault hw k 1 0 else s

/-- A window opens with the channel that changed first. -/
def State.openWin (s : State) (hw : Bool) (k c st : Nat) : State :=
  { s.setSiState hw k st with sio := { s.sio with
      winAt := Tab.set 0 s.sio.winAt (siKey hw k) s.frc, first := Tab.set 0 s.sio.first (siKey hw k) c } }

/-- A pair's transition when its channel c has taken a new value (R245). -/
def State.pairStep (s : State) (hw : Bool) (k c : Nat) : State :=
  let act := s.siActive hw k c
  let first := Tab.get 0 s.sio.first (siKey hw k)
  match s.siState hw k with
  | 1 => if act then s.openWin hw k c prPendUp else s
  | 2 =>
    if act then
      let t := s.setSiState hw k prRun
      if hw then t else t.setSio { t.sio with runAt := Tab.set 0 t.sio.runAt k t.frc }
    else if c = first then s.setSiState hw k prStopped else s
  | 3 => if act then s else (s.openWin hw k c prPendDown).leaveRun hw k
  | 4 => if !act && decide (c ≠ first) then s.setSiState hw k prStopped else s
  | 5 => if s.siActive hw k 0 || s.siActive hw k 1 then s else s.setSiState hw k prStopped
  | _ => s

/-- A two-hand group, pairs k and k + 1 with k even, is judged again (R247). -/
def State.twohand (s : State) (k : Nat) : State :=
  if s.siFunc k ≠ fnTwohand then s
  else
    let a := s.siState false k
    let b := s.siState false (k + 1)
    let en := bit (s.reg (siStatA k)) 11
    let spent := bit s.sio.spent k
    if a = prStopped ∧ b = prStopped then s.setSio { s.sio with spent := s.sio.spent &&& ~~~ BitVec.ofNat 16 (2 ^ k) }
    else if en = true ∧ (a ≠ prRun ∨ b ≠ prRun) then
      (s.setRegF (siStatA k) 11 1 0).setSio { s.sio with spent := s.sio.spent ||| BitVec.ofNat 16 (2 ^ k) }
    else if a = prRun ∧ b = prRun ∧ spent = false ∧ en = false then
      let ra := Tab.get 0 s.sio.runAt k
      let rb := Tab.get 0 s.sio.runAt (k + 1)
      if max ra rb - min ra rb ≤ 250000000 then s.setRegF (siStatA k) 11 1 1
      else s.setSio { s.sio with spent := s.sio.spent ||| BitVec.ofNat 16 (2 ^ k) }
    else s

/-- The group that a pair belongs to is judged again. -/
def State.twohandOf (s : State) (k : Nat) : State := s.twohand (k / 2 * 2)

/-- Whether a pair is evaluated in a path: ESTOP in both, the others in the processor path (R246). -/
def State.siEval (s : State) (hw : Bool) (k : Nat) : Bool := !hw || decide (s.siFunc k = fnEstop)

/-! ### Channels (R243, R244) -/

/-- The TP output that feeds a channel; pairs with SENDER use none. -/
def State.tpOf (s : State) (ch : Nat) : Option Nat :=
  if ch = 32 then some (s.regF (sioPage + 0x04C) 0 2)
  else if ch = 33 then some (s.regF (sioPage + 0x04C) 2 2)
  else if bit (s.reg (siCfgA (ch / 2))) 8 then none
  else some (s.regF (siCfgA (ch / 2)) (if ch % 2 = 0 then 4 else 6) 2)

/-- TP_WIDTH and TP_PERIOD in ticks. -/
def State.tpWidth (s : State) : Tick := 500 * s.regF (sioPage + 0x044) 0 10
def State.tpPeriod (s : State) : Tick := 500000 * s.regF (sioPage + 0x044) 16 10

/-- Whether a channel's filtered value holds: from a pulse's start until 100 µs after its end (R244). -/
def State.tpBlank (s : State) (ch : Nat) : Bool :=
  match s.tpOf ch with
  | none => false
  | some m => match Tab.get none s.sio.tpAt m with
    | none => false
    | some t0 => decide (s.frc < t0 + s.tpWidth + 50000)

/-- The filtered level of a channel changes in a path. -/
def State.flipLevel (s : State) (hw : Bool) (ch : Nat) : State :=
  let m := BitVec.ofNat 34 (2 ^ ch)
  let x := { s.sio with flipAt := Tab.set 0 s.sio.flipAt (64 * b2n hw + ch) s.frc }
  s.setSio (if hw then { x with hwLevel := x.hwLevel ^^^ m } else { x with prLevel := x.prLevel ^^^ m })

/-- A RESUME contact has changed (R257). -/
def State.contactChanged (s : State) (c : Nat) : State :=
  let closed := s.siLevel true (32 + c)
  let t := s.setRegF sioResStatA c 1 (b2n closed)
  let x := t.sio
  let x := if closed then { x with closedAt := Tab.set 0 x.closedAt c t.frc } else { x with openAt := Tab.set 0 x.openAt c t.frc }
  let bothOpen := !t.siLevel true 32 && !t.siLevel true 33
  t.setSio (if bothOpen && x.pressAt.isNone then { x with ready := true, releaseAt := none } else x)

/-- FILTER of a channel in ticks (R243, R257). -/
def State.filterOf (s : State) (ch : Nat) : Tick :=
  50000 * (if 32 ≤ ch then s.regF (sioPage + 0x04C) 16 6 else s.regF (siCfgA (ch / 2)) 26 6)

/-- Ticks for which a channel has read a new level since a tick, the window of its last test pulse apart (R244). -/
def State.readFor (s : State) (ch : Nat) (since : Tick) : Tick :=
  let blank := match (s.tpOf ch).bind (fun m => Tab.get none s.sio.tpAt m) with
    | some t0 => min s.frc (t0 + s.tpWidth + 50000) - max since t0
    | none => 0
  s.frc - since - blank

/-- Whether a level that a channel has read since a tick is taken: FILTER has passed, behind 1.0 ms for a low on a pair with SENDER, whose lows
of 1.0 ms or less are ignored (R243, R244). The level is new since the last change that the path took. -/
def State.filtered (s : State) (hw : Bool) (ch : Nat) (since : Tick) : Bool :=
  let low := decide (ch < 32) && bit (s.reg (siCfgA (ch / 2))) 8 && s.siLevel hw ch
  let n := s.readFor ch since
  decide (Tab.get 0 s.sio.flipAt (64 * b2n hw + ch) ≤ since) && decide (since ≤ s.frc)
    && (if low then decide (500000 < n) && decide (500000 + s.filterOf ch ≤ n) else decide (s.filterOf ch ≤ n))

/-- Meaning of FILTER_EXPIRY (R243, R245): a channel has read a new level since a tick, its filtered value changes in a path, and its pair
moves. While a scan instruction holds the inputs inactive (R462), no channel becomes active. -/
def filterExpiry (hw : Bool) (ch : Nat) (since : Tick) (s : State) : State :=
  let active := if 32 ≤ ch then s.siLevel hw ch else s.siActive hw (ch / 2) (ch % 2)
  if s.tpBlank ch || (s.scanOn && !active) || !s.filtered hw ch since then s
  else if 32 ≤ ch then
    let t := s.flipLevel hw ch
    if hw then t.contactChanged (ch - 32) else t
  else
    let k := ch / 2
    let s := if s.siEval hw k then s.discExpire hw k else s
    let t := s.flipLevel hw ch
    let t := if hw then t else t.setRegF (siStatA k) (6 + ch % 2) 1 (b2n (t.siActive false k (ch % 2)))
    let t := if t.siEval hw k then t.pairStep hw k (ch % 2) else t
    let t := if hw then t else t.twohandOf k
    t.drive
def execFilterExpiry (hw : Bool) (ch : Nat) (since : Tick) (s : State) : Out := onUnit (decide (ch < 34)) (filterExpiry hw ch since s)

/-- TEST_PULSE_START (R244): TPm's pulses start m quarter periods after each period start, counted from the record load. The operands are what
the channels read at the start in the hard-wired and in the processor path. -/
def testPulseStart (m : Nat) (hw pr : BitVec 34) (s : State) : State :=
  match s.cyc.recLoad with
  | none => s
  | some t0 =>
    let due := t0 + m * s.tpPeriod / 4
    if due ≤ s.frc ∧ s.tpPeriod ≠ 0 ∧ (s.frc - due) % s.tpPeriod = 0 then
      s.setSio { s.sio with tpAt := Tab.set none s.sio.tpAt m (some s.frc), tpReads := Tab.set (0, 0) s.sio.tpReads m (hw, pr) }
    else s
def execTestPulseStart (m : Nat) (hw pr : BitVec 34) (s : State) : Out := onUnit (decide (m < 4)) (testPulseStart m hw pr s)

/-- RESUME_STUCK set (R258). -/
def State.resumeStuck (s : State) : State := (s.setRegF sioResStatA 3 1 1).setErr sioPage 6

/-- TEST_PULSE_CHECK (R244, R462: not made while scan holds the inputs, nor for a pulse that started before their release): at the end of a
pulse's blank, a channel that read high at its start and not low in its second half fails. -/
def testPulseCheck (hw : Bool) (ch : Nat) (sawLow : Bool) (s : State) : State :=
  match s.tpOf ch with
  | none => s
  | some m =>
    match Tab.get none s.sio.tpAt m with
    | none => s
    | some t0 =>
      let reads := Tab.get (0, 0) s.sio.tpReads m
      if s.frc < t0 + s.tpWidth + 50000 ∨ sawLow = true ∨ bit (if hw then reads.1 else reads.2) ch = false ∨ s.scanOn = true ∨ t0 < s.scanEnd then s
      else if 32 ≤ ch then (if hw then s.resumeStuck else s)
      else
        let k := ch / 2
        if s.siFunc k = 0 ∨ s.siEval hw k = false then s
        else ((s.pairFault hw k (2 + ch % 2) 1).twohandOf k).drive
def execTestPulseCheck (hw : Bool) (ch : Nat) (sawLow : Bool) (s : State) : Out :=
  onUnit (decide (ch < 34)) (testPulseCheck hw ch sawLow s)

/-- DISCREPANCY_TIMEOUT (R245). -/
def discrepancyTimeout (hw : Bool) (k : Nat) (s : State) : State :=
  if s.siEval hw k then ((s.discExpire hw k).twohandOf k).drive else s
def execDiscrepancyTimeout (hw : Bool) (k : Nat) (s : State) : Out := onUnit (decide (k < 16)) (discrepancyTimeout hw k s)

/-! ### The processor path (R248 to R251) -/

/-- SOn_HS as the processor path evaluates it (R248). -/
def State.prHs (s : State) (n : Nat) : Bool :=
  s.permit n && !s.latched n && !s.locked n
  && (List.range 16).all (fun k =>
    !(s.siMask k n) ||
    (if s.siStop k then decide (s.siState false k = prRun)
     else if s.siFunc k = fnTwohand then bit (s.reg (siStatA (k / 2 * 2))) 11 else true))

/-- Outputs that a mask names by a test. -/
def mask4 (p : Nat → Bool) : Nat := [0, 1, 2, 3].foldl (fun a n => if p n then a + 2 ^ n else a) 0

/-- The comparison of the paths on one ESTOP pair (R250). -/
def State.pathCompare (s : State) (k : Nat) : State :=
  if s.siFunc k ≠ fnEstop then s
  else
    let differ := decide ((s.siState false k = prRun) ≠ (s.siState true k = prRun))
    let n := if differ then Tab.get 0 s.sio.disagree k + 1 else 0
    let t := s.setSio { s.sio with disagree := Tab.set 0 s.sio.disagree k (if n = 3 then 0 else n) }
    if n = 3 then (t.pairFault false k 4 5).pairFault true k 4 5 else t

/-- PROCESSOR_SAMPLE (R249, R250): in the middle of each control cycle the processor path evaluates its commands and
latches, to be applied at the second boundary after, and compares the paths. -/
def processorSample (s : State) : State :=
  if s.sio.sampled || decide (s.frc < s.cyc.last + 250 * s.cyc.us) then s
  else
    let t := (List.range 16).foldl State.pathCompare s
    let hs := mask4 t.prHs
    let latch := mask4 (fun n => (List.range 16).any (fun k =>
      bit t.sio.left k && t.siStop k && !t.siAuto k && t.siMask k n))
    (t.setSio { t.sio with sampled := true, left := 0, sched := t.sio.sched ++ [(2, hs, latch)] }).drive
def execProcessorSample (s : State) : Out := .next (processorSample s)

/-- A control cycle in ticks. -/
def State.cycTicks (s : State) : Tick := 500 * s.cyc.us

/-- HS commands written (R251): valid for 2 control cycles. -/
def State.hsCmd (s : State) (v : Nat) : State :=
  let t := s.setReg sioHsCmdA (w32 (v % 16))
  (t.setSio { t.sio with hsValid := some (t.frc + 2 * t.cycTicks) }).drive

/-- SIO_HS_CMD written by the pair. -/
def sioHsCmd (w : Writer) (v : W32) (s : State) : State := if w = .pair then s.hsCmd (fld v 0 4) else s
def execSioHsCmd (w : Writer) (v : W32) (s : State) : Out := .next (sioHsCmd w v s)

/-- The processor commands due at a boundary are applied (R249). -/
def State.applySched (s : State) : State :=
  let now := s.sio.sched.filter (fun e => decide (e.1 ≤ 1))
  let rest := (s.sio.sched.filter (fun e => decide (1 < e.1))).map (fun e => (e.1 - 1, e.2))
  now.foldl (fun t e => ((t.setLatches e.2.2 lcStop).hsCmd e.2.1)) (s.setSio { s.sio with sched := rest, sampled := false })

/-- HS_CMD_EXPIRY (R251): suspended during a firmware-switch hold, for at most 50 ms. -/
def hsCmdExpiry (s : State) : State :=
  let held := match s.fwHold with | some t0 => decide (s.frc < t0 + 25000000) | none => false
  match s.sio.hsValid with
  | none => s
  | some t0 =>
    if held || decide (s.frc < t0) then s
    else
      let t := (s.setReg sioHsCmdA 0).setSio { s.sio with hsValid := none }
      (t.setLatches 15 lcProcessor).drive
def execHsCmdExpiry (s : State) : Out := .next (hsCmdExpiry s)

/-- SIO_LATCH_SET (R252). -/
def sioLatchSet (w : Writer) (v : W32) (s : State) : State :=
  if w = .pair then (s.setLatches (fld v 0 4) lcLatchSet).drive else s
def execSioLatchSet (w : Writer) (v : W32) (s : State) : Out := .next (sioLatchSet w v s)

/-! ### Read-back and dark tests (R253 to R255) -/

/-- What a read-back node reads against its supply (R253). -/
inductive Node where
  | low | mid | high | gap
  deriving DecidableEq, Repr

def nodeOf (v vs : Nat) : Node :=
  if 100 * v ≤ 20 * vs then .low else if 30 * vs ≤ 100 * v ∧ 100 * v ≤ 70 * vs then .mid
  else if 80 * vs ≤ 100 * v then .high else .gap

/-- Last conversion of a converter channel. -/
def State.adc (s : State) (c : Nat) : Nat := s.regF (sioPage + 0x080 + 4 * c) 0 12

/-- The node of a read-back channel. -/
def State.node (s : State) (c : Nat) : Node := nodeOf (s.adc c) (s.adc (8 + c / 2))

/-- The cause that a node's deviation gives under the switches' states, 0 for none (R253). -/
def deviation (hs ls hiNode : Bool) (x : Node) : Nat :=
  if hs && ls then (if hiNode then (if x = .high then 0 else 1) else (if x = .low then 0 else 2))
  else if hs then
    (if hiNode then (if x = .high then 0 else 1)
     else match x with | .high => 0 | .low => 4 | .mid => 5 | .gap => 6)
  else if ls then
    (if hiNode then (match x with | .low => 0 | .high => 3 | .mid => 5 | .gap => 6)
     else (if x = .low then 0 else 2))
  else
    match x with
    | .mid => 0
    | .high => if hiNode then 3 else 6
    | .low => if hiNode then 6 else 4
    | .gap => 6

/-- The gate pins of an output. -/
def State.hsPin (s : State) (n : Nat) : Bool := bit (s.reg (soStatA n)) 0
def State.lsPin (s : State) (n : Nat) : Bool := bit (s.reg (soStatA n)) 1

/-- DT_SETTLE and DT_PERIOD in ticks. -/
def State.dtSettle (s : State) : Tick := 500 * s.regF (sioPage + 0x048) 16 8
def State.dtPeriod (s : State) : Tick := 500000 * s.regF (sioPage + 0x048) 0 14

/-- Deviations of a node outside a dark test: the third in a row sets LOCK (R253, R254). Suspended
under service access and until DT_SETTLE after it (R464). -/
def State.readBack (s : State) (c : Nat) : State :=
  if s.svcAccess || decide (s.frc < s.svcEnd + s.dtSettle) then s else
  let n := c / 2
  let dv := deviation (s.hsPin n) (s.lsPin n) (decide (c % 2 = 0)) (s.node c)
  if dv = 0 then s.setSio { s.sio with deviate := Tab.set 0 s.sio.deviate c 0 }
  else
    let k := Tab.get 0 s.sio.deviate c + 1
    let t := s.setSio { s.sio with deviate := Tab.set 0 s.sio.deviate c (if 3 ≤ k then 0 else k) }
    if 3 ≤ k then t.setLock n dv (if dv = 5 then 4 else 2) else t

/-- A dark test ends and its switch is turned on again; a pass is counted with its time. -/
def State.darkEnd (s : State) (n : Nat) (low pass : Bool) : State :=
  let x := { s.sio with dark := Tab.set none s.sio.dark n none, changedAt := Tab.set 0 s.sio.changedAt n s.frc }
  let x := if pass then { x with darkPass := Tab.set 0 x.darkPass (2 * n + b2n low) s.frc } else x
  let t := s.setSio x
  (if pass then t.count (sioPage + 0x068) else t).drive

/-- A sample during a dark test (R255): a sample of both nodes that matches counts toward three in a row. -/
def State.darkSample (s : State) (c : Nat) (d : DarkSt) : State :=
  let n := c / 2
  let ok := decide (deviation (s.hsPin n) (s.lsPin n) (decide (c % 2 = 0)) (s.node c) = 0)
  if s.frc < d.start + s.dtSettle then s
  else if c % 2 = 0 then s.setSio { s.sio with dark := Tab.set none s.sio.dark n (some { d with hiOk := ok }) }
  else
    let k := if ok && d.hiOk then d.count + 1 else 0
    if 3 ≤ k then s.darkEnd n d.low true
    else s.setSio { s.sio with dark := Tab.set none s.sio.dark n (some { d with count := k, hiOk := false }) }

/-- A conversion of a round that an ADC trigger asked for is copied (R322): the round begins with channel 0. -/
def State.snapCopy (s : State) (c : Nat) (v : BitVec 12) : State :=
  match s.bs.snap with
  | none => s
  | some (_, started) =>
    if !started && decide (c ≠ 0) then s
    else
      let p := ghPage 0x12
      let t := if started then s
        else (s.setReg (p + 0x1C0) (w32 (nfld s.frc 0 32))).setReg (p + 0x1C4) (w32 (nfld s.frc 32 32))
      let t := t.setReg (p + 0x200 + 4 * c) (w32 v.toNat)
      { t with bs := { t.bs with snap := if c = 15 then none else s.bs.snap.map (fun x => (x.1, true)) } }

/-- ADC_SAMPLE (R253, R255): a conversion is stored; the first of a channel carries FIRST and is not compared (KL-10). -/
def adcSample (c : Nat) (v : BitVec 12) (s : State) : State :=
  let first := !bit s.sio.adcSeen c
  let t := (s.snapCopy c v).setReg (sioPage + 0x080 + 4 * c) (w32 (v.toNat + b2n first * 32768))
  let t := t.setSio { t.sio with adcSeen := t.sio.adcSeen ||| BitVec.ofNat 16 (2 ^ c) }
  if 12 ≤ c then t
  else if 8 ≤ c then
    let n := c - 8
    let noSupply := decide (10 * v.toNat < 4096)
    let t := t.setRegF (soStatA n) 6 1 (b2n noSupply)
    match noSupply, Tab.get none t.sio.dark n with
    | true, some d => t.darkEnd n d.low false
    | _, _ => t
  else
    let n := c / 2
    let isMid := decide (t.node c = .mid)
    let since := match Tab.get none t.sio.mid c with | some x => some x | none => some t.frc
    let t := t.setSio { t.sio with mid := Tab.set none t.sio.mid c (if isMid then since else none) }
    if first || bit (t.reg (soStatA n)) 6 then t
    else match Tab.get none t.sio.dark n with
      | some d => t.darkSample c d
      | none =>
        if t.frc < Tab.get 0 t.sio.changedAt n + t.dtSettle then t else t.readBack c
def execAdcSample (c : Nat) (v : BitVec 12) (s : State) : Out := onUnit (decide (c < 16)) (adcSample c v s)

/-- DARK_TEST_START (R255): in its slot, while the output is ON with both switches on, the switch is turned off. -/
def darkTestStart (n : Nat) (low : Bool) (s : State) : State :=
  match s.cyc.recLoad with
  | none => s
  | some t0 =>
    let p := s.dtPeriod
    let slot := t0 + n * p / 8 + (if low then p / 2 else 0)
    let inSlot := decide (p ≠ 0) && decide (slot ≤ s.frc) && decide ((s.frc - slot) % p = 0)
    if inSlot && !s.svcAccess && decide (s.regF (outStatA n) 0 2 = 1) && s.hsPin n && s.lsPin n && !bit (s.reg (soStatA n)) 6 then
      (s.setSio { s.sio with dark := Tab.set none s.sio.dark n (some ⟨s.frc, low, false, 0⟩) }).drive
    else s
def execDarkTestStart (n : Nat) (low : Bool) (s : State) : Out := onUnit (decide (n < 4)) (darkTestStart n low s)

/-- The cause that the read-back shows at the end of a failed dark test (R253, R255). -/
def State.darkCause (s : State) (n : Nat) : Nat :=
  let a := deviation (s.hsPin n) (s.lsPin n) true (s.node (2 * n))
  let b := deviation (s.hsPin n) (s.lsPin n) false (s.node (2 * n + 1))
  if s.lsPin n then (if a ≠ 0 then a else if b ≠ 0 then b else 6) else (if b ≠ 0 then b else if a ≠ 0 then a else 6)

/-- DARK_TEST_TIMEOUT (R255): a test that has not passed after 300 µs fails. -/
def darkTestTimeout (n : Nat) (s : State) : State :=
  match Tab.get none s.sio.dark n with
  | none => s
  | some d =>
    if s.frc < d.start + 150000 then s
    else
      let cause := s.darkCause n
      (s.setSio { s.sio with dark := Tab.set none s.sio.dark n none }).setLock n cause (if cause = 5 then 4 else 3)
def execDarkTestTimeout (n : Nat) (s : State) : Out := onUnit (decide (n < 4)) (darkTestTimeout n s)

/-- Whether both nodes of an output have read MID for the last 10 ms (R254). -/
def State.midLong (s : State) (n : Nat) : Bool :=
  [2 * n, 2 * n + 1].all (fun c => match Tab.get none s.sio.mid c with
    | some t0 => decide (t0 + 5000000 ≤ s.frc)
    | none => false)

/-- A write of SIO_LOCK_CLR (R254). -/
def State.lockClr (s : State) (mask : Nat) : State :=
  ((bitsOf 4 mask).foldl (fun t n => if t.locked n && t.midLong n then t.setRegF (soStatA n) 3 1 0 else t) s).drive
def sioLockClr (w : Writer) (v : W32) (s : State) : State := if w = .pair then s.lockClr (fld v 0 4) else s
def execSioLockClr (w : Writer) (v : W32) (s : State) : Out := .next (sioLockClr w v s)

/-! ### RESUME (R257 to R260) -/

/-- The RESUME discrepancy time in ticks. -/
def State.resDisc (s : State) : Tick := 500000 * s.regF (sioPage + 0x04C) 8 8

/-- RESUME_PRESS_BEGIN (R257). -/
def resumePressBegin (s : State) : State :=
  let a := Tab.get 0 s.sio.closedAt 0
  let b := Tab.get 0 s.sio.closedAt 1
  if s.sio.ready && !s.scanOn && s.siLevel true 32 && s.siLevel true 33 && s.sio.pressAt.isNone
      && decide (max a b - min a b < s.resDisc) then
    (s.setSio { s.sio with pressAt := some s.frc, ready := false }).setRegF sioResStatA 2 1 1
  else s
def execResumePressBegin (s : State) : Out := .next (resumePressBegin s)

/-- RESUME_RELEASE (R257): the first contact to open ends the press. -/
def resumeRelease (second : Bool) (s : State) : State :=
  match s.sio.pressAt with
  | none => s
  | some t0 =>
    if s.siLevel true (32 + b2n second) then s
    else
      let len := s.frc - t0
      let bothOpen := !s.siLevel true 32 && !s.siLevel true 33
      let t := s.setSio { s.sio with pressAt := none, ready := bothOpen, releaseAt := if bothOpen then none else some s.frc }
      let t := (t.setRegF sioResStatA 2 1 0).setRegF sioResStatA 16 16 (satN 16 (len / 500000))
      if 50000000 ≤ len ∧ len ≤ 1000000000 then
        (if bit (t.reg sioResStatA) 3 then t else t.setSio { t.sio with events := t.sio.events ++ [(t.frc, t0)] })
      else t.count (sioPage + 0x070)
def execResumeRelease (second : Bool) (s : State) : Out := .next (resumeRelease second s)

/-- RESUME_DISCREPANCY_TIMEOUT (R257): one contact did not follow the other in closing, or after the release. -/
def resumeDiscTimeout (s : State) : State :=
  let a := s.siLevel true 32
  let b := s.siLevel true 33
  let one := decide (a ≠ b)
  let since := if a then Tab.get 0 s.sio.closedAt 0 else Tab.get 0 s.sio.closedAt 1
  match s.sio.releaseAt with
  | some t0 =>
    if one && decide (t0 + s.resDisc < s.frc) then
      (s.setSio { s.sio with releaseAt := none, ready := false }).setErr sioPage 7
    else s
  | none =>
    if one && s.sio.ready && s.sio.pressAt.isNone && decide (since + s.resDisc ≤ s.frc) then
      (s.setSio { s.sio with ready := false }).setErr sioPage 7
    else s
def execResumeDiscrepancyTimeout (s : State) : Out := .next (resumeDiscTimeout s)

/-- RESUME_STUCK_TIMEOUT (R258): a contact closed for more than 10 s. -/
def resumeStuckTimeout (second : Bool) (s : State) : State :=
  if s.siLevel true (32 + b2n second) && decide (Tab.get 0 s.sio.closedAt (b2n second) + 5000000000 < s.frc) then s.resumeStuck
  else s
def execResumeStuckTimeout (second : Bool) (s : State) : Out := .next (resumeStuckTimeout second s)

/-- A write of SIO_RESUME_CLR (R258): effective once both contacts have been open for 1 s. -/
def State.resumeClr (s : State) : State :=
  let open1 := fun c => !s.siLevel true (32 + c) && decide (Tab.get 0 s.sio.openAt c + 500000000 ≤ s.frc)
  if open1 0 && open1 1 then s.setRegF sioResStatA 3 1 0 else s
def sioResumeClr (w : Writer) (v : W32) (s : State) : State := if decide (w = .pair) && bit v 0 then s.resumeClr else s
def execSioResumeClr (w : Writer) (v : W32) (s : State) : Out := .next (sioResumeClr w v s)

/-- Whether every stop pair in whose MASK an output lies is in RUN in each path that evaluates it (R259). -/
def State.stopsRun (s : State) (n : Nat) : Bool :=
  (List.range 16).all (fun k => !(s.siStop k && s.siMask k n)
    || (decide (s.siState false k = prRun)
        && (!(decide (s.siFunc k = fnEstop) && s.soDrive n) || decide (s.siState true k = prRun))))

/-- One output under a RESUME event (R259): whether its latch is cleared, and the state with its counter. -/
def State.resumeOne (s : State) (n : Nat) (press : Tick) (believed : Bool) : Bool × State :=
  if !s.latched n || !s.soResumeEn n then (false, s)
  else
    let rest := decide (Tab.get 0 s.sio.latchAt n < press) && !s.locked n && s.stopsRun n && !bit (s.reg sioResStatA) 3
    if rest && believed then (true, s.clearLatch n)
    else if rest then (false, s.count (ghPage 0x01 + 0x0C8))
    else (false, s.count (sioPage + 0x070))

/-- RESUME events stamped before a boundary are judged for every output (R259); `believed n` says whether every bound
service is BELIEVED. -/
def State.resumeEval (s : State) (b : Tick) (believed : Nat → Bool) : State :=
  let now := s.sio.events.filter (fun e => decide (e.1 < b))
  let s := s.setSio { s.sio with events := s.sio.events.filter (fun e => !decide (e.1 < b)) }
  if s.svcAccess then s else now.foldl (fun t e =>
    let (any, t) := [0, 1, 2, 3].foldl (fun (q : Bool × State) n =>
      let (c, u) := q.2.resumeOne n e.2 (believed n)
      (q.1 || c, u)) (false, t)
    if any then t.count (sioPage + 0x06C) else t) s

/-- The automatic release of R260. -/
def State.autoRelease (s : State) (b : Tick) (believed : Nat → Bool) : State :=
  [0, 1, 2, 3].foldl (fun t n =>
    if t.latched n && !t.soResumeEn n && decide (Tab.get 0 t.sio.latchAt n < b) && !t.locked n && believed n && t.stopsRun n
        && !t.svcAccess then t.clearLatch n
    else t) s

/-- FAULT_ACK (R231, R254, R258): the pair writes FC_ACK with the classes of [15:0], and on SAFETY_IO also SIO_LOCK_CLR and
SIO_RESUME_CLR. -/
def faultAck (m : PMsg) (s : State) : State :=
  let (p, t) := s.recv 2 (decide (m.type = 0x24)) m
  match p with
  | none => t
  | some bs =>
    let v := nfld (ofBytesLE (bs.take 2)) 0 16
    let t := t.fcAck v
    if nbit v 4 then (t.lockClr 15).resumeClr else t
def execFaultAck (m : PMsg) (s : State) : Out := .next (faultAck m s)

end Sys2Proof.Machine
end

