-- ==== Sys2Proof/Machine/Checkers.lean ====
section
/-! DEFINITION. The checker inventory (R215): checkers are numbered in its order, from 0 to 4878; where each lies (R177, R219). -/

namespace Sys2Proof.Machine

/-- First number, slices per test and worst case of a slice in ticks, by row of the inventory. -/
def chkRows : List (Nat × Nat × Nat) :=
  [(0, 1, 5000), (2176, 1, 4000), (4352, 1, 20000), (4480, 2, 20000), (4488, 1, 2500), (4752, 1, 6000), (4760, 1, 2500), (4762, 32, 3000),
   (4764, 1, 1000), (4836, 1, 5000), (4844, 1, 2500), (4848, 1, 3000), (4856, 1, 20000), (4858, 1, 2500), (4863, 1, 1000), (4871, 1, 2000),
   (4872, 1, 6000), (4878, 4, 10000)]
def chkCount : Nat := 4879

/-- The row of a checker. -/
def chkRow (n : Nat) : Nat := (chkRows.filter (fun r => decide (r.1 ≤ n))).length - 1
def chkSlices (n : Nat) : Nat := (chkRows.getD (chkRow n) (0, 1, 0)).2.1
def chkWorst (n : Nat) : Nat := (chkRows.getD (chkRow n) (0, 1, 0)).2.2
/-- A checker's number within its row. -/
def chkSub (n : Nat) : Nat := n - (chkRows.getD (chkRow n) (0, 1, 0)).1

/-- The link end and group of a link checker: ends 0 and 1 have 16 groups, the others 4. -/
def chkLink (n : Nat) : Nat × Nat :=
  let k := n - 4764
  if k < 32 then (k / 16, k % 16) else (2 + (k - 32) / 4, (k - 32) % 4)

/-- The cluster of a checker on a Pavilion's lane, where it has one. -/
def chkClu (n : Nat) : Option Nat :=
  match chkRow n with
  | 0 => some (n / 17)
  | 1 => some ((n - 2176) / 17)
  | 2 => some (n - 4352)
  | 4 => let k := n - 4488; if k % 33 = 32 then none else some (k / 33 * 16 + k % 33 % 16)
  | _ => none

/-- The Pavilion of a checker on a Pavilion's lane. -/
def chkPav (n : Nat) : Nat :=
  match chkRow n with
  | 3 => n - 4480
  | 4 => (n - 4488) / 33
  | 5 => n - 4752
  | _ => ((chkClu n).getD 0) / 16

/-- Where a checker lies (R177, R219). -/
def chkLoc (n : Nat) : Loc :=
  match chkRow n with
  | 6 => .die (n - 4760)
  | 7 => .die (n - 4762)
  | 8 =>
    let e := (chkLink n).1
    if e < 4 then .die (e % 2) else if e < 6 then .ioLink (e - 4) else if e < 8 then .die (e - 6) else if e = 8 then .io else .gatehouse
  | 9 => .csi (n - 4836)
  | 10 => .mac (n - 4844)
  | 11 => if n < 4852 then .gatehouse else if n < 4854 then .io else .nowhere
  | 12 => if n = 4856 then .nowhere else .io
  | 13 => .gatehouse
  | 14 => .gatehouse
  | 15 => .gatehouse
  | 16 => .gatehouse
  | 17 => .gatehouse
  | _ => .pav (chkPav n)

/-- The test lane of a checker: Pavilions 0 to 7, dies 8 and 9, the I/O die 10, the Gatehouse 11. -/
def chkLane (n : Nat) : Nat :=
  match chkLoc n with
  | .pav p => p
  | .die d => 8 + d
  | .gatehouse => 11
  | _ => 10

/-- The unit window that a checker lies in, the core's cluster for one of a physical core. -/
def chkUid (n : Nat) : Option UnitId :=
  match chkLoc n with
  | .pav p => match chkClu n with
    | some c => some (mkUid 1 (c / 64) (c / 16 % 4) (c % 16) 0)
    | none => some (mkUid 2 (p / 4) (p % 4) 0 0)
  | .die d => some (mkUid 3 d 0 0 0)
  | _ => none

/-- Whether a checker lies in a unit: in a core, the two of its physical core. -/
def State.chkIn (s : State) (u : UnitId) (n : Nat) : Bool :=
  if uLevel u = 0 then decide (n < 4352) && decide (n % 2176 = s.physKey u)
  else match chkUid n with
    | some v => uEncl u v
    | none => false

/-- OVERDUE of the Folly page is high while any checker is overdue (R219). -/
def State.overdueFalls (s : State) : State :=
  if s.fol.chks.any (fun e => e.2.overdue) then s else s.clearErr (ghPage 0x03) 1

/-- Checkers that pass a test lose their records, and tests in progress on them are abandoned (R216). -/
def State.chkDrop (s : State) (p : Nat → Bool) : State :=
  let t := { s with fol := { s.fol with
      chks := Tab.keep s.fol.chks (fun n => !p n),
      lanes := s.fol.lanes.filter (fun e => match e.2 with | some (n, _) => !p n | none => false) } }
  t.overdueFalls
def State.chkGone (s : State) (u : UnitId) : State := s.chkDrop (s.chkIn u)

/-! ### Places (R215, R220, R468, R471) -/

/-- Whether a checker is there to be tested (R215): not that of an absent core, of a spare marked SPARE_FAILED, or of a physical core
whose logical core the spare carries. -/
def State.chkExists (s : State) (n : Nat) : Bool :=
  if 4352 ≤ n then true
  else
    let k := n % 2176
    let c := k / 17
    let clu := mkUid 1 (c / 64) (c / 16 % 4) (c % 16) 0
    let m := s.reg (spareMapAt clu)
    let core := fun i => mkUid 0 (c / 64) (c / 16 % 4) (c % 16) i
    if k % 17 = 16 then (if bit m 8 then !s.isAbsent (core (fld m 0 4)) else !bit m 16)
    else !(bit m 8 && decide (fld m 0 4 = k % 17)) && !s.isAbsent (core (k % 17))

/-- The logical core of a physical core, where it carries one. -/
def State.coreOn (s : State) (k : Nat) : Option UnitId :=
  let c := k / 17
  let m := s.reg (spareMapAt (mkUid 1 (c / 64) (c / 16 % 4) (c % 16) 0))
  if k % 17 = 16 then (if bit m 8 then some (mkUid 0 (c / 64) (c / 16 % 4) (c % 16) (fld m 0 4)) else none)
  else some (mkUid 0 (c / 64) (c / 16 % 4) (c % 16) (k % 17))

/-- A checker's unit, page and number within the block, as FOL_ST_SEL names them: unit 0xFFFE the Gatehouse, 0xFFFF the I/O die. -/
def State.chkPlace (s : State) (n : Nat) : Nat × Nat × Nat :=
  let io := 0xFFFF
  let gh := 0xFFFE
  let clu := ((chkUid n).getD 0).toNat
  let k := chkSub n
  match chkRow n with
  | 0 => match s.coreOn k with | some u => (u.toNat, 1, 0) | none => (clu, 1, 3)
  | 1 => match s.coreOn k with | some u => (u.toNat, 2, 0) | none => (clu, 1, 4)
  | 2 => (clu, 1, 0)
  | 3 => (clu, 1, 0)
  | 4 => (clu, 1, if k % 33 < 16 then 1 else if k % 33 < 32 then 2 else 1)
  | 5 => (clu, 3, 0)
  | 6 => (clu, 1, 0)
  | 7 => (clu, 2, 0)
  | 8 =>
    let (e, g) := chkLink n
    if e < 2 then (clu, 4, g) else if e < 4 then (clu, 5, g) else if e < 6 then (io, 3 + (e - 4), g)
    else if e < 8 then (clu, 6, g) else if e = 8 then (io, 5, g) else (gh, 0x18 + (e - 9), g)
  | 9 => (io, 0x51 + k, 0)
  | 10 => (io, 0x59 + k, 0)
  | 11 => if k < 4 then (gh, 0x0A + k, 0) else (io, 0x21 + (k - 4), 0)
  | 12 => if k = 0 then (io, 0x30, 0) else (io, 0x02, 0)
  | 13 => if k < 2 then (gh, 0, k) else (gh, 2, k - 2)
  | 14 => (gh, 2, 3 + k)
  | 15 => (gh, 2, 11)
  | 16 => if k < 2 then (gh, 7 + k, 0) else (io, 0x27 + (k - 2), 0)
  | _ => (gh, 4, 0)

/-- FOL_ST_SEL's word for a checker. -/
def State.chkSel (s : State) (n : Nat) : W32 :=
  let (u, p, c) := s.chkPlace n
  w32 (u + p * 65536 + c * 2 ^ 28)
/-- The page that holds a checker. -/
def State.chkPage (s : State) (n : Nat) : Nat :=
  let (u, p, _) := s.chkPlace n
  if u = 0xFFFE then ghPage p else if u = 0xFFFF then ioPage p else uPage (BitVec.ofNat 16 u) p

/-- BLK_CAP.CHECKERS of a page (R468): the inventory's checkers placed on it. -/
def pageCheckers (page : Nat) : Nat :=
  match pageKind page with
  | some .core => 1
  | some .sig => 1
  | some .clu => 5
  | some .pav => 2
  | some .wd => 1
  | some .fab => 1
  | some .mc => 1
  | some .link => if (match winUnit page with | some u => decide (uLevel u = 3) && decide (page / 0x1000 % 16 = 4) | none => false) then 15 else 4
  | some .csi => 1
  | some .eth => 1
  | some .cvu => 1
  | some .gkBoot => 1
  | some .ghRst => 2
  | some .bv => 12
  | some .fc => 1
  | _ => 0

end Sys2Proof.Machine
end

