-- ==== Sys2Proof/Machine/Cvu.lean ====
section
/-! DEFINITION. Check-value units (R284 to R290): units 0 to 3 of the Gatehouse and, as 4 to 7, units 0 to 3 of the I/O die. -/

namespace Sys2Proof.Machine

/-- The page of check-value unit u. -/
def cvuPage (u : Nat) : Nat := if u < 4 then ghPage (0x0A + u) else ioPage (0x021 + (u - 4))

def cvuCfg (u : Nat) : Nat := cvuPage u + 0x040
def cvuRunLo (u : Nat) : Nat := cvuPage u + 0x05C
def cvuRunHi (u : Nat) : Nat := cvuPage u + 0x060
def cvuStatA (u : Nat) : Nat := cvuPage u + 0x074
def cvuBytesA (u : Nat) : Nat := cvuPage u + 0x078

/-- Width, initial value and final XOR of a CRC selection (R284). -/
def cvuWidth (sel : Nat) : Nat := ([8, 16, 32, 32, 64] : List Nat).getD sel 32
def cvuInit (sel : Nat) : Nat := 2 ^ cvuWidth sel - 1
def cvuXor (sel : Nat) : Nat := if sel = 1 then 0 else 2 ^ cvuWidth sel - 1

/-- One byte through a CRC register that is not reflected (R284). -/
def crcByteF (w poly crc : Nat) (b : Byte) : Nat :=
  (List.range 8).foldl (fun c _ => if nbit c (w - 1) then ((c <<< 1) ^^^ poly) % 2 ^ w else (c <<< 1) % 2 ^ w)
    (crc ^^^ (b.toNat <<< (w - 8)))

/-- One byte through the CRC of a selection (R284). -/
def cvuByte (sel crc : Nat) (b : Byte) : Nat :=
  match sel with
  | 0 => crcByteF 8 0x2F crc b
  | 1 => crcByteF 16 0x1021 crc b
  | 2 => crcByteR 0xEDB88320 crc b
  | 4 => crcByteR 0xC96C5795D7870F42 crc b
  | _ => crcByteR polyC crc b

/-- The running value of a unit (R288). -/
def State.cvuRun (s : State) (u : Nat) : Nat := (s.reg (cvuRunLo u)).toNat + 2 ^ 32 * (s.reg (cvuRunHi u)).toNat

/-- The CRC in force (CVU_STAT [4:2]). -/
def State.cvuSel (s : State) (u : Nat) : Nat := s.regF (cvuStatA u) 2 3

/-- The running value replaced; bits above the CRC's width are 0. -/
def State.setCvuRun (s : State) (u v : Nat) : State :=
  let v := v % 2 ^ cvuWidth (s.cvuSel u)
  (s.setReg (cvuRunLo u) (w32 (nfld v 0 32))).setReg (cvuRunHi u) (w32 (nfld v 32 32))

/-- CVU_RESULT: the running value with the final XOR applied (R287). -/
def State.cvuResult (s : State) (u : Nat) : Nat := s.cvuRun u ^^^ cvuXor (s.cvuSel u)

/-- Whether a writer may write a unit (R286): the pair on the Gatehouse, the Folly on I/O die units 0 and 1, domains 0x001
and 0xF00 on the free ones. -/
def State.cvuMay (s : State) (w : Writer) (u : Nat) : Bool :=
  if u < 4 then decide (w = .pair)
  else if u < 6 then decide (w = .folly)
  else decide (w ≠ .folly) && (decide (s.writerDom w = domGk) || decide (s.writerDom w = domGh))

/-- Whether a test slice runs on a unit (CVU_STAT [17]). -/
def State.cvuTest (s : State) (u : Nat) : Bool := bit (s.reg (cvuStatA u)) 17

/-- Whether a write acts now: its writer is permitted and no test slice holds it back (R289). -/
def State.cvuTakes (s : State) (w : Writer) (u : Nat) : Bool := s.cvuMay w u && !s.cvuTest u

/-- Whether a unit is idle: its queue is empty, as it always is here, and no write has reached it for 1 µs (R289). -/
def State.cvuIdle (s : State) (u : Nat) : Bool :=
  match Tab.get none s.cvuLast u with
  | some t => decide (t + 500 ≤ s.frc)
  | none => true

/-- Data bytes processed (R287). -/
def State.cvuFeed (s : State) (u : Nat) (bs : List Byte) : State :=
  let t := s.setCvuRun u (bs.foldl (cvuByte (s.cvuSel u)) (s.cvuRun u))
  t.setReg (cvuBytesA u) (t.reg (cvuBytesA u) + w32 bs.length)

/-- CVU_START acts (R285, R287): the CRC selected is in force, its initial value loaded, and the fold word processed where FOLD_EN is
set. -/
def State.cvuStartAct (s : State) (u : Nat) (v : W32) : State :=
  if bit v 0 then
    let cfg := s.reg (cvuCfg u)
    let sel := fld cfg 0 3
    let t := s.setRegF (cvuStatA u) 2 3 sel
    let fold := bytesLE 4 (t.reg (cvuPage u + 0x044)).toNat ++ bytesLE 4 (t.reg (cvuPage u + 0x048)).toNat
    let run := if bit cfg 8 then fold.foldl (cvuByte sel) (cvuInit sel) else cvuInit sel
    (t.setCvuRun u run).setReg (cvuBytesA u) 0
  else s

/-- A write of a half of CVU_RUN acts (R288). The value before the write is kept with its time, for a CRC-64 read within 2 cycles returns it
(KL-12). -/
def State.cvuRunAct (s : State) (u : Nat) (hi : Bool) (v : W32) : State :=
  let old := s.cvuRun u
  let new := if hi then nfld old 0 32 + 2 ^ 32 * v.toNat else old / 2 ^ 32 * 2 ^ 32 + v.toNat
  let t := s.setCvuRun u new
  { t with cvuOld := Tab.set none t.cvuOld u (some (old, t.frc)) }

/-- A register write that has reached a unit: a command of R287, or the configuration, fold and expected words of R290. -/
def State.cvuAct (s : State) (u off : Nat) (v : W32) : State :=
  let s := { s with cvuLast := Tab.set none s.cvuLast u (some s.frc) }
  if off = 0x04C then s.cvuStartAct u v
  else if off = 0x050 then s.cvuFeed u (bytesLE 1 v.toNat)
  else if off = 0x054 then s.cvuFeed u (bytesLE 2 v.toNat)
  else if off = 0x058 then s.cvuFeed u (bytesLE 4 v.toNat)
  else if off = 0x05C then s.cvuRunAct u false v
  else if off = 0x060 then s.cvuRunAct u true v
  else if off = 0x040 then (if fld v 0 3 ≤ 4 then s.setReg (cvuCfg u) (v &&& 0x107#32) else s)
  else if off = 0x044 ∨ off = 0x048 ∨ off = 0x06C ∨ off = 0x070 then s.setReg (cvuPage u + off) v
  else s

/-- A write to a unit: ignored from a writer that may not, stalled while a test slice runs (R286, R289). -/
def State.cvuPut (s : State) (w : Writer) (u off : Nat) (v : W32) : State :=
  if !s.cvuMay w u then s
  else if s.cvuTest u then { s with cvuStalled := s.cvuStalled ++ [⟨u, off, v⟩] }
  else s.cvuAct u off v

/-- A test slice begins on an idle unit (R289). -/
def State.cvuSlice (s : State) (u : Nat) : State := s.setRegF (cvuStatA u) 17 1 1
/-- A slice ends: the running value is the one saved, read back behind the fence (KL-12), and the writes that stalled act in their order. -/
def State.cvuSliceEnd (s : State) (u : Nat) : State :=
  let t := s.setRegF (cvuStatA u) 17 1 0
  let t := { t with cvuOld := Tab.set none t.cvuOld u none, cvuStalled := t.cvuStalled.filter (fun x => decide (x.unit ≠ u)) }
  (s.cvuStalled.filter (fun x => decide (x.unit = u))).foldl (fun t x => t.cvuAct u x.off x.value) t

/-- Meaning of CVU_START (R285, R287). -/
def cvuStart (w : Writer) (u : Nat) (v : W32) (s : State) : State := s.cvuPut w u 0x04C v
def execCvuStart (w : Writer) (u : Nat) (v : W32) (s : State) : Out := onUnit (decide (u < 8)) (cvuStart w u v s)

/-- The n low bytes of a data write enter the unit (R287). -/
def cvuData (n : Nat) (w : Writer) (u : Nat) (v : W32) (s : State) : State :=
  s.cvuPut w u (if n = 1 then 0x050 else if n = 2 then 0x054 else 0x058) v
def execCvuData8 (w : Writer) (u : Nat) (v : W32) (s : State) : Out := onUnit (decide (u < 8)) (cvuData 1 w u v s)
def execCvuData16 (w : Writer) (u : Nat) (v : W32) (s : State) : Out := onUnit (decide (u < 8)) (cvuData 2 w u v s)
def execCvuData32 (w : Writer) (u : Nat) (v : W32) (s : State) : Out := onUnit (decide (u < 8)) (cvuData 4 w u v s)

/-- CVU_RUN written (R288): half of the running value is restored. -/
def cvuRunWrite (w : Writer) (u : Nat) (hi : Bool) (v : W32) (s : State) : State := s.cvuPut w u (if hi then 0x060 else 0x05C) v
def execCvuRunWrite (w : Writer) (u : Nat) (hi : Bool) (v : W32) (s : State) : Out :=
  onUnit (decide (u < 8)) (cvuRunWrite w u hi v s)

/-- Two cycles of a unit's clock (260 MHz, 1.0 GHz), in whole ticks of 2 ns. -/
def cvuTwoCycles (u : Nat) : Nat := if u < 4 then 3 else 1

/-- The running value as a read of CVU_RUN returns it (R288, KL-12). -/
def State.cvuRunSeen (s : State) (u : Nat) : Nat :=
  match Tab.get none s.cvuOld u with
  | some (old, t) => if s.cvuSel u = 4 ∧ s.frc ≤ t + cvuTwoCycles u then old else s.cvuRun u
  | none => s.cvuRun u

/-- CVU_EXPECT over the width in force. -/
def State.cvuExpect (s : State) (u : Nat) : Nat :=
  ((s.reg (cvuPage u + 0x06C)).toNat + 2 ^ 32 * (s.reg (cvuPage u + 0x070)).toNat) % 2 ^ cvuWidth (s.cvuSel u)

/-- CVU_STAT read (R289): MATCH compares result and expected value; an armed injection, but one of the Folly's test lane (R214), inverts the
expected value and is used up. The read is the fence of KL-12. -/
def cvuStatRead (u : Nat) (s : State) : State :=
  let (n, t) := s.injTake (cvuPage u) 0
  let e := if n ≠ 0 then s.cvuExpect u ^^^ (2 ^ cvuWidth (s.cvuSel u) - 1) else s.cvuExpect u
  let t := t.setRegF (cvuStatA u) 1 1 (b2n (decide (s.cvuResult u = e)))
  { t with cvuOld := Tab.set none t.cvuOld u none }
def execCvuStatRead (u : Nat) (s : State) : Out := onUnit (decide (u < 8)) (cvuStatRead u s)

/-! ### The receivers' log (R302) -/

/-- Whether a writer may write a receiver's page (R302). -/
def State.pmMay (s : State) (w : Writer) (r : Nat) : Bool :=
  if r < 4 then decide (w = .pair) else decide (s.writerDom w = domGk)

/-- PM_LAST_CLR (R302). -/
def pmLastClr (w : Writer) (r : Nat) (v : W32) (s : State) : State :=
  if s.pmMay w r && bit v 0 then s.setReg (pmPage r + 0x064) 0 else s
def execPmLastClr (w : Writer) (r : Nat) (v : W32) (s : State) : Out := onUnit (decide (r < 5)) (pmLastClr w r v s)

end Sys2Proof.Machine
end

