-- ==== Sys2Proof/Machine/Vector.lean ====
section
/-! DEFINITION. Classes V and M and VSETS: the vector unit (R43, R53, R54, R55, R64). A vector instruction has its effect
when it issues, or in its turn where a VACC of a busy set waits (R57), and stays in the vector queue until VECTOR_INSTRUCTION_COMPLETE. -/

namespace Sys2Proof.Machine

/-- The vector queue's number (R49). -/
def qVec : Nat := 6

/-- The vector queue has room (8 instructions, R43). -/
def CoreSt.vRoom (c : CoreSt) : Bool := decide (c.vq.length < 8)

/-- Whether an instruction in the vector queue has not been performed: what follows keeps its place behind it. -/
def CoreSt.vBehind (c : CoreSt) : Bool := c.vq.any (fun i => !i.done)

/-- The second operand's lane: vs2, or f register fs2 in every lane (R53). -/
def CoreSt.src2 (c : CoreSt) (a : VArgs) (l : Nat) : W32 := if a.funct3 = 1 then c.rf a.vs2 else c.lane a.vs2 l

/-- Lane results of an operation over the active lanes, with their flags. -/
def laneOp (m : W32) (g : Nat → FRes) : List W32 × Nat :=
  let rs := (List.range 32).map g
  (rs.map (·.1), rs.zipIdx.foldl (fun a e => if bit m e.2 then a ||| e.1.2 else a) 0)

/-- A lane-by-lane operation into vd (R53). -/
def vecLanes (a : VArgs) (g : W32 → W32 → W32 → FRes) (c : CoreSt) : CoreSt × Nat :=
  let m := c.laneMask a.mask
  let (vs, fl) := laneOp m (fun l => g (c.lane a.vs1 l) (c.src2 a l) (c.lane a.vd l))
  (c.setLanes a.vd m vs, fl)

/-- A lane comparison into a predicate register; masked lanes keep their bit (R53). -/
def vecCmp (a : VArgs) (g : FVal → FVal → Bool) (c : CoreSt) : CoreSt × Nat :=
  let m := c.laneMask a.mask
  let n := fld a.vd 0 2
  let v := (List.range 32).foldl
    (fun (w : W32) l => if bit m l then setBit w l (g (fdec (c.lane a.vs1 l)) (fdec (c.src2 a l))) else w) (c.pred n)
  (c.setPred n v, 0)

/-- A reduction over the lane tree into fd; masked lanes are the identity (R32, R53). -/
def vecReduce (a : VArgs) (f : W32 → W32 → FRes) (ident : W32) (c : CoreSt) : CoreSt × Nat :=
  let m := c.laneMask a.mask
  let r := treeReduce f 5 ((List.range 32).map (fun l => if bit m l then c.lane a.vs1 l else ident))
  (c.wf a.vd r.1, r.2)

/-- VSEL: lanes of vs1 where p0 is set, else of the second operand, as raw words (R53, R64). -/
def vecSel (a : VArgs) (c : CoreSt) : CoreSt × Nat :=
  (c.setLanes a.vd (c.laneMask a.mask)
    ((List.range 32).map (fun l => if bit (c.pred 0) l then c.lane a.vs1 l else c.src2 a l)), 0)
/-- VBCAST: f register fs1 in every lane (R53). -/
def vecBcast (a : VArgs) (c : CoreSt) : CoreSt × Nat :=
  (c.setLanes a.vd (c.laneMask a.mask) (List.replicate 32 (c.rf a.vs1)), 0)

/-- The effect of a class V operation on the core, with its flags (R53). -/
def vEff (a : VArgs) (op : Nat) : CoreSt → CoreSt × Nat :=
  match op with
  | 0x00 => vecLanes a (fun x y _ => fAdd x y)
  | 0x01 => vecLanes a (fun x y _ => fSub x y)
  | 0x02 => vecLanes a (fun x y _ => fMul x y)
  | 0x03 => vecLanes a fFma
  | 0x04 => vecLanes a (fun x y _ => fMin x y)
  | 0x05 => vecLanes a (fun x y _ => fMax x y)
  | 0x06 => vecCmp a FVal.lt
  | 0x07 => vecCmp a FVal.eq
  | 0x08 => vecSel a
  | 0x10 => vecLanes a (fun x _ _ => fExp x)
  | 0x11 => vecLanes a (fun x _ _ => fLog x)
  | 0x12 => vecLanes a (fun x _ _ => fRcp x)
  | 0x13 => vecLanes a (fun x _ _ => fRsqrt x)
  | 0x18 => vecReduce a fAdd 0
  | 0x19 => vecReduce a fMax 0xFF800000#32
  | 0x1C => vecBcast a
  | _ => fun c => (c, 0)

/-! ### Class M (R54) -/

/-- What an instruction of the vector queue comes to: done, or an exception. -/
inductive MRes where
  | done (s : State)
  | exc (s : State) (cause : Nat) (tval : W32)

/-- Bytes of 32 elements of a format. -/
def rowBytes (fmt : Nat) : Nat := 4 * elemBits fmt

/-- The alignment that VLD and VST require (R54). -/
def mAlign (fmt : Nat) : Nat := match elemBits fmt with | 4 => 16 | 6 => 8 | b => 4 * b

/-- A lane that VLD writes from element bits (R54). -/
def loadLane (fmt : Nat) (scaleByte : Nat) (vscale : W32) (n : Nat) : FRes :=
  if fmt = 7 then (w32 n, 0)
  else if isInt fmt then intScaled fmt n vscale
  else if isMx fmt then widen (mxVal fmt scaleByte n)
  else widen (elemVal fmt n)

/-- VLD (R54): 32 elements from the scratchpad, widened to FP32. -/
def vld (a : MArgs) (s : State) : MRes :=
  let c := s.core a.core
  let fmt := a.fmt.toNat
  let ad := (c.rx a.rs1).toNat
  let sc := (c.rx a.rs2).toNat
  if ad % mAlign fmt ≠ 0 then .exc s exLoadMis (c.rx a.rs1)
  else if spSize < ad + rowBytes fmt then .exc s exLoad (c.rx a.rs1)
  else if isMx fmt && decide (spSize ≤ sc) then .exc s exLoad (c.rx a.rs2)
  else
    let (bs, t) := s.spRead a.core ad (rowBytes fmt)
    let (sb, t) := if isMx fmt then t.spRead a.core sc 1 else (some [0], t)
    match bs, sb with
    | some bs, some sb =>
      let scale := ofBytesLE sb
      let rs := (unpackElems (elemBits fmt) 32 bs).map (loadLane fmt scale c.vscale)
      let fl := rs.foldl (fun x r => x ||| r.2) (flIf (isMx fmt && decide (scale = 0xFF)) flMXNAN)
      let t := t.setCore a.core ((t.core a.core).setLanes a.vd 0xFFFFFFFF#32 (rs.map (·.1)))
      .done (t.arith a.core fl)
    | _, _ => .exc t exLoad (c.rx a.rs1)

/-- VST (R54): the lanes of vd converted (R28, R29) and stored, with the scale byte of a block. -/
def vst (a : MArgs) (s : State) : MRes :=
  let c := s.core a.core
  let fmt := a.fmt.toNat
  let ad := (c.rx a.rs1).toNat
  let sc := (c.rx a.rs2).toNat
  if ad % mAlign fmt ≠ 0 then .exc s exStoreMis (c.rx a.rs1)
  else if spSize < ad + rowBytes fmt then .exc s exStore (c.rx a.rs1)
  else if isMx fmt && decide (spSize ≤ sc) then .exc s exStore (c.rx a.rs2)
  else if isMx fmt then
    let (scale, ns, fl, g) := mxBlock fmt a.rnd.toNat a.sat c.gen (c.lanes a.vd)
    let t := s.setCore a.core { c with gen := g }
    let t := t.spWrite a.core ad (packElems (elemBits fmt) ns)
    .done ((t.spWrite a.core sc (bytesLE 1 scale)).arith a.core fl)
  else
    let (ns, fl, g) := convList fmt a.rnd.toNat a.sat c.vscale c.gen (c.lanes a.vd)
    let t := s.setCore a.core { c with gen := g }
    .done ((t.spWrite a.core ad (packElems (elemBits fmt) ns)).arith a.core fl)

/-- Lane addresses of a gather or scatter: base plus the signed index times the element size (R54, R64). -/
def laneAddrs (c : CoreSt) (base : W32) (idx : RegNo) (size : Nat) : List Int :=
  (c.lanes idx).map (fun i => (base.toNat : Int) + i.toInt * size)

/-- Whether an element at an address lies in the scratchpad. -/
def inSp (size : Nat) (x : Int) : Bool := decide (0 ≤ x) && decide (x + size ≤ spSize)

/-- Elements read one by one; none where one delivers poison. -/
def State.gatherElems (s : State) (u : UnitId) (size : Nat) : List Int → Option (List Nat) × State
  | [] => (some [], s)
  | x :: r =>
    let (bs, t) := s.spRead u x.toNat size
    match bs with
    | none => (none, t)
    | some bs =>
      let (ns, t') := State.gatherElems t u size r
      (ns.map (ofBytesLE bs :: ·), t')

/-- VLDG (R54): one element per lane. -/
def vldg (a : MArgs) (s : State) : MRes :=
  let c := s.core a.core
  let fmt := a.fmt.toNat
  let size := elemBits fmt / 8
  let ads := laneAddrs c (c.rx a.rs1) a.rs2 size
  if !ads.all (inSp size) then .exc s exLoad (c.rx a.rs1)
  else
    let (ns, t) := s.gatherElems a.core size ads
    match ns with
    | none => .exc t exLoad (c.rx a.rs1)
    | some ns => .done (t.setCore a.core ((t.core a.core).setLanes a.vd 0xFFFFFFFF#32 (ns.map (backToF32 fmt))))

/-- The additions of VSTA in lane order (R54). -/
def State.scatterAdd (s : State) (u : UnitId) : List (Int × W32) → Option (State × Nat)
  | [] => some (s, 0)
  | (x, v) :: r =>
    match s.spRead u x.toNat 4 with
    | (none, _) => none
    | (some bs, t) =>
      let (w, fl) := fAdd (w32 (ofBytesLE bs)) v
      (State.scatterAdd (t.spWrite u x.toNat (bytesLE 4 w.toNat)) u r).map (fun q => (q.1, q.2 ||| fl))

/-- VSTA (R54): scatter-add in lane order. A word that delivers poison ends it before any lane is added. -/
def vsta (a : MArgs) (s : State) : MRes :=
  let c := s.core a.core
  let ads := laneAddrs c (c.rx a.rs1) a.rs2 4
  if !ads.all (inSp 4) then .exc s exStore (c.rx a.rs1)
  else
    let (ns, t) := s.gatherElems a.core 4 ads
    match ns, t.scatterAdd a.core (ads.zip (c.lanes a.vd)) with
    | some _, some (t', fl) => .done (t'.arith a.core fl)
    | _, _ => .exc t exLoad (c.rx a.rs1)

/-- The accumulator set that a tensor descriptor names (R58). -/
def descAcc (ws : List W32) : Nat := fld (ws.headD 0) 13 2

/-- Whether a tensor operation in progress, or in the queue ahead of issue n, targets a set (R57). -/
def CoreSt.accBusy (c : CoreSt) (n set : Nat) : Bool :=
  let q := c.queue 1
  let on := fun (d : Option DescRun) => d.any (fun d => decide (descAcc d.words = set))
  on q.running || on q.out || q.waiting.any (fun e => decide (e.id < n) && decide (descAcc e.words = set))

/-- VACC (R54): two accumulator rows into the lanes; INT32 values are converted with RNE. -/
def vacc (a : MArgs) (s : State) : MRes :=
  let c := s.core a.core
  let set := fld (c.rx a.rs1) 0 2
  let m := fld (c.rx a.rs1) 2 3
  let isI := Tab.get false c.accInt set
  let rd := fun l => Tab.get 0 c.acc (256 * set + 32 * m + l)
  let cv := fun (w : W32) => if isI then (toF32 (FVal.ofInt w.toInt) false).1 else w
  .done (s.setCore a.core (c.setLanes a.vd 0xFFFFFFFF#32 ((List.range 32).map (fun l => cv (rd l)))))

/-- VCVT (R54): lanes rounded to a format and widened back. -/
def vcvt (a : MArgs) (s : State) : MRes :=
  let c := s.core a.core
  let fmt := a.fmt.toNat
  if isMx fmt then
    let (scale, ns, fl, g) := mxBlock fmt a.rnd.toNat a.sat c.gen (c.lanes a.rs2)
    let c := { c with gen := g }
    .done ((s.setCore a.core (c.setLanes a.vd 0xFFFFFFFF#32 (ns.map (fun n => (widen (mxVal fmt scale n)).1)))).arith a.core fl)
  else
    let (ns, fl, g) := convList fmt a.rnd.toNat a.sat 0x3F800000#32 c.gen (c.lanes a.rs2)
    let c := { c with gen := g }
    .done ((s.setCore a.core (c.setLanes a.vd 0xFFFFFFFF#32 (ns.map (backToF32 fmt)))).arith a.core fl)

/-- The effect of a class M operation (R54). -/
def mEff (a : MArgs) (f3 : Nat) : State → MRes :=
  match f3 with
  | 0 => vld a
  | 1 => vst a
  | 2 => vldg a
  | 3 => vsta a
  | 4 => vacc a
  | _ => vcvt a

/-! ### The vector queue (R43, R49, R57) -/

/-- An instruction of the vector queue performed on a core (R53 to R55). -/
def State.vPerform (s : State) (u : UnitId) : VOp → MRes
  | .v a op => let r := vEff a op (s.core u); .done ((s.setCore u r.1).arith u r.2)
  | .m a f3 => mEff a f3 s
  | .sets fs1 => .done (s.setCore u { s.core u with vscale := (s.core u).rf fs1 })

/-- The accumulator set that a VACC reads, given its first operand (R54, R57). -/
def VOp.accOf (op : VOp) (x1 : W32) : Option Nat :=
  match op with
  | .m _ f3 => if f3 = 4 then some (fld x1 0 2) else none
  | _ => none

/-- The register numbers of rs1 and rs2. -/
def VOp.regs : VOp → RegNo × RegNo
  | .v a _ => (a.vs1, a.vs2)
  | .m a _ => (a.rs1, a.rs2)
  | .sets r => (r, 0)

/-- The queue entry of an instruction: its scalar operands are read at its issue. -/
def CoreSt.vItem (c : CoreSt) (op : VOp) (done : Bool) : VItem :=
  ⟨op, c.rx op.regs.1, c.rx op.regs.2, c.rf op.regs.1, c.rf op.regs.2, c.issued, c.epoch, done⟩

/-- An entry put into the vector queue, and the sequencer goes on. -/
def CoreSt.vPush (c : CoreSt) (i : VItem) : CoreSt := ({ c with vq := c.vq ++ [i] }.issue).advance

/-- Whether an entry is a VACC that must wait for a tensor operation ahead of it (R57). -/
def CoreSt.vWaits (c : CoreSt) (i : VItem) : Bool :=
  match i.op.accOf i.x1 with
  | some set => c.accBusy i.id set
  | none => false

/-- An instruction that issues into the vector queue: it has its effect at once, unless it is a VACC that waits (R57) or another that
waits is ahead of it; then it has it in its turn, before it completes. -/
def State.vEnter (s : State) (u : UnitId) (op : VOp) : State :=
  let c := s.core u
  if !c.vRoom then s
  else if c.vBehind || c.vWaits (c.vItem op false) then s.setCore u (c.vPush (c.vItem op false))
  else match s.vPerform u op with
    | .done t => t.setCore u ((t.core u).vPush (c.vItem op true))
    | .exc t cause tval => t.trap u cause tval

/-- The result f register of a reduction (R53). -/
def VOp.fd : VOp → Option RegNo
  | .v a op => if op = 0x18 ∨ op = 0x19 then some a.vd else none
  | _ => none

/-- An entry that has waited is performed, with the scalar operands and the generator of its issue. -/
def State.vTurn (s : State) (u : UnitId) (i : VItem) : MRes :=
  let c := s.core u
  let c1 := ((c.wx i.op.regs.1 i.x1).wx i.op.regs.2 i.x2).wf i.op.regs.1 i.f1
  let c1 := { c1.wf i.op.regs.2 i.f2 with gen := c.genOf i.epoch }
  let back := fun (t : State) =>
    let d := t.core u
    let f := match i.op.fd with | some r => Tab.set 0 c.f r.toNat (d.rf r) | none => c.f
    t.setCore u ({ d with x := c.x, f := f, gen := c.gen }.setGen i.epoch d.gen)
  match (s.setCore u c1).vPerform u i.op with
  | .done t => .done (back t)
  | .exc t cause tval => .exc (back t) cause tval

/-- A class V instruction issues: an illegal funct3 traps, a full queue stalls (R53, R56). -/
def State.vIssue (s : State) (a : VArgs) (op : Nat) : State :=
  if !s.executing a.core then s
  else if decide (2 ≤ a.funct3.toNat) then s.illegal a.core (vWord a op)
  else s.vEnter a.core (.v a op)

/-- A class M instruction issues: RND = 3, a reserved format and a format its operation excludes are illegal (R54, R56). -/
def State.mIssue (s : State) (a : MArgs) (f3 : Nat) (fmtOk : Nat → Bool) : State :=
  if !s.executing a.core then s
  else if decide (a.rnd = 3) || fmtReserved a.fmt.toNat || !fmtOk a.fmt.toNat then s.illegal a.core (mWord a f3)
  else s.vEnter a.core (.m a f3)

def execVadd (a : VArgs) (s : State) : Out := onUnit (coreOk a.core) (s.vIssue a 0x00)
def execVsub (a : VArgs) (s : State) : Out := onUnit (coreOk a.core) (s.vIssue a 0x01)
def execVmul (a : VArgs) (s : State) : Out := onUnit (coreOk a.core) (s.vIssue a 0x02)
def execVfma (a : VArgs) (s : State) : Out := onUnit (coreOk a.core) (s.vIssue a 0x03)
def execVmin (a : VArgs) (s : State) : Out := onUnit (coreOk a.core) (s.vIssue a 0x04)
def execVmax (a : VArgs) (s : State) : Out := onUnit (coreOk a.core) (s.vIssue a 0x05)
def execVclt (a : VArgs) (s : State) : Out := onUnit (coreOk a.core) (s.vIssue a 0x06)
def execVceq (a : VArgs) (s : State) : Out := onUnit (coreOk a.core) (s.vIssue a 0x07)
def execVsel (a : VArgs) (s : State) : Out := onUnit (coreOk a.core) (s.vIssue a 0x08)
def execVexp (a : VArgs) (s : State) : Out := onUnit (coreOk a.core) (s.vIssue a 0x10)
def execVlog (a : VArgs) (s : State) : Out := onUnit (coreOk a.core) (s.vIssue a 0x11)
def execVrcp (a : VArgs) (s : State) : Out := onUnit (coreOk a.core) (s.vIssue a 0x12)
def execVrsqrt (a : VArgs) (s : State) : Out := onUnit (coreOk a.core) (s.vIssue a 0x13)
def execVrsum (a : VArgs) (s : State) : Out := onUnit (coreOk a.core) (s.vIssue a 0x18)
def execVrmax (a : VArgs) (s : State) : Out := onUnit (coreOk a.core) (s.vIssue a 0x19)
def execVbcast (a : VArgs) (s : State) : Out := onUnit (coreOk a.core) (s.vIssue a 0x1C)
def execVld (a : MArgs) (s : State) : Out := onUnit (coreOk a.core) (s.mIssue a 0 (fun _ => true))
def execVst (a : MArgs) (s : State) : Out := onUnit (coreOk a.core) (s.mIssue a 1 (fun _ => true))
def execVldg (a : MArgs) (s : State) : Out := onUnit (coreOk a.core) (s.mIssue a 2 (fun f => decide (1 ≤ f) && decide (f ≤ 6)))
def execVsta (a : MArgs) (s : State) : Out := onUnit (coreOk a.core) (s.mIssue a 3 (fun f => decide (f = 6)))
def execVacc (a : MArgs) (s : State) : Out := onUnit (coreOk a.core) (s.mIssue a 4 (fun _ => true))
def execVcvt (a : MArgs) (s : State) : Out := onUnit (coreOk a.core) (s.mIssue a 5 (fun _ => true))

/-- VSETS (R55): VSCALE takes f register fs1, ordered with vector instructions. -/
def vsets (u : UnitId) (fs1 : RegNo) (s : State) : State := if !s.executing u then s else s.vEnter u (.sets fs1)
def execVsets (u : UnitId) (fs1 : RegNo) (s : State) : Out := onUnit (coreOk u) (vsets u fs1 s)

/-- The oldest entry leaves the vector queue. -/
def CoreSt.vPop (c : CoreSt) : CoreSt := { c with vq := c.vq.drop 1 }

/-- VECTOR_INSTRUCTION_COMPLETE (R49, R57): the oldest vector instruction completes and the counter advances. One that has waited is
performed first; where it raises an exception, the sequencer traps then and the counter stays (DESIGN CHOICE: R54 and R62 do not say
where the sequencer stands when a queued instruction raises one). -/
def vecComplete (u : UnitId) (s : State) : State :=
  let leave := fun (t : State) =>
    let c := (t.core u).vPop
    t.setCore u (c.setQueue qVec { c.queue qVec with counter := (c.queue qVec).counter + 1 })
  match (s.core u).vq with
  | [] => s
  | i :: _ =>
    if i.done then leave s
    else if (s.core u).vWaits i then s
    else match s.vTurn u i with
      | .done t => leave t
      | .exc t cause tval => (t.setCore u (t.core u).vPop).trap u cause tval
def execVectorInstructionComplete (u : UnitId) (s : State) : Out := onUnit (coreOk u) (vecComplete u s)

end Sys2Proof.Machine
end

