-- ==== Sys2Proof/Machine/Queue.lean ====
section
/-! DEFINITION. Classes Q and S of the core (R49 to R52, R55) but for CHECKIN: submission, waiting, status and reset of
queues, fences and the preemption check. A wait that is not over leaves the part as it is. -/

namespace Sys2Proof.Machine

/-- Descriptors in a queue: those that wait and those in progress. -/
def QueueSt.occ (q : QueueSt) : Nat := q.waiting.length + b2n q.running.isSome + b2n q.out.isSome

/-- A counter has reached a target (R49). -/
def reached (counter target : BitVec 16) : Bool := decide ((counter - target).toNat < 2 ^ 15)

/-- A queue number of R49. -/
def queueOk (n : Nat) : Bool := decide (1 ≤ n) && decide (n ≤ 6)

/-- A queue halts: the descriptor in progress is dropped, the cause and its address are kept (R51). -/
def CoreSt.halt (c : CoreSt) (n cause addr : Nat) : CoreSt :=
  c.setQueue n { c.queue n with running := none, halted := true, cause := BitVec.ofNat 3 cause, failed := addr }

/-- The error bit of a halt: TQ_DESC on the core page; DESC, FIREWALL, POISON or DEP_HALT on the DMA page (R81). -/
def State.haltErr (s : State) (u : UnitId) (n cause : Nat) : State :=
  if n = 1 then s.setErrIf (decide (cause = 1)) (uPage u 1) 4
  else match cause with
    | 1 => s.setErr (uPage u 3) 0
    | 3 => s.setErr (uPage u 3) 1
    | 2 => s.setErr (uPage u 3) 2
    | 4 => s.setErr (uPage u 3) 2
    | 5 => s.setErr (uPage u 3) 3
    | _ => s

/-- A descriptor of queue n fails (R51). -/
def State.qFail (s : State) (u : UnitId) (n cause addr : Nat) : State :=
  (s.setCore u ((s.core u).halt n cause addr)).haltErr u n cause

/-- A descriptor submitted from the scratchpad to queue n, with its ticket in rd (R50). A queue is full with 8 descriptors that wait, beside
those in progress (DESIGN CHOICE: R43 and R50 do not say whether the one in progress takes a place); an uncorrectable word of the
descriptor traps as a scalar load of it would (DESIGN CHOICE: R62 names no consumer for it). -/
def submit (u : UnitId) (n : Nat) (rd rs1 : RegNo) (s : State) : State :=
  let c := s.core u
  let q := c.queue n
  let ad := (c.rx rs1).toNat
  if !s.executing u then s
  else if ad % 64 ≠ 0 then s.trap u exLoadMis (c.rx rs1)
  else if spSize < ad + 64 then s.trap u exLoad (c.rx rs1)
  else if decide (8 ≤ q.waiting.length) then s
  else
    let (ws, t) := s.spReadWs u ad 16
    match ws with
    | none => t.trap u exLoad (c.rx rs1)
    | some ws =>
      let c := t.core u
      let ticket := q.counter + BitVec.ofNat 16 (q.occ + 1)
      t.setCore u (((c.setQueue n { q with waiting := q.waiting ++ [⟨ad, ws, c.issued, c.epoch⟩] }).issue.wx rd (w32 ticket.toNat)).advance)

def execTsub (u : UnitId) (rd rs1 : RegNo) (s : State) : Out := onUnit (coreOk u) (submit u 1 rd rs1 s)

/-- DSUB (R50): the channel is x[rs2][1:0]. -/
def dsub (u : UnitId) (rd rs1 rs2 : RegNo) (s : State) : State := submit u (2 + fld ((s.core u).rx rs2) 0 2) rd rs1 s
def execDsub (u : UnitId) (rd rs1 rs2 : RegNo) (s : State) : Out := onUnit (coreOk u) (dsub u rd rs1 rs2 s)

/-- QWAIT (R50, R51): 1 at once on a halted queue, 0 once the target is reached. The value for a number that names no
queue is open. -/
def qwait (u : UnitId) (rd rs1 rs2 : RegNo) (s : State) : State :=
  let c := s.core u
  let n := (c.rx rs1).toNat
  if !s.executing u then s
  else if !queueOk n then
    let (v, t) := s.draw
    t.setCore u ((c.wx rd v).advance)
  else if (c.queue n).halted then s.setCore u ((c.wx rd 1).advance)
  else if reached (c.queue n).counter (BitVec.ofNat 16 (fld (c.rx rs2) 0 16)) then s.setCore u ((c.wx rd 0).advance)
  else s
def execQwait (u : UnitId) (rd rs1 rs2 : RegNo) (s : State) : Out := onUnit (coreOk u) (qwait u rd rs1 rs2 s)

/-- A queue's status word (R50), of the vector queue with its own entries. -/
def QueueSt.stat (q : QueueSt) : W32 :=
  w32 (satN 8 q.occ + b2n q.halted * 256 + q.cause.toNat * 512 + q.counter.toNat * 65536)

/-- QSTAT (R50). The value for a number that names no queue is open. -/
def qstat (u : UnitId) (rd rs1 : RegNo) (s : State) : State :=
  let c := s.core u
  let n := (c.rx rs1).toNat
  if !s.executing u then s
  else if !queueOk n then
    let (v, t) := s.draw
    t.setCore u ((c.wx rd v).advance)
  else s.setCore u ((c.wx rd (if n = qVec then (c.queue n).stat + w32 c.vq.length else (c.queue n).stat)).advance)
def execQstat (u : UnitId) (rd rs1 : RegNo) (s : State) : Out := onUnit (coreOk u) (qstat u rd rs1 s)

/-- Run-ahead data of a channel that is never demanded is discarded; poison counts in DMA_CNT_SPECDROP (R71). -/
def State.raDrop (s : State) (u : UnitId) (p : RaData → Bool) : State :=
  let c := s.core u
  let bad := (c.ra.filter (fun r => p r && r.data.any Option.isNone)).length
  let t := s.setCore u { c with ra := c.ra.filter (fun r => !p r) }
  if bad = 0 then t else t.countN (uPage u 3 + 0x06C) bad
def State.raDiscard (s : State) (u : UnitId) (ch : Nat) : State := s.raDrop u (fun r => decide (r.chan = ch))

/-- QRST (R50, R51): HALTED and the cause clear and the waiting descriptors are discarded, once nothing is in progress. The vector queue,
whose entries are instructions, waits until it is empty, and a number that names no queue does nothing (DESIGN CHOICE: R50 and R51
speak of descriptors and of queues). -/
def qrst (u : UnitId) (rs1 : RegNo) (s : State) : State :=
  let c := s.core u
  let n := (c.rx rs1).toNat
  if !s.executing u then s
  else if !queueOk n then s.setCore u c.advance
  else
    let q := c.queue n
    if (!q.halted && (q.running.isSome || (decide (n = qVec) && !c.vq.isEmpty))) || q.out.isSome then s
    else
      let t := s.setCore u ((c.setQueue n { q with waiting := [], halted := false, cause := 0 }).advance)
      if 2 ≤ n ∧ n ≤ 5 then t.raDiscard u (n - 2) else t
def execQrst (u : UnitId) (rs1 : RegNo) (s : State) : Out := onUnit (coreOk u) (qrst u rs1 s)

/-- DFENCE (R55): over once no DMA descriptor that has issued writes is in progress; one that stalls for a signature context has issued
none (R75). -/
def dfence (u : UnitId) (s : State) : State :=
  let c := s.core u
  if !s.executing u || [2, 3, 4, 5].any (fun n => (c.queue n).running.any (fun d => !d.stalled)) then s else s.setCore u c.advance
def execDfence (u : UnitId) (s : State) : Out := onUnit (coreOk u) (dfence u s)

/-- SIGFLUSH (R55, R76): over once no signature message waits. -/
def sigflush (u : UnitId) (s : State) : State :=
  let c := s.core u
  if !s.executing u || !c.sigQ.isEmpty then s else s.setCore u c.advance
def execSigflush (u : UnitId) (s : State) : Out := onUnit (coreOk u) (sigflush u s)

/-- PCHK (R55): CORE_PREEMPT.REQ into rd. -/
def pchk (u : UnitId) (rd : RegNo) (s : State) : State :=
  if !s.executing u then s
  else s.setCore u (((s.core u).wx rd (w32 (fld (s.reg (uPage u 1 + 0x07C)) 0 1))).advance)
def execPchk (u : UnitId) (rd : RegNo) (s : State) : Out := onUnit (coreOk u) (pchk u rd s)

/-- What the dependency of the first waiting descriptor says (R52): it may start, must wait, or fails with cause 5. -/
inductive Dep where
  | ready | wait | failed
  deriving DecidableEq, Repr

/-- The dependency of a descriptor (R52). -/
def CoreSt.dep (c : CoreSt) (dq count : Nat) : Dep :=
  if dq = 0 ∨ dq = 7 then .ready
  else if reached (c.queue dq).counter (BitVec.ofNat 16 count) then .ready
  else if (c.queue dq).halted then .failed
  else .wait

end Sys2Proof.Machine
end

