-- ==== Sys2Proof/Machine/Tensor.lean ====
section
/-! DEFINITION. The tensor array: operation descriptors, accumulation and write-out (R30, R31, R39, R40, R57 to R60). -/

namespace Sys2Proof.Machine

/-- Word i of a descriptor. -/
def dw (ws : List W32) (i : Nat) : W32 := ws.getD i 0
/-- A field of a descriptor word. -/
def df (ws : List W32) (i lo n : Nat) : Nat := fld (dw ws i) lo n

/-- The pairs of operand formats that R30 permits. -/
def pairOk (a b : Nat) : Bool :=
  decide (a = b) || (decide (2 ≤ a) && decide (a ≤ 3) && decide (2 ≤ b) && decide (b ≤ 3))
  || (decide (8 ≤ a) && decide (a ≤ 0xC) && decide (8 ≤ b) && decide (b ≤ 0xC))

/-- Formats with 2:4 sparsity (R39). -/
def sparseOk (f : Nat) : Bool := [0, 1, 2, 3, 8, 9, 0xA, 0xB, 0xC, 0xD].contains f

/-- Whether a tensor operation descriptor is valid (R58, R59). -/
def tensorOk (ws : List W32) : Bool :=
  let fa := df ws 0 4 4
  let fb := df ws 0 8 4
  let fo := df ws 0 17 4
  let k := df ws 1 0 16
  let al := fun n => decide (n % 64 = 0)
  decide (df ws 0 0 4 = 0) && decide (df ws 0 24 3 ≠ 7)
  && decide (k ≠ 0) && decide (k % 32 = 0) && decide (k ≤ 8192)
  && al (df ws 2 0 18) && al (df ws 3 0 18) && al (df ws 8 0 18)
  && al (df ws 4 0 16) && al (df ws 4 16 16) && al (df ws 9 0 16)
  && (!isMx fa || al (df ws 5 0 18)) && (!isMx fb || al (df ws 6 0 18))
  && (!bit (dw ws 0) 12 || (al (df ws 7 0 18) && sparseOk fb))
  && !fmtReserved fa && !fmtReserved fb && !fmtReserved fo
  && decide (fa ≠ 6) && decide (fa ≠ 7) && decide (fb ≠ 6) && decide (fb ≠ 7) && pairOk fa fb
  && !isMx fo && (decide (fo ≠ 7) || isInt fa) && decide (df ws 0 21 2 ≠ 3)

/-- n scratchpad bytes from an offset that wraps at a size. -/
def State.spRing (s : State) (u : UnitId) (size off n : Nat) : Option (List Byte) × State :=
  let o := off % size
  if o + n ≤ size then s.spRead u o n
  else
    let (a, t) := s.spRead u o (size - o)
    let (b, t) := t.spRead u 0 (o + n - size)
    (match a, b with
     | some a, some b => some (a ++ b)
     | _, _ => none, t)

/-- n scratchpad bytes from an offset that wraps at 256 KiB. -/
def State.spRow (s : State) (u : UnitId) (off n : Nat) : Option (List Byte) × State := s.spRing u spSize off n

/-- Rows r to 15 of an operand, row by row at a stride. -/
def State.spRows (s : State) (u : UnitId) (base stride n : Nat) : Nat → Option (List (List Byte)) × State
  | 0 => (some [], s)
  | k + 1 =>
    let (b, t) := s.spRow u (base + (15 - k) * stride) n
    match b with
    | none => (none, t)
    | some b =>
      let (bs, t') := State.spRows t u base stride n k
      (bs.map (b :: ·), t')

/-- The row stride of scale and metadata rows in the scratchpad: the least multiple of 64 bytes that holds a row (R27, R39 ask for a
multiple of 64; the descriptor of R58 names none: DESIGN CHOICE). -/
def up64 (n : Nat) : Nat := (n + 63) / 64 * 64

/-- A row expanded from 2:4 form (R39, R40): element codes at their logical places, and whether a nibble was invalid. -/
def expand24 (k : Nat) (els : List Nat) (meta24 : List Byte) : List (Option Nat) × Bool :=
  let mv := ofBytesLE meta24
  let g := fun i => nfld mv (4 * i) 4
  let okG := fun i => decide (g i % 4 < g i / 4)
  ((List.range k).map (fun j =>
      let i := j / 4
      if !okG i then none
      else if j % 4 = g i % 4 then some (els.getD (2 * i) 0)
      else if j % 4 = g i / 4 then some (els.getD (2 * i + 1) 0)
      else none),
   (List.range (k / 4)).any (fun i => !okG i))

/-- Products of a group, summed exactly; `none` where the group's sum is NaN (R31). -/
def groupSum : List (FVal × Bool) → FVal → Option FVal
  | [], a => some a
  | (p, nan) :: r, a =>
    if nan || p.isNan then none
    else
      let (v, nv) := FVal.add false a p
      if nv then none else groupSum r v

/-- Largest exponent among finite non-zero products (R31): the floor of log2 of the exact product, not the sum of the operands'
exponents (DESIGN CHOICE: R31 does not say which). -/
def topExp : List (FVal × Bool) → Option Int
  | [] => none
  | (.fin _ m e, _) :: r =>
    if m = 0 then topExp r
    else
      let x : Int := e + Nat.log2 m
      match topExp r with
      | some y => some (max x y)
      | none => some x
  | _ :: r => topExp r

/-- A product cut to the bits down to 2^lo (R31): its magnitude is cut, towards zero (DESIGN CHOICE: R31 does not say which way). -/
def truncAt (lo : Int) (v : FVal) : FVal :=
  match v with
  | .fin s m e => if lo ≤ e then v else .fin s (m >>> (lo - e).toNat) lo
  | v => v

/-- Consecutive groups of n elements. -/
def chunks {α : Type} (n : Nat) : Nat → List α → List (List α)
  | 0, _ => []
  | k + 1, l => if l.isEmpty then [] else l.take n :: chunks n k (l.drop n)

/-- One group added into an FP32 accumulator (R31). -/
def accGroup (acc : W32) (ps : List (FVal × Bool)) (shift : Int) (nanScale : Bool) : FRes :=
  match (if nanScale then none else groupSum ps (.fin false 0 0)) with
  | none => (fnan, flNV)
  | some g =>
    let (v, nv) := FVal.add false (fdec acc) (g.scale shift)
    toF32 v nv

/-- Products of rows: an operand place that sparsity prunes is zero. -/
def prods (fa fb : Nat) (a : List Nat) (b : List (Option Nat)) : List (FVal × Bool) :=
  (a.zip b).map (fun e => match e.2 with
    | none => (FVal.fin false 0 0, false)
    | some y =>
      let (v, nv) := FVal.mul (elemVal fa e.1) (elemVal fb y)
      (v, nv || v.isNan))

/-- One accumulator after an operation over K (R31): scales of the blocks of both rows beside the elements. -/
def macCell (fa fb k : Nat) (acc : W32) (a : List Nat) (b : List (Option Nat)) (sa sb : List Nat) : FRes :=
  let ps := prods fa fb a b
  if isInt fa then
    let t : Int := ((a.zip b).map (fun e => match e.2 with
      | none => 0
      | some y => (if fa = 0 then sfld e.1 4 else sfld e.1 8) * (if fb = 0 then sfld y 4 else sfld y 8))).foldl (· + ·) 0
    let v := acc.toInt + t
    if v < -2 ^ 31 then (0x80000000#32, flSATACC)
    else if 2 ^ 31 - 1 < v then (0x7FFFFFFF#32, flSATACC) else (w32 (ibits 32 v), 0)
  else if isMx fa then
    ((chunks 32 k ps).zipIdx).foldl (fun r g =>
      let x := sa.getD g.2 0
      let y := sb.getD g.2 0
      let bad := decide (x = 0xFF) || decide (y = 0xFF)
      let q := accGroup r.1 g.1 ((x : Int) - 127 + ((y : Int) - 127)) bad
      (q.1, r.2 ||| q.2 ||| flIf bad flMXNAN)) (acc, 0)
  else if decide (fa = 4) || decide (fa = 5) then
    (chunks 16 k ps).foldl (fun r g =>
      let lo := (topExp g).map (· - 32)
      let g' := match lo with
        | some lo => g.map (fun p => (truncAt lo p.1, p.2))
        | none => g
      let q := accGroup r.1 g' 0 false
      (q.1, r.2 ||| q.2)) (acc, 0)
  else
    (chunks 32 k ps).foldl (fun r g =>
      let q := accGroup r.1 g 0 false
      (q.1, r.2 ||| q.2)) (acc, 0)

/-- The operands of a tensor operation: per row, element codes and scales; META where a nibble is invalid. -/
structure TensorIn where
  a : List (List Nat)
  b : List (List (Option Nat))
  sa : List (List Nat)
  sb : List (List Nat)
  badMeta : Bool

/-- The operands read from the scratchpad; none where a word delivers poison (R62). -/
def State.tensorRead (s : State) (u : UnitId) (ws : List W32) : Option TensorIn × State :=
  let fa := df ws 0 4 4
  let fb := df ws 0 8 4
  let k := df ws 1 0 16
  let sp := bit (dw ws 0) 12
  let kb := if sp then k / 2 else k
  let (a, s) := s.spRows u (df ws 2 0 18) (df ws 4 0 16) (k * elemBits fa / 8) 16
  let (b, s) := s.spRows u (df ws 3 0 18) (df ws 4 16 16) (kb * elemBits fb / 8) 16
  let (sa, s) := if isMx fa then s.spRows u (df ws 5 0 18) (up64 (k / 32)) (k / 32) 16 else (some (List.replicate 16 []), s)
  let (sb, s) := if isMx fb then s.spRows u (df ws 6 0 18) (up64 (k / 32)) (k / 32) 16 else (some (List.replicate 16 []), s)
  let (mt, s) := if sp then s.spRows u (df ws 7 0 18) (up64 (k / 8)) (k / 8) 16 else (some (List.replicate 16 []), s)
  match a, b, sa, sb, mt with
  | some a, some b, some sa, some sb, some mt =>
    let bl := (b.zip mt).map (fun e =>
      let els := unpackElems (elemBits fb) kb e.1
      if sp then expand24 k els e.2 else (els.map some, false))
    (some ⟨a.map (unpackElems (elemBits fa) k), bl.map (·.1), sa.map (·.map (·.toNat)), sb.map (·.map (·.toNat)),
      bl.any (·.2)⟩, s)
  | _, _, _, _, _ => (none, s)

/-- The set after an operation: every cell of the 16 × 16 tile, with the flags (R31, R40). -/
def CoreSt.mac (c : CoreSt) (ws : List W32) (t : TensorIn) : CoreSt × Nat :=
  let fa := df ws 0 4 4
  let fb := df ws 0 8 4
  let k := df ws 1 0 16
  let set := descAcc ws
  let zero := bit (dw ws 0) 15
  let cells := (List.range 256).map (fun i =>
    let acc := if zero then 0 else Tab.get 0 c.acc (256 * set + i)
    macCell fa fb k acc (t.a.getD (i / 16) []) (t.b.getD (i % 16) []) (t.sa.getD (i / 16) []) (t.sb.getD (i % 16) []))
  let acc := cells.zipIdx.foldl (fun m e => Tab.set 0 m (256 * set + e.2) e.1.1) c.acc
  ({ c with acc := acc, accInt := Tab.set false c.accInt set (isInt fa) },
   cells.foldl (fun f e => f ||| e.2) (flIf t.badMeta flMETA))

/-- Whether the tensor queue can start an operation on a set (R57): none is in progress, or the one in progress is only to be written out,
to another set, and no other is being written out. -/
def QueueSt.accFree (q : QueueSt) (set : Nat) : Bool :=
  match q.running with
  | none => true
  | some d => bit (dw d.words 0) 16 && decide (descAcc d.words ≠ set) && q.out.isNone

/-- The queue as its first waiting descriptor leaves it to start or fail; an operation before it goes on being written out (R57). -/
def QueueSt.take (q : QueueSt) : QueueSt :=
  { q with waiting := q.waiting.drop 1, running := none, out := if q.running.isSome then q.running else q.out }

/-- TENSOR_OP_START (R52, R57, R59): the first waiting descriptor starts once its dependency is met, its set is free of the operation
before it and every VACC of its set issued before it has completed; an invalid one halts the queue. -/
def tensorStart (u : UnitId) (s : State) : State :=
  let c := s.core u
  let q := c.queue 1
  match q.waiting with
  | [] => s
  | i :: _ =>
    let ws := i.words
    if q.halted || !q.accFree (descAcc ws) then s
    else match c.dep (df ws 0 24 3) (df ws 1 16 16) with
      | .wait => s
      | .failed => (s.setCore u (c.setQueue 1 q.take)).qFail u 1 5 i.addr
      | .ready =>
        if c.vq.any (fun v => decide (v.id < i.id) && decide (v.op.accOf v.x1 = some (descAcc ws))) then s
        else
          let s1 := s.setCore u (c.setQueue 1 q.take)
          if !tensorOk ws then s1.qFail u 1 1 i.addr
          else
            let (ops, t) := s1.tensorRead u ws
            match ops with
            | none => t.qFail u 1 2 i.addr
            | some ops =>
              let (c', fl) := (t.core u).mac ws ops
              (t.setCore u (c'.setQueue 1 { c'.queue 1 with running := some ⟨ws, i.addr, 0, false, none, i.epoch⟩ })).arith u fl
def execTensorOpStart (u : UnitId) (s : State) : Out := onUnit (coreOk u) (tensorStart u s)

/-- A row of 16 accumulators converted for write-out (R60): INT32 to FP32 first, times IN_SCALE, into FMT_OUT. -/
def writeRow (ws : List W32) (isI : Bool) (g : BitVec 128) (row : List W32) : List Nat × Nat × BitVec 128 :=
  let fo := df ws 0 17 4
  if fo = 7 then (row.map (·.toNat), 0, g)
  else
    let xs := row.map (fun w => if isI then (toF32 (FVal.ofInt w.toInt) false).1 else w)
    let sc := xs.map (fun w => fMul w (dw ws 12))
    let (ns, fl, g') := convList fo (df ws 0 21 2) (bit (dw ws 0) 23) (dw ws 10) g (sc.map (·.1))
    (ns, sc.foldl (fun f e => f ||| e.2) fl, g')

/-- Rows r to 15 of the output tile written (R60), with the generator of the operation's issue (R37). -/
def State.writeTile (s : State) (u : UnitId) (d : DescRun) : Nat → State
  | 0 => s
  | k + 1 =>
    let r := 15 - k
    let ws := d.words
    let c := s.core u
    let set := descAcc ws
    let row := (List.range 16).map (fun j => Tab.get 0 c.acc (256 * set + 16 * r + j))
    let (ns, fl, g) := writeRow ws (Tab.get false c.accInt set) (c.genOf d.epoch) row
    let bs := packElems (elemBits (df ws 0 17 4)) ns
    let t := s.setCore u (c.setGen d.epoch g)
    let t := t.spWrite u ((df ws 8 0 18 + r * df ws 9 0 16) % spSize) bs
    State.writeTile (t.arith u fl) u d k

/-- An operation's write-out, if any, is in the scratchpad. -/
def State.writtenOut (s : State) (u : UnitId) (d : DescRun) : State := if bit (dw d.words 0) 16 then s.writeTile u d 16 else s

/-- TENSOR_OP_COMPLETE (R49, R57, R60): the oldest operation's write-out is in the scratchpad and the counter advances. -/
def tensorComplete (u : UnitId) (s : State) : State :=
  let q := (s.core u).queue 1
  match q.out, q.running with
  | some d, _ =>
    let c := (s.writtenOut u d).core u
    (s.writtenOut u d).setCore u (c.setQueue 1 { c.queue 1 with out := none, counter := (c.queue 1).counter + 1 })
  | none, some d =>
    let c := (s.writtenOut u d).core u
    (s.writtenOut u d).setCore u (c.setQueue 1 { c.queue 1 with running := none, counter := (c.queue 1).counter + 1 })
  | none, none => s
def execTensorOpComplete (u : UnitId) (s : State) : Out := onUnit (coreOk u) (tensorComplete u s)

end Sys2Proof.Machine
end

