-- ==== Sys2Proof/Machine/CoreRegs.lean ====
section
/-! DEFINITION. The core's register writes, its signature messages and scratchpad scrubber, and the spare map (R76 to R86). -/

namespace Sys2Proof.Machine

/-! ### Unit states (R374) -/

def stAbsent : Nat := 0
def stIdle : Nat := 1
def stRunning : Nat := 2
def stDraining : Nat := 3
def stResetting : Nat := 4
def stFaulted : Nat := 5

/-- Address of BLK_STAT of a unit. -/
def statAt (u : UnitId) : Nat := uPage u 0 + 0x014

/-- A unit's own STATE (R374); an absent core's is ABSENT (R13). -/
def State.ustate (s : State) (u : UnitId) : Nat := if s.isAbsent u then stAbsent else s.regF (statAt u) 0 3

/-- Whether a unit is held in reset (R375). -/
def State.held (s : State) (u : UnitId) : Bool := bit (s.reg (statAt u)) 3

/-- A unit's STATE given a value. -/
def State.setUstate (s : State) (u : UnitId) (n : Nat) : State := s.setRegF (statAt u) 0 3 n

/-! ### Core page writes -/

/-- CORE_BOOT (R82, R375): the boot address is held; bit 0 releases the sequencer of an IDLE core, which becomes RUNNING. -/
def coreBootWrite (u : UnitId) (v : W32) (s : State) : State :=
  if s.isAbsent u then s
  else
    let t := s.setReg (uPage u 1 + 0x060) (v &&& 0x3FFFD#32)
    if bit v 0 && decide (s.ustate u = stIdle) then
      (t.setCore u { t.core u with run := true, wfi := false, pc := v &&& 0x3FFFC#32 }).setUstate u stRunning
    else t

/-- The seed that replaces an all-zero one (R37). -/
def fixedSeed : BitVec 128 := 0x5EED0001000000000000000000000001#128

/-- Four words as a generator state, word 0 least significant; an all-zero one is replaced (R37, R83). -/
def seedOf (w0 w1 w2 w3 : W32) : BitVec 128 :=
  let g := BitVec.ofNat 128 (w0.toNat + 2 ^ 32 * w1.toNat + w2.toNat * 2 ^ 64 + w3.toNat * 2 ^ 96)
  if g = 0 then fixedSeed else g

/-- A write of CORE_SR_SEED3 loads all four words (R83). -/
def srSeedWrite (u : UnitId) (v : W32) (s : State) : State :=
  if s.isAbsent u then s
  else
    let p := uPage u 1
    let t := s.setReg (p + 0x054) v
    t.setCore u ((t.core u).seed (seedOf (t.reg (p + 0x048)) (t.reg (p + 0x04C)) (t.reg (p + 0x050)) v))
def execCoreSrSeedWrite (_w : Writer) (u : UnitId) (v : W32) (s : State) : Out := onUnit (coreOk u) (srSeedWrite u v s)

/-- CORE_PREEMPT (R82, R83): W1S of REQ; R109 measures from when it was set. -/
def preemptWrite (u : UnitId) (v : W32) (s : State) : State :=
  if s.isAbsent u || !bit v 0 then s
  else
    let t := s.setReg (uPage u 1 + 0x07C) 1
    { t with plan := { t.plan with req := match Tab.get none t.plan.req u.toNat with
        | none => Tab.set none t.plan.req u.toNat (some (s.frc, false))
        | some _ => t.plan.req } }
def execCorePreemptWrite (_w : Writer) (u : UnitId) (v : W32) (s : State) : Out := onUnit (coreOk u) (preemptWrite u v s)

/-- CORE_PREEMPT_CLR (R82). -/
def preemptClr (u : UnitId) (v : W32) (s : State) : State :=
  if s.isAbsent u || !bit v 0 then s
  else
    let t := s.setReg (uPage u 1 + 0x07C) 0
    { t with plan := { t.plan with req := Tab.set none t.plan.req u.toNat none } }
def execCorePreemptClr (_w : Writer) (u : UnitId) (v : W32) (s : State) : Out := onUnit (coreOk u) (preemptClr u v s)

/-! ### Signature engine (R75 to R77, R84) -/

/-- Address of register r of signature context n. -/
def ctxAt (u : UnitId) (n r : Nat) : Nat := uPage u 2 + 0x080 + 0x20 * n + 4 * r

/-- Whether a context is OPEN (R84). -/
def State.ctxOpen (s : State) (u : UnitId) (n : Nat) : Bool := bit (s.reg (ctxAt u n 0)) 31

/-- Whether a SIG descriptor that refers to a context is in progress on a channel (R77). -/
def CoreSt.ctxBusy (c : CoreSt) (n : Nat) : Bool := decide (fld c.sigBusy (4 * n) 4 ≠ 0)

/-- Writable bits of a context's registers (R84). -/
def ctxMask (r : Nat) : W32 :=
  ([0x800FFFFF#32, 0x1FFFF#32, 0xFFFFFFFF#32, 0xFFFFFFFF#32, 0xFFFFFFFF#32, 0xFFFF#32, 0x3FFFFF#32, 0xFFFFFFFF#32] :
    List W32).getD r 0

/-- A write of a context register takes effect only while the context is not BUSY (R77). -/
def sigContextWrite (u : UnitId) (n r : Nat) (v : W32) (s : State) : State :=
  if s.isAbsent u || (s.core u).ctxBusy n then s else s.setReg (ctxAt u n r) (v &&& ctxMask r)
def execSigContextWrite (_w : Writer) (u : UnitId) (n r : Nat) (v : W32) (s : State) : Out :=
  onUnit (coreOk u && decide (n < 4) && decide (r < 8)) (sigContextWrite u n r v s)

/-- A write of SIG_SEQ or SIG_COPY takes effect only while no context is OPEN (R84). -/
def sigSeqWrite (u : UnitId) (copy : Bool) (v : W32) (s : State) : State :=
  if s.isAbsent u || [0, 1, 2, 3].any (s.ctxOpen u) then s
  else if copy then s.setReg (uPage u 2 + 0x044) (v &&& 1) else s.setReg (uPage u 2 + 0x040) v
def execSigSeqWrite (_w : Writer) (u : UnitId) (copy : Bool) (v : W32) (s : State) : Out :=
  onUnit (coreOk u) (sigSeqWrite u copy v s)

/-- The tile's element count by a context's GEOM (R84). -/
def geomCount (g : W32) : Nat := (fld g 0 8 + 1) * (fld g 8 8 + 1)

/-- The 32-byte payload of a context's signature message (R76). -/
def State.sigPayload (s : State) (u : UnitId) (n : Nat) : List Byte :=
  let r := fun k => s.reg (ctxAt u n k)
  let g := r 6
  let w1 := fld (r 0) 0 20 + s.regF (uPage u 2 + 0x044) 0 1 * 2 ^ 20 + fld g 20 1 * 2 ^ 21 + fld g 21 1 * 2 ^ 22
  [(s.reg (uPage u 2 + 0x040)).toNat, w1, (r 2 ^^^ 0xFFFFFFFF#32).toNat, (r 3 ^^^ 0xFFFFFFFF#32).toNat, (r 4).toNat,
   fld (r 5) 0 16 + 2 ^ 16 * fld g 0 8 + fld g 8 8 * 2 ^ 24, (r 7).toNat, fld g 16 4 + 2 ^ 16 * u.toNat].flatMap (bytesLE 4)

/-- SIGNATURE_MESSAGE_QUEUE (R76): a finished context whose writes are acknowledged queues its message, if the queue has room, and is
free again. -/
def sigMessageQueue (u : UnitId) (n : Nat) (s : State) : State :=
  let c := s.core u
  if s.ctxOpen u n && !c.ctxBusy n && decide (geomCount (s.reg (ctxAt u n 6)) ≤ s.regF (ctxAt u n 1) 0 17)
      && decide (c.sigQ.length < 8) then
    (s.setCore u { c with sigQ := c.sigQ ++ [⟨s.sigPayload u n⟩] }).setReg (ctxAt u n 0) 0
  else s
def execSignatureMessageQueue (u : UnitId) (n : Nat) (s : State) : Out :=
  onUnit (coreOk u && decide (n < 4)) (sigMessageQueue u n s)

/-- SIGNATURE_MESSAGE_SEND (R76): the oldest message leaves on the Gatehouse link. -/
def sigMessageSend (u : UnitId) (s : State) : State :=
  let c := s.core u
  match c.sigQ with
  | [] => s
  | m :: r => (s.setCore u { c with sigQ := r, sigSent := c.sigSent + 1 }).sendMsg u idGatehouse 0x01 m.payload
def execSignatureMessageSend (u : UnitId) (s : State) : Out := onUnit (coreOk u) (sigMessageSend u s)

/-- SCRATCHPAD_SCRUB_LINE (R62): one line read and corrected. -/
def scratchpadScrub (u : UnitId) (s : State) : State :=
  let l := (s.core u).scrub
  let t := (List.range 16).foldl (fun t i => (t.spReadW u (l % 4096 * 64 + 4 * i)).2) s
  t.setCore u { t.core u with scrub := (l + 1) % 4096 }
def execScratchpadScrubLine (u : UnitId) (s : State) : Out := onUnit (coreOk u) (scratchpadScrub u s)

/-- The spare of a cluster comes into use (R63, R79, R157): it keeps the words that broadcasts wrote below the firmware limit it took,
and everything else is what core reset leaves. -/
def State.spareFresh (s : State) (clu : UnitId) : State :=
  let key := 17 * cluIx clu + 16
  let lim := (Tab.get (0, 0) s.spareFw (cluIx clu)).1.toNat
  { s with mem := Tab.clearIn s.mem (spBase key + lim) (spBase key + spSize), syn := Tab.clearIn s.syn (spBase key + lim) (spBase key + spSize),
           cores := Tab.set CoreSt.init s.cores key { CoreSt.init with cycle := 0 - s.clkCycles clu } }

/-- CLU_SPARE_MAP (R78, R86): a write takes effect only while the spare is unmapped and sound, LOGICAL and VALID only while logical core
LOGICAL is held; what is ignored sets MAP_BUSY. SPARE_FAILED makes any mapping void. The spare brings the firmware limit and lock that it
took (R157). -/
def spareMapWrite (clu : UnitId) (v : W32) (s : State) : State :=
  let a := spareMapAt clu
  let m := s.reg a
  let n := fld v 0 4
  let core := mkUid 0 (uDie clu) (uPav clu) (uClu clu) n
  let log := setFld m 0 4 n
  if bit m 8 || bit m 16 then s.setErr (uPage clu 1) 0
  else if bit v 16 then
    if s.held core || decide (fld m 0 4 = n) then s.setReg a (setBit log 16 true)
    else (s.setReg a (setBit m 16 true)).setErr (uPage clu 1) 0
  else if !s.held core then s.setErr (uPage clu 1) 0
  else if bit v 8 then
    let (lim, lock) := Tab.get (0, 0) s.spareFw (cluIx clu)
    ((((s.spareFresh clu).setReg a (setBit log 8 true))).setReg (uPage core 1 + 0x05C) lim).setReg (uPage core 1 + 0x024) lock
  else s.setReg a log

/-- CLU_SPARE_MAP as a word of the retirement record holds it (R436). -/
def mapOfRec (r : W32) : W32 := w32 (fld r 0 4 + 256 * fld r 4 1 + 65536 * fld r 5 1)
/-- A word of the retirement record that holds a map and the absent cores of the old word. -/
def recOfMap (m old : W32) : W32 := w32 (fld m 0 4 + 16 * fld m 8 1 + 32 * fld m 16 1 + 65536 * fld old 16 16)

/-- The retirement record applied to a cluster: the map, which never undoes a fused mapping, and the absent cores (R369). -/
def State.applyRec (s : State) (clu : UnitId) : State :=
  let f := Tab.get 0 s.fusedMap (cluIx clu)
  let r := Tab.get 0 s.gk.retire (cluIx clu)
  let t := s.setReg (spareMapAt clu) (if bit f 8 || bit f 16 then f else mapOfRec r)
  { t with absent := (bitsOf 16 (fld r 16 16)).foldl (fun (a : Tab Bool) i =>
      Tab.set false a (mkUid 0 (uDie clu) (uPav clu) (uClu clu) i).toNat true) t.absent }

end Sys2Proof.Machine
end

