-- ==== Sys2Proof/Machine/Links.lean ====
section
/-! DEFINITION. Links between dies (R161 to R169, R291): flits, replay, idle and training. Ends 0 and 1 are the Footbridge's on
dies 0 and 1, 2 and 3 the I/O links' on the dies, 4 and 5 their partners on the I/O die, 6 to 8 the Gatehouse links' on dies
0 and 1 and the I/O die, 9 to 11 their partners on the Gatehouse. -/

namespace Sys2Proof.Machine

/-- The page of a link end (R477, R478, R481). -/
def linkPageOf (e : Nat) : Nat :=
  if e < 2 then uPage (dieUid e) 4 else if e < 4 then uPage (dieUid (e - 2)) 5 else if e < 6 then ioPage (3 + (e - 4))
  else if e < 8 then uPage (dieUid (e - 6)) 6 else if e = 8 then ioPage 5 else ghPage (0x18 + (e - 9))

/-- The other end of a link. -/
def linkPartner (e : Nat) : Nat :=
  ([1, 0, 4, 5, 2, 3, 9, 10, 11, 6, 7, 8] : List Nat).getD e 0

/-- Lane groups of a link (R144). -/
def linkGroups (e : Nat) : Nat := if e < 2 then 16 else 4

/-- LINK_CAP (R169). -/
def linkCap (e : Nat) : W32 := w32 (1 + linkGroups e * 256 + (if e < 6 then 16 else 1) * 65536)

/-- Whether an end is on the Gatehouse. -/
def linkGh (e : Nat) : Bool := decide (9 ≤ e)

/-- The fabric page of an end's die: the Gatehouse has none. -/
def linkFab (e : Nat) : Option Nat :=
  if linkGh e then none
  else if e < 2 then some (uPage (dieUid e) 1) else if e < 4 then some (uPage (dieUid (e - 2)) 1)
  else if 6 ≤ e ∧ e < 8 then some (uPage (dieUid (e - 6)) 1) else some (ioPage 0x002)

/-- LINK_STAT states (R169). -/
def lkReset : Nat := 0
def lkDetect : Nat := 1
def lkNegotiate : Nat := 2
def lkGroupTrain : Nat := 3
def lkMaskExchange : Nat := 4
def lkActive : Nat := 5
def lkDown : Nat := 6

/-- DOWN causes (R169). -/
def dnNoPartner : Nat := 1
def dnNoVersion : Nat := 2
def dnTooFew : Nat := 3
def dnLost : Nat := 4

def linkStatA (e : Nat) : Nat := linkPageOf e + 0x04C
def State.lkState (s : State) (e : Nat) : Nat := s.regF (linkStatA e) 0 3
def State.link (s : State) (e : Nat) : LinkSt := Tab.get LinkSt.init s.links e
def State.setLink (s : State) (e : Nat) (x : LinkSt) : State := { s with links := Tab.set LinkSt.init s.links e x }
/-- Active groups of an end. -/
def State.lkMask (s : State) (e : Nat) : Nat := s.regF (linkPageOf e + 0x058) 0 16
/-- MIN_GROUPS in force. -/
def State.lkMin (s : State) (e : Nat) : Nat := fld (s.link e).cfg 0 5

/-- Link ends of a die (0, 1, or 2 for the I/O die): the one FAB_STAT shows in [1], in [2], and its Gatehouse link's. -/
def dieEnds (d : Nat) : Nat × Nat × Nat := if d < 2 then (d, 2 + d, 6 + d) else (4, 5, 8)

/-- FAB_STAT follows the states of its die's link ends; READY sets once each has reached ACTIVE or DOWN (R167, R168). -/
def State.fabStat (s : State) (d : Nat) : State :=
  let (a, b, c) := dieEnds d
  let act := fun e => decide (s.lkState e = lkActive)
  let fin := fun e => act e || decide (s.lkState e = lkDown)
  let p := (if d < 2 then uPage (dieUid d) 1 else ioPage 0x002) + 0x040
  let ready := bit (s.reg p) 0 || (fin a && fin b && fin c)
  s.setReg p (w32 (b2n ready + 2 * b2n (act a) + 4 * b2n (act b) + 8 * b2n (act c)))

def State.fabStats (s : State) : State := ((s.fabStat 0).fabStat 1).fabStat 2

/-- A link end enters a state. -/
def State.lkEnter (s : State) (e st : Nat) : State :=
  ((s.setRegF (linkStatA e) 0 3 st).setLink e { s.link e with since := s.frc }).fabStats

/-- A link end goes DOWN with a cause (R163, R164); its die's fabric page shows LINK_DOWN. -/
def State.lkDownBy (s : State) (e cause : Nat) : State :=
  let t := (s.setRegF (linkStatA e) 12 4 cause).lkEnter e lkDown
  let t := ((t.setReg (linkPageOf e + 0x058) 0).setRegF (linkStatA e) 16 5 0).setErr (linkPageOf e) 2
  match linkFab e with
  | some p => t.setErr p 3
  | none => t

/-- An end enters DETECT: LINK_CFG and LINK_TRAIN_TO take effect (R169). -/
def State.lkDetectIn (s : State) (e : Nat) : State :=
  let t := s.setLink e { LinkSt.init with cfg := s.reg (linkPageOf e + 0x048),
                                          trainTo := s.regF (linkPageOf e + 0x068) 0 16, last := s.frc }
  t.lkEnter e lkDetect

/-- Writers of a link page (R166, R169). -/
def State.lkMay (s : State) (w : Writer) (e : Nat) : Bool :=
  if linkGh e then decide (w = .pair) else decide (s.writerDom w = domGk) || decide (s.writerDom w = domGh)

/-- LINK_TRAIN (R164): in state RESET only, and never at a Gatehouse end (R166). -/
def linkTrain (w : Writer) (e : Nat) (v : W32) (s : State) : State :=
  if s.lkMay w e && bit v 0 && !linkGh e && decide (s.lkState e = lkReset) then s.lkDetectIn e else s
def execLinkTrain (w : Writer) (e : Nat) (v : W32) (s : State) : Out := onUnit (decide (e < 12)) (linkTrain w e v s)

/-- GH_LINK_AUTO_DETECT (R166). -/
def ghAutoDetect (k : Nat) (s : State) : State :=
  if s.ghUp && decide (s.lkState (9 + k) = lkReset) then s.lkDetectIn (9 + k) else s
def execGhLinkAutoDetect (k : Nat) (s : State) : Out := onUnit (decide (k < 3)) (ghAutoDetect k s)

/-- LINK_PARTNER_DETECTED (R164): the partner, itself past RESET and not DOWN, is heard on MIN_GROUPS groups. -/
def partnerDetected (e groups : Nat) (s : State) : State :=
  let p := s.lkState (linkPartner e)
  if decide (s.lkState e = lkDetect) && decide (lkDetect ≤ p) && decide (p ≠ lkDown)
      && decide (s.lkMin e ≤ popcnt (linkGroups e) groups) then s.lkEnter e lkNegotiate
  else s
def execLinkPartnerDetected (e : Nat) (groups : BitVec 16) (s : State) : Out :=
  onUnit (decide (e < 12)) (partnerDetected e groups.toNat s)

/-- LINK_TRAIN_TIMEOUT (R164); a Gatehouse end has none (R166). -/
def linkTrainTimeout (e : Nat) (s : State) : State :=
  if !linkGh e && decide (s.lkState e = lkDetect) && decide ((s.link e).since + 500 * (s.link e).trainTo ≤ s.frc) then
    s.lkDownBy e dnNoPartner
  else s
def execLinkTrainTimeout (e : Nat) (s : State) : Out := onUnit (decide (e < 12)) (linkTrainTimeout e s)

/-- The version mask that an end advertises (R165): bit v - 1 for version v, up to BLK_GEN_ACT. -/
def State.lkVersions (s : State) (e : Nat) : Nat := fld (linkCap e) 0 4 % 2 ^ s.regF (linkPageOf e + 0x00C) 0 4

/-- The highest version of a mask. -/
def topVersion (m : Nat) : Nat := (bitsOf 4 m).foldl (fun _ i => i + 1) 0

/-- LINK_NEGOTIATE (R164, R165). -/
def linkNegotiate (e : Nat) (s : State) : State :=
  let p := s.lkState (linkPartner e)
  if s.lkState e ≠ lkNegotiate ∨ p < lkNegotiate ∨ p = lkDown then s
  else
    let both := s.lkVersions e &&& s.lkVersions (linkPartner e)
    if both = 0 then s.lkDownBy e dnNoVersion
    else (s.setRegF (linkStatA e) 8 4 (topVersion both)).lkEnter e lkGroupTrain
def execLinkNegotiate (e : Nat) (s : State) : Out := onUnit (decide (e < 12)) (linkNegotiate e s)

/-- LINK_GROUP_TRAIN_END (R165): the end's pass mask; each failed group sets GROUP_FAIL. -/
def groupTrainEnd (e pass : Nat) (s : State) : State :=
  if s.lkState e ≠ lkGroupTrain then s
  else
    let m := pass % 2 ^ linkGroups e
    let t := (s.setReg (linkPageOf e + 0x050) (w32 m)).setErrIf (decide (m ≠ 2 ^ linkGroups e - 1)) (linkPageOf e) 0
    t.lkEnter e lkMaskExchange
def execLinkGroupTrainEnd (e : Nat) (pass : BitVec 16) (s : State) : Out :=
  onUnit (decide (e < 12)) (groupTrainEnd e pass.toNat s)

/-- LINK_MASK_EXCHANGE (R164, R165): the active mask is the AND of both ends' pass masks. -/
def maskExchange (e : Nat) (s : State) : State :=
  let p := s.lkState (linkPartner e)
  if s.lkState e ≠ lkMaskExchange ∨ p < lkMaskExchange ∨ p = lkDown then s
  else
    let remote := s.regF (linkPageOf (linkPartner e) + 0x050) 0 16
    let m := s.regF (linkPageOf e + 0x050) 0 16 &&& remote
    let t := s.setReg (linkPageOf e + 0x054) (w32 remote)
    if popcnt 16 m < s.lkMin e then t.lkDownBy e dnTooFew
    else
      let t := (t.setReg (linkPageOf e + 0x058) (w32 m)).setRegF (linkStatA e) 16 5 (popcnt 16 m)
      (t.setLink e { t.link e with last := s.frc }).lkEnter e lkActive
def execLinkMaskExchange (e : Nat) (s : State) : Out := onUnit (decide (e < 12)) (maskExchange e s)

/-! ### Flits -/

/-- The bytes of a flit that its CRC covers (R291): 240 of data and the framing up to byte 251. -/
def flitBody (f : Flit) : List Byte :=
  (f.data ++ List.replicate (240 - f.data.length) 0).take 240
    ++ bytesLE 4 (f.fseq.toNat + f.ack.toNat * 4096) ++ bytesLE 8 f.poison.toNat

/-- The CRC of a flit on a group (R291). -/
def flitCrc (group : Nat) (f : Flit) : W32 := crc32cFold (group * 2 ^ 32 + f.fseq.toNat) (flitBody f)

/-- The words of a packet's flits: a word and whether the poison mask marks it, which then travels as 0. -/
abbrev LinkWord := W32 × Bool

/-- The flit of index i made of 60 words of a group (R161, R291); it acknowledges the last flit received in order on the group. -/
def LinkSt.mkFlit (x : LinkSt) (g i : Nat) (ws : List LinkWord) : Flit :=
  let f : Flit := ⟨ws.flatMap (fun w => bytesLE 4 w.1.toNat), BitVec.ofNat 12 i, BitVec.ofNat 12 (Tab.get 0 x.expect g + 4095),
    BitVec.ofNat 60 (ws.zipIdx.foldl (fun n e => n + b2n e.1.2 * 2 ^ e.2) 0), 0⟩
  { f with crc := flitCrc g f }

/-- Every full flit of a group is formed, kept among the group's last 64, and sent (R161, R162). -/
def State.lkForm (s : State) (e g : Nat) : Nat → State
  | 0 => s
  | n + 1 =>
    let x := s.link e
    let b := Tab.get [] x.buf g
    if b.length < 60 then s
    else
      let i := Tab.get 0 x.formed g
      let f := x.mkFlit g i (b.take 60)
      let k := Tab.get [] x.kept g ++ [(i, f)]
      State.lkForm ((s.setLink e { x with buf := Tab.set [] x.buf g (b.drop 60), formed := Tab.set 0 x.formed g (i + 1),
                                          kept := Tab.set [] x.kept g (k.drop (k.length - 64)) }).emit (.flit e g f)) e g n

/-- A packet placed on a group's stream, without a gap (R161). -/
def State.lkPlace (s : State) (e g num : Nat) (ws : List LinkWord) : State :=
  let x := s.link e
  let fin := Tab.get 0 x.placed g + ws.length
  let y := { x with placed := Tab.set 0 x.placed g fin, buf := Tab.set [] x.buf g (Tab.get [] x.buf g ++ ws),
                    order := Tab.set [] x.order g (Tab.get [] x.order g ++ [(num, ws.length)]),
                    unacked := x.unacked ++ [⟨num, g, ws, fin⟩] }
  (s.setLink e y).lkForm e g (ws.length / 60 + 1)

/-- The group after g in the rotation over the active groups (R161). -/
def nextGroup (m g : Nat) : Nat :=
  (((List.range 16).map (fun i => (g + 1 + i) % 16)).find? (nbit m)).getD g

/-- A packet given to a link's transmitter: the next number, on the next group. -/
def State.lkSend (s : State) (e : Nat) (ws : List LinkWord) : State :=
  if s.lkState e ≠ lkActive then s
  else
    let x := s.link e
    let g := nextGroup (s.lkMask e) x.rot
    (s.setLink e { x with num := (x.num + 1) % 65536, rot := g }).lkPlace e g x.num ws

/-- Packet words sent over a link (R161): the header as it is; a payload word that its code corrects travels corrected, an uncorrectable
one marked. -/
def linkWords (a : Nat) (hdr : List Nat) (pay : List (W32 × BitVec 7)) : List LinkWord :=
  hdr.map (fun w => (w32 w, false)) ++ pay.zipIdx.map (fun p =>
    let c := ecc32 (p.1.2 ^^^ check32 p.1.1 (a + 4 * p.2)).toNat
    if c.bad then (0, true) else (c.fix p.1.1, false))

/-- Whole packets at the head of a group's words, by the lengths that the partner placed there. -/
def takeWhole : Nat → List LinkWord → List (Nat × Nat) → List (Nat × List LinkWord) × List LinkWord × List (Nat × Nat)
  | 0, ws, o => ([], ws, o)
  | n + 1, ws, o =>
    match o with
    | [] => ([], ws, o)
    | (k, len) :: r =>
      if ws.length < len then ([], ws, o)
      else
        let (ps, ws', o') := takeWhole n (ws.drop len) r
        ((k, ws.take len) :: ps, ws', o')

/-- A packet released (R161): its payload words with regenerated codes, hashed over its canonical target address, poison where marked. -/
def State.lkOut (s : State) (e num : Nat) (ws : List LinkWord) : State :=
  let a := canonical (((ws.getD 2 (0, false)).1).toNat + ((ws.getD 3 (0, false)).1).toNat % 65536 * 2 ^ 32)
  s.emit (.released e num ((ws.take 8).map Prod.fst) (coded a ((ws.drop 8).map (fun w => if w.2 then none else some w.1))))

/-- Packets are released in packet-number order (R161). -/
def State.lkRelease (s : State) (e : Nat) : Nat → State
  | 0 => s
  | n + 1 =>
    let x := s.link e
    match x.held.find? (fun h => decide (h.1 = x.next)) with
    | some h =>
      State.lkRelease ((s.setLink e { x with held := x.held.filter (fun k => decide (k.1 ≠ h.1)), next := (x.next + 1) % 65536 }).lkOut
        e h.1 h.2) e n
    | none => s

/-- A packet that has arrived whole waits for its number; one that arrived before is not taken again (R162). -/
def LinkSt.keep (x : LinkSt) (h : Nat × List LinkWord) : LinkSt :=
  if (h.1 + 65536 - x.next) % 65536 < 32768 ∧ x.held.any (fun k => decide (k.1 = h.1)) = false then { x with held := x.held ++ [h] } else x

/-- A flit taken in sequence: its acknowledgement frees the packets that ended in flits up to it, and its words give whole packets,
released in order. -/
def State.lkTake (s : State) (e g : Nat) (f : Flit) : State :=
  let x := s.link e
  let done := ((Tab.get [] x.kept g).filter (fun k => decide (k.1 % 4096 = f.ack.toNat))).foldl (fun m k => max m (60 * (k.1 + 1))) 0
  let y := s.link (linkPartner e)
  let ws := Tab.get [] x.rbuf g ++ (List.range 60).map (fun i =>
    (w32 (ofBytesLE ((f.data.drop (4 * i)).take 4)), f.poison.getLsbD i))
  let (ps, rest, o) := takeWhole 60 ws (Tab.get [] y.order g)
  let x := ps.foldl LinkSt.keep
    { x with acked := Tab.set 0 x.acked g f.ack.toNat, rbuf := Tab.set [] x.rbuf g rest,
             unacked := x.unacked.filter (fun p => !(decide (p.group = g) && decide (p.fin ≤ done))) }
  (((s.setLink e x).setLink (linkPartner e) { y with order := Tab.set [] y.order g o })).lkRelease e x.held.length

/-- FLIT_RECEIVE (R161, R162, R214): a flit that checks and is in sequence is taken; any other counts, and replay is asked for from the flit
still expected. An injection armed on the group's checker spoils the check of this flit. -/
def flitReceive (e g : Nat) (f : Flit) (s : State) : State :=
  if s.lkState e ≠ lkActive ∨ nbit (s.lkMask e) g = false then s
  else
    let inj := s.reg (linkPageOf e + 0x020)
    let hit := decide (fld inj 8 8 ≠ 0) && decide (fld inj 0 4 = g) && decide (fld inj 4 4 = 1)
    let s := if decide (fld inj 8 8 ≠ 0) && decide (fld inj 0 4 = g) then s.setRegF (linkPageOf e + 0x020) 8 8 (fld inj 8 8 - 1) else s
    let x := { s.link e with last := s.frc }
    if hit = false ∧ f.crc = flitCrc g f ∧ f.fseq.toNat = Tab.get 0 x.expect g then
      (s.setLink e { x with expect := Tab.set 0 x.expect g ((f.fseq.toNat + 1) % 4096) }).lkTake e g f
    else ((s.setLink e x).count (linkPageOf e + 0x060)).emit (.replay e g (BitVec.ofNat 12 (Tab.get 0 x.expect g)))
def execFlitReceive (e g : Nat) (f : Flit) (s : State) : Out :=
  onUnit (decide (e < 12) && decide (g < linkGroups e) && decide (f.data.length = 240)) (flitReceive e g f s)

/-- A packet put into packet-number order, numbers counted from n (R162). -/
def insertPkt (n : Nat) (p : LinkPkt) : List LinkPkt → List LinkPkt
  | [] => [p]
  | q :: r => if (p.num + 65536 - n) % 65536 ≤ (q.num + 65536 - n) % 65536 then p :: q :: r else q :: insertPkt n p r

/-- The unacknowledged packets of a retired group move to the groups that remain, in packet-number order (R162). -/
def State.lkMove (s : State) (e g : Nat) : State :=
  let x := s.link e
  let ps := (x.unacked.filter (fun p => decide (p.group = g))).foldr (insertPkt x.num) []
  let t := s.setLink e { x with unacked := x.unacked.filter (fun p => decide (p.group ≠ g)), order := Tab.set [] x.order g [],
                                buf := Tab.set [] x.buf g [], rbuf := Tab.set [] x.rbuf g [] }
  ps.foldl (fun t p =>
    let h := nextGroup (t.lkMask e) (t.link e).rot
    (t.setLink e { t.link e with rot := h }).lkPlace e h p.num p.words) t

/-- A group is retired at one end (R162); below MIN_GROUPS the link goes DOWN (R163). -/
def State.lkRetire (s : State) (e g : Nat) : State :=
  if s.lkState e ≠ lkActive then s
  else
    let m := s.lkMask e &&& (0xFFFF ^^^ 2 ^ g)
    let r := s.regF (linkPageOf e + 0x05C) 0 16 ||| 2 ^ g
    let t := ((s.setReg (linkPageOf e + 0x058) (w32 m)).setReg (linkPageOf e + 0x05C) (w32 r)).setErr (linkPageOf e) 1
    let t := t.setRegF (linkStatA e) 16 5 (popcnt 16 m)
    if popcnt 16 m < s.lkMin e then t.lkDownBy e dnLost else t.lkMove e g

/-- LINK_REPLAY (R162): this end's transmitter resends from a flit that it still keeps. More than REPLAY_MAX within 1 ms retire the group, at
both ends of the link. -/
def linkReplay (e g : Nat) (fseq : BitVec 12) (s : State) : State :=
  if s.lkState e ≠ lkActive ∨ nbit (s.lkMask e) g = false then s
  else
    let x := s.link e
    let ts := s.frc :: (Tab.get [] x.replays g).filter (fun t0 => decide (s.frc < t0 + 500000))
    let t := (s.setLink e { x with replays := Tab.set [] x.replays g ts }).count (linkPageOf e + 0x064)
    let again := (Tab.get [] x.kept g).dropWhile (fun k => decide (k.1 % 4096 ≠ fseq.toNat))
    if fld x.cfg 8 8 < ts.length then (t.lkRetire e g).lkRetire (linkPartner e) g
    else again.foldl (fun t k => t.emit (.flit e g k.2)) t
def execLinkReplay (e g : Nat) (fseq : BitVec 12) (s : State) : Out :=
  onUnit (decide (e < 12) && decide (g < linkGroups e)) (linkReplay e g fseq s)

/-- LINK_IDLE_TIMEOUT (R163): no flit on any group for 10 µs. -/
def linkIdle (e : Nat) (s : State) : State :=
  if decide (s.lkState e = lkActive) && decide ((s.link e).last + 5000 ≤ s.frc) then s.lkDownBy e dnLost else s
def execLinkIdleTimeout (e : Nat) (s : State) : Out := onUnit (decide (e < 12)) (linkIdle e s)

/-- A reset of a die moves an end to RESET (R378, R379); its counters and configuration stay where only the partner was
reset. -/
def State.lkResetEnd (s : State) (e : Nat) : State :=
  let p := linkPageOf e
  let t := ([0x050, 0x054, 0x058, 0x05C] : List Nat).foldl (fun t o => t.setReg (p + o) 0) (s.setReg (linkStatA e) 0)
  (t.setLink e { LinkSt.init with since := s.frc }).fabStats

/-! ### Paths (R144, R145, R163, R379) -/

/-- The near link end on the way from a die (0, 1, 2 the I/O die, 3 the Gatehouse) to another. -/
def pathEnd (a b : Nat) : Option Nat :=
  match a, b with
  | 0, 1 => some 0 | 1, 0 => some 1 | 0, 2 => some 2 | 1, 2 => some 3 | 2, 0 => some 4 | 2, 1 => some 5
  | 0, 3 => some 6 | 1, 3 => some 7 | 2, 3 => some 8 | 3, 0 => some 9 | 3, 1 => some 10 | 3, 2 => some 11
  | _, _ => none

/-- What a link on the way answers by itself: 0 where it carries the request, PATH_DOWN where its near end is DOWN, TARGET_RESET before
that is ACTIVE, and nothing, a TIMEOUT at the source, where the far end takes no flits (R163). -/
def State.pathStatus (s : State) (a b : Nat) : Nat :=
  match pathEnd a b with
  | none => 0
  | some e =>
    if s.lkState e = lkDown then 6 else if s.lkState e ≠ lkActive then 3 else if s.lkState (linkPartner e) ≠ lkActive then 8 else 0

end Sys2Proof.Machine
end

