-- ==== Sys2Proof/Machine/PhysMem.lean ====
section
/-! DEFINITION. Requests to memory over the fabric: targets (R112 to R115, R145), what answers them on the way (R133 to R135,
R149, R155, R375 to R379), and reads and writes at the target (R116, R126, R127, R129). -/

namespace Sys2Proof.Machine

/-- A source of requests: its die (2 the I/O die, 3 the Gatehouse), domain, Unit ID (0xFFFF for none), and its Pavilion. -/
structure BusSrc where
  die : Nat
  dom : Domain
  unit : BitVec 16
  pav : Option Nat
  deriving DecidableEq, Repr

/-- Where a request goes: a DRAM address of a die, an offset of a unit's SRAM, a unit's register window, the I/O die's pages, or
the Gatehouse status window; `nowhere` where nothing answers. -/
inductive BusTgt where
  | nowhere
  | dram (die a : Nat)
  | sram (u : UnitId) (off : Nat)
  | reg (u : UnitId) (a : Nat)
  | io (a : Nat)
  | win (off : Nat)
  deriving DecidableEq, Repr

/-- The target of a canonical address (R112, R113, R115, R145). -/
def State.busTgt (s : State) (a : Nat) : BusTgt :=
  match dramDie a with
  | some d => .dram d a
  | none =>
    if 0x10000000000 ≤ a ∧ a < 0x20000000000 then
      let u : UnitId := BitVec.ofNat 16 (a / 0x1000000)
      if uValid u = true ∧ a % 0x1000000 < sramSize u ∧ s.isAbsent u = false then .sram u (a % 0x1000000) else .nowhere
    else match winUnit a with
    | some u => .reg u a
    | none =>
      if 0x021000000000 ≤ a ∧ a < 0x021001000000 then .io a
      else if 0x022000000000 ≤ a ∧ a < 0x022000010000 then .win (a % 0x10000)
      else .nowhere

/-- The die a target is on; the package's pages are on the I/O die (R145). -/
def BusTgt.die : BusTgt → Nat
  | .nowhere => 0
  | .dram d _ => d
  | .sram u _ => uDie u
  | .reg u _ => if uLevel u = 4 then 2 else uDie u
  | .io _ => 2
  | .win _ => 3

/-- The firewall instance that guards a target, for a source's Pavilion (R132, R133). -/
def BusTgt.fw (t : BusTgt) (srcPav : Option Nat) : Option Nat :=
  let ofUnit := fun (u : UnitId) =>
    if uLevel u ≤ 2 then (if srcPav = some (pavIx u) then none else some (2 + pavIx u))
    else if uLevel u = 3 then some (uDie u) else some 10
  match t with
  | .nowhere => none
  | .dram d _ => some d
  | .sram u _ => ofUnit u
  | .reg u _ => ofUnit u
  | .io _ => some 10
  | .win _ => none

/-- What one unit's state answers (R375 to R377): 2 while it drains, 3 while it resets, is held or has failed. -/
def State.gateOne (s : State) (u : UnitId) : Nat :=
  let st := s.regF (statAt u) 0 3
  if st = stDraining then 2 else if st = stResetting ∨ st = stFaulted then 3 else 0

/-- What a unit and the units that enclose it answer. -/
def State.gate (s : State) (u : UnitId) : Nat := (u :: enclosersOf u).foldl (fun a v => max a (s.gateOne v)) 0

/-- What a target's state answers. Unit control pages take commands in every state; a die's own pages are held at its
Promenade and are used while the die is held (R380), so they answer too. An absent core's window answers (R13). -/
def State.tgtGate (s : State) (t : BusTgt) : Nat :=
  match t with
  | .nowhere => 0
  | .dram d _ => s.gate (dieUid d)
  | .sram u _ => s.gate u
  | .reg u a => if a / 0x1000 % 16 = 0 ∨ 3 ≤ uLevel u ∨ s.isAbsent u = true then 0 else s.gate u
  | .io _ => 0
  | .win _ => 0

/-- Whether a target is registers or the status window (R155). -/
def BusTgt.isReg : BusTgt → Bool
  | .reg _ _ => true
  | .io _ => true
  | .win _ => true
  | _ => false

/-- The fabric page of a die; the Gatehouse has none. -/
def fabPage (d : Nat) : Nat := if d < 2 then uPage (dieUid d) 1 else ioPage 0x002

/-- What answers a request of n bytes on its way (R135, R145, R149, R155): 0 where it is performed. A die that a thermal trip has
stopped answers nothing, so the source's TIMEOUT stands there (R151, R401). -/
def State.busCheck (s : State) (src : BusSrc) (t : BusTgt) (a n : Nat) (write spec : Bool) : Nat × State :=
  if spec && t.isReg then (7, s.count (fabPage src.die + 0x068))
  else
    let no := fun (st : Nat) (s : State) => (if spec then 7 else st, s)
    match t with
    | .nowhere => no 5 s
    | .win _ =>
      if s.pathStatus src.die 3 ≠ 0 then no (s.pathStatus src.die 3) s
      else if write ∨ src.dom = 0 then no 4 s else (0, s)
    | _ =>
      if s.pathStatus src.die t.die ≠ 0 then no (s.pathStatus src.die t.die) s
      else if t.die < 2 ∧ s.tripped t.die = true then no 8 s
      else
        let ok := match t.fw src.pav with | some i => s.fwOk i src.dom write a n | none => true
        if !ok then no 4 (match t.fw src.pav with | some i => s.fwRefuse i src.dom src.unit write spec a | none => s)
        else if s.tgtGate t ≠ 0 then no (s.tgtGate t) s
        else (0, s)

/-! ### At the target -/

/-- Lines of 64 bytes that n bytes from an address touch. -/
def linesOf (a n : Nat) : Nat := if n = 0 then 0 else (a + n - 1) / 64 - a / 64 + 1

/-- n words read from a word address of a unit's SRAM. -/
def State.sramReadWords (s : State) (u : UnitId) : Nat → Nat → List (Option W32) × State
  | _, 0 => ([], s)
  | off, n + 1 =>
    let (w, t) := s.anyReadW u off
    let (ws, t') := State.sramReadWords t u (off + 4) n
    (w :: ws, t')

/-- n words read at a memory target; none for poison. -/
def State.memRead (s : State) (t : BusTgt) (n : Nat) : List (Option W32) × State :=
  match t with
  | .dram d a =>
    let base := a / 8 * 8
    let (ws, u) := s.dramReadDs d false base ((a + 4 * n + 7) / 8 - a / 8)
    ((ws.drop ((a - base) / 4)).take n, u.countWrap (mcPage d + 0x06C) (linesOf a (4 * n)))
  | .sram u off => s.sramReadWords u off n
  | _ => ([], s)

/-- Words written to a unit's SRAM under byte enables. -/
def State.sramWriteWords (s : State) (u : UnitId) : Nat → List (Option W32) → Nat → State
  | _, [], _ => s
  | off, w :: r, be =>
    State.sramWriteWords (s.sramWriteW u off w (be % 16)) u (off + 4) r (be >>> 4)

/-- Words written at a memory target under byte enables; whether the write is acknowledged with poison (R126, R149). -/
def State.memWrite (s : State) (t : BusTgt) (ws : List (Option W32)) (be : Nat) : Bool × State :=
  match t with
  | .dram d a =>
    let lead := a % 8 / 4
    let (p, u) := s.dramWriteDs d (a / 8 * 8) (List.replicate lead (some 0) ++ ws) (be <<< (4 * lead))
    (p, u.countWrap (mcPage d + 0x070) (linesOf a (4 * ws.length)))
  | .sram u off =>
    (ws.zipIdx.any (fun e => e.1.isNone && decide (be >>> (4 * e.2) % 16 ≠ 0)), s.sramWriteWords u off ws be)
  | _ => (false, s)

/-! ### Whole transfers -/

/-- FAB_RETRY_100NS in ticks (R150). -/
def State.retryTicks (s : State) (die : Nat) : Tick := 50 * s.regF (fabPage die + 0x048) 0 8

/-- FAB_RESP_TO in ticks at a die: its reset value at the Gatehouse, which has no fabric page (R151, R168). -/
def State.respTo (s : State) (die : Nat) : Tick :=
  if die = 3 then 500 * fld (regReset (fabPage 2 + 0x044)) 0 14 else 500 * s.regF (fabPage die + 0x044) 0 14

/-- What a request's end leaves at its source's die, its reissue done (R150, R151): TARGET_DRAINING has been reissued until FAB_RESP_TO
had passed, and TIMEOUT is counted and raised. -/
def State.ended (s : State) (die st : Nat) : State :=
  if 3 ≤ die then s
  else if st = 2 then s.countN (fabPage die + 0x058) (s.respTo die / max 1 (s.retryTicks die))
  else if st = 8 then (s.count (fabPage die + 0x050)).setErr (fabPage die) 2
  else s

/-- A read of n words from a word address within one block: its status and words. -/
def State.fetchW (s : State) (src : BusSrc) (a n : Nat) (spec : Bool) : Nat × List (Option W32) × State :=
  let c := canonical a
  let t := s.busTgt c
  let (st, s) := s.busCheck src t c (4 * n) false spec
  if st ≠ 0 then (st, List.replicate n none, s)
  else if t.isReg then (5, List.replicate n none, s)
  else
    let (ws, s) := s.memRead t n
    (if ws.any Option.isNone then 1 else 0, ws, s)

/-- A write of words from a word address within one block under byte enables: its status. -/
def State.storeW (s : State) (src : BusSrc) (a : Nat) (ws : List (Option W32)) (be : Nat) : Nat × State :=
  let c := canonical a
  let t := s.busTgt c
  let (st, s) := s.busCheck src t c (4 * ws.length) true false
  if st ≠ 0 then (st, s)
  else if t.isReg then (5, s)
  else
    let (p, s) := s.memWrite t ws be
    (b2n p, s)

/-- The bytes of words; those of poison are none. -/
def wordBytes (ws : List (Option W32)) : List (Option Byte) :=
  ws.flatMap (fun w => match w with | some v => (bytesLE 4 v.toNat).map some | none => List.replicate 4 none)

/-- A read of n bytes from any address, split at 256-byte blocks (R147): the highest status, and the bytes, none for poison (R125). -/
def State.fetchP (s : State) (src : BusSrc) (fuel a n : Nat) : Nat × List (Option Byte) × State :=
  match fuel with
  | 0 => (0, [], s)
  | f + 1 =>
    if n = 0 then (0, [], s)
    else
      let m := min n (256 - a % 256)
      let base := a / 4 * 4
      let (st, ws, s) := s.fetchW src base ((a + m + 3) / 4 - a / 4) false
      let (st', bs', s) := State.fetchP (s.ended src.die st) src f (a + m) (n - m)
      (max st st', ((wordBytes ws).drop (a - base)).take m ++ bs', s)

/-- Words of bytes from an address with their byte enables, the enables of word 0 lowest: a word with a poisoned byte is poison. -/
def wordsOfP (a : Nat) (bs : List (Option Byte)) : List (Option W32) × Nat :=
  let lead := a % 4
  let all := List.replicate lead (some (0 : Byte)) ++ bs
  let n := (all.length + 3) / 4
  ((List.range n).map (fun i =>
    let x := (all.drop (4 * i)).take 4
    if x.any Option.isNone then none else some (w32 (ofBytesLE (x.map (fun b => b.getD 0))))), (2 ^ bs.length - 1) <<< lead)
def wordsOf (a : Nat) (bs : List Byte) : List (Option W32) × Nat := wordsOfP a (bs.map some)

/-- A write of bytes to any address, split at 256-byte blocks: the highest status. -/
def State.storeP (s : State) (src : BusSrc) (fuel a : Nat) (bs : List (Option Byte)) : Nat × State :=
  match fuel with
  | 0 => (0, s)
  | f + 1 =>
    if bs.isEmpty then (0, s)
    else
      let m := min bs.length (256 - a % 256)
      let (ws, be) := wordsOfP a (bs.take m)
      let (st, s) := s.storeW src (a / 4 * 4) ws be
      let (st', s) := State.storeP (s.ended src.die st) src f (a + m) (bs.drop m)
      (max st st', s)

/-- The fuel that a transfer of n bytes takes. -/
def blocksOf (n : Nat) : Nat := n / 256 + 2

def State.readP (s : State) (src : BusSrc) (a n : Nat) : Nat × List (Option Byte) × State := s.fetchP src (blocksOf n) a n
def State.writeP (s : State) (src : BusSrc) (a : Nat) (bs : List (Option Byte)) : Nat × State := s.storeP src (blocksOf bs.length) a bs

/-- Bytes read, 0 where a word is poison, which the status shows. -/
def State.readB (s : State) (src : BusSrc) (a n : Nat) : Nat × List Byte × State :=
  let (st, bs, t) := s.readP src a n
  (st, bs.map (fun b => b.getD 0), t)
def State.writeB (s : State) (src : BusSrc) (a : Nat) (bs : List Byte) : Nat × State := s.writeP src a (bs.map some)

/-- The source of Gatehouse fetches and writes (R130, R187, R192). -/
def ghSrc : BusSrc := ⟨3, domGh, 0xFFFF#16, none⟩
/-- The Groundskeeper, on the I/O die. -/
def gkSrc : BusSrc := ⟨2, domGk, 0xFFFF#16, none⟩
/-- The run-plan block, on the I/O die: under 0x001, as its messages are (R133). -/
def rpSrc : BusSrc := gkSrc
/-- The sequencer of Pavilion p, under its Pavilion's domain (R130). -/
def State.seqSrc (s : State) (p : Nat) : BusSrc := ⟨p / 4, s.domainOf (pavUid p), pavUid p, some p⟩
/-- The receive paths of the I/O die. -/
def rxSrc : BusSrc := ⟨2, domRx, 0xFFFF#16, none⟩

end Sys2Proof.Machine
end

