-- ==== Sys2Proof/Machine/Time.lean ====
section
/-! DEFINITION. The Bandstand (R303 to R333): presented time, domains, steering, replicas, capture, PPS, and how a trigger
entry stands to its target. -/

namespace Sys2Proof.Machine

def bsPage : Nat := ghPage 0x12
def bsCtrlA : Nat := bsPage + 0x058
def bsStatA : Nat := bsPage + 0x060

/-! ### Presented time (R306) -/

/-- One second in units of 2^-16 ns. -/
def secUnits : Nat := 65536000000000

/-- A time in units of 2^-16 ns from registers of fraction, nanoseconds and seconds. -/
def State.timeAt (s : State) (a : Nat) : Nat :=
  ((s.reg (a + 8)).toNat + 2 ^ 32 * (s.reg (a + 12)).toNat) * secUnits + (s.reg (a + 4)).toNat * 65536 + s.regF a 0 16

/-- Those registers given a time; seconds are kept to 64 bits. -/
def State.setTimeAt (s : State) (a p : Nat) : State :=
  let sec := p / secUnits
  let r := p % secUnits
  (((s.setReg a (w32 (r % 65536))).setReg (a + 4) (w32 (r / 65536))).setReg (a + 8) (w32 (nfld sec 0 32))).setReg (a + 12)
    (w32 (nfld sec 32 32))

/-- A 64-bit value from two registers. -/
def State.reg64 (s : State) (lo : Nat) : Nat := (s.reg lo).toNat + 2 ^ 32 * (s.reg (lo + 4)).toNat
def State.setReg64 (s : State) (lo v : Nat) : State := (s.setReg lo (w32 (nfld v 0 32))).setReg (lo + 4) (w32 (nfld v 32 32))

def State.bsRate (s : State) : Nat := (s.reg (bsPage + 0x064)).toNat + 2 ^ 32 * s.regF (bsPage + 0x068) 0 8
def State.bsAnchor (s : State) : Nat := s.reg64 (bsPage + 0x06C)
def State.bsOffset (s : State) : Nat := s.timeAt (bsPage + 0x074)

/-- A time line at a tick (R306, R311): offset, anchor and rate. -/
def lineAt (off anchor rate f : Nat) : Nat := off + (f + 2 ^ 64 - anchor) % 2 ^ 64 * rate / 65536

/-- Presented time at a tick. -/
def State.ptAt (s : State) (f : Tick) : Nat := lineAt s.bsOffset s.bsAnchor s.bsRate f
/-- Presented time now. -/
def State.pt (s : State) : Nat := s.ptAt s.frc

/-- The parameters of presented time given values. -/
def State.setBase (s : State) (off anchor rate : Nat) : State :=
  let t := (s.setReg (bsPage + 0x064) (w32 (nfld rate 0 32))).setReg (bsPage + 0x068) (w32 (nfld rate 32 8))
  (t.setReg64 (bsPage + 0x06C) anchor).setTimeAt (bsPage + 0x074) off

/-- A re-base (R307): presented time is continuous, and only the rate changes. -/
def State.rebase (s : State) (rate : Nat) : State := s.setBase s.pt (s.frc % 2 ^ 64) rate

/-! ### Domains (R311, R312) -/

def domPage (d : Nat) : Nat := bsPage + 0x100 + 0x40 * d
def State.domEn (s : State) (d : Nat) : Bool := bit (s.reg (domPage d)) 8
def State.domValid (s : State) (d : Nat) : Bool := bit (s.reg (domPage d + 4)) 0
def State.domIsStale (s : State) (d : Nat) : Bool := bit (s.reg (domPage d + 4)) 1
def State.domRate (s : State) (d : Nat) : Nat := (s.reg (domPage d + 0x20)).toNat + 2 ^ 32 * s.regF (domPage d + 0x24) 0 8
/-- T_d at a tick. -/
def State.domAt (s : State) (d : Nat) (f : Tick) : Nat :=
  lineAt (s.timeAt (domPage d + 0x10)) (s.reg64 (domPage d + 8)) (s.domRate d) f

/-- BS_CTRL.DOMAIN_SEL and SLEW_PPM. -/
def State.domSel (s : State) : Nat := s.regF bsCtrlA 0 2
def State.slew (s : State) : Nat := s.regF bsCtrlA 16 8
/-- The domain in force (BS_STAT [4:3]). -/
def State.domForce (s : State) : Nat := s.regF bsStatA 3 2

/-- Nominal RATE. -/
def rateNom : Nat := 2 ^ 33

/-- A record of the ring (R312): its fields where its bytes check and it may be accepted. The first record of a slot may bear any SEQ,
and one of a slot that is not enabled is dropped. -/
def State.domRecord (s : State) (bs : List Byte) : Option (Nat × DomRec) :=
  let w := fun i n => ofBytesLE ((bs.drop i).take n)
  let d := nfld (w 4 4) 0 1
  let rate := nfld (w 32 8) 0 40
  let ns := w 20 4
  let anchor := w 8 8
  let seq := w 0 4
  if w 44 4 = (crc32cFold (seq * 2 ^ 32 + d) (bs.take 44)).toNat
      ∧ (Tab.get 0 s.bs.domAt d = 0 ∨ (s.reg (domPage d + 0x2C)).toNat < seq) ∧ s.domEn d = true ∧ rateNom * 999500 ≤ rate * 1000000 ∧ rate * 1000000 ≤ rateNom * 1000500
      ∧ ns < 1000000000 ∧ anchor ≤ s.frc ∧ s.frc ≤ anchor + 125000000 then
    some (d, ⟨anchor, w 24 8 * secUnits + ns * 65536 + nfld (w 16 4) 0 16, rate, w32 seq, nbit (w 4 4) 1, s.frc⟩)
  else none

/-- A record judged: an accepted one waits for its commit, others are counted. Records of all zeros, as an empty place of the
ring holds, fail their check like any other. -/
def State.takeRecord (s : State) (bs : List Byte) : State :=
  match s.domRecord bs with
  | none => s.count (bsPage + 0x0B0)
  | some (d, r) =>
    let t := (s.setReg (domPage d + 0x2C) r.seq).setReg (domPage d + 4)
      (setFld (setBit (setFld (s.reg (domPage d + 4)) 0 2 1) 2 r.jump) 16 16 0)
    { t with bs := { t.bs with dom := Tab.set none t.bs.dom d (some r), domAt := Tab.set 0 t.bs.domAt d t.frc } }

/-- BS_Dd_CFG written (R311, R312): the slots hold different domainNumbers while both are enabled, and a disabled slot is not VALID. -/
def domCfgWrite (d : Nat) (v : W32) (s : State) : State :=
  let o := s.reg (domPage (1 - d))
  if bit v 8 && bit o 8 && decide (fld v 0 7 = fld o 0 7) then s
  else
    let t := s.setReg (domPage d) (v &&& 0x17F#32)
    if bit v 8 then t else t.setRegF (domPage d + 4) 0 1 0

/-- The ring of domain records (BS_TREC_BASE). -/
def State.trecBase (s : State) : Nat := (s.reg (bsPage + 0x0A0)).toNat + 2 ^ 32 * s.regF (bsPage + 0x0A4) 0 16
/-- The records of a ring that has been read, judged in order. -/
def takeRing (x : Nat × List Byte × State) : State :=
  (List.range 64).foldl (fun t i => t.takeRecord ((x.2.1.drop (48 * i)).take 48)) { x.2.2 with bs := { x.2.2.bs with fetch := false } }
/-- DOMAIN_RECORD_FETCH (R312): at a verdict instant, once AREAS has been accepted (R188), the ring is read and its records
judged in order. -/
def domainFetch (s : State) : State :=
  if s.bs.fetch && s.areasOk then takeRing (s.readB ghSrc s.trecBase 3072) else s
def execDomainRecordFetch (s : State) : Out := .next (domainFetch s)

/-- DOMAIN_STALE (R312): no accepted record for HOLD_MS. -/
def domainStale (d : Nat) (s : State) : State :=
  if s.domValid d && decide (Tab.get 0 s.bs.domAt d + 500000 * s.regF (bsPage + 0x05C) 16 16 ≤ s.frc) then
    s.setRegF (domPage d + 4) 1 1 1
  else s
def execDomainStale (d : Nat) (s : State) : Out := onUnit (decide (d < 2)) (domainStale d s)

/-- DOMAIN_SELECT_WRITE (R314): BS_CTRL; the selection takes effect at the next steering tick. -/
def domainSelect (w : Writer) (v : W32) (s : State) : State :=
  if w = .pair ∧ fld v 0 2 ≠ 3 ∧ 1 ≤ fld v 16 8 ∧ fld v 16 8 ≤ 200 then s.setReg bsCtrlA (v &&& 0xFF0003#32) else s
def execDomainSelectWrite (w : Writer) (v : W32) (s : State) : Out := .next (domainSelect w v s)

/-! ### Commits (R308 to R310) -/

def State.stepAvail (s : State) : Bool := bit (s.reg bsStatA) 0

/-- Whether a commit of a kind may be requested: 1 RATE, 2 STEP_VALUE, 3 STEP_DOMAIN (R309, R310). -/
def State.commitOk (s : State) (kind : Nat) : Bool :=
  if kind = 1 then decide (s.domSel = 2)
  else if kind = 2 then s.stepAvail && decide ((s.reg (bsPage + 0x090)).toNat < 1000000000)
  else s.stepAvail && decide (s.domSel < 2) && s.domValid s.domSel

/-- BS_COMMIT written: ignored while one is pending (R308). -/
def commitWrite (kind : Nat) (w : Writer) (s : State) : State :=
  if w = .pair ∧ s.bs.commit = none ∧ s.commitOk kind = true then
    { s.setRegF bsStatA 1 1 1 with bs := { s.bs with commit := some (kind, s.frc) } }
  else s
def execCommitRate (w : Writer) (s : State) : Out := .next (commitWrite 1 w s)
def execCommitStepValue (w : Writer) (s : State) : Out := .next (commitWrite 2 w s)
def execCommitStepDomain (w : Writer) (s : State) : Out := .next (commitWrite 3 w s)

/-- The second marker after a tick. -/
def secondMarker (t : Tick) : Tick := (t / 1024 + 2) * 1024

/-- BS_NEXT_RATE within nominal × (1 ± SLEW_PPM), and whether the clamp acted (R310). -/
def State.clampRate (s : State) : Nat × Bool :=
  let r := (s.reg (bsPage + 0x084)).toNat + 2 ^ 32 * s.regF (bsPage + 0x088) 0 8
  let hi := rateNom * (1000000 + s.slew) / 1000000
  let lo := (rateNom * (1000000 - s.slew) + 999999) / 1000000
  (max lo (min hi r), decide (r < lo) || decide (hi < r))

/-- A step of presented time (R309): the step right is spent; a backward step's next pulse is at the next whole second (R330). -/
def State.stepTo (s : State) (p rate : Nat) : State :=
  let t := s.setBase p (s.frc % 2 ^ 64) rate
  let t := (t.setRegF bsStatA 0 1 0).setRegF bsStatA 6 1 1
  if p < s.pt then { t with bs := { t.bs with ppsSec := (p - 1) / secUnits } } else t

/-- The domain records that a marker commits (R308, R312). -/
def State.commitDomain (s : State) (d : Nat) : State :=
  match Tab.get none s.bs.dom d with
  | some r =>
    if secondMarker r.at_ ≤ s.frc then
      let t := (s.setReg64 (domPage d + 8) r.anchor).setTimeAt (domPage d + 0x10) r.off
      let t := (t.setReg (domPage d + 0x20) (w32 (nfld r.rate 0 32))).setReg (domPage d + 0x24) (w32 (nfld r.rate 32 8))
      { t with bs := { t.bs with dom := Tab.set none t.bs.dom d none } }
    else s
  | none => s

/-- The presented-time commit that a marker makes (R308 to R310). -/
def State.commitTime (s : State) : State :=
  match s.bs.commit with
  | none => s
  | some (kind, t0) =>
    if s.frc < secondMarker t0 then s
    else
      let t := { s.setRegF bsStatA 1 1 0 with bs := { s.bs with commit := none } }
      if !s.commitOk kind then t
      else if kind = 1 then
        let (r, c) := s.clampRate
        (t.rebase r).setRegF bsStatA 2 1 (b2n c)
      else if kind = 2 then t.stepTo (s.timeAt (bsPage + 0x08C)) s.bsRate
      else t.stepTo (s.domAt s.domSel s.frc) (s.domRate s.domSel)

/-- The commits that are due at this tick, where it is a marker: domain records before presented time (R308). -/
def State.commitsDue (s : State) : State :=
  if s.frc % 1024 = 0 then ((s.commitDomain 0).commitDomain 1).commitTime else s

/-! ### Steering (R313) -/

/-- Nearest integer of a quotient. -/
def roundDiv (n d : Nat) : Nat := (2 * n + d) / (2 * d)

/-- RATE toward a domain: DRATE × (1 + c), c = e / 134,217,728 ns within ± SLEW_PPM, and whether the clamp acted. -/
def steerRate (drate slew : Nat) (e : Int) : Nat × Bool :=
  let den := 134217728 * 65536
  if slew * den < 1000000 * e.natAbs then
    (roundDiv (drate * (if 0 ≤ e then 1000000 + slew else 1000000 - slew)) 1000000, true)
  else (roundDiv (if 0 ≤ e then drate * (den + e.natAbs) else drate * (den - e.natAbs)) den, false)

/-- A signed number saturated to 32 bits. -/
def sat32 (x : Int) : W32 :=
  BitVec.ofInt 32 (max (-2147483648) (min 2147483647 x))

/-- T_d − P of a slot, in units of 2⁻¹⁶ ns (R313). -/
def State.slotErr (s : State) (d : Nat) : Int := (s.domAt d s.frc : Int) - (s.pt : Int)
/-- RATE steered toward a slot that is VALID and not STALE (R313). -/
def State.steerTo (s : State) (d : Nat) : State :=
  let rc := steerRate (s.domRate d) s.slew (s.slotErr d)
  ((s.rebase rc.1).setRegF bsStatA 2 1 (b2n rc.2)).setRegF bsStatA 5 1
    (b2n (decide ((s.slotErr d).natAbs ≤ s.regF (bsPage + 0x05C) 0 16 * 65536)))
/-- BS_Dd_ERR of each VALID slot, as the tick found it (R313). -/
def State.showErr (s t : State) (k : Nat) : State :=
  if s.domValid k then t.setReg (domPage k + 0x28) (sat32 (s.slotErr k / 65536)) else t
/-! ### Snapshots (R305, R333) -/

/-- Meaning of FRC_SNAPSHOT (R305). -/
def frcSnapshot (s : State) : State :=
  (s.setReg64 (bsPage + 0x040) (s.frc % 2 ^ 64)).setTimeAt (bsPage + 0x048) s.pt
def execFrcSnapshot (s : State) : Out := .next (frcSnapshot s)

/-- The page of replica r: 0 the I/O die's, 1 and 2 those of dies 0 and 1 (R331). -/
def repPage (r : Nat) : Nat := if r = 0 then ioPage 0x006 else uPage (dieUid (r - 1)) 7
def State.rep (s : State) (r : Nat) : RepSt := Tab.get RepSt.init s.bs.reps r
def State.setRep (s : State) (r : Nat) (x : RepSt) : State := { s with bs := { s.bs with reps := Tab.set RepSt.init s.bs.reps r x } }
def State.repLocked (s : State) (r : Nat) : Bool := bit (s.reg (repPage r + 0x058)) 0

/-- A replica's count. Until the first sync word the replica has taken no value, and what it counts is open. -/
def State.repCount (s : State) (r : Nat) : Nat × State :=
  if s.repLocked r ∨ (s.rep r).word.isSome then (((s.frc : Int) + (s.rep r).off).toNat % 2 ^ 64, s)
  else
    let (lo, s) := s.draw
    let (hi, s) := s.draw
    (lo.toNat + 2 ^ 32 * hi.toNat, s)

/-- Meaning of REPLICA_SNAPSHOT (R333): the replica's count, with presented and domain time at it. -/
def replicaSnapshot (r : Nat) (s : State) : State :=
  let p := repPage r
  let (v, s) := s.repCount r
  let d := s.regF (p + 0x05C) 0 1
  let t := (s.setReg64 (p + 0x040) v).setTimeAt (p + 0x048) (s.ptAt v)
  t.setTimeAt (p + 0x060) (if s.domValid d then s.domAt d v else 0)
def execReplicaSnapshot (r : Nat) (s : State) : Out := onUnit (decide (r < 3)) (replicaSnapshot r s)

/-! ### Replicas (R315, R316) -/

/-- Meaning of SYNC_WORD (R315): the first word after the die's reset, or after a loss, locks the replica; later ones correct it by
one tick at most. Its error within ± 2 ticks is open. -/
def syncWord (r : Nat) (s : State) : State :=
  match s.bs.marker with
  | none => s
  | some m =>
    let x := s.rep r
    let fresh := match x.word with | some w => decide (w < m) | none => true
    if !fresh then s
    else
      let a := repPage r + 0x058
      let (n, s) := s.drawNat
      let off : Int := (n % 5 : Nat) - 2
      let cor : Int := if s.repLocked r then (if 0 < x.off then -1 else if x.off < 0 then 1 else 0) else 0
      let v := setFld (setFld (setFld (s.reg a) 0 2 1) 8 8 (ibits 8 cor)) 16 2 s.domForce
      (s.setRep r { x with off := off, word := some m }).setReg a v
def execSyncWord (r : Nat) (s : State) : Out := onUnit (decide (r < 3)) (syncWord r s)

/-- Meaning of REPLICA_SYNC_LOSS (R315): 8 words missing set NOSYNC; the replica runs on and stays LOCKED. -/
def replicaLoss (r : Nat) (s : State) : State :=
  match (s.rep r).word with
  | none => s
  | some w => if w + 8192 ≤ s.frc then s.setRegF (repPage r + 0x058) 1 1 1 else s
def execReplicaSyncLoss (r : Nat) (s : State) : Out := onUnit (decide (r < 3)) (replicaLoss r s)

/-- A replica's agreement changes (R316). -/
def State.setAgree (s : State) (r : Nat) (v : Bool) : State :=
  let a := bsPage + 0x0C0 + 4 * r
  let t := s.setReg a (setFld (setBit (s.reg a) 8 v) 16 16 0)
  (if v then t else t.count (bsPage + 0x0B4)).evidence (.time r v)

/-- One replica's echo at a marker (R316). -/
def State.echo (s : State) (r : Nat) (e : Option Int) : State :=
  let a := bsPage + 0x0C0 + 4 * r
  let x := s.rep r
  let agree := bit (s.reg a) 8
  let s := s.setRegF a 16 16 (satN 16 (s.regF a 16 16 + 1))
  match e with
  | none =>
    let s := (s.setRep r { x with missed := x.missed + 1, good := 0 }).setRegF a 9 1 (b2n (decide (8 ≤ x.missed + 1)))
    if agree && decide (8 ≤ x.missed + 1) then s.setAgree r false else s
  | some e =>
    let bad := if 4 < e.natAbs then x.bad + 1 else 0
    let good := if e.natAbs ≤ 2 then x.good + 1 else 0
    let s := (s.setRegF a 0 8 (ibits 8 (max (-128) (min 127 e)))).setRegF a 9 1 0
    let s := s.setRep r { x with bad := bad, missed := 0, good := if agree then 0 else good }
    if agree then (if 3 ≤ bad then s.setAgree r false else s) else (if 64 ≤ good then s.setAgree r true else s)

/-! ### Trigger entries (R321 to R325) -/

def State.trig (s : State) (e : Nat) : Trig := Tab.get Trig.init s.bs.trig e
def State.setTrig (s : State) (e : Nat) (x : Trig) : State := { s with bs := { s.bs with trig := Tab.set Trig.init s.bs.trig e x } }
def trigAt (e : Nat) : Nat := bsPage + 0x400 + 0x20 * e

/-- The time line an entry is judged on, now. -/
def State.trigNow (s : State) (x : Trig) : Nat := if x.presented then s.pt else s.frc

/-- Whether an entry has reached its target (R322). -/
def State.trigReached (s : State) (x : Trig) : Bool := x.armed && decide (x.target ≤ s.trigNow x)

/-- By how many ticks an entry is past (R324): none where it is not. -/
def State.trigPast (s : State) (x : Trig) : Option Nat :=
  if !x.armed then none
  else if x.presented then
    (if x.target + 2 * 65536 < s.pt then some ((s.pt - x.target) / 131072) else none)
  else if x.target < s.frc then some (s.frc - x.target) else none

/-- The first target of a series strictly after a time. -/
def nextTarget (target period now : Nat) : Nat :=
  if now < target then target else target + ((now - target) / period + 1) * period

/-- The entry after a firing or discard (R324): disarmed, or set to its next target. -/
def State.trigAfter (s : State) (e : Nat) : State :=
  let x := s.trig e
  if x.period = 0 then (s.setTrig e { x with armed := false, held := none }).setRegF (trigAt e) 0 1 0 |>.setRegF (trigAt e + 0x18) 0 1 0
  else s.setTrig e { x with target := nextTarget x.target x.period (s.trigNow x), held := none }

/-- STAT of a firing (R332): the count advances, and bits 1 to 3 describe it; every firing raises the entry's sources (R321). -/
def State.trigFired (s : State) (e : Nat) (late : Option Nat) : State :=
  let a := trigAt e + 0x18
  let v := setFld (setFld (s.reg a) 1 3 (b2n late.isSome)) 16 16 (s.regF a 16 16 + 1)
  let t := s.setReg a v
  let t := match late with
    | some n => (t.setReg (trigAt e + 0x1C) (w32 (satN 32 n))).count (bsPage + 0x0A8)
    | none => t
  (t.icuPulse 0 (65 + e)).icuPulse 1 (1 + e)

/-- A past target discarded (R324). -/
def State.trigDiscard (s : State) (e : Nat) : State :=
  (((s.setRegF (trigAt e + 0x18) 1 3 2).count (bsPage + 0x0AC))).trigAfter e

/-- The entry that words spell (R332), with its first target. Target seconds above bit 31 are those of presented time. -/
def State.trigOf (s : State) (ctrl arg t0 t1 t2 per : W32) : Trig :=
  let pres := bit ctrl 4
  let target := if pres then
      (t1.toNat + s.pt / secUnits / 2 ^ 32 * 2 ^ 32) * secUnits + t0.toNat * 65536 + fld t2 0 16
    else t0.toNat + 2 ^ 32 * t1.toNat
  let period := if pres then per.toNat * 65536 + fld t2 16 16 else per.toNat
  ⟨bit ctrl 0, fld ctrl 1 3, pres, bit ctrl 5, arg, target, if per = 0 then 0 else period, [ctrl, arg, t0, t1, t2, per], s.frc, none⟩

/-! ### Capture and PPS (R329, R330) -/

/-- Stamps of an input. -/
def State.capList (s : State) (c : Nat) : List (Tick × Bool) := Tab.get [] s.bs.caps c
def State.setCap (s : State) (c : Nat) (l : List (Tick × Bool)) : State :=
  { s.setRegF (bsPage + 0x0E8) c 1 (b2n (!l.isEmpty)) with bs := { s.bs with caps := Tab.set [] s.bs.caps c l } }

/-- Meaning of CAPTURE_EDGE (R329). -/
def captureEdge (c : Nat) (falling : Bool) (at_ : Tick) (s : State) : State :=
  let cfg := s.reg (bsPage + 0x0E0)
  let sel := fld cfg (8 + 2 * c) 2
  if !(bit cfg c && nbit sel (b2n falling)) then s
  else if 4 ≤ (s.capList c).length then s.setRegF (bsPage + 0x0E4) c 1 1
  else (s.setCap c (s.capList c ++ [(at_, falling)])).icuPulse 0 12
def execCaptureEdge (c : Nat) (falling : Bool) (at_ : Tick) (s : State) : Out :=
  onUnit (decide (c < 4)) (captureEdge c falling at_ s)

/-- Meaning of CAPTURE_READ (R329): the oldest stamp is taken. -/
def captureRead (c : Nat) (s : State) : State :=
  match s.capList c with
  | [] => s
  | (t0, f) :: r =>
    ((s.setReg64 (bsPage + 0x180 + 8 * c) (t0 % 2 ^ 64)).setCap c r).setRegF (bsPage + 0x0E8) (16 + c) 1 (b2n f)
def execCaptureRead (c : Nat) (s : State) : Out := onUnit (decide (c < 4)) (captureRead c s)

/-- BS_PPS_CFG written (R330, R331): as PPS is enabled, the next pulse is at the next whole second reached. -/
def ppsCfgWrite (v : W32) (s : State) : State :=
  if fld v 16 10 < 1 ∨ 500 < fld v 16 10 then s
  else
    let t := s.setReg (bsPage + 0x1A0) (v &&& 0x03FF0001#32)
    if bit v 0 && !bit (s.reg (bsPage + 0x1A0)) 0 then { t with bs := { t.bs with ppsSec := (t.pt - 1) / secUnits } } else t

/-- Meaning of PPS_PULSE (R330): presented time has reached a whole second. A pulse keeps the WIDTH of its start. -/
def ppsPulse (s : State) : State :=
  let sec := s.pt / secUnits
  if bit (s.reg (bsPage + 0x1A0)) 0 && decide (s.bs.ppsSec < sec) then
    { s with bs := { s.bs with ppsSec := sec, ppsOn := some (s.bs.ppsOn.getD (s.frc + 500000 * s.regF (bsPage + 0x1A0) 16 10)) } }
  else s
def execPpsPulse (s : State) : Out := .next (ppsPulse s)

/-- Meaning of PPS_PULSE_END (R330). -/
def ppsPulseEnd (s : State) : State :=
  match s.bs.ppsOn with
  | some t1 =>
    if t1 ≤ s.frc then { s with bs := { s.bs with ppsOn := none } } else s
  | none => s
def execPpsPulseEnd (s : State) : Out := .next (ppsPulseEnd s)

end Sys2Proof.Machine
end

