-- ==== Sys2Proof/Machine/Watchdog.lean ====
section
/-! DEFINITION. Watchdogs (R272 to R277, R279): 0 the supervisor, 1 the sequence watchdog, 2 to 5 those of Groundskeeper
cores 0 to 3, 6 to 13 those of Pavilion sequencers 0 to 7. -/

namespace Sys2Proof.Machine

/-- The page of a watchdog. -/
def wdPage (w : Nat) : Nat :=
  if w < 2 then ghPage (0x07 + w) else if w < 6 then ioPage (0x027 + (w - 2)) else uPage (pavUid (w - 6)) 3

/-- Class D (R272). -/
def wdClassD (w : Nat) : Bool := decide (2 ≤ w)

def wdCtrlA (w : Nat) : Nat := wdPage w + 0x040
def wdOpenA (w : Nat) : Nat := wdPage w + 0x044
def wdCloseA (w : Nat) : Nat := wdPage w + 0x048
def wdStatA (w : Nat) : Nat := wdPage w + 0x054

/-- WD_STAT.STATE. -/
def wdOff : Nat := 0
def wdRunning : Nat := 1
def wdFrozen : Nat := 2
def wdBitten : Nat := 3

def causeTimeout : Nat := 1
def causeEarly : Nat := 2
def causeKey : Nat := 3
def causeConfig : Nat := 4

def State.wdState (s : State) (w : Nat) : Nat := s.regF (wdStatA w) 0 2
def State.setWdState (s : State) (w n : Nat) : State := s.setRegF (wdStatA w) 0 2 n

/-- What a watchdog holds beside its registers. -/
def State.wd (s : State) (w : Nat) : WdSt := Tab.get WdSt.init s.wds w
def State.setWd (s : State) (w : Nat) (x : WdSt) : State := { s with wds := Tab.set WdSt.init s.wds w x }

/-- Cycles of the watched clock in a span of ticks of 2 ns: 260 MHz, 500 MHz, 1.2 GHz and 1.0 GHz (R272). -/
def wdCycles (w n : Nat) : Nat :=
  if w = 0 then n * 13 / 25 else if w = 1 then n else if w < 6 then n * 12 / 5 else n * 2

/-- Ticks since the count was 0, as far as they were counted. -/
def State.wdElapsed (s : State) (w : Nat) : Nat :=
  (s.wd w).counted + (if s.wdState w = wdRunning then s.frc - (s.wd w).since else 0)

/-- The count (R274): one step every 2^PRE cycles. -/
def State.wdCount (s : State) (w : Nat) : Nat := wdCycles w (s.wdElapsed w) / 2 ^ s.regF (wdCtrlA w) 0 4

/-- A bite (R277): the count stops, and the cause and the watched processor's program counter are recorded, 0 where none is
watched. The model holds no program counter of these processors, so that value is open. -/
def State.wdBite (s : State) (w cause : Nat) : State :=
  let x := s.wd w
  let t := s.setWd w { x with counted := s.wdElapsed w, biteAt := s.frc, boundary := none, broken := false }
  let t := ((t.setWdState w wdBitten).setRegF (wdStatA w) 4 3 cause).setRegF (wdStatA w) 2 1 0
  let t := if w = 1 then t.setReg (wdPage w + 0x058) 0
    else
      let (pc, t) := t.draw
      t.setReg (wdPage w + 0x058) pc
  t.setErr (wdPage w) 0

/-- The configuration a watchdog started with bites at the first count (R273). -/
def State.wdBadCfg (s : State) (w : Nat) : Bool := (s.wd w).badCfg

/-- Whether a running watchdog's time is over: the count has reached CLOSE, or its first step under a bad configuration. -/
def State.wdDue (s : State) (w : Nat) : Option Nat :=
  if s.wdState w ≠ wdRunning then none
  else if s.wdBadCfg w ∧ 1 ≤ s.wdCount w then some causeConfig
  else if !s.wdBadCfg w ∧ s.regF (wdCloseA w) 0 24 ≤ s.wdCount w then some causeTimeout
  else none

/-- Meaning of WATCHDOG_TIMEOUT (R274). -/
def wdTimeout (w : Nat) (s : State) : State :=
  match s.wdDue w with
  | some c => s.wdBite w c
  | none => s
def execWatchdogTimeout (w : Nat) (s : State) : Out := onUnit (decide (w < 14)) (wdTimeout w s)

/-- An accepted service (R274): the count returns to 0, the time is recorded, and held configuration takes effect (R275). -/
def State.wdAccept (s : State) (w : Nat) : State :=
  let x := s.wd w
  let put := fun (t : State) (a : Nat) (v : Option W32) => match v with | some v => t.setReg a v | none => t
  let t := put (put (put s (wdCtrlA w) x.heldCtrl) (wdOpenA w) x.heldOpen) (wdCloseA w) x.heldClose
  let t := t.setWd w { x with since := s.frc, counted := 0, heldCtrl := none, heldOpen := none, heldClose := none,
                              broken := false }
  let t := (t.setRegF (wdStatA w) 7 1 0).setRegF (wdStatA w) 2 1 0
  let t := (t.setReg (wdPage w + 0x05C) (w32 (nfld s.frc 0 32))).setReg (wdPage w + 0x060) (w32 (nfld s.frc 32 32))
  t.count (wdPage w + 0x068)

/-- A write of WD_KEY (R274), judged at the count then standing. -/
def State.wdKey (s : State) (w : Nat) (v : Nat) : State :=
  if s.wdState w = wdOff ∨ s.wdState w = wdBitten then s
  else match s.wdDue w with
  | some c => s.wdBite w c
  | none =>
    let key1 := bit (s.reg (wdStatA w)) 2
    if !key1 then
      if v = 0x6D2B then (s.setRegF (wdStatA w) 2 1 1).setWd w { s.wd w with broken := false }
      else s.wdBite w causeKey
    else if v ≠ 0x92D4 ∨ (s.wd w).broken = true then s.wdBite w causeKey
    else if s.wdCount w < s.regF (wdOpenA w) 0 24 then s.wdBite w causeEarly
    else s.wdAccept w

/-- Whether a writer is the watched processor (R273): the processor pair, or its boot ROM, for the supervisor, and a core
or sequencer for its own. The sequence watchdog's configuration is the pair's. -/
def wdOwner (x : Writer) (w : Nat) : Bool :=
  if w = 0 then decide (x = .pair) || decide (x = .owner) || decide (x = .rom)
  else if w = 1 then decide (x = .pair)
  else if w < 6 then decide (x = .owner)
  else decide (x = .owner) || decide (x = .seq (w - 6))

/-- Another write has reached a watchdog whose first key is in (R274). -/
def State.wdTouch (s : State) (w : Nat) : State :=
  if bit (s.reg (wdStatA w)) 2 then s.setWd w { s.wd w with broken := true } else s

/-- WD_KEY: the sequence watchdog takes keys from the task sequence monitor only (R273). -/
def wdKeyWrite (x : Writer) (w : Nat) (v : W32) (s : State) : State :=
  if (if w = 1 then decide (x = .tsm) else wdOwner x w) then s.wdKey w (fld v 0 16) else s
def execWdKey (x : Writer) (w : Nat) (v : W32) (s : State) : Out := onUnit (decide (w < 14)) (wdKeyWrite x w v s)

/-- Whether class S configuration is taken while RUNNING (R275): inside the window. -/
def State.wdInWindow (s : State) (w : Nat) : Bool :=
  decide (s.wdState w = wdRunning) && decide (s.regF (wdOpenA w) 0 24 ≤ s.wdCount w)
  && decide (s.wdCount w < s.regF (wdCloseA w) 0 24)

/-- The first write of WD_CTRL starts the watchdog with the values then held (R273). -/
def State.wdStart (s : State) (w : Nat) (v : W32) : State :=
  let t := s.setReg (wdCtrlA w) (v &&& 0xF#32)
  let o := t.regF (wdOpenA w) 0 24
  let c := t.regF (wdCloseA w) 0 24
  let t := t.setWd w { t.wd w with since := s.frc, counted := 0, badCfg := decide (o = 0) || decide (c ≤ o), started := true }
  t.setWdState w wdRunning

/-- WD_CTRL written (R273, R275, R276). -/
def wdCtrlWrite (x : Writer) (w : Nat) (v : W32) (s : State) : State :=
  if !wdOwner x w then s
  else if !(s.wd w).started then (s.wdTouch w).wdStart w v
  else
    let t := s.wdTouch w
    if !wdClassD w && s.wdInWindow w then
      (t.setWd w { t.wd w with heldCtrl := some (v &&& 0xF#32) }).setRegF (wdStatA w) 7 1 1
    else t
def execWdCtrlWrite (x : Writer) (w : Nat) (v : W32) (s : State) : Out := onUnit (decide (w < 14)) (wdCtrlWrite x w v s)

/-- WD_OPEN or WD_CLOSE written (R275, R276): class S at once while OFF and held while RUNNING, class D by its first write. -/
def wdWindowWrite (x : Writer) (w : Nat) (close : Bool) (v : W32) (s : State) : State :=
  let a := if close then wdCloseA w else wdOpenA w
  let v := v &&& 0xFFFFFF#32
  let d := s.wd w
  if !wdOwner x w then s
  else if wdClassD w then
    if (if close then d.wroteClose else d.wroteOpen) then s.wdTouch w
    else
      let t := s.wdTouch w
      (t.setReg a v).setWd w (if close then { t.wd w with wroteClose := true } else { t.wd w with wroteOpen := true })
  else if s.wdState w = wdOff then s.setReg a v
  else if s.wdInWindow w then
    let t := s.wdTouch w
    (t.setWd w (if close then { t.wd w with heldClose := some v } else { t.wd w with heldOpen := some v })).setRegF
      (wdStatA w) 7 1 1
  else s.wdTouch w
def execWdWindowWrite (x : Writer) (w : Nat) (close : Bool) (v : W32) (s : State) : Out :=
  onUnit (decide (w < 14)) (wdWindowWrite x w close v s)

/-- WD_BITE_CLR (R277): the bite record is cleared. -/
def wdBiteClr (x : Writer) (w : Nat) (v : W32) (s : State) : State :=
  if !wdOwner x w then s
  else
    let t := s.wdTouch w
    if bit v 0 then (t.setRegF (wdStatA w) 4 3 0).setReg (wdPage w + 0x058) 0 else t
def execWdBiteClr (x : Writer) (w : Nat) (v : W32) (s : State) : Out := onUnit (decide (w < 14)) (wdBiteClr x w v s)

/-- DEBUG_HALT (R275, R276): a class D watchdog freezes while its core is halted through its own halt request; a halt by
cross-trigger does not freeze it (KL-05). Class S watchdogs never freeze. -/
def debugHalt (w : Nat) (cross : Bool) (s : State) : State :=
  let t := { s with dbgHalted := Tab.set false s.dbgHalted w true }
  if wdClassD w && !cross && decide (s.wdState w = wdRunning) then
    (t.setWd w { s.wd w with counted := s.wdElapsed w }).setWdState w wdFrozen
  else t
def execDebugHalt (w : Nat) (cross : Bool) (s : State) : Out := onUnit (decide (w < 14)) (debugHalt w cross s)

/-- DEBUG_RESUME (R276): counting resumes from the held count. -/
def debugResume (w : Nat) (s : State) : State :=
  let t := { s with dbgHalted := Tab.set false s.dbgHalted w false }
  if s.wdState w = wdFrozen then (t.setWd w { s.wd w with since := s.frc }).setWdState w wdRunning else t
def execDebugResume (w : Nat) (s : State) : Out := onUnit (decide (w < 14)) (debugResume w s)

/-- Reset of a watchdog's domain (R273, R277): OFF, with the bite record kept. -/
def State.wdReset (s : State) (w : Nat) : State :=
  let cause := s.regF (wdStatA w) 4 3
  let pc := s.reg (wdPage w + 0x058)
  let t := s.resetRegs (wdPage w) (wdPage w + 0x1000) (fun _ => false)
  let t := (t.setRegF (wdStatA w) 4 3 cause).setReg (wdPage w + 0x058) pc
  { t with wds := Tab.set WdSt.init t.wds w WdSt.init, dbgHalted := Tab.set false t.dbgHalted w false }

end Sys2Proof.Machine
end

