-- ==== Sys2Proof/Machine/Units.lean ====
section
/-! DEFINITION. Unit commands and resets of the compute dies (R14, R374 to R380, R492), and the cores' boot receivers (R371,
R372). -/

namespace Sys2Proof.Machine

/-! ### What a reset reaches (R63, R378, R469) -/

/-- Whether a cluster, by its number, lies at or below a unit. -/
def cluIn (u : UnitId) (c : Nat) : Bool := uEncl u (mkUid 1 (c / 64) (c / 16 % 4) (c % 16) 0)

/-- Registers of a unit and of those below it back to their reset values, but for BLK_STAT and a sequencer watchdog's page, which
keeps its bite record. -/
def State.resetWindows (s : State) (u : UnitId) (keep : UnitId → Nat → Bool) : State :=
  { s with regs := Tab.keep s.regs (fun k => match winUnit k with
      | some v => !uEncl u v || decide (k % 0x10000 = 0x014) || (decide (uLevel v = 2) && decide (k % 0x10000 / 0x1000 = 3))
                  || keep v (k % 0x10000)
      | none => true),
           once := Tab.keep s.once (fun k => match winUnit k with | some v => !uEncl u v | none => true) }

/-- Memory that a reset of a unit above the cores zeroes: its SRAM and scratchpads, with valid check bits (R378). -/
def memIn (u : UnitId) (k : Nat) : Bool :=
  if spBase 0 ≤ k then cluIn u (k % 0x1000000000000 / spSize / 17)
  else decide (0x10000000000 ≤ k) && decide (k < 0x20000000000) && uEncl u (BitVec.ofNat 16 (k / 0x1000000))

/-- Work items on the cores of a unit are lost; their copies will miss (R98, R110). -/
def State.loseJobs (s : State) (u : UnitId) : State :=
  let mine := fun (e : Nat × Option Job) => uEncl u (BitVec.ofNat 16 e.1)
  let hit := fun (r : Run) (b : Bool) => s.plan.jobs.any (fun e => mine e && (match e.2 with
    | some j => decide (j.bank = r.bank) && decide (j.entry = r.entry) && decide (j.proof = r.proof) && decide (j.seq = r.seq)
                && decide (j.copyB = b)
    | none => false))
  let runs := s.plan.runs.map (fun r =>
    { r with a := { r.a with lost := r.a.lost || hit r false }, b := { r.b with lost := r.b.lost || hit r true } })
  { s with plan := { s.plan with runs := runs, jobs := s.plan.jobs.filter (fun e => !mine e),
                                 req := s.plan.req.filter (fun e => !uEncl u (BitVec.ofNat 16 e.1)) } }

/-- What every reset of a unit has in common: its work items are lost, its messages start again with RESTART (R294), and its
outstanding requests are forgotten (R377). -/
def State.unitGone (s : State) (u : UnitId) : State :=
  let t := s.loseJobs u
  let mine := fun (x : BitVec 16) => uValid x && uEncl u x
  { t with tx := t.tx.filter (fun e => !mine (BitVec.ofNat 16 (e.1 / 65536))),
           reqs := t.reqs.filter (fun e => !(match e.2 with | some r => mine r.pkt.srcUnit | none => false)) }

/-- Reset of one core (R63, R378): the scratchpad below CORE_FW_LIMIT, the limit and the core's domain stay. -/
def State.coreReset (s : State) (u : UnitId) : State :=
  let lim := (s.reg (uPage u 1 + 0x05C)).toNat
  let lo := s.spKey u lim
  let hi := s.spKey u spSize
  let t := (s.unitGone u).resetWindows u (fun _ o => decide (o = 0x105C) || decide (o = 0x0028))
  let t := { t with mem := Tab.clearIn t.mem lo hi, syn := Tab.clearIn t.syn lo hi }
  s.withFalls (t.setCore u { CoreSt.init with cycle := 0 - t.clkCycles u })

/-- The cycle counts of the cores that a group's reset has reset start from 0 (R82): a cluster's one by one, a larger group's with the
clocks of its Pavilions. -/
def State.cyclesZero (s : State) (u : UnitId) : State :=
  if uLevel u = 1 then
    { s with cores := (List.range 17).foldl (fun t i =>
        Tab.set CoreSt.init t (17 * cluIx u + i) { CoreSt.init with cycle := 0 - s.clkCycles u }) s.cores }
  else { s with pavClk := (pavsOf u).foldl (fun t p => Tab.set (0, 0) t (pavIx p) (0, s.frc)) s.pavClk }

/-- Reset of a cluster or Pavilion, or of what a die holds of them. -/
def State.groupReset (s : State) (u : UnitId) : State :=
  let t := (s.unitGone u).resetWindows u (fun _ _ => false)
  let t := { t with
    mem := Tab.keep t.mem (fun k => !memIn u k), syn := Tab.keep t.syn (fun k => !memIn u k),
    cores := Tab.keep t.cores (fun k => !cluIn u (k / 17)), boot := Tab.keep t.boot (fun k => !cluIn u (k / 17)),
    spareFw := Tab.keep t.spareFw (fun c => !cluIn u c),
    sramScrub := Tab.keep t.sramScrub (fun k => !uEncl u (BitVec.ofNat 16 k)),
    fwForce := Tab.keep t.fwForce (fun k => match winUnit k with | some v => !uEncl u v | none => true) }
  let t := (clusOf u).foldl (fun t c => t.setReg (spareMapAt c) (Tab.get 0 t.fusedMap (cluIx c))) (t.cyclesZero u)
  (pavsOf u).foldl (fun t p =>
    let i := 2 + pavIx p
    let t := t.wdReset (6 + pavIx p)
    { t with icuSvc := Tab.clearIn t.icuSvc (1024 * i) (1024 * (i + 1)),
             icuHold := Tab.clearIn t.icuHold (1024 * i) (1024 * (i + 1)) }) t

/-- The open scopes (R422, R425): DEBUG_OPEN is held high while one other than CONSOLE is open. -/
def State.setScopes (s : State) (v : BitVec 4) : State :=
  let dbg := decide (2 ≤ v.toNat)
  let t := { s with sec := { s.sec with scopes := v }, dbgOpen := dbg, scopesAt := if s.dbgOpen && !dbg then s.frc else s.scopesAt }
  if dbg then t.setErr (ghPage 0x14) 0 else t

/-- Scopes closed (R422). -/
def State.closeScopes (s : State) (mask : BitVec 4) : State := s.setScopes (s.sec.scopes &&& ~~~ mask)

/-- A reset of die d closes COMPUTE once both dies have been reset since it opened (R422). -/
def State.dieClosesScope (s : State) (d : Nat) : State :=
  let left := s.sec.diesLeft &&& ~~~ (BitVec.ofNat 2 (2 ^ d))
  let t := { s with sec := { s.sec with diesLeft := left } }
  if left = 0 then t.closeScopes 4 else t

/-- A die's reset ends a thermal trip where it finds the die below 100 °C (R401); sensors read 0.125 °C. -/
def State.dieUntrip (s : State) (d : Nat) : State :=
  let hot := (List.range 42).any (fun i => decide (800 ≤ Tab.get 0 s.pwr.temps (42 * d + i)))
  if hot then s else s.clkSettle.setRegF (ioPage 0x035 + 0x05C + 4 * d) 18 1 0

/-- What a die's reset adds (R378, R379): its link ends and their partners, its replica, its controller's queue of corrected
words, and its concentrator's stream. The stack keeps its contents. -/
def State.dieParts (s : State) (d : Nat) : State :=
  let (a, b, c) := dieEnds d
  let t := ([a, b, c, linkPartner a, linkPartner b, linkPartner c] : List Nat).foldl State.lkResetEnd s
  let t := ((t.setRep (1 + d) { t.rep (1 + d) with word := none, off := 0 }).dieClosesScope d).dieUntrip d
  let src := (idConc d).toNat
  { t with wback := t.wback.filter (fun e => decide (e.1 ≠ d)), tx := t.tx.filter (fun e => decide (e.1 / 65536 ≠ src)),
           vecAt := Tab.set 0 t.vecAt d t.frc }

/-- The reset of a unit, by its level (R378). -/
def State.unitReset (s : State) (u : UnitId) : State :=
  if uLevel u = 0 then (if s.isAbsent u then s else s.withFalls ((s.chkGone u).coreReset u))
  else s.withFalls ((diesOf u).foldl (fun t d => t.dieParts (uDie d)) ((s.chkGone u).groupReset u))

/-- A compute die's rails fall: its logic is reset and its units stand as after power-on, its fuse map is no longer loaded (R446),
and where the stack loses its supply too its contents are as if nothing had been written. -/
def State.diePowerOff (s : State) (d : Nat) (loseDram : Bool) : State :=
  let u := dieUid d
  let t := s.unitReset u
  let t := { t with
    regs := Tab.keep t.regs (fun k => match winUnit k with | some v => !(uEncl u v && decide (k % 0x10000 = 0x014)) | none => true),
    ucmds := t.ucmds.filter (fun e => !uEncl u (BitVec.ofNat 16 e.1)),
    cal := { t.cal with fuses := t.cal.fuses &&& ~~~ (BitVec.ofNat 2 (2 ^ d)) } }
  let t := if loseDram then
      { t with mem := Tab.keep t.mem (fun k => decide (dramDie k ≠ some d)), syn := Tab.keep t.syn (fun k => decide (dramDie k ≠ some d)) }
    else t
  t.setRegF (ioPage 0x030 + 0x040) (9 + d) 1 0

/-! ### Commands (R14, R374 to R377) -/

def cmdReset : Nat := 1
def cmdHold : Nat := 2
def cmdRelease : Nat := 3
def cmdPower : Nat := 4

def State.ucmd (s : State) (u : UnitId) : Option UCmd := Tab.get none s.ucmds u.toNat
def State.setUcmd (s : State) (u : UnitId) (c : Option UCmd) : State := { s with ucmds := Tab.set none s.ucmds u.toNat c }

/-- Units that a command reaches: its own and every present one below (R14). -/
def State.reach (s : State) (u : UnitId) : List UnitId := (unitsOf u).filter (fun v => !s.isAbsent v)

/-- A field of BLK_STAT set on every unit that a command reaches. -/
def State.setStats (s : State) (u : UnitId) (lo n x : Nat) : State :=
  (s.reach u).foldl (fun t v => t.setRegF (statAt v) lo n x) s




/-- Requests of a unit that still await their response. -/
def State.outstanding (s : State) (u : UnitId) : Nat :=
  (s.reqs.filter (fun e => match e.2 with
    | some r => uValid r.pkt.srcUnit && uEncl u r.pkt.srcUnit && decide (r.st ≠ 2)
    | none => false)).length

/-- The reset of a command proceeds (R375): HOLD and POWER_DOWN then hold the unit; RESET initialises it. -/
def State.cmdProceed (s : State) (u : UnitId) (c : UCmd) : State :=
  let t := s.unitReset u
  let t := (t.setStats u 0 3 stResetting).setStats u 16 16 (satN 16 c.absorbed)
  if c.cmd = cmdReset then t.setUcmd u (some { c with phase := 3, since := s.frc })
  else
    let t := t.setStats u 3 1 1
    let t := if c.cmd = cmdPower then t.setStats u 4 1 1 else t
    (t.setStats u 8 8 (c.cmd + 16 * b2n c.absorb)).setUcmd u none

/-- ABSORB begins (R377): the fence closes and the queues are discarded. -/
def State.cmdAbsorb (s : State) (u : UnitId) (c : UCmd) : State :=
  let t := s.setStats u 0 3 stResetting
  let t := (coresOf u).foldl (fun t v =>
    if t.isAbsent v then t else t.setCore v { t.core v with run := false, q := [], vq := [], ra := [], sigQ := [] }) t
  t.setUcmd u (some { c with absorb := true, phase := 2, since := s.frc, absorbed := 0 })

/-- DRAIN begins (R376): CORE_PREEMPT.REQ is set on every core. A core still held stays in reset. -/
def State.cmdDrain (s : State) (u : UnitId) (c : UCmd) : State :=
  let t := (s.reach u).foldl (fun t v => if t.ustate v = stIdle ∨ t.ustate v = stRunning then t.setUstate v stDraining else t) s
  let t := (coresOf u).foldl (fun t v => preemptWrite v 1 t) t
  (t.setStats u 5 1 0).setUcmd u (some { c with absorb := false, phase := 1, since := s.frc })

def State.cmdBegin (s : State) (u : UnitId) (c : UCmd) : State :=
  let t := s.setStats u 5 1 0
  if c.absorb then t.cmdAbsorb u c else t.cmdDrain u c

/-- A release (R375): the unit powers up where it was powered down and initialises. -/
def State.startRelease (s : State) (u : UnitId) : State :=
  let t := ((s.setStats u 3 1 0).setStats u 4 1 0).setStats u 0 3 stResetting
  t.setUcmd u (some ⟨cmdRelease, false, s.frc, 0, 0, 3⟩)

/-- Whether a command of a unit below is in progress. -/
def State.memberBusy (s : State) (u : UnitId) : Bool :=
  s.ucmds.any (fun e => e.2.isSome && decide (e.1 ≠ u.toNat) && uEncl u (BitVec.ofNat 16 e.1))

/-- Members that have completed let a waiting group command begin (R14). -/
def State.cmdWake (s : State) : State :=
  s.ucmds.foldl (fun t e => match e.2 with
    | some c =>
      let u := BitVec.ofNat 16 e.1
      if c.phase = 0 ∧ t.memberBusy u = false then (if c.cmd = cmdRelease then t.startRelease u else t.cmdBegin u c) else t
    | none => t) s

/-- Who may write a unit's BLK_CTRL (R374). -/
def State.unitMay (s : State) (w : Writer) (u : UnitId) : Bool :=
  decide (s.writerDom w = domGk) || decide (s.writerDom w = domGh)
    || (match w with | .seq p => decide (uLevel u = 0) && decide (pavIx u = p) | _ => false)

/-- A write of BLK_CTRL has been made (R473). -/
def State.ctrlTouched (s : State) (page : Nat) : State := { s with once := Tab.set false s.once (page + 0x010) true }

/-- A command written to a unit (R14, R374 to R376). -/
def unitCommand (w : Writer) (u : UnitId) (cmd : Nat) (absorb : Bool) (drainTo : Nat) (s : State) : State :=
  if !s.unitMay w u || s.isAbsent u then s
  else if (enclosersOf u).any (fun v => (s.ucmd v).isSome) then s.setErr (uPage u 0) 0
  else if drainTo < 10 then s
  else
    let ctl := fun (t : State) => (t.setReg (uPage u 0 + 0x010) (w32 (cmd + 16 * b2n absorb + 65536 * drainTo))).ctrlTouched (uPage u 0)
    let c : UCmd := ⟨cmd, absorb, s.frc, 500 * drainTo, 0, 0⟩
    match s.ucmd u with
    | some old =>
      if cmd = cmdRelease then s
      else if old.phase = 1 then
        (if absorb then (ctl s).cmdAbsorb u c else (ctl s).setUcmd u (some { c with phase := 1, since := old.since }))
      else if old.phase = 2 ∧ old.cmd = cmd then s
      else if old.phase = 2 then (ctl s).setUcmd u (some { old with cmd := cmd })
      else if old.phase = 0 then (ctl s).setUcmd u (some c)
      else (ctl s).cmdBegin u c
    | none =>
      if cmd = cmdRelease ∧ s.held u = false then s
      else if s.memberBusy u then (ctl s).setUcmd u (some c)
      else if cmd = cmdRelease then (ctl s).startRelease u
      else (ctl s).cmdBegin u c

def execReset (w : Writer) (u : UnitId) (absorb : Bool) (drainTo : BitVec 16) (s : State) : Out :=
  onUnit (uValid u) (unitCommand w u cmdReset absorb drainTo.toNat s)
def execHold (w : Writer) (u : UnitId) (absorb : Bool) (drainTo : BitVec 16) (s : State) : Out :=
  onUnit (uValid u) (unitCommand w u cmdHold absorb drainTo.toNat s)
def execRelease (w : Writer) (u : UnitId) (s : State) : Out := 
  onUnit (uValid u) (unitCommand w u cmdRelease (bit (s.reg (uPage u 0 + 0x010)) 4) (s.regF (uPage u 0 + 0x010) 16 16) s)
def execPowerDown (w : Writer) (u : UnitId) (absorb : Bool) (drainTo : BitVec 16) (s : State) : Out :=
  onUnit (uValid u) (unitCommand w u cmdPower absorb drainTo.toNat s)

/-- Whether a DRAINING unit is drained (R376): no descriptor on its cores, no request of it outstanding, its sequencers in WFI. -/
def State.drained (s : State) (u : UnitId) : Bool :=
  decide (s.outstanding u = 0) && (coresOf u).all (fun v =>
    let c := s.core v
    s.isAbsent v || ((List.range 6).all (fun i => decide ((c.queue (i + 1)).occ = 0)) && c.vq.isEmpty && (!c.run || c.wfi)))

/-- Meaning of DRAIN_COMPLETE (R376). -/
def drainComplete (u : UnitId) (s : State) : State :=
  match s.ucmd u with
  | some c => if c.phase = 1 ∧ s.drained u = true then (s.cmdProceed u c).cmdWake else s
  | none => s
def execDrainComplete (u : UnitId) (s : State) : Out := onUnit (uValid u) (drainComplete u s)

/-- Meaning of DRAIN_TIMEOUT (R376): the command goes on as ABSORB. -/
def drainTimeout (u : UnitId) (s : State) : State :=
  match s.ucmd u with
  | some c => if c.phase = 1 ∧ c.since + c.drainTo ≤ s.frc then (s.cmdAbsorb u c).setStats u 5 1 1 else s
  | none => s
def execDrainTimeout (u : UnitId) (s : State) : Out := onUnit (uValid u) (drainTimeout u s)

/-- Meaning of ABSORB_COMPLETE (R377): the replies are in, or 4 × FAB_RESP_TO has passed. -/
def absorbComplete (u : UnitId) (s : State) : State :=
  match s.ucmd u with
  | some c =>
    if c.phase = 2 ∧ (s.outstanding u = 0 ∨ c.since + 4 * s.respTo (uDie u) ≤ s.frc) then (s.cmdProceed u c).cmdWake else s
  | none => s

/-- Meaning of UNIT_INIT_COMPLETE (R63, R375): the unit and what lies below it become IDLE, or the unit FAULTED. -/
def unitInitComplete (u : UnitId) (ok : Bool) (s : State) : State :=
  if s.held u || decide (s.ustate u ≠ stResetting) then s
  else
    let go := fun (t : State) =>
      if ok then (t.reach u).foldl (fun t v => if t.held v then t else t.setUstate v stIdle) t else t.setUstate u stFaulted
    match s.ucmd u with
    | some c =>
      if c.phase ≠ 3 then s
      else (((go s).setStats u 8 8 (c.cmd + 16 * b2n c.absorb)).setUcmd u none).cmdWake
    | none => if (enclosersOf u).any (fun v => (s.ucmd v).isSome || s.held v) then s else go s

/-! ### Boot receivers (R371, R372) -/

def bootMail : Nat := 0x3FF80

/-- The CVU's CRC-64 of bytes under a fold word (R285, R287). -/
def crc64Fold (fold : Nat) (bs : List Byte) : Nat := ((bytesLE 8 fold ++ bs).foldl (cvuByte 4) (cvuInit 4)) ^^^ cvuXor 4

/-- A scratchpad word as a receiver reads it (R62): the core's own where it carries a logical core, whose pages count and report it;
an unmapped spare has no pages, and only corrects. -/
def State.bootRead (s : State) (own : Option UnitId) (key off : Nat) : Option W32 × State :=
  match own with
  | some u => s.spReadW u off
  | none =>
    let k := spBase key + off
    let e := ecc32 (s.synAt k)
    if e.bad then (none, s) else if e.corrected then (some (e.fix (s.rawW k)), s.putW k (e.fix (s.rawW k))) else (some (s.rawW k), s)

/-- Consecutive scratchpad bytes of whole words as a receiver reads them; none where a word is uncorrectable. -/
def State.spBytes (s : State) (own : Option UnitId) (key : Nat) : Nat → Nat → Option (List Byte) × State
  | _, 0 => (some [], s)
  | off, n + 1 =>
    let (w, t) := s.bootRead own key off
    let (r, t) := State.spBytes t own key (off + 4) n
    (match w, r with
     | some w, some r => some (bytesLE 4 w.toNat ++ r)
     | _, _ => none, t)

/-- A word of the receiver's mailbox. -/
def State.bootW (s : State) (key o : Nat) : W32 := s.rawW (spBase key + bootMail + o)
def State.setBootW (s : State) (key o : Nat) (v : W32) : State := s.putW (spBase key + bootMail + o) v

/-- MANIFEST (R372), with the core's firmware limit. -/
def State.bootManifest (s : State) (key lim : Nat) : State :=
  let w := s.bootW key 0
  let n := fld w 8 6
  let len := fld w 16 16
  let crc := (s.bootW key 8).toNat + 2 ^ 32 * (s.bootW key 12).toNat
  let t := { s with boot := Tab.set BootRx.init s.boot key ⟨s.bootW key 4, n, len, crc⟩ }
  if lim < 64 * len ∨ n * 4096 < 64 * len ∨ 64 * len ≤ (n - 1) * 4096 ∨ n = 0 ∨ 32 < n then
    (t.setBootW key 0x14 1).setBootW key 0x10 0xFFFFFFFF#32
  else (t.setBootW key 0x14 0).setBootW key 0x10 (w32 (2 ^ n - 1))

/-- SEGMENT (R372). -/
def State.bootSegment (s : State) (own : Option UnitId) (key : Nat) : State :=
  let m := Tab.get BootRx.init s.boot key
  let k := fld (s.bootW key 0) 8 6
  let lo := 4096 * k
  let hi := min (lo + 4096) (64 * m.len)
  if s.bootW key 4 ≠ m.id ∨ m.n ≤ k then s.setBootW key 0x14 (setBit (s.bootW key 0x14) 3 true)
  else
    let (bs, t) := s.spBytes own key lo ((hi - lo) / 4)
    match bs with
    | some bs =>
      if crc32cFold (k + 2 ^ 32 * m.id.toNat) bs = s.bootW key 8 then t.setBootW key 0x10 (setBit (s.bootW key 0x10) k false) else t
    | none => t

/-- CHECK (R372). -/
def State.bootCheck (s : State) (own : Option UnitId) (key : Nat) : State :=
  let m := Tab.get BootRx.init s.boot key
  let (bs, t) := s.spBytes own key 0 (16 * m.len)
  let ok := match bs with
    | some bs => decide (crc64Fold (64 * m.len + 2 ^ 32 * m.id.toNat) bs = m.crc)
    | none => false
  let v := setBit (s.bootW key 0x14) 1 true
  t.setBootW key 0x14 (if !ok || decide (s.bootW key 0x10 ≠ 0) then setBit v 2 true else v)

/-- A receiver acts on the command in its mailbox; reserved commands are ignored. -/
def State.bootAct (s : State) (own : Option UnitId) (key lim : Nat) : State :=
  let cmd := fld (s.bootW key 0) 0 4
  if cmd = 1 then s.bootManifest key lim else if cmd = 2 then s.bootSegment own key else if cmd = 3 then s.bootCheck own key else s

/-- A logical core's receiver acts, where the mailbox holds the command named and the core is IDLE. -/
def bootCommand (cmd : Nat) (u : UnitId) (s : State) : State :=
  let key := s.physKey u
  if decide (s.ustate u = stIdle) && decide (fld (s.bootW key 0) 0 4 = cmd) then
    s.bootAct (some u) key (s.reg (uPage u 1 + 0x05C)).toNat
  else s
def execManifest (u : UnitId) (s : State) : Out := onUnit (coreOk u) (bootCommand 1 u s)
def execSegment (u : UnitId) (s : State) : Out := onUnit (coreOk u) (bootCommand 2 u s)
def execCheck (u : UnitId) (s : State) : Out := onUnit (coreOk u) (bootCommand 3 u s)

end Sys2Proof.Machine
end

