-- ==== Sys2Proof/Machine/Security.lean ====
section
/-! DEFINITION. The Grotto and its requests (R405 to R427), and the TAP's mailbox (R460). -/

namespace Sys2Proof.Machine

def grtPage : Nat := ghPage 0x14
def secPage : Nat := ioPage 0x033

/-- Response status (R418). -/
def rqSignature : Nat := 1
def rqKey : Nat := 2
def rqRollback : Nat := 3
def rqDigest : Nat := 4
def rqFetch : Nat := 5
def rqRate : Nat := 6
def rqState : Nat := 7
def rqSpent : Nat := 8
def rqArg : Nat := 9
def rqBusy : Nat := 10

/-! ### Images (R408, R409) -/

/-- Word i of an image. -/
def imgW (img : List Byte) (i : Nat) : Nat := ofBytesLE ((img.drop (4 * i)).take 4)

/-- EPOCH, signing slot and REVOKE of a header. -/
def hdrEpoch (h : List Byte) : Nat := nfld (imgW h 2) 16 16
def hdrSlot (h : List Byte) : Nat := nfld (imgW h 6) 24 2
def hdrRevoke (h : List Byte) : Nat := nfld (imgW h 6) 0 20

/-- Limit of LENGTH by KIND (R411, R412); the spec states none for kinds 4 to 6 beyond their flash slot (R433). -/
def kindLimit (kind : Nat) : Nat :=
  if kind = 1 then 0x180000 else if kind = 2 then 0x8000 else if kind = 3 then 0x800000 else 0x3000000

/-- The checks of R409 in order: 0, or the reason of the first that fails. `keyOk` answers for a slot and a public key. -/
def imgCheck (role kind : Nat) (keyOk : Nat → List Byte → Bool) (arb : Nat) (img : List Byte) : Nat :=
  let len := imgW img 3
  let tr := 64 + (len + 63) / 64 * 64
  let key := (img.drop tr).take 60
  let sigLen := imgW img 7
  let sig := (img.drop (tr + 64)).take sigLen
  if imgW img 0 ≠ 0x474D4948 ∨ imgW img 1 ≠ role + 256 * kind ∨ nfld (imgW img 6) 20 4 ≠ 0 ∨ nfld (imgW img 6) 26 6 ≠ 0
      ∨ kindLimit kind < len ∨ img.length < tr + 64 + sigLen then rqArg
  else if !keyOk (hdrSlot img) key then rqKey
  else if !hssVerify key (img.take 64) sig then rqSignature
  else if hdrEpoch img < arb then rqRollback
  else if sha256 ((img.drop 64).take len) ≠ (img.drop 32).take 32 then rqDigest
  else 0

/-- Whether a slot of a role is not revoked and holds a key's hash (R405). -/
def State.otpKey (s : State) (role slot : Nat) (key : List Byte) : Bool :=
  !bit s.sec.revoked (4 * role + slot) && decide (sha256 key = Tab.get (List.replicate 32 0) s.sec.keyHash (4 * role + slot))

def State.arbOf (s : State) (role : Nat) : Nat := Tab.get 0 s.sec.arb role

/-! ### Measurements and responses -/

/-- MR i extended with a type and digest (R415). -/
def State.mrExtend (s : State) (i t : Nat) (d : List Byte) : State :=
  let z := List.replicate 32 (0 : Byte)
  { s with sec := { s.sec with mr := Tab.set z s.sec.mr i (sha256 (Tab.get z s.sec.mr i ++ bytesLE 4 t ++ d)) } }

def SecReq.kind (q : SecReq) : Nat := fld (q.words.headD 0) 0 4
def SecReq.arg (q : SecReq) (o : Nat) : W32 := q.words.getD ((o - 0x300) / 4) 0
def SecReq.addr (q : SecReq) : Nat := (q.arg 0x308).toNat + 2 ^ 32 * fld (q.arg 0x30C) 0 16
def SecReq.bytes (q : SecReq) (o n : Nat) : List Byte := (List.range (n / 4)).flatMap (fun i => bytesLE 4 (q.arg (o + 4 * i)).toNat)

/-- A response (R416 to R418): status and REQ_SEQ are written last, and the request ends. -/
def State.respond (s : State) (q : SecReq) (status len : Nat) (data : List W32) : State :=
  let seq := fld (q.words.headD 0) 16 16
  let w := w32 (q.kind + 16 * status + 65536 * seq)
  let t := s.setReg (grtPage + 0x080) w
  let t := if status = 0 then t else t.count (grtPage + 0x088)
  if q.tap then
    let ws := [w, w32 len] ++ List.replicate 6 0 ++ (data ++ List.replicate 8 0).take 8
    { t with sec := { t.sec with req := none, tapOut := ws } }
  else
    let t := t.setReg (secPage + 0x384) (w32 len)
    let t := (List.range data.length).foldl (fun t i => t.setReg (secPage + 0x3A0 + 4 * i) (data.getD i 0)) t
    let t := (t.setReg (secPage + 0x380) w).icuPulse 1 83
    { t with sec := { t.sec with req := none, lastSeq := BitVec.ofNat 16 seq } }

/-- A request of a kind served: a mailbox request needs the Gatehouse link of the I/O die for its response. -/
def State.serve (s : State) (kind : Nat) (f : SecReq → State → Nat × Nat × List W32 × State) : State :=
  match s.sec.req with
  | some q =>
    if q.kind = kind ∧ (q.tap = true ∨ s.pathStatus 3 2 = 0) then
      let (st, len, data, t) := f q s
      t.respond q st len data
    else s
  | none => s

/-- An image at a request's address, read by the Gatehouse; none where a read does not end OK. -/
def State.fetchImg (s : State) (q : SecReq) : Option (List Byte) × State :=
  let (st, bs, t) := s.readB ghSrc q.addr (q.arg 0x310).toNat
  (if st = 0 then some bs else none, t)

/-! ### Identity (R420, R421) -/

/-- Highest block index reserved, plus one: 0 before the first. -/
def State.ringTop (s : State) : Nat := s.sec.ring.foldl (fun a e => max a e.2.toNat) 0

/-- The block that the next signature uses. -/
def State.idBlock (s : State) : Nat :=
  match s.sec.block with
  | some b => if s.sec.nextSig < 1024 then b else b + 1
  | none => s.ringTop

def State.idSpent (s : State) : Bool := decide (2 ^ 20 ≤ s.idBlock)
/-- Whether the cache of the lower tree in use is valid. -/
def State.idReady (s : State) : Bool := s.ghUp && decide (s.idBlock / 32 < s.sec.trees)
/-- Whether a tree is being built: the one in use has no cache, or it is three-quarters spent and the next has none. -/
def State.treeBuild (s : State) : Bool :=
  s.ghUp && (decide (s.sec.trees ≤ s.idBlock / 32) || (decide (24 ≤ s.idBlock % 32) && decide (s.sec.trees ≤ s.idBlock / 32 + 1)))

/-- The next signature index, its block reserved in two ring words where it is new (R421). -/
def State.takeIndex (s : State) : Nat × State :=
  let b := s.idBlock
  let x := s.sec
  let fresh := decide (x.block ≠ some b)
  let v := BitVec.ofNat 64 (b + 1)
  let ring := if fresh then Tab.set 0 (Tab.set 0 x.ring (x.ringPos % 512) v) ((x.ringPos + 1) % 512) v else x.ring
  let pos := if fresh then (x.ringPos + 2) % 512 else x.ringPos
  let n := if fresh then 0 else x.nextSig
  (1024 * b + n, { s with sec := { x with ring := ring, ringPos := pos, block := some b, nextSig := n + 1 } })

/-- Meaning of ID_TREE_BUILD_COMPLETE (R421). -/
def treeBuilt (s : State) : State := if s.treeBuild then { s with sec := { s.sec with trees := s.sec.trees + 1 } } else s
def execIdTreeBuildComplete (s : State) : Out := .next (treeBuilt s)

/-! ### Quote (R418, R419) -/

/-- The content of a quote (R419). -/
def State.quoteBytes (s : State) (nonce : List Byte) (q : Nat) : List Byte :=
  bytesLE 4 0x51544F51 ++ bytesLE 4 (s.reg (ioPage 0x031 + 0x040)).toNat ++ bytesLE 8 s.sec.serial.toNat ++ bytesLE 8 s.frc
  ++ bytesLE 4 (s.sec.ghResets % 65536 + 65536 * (s.sec.releases % 65536)) ++ bytesLE 4 s.sec.scopes.toNat ++ nonce
  ++ (List.range 8).flatMap (fun i => Tab.get (List.replicate 32 0) s.sec.mr i)
  ++ (List.range 5).map (fun r => BitVec.ofNat 8 (s.arbOf r)) ++ List.replicate 3 0
  ++ bytesLE 4 s.sec.revoked.toNat ++ bytesLE 4 q ++ List.replicate 304 0

/-- The signature field of a quote. -/
def quoteSig (ix : Nat) (body : List Byte) : List Byte := (Config.quoteSign ix body ++ List.replicate 5396 0).take 5396

/-- The quote made, signed and written to the address asked for: its status and bytes written. -/
def quoteMake (q : SecReq) (s : State) : Nat × Nat × List W32 × State :=
  let (ix, t) := s.takeIndex
  let body := t.quoteBytes (q.bytes 0x320 32) ix
  let t := { t with sec := { t.sec with quoteAt := some s.frc } }.count (grtPage + 0x084)
  let (st, t) := t.writeB ghSrc q.addr (body ++ quoteSig ix body)
  if st = 0 then (0, 6036, [], t) else (rqFetch, 0, [], t)
/-- QUOTE: the status and bytes written. Where several refusals apply at once the first below is answered. -/
def quoteServe (q : SecReq) (s : State) : Nat × Nat × List W32 × State :=
  if q.addr % 64 ≠ 0 then (rqArg, 0, [], s)
  else if s.idSpent then (rqSpent, 0, [], s)
  else if !s.idReady then (rqBusy, 0, [], s)
  else if (match s.sec.quoteAt with | some t => decide (s.frc < t + 500000000) | none => false) then (rqRate, 0, [], s)
  else quoteMake q s
def execQuote (s : State) : Out := .next (s.serve 1 quoteServe)

/-! ### Debug unlock (R423, R424) -/

/-- CHALLENGE (R423): 32 bytes from the random source; a new challenge replaces the old. -/
def challengeServe (_q : SecReq) (s : State) : Nat × Nat × List W32 × State :=
  let v := (Config.randomDraw s.sec.draws).toNat
  let t := { s with sec := { s.sec with challenge := some (s.frc, bytesLE 32 v), draws := s.sec.draws + 1 } }
  (0, 0, (List.range 8).map (fun i => w32 (v / 2 ^ (32 * i))), t)
def execChallenge (s : State) : Out := .next (s.serve 2 challengeServe)

/-- Meaning of CHALLENGE_LAPSE (R423). -/
def challengeLapse (s : State) : State :=
  match s.sec.challenge with
  | some (t, _) => if t + 30000000000 ≤ s.frc then { s with sec := { s.sec with challenge := none } } else s
  | none => s
def execChallengeLapse (s : State) : Out := .next (challengeLapse s)

/-- The checks of R424 on a token: 0, or the reason; the spec names no status for a wrong serial or challenge, so that status is
a free value other than OK. -/
def State.tokenCheck (s : State) (tok : List Byte) (n : Nat) : Nat :=
  let w := imgW tok 1
  let slot := nfld w 16 2
  let key := (tok.drop 64).take 60
  let sig := tok.drop 128
  let chal := match s.sec.challenge with | some (_, c) => decide (c = (tok.drop 16).take 32) | none => false
  if imgW tok 0 ≠ 0x4B544244 ∨ nfld w 4 4 ≠ 0 ∨ nfld w 18 14 ≠ 0 ∨ (tok.drop 48).take 16 ≠ List.replicate 16 0 then rqArg
  else if !s.otpKey 4 slot key then rqKey
  else if !hssVerify key (tok.take 64) sig then rqSignature
  else if nfld w 8 8 < s.arbOf 4 then rqRollback
  else if ofBytesLE ((tok.drop 8).take 8) ≠ s.sec.serial.toNat ∨ chal = false then 1 + n % 10
  else if 2 ≤ nfld w 0 4 ∧ [0, 1, 2, 3].any s.permit then rqState
  else 0

/-- UNLOCK (R423, R424): the first one spends the challenge, whether it passes or fails. -/
def unlockServe (q : SecReq) (s : State) : Nat × Nat × List W32 × State :=
  let spend := fun (t : State) => { t with sec := { t.sec with challenge := none } }
  let len := (q.arg 0x310).toNat
  if 8192 < len then (rqArg, 0, [], spend s)
  else
    let (tok, t) := if q.tap then (some ((q.token.flatMap (fun w => bytesLE 4 w.toNat)).take len), s) else s.fetchImg q
    match tok with
    | none => (rqFetch, 0, [], spend t)
    | some tok =>
      let (n, t) := t.drawNat
      let st := t.tokenCheck tok n
      let t := spend t
      if st ≠ 0 then (st, 0, [], t)
      else
        let sc := BitVec.ofNat 4 (nfld (imgW tok 1) 0 4)
        let t := t.mrExtend 3 3 (sha256 (tok.take 64))
        let t := if bit sc 2 then { t with sec := { t.sec with diesLeft := 3 } } else t
        (0, 0, [], t.setScopes (t.sec.scopes ||| sc))
def execUnlock (s : State) : Out := .next (s.serve 3 unlockServe)

/-! ### Installation and commit (R413, R414) -/

/-- SPR_INSTALL: a verified record replaces the older copy and extends MR1. -/
def sprServe (q : SecReq) (s : State) : Nat × Nat × List W32 × State :=
  let (img, t) := s.fetchImg q
  match img with
  | none => (rqFetch, 0, [], t)
  | some img =>
    let st := imgCheck 1 2 (t.otpKey 1) (t.arbOf 1) img
    if st ≠ 0 then (st, 0, [], t)
    else
      let i := if t.sec.recNew = 2 then 3 else 2
      (0, 0, [], { (t.flashPut i img) with sec := { (t.flashPut i img).sec with recNew := i } }.mrExtend 1 2 (sha256 (img.take 64)))

/-- GH_INSTALL: verified firmware goes into the inactive slot with TRY set and extends MR0. -/
def ghServe (q : SecReq) (s : State) : Nat × Nat × List W32 × State :=
  let (img, t) := s.fetchImg q
  match img with
  | none => (rqFetch, 0, [], t)
  | some img =>
    let st := imgCheck 0 1 (t.otpKey 0) (t.arbOf 0) img
    if st ≠ 0 then (st, 0, [], t)
    else
      let t := t.flashPut (1 - t.sec.active) img
      (0, 0, [], { t with sec := { t.sec with try_ := true } }.mrExtend 0 1 (sha256 (img.take 64)))

/-- Revocation by an image's REVOKE field, for some roles, sparing the slot that signed it (R414). -/
def State.revokeBy (s : State) (hdr : List Byte) (role : Nat) (mask : Nat) : State :=
  let own := 2 ^ (4 * role + hdrSlot hdr)
  let add := (hdrRevoke hdr &&& mask) &&& (2 ^ 20 - 1 - own)
  { s with sec := { s.sec with revoked := s.sec.revoked ||| BitVec.ofNat 20 add } }

/-- COMMIT (R414): the counter of a role advances to E, and the revocations that go with it are programmed. -/
def commitServe (q : SecReq) (s : State) : Nat × Nat × List W32 × State :=
  let role := fld (q.arg 0x314) 0 3
  let e := fld (q.arg 0x314) 8 8
  let fw := (Tab.get [] s.sec.flash s.sec.running).take 64
  let limit := if role = 0 then hdrEpoch fw else if role = 1 then hdrEpoch s.sec.recHdr
    else if role = 2 then s.regF (secPage + 0x220) 16 16 else 255
  if 4 < role then (rqArg, 0, [], s)
  else if e < s.arbOf role then (rqRollback, 0, [], s)
  else if limit < e then (rqState, 0, [], s)
  else
    let t := { s with sec := { s.sec with arb := Tab.set 0 s.sec.arb role e } }
    let t := if role = 0 then { t.revokeBy fw 0 0xF00FF with sec := { (t.revokeBy fw 0 0xF00FF).sec with active := t.sec.running } }
      else if role = 2 then t.revokeBy t.gk.hdr 2 0x0FF00 else t
    (0, 0, [], t)

/-! ### The mailbox (R411, R415 to R417) -/

/-- The credential area as the Gatehouse writes it, VALID last (R416). -/
def State.writeCred (s : State) : State :=
  let z := List.replicate 32 (0 : Byte)
  let put := fun (t : State) (a : Nat) (bs : List Byte) =>
    (List.range 8).foldl (fun t i => t.setReg (a + 4 * i) (w32 (ofBytesLE ((bs.drop (4 * i)).take 4)))) t
  let t := (List.range 4).foldl (fun t k =>
    put (put t (secPage + 0x100 + 32 * k) (Tab.get z t.sec.keyHash (8 + k))) (secPage + 0x180 + 32 * k) (Tab.get z t.sec.keyHash (12 + k))) s
  t.setReg (secPage + 0x040) (w32 (1 + 16 * fld t.sec.revoked 8 4 + 256 * fld t.sec.revoked 12 4 + 65536 * t.arbOf 2
    + 2 ^ 24 * t.arbOf 3))

/-- What the credential area says of a slot and key of the Groundskeeper (base 0x100, revocations from bit 4) or package role
(base 0x180, from bit 8). -/
def State.credKey (s : State) (base lo slot : Nat) (key : List Byte) : Bool :=
  let h := (List.range 8).flatMap (fun i => bytesLE 4 (s.reg (secPage + base + 32 * slot + 4 * i)).toNat)
  !bit (s.reg (secPage + 0x040)) (lo + slot) && decide (sha256 key = h)

/-- The ROM measurement record is read once per release (R415). -/
def State.readMeas (s : State) : State :=
  if !s.sec.measRead && bit (s.reg (secPage + 0x224)) 31 then
    let h := (List.range 8).flatMap (fun i => bytesLE 4 (s.reg (secPage + 0x200 + 4 * i)).toNat)
    let t := s.mrExtend 2 1 h
    { t with sec := { t.sec with measRead := true } }
  else s

/-- Whether a request block's CRC holds (R416). -/
def blockOk (ws : List W32) : Bool :=
  let bs := (ws.take 16).flatMap (fun w => bytesLE 4 w.toNat)
  decide (ws.length = 17) && decide (crc32cFold (2 ^ 32 * fld (ws.headD 0) 16 16) bs = ws.getD 16 0)

/-- A request taken; a reserved KIND is answered at once (R418). -/
def State.takeReq (s : State) (q : SecReq) : State :=
  if q.kind = 0 ∨ 7 < q.kind ∨ (q.tap = true ∧ q.kind ≠ 2 ∧ q.kind ≠ 3) then s.respond q rqArg 0 []
  else { s with sec := { s.sec with req := some q } }

/-- What the Gatehouse does with the mailbox page at a verdict instant (R415 to R417): the credentials after a release, the
measurement record, then the request block. -/
def State.secInstant (s : State) : State :=
  if s.pathStatus 3 2 ≠ 0 ∨ bit (s.reg (ghPage 0 + 0x048)) 0 = false then s
  else
    let t := if bit (s.reg (secPage + 0x040)) 0 then s else s.writeCred
    let t := t.readMeas
    let ws := (List.range 17).map (fun i => t.reg (secPage + 0x300 + 4 * i))
    if t.sec.req = none ∧ fld (ws.headD 0) 16 16 ≠ t.sec.lastSeq.toNat ∧ blockOk ws = true then t.takeReq ⟨ws, false, []⟩ else t

/-! ### The Gatehouse TAP's mailbox (R423, R460) -/

/-- Words that a TAP request needs: the block, and for UNLOCK its token. -/
def tapNeed (ws : List W32) : Nat :=
  if fld (ws.headD 0) 0 4 = 3 ∧ 17 ≤ ws.length then 17 + (min (ws.getD 4 0).toNat 8192 + 3) / 4 else 17

/-- Meaning of GH_MBOX: Capture-DR loads the next response word, and Update-DR delivers a word shifted in with VALID. A block whose
CRC fails is dropped. -/
def ghMbox (word : W32) (valid : Bool) (s : State) : State :=
  let tap := Tab.get TapSt.init s.taps 3
  let (dr, out) := match s.sec.tapOut with
    | [] => (0, [])
    | w :: r => (w.toNat + 2 ^ 32, r)
  let t := { s with taps := Tab.set TapSt.init s.taps 3 { tap with instr := 0x20, dr := dr }, sec := { s.sec with tapOut := out },
                    scanEnd := if s.scanOn then s.frc else s.scanEnd }
  if !valid then t
  else
    let ws := t.sec.tapIn ++ [word]
    if ws.length < tapNeed ws ∨ t.sec.req.isSome then { t with sec := { t.sec with tapIn := ws } }
    else
      let t := { t with sec := { t.sec with tapIn := [] } }
      if blockOk (ws.take 17) then t.takeReq ⟨ws.take 17, true, ws.drop 17⟩ else t
def execGhMbox (word : W32) (valid : Bool) (s : State) : Out := .next (ghMbox word valid s)

end Sys2Proof.Machine
end

