-- ==== Sys2Proof/Machine/Gk.lean ====
section
/-! DEFINITION. The Groundskeeper: restart, boot flash, host requests, event log (R428 to R444) and calibration (R445 to R450). -/

namespace Sys2Proof.Machine

def gkBootPage : Nat := ioPage 0x030
def gkIdPage : Nat := ioPage 0x031
def mboxPage : Nat := ioPage 0x032

def State.setGk (s : State) (g : GkSt) : State := { s with gk := g }

/-! ### The event log (R439 to R444) -/

/-- Bytes that a record takes (R440). -/
def LogRec.size (r : LogRec) : Nat := (24 + r.payload.length + 7) / 8 * 8

/-- A record's bytes (R440); the padding is zero. -/
def LogRec.bytes (r : LogRec) : List Byte :=
  let head := bytesLE 4 (r.type + 65536 * r.payload.length) ++ bytesLE 4 r.rseq ++ bytesLE 8 r.stamp ++ bytesLE 4 r.flags.toNat
  let all := head ++ bytesLE 4 (crc32cFold r.rseq (head ++ r.payload)).toNat ++ r.payload
  all ++ List.replicate (r.size - all.length) 0

/-- A record copied into the mirror ring (R444): records do not cross a 4 KiB page, whose rest is filled with 0xFF. -/
def State.mirrorPut (s : State) (r : LogRec) : State :=
  let (base, pages) := s.gk.mirror
  if pages = 0 then s
  else
    let head := (s.reg (mboxPage + 0x07C)).toNat + 2 ^ 32 * (s.reg (mboxPage + 0x080)).toNat
    let fill := if 4096 < head % 4096 + r.size then 4096 - head % 4096 else 0
    let size := 4096 * pages
    let t := (s.writeB gkSrc (base + head % size) (List.replicate fill 0xFF#8)).2
    let h := head + fill
    let t := (t.writeB gkSrc (base + h % size) r.bytes).2
    let h := h + r.size
    (t.setReg (mboxPage + 0x07C) (w32 h)).setReg (mboxPage + 0x080) (w32 (h / 2 ^ 32))

/-- A record programmed into the ring of 1,024 sectors, one of which is kept erased (R439, R440). -/
def State.logProgram (s : State) (r : LogRec) : State :=
  let g := s.gk
  let new := decide (65536 < g.used + r.size)
  let sseq := if new then g.sseq + 1 else g.sseq
  let used := (if new then 32 else g.used) + r.size
  let keep := g.log.filter (fun e => decide (sseq < e.1 + 1023))
  (s.setGk { g with sseq := sseq, used := used, log := keep ++ [(sseq, r)] }).mirrorPut r

/-- Everything buffered is programmed. -/
def State.logFlush (s : State) : State :=
  s.gk.buf.foldl State.logProgram (s.setGk { s.gk with buf := [] })

/-- A record gathered (R440, R443), with the I/O die replica's count as its stamp (R317): one that finds the 1 MiB buffer full is dropped and counted, and a SYNC record is programmed
at once. ORIGIN: 0 firmware, 1 Gatehouse, 2 host, 3 boot ROM. -/
def State.logAdd (s : State) (type : Nat) (payload : List Byte) (sync : Bool) (origin : Nat) : State :=
  let (stamp, s) := s.repCount 0
  let g := s.gk
  let flags := w32 (b2n (!s.repLocked 0) + 2 * b2n sync + 256 * origin + 65536 * ((s.reg (gkIdPage + 0x04C)).toNat % 65536))
  let r : LogRec := ⟨type, payload, g.rseq, stamp, flags⟩
  if 1048576 < g.buf.foldl (fun a x => a + x.size) 0 + r.size then s.setGk { g with lost := g.lost + 1 }
  else
    let t := s.setGk { g with buf := g.buf ++ [r], rseq := g.rseq + 1, bufAt := if g.buf.isEmpty then s.frc else g.bufAt }
    if sync then t.logFlush else t

/-- A LOG_LOST record once space frees (R443). -/
def State.logLost (s : State) : State :=
  if s.gk.lost = 0 then s
  else
    let n := s.gk.lost
    (s.setGk { s.gk with lost := 0 }).logAdd 0x000B (bytesLE 4 n) false 0

/-- Records that end within the pages that are full. -/
def fullPages (room : Nat) : List LogRec → List LogRec × List LogRec
  | [] => ([], [])
  | r :: l => if r.size ≤ room then let (a, b) := fullPages (room - r.size) l; (r :: a, b) else ([], r :: l)

/-- Meaning of LOG_PAGE_PROGRAM (R443): the pages that are full, or all of them once the oldest record is 100 ms old. -/
def logPageProgram (s : State) : State :=
  let g := s.gk
  if !g.up || g.buf.isEmpty then s
  else if g.bufAt + 50000000 ≤ s.frc then s.logFlush.logLost
  else
    let total := g.buf.foldl (fun a x => a + x.size) 0
    let full := (g.used % 256 + total) / 256 * 256 - g.used % 256
    let (now, later) := fullPages full g.buf
    (now.foldl State.logProgram (s.setGk { g with buf := later, bufAt := s.frc })).logLost
def execLogPageProgram (s : State) : Out := .next (logPageProgram s)

/-- Bytes that records take in 4 KiB pages that none of them crosses. -/
def packed (rs : List LogRec) : Nat :=
  rs.foldl (fun a r => (if 4096 < a % 4096 + r.size then (a / 4096 + 1) * 4096 else a) + r.size) 0

/-- The newest records that fit a size. -/
def fitSuffix (size : Nat) : List LogRec → List LogRec
  | [] => []
  | r :: l => if packed (r :: l) ≤ size then r :: l else fitSuffix size l

/-- The mirror ring as configured (R444): filled with the newest records that fit. -/
def State.mirrorConfig (s : State) : State :=
  let base := (s.reg (mboxPage + 0x070)).toNat / 4096 * 4096 + 2 ^ 32 * fld (s.reg (mboxPage + 0x074)) 0 16
  let pages := min (fld (s.reg (mboxPage + 0x078)) 0 15) 16384
  if s.gk.mirror = (base, pages) then s
  else
    let t := s.setGk { s.gk with mirror := (base, pages) }
    let t := (t.setReg (mboxPage + 0x07C) 0).setReg (mboxPage + 0x080) 0
    let fit := fitSuffix (4096 * pages) (t.gk.log.map (fun e => e.2))
    fit.foldl State.mirrorPut t

/-! ### Calibration (R445 to R447) -/

def calMul (i : Nat) : Bool := (decide (6 ≤ i) && decide (i ≤ 13)) || (decide (121 ≤ i) && decide (i ≤ 133))

/-- Nominal set point of item 3d + q (R387). -/
def calNominal (i : Nat) : Int := ([620, 700, 820] : List Int).getD (i % 3) 0

def calUserRange (i : Nat) : Int × Int :=
  if i ≤ 5 then (-20, 20) else if i ≤ 13 then (62259, 68813) else if i ≤ 109 then (-16, 16) else if i ≤ 117 then (-2000, 2000)
  else if i ≤ 120 then (-8, 8) else (16384, 262144)

def calEffRange (i : Nat) : Int × Int :=
  if i ≤ 5 then (calNominal i - 30, calNominal i + 30) else if i ≤ 13 then (52429, 81920) else if i ≤ 109 then (-64, 64)
  else if i ≤ 117 then (-2000, 2000) else if i ≤ 120 then (0, 1023) else (16384, 262144)

/-- The die whose fuse map holds an item's factory value (R445). -/
def calDie (i : Nat) : Option Nat :=
  if i ≤ 5 then some (i / 3) else if i ≤ 13 then some ((i - 6) / 4) else if i ≤ 97 then some ((i - 14) / 42) else none

/-- A value that changes nothing: the nominal set point, a gain of 1, or 0. -/
def calNeutral (i : Nat) : Int := if i ≤ 5 then calNominal i else if calMul i then 65536 else 0
def calUserNeutral (i : Nat) : Int := if calMul i then 65536 else 0

/-- FACTORY_VALID (R446, R450). -/
def State.calValid (s : State) (i : Nat) : Bool := match calDie i with | some d => bit s.cal.fuses d | none => true
def State.calFactory (s : State) (i : Nat) : Int := if s.calValid i then Tab.get (calNeutral i) s.cal.fact i else 0
def State.calUser (s : State) (i : Nat) : Int := Tab.get (calUserNeutral i) s.cal.user i

def clampI (lo hi x : Int) : Int := if x < lo then lo else if hi < x then hi else x

/-- The effective value and the two clamp flags (R446). -/
def State.calEff (s : State) (i : Nat) : Int × Bool × Bool :=
  let (ulo, uhi) := calUserRange i
  let u := clampI ulo uhi (s.calUser i)
  let f := s.calFactory i
  let x := if calMul i then (if 0 ≤ u * f then (u * f + 32768) / 65536 else -((-(u * f) + 32768) / 65536)) else f + u
  let (lo, hi) := calEffRange i
  (clampI lo hi x, decide (u ≠ s.calUser i), decide (clampI lo hi x ≠ x))

/-- Items whose quantity a register or block holds (R447): all but the AVS set points. -/
def calRegister (i : Nat) : Bool := decide (6 ≤ i)

/-- The target register of an item, its field and width (R331, R363). -/
def calTarget (i : Nat) : Option (Nat × Nat × Nat) :=
  if 110 ≤ i ∧ i ≤ 117 then some (ioPage (0x059 + (i - 110) / 2) + 0x050, 16 * ((i - 110) % 2), 16)
  else if 118 ≤ i ∧ i ≤ 120 then some (ghPage 0x12 + 0x0D0 + 4 * (i - 118), 0, 10) else none

/-- Items that an instance serves (R450): 0 the I/O die's, 1 the Gatehouse's. -/
def calServed (inst i : Nat) : Bool := if inst = 0 then decide (i ≤ 117) else decide (118 ≤ i) && decide (i ≤ 133)

def calPage (inst : Nat) : Nat := if inst = 0 then ioPage 0x034 else ghPage 0x17

/-- The effective value written into an item's target register. -/
def State.calApply (s : State) (i : Nat) : State :=
  match calTarget i with
  | some (a, lo, n) => s.setRegF a lo n (ibits n (s.calEff i).1)
  | none => s

/-- A user value written (R447). -/
def State.calWrite (s : State) (i : Nat) (v : Int) : State :=
  { s with cal := { s.cal with user := Tab.set (calUserNeutral i) s.cal.user i v } }.calApply i

/-- Meaning of CAL_USER_WRITE (R447, R450): the I/O die's instance takes writes of domain 0x001; the Gatehouse's is read-only. -/
def calUserWrite (w : Writer) (inst : Nat) (v : W32) (s : State) : State :=
  let i := s.regF (calPage inst + 0x040) 0 8
  if inst = 0 ∧ s.writerDom w = domGk ∧ calServed 0 i = true then s.calWrite i v.toInt else s
def execCalUserWrite (w : Writer) (inst : Nat) (v : W32) (s : State) : Out := onUnit (decide (inst < 2)) (calUserWrite w inst v s)

/-! ### Firmware images (R433 to R436) -/

/-- The first image of a KIND in a complete slot. -/
def State.slotImage (s : State) (slot kind : Nat) : Option (List Byte) :=
  match Tab.get none s.gk.slots slot with
  | some es => (es.find? (fun e => decide (e.1 = kind))).map (fun e => e.2)
  | none => none

/-- Epoch of the credential area (R427). -/
def State.credArb (s : State) (lo : Nat) : Nat := s.regF (secPage + 0x040) lo 8

/-- A slot's firmware, where the slot is complete and the firmware passes (R409, R434). -/
def State.slotOk (s : State) (slot : Nat) : Option (List Byte) :=
  match s.slotImage slot 3 with
  | some img => if imgCheck 2 3 (s.credKey 0x100 4) (s.credArb 16) img = 0 then some img else none
  | none => none

/-- The ROM's choice (R434): slot, trial, firmware; TRY is cleared before the other slot is verified. -/
def State.romChoose (s : State) : Option (Nat × Bool × List Byte) × State :=
  let g := s.gk
  let t := s.setGk { g with try_ := false }
  let a := if g.selOk then g.active else 0
  let fall := match s.slotOk a with
    | some img => some (a, false, img)
    | none => (s.slotOk (1 - a)).map (fun img => (1 - a, false, img))
  if g.selOk && g.try_ then
    match s.slotOk (1 - a) with
    | some img => (some (1 - a, true, img), t)
    | none => (fall, t)
  else (fall, t)

/-- The boot ROM stops at stage 3 (R411, R431). -/
def State.romStop (s : State) : State :=
  let t := (s.setRegF (gkBootPage + 0x040) 12 4 3).setRegF (gkBootPage + 0x040) 0 4 3
  t.setGk { t.gk with halted := true, romWait := false, waitExt := false, up := false }

/-- The firewall windows that the firmware opens for the host at boot (R437), the first it owns beside window 0. -/
def State.hostWindows (s : State) : State :=
  let w := fun (t : State) (i lo hi : Nat) => t.fwPut 10 i (ioPage lo / 0x1000) (ioPage hi / 0x1000) 0x002 0xFFF 7
  w (w (w (w s 1 0x032 0x032) 2 0x000 0x000) 3 0x010 0x01C) 4 0x041 0x049

/-- A grown 600 s window of restarts (R431, R448). -/
def State.restartsNow (s : State) : Nat := (s.gk.restarts.filter (fun t => decide (s.frc < t + 300000000000))).length

/-- The bytes of a restart order's payload in the model's layout: number, kind (0 none, 1 Pavilions, 2 die, 3 package), and mask
or die. -/
def orderBytes (num : Nat) (sc : Scope) : List Byte :=
  let (k, v) := match sc with | .none => (0, 0) | .pavs m => (1, m.toNat) | .die d => (2, d) | .package => (3, 0)
  bytesLE 4 (num + 256 * k + 65536 * v)

/-- The scope that a payload names. -/
def orderScope (bs : List Byte) : Nat × Scope :=
  let w := ofBytesLE (bs.take 4)
  let k := nfld w 8 8
  (nfld w 0 8, if k = 1 then .pavs (BitVec.ofNat 8 (nfld w 16 8)) else if k = 2 then .die (nfld w 16 1) else if k = 3 then .package
    else .none)

/-- The units that an order names, its Pavilions, and the dies whose rails it cycles (R186, R380). -/
def scopeUnits (sc : Scope) : List UnitId :=
  match sc with
  | .none => []
  | .pavs m => (bitsOf 8 m.toNat).map pavUid
  | .die d => [dieUid d]
  | .package => [pkgUid]
def scopePavs (sc : Scope) : Nat :=
  match sc with
  | .none => 0
  | .pavs m => m.toNat
  | .die d => if d = 0 then 0x0F else 0xF0
  | .package => 0xFF
def scopeDies (sc : Scope) : List Nat := match sc with | .die d => [d] | .package => [0, 1] | _ => []
/-- Whether one scope covers another: package over dies over Pavilions (R185). -/
def scopeCovers (a b : Scope) : Bool :=
  match a, b with
  | _, .none => true
  | .package, _ => true
  | .die d, .die e => decide (d = e)
  | .die _, .pavs _ => decide (scopePavs b &&& scopePavs a = scopePavs b)
  | .pavs _, .pavs _ => decide (scopePavs b &&& scopePavs a = scopePavs b)
  | _, _ => false

/-- Registers that the Groundskeeper writes back after a restart (R380): domains below 0xF00, its own firewall windows and the
interrupt controllers. -/
def State.gkRestores (s : State) (sc : Scope) (a : Nat) : Bool :=
  match winUnit a with
  | none => false
  | some v => (scopeUnits sc).any (fun u => uEncl u v) && (match pageKind a with
    | some .unit => decide (a % 0x1000 = 0x028) && decide (fld (s.reg a) 0 12 < 0xF00)
    | some .fw => decide (0x100 ≤ a % 0x1000) && decide ((a % 0x1000 - 0x100) / 0x10 < (if uLevel v = 2 then 8 else 16))
    | some .icu => decide (a % 0x1000 = 0x044) || decide (a % 0x1000 = 0x060) || (decide (0x800 ≤ a % 0x1000) && decide (a % 8 = 0))
    | _ => false)

/-- A restart order accepted by the firmware (R380): acknowledged, and the scope held with ABSORB. One sent again is only acknowledged
again. -/
def State.gkOrder (s : State) (num : Nat) (sc : Scope) : State :=
  let t := s.sendMsg idGk idGatehouse 0x21 (bytesLE 4 num)
  if s.bel.gkOrders.any (fun o => decide (o.num = num ∧ o.scope = sc)) then t
  else
    let wds := (bitsOf 8 (scopePavs sc)).filterMap (fun p =>
      let w := 6 + p
      if (t.wd w).started then some (w, [t.reg (wdOpenA w), t.reg (wdCloseA w), t.reg (wdCtrlA w)]) else none)
    let o : GkOrder := ⟨num, sc, 0, scopeDies sc, t.regs.filter (fun e => t.gkRestores sc e.1),
      t.fwForce.filter (fun e => t.gkRestores sc e.1), wds, [t.frc]⟩
    let t : State := { t with bel := { t.bel with gkOrders := t.bel.gkOrders.filter (fun x => decide (x.scope ≠ sc)) ++ [o] } }
    (scopeUnits sc).foldl (fun t u => unitCommand (.dom domGk) u cmdHold true 1000 t) t

def State.putGkOrder (s : State) (o : GkOrder) : State :=
  { s with bel := { s.bel with gkOrders := s.bel.gkOrders.map (fun x => if x.num = o.num ∧ x.scope = o.scope then o else x) } }

/-- RELEASE of what an order named, once its maps are applied (R369, R380). -/
def State.gkRelease (s : State) (o : GkOrder) : State :=
  let t := (scopeUnits o.scope).foldl (fun t u => unitCommand (.dom domGk) u cmdRelease false 10 t) s
  t.putGkOrder { o with phase := 3, steps := o.steps ++ [s.frc] }

/-- The retirement record on the clusters of a unit (R369). -/
def State.retireMaps (s : State) (u : UnitId) : State := (clusOf u).foldl State.applyRec s

/-- What stood before a restart written back (R380). -/
def State.gkRestore (s : State) (o : GkOrder) : State :=
  let t := o.regs.foldl (fun t e => t.setReg e.1 e.2) s
  let t : State := { t with fwForce := o.fw.foldl (fun f e => Tab.set (fwWinReset e.1) f e.1 e.2) t.fwForce }
  o.wds.foldl (fun t e =>
    let t := (t.setReg (wdOpenA e.1) (e.2.getD 0 0)).setReg (wdCloseA e.1) (e.2.getD 1 0)
    (t.setWd e.1 { t.wd e.1 with wroteOpen := true, wroteClose := true }).wdStart e.1 (e.2.getD 2 0)) t

/-- An order carried one step further where its units allow it (R380). A trip still standing, or a die without power, keeps it. -/
def State.gkStep (s : State) (o : GkOrder) : State :=
  let us := scopeUnits o.scope
  let pavs := bitsOf 8 (scopePavs o.scope)
  let up := fun d => bit (s.reg (gkBootPage + 0x040)) (9 + d)
  if s.bel.gkOrders.any (fun x => decide (x.scope ≠ o.scope) && scopeCovers x.scope o.scope) then s
  else match o.phase with
    | 0 =>
      if us.all (fun u => s.isAbsent u || s.held u) then
        match o.dies with
        | [] => (us.foldl (fun t u => t.retireMaps u) s).gkRelease o
        | d :: _ => (s.diePowerOff d false).putGkOrder { o with phase := 1, steps := o.steps ++ [s.frc] }
      else s
    | 1 =>
      match o.dies with
      | d :: e :: r => if up d then (s.diePowerOff e false).putGkOrder { o with dies := e :: r } else s
      | [d] => if up d then s.putGkOrder { o with dies := [], phase := 2 } else s
      | [] => s.putGkOrder { o with phase := 2 }
    | 2 => if (scopeDies o.scope).all (fun d => up d && bit (s.reg (mcPage d + 0x040)) 0) then s.gkRelease o else s
    | 3 =>
      if (us.all (fun u => s.isAbsent u || (!s.held u && (s.ucmd u).isNone && (decide (s.ustate u = stIdle) || decide (s.ustate u = stRunning)))))
          ∧ (pavs.all (fun p => !s.tripped (p / 4))) then
        (s.gkRestore o).putGkOrder { o with phase := 4, steps := o.steps ++ [s.frc] }
      else s
    | _ =>
      if pavs.all (fun p => (coresOf (pavUid p)).all (fun u => s.isAbsent u || (s.core u).run)) then
        let t : State := { s with bel := { s.bel with
          gkOrders := (s.bel.gkOrders.filter (fun x => decide (x.num ≠ o.num ∨ x.scope ≠ o.scope))).map
            (fun x => if scopeCovers o.scope x.scope then { x with phase := 4 } else x) } }
        let t := t.sendMsg idGk idGatehouse 0x22 (bytesLE 4 o.num)
        t.logAdd 0x0005 (orderBytes o.num o.scope ++ (o.steps ++ [s.frc]).flatMap (fun x => bytesLE 8 x) ++ bytesLE 4 0) true 0
      else s

/-- The Groundskeeper goes on with its orders. -/
def State.gkAdvance (s : State) : State :=
  if !s.gk.up || s.bel.gkOrders.isEmpty then s
  else (List.range 4).foldl (fun t _ => t.bel.gkOrders.foldl (fun t o =>
    match t.bel.gkOrders.find? (fun x => decide (x.num = o.num ∧ x.scope = o.scope)) with
    | some x => t.gkStep x
    | none => t) t) s

/-- A message that the firmware takes from its receiver (R430, R441): fault notes are logged, orders carried out, and the areas of a reply
are used from then on (R188). -/
def State.gkMessage (s : State) (m : PMsg) : State :=
  if m.type = 0x23 then s.logAdd 0x0003 m.payload false 1
  else if m.type = 0x20 then let (n, sc) := orderScope m.payload; (s.gkOrder n sc).gkAdvance
  else if m.type = 0x27 then
    { s with bel := { s.bel with gkAreas := ([0, 8, 16] : List Nat).map (fun o => ofBytesLE ((m.payload.drop o).take 6)) } }
  else s

/-- A message for the firmware: held while it does not run, at most 256 (R430). -/
def State.gkDeliver (s : State) (m : PMsg) : State :=
  if s.gk.up then s.gkMessage m
  else if s.gk.inbox.length < 256 then s.setGk { s.gk with inbox := s.gk.inbox ++ [m] }
  else s.setGk { s.gk with lost := s.gk.lost + 1 }

/-- What the Groundskeeper receives of characters at the debug UART (R359, R422): all are discarded until CONSOLE is open. -/
def State.consoleIn (s : State) (bs : List Byte) : List Byte := if bit s.sec.scopes 0 then bs else []

/-- The console's rate (R359): the firmware may raise it, to 3,000,000 baud at most. -/
def State.consoleRate (s : State) : State := { s with uart := ⟨min (max s.uart.baud Config.consoleBaud) 3000000⟩ }

/-- The firmware starts (R359, R429, R437, R439, R448): the console's rate, a new boot in the log, the host's windows, the stored
calibration, and the messages that waited. Before READY it starts bring-up again from stage 4. -/
def State.gkFirmwareUp (s : State) : State :=
  let g := s.gk
  let t := s.setGk { g with up := true, waitExt := false, romWait := false, sseq := g.sseq + 1, used := 32, inbox := [],
                            telAt := s.frc, bootId := g.bootId + 1 }
  let t := t.consoleRate.setReg (gkIdPage + 0x044) (w32 (imgW g.hdr 2))
  let t := t.setReg (gkIdPage + 0x048) (w32 (g.running + 2 * b2n g.trial + 4 * g.active))
  let t := t.setReg (gkIdPage + 0x04C) (g.bootId + 1)
  let t := t.hostWindows
  let t := g.userCal.foldl (fun t e => t.calWrite e.1 e.2) t
  let ready := bit (t.reg (gkBootPage + 0x040)) 8
  let t := if ready then t else (t.setReg (gkBootPage + 0x040) 4#32)
  let t := t.logAdd 0x0001 (bytesLE 4 (g.running + 256 * b2n g.trial) ++ bytesLE 4 (imgW g.hdr 2) ++ bytesLE 4 t.restartsNow
    ++ bytesLE 4 (t.regF (gkIdPage + 0x054) 0 2)) true 0
  (g.inbox.foldl State.gkMessage t).gkAdvance

/-- A request block written by the Groundskeeper (R416): a new REQ_SEQ, its arguments, then the CRC. -/
def State.gkRequest (s : State) (kind : Nat) (args : List (Nat × W32)) : State :=
  let seq := (s.regF (secPage + 0x300) 16 16 + 1) % 65536
  let t := args.foldl (fun t e => t.setReg (secPage + e.1) e.2) s
  let t := t.setReg (secPage + 0x300) (w32 (kind + 65536 * seq))
  let bs := (List.range 16).flatMap (fun i => bytesLE 4 (t.reg (secPage + 0x300 + 4 * i)).toNat)
  t.setReg (secPage + 0x340) (crc32cFold (seq * 2 ^ 32) bs)

/-- Whether the request block may take a new request: the last has its response (R417). -/
def State.gkMboxFree (s : State) : Bool :=
  s.gk.hostWait.isNone && !s.gk.waitExt && decide (s.regF (secPage + 0x300) 16 16 = s.regF (secPage + 0x380) 16 16)

/-- Words of a digest from an argument offset. -/
def digestArgs (o : Nat) (d : List Byte) : List (Nat × W32) :=
  (List.range 8).map (fun i => (o + 4 * i, w32 (ofBytesLE ((d.drop (4 * i)).take 4))))

/-- The I/O die boot ROM's first boot (R411, R434): once the credentials are valid it chooses, writes the measurement record, and
starts the firmware. -/
def State.gkRom (s : State) : State :=
  if !s.gk.romWait || !bit (s.reg (secPage + 0x040)) 0 then s
  else match s.romChoose with
    | (none, t) => t.romStop
    | (some (slot, trial, img), t) =>
      let h := sha256 (img.take 64)
      let t := (digestArgs 0x200 h).foldl (fun t e => t.setReg (secPage + e.1) e.2) t
      let t := (t.setReg (secPage + 0x220) (w32 (imgW img 2))).setReg (secPage + 0x224) (w32 (hdrSlot img + 2 ^ 31))
      let t := (List.range 10).foldl (fun t i => { t with once := Tab.set false t.once (secPage + 0x200 + 4 * i) true }) t
      (t.setGk { t.gk with running := slot, trial := trial, hdr := img.take 64 }).gkFirmwareUp

/-- Meaning of CREDENTIAL_VALID_TIMEOUT (R411): 100 ms after release the ROM stops. -/
def credTimeout (s : State) : State :=
  match s.gk.released with
  | some t => if s.gk.romWait && decide (t + 50000000 ≤ s.frc) && !bit (s.reg (secPage + 0x040)) 0 then s.romStop else s
  | none => s
def execCredentialValidTimeout (s : State) : Out := .next (credTimeout s)

/-- A Groundskeeper restart (R429, R431): its cores and their watchdogs are reset, the ROM chooses the firmware and asks for the
extension of MR4. Before READY the compute rails are cycled. -/
def State.gkRestart (s : State) (cause : Nat) : State :=
  if s.gk.waitExt || s.gk.halted || s.gk.romWait || s.gk.released.isNone then s
  else
    let t := s.setGk { s.gk with up := false, restartAt := s.frc, hostWait := none,
                                 restarts := s.gk.restarts.filter (fun x => decide (s.frc < x + 300000000000)) ++ [s.frc] }
    let t := t.setReg (gkIdPage + 0x054) (w32 (cause + 16 * min t.restartsNow 3))
    let t := ([2, 3, 4, 5] : List Nat).foldl (fun t w => (t.wdReset w).icuTargetReset 1 (w - 2)) t
    if 3 ≤ t.restartsNow then t.romStop
    else match t.romChoose with
      | (none, t) => t.romStop
      | (some (slot, trial, img), t) =>
        let t := t.setGk { t.gk with running := slot, trial := trial, hdr := img.take 64, waitExt := true }
        let t := if bit (t.reg (gkBootPage + 0x040)) 8 then t else (t.diePowerOff 0 false).diePowerOff 1 false
        t.gkRequest 4 ((0x314, 4#32) :: digestArgs 0x320 (sha256 (img.take 64)))

/-- Meaning of GK_RESTART (R429): a core's write, a bitten core's reset, or an accepted ACTIVATE. -/
def gkRestart (w : Writer) (cause : Nat) (s : State) : State :=
  if s.writerDom w = domGk ∧ 1 ≤ cause then s.gkRestart cause else s
def execGkRestart (w : Writer) (cause : BitVec 2) (s : State) : Out := .next (gkRestart w cause.toNat s)

/-! ### Host requests (R437, R438) -/

def hrRefused : Nat := 1
def hrState : Nat := 2
def hrArg : Nat := 3
def hrFlash : Nat := 4

/-- The response to a host request (R437): status and REQ_SEQ last, then the MSI-X message. -/
def State.hostRespond (s : State) (kind status : Nat) (data : W32) : State :=
  let seq := s.regF (mboxPage + 0x040) 16 16
  let t := (s.setReg (mboxPage + 0x064) data).setReg (mboxPage + 0x060) (w32 (kind + 16 * status + 65536 * seq))
  let t := t.setGk { t.gk with served := BitVec.ofNat 16 seq, hostWait := none }
  let v := t.reg (mboxPage + 0x068)
  if bit v 15 then t.msixRequest (fld v 0 11) else t

/-- Whether a host request of a kind stands and is not served. -/
def State.hostAsks (s : State) (kind : Nat) : Bool :=
  s.gk.up && s.gk.hostWait.isNone && decide (s.regF (mboxPage + 0x040) 0 4 = kind)
    && decide (s.regF (mboxPage + 0x040) 16 16 ≠ s.gk.served.toNat)

/-- A host request served at once: its status, detail, and the state that its action leaves. -/
def State.hostServe (s : State) (kind : Nat) (f : State → Nat × W32 × State) : State :=
  if s.hostAsks kind then
    let (st, data, t) := f s.mirrorConfig
    t.hostRespond kind st data
  else s

/-- Argument i of a host request. -/
def State.hostArg (s : State) (i : Nat) : W32 := s.reg (mboxPage + 0x044 + 4 * i)
def State.hostAddr (s : State) : Nat := (s.hostArg 0).toNat + 2 ^ 32 * fld (s.hostArg 1) 0 16

/-- The IMAGE record (R441): request kind, image KIND, VERSION, SLOT, DIGEST, status. -/
def State.logImage (s : State) (req : Nat) (img : List Byte) (status : Nat) : State :=
  s.logAdd 0x0008 (bytesLE 4 (req + 256 * nfld (imgW img 1) 8 8 + 65536 * status) ++ bytesLE 4 (imgW img 2)
    ++ bytesLE 4 (hdrSlot img) ++ (img.drop 32).take 32) true 0

/-- Directory entries in the model's layout (R435): 16 bytes each from byte 16, KIND, offset, length; KIND 0 ends the list. -/
def dirEntries (dir : List Byte) : List (Nat × Nat × Nat) :=
  ((List.range 16).map (fun i => (imgW dir (4 + 4 * i), imgW dir (5 + 4 * i), imgW dir (6 + 4 * i)))).takeWhile (fun e => decide (e.1 ≠ 0))

/-- Whether a directory names one firmware, one sequencer and one core image and at most two of kind 6 (R435). -/
def dirOk (es : List (Nat × Nat × Nat)) : Bool :=
  let n := fun k => (es.filter (fun e => decide (e.1 = k))).length
  decide (n 3 = 1) && decide (n 4 = 1) && decide (n 5 = 1) && decide (n 6 ≤ 2) && decide (es.length = n 3 + n 4 + n 5 + n 6)

/-- STAGE_SET (R437): every image is verified; the set goes into the slot not running, its directory last. -/
def stageSet (flashOk : Bool) (s : State) : Nat × W32 × State :=
  let (st, all, t) := s.readB gkSrc s.hostAddr (s.hostArg 2).toNat
  let es := dirEntries all
  if st ≠ 0 ∨ imgW all 0 ≠ 0x52494453 ∨ dirOk es = false then (hrArg, 0, t)
  else
    let imgs := es.map (fun e => (e.1, (all.drop e.2.1).take e.2.2))
    let bad := (imgs.map (fun e => imgCheck 2 e.1 (t.credKey 0x100 4) (t.credArb 16) e.2)).filter (fun r => decide (r ≠ 0))
    match bad with
    | r :: _ => (hrRefused, w32 r, t)
    | [] =>
      if !flashOk then (hrFlash, 0, t.setGk { t.gk with slots := Tab.set none t.gk.slots (1 - t.gk.running) none })
      else
      let t := t.setGk { t.gk with slots := Tab.set none t.gk.slots (1 - t.gk.running) (some imgs) }
      (0, 0, imgs.foldl (fun t e => t.logImage 1 e.2 0) t)
def execStageSet (flashOk : Bool) (s : State) : Out := .next (s.hostServe 1 (stageSet flashOk))

/-- STAGE_GH (R437): one image goes to the staging area and to the Gatehouse, whose status is returned when it comes. -/
def stageGh (flashOk : Bool) (s : State) : State :=
  if !s.hostAsks 2 || !s.gkMboxFree then s
  else
    let s := s.mirrorConfig
    let (st, img, t) := s.readB gkSrc s.hostAddr (s.hostArg 2).toNat
    let kind := nfld (imgW img 1) 8 8
    if st ≠ 0 ∨ (kind ≠ 1 ∧ kind ≠ 2) then t.hostRespond 2 hrArg 0
    else if !flashOk then t.hostRespond 2 hrFlash 0
    else
      let t := t.setGk { t.gk with staging := img, hostWait := some 2 }
      t.gkRequest (if kind = 1 then 6 else 5) [(0x308, s.hostArg 0), (0x30C, s.hostArg 1), (0x310, s.hostArg 2)]
def execStageGh (flashOk : Bool) (s : State) : Out := .next (stageGh flashOk s)

/-- Whether a broadcast is in progress (R386). -/
def State.bcastBusy (s : State) : Bool :=
  decide (s.regF (gkBootPage + 0x044) 0 6 ≠ 0) && !bit (s.reg (gkBootPage + 0x044)) 6

/-- ACTIVATE (R437, R438). -/
def activate (flashOk : Bool) (s : State) : State :=
  if !s.hostAsks 3 then s
  else
    let s := s.mirrorConfig
    if !s.bel.gkOrders.isEmpty || s.bcastBusy || (Tab.get none s.gk.slots (1 - s.gk.running)).isNone then s.hostRespond 3 hrState 0
    else if !flashOk then s.hostRespond 3 hrFlash 0
    else ((s.setGk { s.gk with selOk := true, active := s.gk.running, try_ := true }).hostRespond 3 0 0).gkRestart 1
def execActivate (flashOk : Bool) (s : State) : Out := .next (activate flashOk s)

/-- CONFIRM (R437, R438). -/
def confirm (flashOk : Bool) (s : State) : Nat × W32 × State :=
  if !s.gk.trial then (hrState, 0, s)
  else if !flashOk then (hrFlash, 0, s)
  else
    let t := s.setGk { s.gk with selOk := true, active := s.gk.running, trial := false, try_ := false }
    (0, 0, t.setReg (gkIdPage + 0x048) (w32 (t.gk.running + 4 * t.gk.active)))
def execConfirm (flashOk : Bool) (s : State) : Out := .next (s.hostServe 4 (confirm flashOk))

/-- COMMIT (R437, R449): asked of the Grotto with the role and epoch of ARG3; answered when the Grotto answers. -/
def hostCommit (s : State) : State :=
  if !s.hostAsks 5 || !s.gkMboxFree then s
  else
    let s := s.mirrorConfig
    let t := s.setGk { s.gk with hostWait := some 5 }
    t.gkRequest 7 [(0x314, s.hostArg 3 &&& 0xFF07#32)]
def execHostCommit (s : State) : Out := .next (hostCommit s)

/-- FAULT_ACK (R437): the classes go to the Gatehouse. -/
def execHostFaultAck (s : State) : Out :=
  .next (s.hostServe 6 (fun t => (0, 0, t.sendMsg idGk idGatehouse 0x24 (bytesLE 4 (fld (t.hostArg 2) 0 16)))))

/-- CAL (R437, R436, R447): the user value is applied and stored. -/
def cal (flashOk : Bool) (s : State) : Nat × W32 × State :=
  let i := (s.hostArg 2).toNat
  if 117 < i then (hrArg, 0, s)
  else if !flashOk then (hrFlash, 0, s.calWrite i (s.hostArg 3).toInt)
  else
    let old := s.calUser i
    let v := (s.hostArg 3).toInt
    let t := s.calWrite i v
    let (eff, uc, ec) := t.calEff i
    let t := t.logAdd 0x0009 (bytesLE 4 i ++ bytesLE 4 (ibits 32 old) ++ bytesLE 4 (ibits 32 v) ++ bytesLE 4 (ibits 32 eff)
      ++ bytesLE 4 (b2n uc + 2 * b2n ec)) true 2
    (0, 0, t.setGk { t.gk with userCal := Tab.set (calUserNeutral i) t.gk.userCal i v })
def execCal (flashOk : Bool) (s : State) : Out := .next (s.hostServe 7 (cal flashOk))

/-- NOTE (R437, R441): the spec does not say how the request gives the record's type, which is a free value within its range. -/
def note (s : State) : Nat × W32 × State :=
  let (n, t) := s.drawNat
  (0, 0, t.logAdd (0x8000 + n % 0x7FFF) ((List.range 6).flatMap (fun i => bytesLE 4 (s.hostArg (2 + i)).toNat)) false 2)
def execNote (s : State) : Out := .next (s.hostServe 8 note)

/-- The EXTEND record of a request (R415, R441), for whom made it. -/
def State.logExtend (s : State) (q : SecReq) (origin : Nat) : State :=
  s.logAdd 0x0007 (bytesLE 4 (fld (q.arg 0x314) 0 3) ++ bytesLE 4 4 ++ q.bytes 0x320 32) true origin

/-- The firmware requests the next extension that waits (R411, R415). -/
def State.gkPump (s : State) : State :=
  match s.gk.extQ with
  | (i, d) :: r => if s.gk.up && s.gkMboxFree then (s.setGk { s.gk with extQ := r }).gkRequest 4 ((0x314, w32 i) :: digestArgs 0x320 d) else s
  | [] => s
/-- An extension of a register that the firmware is to request. -/
def State.gkExtend (s : State) (i : Nat) (d : List Byte) : State := (s.setGk { s.gk with extQ := s.gk.extQ ++ [(i, d)] }).gkPump

/-- What the Groundskeeper does with a Grotto response: its EXTEND is logged, a waiting boot ROM starts the firmware, a waiting host request
is answered, and the next extension is requested. -/
def State.gkOnResp (before s : State) : State :=
  let w := s.reg (secPage + 0x380)
  if before.sec.req.isNone ∨ s.sec.req.isSome ∨ fld w 16 16 ≠ s.regF (secPage + 0x300) 16 16 ∨ s.sec.lastSeq.toNat ≠ fld w 16 16 then s
  else
    let ext := fun (t : State) (o : Nat) => match before.sec.req with
      | some q => if q.kind = 4 then t.logExtend q o else t
      | none => t
    if s.gk.waitExt then (ext s.gkFirmwareUp 3).gkPump
    else
    let s := ext s 0
    let st := fld w 4 4
    State.gkPump <| match s.gk.hostWait with
    | some 5 =>
      s.hostRespond 5 (if st = 0 then 0 else if st = rqState then hrState else if st = rqArg then hrArg else hrRefused) (w32 st)
    | some k => (s.logImage k s.gk.staging st).hostRespond k (if st = 0 then 0 else hrRefused) (w32 st)
    | none => s

/-- EXTEND (R415, R418). -/
def extendServe (q : SecReq) (s : State) : Nat × Nat × List W32 × State :=
  let i := fld (q.arg 0x314) 0 3
  if i < 4 then (rqArg, 0, [], s) else (0, 0, [], s.mrExtend i 4 (q.bytes 0x320 32))
def execExtend (s : State) : Out := .next (s.gkOnResp (s.serve 4 extendServe))
def execGhInstall (s : State) : Out := .next (s.gkOnResp (s.serve 6 ghServe))
def execGrottoCommit (s : State) : Out := .next (s.gkOnResp (s.serve 7 commitServe))

/-! ### Telemetry (R432, R441) -/

/-- A number of free words as bytes: what the spec has the firmware read from outside the part. -/
def State.freeBytes (s : State) : Nat → List Byte × State
  | 0 => ([], s)
  | n + 1 =>
    let (w, t) := s.draw
    let (r, t) := State.freeBytes t n
    (bytesLE 4 w.toNat ++ r, t)

/-- Meaning of TELEMETRY_PERIOD: maximum temperatures of the dies, the stacks and the I/O die, PWR_EST, the 13 rails' voltages and currents
as the regulators report them, the on-die monitors and droop detectors as they stand, and PWR_CNT_DROOP. -/
def telemetry (s : State) : State :=
  let p := s.regF (gkIdPage + 0x058) 0 12
  if !s.gk.up || decide (p = 0) || decide (3600 < p) || decide (s.frc < s.gk.telAt + 500000000 * p) then s
  else
    let (rails, t) := s.freeBytes 26
    let (mons, t) := t.freeBytes 138
    let io := (List.range 12).foldl (fun m i => max m (Tab.get 0 t.pwr.temps (84 + i))) (Tab.get 0 t.pwr.temps 84)
    let pwr := ioPage 0x035
    let body := bytesLE 4 (t.reg (pwr + 0x05C)).toNat ++ bytesLE 4 (t.reg (pwr + 0x060)).toNat
      ++ bytesLE 4 (t.reg (mcPage 0 + 0x040)).toNat ++ bytesLE 4 (t.reg (mcPage 1 + 0x040)).toNat
      ++ bytesLE 4 (ibits 32 (io / 8)) ++ bytesLE 4 (t.reg (pwr + 0x048)).toNat ++ rails ++ mons ++ bytesLE 4 (t.reg (pwr + 0x0D0)).toNat
    (t.setGk { t.gk with telAt := s.frc }).logAdd 0x000A body false 0
def execTelemetryPeriod (s : State) : Out := .next (telemetry s)

end Sys2Proof.Machine
end

