-- ==== Sys2Proof/Machine/Power.lean ====
section
/-! DEFINITION. Power, clocks and temperature (R387 to R403), and KILL_N (R390, R391, R404). -/

namespace Sys2Proof.Machine

def pwrPage : Nat := ioPage 0x035
def ghPwrPage : Nat := ghPage 0x13
def pavCfgA (p : Nat) : Nat := pwrPage + 0x080 + 4 * p
def pavStatA (p : Nat) : Nat := pwrPage + 0x0A0 + 4 * p
def dieStatA (d : Nat) : Nat := pwrPage + 0x05C + 4 * d

/-- Clock of a profile in MHz (R20, R396). -/
def profileMhz (n : Nat) : Nat := if n = 0 then 500 else if n = 1 then 750 else 1000

/-- Ceilings in units of 25 MHz: the power ceiling, and a die's thermal one. -/
def State.ceilC (s : State) : Nat := s.regF (pwrPage + 0x044) 0 6
def State.ceilT (s : State) (d : Nat) : Nat := s.regF (dieStatA d) 0 6

/-- Who may write the power page (R403). -/
def State.pwrMay (s : State) (w : Writer) : Bool := decide (s.writerDom w = domGk) || decide (s.writerDom w = domGh)

def State.vready (s : State) (d : Nat) : Nat := s.regF (pwrPage + 0x054 + 4 * d) 0 2
def State.profile (s : State) (p : Nat) : Nat := s.regF (pavStatA p) 0 2

/-- The clock in force of a Pavilion in MHz (R398). -/
def State.pavClock (s : State) (p : Nat) : Nat :=
  min (profileMhz (s.profile p)) (25 * min s.ceilC (s.ceilT (p / 4)))

/-- The status registers follow the profiles and ceilings (R396, R398, R403). -/
def State.clocks (s : State) : State :=
  let s := s.clkSettle
  let t := (List.range 8).foldl (fun t p =>
    let pend := decide (t.profile p ≠ t.regF (pavCfgA p) 0 2)
    t.setReg (pavStatA p) (w32 (t.profile p + 4 * b2n pend + 65536 * t.pavClock p))) s
  ([0, 1] : List Nat).foldl (fun t d =>
    t.setRegF (dieStatA d) 16 2 ((List.range 4).foldl (fun m p => max m (t.profile (4 * d + p))) 0)) t

/-- Whether a work item runs on a Pavilion's cores (R396). -/
def State.pavBusy (s : State) (p : Nat) : Bool :=
  s.plan.jobs.any (fun e => e.2.isSome && uEncl (pavUid p) (BitVec.ofNat 16 e.1))

/-- The profile in force at a run boundary (R396): the configured one, as far as the rail supports it. -/
def profileChange (p : Nat) (s : State) : State :=
  if s.pavBusy p then s
  else (s.setRegF (pavStatA p) 0 2 (min (s.regF (pavCfgA p) 0 2) (s.vready (p / 4)))).clocks
def execProfileChange (p : Nat) (s : State) : Out := onUnit (decide (p < 8)) (profileChange p s)

/-- PWR_PAV_CFG written (R396, R403): a later write replaces one that has not taken effect. -/
def pavCfgWrite (w : Writer) (p : Nat) (v : W32) (s : State) : State :=
  if s.pwrMay w && decide (fld v 0 2 ≠ 3) then (s.setReg (pavCfgA p) (v &&& 3#32)).clocks else s
def execPwrPavCfgWrite (w : Writer) (p : Nat) (v : W32) (s : State) : Out := onUnit (decide (p < 8)) (pavCfgWrite w p v s)

/-- PWR_VREADY written (R396): a level below a profile in force lowers that profile at once. -/
def vreadyWrite (w : Writer) (d : Nat) (v : W32) (s : State) : State :=
  if s.pwrMay w && decide (fld v 0 2 ≠ 3) then
    let t := s.setReg (pwrPage + 0x054 + 4 * d) (v &&& 3#32)
    ((List.range 4).foldl (fun t i => t.setRegF (pavStatA (4 * d + i)) 0 2 (min (t.profile (4 * d + i)) (fld v 0 2))) t).clocks
  else s
def execPwrVreadyWrite (w : Writer) (d : Nat) (v : W32) (s : State) : Out := onUnit (decide (d < 2)) (vreadyWrite w d v s)

/-- PWR_CAP in units of 0.1 W. -/
def State.cap (s : State) : Nat := ([600, 1000, 1500, 2000] : List Nat).getD (s.regF (pwrPage + 0x040) 0 2) 0

/-- P: the estimates, scaled by their calibrated gains, in units of 0.1 W (R397). -/
def State.capSum (s : State) (est : List Nat) (other : Nat) : Nat :=
  (List.range 8).foldl (fun a i => a + est.getD i 0 * (s.calEff (6 + i)).1.toNat / 65536) other
/-- The clock in force, that of the fastest Pavilion, in MHz. -/
def State.capClock (s : State) : Nat := (List.range 8).foldl (fun m i => max m (s.pavClock i)) 0
/-- C after a tick at an estimate p, in units of 25 MHz (R397). -/
def State.capNext (s : State) (p : Nat) : Nat :=
  if s.cap < p then max 10 (min 40 (s.capClock * s.cap / p / 25))
  else if 20 * p < 19 * s.cap then min 40 (s.ceilC + 1) else s.ceilC
/-- A tick's estimate p and ceiling c put into the registers: PWR_EST, C, the energy and the warnings (R397, R398, R403). -/
def State.capPut (s : State) (p c : Nat) : State :=
  let e := s.pwr.energy + p
  let hi := (List.range 8).foldl (fun m i => max m (profileMhz (s.profile i))) 0
  let t := { s with pwr := { s.pwr with energy := e } }
  let t := (t.setReg (pwrPage + 0x048) (w32 (satN 16 p))).setRegF (pwrPage + 0x044) 0 6 c
  let t := (t.setReg (pwrPage + 0x04C) (w32 (e / 100))).setReg (pwrPage + 0x050) (w32 (e / 100 / 2 ^ 32))
  let t := t.setErrIf (decide (s.cap < p) && decide (s.ceilC = 10)) pwrPage 2
  (if 25 * c < hi then t.count (pwrPage + 0x0C8) else t).clocks
/-- Meaning of CAP_TICK (R397, R398): estimates and telemetry in units of 0.1 W. -/
def capTick (est : List Nat) (other : Nat) (s : State) : State :=
  if s.frc % 50000 ≠ 0 then s else s.capPut (s.capSum est other) (s.capNext (s.capSum est other))
def execCapTick (est : List Nat) (other : Nat) (s : State) : Out := .next (capTick est other s)

/-- Highest of a die's sensors in 0.125 °C (R399): die 2 is the I/O die. -/
def State.dieTemp (s : State) (d : Nat) : Int :=
  let lo := 42 * d
  (List.range (if d < 2 then 42 else 12)).foldl (fun m i => max m (Tab.get 0 s.pwr.temps (lo + i))) (Tab.get 0 s.pwr.temps lo)

/-- A stack's refresh rate (R402, R485): 0 normal, 1 double, 2 four times. -/
def refreshRate (old : Nat) (x : Int) : Nat :=
  if 95 < x then 2 else if old = 2 ∧ 92 ≤ x then 2 else if 85 < x then 1 else if 1 ≤ old ∧ 82 ≤ x then 1 else 0

/-- A die at a thermal tick (R399 to R402, R445): its ceiling, its temperatures and the refresh rate of its stack, at st °C. -/
def State.dieHeat (t : State) (d : Nat) (st : Int) : State :=
  let x := t.dieTemp d
  let hot := max x (8 * st)
  let cool := if hot < 776 then Tab.get 0 t.pwr.cool d + 1 else 0
  let c := if 800 ≤ hot then max 10 (t.ceilT d - 1) else if cool = 10 then min 40 (t.ceilT d + 1) else t.ceilT d
  let t : State := { t with pwr := { t.pwr with cool := Tab.set 0 t.pwr.cool d (cool % 10) } }
  let t := (t.setRegF (dieStatA d) 0 6 c).setRegF (dieStatA d) 8 8 (ibits 8 (x / 8))
  let m := mcPage d + 0x040
  let old := if bit (t.reg m) 2 then 2 else b2n (bit (t.reg m) 1)
  let r := refreshRate old st
  let t := ((t.setRegF m 1 1 (b2n (decide (r = 1)))).setRegF m 2 1 (b2n (decide (r = 2)))).setRegF m 8 8 (ibits 8 st)
  t.setErrIf (decide (760 ≤ hot)) pwrPage 1
/-- Meaning of THERMAL_TICK (R399, R400, R402, R445): sensors in 0.125 °C with their calibrated offsets, stacks in °C. -/
def thermalTick (temps stackTemps : List Int) (s : State) : State :=
  if s.frc % 50000 ≠ 0 then s
  else
    let ts := (List.range 96).foldl (fun t i => Tab.set 0 t i (temps.getD i 0 + (s.calEff (14 + i)).1)) s.pwr.temps
    let t : State := { s with pwr := { s.pwr with temps := ts, stks := [(0, stackTemps.getD 0 0), (1, stackTemps.getD 1 0)] } }
    let t := (t.dieHeat 0 (stackTemps.getD 0 0)).dieHeat 1 (stackTemps.getD 1 0)
    let t := t.setErrIf (decide (760 ≤ t.dieTemp 2)) pwrPage 1
    let t := if decide (t.ceilT 0 < 40) || decide (t.ceilT 1 < 40) then t.count (pwrPage + 0x0CC) else t
    t.clocks
def execThermalTick (temps stackTemps : List Int) (s : State) : Out := .next (thermalTick temps stackTemps s)

/-- Meaning of THERMAL_TRIP (R401): every clock of the die stops; the clock monitor reports it. -/
def thermalTrip (d : Nat) (s : State) : State := s.clkSettle.setRegF (dieStatA d) 18 1 1
def execThermalTrip (d : Nat) (s : State) : Out := onUnit (decide (d < 2)) (thermalTrip d s)

/-- Meaning of DROOP_PAUSE (R395). -/
def droopPause (_i : Nat) (s : State) : State := (s.count (pwrPage + 0x0D0)).setErr pwrPage 3
def execDroopPause (i : Nat) (s : State) : Out := .next (droopPause i s)

/-- Whether a rail warns (R388): its voltage differs from its target by more than 4 %, or its current is above the limit. -/
def railWarns (r : RailReport) : Bool :=
  r.overCurrent || decide (r.target < 25 * (r.volts - r.target)) || decide (r.target < 25 * (r.target - r.volts))

/-- Meaning of RAIL_TELEMETRY_READ (R388, R430): a rail that warns sets RAIL_WARN; nothing is read while the firmware does not
run. -/
def railTelemetry (rails : List RailReport) (s : State) : State := s.setErrIf (s.gk.up && rails.any railWarns) pwrPage 0
def execRailTelemetryRead (rails : List RailReport) (s : State) : Out := .next (railTelemetry rails s)

/-! ### KILL_N (R389 to R391) -/

def State.killed (s : State) : Bool := bit (s.reg (ghPwrPage + 0x044)) 0

/-- Monitor channels disarmed. -/
def State.disarm (s : State) (chans : List Nat) : State :=
  chans.foldl (fun t c =>
    let t := t.setRegF (ghPwrPage + 0x044) (16 + c) 1 0
    { t with pwr := { t.pwr with rails := Tab.modify RailSt.init t.pwr.rails c (fun r => { r with out := 0, inside := none }) } }) s

/-- KILL_N asserted with a cause: 0 reset, 1 rail fault, 2 SET; the compute dies lose their power at once. -/
def State.kill (s : State) (cause : Nat) : State :=
  let t := s.setRegF (ghPwrPage + 0x044) 1 2 cause
  if s.killed then t
  else
    let t := (t.setRegF (ghPwrPage + 0x044) 0 1 1).disarm (List.range 10)
    let t : State := { t with pwr := { t.pwr with armFrom := [] } }
    ((t.setRegF (pwrPage + 0x044) 8 1 0).diePowerOff 0 true).diePowerOff 1 true

/-- GH_PWR_KILL.SET (R390). -/
def killSet (w : Writer) (s : State) : State := if w = .pair then s.kill 2 else s
def execKillSet (w : Writer) (s : State) : Out := .next (killSet w s)

/-- GH_PWR_KILL.REL (R391, R404): ignored while SUPPLY is in its fault state. The Groundskeeper sees KILL_N high and repeats bring-up
from stage 4. -/
def killRelease (w : Writer) (s : State) : State :=
  if w = .pair ∧ s.killed = true ∧ s.fcLevel 12 = 7 then
    let t := (s.setRegF (ghPwrPage + 0x044) 0 1 0).setReg (ghPwrPage + 0x048) 0
    let t := t.setRegF (pwrPage + 0x044) 8 1 1
    if t.gk.up then t.setReg (gkBootPage + 0x040) 4 else t
  else s
def execKillRelease (w : Writer) (s : State) : Out := .next (killRelease w s)

end Sys2Proof.Machine
end

