-- ==== Sys2Proof/Machine/Scan.lean ====
section
/-! DEFINITION. Boundary scan and service access (R458 to R465). TAPs are numbered from TDI: 0 the I/O die, 1 and 2 the compute dies,
3 the Gatehouse. -/

namespace Sys2Proof.Machine

def irBypass : Nat := 0xFF

/-- IDCODE of a TAP (R459). -/
def tapId (t : Nat) : Nat := ([0x2D20156F, 0x2D20256F, 0x2D20256F, 0x2D20356F] : List Nat).getD t 0

/-- Whether a TAP is in the chain (R458): a compute die's is bridged while KILL_N is asserted or its rails are down. -/
def State.tapIn (s : State) (t : Nat) : Bool :=
  decide (t = 0) || decide (t = 3) || (!s.killed && bit (s.reg (gkBootPage + 0x040)) (8 + t))

def State.tap (s : State) (t : Nat) : TapSt := Tab.get TapSt.init s.taps t

/-- Whether an instruction takes the Gatehouse's pins (R462). -/
def irScan (ir : Nat) : Bool := ([3, 4, 5, 6, 7] : List Nat).contains ir

/-- An instruction becomes current at Update-IR, with what its data register then captures (R460, R462). -/
def State.tapLoad (s : State) (t ir dr : Nat) : State :=
  if !s.tapIn t then s
  else
    let u := { s with taps := Tab.set TapSt.init s.taps t { s.tap t with instr := ir, dr := dr } }
    if t = 3 ∧ irScan (s.tap 3).instr = true ∧ irScan ir = false then { u with scanEnd := s.frc } else u

/-- Meaning of TAP_RESET (R458): IDCODE is loaded. -/
def tapReset (t : Nat) (s : State) : State := s.tapLoad t 0x01 (tapId t)
def execTapReset (t : Nat) (s : State) : Out := onUnit (decide (t < 4)) (tapReset t s)
def execIdcode (t : Nat) (s : State) : Out := onUnit (decide (t < 4)) (s.tapLoad t 0x01 (tapId t))

/-- SAMPLE/PRELOAD (R460): the boundary register captures the pins, which is a free value, and takes the cells shifted in. -/
def samplePreload (t cells : Nat) (s : State) : State :=
  let (n, u) := s.drawNat
  let u := u.tapLoad t 0x02 n
  if u.tapIn t then { u with taps := Tab.set TapSt.init u.taps t { u.tap t with cells := cells } } else u
def execSamplePreload (t cells : Nat) (s : State) : Out := onUnit (decide (t < 4)) (samplePreload t cells s)

/-- An instruction over the boundary register. -/
def State.tapBoundary (s : State) (t ir : Nat) : State :=
  let (n, u) := s.drawNat
  u.tapLoad t ir n
def execExtest (t : Nat) (s : State) : Out := onUnit (decide (t < 4)) (s.tapBoundary t 0x03)

/-- The instructions of IEEE 1149.6 are decoded on the I/O die and the Gatehouse only; elsewhere they select BYPASS (R460). -/
def State.tapAc (s : State) (t ir : Nat) : State := if t = 0 ∨ t = 3 then s.tapBoundary t ir else s.tapLoad t irBypass 0
def execExtestPulse (t : Nat) (s : State) : Out := onUnit (decide (t < 4)) (s.tapAc t 0x06)
def execExtestTrain (t : Nat) (s : State) : Out := onUnit (decide (t < 4)) (s.tapAc t 0x07)
def execClamp (t : Nat) (s : State) : Out := onUnit (decide (t < 4)) (s.tapLoad t 0x04 0)
def execHighz (t : Nat) (s : State) : Out := onUnit (decide (t < 4)) (s.tapLoad t 0x05 0)
def execBypass (t : Nat) (s : State) : Out := onUnit (decide (t < 4)) (s.tapLoad t irBypass 0)

/-- The scope that a TAP's debug instructions need (R422): GK on the I/O die, COMPUTE on the compute dies, GATEHOUSE. -/
def tapScope (t : Nat) : Nat := if t = 0 then 1 else if t = 3 then 3 else 2

/-- DEBUG_ACCESS (R460): the debug module of an open scope, else BYPASS. -/
def debugAccess (t op : Nat) (s : State) : State :=
  if bit s.sec.scopes (tapScope t) then s.tapLoad t (0x30 + op) 0 else s.tapLoad t irBypass 0
def execDebugAccess (t : Nat) (op : BitVec 2) (s : State) : Out := onUnit (decide (t < 4)) (debugAccess t op.toNat s)

/-! ### Pins under scan (R462, R464) -/

/-- A gate pin of output n (high or low side) as the package sees it: scan holds it low, or drives its preloaded cell under service
access; cells 2n and 2n + 1 are the model's numbering. -/
def State.gatePin (s : State) (n : Nat) (low : Bool) : Bool :=
  if s.scanOn then s.svcAccess && decide ((s.tap 3).instr ≠ 5) && nbit (s.tap 3).cells (2 * n + b2n low)
  else if low then s.lsPin n else s.hsPin n

/-- KILL_N as driven (R390, R462, R464): cell 8 under EXTEST with service access, the hard-wired logic otherwise. -/
def State.killPin (s : State) : Bool :=
  if s.svcAccess && decide ((s.tap 3).instr = 3) then nbit (s.tap 3).cells 8 else !s.killed

/-! ### Service access (R463) -/

/-- Every output SAFE with its latch set for 1 s, and no scope open but CONSOLE. SERVICE itself is the command's own. -/
def State.svcReady (s : State) : Bool :=
  ([0, 1, 2, 3].all fun n => !s.permit n && s.latched n && decide (Tab.get 0 s.safeSince n + 500000000 ≤ s.frc))
    && decide (s.sec.scopes.toNat < 2) && decide (s.scopesAt + 500000000 ≤ s.frc)

/-- Meaning of SERVICE_ACCESS_GRANT: SERVICE has been high for 1 s too. -/
def serviceGrant (s : State) : State :=
  if s.svcReady && !s.svcAccess then { s with svcAccess := true, svcFrom := some s.frc } else s
def execServiceAccessGrant (s : State) : Out := .next (serviceGrant s)

/-- Meaning of SERVICE_ACCESS_END. -/
def serviceEnd (s : State) : State := if s.svcAccess then { s with svcAccess := false, svcFrom := none, svcEnd := s.frc } else s
def execServiceAccessEnd (s : State) : Out := .next (serviceEnd s)

end Sys2Proof.Machine
end

