-- ==== Sys2Proof/Machine/Boot.lean ====
section
/-! DEFINITION. Power-on, the Gatehouse's and the I/O die's resets, the safety parameter record (R242, R303, R365, R366, R391 to
R393, R411, R412, R491), rail and clock monitoring (R278, R389, R392) and the firmware switch (R384). -/

namespace Sys2Proof.Machine

def ghRstPage : Nat := ghPage 0x00
def ghIoCtrlA : Nat := ghRstPage + 0x048
def beliefPage : Nat := ghPage 0x01
def t1sPage : Nat := ghPage 0x15

/-! ### The I/O die (R366, R392) -/

/-- Registers of a range of addresses, and of the package's unit window, back to their reset values. -/
def State.ioRegs (s : State) : State :=
  let mine := fun (k : Nat) => (decide (ioPage 0 ≤ k) && decide (k < ioPage 0x1000))
    || (match winUnit k with | some u => decide (uLevel u = 4) | none => false)
  { s with regs := Tab.keep s.regs (fun k => !mine k),
           fwForce := Tab.keep s.fwForce (fun k => !mine k),
           once := Tab.keep s.once (fun k => !mine k),
           risen := s.risen.filter (fun e => !mine e.1) }

/-- What a reset of the I/O die clears: its pages, the run-plan block, the receive paths, the Groundskeeper's running state, its
messages and its link ends. The boot flash, fuses and OTP keep what they hold, a watchdog its bite record (R277), and a trip holds until
its die is reset (R401). -/
def State.ioReset (s : State) : State :=
  let t := ([2, 3, 4, 5] : List Nat).foldl State.wdReset s
  let keep := ([2, 3, 4, 5] : List Nat).map (fun w => (t.regF (wdStatA w) 4 3, t.reg (wdPage w + 0x058)))
  let trip := fun (d : Nat) => ioPage 0x035 + 0x05C + 4 * d
  let (t0, t1) := (t.regF (trip 0) 18 1, t.regF (trip 1) 18 1)
  let t := (t.ioRegs.setRegF (trip 0) 18 1 t0).setRegF (trip 1) 18 1 t1
  let t := (keep.zipIdx).foldl (fun t e =>
    (t.setRegF (wdStatA (2 + e.2)) 4 3 e.1.1).setReg (wdPage (2 + e.2) + 0x058) e.1.2) t
  let t := (t.clearStreams 4)
  let ids := ([idGk, idRunPlan, idConc 2] : List (BitVec 16)).map BitVec.toNat
  let t := { t with
    tx := t.tx.filter (fun e => !ids.contains (e.1 / 65536)),
    reqs := t.reqs.filter (fun e => decide (e.1 / 2 ^ 34 ≠ 2)),
    ucmds := t.ucmds.filter (fun e => decide (uLevel (BitVec.ofNat 16 e.1) ≠ 4)),
    vecAt := Tab.set 0 t.vecAt 2 t.frc,
    icuSvc := Tab.clearIn t.icuSvc 1024 2048, icuHold := Tab.clearIn t.icuHold 1024 2048,
    cvuOld := Tab.clearIn t.cvuOld 4 8, cvuLast := Tab.clearIn t.cvuLast 4 8,
    cvuStalled := t.cvuStalled.filter (fun x => decide (x.unit < 4)),
    plan := { PlanSt.init with jobs := t.plan.jobs, saved := t.plan.saved, req := t.plan.req },
    rx := RxSt.init,
    uart := UartSt.init,
    pcie := PcieSt.init,
    cal := { t.cal with user := Tab.keep t.cal.user (fun i => decide (118 ≤ i)) },
    pwr := { t.pwr with energy := 0, cool := [] },
    bel := { t.bel with gkOrders := [], gkAreas := [] },
    sec := { t.sec with lastSeq := 0, measRead := false,
                        req := match t.sec.req with | some q => if q.tap then some q else none | none => none },
    gk := { t.gk with up := false, halted := false, waitExt := false, romWait := false, released := none, restarts := [], served := 0,
                      inbox := [], hostWait := none, extQ := [], mirror := (0, 0), buf := [], trial := false, hdr := [] } }
  let t := (List.range' 110 8).foldl State.calApply (t.setRep 0 { t.rep 0 with word := none, off := 0 })
  let t := ([4, 5, 8, linkPartner 4, linkPartner 5, linkPartner 8] : List Nat).foldl State.lkResetEnd t
  let t := (t.closeScopes 3).chkDrop (fun n => decide (chkLane n = 10))
  s.withFalls t

/-- IO_LOST: the I/O die is down for a reason, key 1 held in reset, 2 its clock (R225, R278, R366, R392). -/
def State.ioLost (s : State) (why : Nat) (on : Bool) : State :=
  let key := 16 * 39 + why
  let t := s.extHigh key on
  if on then (if Tab.get false s.fcExt key then t else t.fcEvent 39 none false false none) else s.withFalls t

/-- The I/O die falls into reset after it had been released. -/
def State.ioDown (s : State) : State := ((s.setRegF ghIoCtrlA 0 1 0).ioReset).ioLost 1 true

/-- Writers of GH_IO_CTRL (R385). -/
def ioCtrlMay (w : Writer) : Bool := decide (w = .pair) || decide (w = .rom)

/-- Meaning of IO_DIE_RELEASE (R365, R366): the I/O die leaves reset and its boot ROM waits for the credentials (R411). -/
def ioDieRelease (w : Writer) (s : State) : State :=
  if !ioCtrlMay w || s.gk.released.isSome then s
  else
    let t := (s.setRegF ghIoCtrlA 0 1 1).setRegF (gkBootPage + 0x040) 0 4 3
    let t := { t with gk := { t.gk with released := some t.frc, romWait := true },
                      sec := { t.sec with releases := t.sec.releases + 1, measRead := false } }
    t.ioLost 1 false
def execIoDieRelease (w : Writer) (s : State) : Out := .next (ioDieRelease w s)

/-- Meaning of IO_DIE_RESET (R366): RELEASE written 0 after release. -/
def ioDieReset (w : Writer) (s : State) : State :=
  if ioCtrlMay w && bit (s.reg ghIoCtrlA) 0 then s.ioDown else s
def execIoDieReset (w : Writer) (s : State) : Out := .next (ioDieReset w s)

/-- Meaning of IO_DIE_THERMAL_RESET (R400): the I/O die's own comparator holds it in reset. -/
def ioThermal (s : State) : State := if s.gk.released.isSome then s.ioReset.ioLost 1 true else s
def execIoDieThermalReset (s : State) : Out := .next (ioThermal s)

/-! ### The Gatehouse's resets (R232, R303, R366, R412) -/

/-- Whether an eFlash place may be used (R409, R411): what has been installed there passes its checks; what the part was shipped with, which
the spec does not give, passes where the command says so. -/
def State.flashOk (s : State) (role kind i : Nat) (shipped : Bool) (img : List Byte) : Bool :=
  if Tab.get [] s.sec.flash i = [] then shipped else decide (imgCheck role kind (s.otpKey role) (s.arbOf role) img = 0)

/-- The Gatehouse boot ROM (R411, R412): the slot that TRY names is verified again and runs once where it passes; otherwise the ACTIVE
slot's firmware runs, where it passes. -/
def State.ghRom (s : State) (imageOk : Bool) : State :=
  let x := s.sec
  let t := { s with sec := { x with try_ := false } }
  let (other, t) := if x.try_ then t.flashRead (1 - x.active) else ([], t)
  let (img, t) := t.flashRead x.active
  let go := fun (t : State) (slot : Nat) (img : List Byte) =>
    { t.mrExtend 0 1 (sha256 (img.take 64)) with
      ghUp := true, sec := { (t.mrExtend 0 1 (sha256 (img.take 64))).sec with running := slot } }
  if x.try_ && s.flashOk 0 1 (1 - x.active) false other then go t (1 - x.active) other
  else if s.flashOk 0 1 x.active imageOk img then go t x.active img
  else { t with ghUp := false }

/-- Meaning of GATEHOUSE_POWER_ON (R303, R365, R393): every register and counter starts from its reset value, the free-running counter
from 0; OTP, eFlash and boot flash keep what they hold. -/
def State.powerOn (s : State) (imageOk : Bool) : State :=
  let x := s.sec
  let g := s.gk
  let t := { State.reset with
    pending := s.pending, free := s.free, out := s.out, fusedMap := s.fusedMap,
    cal := { CalSt.init with fact := s.cal.fact }, convFlip := s.convFlip,
    ghSyn := Tab.keep s.ghSyn (fun a => decide (a < 0x400000)),
    sec := { SecSt.init with serial := x.serial, keyHash := x.keyHash, revoked := x.revoked, arb := x.arb, flash := x.flash,
                             active := x.active, try_ := x.try_, recNew := x.recNew, ring := x.ring, ringPos := x.ringPos,
                             trees := x.trees, draws := x.draws },
    gk := { GkSt.init with selOk := g.selOk, active := g.active, try_ := g.try_, slots := g.slots, staging := g.staging,
                           retire := g.retire, userCal := g.userCal, log := g.log, rseq := g.rseq, sseq := g.sseq, bootId := g.bootId } }
  let t := (List.range' 110 11).foldl State.calApply t
  ((t.setReg (ghRstPage + 0x040) 1).setLatches 15 lcReset).ghRom imageOk
def execGatehousePowerOn (imageOk : Bool) (s : State) : Out := .next (s.powerOn imageOk)

/-- What a Gatehouse reset clears beside registers (R184, R232, R253, R300, R405, R415). -/
def State.ghClear (s : State) (debug : Bool) : State :=
  let t := ([0, 1] : List Nat).foldl State.wdReset s
  let kept := fun (k : Nat) => decide (k = ghRstPage + 0x040) || ([0, 1] : List Nat).any (fun w =>
    decide (k = wdStatA w) || decide (k = wdPage w + 0x058))
  let t := t.resetRegs (ghPage 0) (ghPage 0x100) kept
  let t := ([0, 1, 2, 3] : List Nat).foldl State.clearStreams t
  let x := t.sec
  let t := { t with
    risen := t.risen.filter (fun e => decide (pageDie e.1 ≠ 3)),
    tx := t.tx.filter (fun e => decide (e.1 / 65536 ≠ idGatehouse.toNat)),
    cvuOld := Tab.clearIn t.cvuOld 0 4, cvuLast := Tab.clearIn t.cvuLast 0 4,
    cvuStalled := t.cvuStalled.filter (fun x => decide (4 ≤ x.unit)), icuSvc := Tab.clearIn t.icuSvc 0 1024, icuHold := Tab.clearIn t.icuHold 0 1024,
    fcGrp := [], fcCls := [], fcExt := [], fcKnown := [], roseAt := [], fcLink := [], latentAt := [], silent := [], evid := [], clkBad := [],
    fcMinute := t.frc + 30000000000, cyc := CycleSt.init,
    sio := { SioSt.init with hwLevel := t.sio.hwLevel, prLevel := t.sio.prLevel, closedAt := t.sio.closedAt, openAt := t.sio.openAt },
    bs := BsSt.init, bel := BeliefSt.init, win := WinSt.init, bv := BvSt.init, fol := FolSt.init, t1s := T1sSt.init, tsm := TsmSt.init, fwHold := none, areasOk := false,
    svcAccess := false, svcFrom := none, ghUp := false, prevDom := [],
    safeSince := ([0, 1, 2, 3] : List Nat).foldl (fun m n => Tab.set 0 m n t.frc) [],
    cal := { t.cal with user := Tab.keep t.cal.user (fun i => decide (i < 118)) },
    pwr := { t.pwr with rails := [], armFrom := [] },
    sec := { x with mr := [], challenge := none, req := none, tapIn := [], tapOut := [], block := none, quoteAt := none, lastSeq := 0,
                    releases := 0, ghResets := x.ghResets + 1, measRead := false, recHdr := [] } }
  let t := (List.range' 118 3).foldl State.calApply t
  let t := t.setScopes (if debug then t.sec.scopes else t.sec.scopes &&& 7)
  let t := ([9, 10, 11, 6, 7, 8] : List Nat).foldl State.lkResetEnd t
  t.setLatches 15 lcReset

/-- A Gatehouse reset with a cause bit (R232, R366, R385, R390): the compute dies lose their power, the I/O die falls into reset,
and the boot ROM starts. -/
def State.ghReset (s : State) (cause : Nat) (imageOk : Bool) : State :=
  let t := (s.kill 0).ioReset
  let t := t.ghClear (decide (cause = 4))
  (t.setReg (ghRstPage + 0x040) (setBit (t.reg (ghRstPage + 0x040)) cause true)).ghRom imageOk

/-- Meaning of GATEHOUSE_RESET: causes 1 the pin, 2 supervision, 3 a clock, 4 a debugger, for which a GATEHOUSE scope must be open
(R385, R422). -/
def gatehouseReset (cause : Nat) (imageOk : Bool) (s : State) : State :=
  if cause = 0 ∨ 4 < cause ∨ (cause = 4 ∧ bit s.sec.scopes 3 = false) then s else s.ghReset cause imageOk
def execGatehouseReset (cause : BitVec 3) (imageOk : Bool) (s : State) : Out := .next (gatehouseReset cause.toNat imageOk s)

/-- Meaning of WATCHDOG_GATEHOUSE_RESET (R277): 10 µs after the boundary that follows a class S bite. -/
def wdGatehouseReset (imageOk : Bool) (s : State) : State :=
  let due := fun (w : Nat) => decide (s.wdState w = wdBitten) && (match (s.wd w).boundary with
    | some b => decide (b + 5000 ≤ s.frc)
    | none => false)
  if due 0 || due 1 then s.ghReset 2 imageOk else s
def execWatchdogGatehouseReset (imageOk : Bool) (s : State) : Out := .next (wdGatehouseReset imageOk s)

/-- Meaning of WATCHDOG_CORE_RESET (R277, R429): 10 ms after the bite of a Groundskeeper core's watchdog. -/
def wdCoreReset (c : Nat) (s : State) : State :=
  let w := 2 + c
  if s.wdState w = wdBitten ∧ (s.wd w).biteAt + 5000000 ≤ s.frc then
    let t := s.gkRestart 2
    if t.wdState w = wdBitten then t.wdReset w else t
  else s
def execWatchdogCoreReset (c : Nat) (s : State) : Out := onUnit (decide (c < 4)) (wdCoreReset c s)

/-- Meaning of BROWN_OUT (R393): the Gatehouse is held in reset, every gate pin and compute rail off. -/
def brownOut (s : State) : State := (((s.kill 0).ioReset).ghClear false)
def execBrownOut (s : State) : Out := .next (brownOut s)

/-- Meaning of BROWN_OUT_RECOVERY (R393). -/
def execBrownOutRecovery (imageOk : Bool) (s : State) : Out := .next (s.powerOn imageOk)

/-! ### Clock monitor (R278) -/

/-- Meaning of CLOCK_MONITOR_WINDOW: clocks 0 and 1 of the compute dies, 2 of the I/O die, 3 and 4 of the Gatehouse. -/
def clockWindow (c : Nat) (good imageOk : Bool) (s : State) : State :=
  let n := Tab.get 0 s.clkBad c
  let t := { s with clkBad := Tab.set 0 s.clkBad c (if good then 0 else min 4 (n + 1)) }
  if good then
    (if c < 2 then s.withFalls (t.extHigh (16 * (30 + c)) false) else if c = 2 then t.ioLost 2 false else t)
  else if n ≠ 3 then t
  else if c < 2 then (t.extHigh (16 * (30 + c)) true).fcEvent (30 + c) none false false none
  else if c = 2 then t.ioLost 2 true
  else t.ghReset 3 imageOk
def execClockMonitorWindow (c : Nat) (good imageOk : Bool) (s : State) : Out := onUnit (decide (c < 5)) (clockWindow c good imageOk s)

/-! ### Rails (R389, R392) -/

/-- Fault window of a monitor channel in mV (R387). -/
def railWindow (c : Nat) : Nat × Nat :=
  ([(550, 920), (680, 830), (1000, 1200), (360, 440), (1650, 1950), (550, 920), (680, 830), (1000, 1200), (360, 440), (1650, 1950),
    (680, 830), (820, 980), (1650, 1950)] : List (Nat × Nat)).getD c (0, 65535)

def State.rail (s : State) (c : Nat) : RailSt := Tab.get RailSt.init s.pwr.rails c
def State.setRail (s : State) (c : Nat) (r : RailSt) : State :=
  { s with pwr := { s.pwr with rails := Tab.set RailSt.init s.pwr.rails c r } }
def State.armed (s : State) (c : Nat) : Bool := bit (s.reg (ghPwrPage + 0x044)) (16 + c)

/-- Whether an order outstanding names a compute die or the package (R389). -/
def State.dieOrdered (s : State) (d : Nat) : Bool :=
  s.bel.orders.any (fun o => decide (o.state < 3) && (match o.scope with
    | .die e => decide (e = d)
    | .package => true
    | _ => false))

/-- A rail is out of its window (R390, R392). -/
def State.railFault (s : State) (c : Nat) : State :=
  let t := s.setReg (ghPwrPage + 0x048) (setBit (s.reg (ghPwrPage + 0x048)) c true)
  if c < 10 then (t.setErr ghPwrPage c).kill 1 else t.ioDown

/-- Meaning of RAIL_MONITOR_SAMPLE (R389): the sample in mV, scaled by the channel's calibration. -/
def railSample (c mv : Nat) (s : State) : State :=
  let v := mv * (s.calEff (121 + c)).1.toNat / 65536
  let (lo, hi) := railWindow c
  let inside := decide (lo ≤ v) && decide (v ≤ hi)
  let r := s.rail c
  let out := if inside then 0 else min 3 (r.out + 1)
  let on := if c < 10 then s.armed c else bit (s.reg ghIoCtrlA) 0
  if on then
    let t := s.setRail c { r with mv := satN 16 v, out := out }
    if out = 3 ∧ r.out < 3 then t.railFault c else t
  else if 10 ≤ c ∨ s.killed = true ∨ s.dieOrdered (c / 5) = true then s.setRail c ⟨satN 16 v, 0, none⟩
  else
    let since := if inside then some (r.inside.getD s.frc) else none
    let t := s.setRail c ⟨satN 16 v, 0, since⟩
    match since with
    | some t0 => if t0 + 500000 ≤ s.frc then t.setRegF (ghPwrPage + 0x044) (16 + c) 1 1 else t
    | none => t
def execRailMonitorSample (c mv : Nat) (s : State) : Out := onUnit (decide (c < 13)) (railSample c mv s)

/-- Meaning of RAIL_ARM_TIMEOUT (R389). -/
def railArmTimeout (c : Nat) (s : State) : State :=
  match Tab.get none s.pwr.armFrom (c / 5) with
  | some t0 => if s.armed c = false ∧ s.killed = false ∧ t0 + 5000000 ≤ s.frc then s.railFault c else s
  | none => s
def execRailArmTimeout (c : Nat) (s : State) : Out := onUnit (decide (c < 10)) (railArmTimeout c s)

/-! ### Compute dies and training (R365, R368, R369, R378) -/

/-- Meaning of COMPUTE_DIE_POWER_UP: with KILL_N released the Groundskeeper raises the rails; the fused maps are applied, then the
retirement record, which never undoes a fused mapping; the die's TAP starts anew (R458). -/
def diePowerUp (d : Nat) (s : State) : State :=
  if s.killed || !s.gk.up || bit (s.reg (gkBootPage + 0x040)) (9 + d) then s
  else
    let t := { s with cal := { s.cal with fuses := s.cal.fuses ||| BitVec.ofNat 2 (2 ^ d) },
                      taps := Tab.set TapSt.init s.taps (1 + d) TapSt.init }
    let t := (clusOf (dieUid d)).foldl State.applyRec t
    let t := t.setRegF (gkBootPage + 0x040) (9 + d) 1 1
    let b := t.reg (gkBootPage + 0x040)
    if fld b 0 4 = 4 ∧ fld b 9 2 = 3 then t.setRegF (gkBootPage + 0x040) 0 4 5 else t

/-- Meaning of DRAM_TRAINING_COMPLETE: TRAINED, or a stop at stage 5. Stage 6 follows once links and stacks are trained. -/
def dramTrained (d : Nat) (ok : Bool) (s : State) : State :=
  if !bit (s.reg (gkBootPage + 0x040)) (9 + d) then s
  else if !ok then s.setRegF (gkBootPage + 0x040) 12 4 5
  else
    let t := s.setRegF (mcPage d + 0x040) 0 1 1
    let all := ([0, 1] : List Nat).all (fun e => bit (t.reg (mcPage e + 0x040)) 0 && bit (t.reg (uPage (dieUid e) 1 + 0x040)) 0)
    if all ∧ t.regF (gkBootPage + 0x040) 0 4 = 5 then t.setRegF (gkBootPage + 0x040) 0 4 6 else t

/-! ### The safety parameter record (R172, R242, R350, R491) -/

def inR (lo hi x : Nat) : Bool := decide (lo ≤ x) && decide (x ≤ hi)

/-- One pair's fields (R242, R261): ranges and SENDER of every pair, TP outputs of the pairs that use them. -/
def recordPairOk (r : SafetyRecord) (k : Nat) (p : PairCfg) : Bool :=
  let other := if k % 2 = 0 then r.pairs[k + 1]? else r.pairs[k - 1]?
  decide (p.func ≤ 5) && decide (p.tpA < 4) && decide (p.tpB < 4)
  && (p.sender || decide (p.func = 0) || decide (p.tpA ≠ p.tpB))
  && !(p.auto && (decide (p.func = fnEstop) || decide (p.func = fnTwohand))) && (!p.sender || decide (p.func = 5))
  && inR 1 1000 p.disc && decide (p.filter ≤ 40)
  && (decide (p.func ≠ fnTwohand) || (match other with
        | some q => decide (q.func = fnTwohand) && decide (q.mask = p.mask)
        | none => false))

/-- Validity of a record (R242, R261, R350 and the ranges of the registers it fills). -/
def recordOk (r : SafetyRecord) : Bool :=
  inR 500 10000 r.ghCycle && inR 1 100 r.verdictCycles && r.grace.all (fun g => decide (g ≤ 5000)) && inR 10 1000 r.stInterval
  && r.quiet.all (inR 1 60000) && r.budget.all (fun b => decide (b ≤ 255))
  && inR 100 1000 r.tpWidth && inR 10 1000 r.tpPeriod && inR 100 10000 r.dtPeriod && inR 20 250 r.dtSettle
  && decide (r.resumeTpA < 4) && decide (r.resumeTpB < 4) && inR 10 200 r.resumeDisc && decide (r.resumeFilter ≤ 40)
  && decide (r.pairs.length ≤ 16) && r.pairs.zipIdx.all (fun e => recordPairOk r e.2 e.1)
  && (List.range 4).all (fun n => r.outKind.getD n false || r.outResumeEn.getD n true)
  && inR 2 8 r.nodes && inR 16 255 r.toBt && inR 100 5000 r.quietUs
  && r.peers.zipIdx.all (fun e => !e.1.en ||
       (decide (e.2 + 1 < r.nodes) && inR 10 1000 e.1.hbPeriod && inR 30 10000 e.1.hbTimeout))

/-- The RW registers that a record sets (R172, R220, R237): their addresses and values. -/
def recordRw (r : SafetyRecord) : List (Nat × W32) :=
  [(beliefPage + 0x040, w32 r.ghCycle), (beliefPage + 0x044, w32 r.verdictCycles)]
  ++ (List.range 4).map (fun n => (beliefPage + 0x048 + 4 * n, w32 (r.grace.getD n 1500)))
  ++ [(ghPage 0x03 + 0x044, w32 r.stInterval)]
  ++ (List.range' 2 14).flatMap (fun k =>
    [(fcQuietA k, w32 (r.quiet.getD k (fcDefault k).1)), (fcBudgetA k, w32 (r.budget.getD k (fcDefault k).2))])

/-- The registers that a valid record fills. -/
def State.loadRecord (s : State) (r : SafetyRecord) : State :=
  let w := w32
  let t := (recordRw r).foldl (fun t e => t.setReg e.1 e.2) s
  let t := t.setReg (sioPage + 0x044) (w (r.tpWidth + 65536 * r.tpPeriod))
  let t := t.setReg (sioPage + 0x048) (w (r.dtPeriod + 65536 * r.dtSettle))
  let t := t.setReg (sioPage + 0x04C) (w (r.resumeTpA + 4 * r.resumeTpB + 256 * r.resumeDisc + 65536 * r.resumeFilter))
  let t := r.pairs.zipIdx.foldl (fun t e =>
    let p := e.1
    t.setReg (siCfgA e.2) (w (p.func + 8 * b2n p.auto + 16 * p.tpA + 64 * p.tpB + 256 * b2n p.sender + 4096 * p.mask.toNat
      + 65536 * p.disc + 2 ^ 26 * p.filter))) t
  let t := (List.range 4).foldl (fun t n =>
    t.setReg (soCfgA n) (w (b2n (r.outKind.getD n false) + 2 * b2n (r.outResumeEn.getD n true)))) t
  let t := (r.tasks.take 256).zipIdx.foldl (fun t e => t.setReg (ghPage 0x09 + 0x400 + 4 * e.2) (e.1 &&& 0xFF0FF1#32)) t
  let t := t.setReg (t1sPage + 0x040) (w (r.nodes + 256 * r.toBt + 65536 * r.quietUs))
  let mac := fun (t : State) (a : Nat) (m : BitVec 48) => (t.setReg a (w (fld m 0 32))).setReg (a + 4) (w (fld m 32 16))
  let t := (mac (mac t (t1sPage + 0x044) r.mac) (t1sPage + 0x04C) r.vda).setReg (t1sPage + 0x054) (w r.etype.toNat)
  let t := (r.peers.take 7).zipIdx.foldl (fun t e =>
    let a := t1sPage + 0x110 + 16 * e.2
    (mac t a e.1.mac).setReg (a + 8) (w (b2n e.1.en + 2 * b2n e.1.hbReq + 16 * e.1.hbPeriod + 65536 * e.1.hbTimeout))) t
  let t := (r.calUser.take 16).zipIdx.foldl (fun t e => t.calWrite (118 + e.2) e.1) t
  { t with cyc := { t.cyc with us := r.ghCycle, verdictCycles := r.verdictCycles }, sio := { t.sio with recOk := true } }

/-- Pairs as they start (R245). -/
def State.startPairs (s : State) : State :=
  (List.range 16).foldl (fun t k =>
    if t.siFunc k = 0 then t
    else
      let t := (t.setRegF (siStatA k) 6 1 (b2n (t.siActive false k 0))).setRegF (siStatA k) 7 1 (b2n (t.siActive false k 1))
      ([false, true] : List Bool).foldl (fun t hw =>
        if !t.siEval hw k then t
        else if t.siActive hw k 0 || t.siActive hw k 1 then t.pairFault hw k 1 0 else t.setSiState hw k prStopped) t) s

/-- The RESUME contacts as evaluation starts: it arms where both are filtered open (R257). -/
def State.armResume (s : State) : State :=
  let t := (s.setRegF sioResStatA 0 1 (b2n (s.siLevel true 32))).setRegF sioResStatA 1 1 (b2n (s.siLevel true 33))
  t.setSio { t.sio with ready := !s.siLevel true 32 && !s.siLevel true 33 }

/-- The copy of the record that takes effect (R411): the newer one where it is valid, else the older. -/
def State.recCopy (s : State) : Option (List Byte) × State :=
  let a := if s.sec.recNew = 3 then 3 else 2
  let b := 5 - a
  let (x, s) := s.flashRead a
  if s.flashOk 1 2 a true x then (some x, s)
  else
    let (y, s) := s.flashRead b
    if s.flashOk 1 2 b true y then (some y, s) else (none, s)

/-- Meaning of SAFETY_RECORD_LOAD (R491): once per Gatehouse reset, the record or the absence of a valid one takes effect; the first
boundary is the first multiple of the control cycle at or after it, and is a verdict instant. -/
def recordLoad (r : Option SafetyRecord) (s : State) : State :=
  if !s.ghUp || s.cyc.recLoad.isSome then s
  else
    let t := match r with
      | some x =>
        match s.recCopy with
        | (some img, s) =>
          if recordOk x then
            let hdr := img.take 64
            (({ s with sec := { s.sec with recHdr := hdr } }.mrExtend 1 2 (sha256 hdr)).loadRecord x).startPairs
          else s
        | (none, s) => s
      | none => s
    let t := t.armResume
    let p := 500 * t.cyc.us
    { t with cyc := { t.cyc with recLoad := some t.frc, next := some ((t.frc + p - 1) / p * p), since := t.cyc.verdictCycles - 1 } }.drive
def execSafetyRecordLoad (r : Option SafetyRecord) (s : State) : Out := .next (recordLoad r s)

/-! ### The firmware switch (R251, R384) -/

def fwswStatA : Nat := ghRstPage + 0x050

/-- Whether an output is ON with both switches commanded on. -/
def State.outOn (s : State) (n : Nat) : Bool := s.lsWanted n && s.hsWanted n

/-- The first condition of a grant that fails (R384), 0 for none; the outstanding-order condition stands under `orders`. -/
def State.fwswDenied (s : State) (orders : Bool) : Nat :=
  if ([0, 1, 2, 4] : List Nat).any (fun k => decide (s.fcLevel k ≠ 7) && decide (s.fcLevel k ≠ 0)) then 1
  else if (List.range 16).any (fun k => decide (s.siState false k = prFault) || decide (s.siState true k = prFault))
      || ([0, 1, 2, 3] : List Nat).any s.locked then 2
  else if ([0, 1, 2, 3] : List Nat).any (fun n => s.outOn n && ([0, 1] : List Nat).any (fun b =>
      decide (Tab.get 0 s.sio.darkPass (2 * n + b) = 0) || decide (Tab.get 0 s.sio.darkPass (2 * n + b) + s.dtPeriod ≤ s.frc))) then 3
  else if orders && (s.bel.pend.isSome || s.bel.orders.any (fun o => decide (o.state < 3))) then 4
  else if decide (Tab.get 0 s.clkBad 3 ≠ 0) || decide (Tab.get 0 s.clkBad 4 ≠ 0) then 5
  else 0

/-- Meaning of FIRMWARE_SWITCH_REQUEST: granted or denied with the first failing condition. -/
def fwSwitch (w : Writer) (s : State) : State :=
  if w ≠ .pair ∨ s.fwHold.isSome then s
  else
    let d := s.fwswDenied true
    if d ≠ 0 then s.setRegF fwswStatA 4 3 d
    else
      let t := (s.setRegF fwswStatA 0 2 1).setRegF fwswStatA 4 3 0
      (({ t with fwHold := some t.frc }.wdReset 0).ghRom true).drive
def execFirmwareSwitchRequest (w : Writer) (s : State) : Out := .next (fwSwitch w s)

/-- The hold ends in a state with its length in units of 10 µs. -/
def State.fwEnd (s : State) (t0 : Tick) (st : Nat) : State :=
  { (s.setRegF fwswStatA 0 2 st).setRegF fwswStatA 16 16 (satN 16 ((s.frc - t0) / 5000)) with fwHold := none }

/-- Meaning of FIRMWARE_SWITCH_DONE. -/
def fwDone (w : Writer) (s : State) : State :=
  match s.fwHold with
  | some t0 => if w = .pair ∧ s.frc < t0 + 25000000 then (s.fwEnd t0 2).drive else s
  | none => s
def execFirmwareSwitchDone (w : Writer) (s : State) : Out := .next (fwDone w s)

/-- A hold that fails, by its time or by a condition of its grant: the expiry of R251 acts at once. -/
def State.fwFail (s : State) (t0 : Tick) : State :=
  let t := (s.fwEnd t0 3).setErr ghRstPage 0
  ((t.setReg sioHsCmdA 0).setSio { t.sio with hsValid := none }).setLatches 15 lcProcessor |>.drive

/-- Meaning of FIRMWARE_SWITCH_TIMEOUT; a condition of the grant that fails ends the hold too. -/
def fwTimeout (s : State) : State :=
  match s.fwHold with
  | some t0 => if t0 + 25000000 ≤ s.frc ∨ s.fwswDenied false ≠ 0 then s.fwFail t0 else s
  | none => s
def execFirmwareSwitchTimeout (s : State) : Out := .next (fwTimeout s)

end Sys2Proof.Machine
end

