-- ==== Sys2Proof/Machine/Plan.lean ====
section
/-! DEFINITION. Graph packages (R87 to R89, R102, R119, R208, R410), run-plan banks (R90 to R97, R100, R326) and the bank switch
(R94, R173, R174). -/

namespace Sys2Proof.Machine

def rpPage : Nat := ioPage 0x010
def rpActiveA : Nat := rpPage + 0x040
def rpStatA : Nat := rpPage + 0x04C
def rpPkgStatA : Nat := rpPage + 0x06C
def rpResultA : Nat := rpPage + 0x074

/-- Stores of bank b (R479): run-plan entries, trigger records from entry 16 on, and service records. -/
def bankStore (b : Nat) : Nat := ioPage (0x011 + 4 * b)
def trigStore (b : Nat) : Nat := ioPage (0x019 + b)
def svcStore (b : Nat) : Nat := ioPage (0x01B + b)

def State.activeBank (s : State) : Nat := s.regF rpActiveA 0 1
/-- The redundancy mode that a bank carries (R91); the mode in force is the one its switch declared (R19). -/
def State.bankMode (s : State) (b : Nat) : Nat := s.regF (rpPage + 0x050 + 4 * b) 0 2
def State.bankPlan (s : State) (b : Nat) : Nat := s.regF (rpPage + 0x050 + 4 * b) 16 16

/-! ### Entries and service records (R90, R92) -/

/-- Word i of entry n of a bank. -/
def State.entW (s : State) (b n i : Nat) : W32 := s.reg (bankStore b + 64 * n + 4 * i)

/-- A run-plan entry (R90). -/
def State.entry (s : State) (b n : Nat) : Entry :=
  let w := s.entW b n
  { valid := bit (w 0) 0, safety := bit (w 0) 1, svc := fld (w 0) 2 6, trig := fld (w 0) 8 2, pkg := fld (w 0) 10 3,
    partialOk := bit (w 0) 13, prio := fld (w 0) 14 2, net := fld (w 0) 16 8, arg := w 1, gatherUs := fld (w 2) 0 16,
    deadline := fld (w 2) 16 16, pavA := fld (w 3) 0 8, pavB := fld (w 3) 8 8, fallA := fld (w 3) 16 8, fallB := fld (w 3) 24 8,
    slotLive := fld (w 4) 0 20, slotProof := fld (w 5) 0 20, msix := fld (w 6) 0 11, notify := bit (w 6) 15,
    arenaA := (w 7).toNat + 2 ^ 32 * fld (w 8) 0 16, arenaMib := fld (w 8) 16 16,
    arenaB := (w 9).toNat + 2 ^ 32 * fld (w 10) 0 16 }

/-- Bits of an entry's words that are reserved. -/
def entRsvd : List Nat :=
  [0xFF000000, 0, 0, 0, 0xFFF00000, 0xFFF00000, 0xFFFF7800, 0, 0, 0, 0xFFFF0000, 0xFFFFFFFF, 0xFFFFFFFF, 0xFFFFFFFF, 0xFFFFFFFF,
   0xFFFFFFFF]

/-- The valid entries of a bank, ascending. -/
def State.entries (s : State) (b : Nat) : List (Nat × Entry) :=
  (List.range 256).filterMap (fun n => if (s.entry b n).valid then some (n, s.entry b n) else none)

/-- Whether an entry runs two copies under a mode (R91). -/
def twoCopy (mode : Nat) (e : Entry) : Bool := decide (mode = 2) || (decide (mode = 1) && e.safety)

/-- A word of a service record. -/
def State.svcW (s : State) (b svc i : Nat) : W32 := s.reg (svcStore b + 16 * svc + 4 * i)

/-- Whether a safety service's record can be declared (R92). -/
def State.svcRecOk (s : State) (b svc : Nat) : Bool :=
  let w := s.svcW b svc
  decide (fld (w 0) 4 2 ≠ 3) && decide (fld (w 0) 16 16 ≠ 0) && decide (w 0 &&& 0x0000F8C0#32 = 0) && decide (w 1 &&& 0xFFFF0000#32 = 0)
  && decide (w 2 = 0) && decide (w 3 = 0)

/-- A trigger record's eight words. -/
def State.trigRec (s : State) (b e : Nat) : List W32 := (List.range 8).map (fun i => s.reg (trigStore b + 32 * (e - 16) + 4 * i))
def recUsed (ws : List W32) : Bool := ws.any (fun w => decide (w ≠ 0))

/-! ### Packages (R87 to R89) -/

/-- Outcome of a request in RP_PKG_RESULT: 1 PENDING, 2 DONE, 3 REFUSED. -/
def State.pkgResult (s : State) (i : Nat) (unload : Bool) (st reason : Nat) : State :=
  s.setReg rpResultA (w32 (i + 8 * b2n unload + 16 * st + 256 * reason))

/-- RP_PKG_STAT of an index: 0 EMPTY, 1 LOADING, 2 LOADED, 3 REFUSED. -/
def State.pkgStat (s : State) (i : Nat) : Nat := s.regF rpPkgStatA (2 * i) 2
def State.setPkgStat (s : State) (i v : Nat) : State := s.setRegF rpPkgStatA (2 * i) 2 v
def State.pkg (s : State) (i : Nat) : Option PkgDesc := if s.pkgStat i = 2 then Tab.get none s.plan.pkgs i else none

/-- The network an entry names. -/
def State.netOf (s : State) (e : Entry) : Option NetDesc := (s.pkg e.pkg).bind (fun p => p.networks[e.net]?)

/-- Whether a bank's valid entries name a package index. -/
def State.bankNames (s : State) (b i : Nat) : Bool := (s.entries b).any (fun e => decide (e.2.pkg = i))

/-- Meaning of PKG_LOAD (R89, R367): the image's address is the one written before. -/
def pkgLoad (i : Nat) (s : State) : State :=
  if s.bankNames s.activeBank i then s.pkgResult i false 3 3
  else
    let addr := (s.reg (rpPage + 0x064)).toNat + 2 ^ 32 * s.regF (rpPage + 0x068) 0 16
    let t := { s with plan := { s.plan with pkgs := Tab.set none s.plan.pkgs i none,
                                            pkgGen := Tab.set 0 s.plan.pkgGen i (Tab.get 0 s.plan.pkgGen i + 1),
                                            pkgAddr := Tab.set 0 s.plan.pkgAddr i addr } }
    if bit (t.reg (gkBootPage + 0x040)) 8 then (t.setPkgStat i 1).pkgResult i false 1 0
    else (t.setPkgStat i 3).pkgResult i false 3 4
def execPkgLoad (_w : Writer) (i : BitVec 3) (s : State) : Out := .next (pkgLoad i.toNat s)

/-- Meaning of PKG_UNLOAD (R89). -/
def pkgUnload (i : Nat) (s : State) : State :=
  let pend := match s.plan.switch with | some x => s.bankNames x.bank i | none => false
  if s.bankNames s.activeBank i || pend then s.pkgResult i true 3 3
  else ({ s with plan := { s.plan with pkgs := Tab.set none s.plan.pkgs i none } }.setPkgStat i 0).pkgResult i true 2 0
def execPkgUnload (_w : Writer) (i : BitVec 3) (s : State) : Out := .next (pkgUnload i.toNat s)

/-- Section-table entries: type, offset, length, digest. -/
def sections (all : List Byte) : List (Nat × Nat × Nat × List Byte) :=
  (List.range (nfld (imgW all 1) 16 16)).map (fun i =>
    let b := all.drop (256 + 64 * i)
    (imgW b 0, ofBytesLE ((b.drop 8).take 8), ofBytesLE ((b.drop 16).take 8), (b.drop 32).take 32))

/-- A section's bytes. -/
def sectionOf (all : List Byte) (type : Nat) : List Byte :=
  match (sections all).find? (fun e => decide (e.1 = type)) with
  | some (_, off, len, _) => (all.drop off).take len
  | none => []

/-- Signature, digests and IMAGE_CRC of a package (R87, R409, R410). -/
def pkgSigned (keyOk : Nat → List Byte → Bool) (arb : Nat) (all : List Byte) : Bool :=
  let n := nfld (imgW all 1) 16 16
  let sg := sectionOf all 7
  let len := ofBytesLE ((all.drop 16).take 8)
  let key := (sg.drop 4).take 60
  decide (imgW all 0 = 0x4B504748) && decide (nfld (imgW all 1) 0 16 = 1) && decide (1 ≤ n) && decide (n ≤ 64) && decide (len = all.length)
  && keyOk (nfld (imgW sg 0) 0 2) key && hssVerify key (all.take (256 + 64 * n)) (sg.drop 68)
  && decide (arb ≤ nfld (imgW all 3) 16 16)
  && (sections all).all (fun e => decide (e.1 = 7) || decide (sha256 ((all.drop e.2.1).take e.2.2.1) = e.2.2.2))
  && decide (crc64Fold (imgW all 2 * 2 ^ 32 + imgW all 3) (all.drop 32) = ofBytesLE ((all.drop 24).take 8))

/-- Tolerance records of a TOL section (R102): none where one's form is broken. -/
def parseTols : Nat → List Byte → Option (List TolRec)
  | 0, _ => some []
  | f + 1, bs =>
    if bs.length < 16 then some []
    else
      let n := nfld (imgW bs 0) 8 8
      let r : TolRec := ⟨BitVec.ofNat 2 (imgW bs 0), w32 (imgW bs 1), w32 (imgW bs 2),
        (List.range n).map (fun c => (w32 (imgW bs (4 + 2 * c)), w32 (imgW bs (5 + 2 * c))))⟩
      if 64 < n ∨ bs.length < 16 + 8 * n ∨ 1 < nfld (imgW bs 0) 0 2 then none
      else (parseTols f (bs.drop (16 + 8 * n))).map (r :: ·)

/-- A tolerance that is neither negative, infinite nor NaN, and a record of such ones with at most 64 column pairs (R102). -/
def tolNum (w : W32) : Bool := decide (fld w 23 8 ≠ 255) && (!bit w 31 || decide (fld w 0 31 = 0))
def tolOk (r : TolRec) : Bool := decide (r.cols.length ≤ 64) && tolNum r.absTol && tolNum r.relTol && r.cols.all (fun c => tolNum c.1 && tolNum c.2)

/-- Formats that a signed tile may have (R72). -/
def sigFmt (f : Nat) : Bool := decide (f ≤ 6)

/-- Elements of a tensor. -/
def tensorCount (t : TensorDesc) : Nat := t.dim.foldl (· * ·) 1
/-- Tile columns and rows of a tensor, and its tiles (R72). -/
def tensorPerRow (t : TensorDesc) : Nat := t.dim.getD 0 1 / (t.colsM1.toNat + 1)
def tensorTiles (t : TensorDesc) : Nat := tensorCount t / ((t.colsM1.toNat + 1) * (t.rowsM1.toNat + 1))

/-- The tensor that a 64-byte descriptor of the TENSORS section gives (R65, R88), with what the network record says of it. -/
def tensorOf (bs : List Byte) (x : TensorDesc) : TensorDesc :=
  let w := fun i => w32 (imgW bs i)
  { x with region := BitVec.ofNat 4 (fld (w 1) 12 4), offset := BitVec.ofNat 44 ((w 0).toNat + 2 ^ 32 * fld (w 1) 0 12),
           fmt := BitVec.ofNat 4 (fld (w 1) 16 4), safety := bit (w 1) 20, final := bit (w 1) 21,
           dim := [fld (w 2) 0 16, fld (w 2) 16 16, fld (w 3) 0 16, fld (w 3) 16 16],
           stride := [(w 4).toInt, (w 5).toInt, (w 6).toInt], scale := w 7,
           rowsM1 := BitVec.ofNat 8 (fld (w 13) 0 8), colsM1 := BitVec.ofNat 8 (fld (w 13) 8 8) }

/-- Whether a network has a tensor marked SAFETY. -/
def netSafe (n : NetDesc) : Bool := n.tensors.any (fun t => t.safety)
/-- Where a copy on die d finds its network's CONST image (R88, R119): on its own die for a network with a SAFETY tensor, else where the
network record asks. Places 0 and 1 are the dies' stacks, 2 the SPREAD alias. -/
def netConst (n : NetDesc) (d : Nat) : Nat := if netSafe n then d else n.constPlace
/-- The places of a network's CONST image; its golden data stands in both stacks (R208). -/
def netPlaces (n : NetDesc) : List Nat :=
  ([0, 1, 2] : List Nat).filter (fun k => if netSafe n then decide (k < 2) else decide (k = n.constPlace) || (decide (k < 2) && !n.golden.isEmpty))
/-- The places where a package's CONST image stands. -/
def constPlaces (p : PkgDesc) : List Nat := ([0, 1, 2] : List Nat).filter (fun k => p.networks.any (fun n => (netPlaces n).contains k))

/-- The SPREAD alias (R112). -/
def inSpread (a : Nat) : Bool := decide (0x1000000000 ≤ a) && decide (a < 0x1C00000000)
/-- Whether n bytes from an address lie in a place for CONST images. -/
def inPlace (k a n : Nat) : Bool :=
  if k = 2 then inSpread a && decide (a + n ≤ 0x1C00000000) else decide (dramDie a = some k) && decide (a + n ≤ (k + 1) * 0x600000000)

/-- A network's tensors with their placement (R20, R119): a CONST tensor is SPREAD where its network asks for that, or where its base
lies in the alias. -/
def spreadOf (base : List PAddr) (n : NetDesc) : NetDesc :=
  { n with tensors := n.tensors.map (fun t =>
      { t with spread := decide (t.region.toNat = 0)
                 && (decide (n.constPlace = 2) || (netPlaces n).any (fun k => inSpread ((base.getD k 0).toNat + t.offset.toNat))) }) }

/-- Networks with the tensors of the TENSORS section, which lists them network by network. -/
def withTensors (bs : List Byte) : List NetDesc → Nat → List NetDesc
  | [], _ => []
  | n :: r, k =>
    { n with tensors := n.tensors.zipIdx.map (fun e => tensorOf (bs.drop (64 * (k + e.2))) e.1) }
      :: withTensors bs r (k + n.tensors.length)

/-- The golden records (R208) with the networks they name; section offsets become places in the CONST image, behind which the section
is placed, and tensors stand as the TENSORS section numbers them. -/
def goldenAll (bs : List Byte) (base : Nat) : List (Nat × GoldenRec) :=
  (List.range (nfld (imgW bs 0) 0 16)).map (fun i =>
    let r := bs.drop (16 + 32 * i)
    let inp := bs.drop (imgW r 2)
    let ex := bs.drop (imgW r 3)
    (nfld (imgW r 0) 0 8, ⟨BitVec.ofNat 4 (nfld (imgW r 0) 8 4),
      (List.range (nfld (imgW r 0) 16 6)).map (fun k =>
        (base + ofBytesLE ((inp.drop (16 * k)).take 8), imgW inp (4 * k + 2), imgW inp (4 * k + 3))),
      w32 (imgW r 1),
      (List.range (nfld (imgW r 0) 24 4)).map (fun k => ⟨nfld (imgW ex (4 * k)) 0 16, nfld (imgW ex (4 * k)) 16 10,
        base + imgW ex (4 * k + 1), imgW ex (4 * k + 2)⟩)⟩))

/-- The golden records of a network whose tensors begin at `first` in the TENSORS section; a tensor of another network has no number
in this one. -/
def goldenOf (all : List (Nat × GoldenRec)) (net first : Nat) : List GoldenRec :=
  (all.filter (fun g => decide (g.1 = net))).map (fun g =>
    { g.2 with expects := g.2.expects.map (fun e => { e with tensor := if first ≤ e.tensor then e.tensor - first else 65536 }) })

/-- A package as memory and the network records give it. -/
def readPkg (all : List Byte) (d : PkgDesc) (tols : List TolRec) : PkgDesc :=
  let cs := sectionOf all 4
  let gs := sectionOf all 6
  let nets := withTensors (sectionOf all 3) d.networks 0
  let nets := nets.zipIdx.map (fun e =>
    spreadOf d.constBase { e.1 with golden := goldenOf (goldenAll gs cs.length) e.2 ((nets.take e.2).foldl (fun a n => a + n.tensors.length) 0) })
  { d with pkgId := w32 (imgW all 2), pkgVer := w32 (imgW all 3), code := sectionOf all 1, networks := nets, tols := tols,
           sectionTypes := (sections all).map (fun e => e.1), constImage := cs ++ gs }

/-- The rules of R208 on one golden record, of a package's tolerance records and of the tensors that it numbers. -/
def goldenRecOk (tensors : List TensorDesc) (tols : List TolRec) (g : GoldenRec) : Bool :=
  inR 1 32 g.inputs.length && decide (1 ≤ g.expects.length)
  && g.expects.all (fun e => match tensors[e.tensor]?, tols[e.tol]? with
      | some t, some r => t.final && decide (r.mode = 1) && decide (e.len * 8 = tensorCount t * elemBits t.fmt.toNat)
      | _, _ => false)

/-- The INDEX values of the records of one network run from 0 without gaps (R208). -/
def indexOk (gs : List GoldenRec) : Bool := (List.range gs.length).all (fun i => gs.any (fun g => decide (g.index.toNat = i)))

/-- The rules of R208 on a GOLDEN section, records of networks that the package lacks among them. -/
def goldenOk (all : List Byte) (p : PkgDesc) : Bool :=
  let gs := sectionOf all 6
  let recs := goldenAll gs 0
  let tensors := p.networks.flatMap (fun n => n.tensors)
  !p.sectionTypes.contains 6 || (inR 1 4096 (nfld (imgW gs 0) 0 16) && recs.all (fun g => goldenRecOk tensors p.tols g.2)
    && (List.range 256).all (fun n => indexOk (goldenOf recs n 0)))

/-- The slots of a network's SAFETY tensors: first, and one past the last (R100). -/
def slotMap (n : NetDesc) : List (Nat × Nat) :=
  (n.tensors.filter (fun t => t.safety)).map (fun t => (t.slotOff, t.slotOff + tensorTiles t))

/-- The slot-range map divides a network's slot space (R100): ranges that do not meet and fill it. -/
def slotMapOk (n : NetDesc) : Bool :=
  let m := slotMap n
  m.all (fun r => decide (r.2 ≤ n.slotCount)) && decide (m.foldl (fun a r => a + (r.2 - r.1)) 0 = n.slotCount)
  && m.zipIdx.all (fun x => m.zipIdx.all (fun y => decide (x.2 = y.2) || decide (x.1.2 ≤ y.1.1) || decide (y.1.2 ≤ x.1.1)))

/-- The work lists of a network: one per logical Pavilion for each tiling variant, of code blocks of the CODE section (R87). -/
def workOk (p : PkgDesc) (n : NetDesc) : Bool :=
  decide (n.work.length = n.variants) && n.work.all (fun v => decide (v.length = n.pavilions)
    && v.all (fun l => l.all (fun w => decide (w.code + w.len ≤ p.code.length))))

/-- The rules of R20, R88, R100, R102, R109 and R208 on a network. -/
def netOk (p : PkgDesc) (n : NetDesc) : Bool :=
  inR 1 4 n.pavilions && inR 1 2 n.variants && workOk p n && decide (n.slotCount ≤ 524288) && decide (n.constPlace ≤ 2)
  && n.golden.all (goldenRecOk n.tensors p.tols) && slotMapOk n
  && n.tensors.all (fun t => decide (t.region.toNat ≤ 2) && t.dim.all (fun d => decide (d ≠ 0)) && !(t.safety && t.spread)
    && (!t.safety || (sigFmt t.fmt.toNat
        && decide (t.dim.getD 0 1 % (t.colsM1.toNat + 1) = 0) && decide (t.dim.getD 1 1 % (t.rowsM1.toNat + 1) = 0)
        && (match p.tols[t.tol]? with | some r => decide (r.mode = if t.final then 1 else 0) | none => false))))

/-- The rules of this chapter and of R20 on a package. -/
def pkgRules (all : List Byte) (p : PkgDesc) : Bool :=
  p.sectionTypes.all (fun t => inR 1 7 t) && (sections all).all (fun e => decide (e.2.1 % 4096 = 0))
  && ((all.take 256).drop 32).all (fun b => decide (b = 0))
  && decide (p.networks.length ≤ 256) && p.tols.all tolOk && goldenOk all p && p.networks.all (netOk p)

/-- Whether the places that a package's CONST image is given are places for it (R119). -/
def basesOk (p : PkgDesc) : Bool := (constPlaces p).all (fun k => inPlace k (p.constBase.getD k 0).toNat p.constImage.length)

/-- How a load ends (R89): the index's state, and RP_PKG_RESULT where no later request has taken its place. -/
def State.pkgEnd (s : State) (i st reason : Nat) : State :=
  let t := s.setPkgStat i st
  if s.reg rpResultA = w32 (i + 16) then t.pkgResult i false st reason else t

/-- Meaning of PKG_LOAD_COMPLETE (R89): the image at the address loaded is checked and placed. The part gives the CONST image places in
the stacks or the alias; a description with other ones is none of its. The Groundskeeper measures what it has accepted into MR5 (R411). -/
def pkgLoadComplete (i : Nat) (d : PkgDesc) (s : State) : State :=
  if s.pkgStat i ≠ 1 then s
  else
    let addr := Tab.get 0 s.plan.pkgAddr i
    let (st0, hdr, t) := s.readB gkSrc addr 256
    let (st1, all, t) := t.readB gkSrc addr (ofBytesLE ((hdr.drop 16).take 8))
    if st0 ≠ 0 ∨ st1 ≠ 0 ∨ pkgSigned (t.credKey 0x180 8) (t.credArb 24) all = false then t.pkgEnd i 3 1
    else match parseTols (all.length / 16 + 1) (sectionOf all 5) with
      | none => t.pkgEnd i 3 2
      | some tols =>
        let p := readPkg all d tols
        if !pkgRules all p then t.pkgEnd i 3 2
        else if !basesOk p then s
        else
          let t := (constPlaces p).foldl (fun t k => (t.writeB gkSrc (p.constBase.getD k 0).toNat p.constImage).2) t
          let t := { t with plan := { t.plan with pkgs := Tab.set none t.plan.pkgs i (some p) } }
          (t.pkgEnd i 2 0).gkExtend 5 (sha256 hdr)
def execPkgLoadComplete (i : BitVec 3) (d : PkgDesc) (s : State) : Out := .next (pkgLoadComplete i.toNat d s)

/-! ### Checks of a bank (R91 to R94, R96, R97, R100, R326, R335, R348) -/

/-- The bank's CRC-32C (R97). -/
def State.bankCrc (s : State) (b : Nat) : W32 :=
  let bs := (List.range 4096).flatMap (fun i => bytesLE 4 (s.reg (bankStore b + 4 * i)).toNat)
    ++ (List.range 256).flatMap (fun i => bytesLE 4 (s.reg (svcStore b + 4 * i)).toNat)
  crc32cFold (s.bankPlan b * 2 ^ 32 + b) bs

/-- Trigger records of a bank that are used. -/
def State.trigRecs (s : State) (b : Nat) : List (Nat × List W32) :=
  (List.range 48).filterMap (fun i => if recUsed (s.trigRec b (16 + i)) then some (16 + i, s.trigRec b (16 + i)) else none)

/-- A record's CRC (R326). -/
def recCrcOk (plan e : Nat) (ws : List W32) : Bool :=
  decide (crc32cFold (plan * 2 ^ 32 + e) ((ws.take 7).flatMap (fun w => bytesLE 4 w.toNat)) = ws.getD 7 0)

/-- A record's fields (R326, R332, R348). -/
def State.recOk (s : State) (b e : Nat) (ws : List W32) : Bool :=
  let c := ws.getD 0 0
  let arg := ws.getD 1 0
  let act := fld c 1 3
  decide (fld c 6 26 = 0) && decide (ws.getD 6 0 = 0) && ([0, 2, 3, 4] : List Nat).contains act
  && (bit c 4 || decide (ws.getD 4 0 = 0))
  && (if act = 2 then
        let n := fld arg 0 8
        decide (fld arg 8 24 = 0) && (s.entry b n).valid && decide ((s.entry b n).trig = 0) && decide ((s.entry b n).arg.toNat = e)
      else if act = 3 then decide (fld arg 0 3 ≤ 4) && !bit arg 3 && decide (fld arg 4 28 ≤ 7)
      else decide (arg = 0))

/-- A CHAINED entry's chain of predecessors ends at a TIME or SENSOR entry (R96). -/
def State.chainOk (s : State) (b : Nat) : Nat → Nat → Bool
  | 0, _ => false
  | f + 1, n =>
    let e := s.entry b n
    e.valid && (if e.trig = 0 ∨ e.trig = 1 then true
      else if e.trig = 2 then decide (e.arg.toNat < 256) && State.chainOk s b f e.arg.toNat else false)

/-- EN of a sensor source (R335, R361). -/
def State.srcEn (s : State) (n : Nat) : Bool := bit (s.reg (ioPage 0x050 + 0x100 + 0x20 * n)) 0

/-- Whether an entry's fields are in order (reason 2). -/
def State.entFields (s : State) (b n : Nat) (e : Entry) : Bool :=
  (List.range 16).all (fun i => decide ((s.entW b n i).toNat &&& entRsvd.getD i 0 = 0))
  && decide (e.trig ≠ 3) && decide (e.prio ≠ 3) && decide (e.deadline ≠ 0)
  && (if e.trig = 0 then
        decide (e.arg.toNat < 64) && decide (16 ≤ e.arg.toNat)
        && (let ws := s.trigRec b e.arg.toNat; decide (fld (ws.getD 0 0) 1 3 = 2) && decide ((ws.getD 1 0).toNat = n))
      else if e.trig = 1 then (bitsOf 32 e.arg.toNat).all s.srcEn
      else s.chainOk b 257 n)

/-- The die that a Pavilion set lies wholly on. -/
def setDie (m : Nat) : Option Nat := if m = 0 then none else if m < 16 then some 0 else if m % 16 = 0 then some 1 else none
/-- Bits of a set. -/
def setCount (m : Nat) : Nat := popcnt 8 m

/-- Placement of one copy (R93): set, fallback set, arena. In an entry of two copies the count of bits is that of the network, where it is
known. -/
def copyPlaced (pav : Option Nat) (m f arena mib : Nat) : Bool :=
  match setDie m with
  | none => false
  | some d =>
    (match pav with | some k => decide (setCount m = k) | none => true)
    && (decide (f = 0) || (decide (setDie f = some d) && decide (setCount f = setCount m)))
    && decide (dramDie arena = some d) && decide (arena + mib * 2 ^ 20 ≤ (d + 1) * 0x600000000)

/-- Placement of an entry (R93). -/
def State.placed (s : State) (mode : Nat) (e : Entry) : Bool :=
  let pav := if twoCopy mode e then (s.netOf e).map (fun n => n.pavilions) else none
  copyPlaced pav e.pavA e.fallA e.arenaA e.arenaMib
  && (!twoCopy mode e || (copyPlaced pav e.pavB e.fallB e.arenaB e.arenaMib && decide (setDie e.pavA ≠ setDie e.pavB)))

/-- Entries that name one service agree (R91). -/
def agree (mode : Nat) (a e : Entry) : Bool :=
  decide (a.svc ≠ e.svc) ||
  (decide (a.safety = e.safety) && decide (a.pkg = e.pkg) && decide (a.net = e.net) && decide (twoCopy mode a = twoCopy mode e)
   && (!e.safety || (decide (a.pavA = e.pavA) && decide (a.fallA = e.fallA)
        && (!twoCopy mode e || (decide (a.pavB = e.pavB) && decide (a.fallB = e.fallB))))))

/-- Slot ranges of a bank: first, one past the last, entry (R100). -/
def State.slotRanges (s : State) (b : Nat) : List (Nat × Nat × Nat) :=
  (s.entries b).flatMap (fun e => match s.netOf e.2 with
    | some n => if n.slotCount = 0 then [] else
        [(e.2.slotLive, e.2.slotLive + n.slotCount, e.1), (e.2.slotProof, e.2.slotProof + n.slotCount, e.1)]
    | none => [])

/-- Entries whose ranges leave the slot store or meet another range. -/
def badRanges (rs : List (Nat × Nat × Nat)) : List Nat :=
  (rs.zipIdx.filter (fun x => decide (1048576 < x.1.2.1) || rs.zipIdx.any (fun y =>
    decide (x.2 ≠ y.2) && decide (x.1.1 < y.1.2.1) && decide (y.1.1 < x.1.2.1)))).map (fun x => x.1.2.2)

/-- What a refusal names: the lowest entry, else the record, else neither, as bits [17:8] of RP_SWITCH_STAT. -/
def naming (ents recs : List Nat) : Nat :=
  match ents.foldl (fun (m : Option Nat) e => some (match m with | some x => min x e | none => e)) none with
  | some e => 256 * e + 65536
  | none => match recs.foldl (fun (m : Option Nat) e => some (match m with | some x => min x e | none => e)) none with
    | some r => 256 * r + 2 * 65536
    | none => 0

/-- The valid TIME entries that name a record. -/
def State.recNamers (s : State) (b r : Nat) : List Nat :=
  ((s.entries b).filter (fun e => decide (e.2.trig = 0) && decide (e.2.arg.toNat = r))).map (fun e => e.1)

/-- The first check that a bank fails, with what its refusal names (R94). -/
def State.bankCheck (s : State) (b : Nat) : Nat × Nat :=
  let mode := s.bankMode b
  let es := s.entries b
  let recs := s.trigRecs b
  let badRec := fun (p : Nat → List W32 → Bool) => (recs.filter (fun r => !p r.1 r.2)).map (fun r => r.1)
  let namers := fun (rs : List Nat) => rs.flatMap (s.recNamers b)
  let orphans := fun (rs : List Nat) => rs.filter (fun r => (s.recNamers b r).isEmpty)
  let bad := fun (p : Nat → Entry → Bool) => (es.filter (fun e => !p e.1 e.2)).map (fun e => e.1)
  if s.bankCrc b ≠ s.reg (rpPage + 0x048) then (1, 0)
  else
    let r1 := badRec (recCrcOk (s.bankPlan b))
    if !r1.isEmpty then (1, naming (namers r1) (orphans r1))
    else
      let r2 := badRec (s.recOk b)
      let svcBad := fun (svc : Nat) => es.any (fun e => e.2.safety && decide (e.2.svc = svc)) && !s.svcRecOk b svc
      let e2 := bad (s.entFields b) ++ namers r2 ++ bad (fun _ e => !svcBad e.svc)
      if !e2.isEmpty || !r2.isEmpty || decide (mode = 3) then (2, naming e2 (orphans r2))
      else
        let e3 := bad (fun n e => s.placed mode e && es.all (fun a => !decide (a.1 < n) || agree mode a.2 e))
        if !e3.isEmpty then (3, naming e3 [])
        else
          let e4 := bad (fun _ e => (s.netOf e).isSome)
          if !e4.isEmpty then (4, naming e4 [])
          else
            let e5 := badRanges (s.slotRanges b)
            if !e5.isEmpty then (5, naming e5 []) else (0, 0)

/-! ### The declaration transfer (R137, R173, R174, R326) -/

/-- Tolerance records of a plan: package index, record index and record, without repeats. -/
def State.planTols (s : State) (b : Nat) : List (Nat × Nat × TolRec) :=
  (s.entries b).foldl (fun l e => match s.netOf e.2, s.pkg e.2.pkg with
    | some n, some p => n.tensors.foldl (fun l t =>
        if t.safety && !l.any (fun x => decide (x.1 = e.2.pkg) && decide (x.2.1 = t.tol)) then
          (match p.tols[t.tol]? with | some r => l ++ [(e.2.pkg, t.tol, r)] | none => l)
        else l) l
    | _, _ => l) []

/-- Range records of a plan (R174). -/
def State.planRanges (s : State) (b : Nat) : List RangeRec :=
  let tols := s.planTols b
  (s.entries b).flatMap (fun e => match s.netOf e.2 with
    | some n => (n.tensors.filter (fun t => t.safety)).flatMap (fun t =>
        let ix := ((findIdx? (fun x => decide (x.1 = e.2.pkg) && decide (x.2.1 = t.tol)) tols).map (fun x => x.1)).getD 0
        ([false, true] : List Bool).map (fun pr =>
          { first := BitVec.ofNat 20 ((if pr then e.2.slotProof else e.2.slotLive) + t.slotOff), proof := pr,
            entry := BitVec.ofNat 8 e.1, count := BitVec.ofNat 20 (tensorTiles t), fmt := t.fmt, final := t.final,
            tilesPerRow := BitVec.ofNat 16 (tensorPerRow t), tol := BitVec.ofNat 10 ix, scale := t.scale }))
    | none => [])

/-- The declaration record of a service (R173). -/
def State.declRec (s : State) (b svc : Nat) : Option DeclRec :=
  let es := (s.entries b).filter (fun e => e.2.safety && decide (e.2.svc = svc))
  match es with
  | [] => none
  | (n, e) :: _ =>
    let w := s.svcW b svc
    let two := twoCopy (s.bankMode b) e
    let mask := es.foldl (fun m x => if x.2.trig = 1 then m ||| x.2.arg else m) 0
    some { service := BitVec.ofNat 6 svc, twoCopy := two, outputs := BitVec.ofNat 4 (fld (w 0) 0 4),
           proof := BitVec.ofNat 2 (fld (w 0) 4 2), missLimit := BitVec.ofNat 3 (fld (w 0) 8 3), entry := BitVec.ofNat 8 n,
           resultAge := BitVec.ofNat 16 (fld (w 0) 16 16), sensorMask := mask, pavA := BitVec.ofNat 8 e.pavA,
           pavB := if two then BitVec.ofNat 8 e.pavB else 0, fallA := BitVec.ofNat 8 e.fallA,
           fallB := if two then BitVec.ofNat 8 e.fallB else 0, taskFirst := BitVec.ofNat 8 (fld (w 1) 0 8),
           taskCount := BitVec.ofNat 8 (fld (w 1) 8 8) }

/-- Safety regions of a bank (R137): each SAFETY entry's arenas, writable, and its CONST images, read-only. -/
def State.planRegions (s : State) (b : Nat) : List Region :=
  ((s.entries b).filter (fun e => e.2.safety)).foldl (fun l e =>
    let size := e.2.arenaMib * 2 ^ 20
    let two := twoCopy (s.bankMode b) e.2
    let cst := fun (d : Nat) => match s.pkg e.2.pkg, s.netOf e.2 with
      | some p, some n =>
        let b := p.constBase.getD (netConst n d) 0
        [(⟨b, b + BitVec.ofNat 48 (p.constImage.length - 1), d, false, true⟩ : Region)]
      | _, _ => []
    let one := fun (set base : Nat) => match setDie set with
      | some d => (⟨BitVec.ofNat 48 base, BitVec.ofNat 48 (base + size - 1), d, true, true⟩ : Region) :: cst d
      | none => []
    (one e.2.pavA e.2.arenaA ++ (if two then one e.2.pavB e.2.arenaB else [])).foldl (fun l r => if l.contains r then l else l ++ [r]) l) []

/-- What a bank declares. -/
def State.declOf (s : State) (b : Nat) : DeclSet :=
  { bank := b, planId := BitVec.ofNat 16 (s.bankPlan b), mode := BitVec.ofNat 2 (s.bankMode b),
    services := (List.range 64).filterMap (s.declRec b), ranges := s.planRanges b, tols := (s.planTols b).map (fun x => x.2.2),
    regions := s.planRegions b, triggers := (List.range 48).map (fun i => s.trigRec b (16 + i)), reservedZero := true }

def declRecBytes (r : DeclRec) : List Byte :=
  bytesLE 4 (r.service.toNat + 64 * b2n r.twoCopy + 256 * r.outputs.toNat + 4096 * r.proof.toNat + 65536 * r.missLimit.toNat
      + 2 ^ 24 * r.entry.toNat)
  ++ bytesLE 4 r.resultAge.toNat ++ bytesLE 4 r.sensorMask.toNat
  ++ [r.pavA, r.pavB, r.fallA, r.fallB] ++ [r.taskFirst, r.taskCount, 0, 0] ++ bytesLE 4 0

def rangeBytes (r : RangeRec) : List Byte :=
  bytesLE 4 (r.first.toNat + 2 ^ 20 * b2n r.proof + 2 ^ 24 * r.entry.toNat)
  ++ bytesLE 4 (r.count.toNat + 2 ^ 20 * r.fmt.toNat + 2 ^ 24 * b2n r.final)
  ++ bytesLE 4 (r.tilesPerRow.toNat + 65536 * r.tol.toNat) ++ bytesLE 4 r.scale.toNat

def tolBytes (r : TolRec) : List Byte :=
  bytesLE 4 (r.mode.toNat + 256 * r.cols.length) ++ bytesLE 4 r.absTol.toNat ++ bytesLE 4 r.relTol.toNat ++ bytesLE 4 0
  ++ r.cols.flatMap (fun c => bytesLE 4 c.1.toNat ++ bytesLE 4 c.2.toNat)

def regionBytes (r : Region) : List Byte :=
  bytesLE 6 r.base.toNat ++ bytesLE 2 (r.die + 2 * b2n r.write + 4 * b2n r.read) ++ bytesLE 6 r.limit.toNat ++ bytesLE 2 0

/-- The transfer's payload (R94, R295): a head of the model's own that names bank, mode and counts, then the records in the spec's
layouts and order. -/
def declBytes (d : DeclSet) : List Byte :=
  bytesLE 4 (d.bank + 16 * d.mode.toNat + 65536 * d.planId.toNat) ++ bytesLE 2 d.services.length ++ bytesLE 2 d.ranges.length
  ++ bytesLE 2 d.tols.length ++ bytesLE 2 d.regions.length ++ bytesLE 4 (b2n (!d.reservedZero))
  ++ d.services.flatMap declRecBytes ++ d.ranges.flatMap rangeBytes ++ d.tols.flatMap tolBytes ++ d.regions.flatMap regionBytes
  ++ d.triggers.flatMap (fun ws => ws.flatMap (fun w => bytesLE 4 w.toNat))

/-! ### The switch (R94) -/

/-- RP_SWITCH_STAT: 1 PENDING, 2 ACCEPTED, 3 REFUSED. -/
def State.switchStat (s : State) (st reason name : Nat) : State := s.setReg rpStatA (w32 (st + 16 * reason + name))

/-- The switch to a bank that has been judged (R94): refused with a reason and the entry it names, or declared to the Gatehouse. -/
def State.bankJudged (t : State) (b : Nat) (r : Nat × Nat) : State :=
  if r.1 ≠ 0 then t.switchStat 3 r.1 r.2
  else
    let d := t.declOf b
    let bs := declBytes d
    let u := (t.sendXfer idRunPlan idGatehouse 0x13 (bs.length / 240 + 1) bs).switchStat 1 0 0
    { u with plan := { u.plan with switch := some ⟨b, u.frc, none⟩, declared := u.plan.declared ++ [(u.frc, false)] } }

/-- A pending switch abandoned: its bank unfrozen, its end SUPERSEDED (R94). -/
def State.supersede (s : State) : State :=
  if s.plan.switch.isNone then s
  else
    let old := s.plan.declared.map (fun d => (d.1, true))
    ({ s with plan := { s.plan with switch := none, declared := old } }).switchStat 3 7 0

/-- Meaning of BANK_SWITCH_REQUEST (R94): a pending switch is abandoned, then the bank is judged. -/
def bankSwitch (b : Nat) (s : State) : State :=
  let t := s.supersede
  if b = t.activeBank then t.switchStat 3 8 0 else t.bankJudged b (t.bankCheck b)
def execBankSwitchRequest (_w : Writer) (v : W32) (s : State) : Out := .next (bankSwitch (fld v 0 1) s)

/-- A pending switch that the Gatehouse refuses, or does not answer. -/
def State.switchRefused (s : State) : State :=
  { s with plan := { s.plan with switch := none } }.switchStat 3 6 0

/-- The declaration transfers whose replies can still come (R301): those sent less than 100 ms ago. -/
def State.declOpen (s : State) : List (Tick × Bool) := s.plan.declared.filter (fun t => decide (s.frc < t.1 + 50000000))

/-- Meaning of DECLARE_REPLY (R94): the reply carries GH_DECL_STAT. It answers the oldest transfer that waits for one, so a late reply
to an abandoned switch decides nothing. -/
def declareReply (m : PMsg) (s : State) : State :=
  let (p, t) := s.recv 4 (decide (m.type = 0x14)) m
  match p with
  | none => t
  | some bs =>
    let u : State := { t with plan := { t.plan with declared := t.declOpen.tail } }
    match u.plan.switch, t.declOpen.head? with
    | some x, some (_, old) =>
      if x.accepted.isSome ∨ old = true then u
      else
        let st := nfld (ofBytesLE (bs.take 4)) 0 2
        if st = 2 then { u with plan := { u.plan with switch := some { x with accepted := some u.frc } } }
        else if st = 3 then u.switchRefused else u
    | _, _ => u
def execDeclareReply (m : PMsg) (s : State) : Out := .next (declareReply m s)

/-- Meaning of DECLARE_REPLY_TIMEOUT (R301): 100 ms without a reply. -/
def declareTimeout (s : State) : State :=
  match s.plan.switch with
  | some x => if x.accepted = none ∧ x.sent + 50000000 ≤ s.frc then s.switchRefused else s
  | none => s
def execDeclareReplyTimeout (s : State) : Out := .next (declareTimeout s)

end Sys2Proof.Machine
end

