-- ==== Sys2Proof/Machine/Arb.lean ====
section
/-! DEFINITION. The Belvedere's stores, origin records, arbitration queue and element comparator (R187, R191 to R194, R196), and the
comparisons of golden runs with their expected data (R209, R213). -/

namespace Sys2Proof.Machine

def bvPage : Nat := ghPage 0x02
def folPage : Nat := ghPage 0x03

/-- BLK_ERR bits of the Belvedere page (R201). -/
def bvSlotUe : Nat := 0
def bvStateUe : Nat := 1
def bvUnplanned : Nat := 2
def bvArbFull : Nat := 3
def bvOriginWr : Nat := 4

/-- Pair failure reasons (R194). -/
def pfTol : Nat := 1
def pfDup : Nat := 2
def pfExtra : Nat := 3
def pfFetch : Nat := 4
def pfGeom : Nat := 5
def pfFull : Nat := 6
def pfUe : Nat := 7
def pfDeadline : Nat := 8

/-- Checks of R17 and outcomes of R195. -/
def chkNone : Nat := 0
def chkPass : Nat := 1
def chkFail : Nat := 2
def chkMissing : Nat := 3

def State.setBv (s : State) (b : BvSt) : State := { s with bv := b }
def State.setPlan (s : State) (p : PlanSt) : State := { s with plan := p }
def State.setFol (s : State) (f : FolSt) : State := { s with fol := f }

/-- The key of an entry's run record (R187): entry and kind, 512 records in all. -/
def bvKey (entry : Nat) (proof : Bool) : Nat := 2 * entry + b2n proof

def State.bvRun (s : State) (k : Nat) : Option BvRun := Tab.get none s.bv.runs k
def State.setBvRun (s : State) (k : Nat) (r : Option BvRun) : State :=
  s.setBv { s.bv with runs := Tab.set none s.bv.runs k r }

/-! ### The slot store and the slot-state array (R187, R196) -/

/-- The word address that a slot word is hashed over. -/
def slotWordA (slot copy : Nat) : Nat := 0x30000000 + 8 * slot + 4 * copy
/-- The address that a state word is hashed over. -/
def stateWordA (slot : Nat) : Nat := 0x31000000 + 4 * (slot / 16)

/-- A slot word read through its code: the word, none where it is uncorrectable. A corrected word is written back. -/
def State.slotRead (s : State) (slot copy : Nat) : Option W32 × State :=
  let k := 2 * slot + copy
  let w := Tab.get 0 s.bv.words k
  match ecc32 (Tab.get 0 s.bv.syn k).toNat with
  | .clean => (some w, s)
  | e =>
    if e.bad then (none, s.setErr bvPage bvSlotUe)
    else
      let v := e.fix w
      (some v, s.setBv { s.bv with words := Tab.set 0 s.bv.words k v, syn := Tab.set 0 s.bv.syn k 0 })

/-- Whether a slot's state word can be read. A correction of it is written back; what it holds is unchanged. -/
def State.stateRead (s : State) (slot : Nat) : Bool × State :=
  let k := 2097152 + slot / 16
  match ecc32 (Tab.get 0 s.bv.syn k).toNat with
  | .clean => (true, s)
  | .fixData i =>
    let j := slot / 16 * 16 + i / 2
    let b := { s.bv with syn := Tab.set 0 s.bv.syn k 0 }
    (true, s.setBv { b with states := Tab.set 0 b.states j ((Tab.get 0 b.states j) ^^^ 2 ^ (i % 2)) })
  | .fixCheck => (true, s.setBv { s.bv with syn := Tab.set 0 s.bv.syn k 0 })
  | _ => (false, s.setErr bvPage bvStateUe)

/-- A slot's state: 0 EMPTY, 1 HELD0, 2 HELD1, 3 RESOLVED. -/
def State.slotState (s : State) (slot : Nat) : Nat := Tab.get 0 s.bv.states slot
def State.setSlotState (s : State) (slot v : Nat) : State := s.setBv { s.bv with states := Tab.set 0 s.bv.states slot v }
def State.slotInfo (s : State) (slot : Nat) : Nat := Tab.get 0 s.bv.info slot
def State.setSlotInfo (s : State) (slot v : Nat) : State := s.setBv { s.bv with info := Tab.set 0 s.bv.info slot v }
/-- A slot word stored with correct check bits. -/
def State.setSlotWord (s : State) (slot copy : Nat) (w : W32) : State :=
  s.setBv { s.bv with words := Tab.set 0 s.bv.words (2 * slot + copy) w, syn := Tab.set 0 s.bv.syn (2 * slot + copy) 0 }

/-! ### Signature messages and origin records (R76, R187) -/

/-- A signature message's fields. -/
structure SigRx where
  seq : W32
  slot : Nat
  copy : Nat
  final : Bool
  invalid : Bool
  sigA : W32
  sigB : W32
  origin : Nat
  rows : Nat
  cols : Nat
  stride : W32
  fmt : Nat
  unit : UnitId
  deriving DecidableEq, Repr

/-- The fields that a 32-byte payload spells (R76). -/
def sigRx (bs : List Byte) : SigRx :=
  let w := fun i => imgW bs i
  ⟨w32 (w 0), nfld (w 1) 0 20, nfld (w 1) 20 1, nbit (w 1) 21, nbit (w 1) 22, w32 (w 2), w32 (w 3),
   w 4 + 2 ^ 32 * nfld (w 5) 0 16, nfld (w 5) 16 8, nfld (w 5) 24 8, w32 (w 6), nfld (w 7) 0 4, BitVec.ofNat 16 (w 7 / 65536)⟩

/-- The origin area of a die, and whether it is assigned (R188). -/
def State.originA (s : State) (d : Nat) : Nat :=
  (s.reg (bvPage + 0x044 + 8 * d)).toNat + 2 ^ 32 * s.regF (bvPage + 0x048 + 8 * d) 0 16

/-- An origin record (R187). -/
def originBytes (m : SigRx) : List Byte :=
  let body := bytesLE 8 (m.origin + m.rows * 2 ^ 48 + m.cols * 2 ^ 56) ++ bytesLE 4 m.stride.toNat
    ++ bytesLE 4 (m.fmt + 16 * m.copy + 32 * b2n m.invalid + 64 * b2n m.final) ++ bytesLE 4 m.seq.toNat ++ bytesLE 8 0
  body ++ bytesLE 4 (crc32cFold (m.slot * 2 ^ 32 + m.copy) body).toNat

/-- What an origin record says of a copy's tile: origin, stride, rows, columns, format. -/
structure Origin where
  base : Nat
  stride : Int
  rows : Nat
  cols : Nat
  fmt : Nat
  deriving DecidableEq, Repr

/-- An origin record read from a die, where its CRC, slot, COPY and SEQ are right (R192). -/
def State.originRead (s : State) (d slot copy : Nat) (seq : W32) : Option Origin × State :=
  let (st, bs, s) := s.readB ghSrc (s.originA d + 32 * slot) 32
  let ok := decide (st = 0) && decide (crc32cFold (slot * 2 ^ 32 + copy) (bs.take 28) = w32 (imgW bs 7))
    && decide (nfld (imgW bs 3) 4 1 = copy) && decide (w32 (imgW bs 4) = seq)
  (if ok then some ⟨imgW bs 0 + 2 ^ 32 * nfld (imgW bs 1) 0 16, (w32 (imgW bs 2)).toInt, nfld (imgW bs 1) 16 8, nfld (imgW bs 1) 24 8,
      nfld (imgW bs 3) 0 4⟩ else none, s)

/-! ### Cost and queue (R191, R194) -/

/-- Bytes of a row of elements. -/
def elemRowBytes (fmt n : Nat) : Nat := (n * elemBits fmt + 7) / 8

/-- Cost in 1/208 ticks: bytes at 8 GB/s and element pairs at 520 million per second. -/
def arbCost (bytes pairs : Nat) : Nat := 13 * bytes + 200 * pairs

/-- The queue's budget of 1,800 µs in the same units. -/
def arbBudget : Nat := 187200000

/-- Elements of a slot's tile, by its first message's geometry. -/
def State.slotElems (s : State) (slot : Nat) : Nat := (nfld (s.slotInfo slot) 8 8 + 1) * (nfld (s.slotInfo slot) 16 8 + 1)
/-- Bytes of a slot's tile. -/
def State.slotBytes (s : State) (fmt slot : Nat) : Nat :=
  (nfld (s.slotInfo slot) 8 8 + 1) * elemRowBytes fmt (nfld (s.slotInfo slot) 16 8 + 1)

/-- Total cost of the queue: whole costs of those that wait and the remaining cost of the one running. -/
def State.arbLoad (s : State) : Nat :=
  s.bv.queue.foldl (fun a x => a + (match x.start with | some t => x.cost - 208 * (s.frc - t) | none => x.cost)) 0

/-- An arbitration enters the queue where it fits (R194). -/
def State.arbEnqueue (s : State) (a : Arb) : Option State :=
  if s.bv.queue.length < 8 ∧ s.arbLoad + a.cost ≤ arbBudget then some (s.setBv { s.bv with queue := s.bv.queue ++ [a] }) else none

/-! ### Element pairs (R193) -/

def FVal.abs : FVal → FVal
  | .nan => .nan
  | .inf _ => .inf false
  | .fin _ m e => .fin false m e

/-- The value of an element: a code times SCALE for INT formats. -/
def elemExact (fmt : Nat) (scale : W32) (n : Nat) : FVal :=
  if isInt fmt then (FVal.mul (elemVal fmt n) (fdec scale)).1 else elemVal fmt n

/-- The tolerance pair of a column. -/
def tolAt (r : TolRec) (col : Nat) : FVal × FVal :=
  match r.cols[col]? with
  | some c => (fdec c.1, fdec c.2)
  | none => (fdec r.absTol, fdec r.relTol)

def FVal.max (a b : FVal) : FVal := if FVal.lt a b then b else a

/-- Whether a pair of values passes, without rounding. -/
def pairPasses (t : FVal × FVal) (a b : FVal) : Bool :=
  match a, b with
  | .nan, .nan => true
  | .inf x, .inf y => decide (x = y)
  | .fin .., .fin .. =>
    let d := (FVal.add false a b.neg).1.abs
    !FVal.lt (FVal.max t.1 (FVal.mul t.2 (FVal.max a.abs b.abs)).1) d
  | _, _ => false

/-- The index of the first pair of codes that fails. -/
def firstBad (fmt : Nat) (scale : W32) (tol : TolRec) (col : Nat → Nat) : Nat → List Nat → List Nat → Option Nat
  | i, a :: r, b :: q =>
    if pairPasses (tolAt tol (col i)) (elemExact fmt scale a) (elemExact fmt scale b) then firstBad fmt scale tol col (i + 1) r q
    else some i
  | _, _, _ => none

/-! ### Fetching and judging (R192) -/

/-- Rows of elements fetched: the codes, none where a read ends with a status other than OK. -/
def State.fetchRows (s : State) (fmt cols : Nat) : List Nat → Option (List Nat) × State
  | [] => (some [], s)
  | a :: r =>
    let (st, bs, t) := s.readB ghSrc a (elemRowBytes fmt cols)
    if st ≠ 0 then (none, t)
    else
      let (x, u) := State.fetchRows t fmt cols r
      (x.map (fun l => unpackElems (elemBits fmt) cols bs ++ l), u)

/-- A tile's elements in canonical order. -/
def State.fetchTile (s : State) (o : Origin) : Option (List Nat) × State :=
  s.fetchRows o.fmt (o.cols + 1) ((List.range (o.rows + 1)).map (fun (r : Nat) => ((o.base : Int) + (r : Int) * o.stride).toNat))

/-- Origin records of a list of slots: none and the first slot whose records fail. -/
def State.originsOf (s : State) (r : BvRun) : List Nat → (Nat ⊕ List (Nat × Origin × Origin)) × State
  | [] => (.inr [], s)
  | k :: q =>
    let (a, s) := s.originRead r.dieA k 0 r.seq
    let (b, s) := s.originRead r.dieB k 1 r.seq
    match a, b with
    | some x, some y =>
      if x.rows = y.rows ∧ x.cols = y.cols ∧ x.fmt = y.fmt then
        let (z, s) := State.originsOf s r q
        (z.map id (fun l => (k, x, y) :: l), s)
      else (.inl k, s)
    | _, _ => (.inl k, s)

/-- Tiles of one copy: none and the first slot whose fetch fails. -/
def State.tilesOf (s : State) (copyB : Bool) : List (Nat × Origin × Origin) → (Nat ⊕ List (List Nat)) × State
  | [] => (.inr [], s)
  | (k, a, b) :: q =>
    let (x, s) := s.fetchTile (if copyB then b else a)
    match x with
    | none => (.inl k, s)
    | some l =>
      let (z, s) := State.tilesOf s copyB q
      (z.map id (fun t => l :: t), s)

/-- The first failing pair of a list of tiles: its slot and its index in the whole list. -/
def tilesBad (rg : RangeRec) (tol : TolRec) : Nat → List (Nat × Origin × Origin) → List (List Nat) → List (List Nat) → Option (Nat × Nat)
  | base, (k, o, _) :: q, a :: r, b :: t =>
    let cols := o.cols + 1
    let tcol := (k - rg.first.toNat) % max 1 rg.tilesPerRow.toNat
    match firstBad o.fmt rg.scale tol (fun i => tcol * cols + i % cols) 0 a b with
    | some i => some (k, base + i)
    | none => tilesBad rg tol (base + a.length) q r t
  | _, _, _, _ => none

/-- An arbitration of slots of a run: none where it passes, else slot, reason and element. -/
def State.judgeSlots (s : State) (r : BvRun) (rg : RangeRec) (tol : TolRec) (fetchOk : Bool) (slots : List Nat) :
    Option (Nat × Nat × Nat) × State :=
  let (o, s) := s.originsOf r slots
  match o with
  | .inl k => (some (k, pfGeom, 0), s)
  | .inr os =>
    if !fetchOk then (some (slots.headD 0, pfFetch, 0), s)
    else
      let (a, s) := s.tilesOf false os
      match a with
      | .inl k => (some (k, pfFetch, 0), s)
      | .inr as =>
        let (b, s) := s.tilesOf true os
        match b with
        | .inl k => (some (k, pfFetch, 0), s)
        | .inr bs => ((tilesBad rg tol 0 os as bs).map (fun e => (e.1, pfTol, e.2)), s)

/-- Rows of a tensor: addresses, in dense order (R65). -/
def tensorRows (base : Nat) (t : TensorDesc) : List Nat :=
  let d := fun i => t.dim.getD i 1
  let st := fun i => t.stride.getD i 0
  (List.range (d 1 * d 2 * d 3)).map (fun i =>
    ((base : Int) + (i % d 1 : Nat) * st 0 + (i / d 1 % d 2 : Nat) * st 1 + (i / (d 1 * d 2) : Nat) * st 2).toNat)

/-- A comparison of a tensor with its expected data (R213): whether it passes. -/
def State.judgeGolden (s : State) (fetchOk : Bool) (base : Nat) (t : TensorDesc) (expect : Nat) (tol : TolRec) : Bool × State :=
  let n := t.dim.getD 0 1
  let fmt := t.fmt.toNat
  if !fetchOk then (false, s)
  else
    let (a, s) := s.fetchRows fmt n (tensorRows base t)
    let (st, bs, s) := s.readB ghSrc expect ((tensorCount t * elemBits fmt + 7) / 8)
    match a with
    | none => (false, s)
    | some l => (decide (st = 0) && (firstBad fmt t.scale tol (fun i => i % n) 0 l (unpackElems (elemBits fmt) l.length bs)).isNone, s)

/-! ### Golden frames at the Folly (R209 to R213) -/

def State.gold (s : State) (svc : Nat) : GoldSt := Tab.get GoldSt.init s.fol.golds svc
def State.setGold (s : State) (svc : Nat) (g : GoldSt) : State := s.setFol { s.fol with golds := Tab.set GoldSt.init s.fol.golds svc g }

/-- A golden frame's pass or failure, once every comparison and every copy has ended: its evidence, and a new density in force (R20, R213). -/
def State.goldFinish (s : State) (svc : Nat) : State :=
  let g := s.gold svc
  if !g.judging ∨ g.cmpA ≠ 0 ∨ g.cmpB ≠ 0 ∨ g.running then s
  else
    let ok := !g.failA && !g.failB
    let g' := { g with judging := false, interval := g.declared, deadline := none, pass := if ok then some g.cmpAt else g.pass,
                       due := if ok then some (g.cmpAt + 500000 * g.declared) else none }
    let t := (s.setGold svc g').evidence (.golden svc g.failA g.failB)
    if ok then t.count (folPage + 0x078) else (t.count (folPage + 0x07C)).setErr folPage 2

/-- One comparison of a copy has ended. -/
def State.goldCmp (s : State) (svc : Nat) (copyB ok : Bool) : State :=
  let g := { s.gold svc with cmpAt := s.frc }
  let g := if copyB then { g with cmpB := g.cmpB - 1, failB := g.failB || !ok } else { g with cmpA := g.cmpA - 1, failA := g.failA || !ok }
  (s.setGold svc g).goldFinish svc

/-- A comparison enters the queue, or waits (R213). -/
def State.goldPut (s : State) (svc : Nat) (a : Arb) : State :=
  match s.arbEnqueue a with
  | some t => t
  | none =>
    let g := s.gold svc
    s.setGold svc { g with waiting := g.waiting ++ [a] }

/-- Comparisons that wait try again (R213), in service order. -/
def State.goldRetry (s : State) : State :=
  s.fol.golds.foldl (fun t e =>
    let ws := e.2.waiting
    if ws.isEmpty then t
    else
      let t := t.setGold e.1 { t.gold e.1 with waiting := [] }
      ws.foldl (fun t a => t.goldPut e.1 a) t) s

/-- Comparisons that wait at the golden run's deadline fail their copies (R213). -/
def State.goldLate (s : State) (svc : Nat) : State :=
  let g := s.gold svc
  match g.deadline with
  | some d =>
    if d ≤ s.frc ∧ g.waiting.isEmpty = false then
      g.waiting.foldl (fun t a => match a.kind with | .golden _ cb _ _ _ _ => t.goldCmp svc cb false | _ => t)
        (s.setGold svc { g with waiting := [] })
    else s
  | none => s

/-- Comparisons of one copy of a golden run: tensor, place, expected data and tolerance. The run's tensors lie where `base` says. -/
def goldArbs (svc : Nat) (copyB : Bool) (net : NetDesc) (tols : List TolRec) (index : Nat) (base : TensorDesc → Nat) (cst : Nat) : List Arb :=
  match net.golden.find? (fun g => decide (g.index.toNat = index)) with
  | none => []
  | some g => g.expects.filterMap (fun e => match net.tensors[e.tensor]?, tols[e.tol]? with
    | some t, some r =>
      some ⟨0, .golden svc copyB (base t) t (cst + e.off) r, arbCost (2 * e.len) (tensorCount t), none⟩
    | _, _ => none)

/-- The comparisons of copies are queued; `fail` names copies that fail without one (R213). -/
def State.goldQueue (s : State) (svc : Nat) (as bs : List Arb) (failA failB : Bool) (deadline : Option Tick) (running : Bool) : State :=
  let g := s.gold svc
  let t := s.setGold svc { g with cmpA := as.length, cmpB := bs.length, failA := failA, failB := failB, judging := true, waiting := [],
                                  deadline := deadline, running := running, cmpAt := s.frc }
  ((as ++ bs).foldl (fun t a => t.goldPut svc a) t).goldFinish svc

/-- The copies of a two-copy golden run have all ended, or one has not by the deadline: then the run was not checked in full, and both
copies fail (R213). -/
def State.goldEnded (s : State) (svc : Nat) (ok : Bool) : State :=
  let g := s.gold svc
  if !g.judging then s
  else (s.setGold svc { g with running := false, failA := g.failA || !ok, failB := g.failB || !ok }).goldFinish svc

end Sys2Proof.Machine
end

