-- ==== Sys2Proof/Machine/Runs.lean ====
section
/-! DEFINITION. Runs: firing (R96, R98, R99, R110, R382), starting and preemption (R107, R108, R211, R212), work items, ends and results
(R17, R98, R104 to R106, R111, R195). -/

namespace Sys2Proof.Machine

/-! ### Runs and copies -/

def sameRun (a b : Run) : Bool :=
  decide (a.bank = b.bank) && decide (a.entry = b.entry) && decide (a.proof = b.proof) && decide (a.seq = b.seq)
def State.setRun (s : State) (r : Run) : State :=
  s.setPlan { s.plan with runs := s.plan.runs.map (fun x => if sameRun x r then r else x) }
/-- A run as it stands now, where it has not ended. -/
def State.runNow (s : State) (r : Run) : Option Run := s.plan.runs.find? (sameRun r)
def jobOf (r : Run) (copyB : Bool) (j : Job) : Bool :=
  decide (j.bank = r.bank) && decide (j.entry = r.entry) && decide (j.proof = r.proof) && decide (j.seq = r.seq)
  && decide (j.copyB = copyB)
def State.runOfJob (s : State) (j : Job) : Option Run := s.plan.runs.find? (fun r => jobOf r j.copyB j)

def Run.copy (r : Run) (b : Bool) : CopyRun := if b then r.b else r.a
def Run.setCopy (r : Run) (b : Bool) (c : CopyRun) : Run := if b then { r with b := c } else { r with a := c }
/-- The copies of a run. -/
def Run.copies (r : Run) : List Bool := if r.two then [false, true] else [false]
def Run.sets (r : Run) : Nat := r.a.set ||| (if r.two then r.b.set else 0)
def Run.svc (r : Run) : Nat := r.ent.svc
/-- The work list of a logical Pavilion (R87, R93): copy A runs tiling variant 0, copy B variant 1 where the network has one. -/
def Run.workOf (r : Run) (b : Bool) (lp : Nat) : List WorkItem :=
  (r.net.work.getD (if b && decide (1 < r.net.work.length) then 1 else 0) []).getD lp []

/-- Rank of a run (R107), lowest first. -/
def Run.rank (r : Run) : Nat := 2 * r.ent.prio + b2n (!r.proof)
/-- Whether one run preempts another (R107, R211). -/
def canPreempt (hi lo : Run) : Bool :=
  !lo.forced && (decide (lo.ent.prio < hi.ent.prio) || (!hi.proof && lo.proof && decide (lo.ent.prio ≤ hi.ent.prio)))
/-- Whether a run goes before another that waits or runs beside it. -/
def runsBefore (a b : Run) : Bool :=
  if a.forced ≠ b.forced then a.forced
  else if a.rank ≠ b.rank then decide (b.rank < a.rank) else decide (a.fire < b.fire)

/-- The logical Pavilion of Pavilion p in a set. -/
def lpOf (set p : Nat) : Nat := setCount (set % 2 ^ p)
def jobList (s : State) : List (Nat × Job) := s.plan.jobs.filterMap (fun e => e.2.map (fun j => (e.1, j)))

/-- Whether a copy has work: items to hand out, on cores, or saved (R110). -/
def State.copyWork (s : State) (r : Run) (b : Bool) : Bool :=
  (r.copy b).next.zipIdx.any (fun e => decide (e.1 < (r.workOf b e.2).length)) || (jobList s).any (fun e => jobOf r b e.2)
  || s.plan.saved.any (fun x => jobOf r b x.job)
/-- Whether a copy holds its Pavilions. -/
def State.copyHolds (s : State) (r : Run) (b : Bool) : Bool :=
  let c := r.copy b
  c.started && c.ended.isNone && !c.stopped && (!c.lost || s.copyWork r b)
/-- Whether a copy waits to start. -/
def Run.waits (r : Run) (b : Bool) : Bool := (r.copy b).able && !(r.copy b).started && !r.finished && !(r.copy b).stopped

/-- The copies that hold a Pavilion. -/
def State.holders (s : State) (p : Nat) : List (Run × Bool) :=
  s.plan.runs.flatMap (fun r => (r.copies.filter (fun b => nbit (r.copy b).set p && s.copyHolds r b)).map (fun b => (r, b)))

/-! ### Placement (R93, R110, R382) -/

/-- Whether a scope holds Pavilion p (R186). -/
def scopeHas (sc : Scope) (p : Nat) : Bool :=
  match sc with
  | .none => false
  | .pavs m => bit m p
  | .die d => decide (d = p / 4)
  | .package => true
/-- Whether a restart order that names a Pavilion is outstanding. -/
def State.orderOn (s : State) (p : Nat) : Bool := s.bel.orders.any (fun o => decide (o.state < 3) && scopeHas o.scope p)
/-- Whether a Pavilion is in service (R382). -/
def State.inService (s : State) (p : Nat) : Bool :=
  s.orderOn p || ([pavUid p, dieUid (p / 4)] : List UnitId).all (fun u =>
    decide (s.ustate u ≠ stAbsent) && decide (s.ustate u ≠ stFaulted) && !s.held u)
def State.setInService (s : State) (m : Nat) : Bool := (bitsOf 8 m).all s.inService

/-- The copy of a run as its firing places it. -/
def State.placeCopy (s : State) (e : Entry) (b : Bool) (net : NetDesc) : CopyRun :=
  let (prim, fall) := if b then (e.pavB, e.fallB) else (e.pavA, e.fallA)
  let mk := fun (set : Nat) (f able : Bool) =>
    (⟨set, f, able, false, none, false, false, List.replicate (if net.pavilions = 0 then 1 else net.pavilions) 0⟩ : CopyRun)
  if s.setInService prim then mk prim false true
  else if fall ≠ 0 ∧ s.setInService fall = true then mk fall true true
  else mk prim false false

/-- What the run-plan block tells the belief engine of runs and moves (R176, R195, R382) comes over the Gatehouse link of the I/O die: with
no path it is lost. R295 names no message that carries it (DESIGN CHOICE). -/
def State.evidIo (s : State) (k : EvKind) : State := if s.pathStatus 2 3 = 0 then s.evidence k else s

/-- A copy's move to or from its fallback set is noted, and is evidence (R176, R382). -/
def State.noteFall (s : State) (svc : Nat) (b : Bool) (c : CopyRun) (safety : Bool) : State :=
  let k := 2 * svc + b2n b
  if !c.able ∨ Tab.get false s.plan.onFall k = c.fallback then s
  else
    let t := s.setPlan { s.plan with onFall := Tab.set false s.plan.onFall k c.fallback }
    if safety then t.evidIo (.fallback svc) else t

/-- Where a tensor of a copy lies (R88). -/
def arrivalTab (r : Run) (b : Bool) : Nat :=
  let d := ((setDie (r.copy b).set).getD 0)
  d * 0x600000000 + (Config.arrivalArea (1024 * r.bank + 4 * r.entry + 2 * b2n r.proof + b2n b) % 50331648) * 512
def Run.dieOf (r : Run) (b : Bool) : Nat := (setDie (r.copy b).set).getD 0
/-- The base of a copy's CONST image, and of the golden data that stands on its own die (R88, R119, R208). -/
def Run.constAt (r : Run) (b : Bool) : Nat := (r.constBase.getD (netConst r.net (r.dieOf b)) 0).toNat
def Run.goldenAt (r : Run) (b : Bool) : Nat := (r.constBase.getD (r.dieOf b) 0).toNat
/-- The sequencer that acts for a copy as a whole: that of the lowest Pavilion of its set (DESIGN CHOICE). -/
def State.copySrc (s : State) (r : Run) (b : Bool) : BusSrc := s.seqSrc (((bitsOf 8 (r.copy b).set).head?).getD 0)
def Run.arena (r : Run) (b : Bool) : Nat := if b then r.ent.arenaB else r.ent.arenaA
def Run.base (r : Run) (b : Bool) (t : TensorDesc) : Nat :=
  t.offset.toNat + (if t.region.toNat = 0 then r.constAt b else if t.region.toNat = 1 then r.arena b else arrivalTab r b)

/-! ### Messages to the Belvedere: the model's layouts -/

def runHead (entry : Nat) (proof : Bool) (x : Nat) : List Byte := bytesLE 4 (entry + 256 * b2n proof + 512 * x)
/-- A deadline that a golden run does not have yet (R212). -/
def noDeadline : Nat := 2 ^ 64 - 1
def runOpenBytes (entry : Nat) (proof : Bool) (seq : W32) (two : Bool) (dieA dieB : Nat) (deadline : Tick) : List Byte :=
  runHead entry proof (b2n two + 2 * dieA + 4 * dieB) ++ bytesLE 4 seq.toNat ++ bytesLE 8 deadline
def outcomeBytes (entry : Nat) (proof : Bool) (seq : W32) (outcome : Nat) : List Byte :=
  runHead entry proof outcome ++ bytesLE 4 seq.toNat
def deadlineBytes (entry : Nat) (deadline : Tick) : List Byte := runHead entry true 0 ++ bytesLE 8 deadline

/-- A golden run's new deadline goes to its proof run record (R212). -/
def State.sendDeadline (s : State) (r : Run) : State :=
  match r.deadline with
  | some d => s.sendMsg idRunPlan idGatehouse 0x12 (deadlineBytes r.entry d)
  | none => s

/-! ### Firing (R96, R98, R99) -/

/-- What fires an entry: the FRAME_SEQ of a predecessor, sources missing, arrivals, ARRIVAL, and a predecessor's check. -/
structure Firing where
  frame : Option W32
  missing : W32
  arrivals : List Arrival
  arrival : Tick
  pred : Option Nat
  deriving DecidableEq, Repr

/-- Whether an entry has a run of a kind in flight (R98, R209). -/
def State.inFlight (s : State) (b n : Nat) (proof : Bool) : Option Run :=
  s.plan.runs.find? (fun r => decide (r.bank = b) && decide (r.gen = s.plan.gen) && decide (r.entry = n) && decide (r.proof = proof)
    && !r.finished)

def skipKey (b n : Nat) : Nat := 256 * b + n
/-- A frame set counted as skipped in the entry's next result. -/
def State.skipFrame (s : State) (b n : Nat) : State :=
  s.setPlan { s.plan with skipped := Tab.set 0 s.plan.skipped (skipKey b n) (satN 16 (Tab.get 0 s.plan.skipped (skipKey b n) + 1)) }

/-- A run starts its life: RUN_SEQ advances and RUN_OPEN goes to the Belvedere (R99, R189). -/
def State.launch (s : State) (b n : Nat) (proof : Bool) (golden : Nat) (frame : W32) (f : Firing) (net : NetDesc) : State :=
  let e := s.entry b n
  let two := twoCopy s.plan.mode e
  let p := (s.pkg e.pkg).getD ⟨0, 0, [], [], [], [], [], []⟩
  let ca := s.placeCopy e false net
  let cb := if two then s.placeCopy e true net else CopyRun.none
  let seq := Tab.get 0 s.plan.runSeq e.svc
  let deadline := if proof then none else some (s.frc + 5000 * e.deadline)
  let r : Run :=
    { bank := b, gen := s.plan.gen, entry := n, proof := proof, ent := e, net := net, constBase := p.constBase, tols := p.tols, two := two, seq := seq,
      frame := frame, fire := s.frc, deadline := deadline, missing := f.missing, arrivals := f.arrivals, arrival := f.arrival,
      pred := f.pred, golden := golden, a := ca, b := cb, outcome := none, finished := false, forced := false, defer := 0,
      deferBy := [], heldSince := none, heldBy := [],
      interrupted := (bitsOf 8 (ca.set ||| cb.set)).any s.orderOn }
  let t := s.setPlan { s.plan with runSeq := Tab.set 0 s.plan.runSeq e.svc (seq + 1), runs := s.plan.runs ++ [r] }
  let t := (t.noteFall e.svc false ca e.safety).noteFall e.svc true cb e.safety
  t.sendMsg idRunPlan idGatehouse 0x10
    (runOpenBytes n proof seq two ((setDie ca.set).getD 0) ((setDie cb.set).getD 0) (deadline.getD noDeadline))

/-- RUN_FIRE (R96, R98, R99, R110, R211): a real firing of an entry of the active bank. The firing that a forced golden run of its service
has cost starts nothing. -/
def State.fireLive (s : State) (n : Nat) (f : Firing) : State :=
  let b := s.activeBank
  let e := s.entry b n
  let k := Tab.get 0 s.plan.frameSeq n
  let frame := f.frame.getD (w32 k)
  let s := s.setPlan { s.plan with frameSeq := Tab.set 0 s.plan.frameSeq n ((k + 1) % 2 ^ 32) }
  let owed := Tab.get 0 s.plan.skipNext e.svc
  let flying := (s.inFlight b n false).isSome
  if owed ≠ 0 then
    let t := (s.setPlan { s.plan with skipNext := Tab.set 0 s.plan.skipNext e.svc (owed - 1) }).count (folPage + 0x088)
    (if flying then t.count (rpPage + 0x080) else t).skipFrame b n
  else if flying then (s.count (rpPage + 0x080)).skipFrame b n
  else
    match s.netOf e with
    | none => s.skipFrame b n
    | some net =>
      if twoCopy s.plan.mode e = false ∧ (s.placeCopy e false net).able = false then s.skipFrame b n
      else s.launch b n false 0 frame f net

/-- A golden run fires (R209). -/
def State.fireGolden (s : State) (n index : Nat) : State :=
  let b := s.activeBank
  match s.netOf (s.entry b n) with
  | none => s
  | some net =>
    match net.golden.find? (fun g => decide (g.index.toNat = index)) with
    | none => s
    | some g => s.launch b n true index (w32 (Tab.get 0 s.plan.frameSeq n)) ⟨none, g.missing, [], s.frc, none⟩ net

/-! ### Gathers (R96) -/

/-- A gather ends and its entry fires with the sources that have not arrived. -/
def State.fireGather (s : State) (n : Nat) (g : Gather) (at_ : Tick) : State :=
  let e := s.entry s.activeBank n
  let got := g.got.foldl (fun m a => m ||| 2 ^ a.src) 0
  (s.setPlan { s.plan with gathers := Tab.set none s.plan.gathers n none }).fireLive n
    ⟨none, e.arg &&& ~~~ (w32 got), g.got, at_, none⟩

/-- A window that closes with sources missing. -/
def State.closeGather (s : State) (n : Nat) (g : Gather) : State :=
  let e := s.entry s.activeBank n
  if e.partialOk then s.fireGather n g (g.since + 500 * e.gatherUs)
  else ((s.setPlan { s.plan with gathers := Tab.set none s.plan.gathers n none }).count (rpPage + 0x084)).skipFrame s.activeBank n

/-- Whether an open window is over: its close has come; one of GATHER_US 0 lasts to the end of its tick. -/
def State.gatherOver (s : State) (n : Nat) (g : Gather) : Bool :=
  let w := 500 * (s.entry s.activeBank n).gatherUs
  decide (g.since + w ≤ s.frc) && decide (w ≠ 0 ∨ g.since < s.frc)

def gatherWindowClose (n : Nat) (s : State) : State :=
  match Tab.get none s.plan.gathers n with
  | some g => if s.gatherOver n g then s.closeGather n g else s
  | none => s
def execGatherWindowClose (n : Nat) (s : State) : Out := onUnit (decide (n < 256)) (gatherWindowClose n s)

/-- A frame declared arrived, at one SENSOR entry of the active bank that masks its source. -/
def State.arriveAt (s : State) (a : Arrival) (n : Nat) : State :=
  let mask := (s.entry s.activeBank n).arg
  let s := match Tab.get none s.plan.gathers n with
    | some g => if s.gatherOver n g then s.closeGather n g else s
    | none => s
  let put := fun (s : State) (g : Gather) =>
    if (bitsOf 32 mask.toNat).all (fun k => g.got.any (fun x => decide (x.src = k))) then s.fireGather n g a.at_
    else s.setPlan { s.plan with gathers := Tab.set none s.plan.gathers n (some g) }
  match Tab.get none s.plan.gathers n with
  | none => put s ⟨a.at_, [a]⟩
  | some g =>
    if g.got.any (fun x => decide (x.src = a.src)) then
      put (s.count (rpPage + 0x088)) { g with got := g.got.filter (fun x => decide (x.src ≠ a.src)) ++ [a] }
    else put s { g with got := g.got ++ [a] }

/-- A frame declared arrived (R96). -/
def State.arrive (s : State) (a : Arrival) : State :=
  ((s.entries s.activeBank).filter (fun e => decide (e.2.trig = 1) && bit e.2.arg a.src)).foldl (fun t e => t.arriveAt a e.1) s

/-! ### Work items (R99, R107, R108) -/

/-- The preemption area of Pavilion p, and the records of its core c. -/
def saveArea (p c d : Nat) : Nat :=
  (p / 4) * 0x600000000 + (Config.preemptArea p % 2457) * 0xA00000 + (c * 5 + d) * 0x2000
/-- Core c of a Pavilion, 0 to 255. -/
def coreNo (u : UnitId) : Nat := uClu u * 16 + uCore u
/-- The record of a core for items of a run (R107, R108): one for each rank that can be preempted, so that the items that stand
suspended on a core, whose runs differ in rank, each have their own. -/
def saveRec (u : UnitId) (r : Run) : Nat := saveArea (pavIx u) (coreNo u) (min r.rank 4)

/-- Whether a core can take a work item: present, in the resident firmware's wait, its unit at work. -/
def State.coreFree (s : State) (u : UnitId) : Bool :=
  let c := s.core u
  !s.isAbsent u && c.run && c.wfi && decide (s.ustate u = stRunning) && !s.held u && decide (s.gate u = 0) && !s.tripped (uDie u)
  && (Tab.get none s.plan.jobs u.toNat).isNone

/-- The run header of a core (R99). -/
def runHeader (r : Run) (b resume : Bool) (arg : W32) (save : Nat) : List Byte :=
  bytesLE 4 r.seq.toNat ++ bytesLE 4 r.frame.toNat
  ++ bytesLE 4 (r.entry + 256 * b2n b + 512 * b2n r.proof + 1024 * b2n (decide (r.missing ≠ 0)) + 2048 * b2n resume + 4096 * r.ent.prio
      + 65536 * r.ent.svc)
  ++ bytesLE 4 r.missing.toNat ++ bytesLE 8 r.fire ++ bytesLE 8 (r.arena b) ++ bytesLE 8 (arrivalTab r b)
  ++ bytesLE 4 (if r.proof then r.ent.slotProof else r.ent.slotLive) ++ bytesLE 4 arg.toNat ++ bytesLE 8 save ++ bytesLE 8 0

def hdrAt : Nat := 0x3FFC0

/-- A work item given to a core (R99): before the core's first item of the run SIG_SEQ, SIG_COPY and the header; on resumption a header
with RESUME and the record to resume from (R108). Then the core wakes. -/
def State.giveItem (s : State) (u : UnitId) (r : Run) (b : Bool) (j : Job) (back : Option Nat) : State :=
  let key := some (r.bank, r.entry, r.proof, r.seq, b)
  let t := if (s.core u).hdr = key ∧ back.isNone = true then s
    else (sigSeqWrite u true (w32 (b2n b)) (sigSeqWrite u false r.seq s)).spWrite u hdrAt
      (runHeader r b back.isSome j.what.arg (back.getD 0))
  let t := t.setCore u { t.core u with wfi := false, hdr := key }
  t.setPlan { t.plan with jobs := Tab.set none t.plan.jobs u.toNat (some j) }

/-- A saved item resumes on a core: its generator state, then a header with RESUME (R108). The core's own record serves its next yield.
A generator word that comes as poison, or not at all, is 0 there (DESIGN CHOICE). -/
def State.resumeItem (s : State) (u : UnitId) (r : Run) (x : Saved) : State :=
  let (_, bs, t) := s.readB (s.seqSrc (pavIx u)) (x.addr + 0x150) 16
  let w := fun i => w32 (imgW bs i)
  let t := t.setPlan { t.plan with saved := t.plan.saved.filter (fun y => decide (y ≠ x)) }
  let t := t.setCore u ((t.core u).seed (seedOf (w 0) (w 1) (w 2) (w 3)))
  t.giveItem u r x.job.copyB { x.job with save := saveRec u r } (some x.addr)

/-- Whether a copy has something to give on Pavilion p. -/
def State.hasFor (s : State) (r : Run) (b : Bool) (p : Nat) : Bool :=
  s.plan.saved.any (fun x => decide (x.pav = p) && jobOf r b x.job)
  || (let lp := lpOf (r.copy b).set p
      let l := (r.workOf b lp).length
      decide ((r.copy b).next.getD lp l < l))

/-- A free core takes up the next work of its Pavilion's copies, the foremost run first (R107). -/
def State.assignCore (s : State) (u : UnitId) : State :=
  if !s.coreFree u then s
  else
    let p := pavIx u
    let cands := (s.holders p).filter (fun c => s.hasFor c.1 c.2 p)
    match cands with
    | [] => s
    | c0 :: cs =>
      let (r, b) := cs.foldl (fun best c => if runsBefore c.1 best.1 then c else best) c0
      match s.plan.saved.find? (fun x => decide (x.pav = p) && jobOf r b x.job) with
      | some x => s.resumeItem u r x
      | none =>
        let c := r.copy b
        let lp := lpOf c.set p
        let item := c.next.getD lp 0
        let r' := r.setCopy b { c with next := c.next.set lp (item + 1) }
        (s.setRun r').giveItem u r' b
          ⟨r.bank, r.entry, r.proof, r.seq, b, lp, item, (r.workOf b lp).getD item ⟨0, 0, 0⟩, saveRec u r⟩ none

/-- Every free core of the Pavilions of a set. -/
def State.assignSet (s : State) (m : Nat) : State :=
  ((bitsOf 8 m).flatMap (fun p => coresOf (pavUid p))).foldl State.assignCore s

/-! ### Results (R104 to R106) -/

/-- The belief that a service's field of the belief registers shows. -/
def State.beliefOf (s : State) (svc : Nat) : Nat := s.regF (beliefPage + 0x088 + 4 * (svc / 8)) (4 * (svc % 8)) 4

/-- The bits of bytes, lowest first; those of a byte that is poison are none. -/
def bitsP (bs : List (Option Byte)) : List (Option Bool) :=
  bs.flatMap (fun b => (List.range 8).map (fun i => b.map (fun v => v.getLsbD i)))
/-- Bits packed into bytes: a byte with a poisoned bit is poison. -/
def packP (l : List (Option Bool)) : List (Option Byte) :=
  (List.range ((l.length + 7) / 8)).map (fun i =>
    let x := (l.drop (8 * i)).take 8
    if x.any Option.isNone then none else some (BitVec.ofNat 8 (x.reverse.foldl (fun a b => 2 * a + b2n (b.getD false)) 0)))
/-- Rows of elements packed densely (R105): row after row, with no bit between them. -/
def packRows (bits : Nat) (rows : List (List (Option Byte))) : List (Option Byte) :=
  if bits % 8 = 0 then rows.flatten else packP (rows.flatMap (fun r => (bitsP r).take bits))

/-- The data area of a result (R105): the FINAL tensors, each packed densely from a 64-byte boundary, as the copy's sequencer reads them;
poison stays poison (R125). -/
def State.resultData (s : State) (r : Run) (b : Bool) : List (Option Byte) × State :=
  (r.net.tensors.filter (fun t => t.final)).foldl (fun (acc, s) t =>
    let acc := acc ++ List.replicate ((64 - acc.length % 64) % 64) (some 0)
    let n := t.dim.getD 0 1
    let (rows, s) := (tensorRows (r.base b t) t).foldl (fun (rs, s) a =>
      let (_, bs, s) := s.readP (s.copySrc r b) a (elemRowBytes t.fmt.toNat n)
      (rs ++ [bs], s)) (([] : List (List (Option Byte))), s)
    let bits := n * elemBits t.fmt.toNat
    let all := packRows bits rows
    (acc ++ all, s)) ([], s)

def nextResultSeq (v : W32) : W32 := if v = 0xFFFFFFFF#32 ∨ v = 0xFFFFFFFE#32 then 0 else v + 1

/-- RESULT_PUBLISH (R104 to R106): the record and its data in the ring in force, then the message. -/
def State.publish (s : State) (r : Run) (check : Nat) : State :=
  let svc := r.svc
  let (base, cfg) := Tab.get (0, 0) s.plan.rings svc
  if cfg = 0 then s
  else
    let seqA := rpPage + 0x40C + 16 * svc
    let seq := nextResultSeq (s.reg seqA)
    let room := 4096 * fld cfg 8 8
    let at_ := base + (seq.toNat % 2 ^ fld cfg 0 4) * (64 + room)
    let src := if r.a.ended.isSome then some false else if r.two ∧ r.b.ended.isSome then some true else none
    let (data, s) := match src with | some b => s.resultData r b | none => ([], s)
    let by_ := match src with | some b => s.copySrc r b | none => rpSrc
    let cut := data.take room
    let fall := r.a.fallback || (r.two && r.b.fallback)
    let sk := Tab.get 0 s.plan.skipped (skipKey r.bank r.entry)
    let w12 := check + 4 * b2n (decide (r.missing ≠ 0)) + 8 * b2n (decide (room < data.length)) + 16 * b2n fall + 32 * b2n r.pred.isSome
      + 64 * (r.pred.getD 0) + 256 * r.entry + 65536 * svc
    let body := bytesLE 4 seq.toNat ++ bytesLE 4 r.frame.toNat ++ bytesLE 4 r.seq.toNat ++ bytesLE 4 w12 ++ bytesLE 4 r.missing.toNat
      ++ bytesLE 4 sk ++ bytesLE 8 cut.length ++ bytesLE 8 r.arrival ++ bytesLE 8 s.frc ++ bytesLE 8 (s.beliefOf svc) ++ bytesLE 4 seq.toNat
    let put := fun (t : State) (o : Nat) (bs : List Byte) => (t.writeB rpSrc (at_ + o) bs).2
    let t := (put s 0 (bytesLE 4 0xFFFFFFFF)).writeP by_ (at_ + 64) cut |>.2
    let t := put (put t 4 ((body.drop 4).take 52)) 60 (bytesLE 4 (crc32cFold (2 ^ 32 * seq.toNat + svc) body).toNat)
    let t := put (put t 56 (bytesLE 4 seq.toNat)) 0 (bytesLE 4 seq.toNat)
    let t := (t.setReg seqA seq).setPlan { t.plan with skipped := Tab.set 0 t.plan.skipped (skipKey r.bank r.entry) 0 }
    if r.ent.notify then t.msixRequest r.ent.msix else t

/-! ### Ends (R98, R195, R213) -/

/-- SAFETY_DOMAIN_RESTORE (R132): a Pavilion that no run of a SAFETY entry holds and the active bank no longer names. -/
def State.restoreDom (s : State) (p : Nat) : State :=
  let named := (s.entries s.activeBank).any (fun e => e.2.safety && nbit (e.2.pavA ||| e.2.fallA ||| e.2.pavB ||| e.2.fallB) p)
  let busy := s.plan.runs.any (fun r => r.ent.safety && r.copies.any (fun b => nbit (r.copy b).set p
    && ((r.waits b && !(r.copy b).lost) || s.copyHolds r b)))
  match Tab.get 0 s.prevDom p with
  | 0 => s
  | d + 1 => if named || busy then s else { s.writeDomain domGh (pavUid p) d with prevDom := Tab.set 0 s.prevDom p 0 }

/-- Comparisons of a golden run's copies (R213). -/
def State.goldJudge (s : State) (r : Run) (failA failB : Bool) : State :=
  let arbs := fun (b fail : Bool) => if fail || (b && !r.two) then [] else
    goldArbs r.svc b r.net r.tols r.golden (r.base b) (r.goldenAt b)
  let open_ := r.copies.any (fun b => (r.copy b).ended.isNone)
  s.goldQueue r.svc (arbs false failA) (arbs true failB) failA failB r.deadline (open_ && !failA)

/-- The copies of a golden run that stand suspended or wait to start (R212). -/
def State.goldHeld (s : State) (r : Run) : List Bool :=
  r.copies.filter (fun b =>
    let c := r.copy b
    c.able && c.ended.isNone && !c.lost && (!c.started || (bitsOf 8 c.set).any (fun p =>
      (s.holders p).any (fun h => !sameRun h.1 r && runsBefore h.1 r))))
/-- Golden runs' deadlines (R212): moved by the time in which a copy is held, and sent each time one resumes or starts. -/
def State.goldTimes (s : State) : State :=
  s.plan.runs.foldl (fun t r =>
    if !r.proof ∨ r.deadline = none then t
    else
      let held := t.goldHeld r
      let moved := match r.heldSince with | some h => r.deadline.map (· + (t.frc - h)) | none => r.deadline
      let back := r.heldBy.any (fun b => !held.contains b)
      if back then
        let r' := { r with deadline := moved, heldSince := if held.isEmpty then none else some t.frc, heldBy := held }
        (t.setRun r').sendDeadline r'
      else if held = r.heldBy then t
      else t.setRun { r with heldSince := if r.heldSince.isSome then r.heldSince else some t.frc, heldBy := held }) s

/-- The end of a run: its result and evidence, the entries chained to it, and its Pavilions. -/
def State.runEnd (s : State) (r : Run) (check : Nat) : State :=
  let miss := fun (c : CopyRun) => c.ended.isNone
  let t := s.setPlan { s.plan with
    runs := s.plan.runs.filter (fun x => !sameRun x r),
    saved := s.plan.saved.filter (fun x => !(jobOf r false x.job || jobOf r true x.job)) }
  let t := if r.proof then t else t.publish r check
  let t := if r.ent.safety ∧ r.proof = false then
      t.evidIo (.run r.svc check (miss r.a) (r.two && miss r.b) r.fire r.seq r.interrupted) else t
  let t := if r.proof ∨ r.gen ≠ t.plan.gen then t
    else ((t.entries t.activeBank).filter (fun e => decide (e.2.trig = 2) && decide (e.2.arg.toNat = r.entry))).foldl (fun t e =>
      t.fireLive e.1 ⟨some r.frame, r.missing, [], t.frc, some check⟩) t
  let t := (bitsOf 8 r.sets).foldl State.restoreDom t
  (t.assignSet r.sets).goldTimes

/-- Work items of a copy are asked to yield (R107). -/
def State.askYield (s : State) (r : Run) (b : Bool) (m : Nat) : State :=
  (jobList s).foldl (fun t e =>
    let u : UnitId := BitVec.ofNat 16 e.1
    if jobOf r b e.2 && nbit m (pavIx u) then preemptWrite u 1 t else t) s

/-- The copies of a run are stopped without a save (R98). -/
def State.stopRun (s : State) (r : Run) : State :=
  let t := r.copies.foldl (fun t b => if (r.copy b).ended.isNone then t.askYield r b 255 else t) s
  let stop := fun (c : CopyRun) => { c with stopped := c.stopped || c.ended.isNone }
  let t := t.setRun { r with a := stop r.a, b := stop r.b }
  t.setPlan { t.plan with saved := t.plan.saved.filter (fun x => !(jobOf r false x.job || jobOf r true x.job)) }

/-- A run that can end does (R98): every copy has ended, and a two-copy run's outcome is known. -/
def State.runCheck (s : State) (r0 : Run) : State :=
  match s.runNow r0 with
  | none => s
  | some r =>
    let done := r.copies.all (fun b => (r.copy b).ended.isSome)
    match r.two, r.outcome with
    | true, some o =>
      let check := if o = chkFail then chkFail else if !done then chkMissing else o
      if done || r.finished then s.runEnd r check else s
    | true, none => s
    | false, _ => if done then s.runEnd r chkNone else s

/-- A run at its deadline (R98, R195): copies still running are stopped. The check of a two-copy run takes the outcome that the
Belvedere sends at the deadline, so the run waits for it alone, where it can come; `last` where it is waited for no longer. -/
def State.deadlineEnd (s : State) (r : Run) (last : Bool) : State :=
  let late := r.copies.any (fun b => (r.copy b).ended.isNone)
  let t := if r.finished then s else (s.stopRun r).count (rpPage + 0x08C)
  let t := if late ∧ r.proof ∧ r.two then t.goldEnded r.svc false else t
  match t.runNow r with
  | none => t
  | some r =>
    if r.two ∧ r.outcome = none ∧ last = false ∧ t.pathStatus 3 2 = 0 then t.setRun { r with finished := true }
    else
      let check := if r.outcome = some chkFail then chkFail else if late ∨ (r.two = true ∧ r.outcome = none) then chkMissing
        else r.outcome.getD chkNone
      let t := if r.proof ∧ r.two = false then t.goldJudge r true false else t
      t.runEnd r check

/-- Whether a run's deadline has come (R98): what ends on its tick has not ended in time. -/
def State.overdue (s : State) (r : Run) : Bool := r.heldSince.isNone && r.deadline.any (fun d => decide (d ≤ s.frc))

/-- COPY_END (R99): the last work item of a copy on every Pavilion of its set. A copy that comes to its end at the deadline or after it has
not ended in time (R98). -/
def State.copyCheck (s : State) (r0 : Run) (b : Bool) : State :=
  match s.runNow r0 with
  | none => s
  | some r =>
    let c := r.copy b
    if c.started && c.ended.isNone && !c.stopped && !c.lost && !s.copyWork r b then
      if s.overdue r then (if r.finished then s else s.deadlineEnd r false)
      else
        let r' := r.setCopy b { c with ended := some s.frc }
        let t := s.setRun r'
        let t := if r.proof ∧ r.two = false then t.goldJudge r' false false else t
        let t := if r.proof && r.two && r'.copies.all (fun b => (r'.copy b).ended.isSome) then t.goldEnded r.svc true else t
        let t := (bitsOf 8 c.set).foldl State.restoreDom t
        ((t.runCheck r').assignSet c.set).goldTimes
    else if c.lost && !s.copyWork r b then (((bitsOf 8 c.set).foldl State.restoreDom s).assignSet c.set).goldTimes
    else s

/-! ### Starting (R95, R107, R211, R212) -/

/-- Slots of a run: first and one past the last. -/
def Run.slots (r : Run) : Nat × Nat :=
  let f := if r.proof then r.ent.slotProof else r.ent.slotLive
  (f, f + r.net.slotCount)
/-- Whether a run of an earlier plan holds a Pavilion or a slot that a copy of a run of the plan in force needs (R95): Pavilions by the
copies that run on them, slots until the run ends. -/
def State.oldHolds (s : State) (r : Run) (b : Bool) : Bool :=
  decide (r.gen = s.plan.gen) && s.plan.runs.any (fun o => decide (o.gen ≠ r.gen)
    && (o.copies.any (fun c => s.copyHolds o c && decide ((o.copy c).set &&& (r.copy b).set ≠ 0))
      || (decide (o.slots.1 < r.slots.2) && decide (r.slots.1 < o.slots.2))))

/-- Golden runs whose Pavilions a copy of a real run would take, and which it has not yet deferred (R211). -/
def State.deferred (s : State) (r : Run) (b : Bool) : List Run :=
  if r.proof then [] else s.plan.runs.filter (fun g => g.proof && !g.finished && !g.forced && decide (g.sets &&& (r.copy b).set ≠ 0)
    && g.copies.any (fun c => (g.copy c).ended.isNone) && !g.deferBy.contains (r.seq.toNat, r.svc))

/-- GOLDEN_DEFERRAL (R211): the ninth forces the golden run, and costs its service's next real firing where the run that causes it is
another service's. -/
def State.deferOne (s : State) (r : Run) (g : Run) : State :=
  let g' := { g with defer := g.defer + 1, deferBy := g.deferBy ++ [(r.seq.toNat, r.svc)] }
  let t := s.count (folPage + 0x080)
  if g'.defer < 9 then t.setRun g'
  else
    let t := (t.setRun { g' with forced := true }).count (folPage + 0x084)
    if g.svc = r.svc then t
    else t.setPlan { t.plan with skipNext := Tab.set 0 t.plan.skipNext g.svc (Tab.get 0 t.plan.skipNext g.svc + 1) }

/-- A real run that its service's golden run has cost (R211): what has started is stopped, nothing is published, and its firing counts as
skipped for proof. -/
def State.skipRun (s : State) (r : Run) : State :=
  let u := (s.stopRun r).count (folPage + 0x088)
  ((u.setPlan { u.plan with runs := u.plan.runs.filter (fun x => !sameRun x r) }).skipFrame r.bank r.entry)

/-- A copy starts on its Pavilions, preempting what it may. -/
def State.startCopy (s : State) (r : Run) (b : Bool) : State :=
  let c := r.copy b
  let first := r.proof && r.deadline.isNone
  let r' := r.setCopy b { c with started := true }
  let r' := if first then { r' with deadline := some (s.frc + 5000 * r.ent.deadline) } else r'
  let t := s.setRun r'
  let t := t.plan.runs.foldl (fun t o => if sameRun o r then t else o.copies.foldl (fun t ob =>
    if t.copyHolds o ob && decide ((o.copy ob).set &&& c.set ≠ 0) then t.askYield o ob c.set else t) t) t
  let t := if first then t.sendDeadline r' else t
  let tab := (List.range 32).flatMap (fun k =>
    if r.proof then
      match (r.net.golden.find? (fun g => decide (g.index.toNat = r.golden))).bind (fun g => g.inputs[k]?) with
      | some (off, len, ctr) => bytesLE 8 (r.goldenAt b + off) ++ bytesLE 4 len ++ bytesLE 4 ctr
      | none => bytesLE 16 0
    else match r.arrivals.find? (fun a => decide (a.src = k)) with
      | some a => bytesLE 8 a.addr ++ bytesLE 4 a.len ++ bytesLE 4 a.ctr
      | none => bytesLE 16 0)
  let t := (t.writeB (t.copySrc r b) (arrivalTab r b) tab).2
  ((t.assignSet c.set).copyCheck r' b).goldTimes

/-- Meaning of RUN_START (R107): a waiting copy starts where its Pavilions are free or preempted, no run goes before it, and no
forced golden run stands in its way. A start that would be a golden run's ninth deferral forces that run instead (R211). -/
def runStart (n : Nat) (proof copyB : Bool) (s : State) : State :=
  match s.plan.runs.find? (fun r => decide (r.entry = n) && decide (r.proof = proof) && r.copies.contains copyB && r.waits copyB) with
  | none => s
  | some r =>
    let c := r.copy copyB
    let meets := fun (o : Run) (b : Bool) => decide ((o.copy b).set &&& c.set ≠ 0)
    let ready := (bitsOf 8 c.set).all (fun p => decide (s.gate (pavUid p) = 0) && !s.held (pavUid p) && !s.tripped (p / 4))
    let first := s.plan.runs.all (fun o => sameRun o r || o.copies.all (fun b => !(o.waits b && meets o b && runsBefore o r)))
    let free := s.plan.runs.all (fun o => sameRun o r || o.copies.all (fun b => !(s.copyHolds o b && meets o b) || canPreempt r o))
    if !ready || s.oldHolds r copyB || !first || !free || s.overdue r then s
    else
      let gs := s.deferred r copyB
      let ninth := gs.filter (fun g => decide (8 ≤ g.defer))
      if ninth.isEmpty then (gs.foldl (fun t g => t.deferOne r g) s).startCopy r copyB
      else
        let t := ninth.foldl (fun t g => t.deferOne r g) s
        if ninth.any (fun g => decide (g.svc = r.svc)) then t.skipRun r else t
def execRunStart (n : Nat) (proof copyB : Bool) (s : State) : Out := onUnit (decide (n < 256)) (runStart n proof copyB s)

/-! ### What cores report -/

/-- Whether a core has come to the wait that ends a work item or a yield. -/
def State.coreWaits (s : State) (u : UnitId) : Bool := (s.core u).run && (s.core u).wfi && !s.isAbsent u

/-- A core whose item is gone takes up other work. -/
def State.coreDone (s : State) (u : UnitId) : State :=
  let t := s.setPlan { s.plan with jobs := Tab.set none s.plan.jobs u.toNat none }
  preemptClr u 1 t

/-- Meaning of CORE_YIELD (R108): the generator state goes into a complete record, and the core takes up other work. An item of a
run that has ended is dropped. -/
def coreYield (u : UnitId) (s : State) : State :=
  match Tab.get none s.plan.jobs u.toNat with
  | none => s
  | some j =>
    if !s.coreWaits u ∨ bit (s.reg (uPage u 1 + 0x07C)) 0 = false then s
    else match s.runOfJob j with
    | none => (s.coreDone u).assignCore u
    | some r =>
      if (r.copy j.copyB).stopped then ((s.coreDone u).assignCore u).goldTimes
      else
        let src := s.seqSrc (pavIx u)
        let (_, bs, s) := s.readB src j.save 16
        if imgW bs 0 ≠ 0x56414C44 ∨ w32 (imgW bs 3) ≠ r.seq then s
        else
          let g := (s.core u).gen.toNat
          let t := (s.writeB src (j.save + 0x150) (bytesLE 16 g)).2.coreDone u
          let t := t.setPlan { t.plan with saved := t.plan.saved ++ [⟨j, pavIx u, coreNo u, j.save⟩] }
          (t.assignCore u).goldTimes
def execCoreYield (u : UnitId) (s : State) : Out := onUnit (coreOk u) (coreYield u s)

/-- Meaning of WORK_ITEM_COMPLETE (R99): the item ends, its Pavilion's controller is told, and the core takes up other work. -/
def workItemComplete (u : UnitId) (s : State) : State :=
  match Tab.get none s.plan.jobs u.toNat with
  | none => s
  | some j =>
    if !s.coreWaits u then s
    else
      let t := ((s.coreDone u).icuPulse (2 + pavIx u) (1 + uClu u)).assignCore u
      match t.runOfJob j with
      | some r => t.copyCheck r j.copyB
      | none => t
def execWorkItemComplete (u : UnitId) (s : State) : Out := onUnit (coreOk u) (workItemComplete u s)

/-- Meaning of PREEMPT_TIMEOUT (R98, R107): counted once; the core of a stopped copy is reset in ABSORB. -/
def preemptTimeout (u : UnitId) (s : State) : State :=
  match Tab.get none s.plan.req u.toNat, Tab.get none s.plan.jobs u.toNat with
  | some (t0, seen), some j =>
    if s.frc < t0 + 500 * (s.reg (rpPage + 0x070)).toNat ∨ seen = true then s
    else
      let t := s.setPlan { s.plan with req := Tab.set none s.plan.req u.toNat (some (t0, true)) }
      let stopped := match s.runOfJob j with | some r => (r.copy j.copyB).stopped | none => true
      if stopped then unitCommand (.seq (pavIx u)) u cmdReset true 10 t else t.count (rpPage + 0x090)
  | _, _ => s
def execPreemptTimeout (u : UnitId) (s : State) : Out := onUnit (coreOk u) (preemptTimeout u s)

/-- Meaning of RUN_DEADLINE and GOLDEN_RUN_DEADLINE: the run of an entry whose deadline has come; given again, it ends the wait for an
outcome that has not come. -/
def deadlineOf (n : Nat) (proof : Bool) (s : State) : State :=
  match s.plan.runs.find? (fun r => decide (r.entry = n) && decide (r.proof = proof) && s.overdue r) with
  | some r => s.deadlineEnd r r.finished
  | none => s
def execRunDeadline (n : Nat) (s : State) : Out := onUnit (decide (n < 256)) (deadlineOf n false s)

/-- GOLDEN_RUN_DEADLINE (R212, R213): comparisons that still wait fail too. -/
def goldenDeadline (n : Nat) (s : State) : State :=
  (deadlineOf n true s).goldLate (s.entry s.activeBank n).svc
def execGoldenRunDeadline (n : Nat) (s : State) : Out := onUnit (decide (n < 256)) (goldenDeadline n s)

/-- A run's outcome is known to the run-plan block (R195). -/
def State.outcomeAt (s : State) (n : Nat) (proof : Bool) (seq : W32) (o : Nat) : State :=
  match s.plan.runs.find? (fun r => decide (r.entry = n) && decide (r.proof = proof) && decide (r.seq = seq) && r.two && r.outcome.isNone) with
  | none => s
  | some r =>
    let r' := { r with outcome := some o }
    (s.setRun r').runCheck r'

/-- Meaning of RUN_OUTCOME (R195): an outcome of a real run reaches the run-plan block. -/
def runOutcome (m : PMsg) (n : Nat) (proof : Bool) (seq : W32) (o : Nat) (s : State) : State :=
  let (p, t) := s.recv 4 (decide (m.type = 0x11)) m
  match p with
  | some bs => if bs = outcomeBytes n proof seq o ∧ proof = false then t.outcomeAt n false seq o else t
  | none => t
def execRunOutcome (m : PMsg) (n : Nat) (proof : Bool) (seq : W32) (o : BitVec 2) (s : State) : Out :=
  .next (runOutcome m n proof seq o.toNat s)

/-- Meaning of RESULT_RING_CONFIG_WRITE (R111): held until the next plan switch; values out of range are ignored (R7). -/
def ringWrite (svc which : Nat) (v : W32) (s : State) : State :=
  let a := rpPage + 0x400 + 16 * svc + 4 * which
  if which = 0 then (if fld v 0 12 = 0 then s.setReg a v else s)
  else if which = 1 then s.setReg a (v &&& 0xFFFF#32)
  else
    let c := v &&& 0xFF0F#32
    if c = 0 ∨ (2 ≤ fld v 0 4 ∧ fld v 0 4 ≤ 10) then s.setReg a c else s
def execResultRingConfigWrite (_w : Writer) (svc : BitVec 6) (which : Nat) (v : W32) (s : State) : Out :=
  onUnit (decide (which < 3)) (ringWrite svc.toNat which v s)

end Sys2Proof.Machine
end

