-- ==== Sys2Proof/Machine/Belvedere.lean ====
section
/-! DEFINITION. The Belvedere's commands: run records (R174, R189), signature messages (R190, R191), arbitrations (R192, R194),
outcomes (R195), scrub passes (R196) and the failure record (R201). -/

namespace Sys2Proof.Machine

/-- The domains whose signature messages and check-ins the Gatehouse links accept (R133). -/
def safetyDom (d : Domain) : Bool := decide (0xF10 ≤ d.toNat) && decide (d.toNat ≤ 0xF17)

/-! ### Failures -/

/-- A failed pair (R194, R201): the run fails, reasons 2 to 8 are counted, and the first failure is recorded. -/
def State.pairFail (s : State) (k slot reason elem : Nat) : State :=
  match s.bvRun k with
  | none => s
  | some r =>
    let t := s.setBvRun k (some { r with failed := true })
    let t := t.setBv { t.bv with lastFail := Tab.set 0 t.bv.lastFail r.svc (slot + 2 ^ 20 * reason) }
    let t := if reason = pfTol then t else t.count (bvPage + 0x074)
    if bit (t.reg (bvPage + 0x084)) 31 then t
    else (t.setReg (bvPage + 0x084) (w32 (slot + 2 ^ 20 * reason + 2 ^ 31))).setReg (bvPage + 0x088) (w32 (elem % 65536))

/-- A slot whose pair is decided without an arbitration stays out of its range's batch. -/
def State.pairOut (s : State) (k slot reason : Nat) : State :=
  (s.setSlotInfo slot (s.slotInfo slot ||| 8)).pairFail k slot reason 0

/-! ### Outcomes (R195) -/

def ArbKind.isGolden : ArbKind → Bool
  | .golden .. => true
  | _ => false

/-- The range records of earlier plans that a run still open started under (R174). -/
def keepPrev (runs : Tab (Option BvRun)) (prev : List (Nat × RangeRec)) : List (Nat × RangeRec) :=
  prev.filter (fun p => runs.any (fun e => match e.2 with | some r => decide (r.gen = p.1) | none => false))

/-- A run record closes. Range records of an earlier plan go with its last run (R174). -/
def State.bvDrop (s : State) (k : Nat) : State :=
  let runs := Tab.set none s.bv.runs k none
  let q := s.bv.queue.filter (fun a => decide (a.key ≠ k) || a.kind.isGolden)
  s.setBv { s.bv with runs := runs, queue := q, prev := keepPrev runs s.bv.prev }

/-- The run in flight or waiting for its outcome that a record belongs to. -/
def State.runOfBv (s : State) (k : Nat) (r : BvRun) : Option Run :=
  s.plan.runs.find? (fun x => decide (x.entry = k / 2) && decide (x.proof = (k % 2 == 1)) && decide (x.seq = r.seq) && x.two)

/-- A golden run's outcome goes to the Folly (R195, R213), and over the link of the I/O die to the run-plan block, whose run ends with it
(DESIGN CHOICE: R295 names no message that carries it). -/
def State.goldOutcome (s : State) (k : Nat) (r : BvRun) (o : Nat) : State :=
  match s.runOfBv k r with
  | none => s
  | some x =>
    let t := if o = chkPass then s.goldJudge x false false else s.goldQueue x.svc [] [] true true none false
    if t.pathStatus 3 2 = 0 then t.outcomeAt x.entry true x.seq o else t

/-- A run record closes with its outcome. -/
def State.bvClose (s : State) (k : Nat) (r : BvRun) (o : Nat) : State :=
  let t := s.bvDrop k
  if k % 2 = 1 then t.goldOutcome k r o
  else t.sendMsg idGatehouse idRunPlan 0x11 (outcomeBytes (k / 2) false r.seq o)

/-- RUN_RESOLVE (R195): every slot is resolved and no arbitration is queued or running. -/
def State.bvResolve (s : State) (k : Nat) : State :=
  match s.bvRun k with
  | none => s
  | some r =>
    let busy := s.bv.queue.any (fun a => decide (a.key = k) && !a.kind.isGolden)
    if !r.two || r.clearing || busy || r.left.any (fun n => decide (n ≠ 0)) then s
    else s.bvClose k r (if r.failed then chkFail else chkPass)

/-! ### Deciding a slot (R190, R191) -/

/-- Pairs that find no room in the queue (R194). -/
def State.arbFull (s : State) (k : Nat) (slots : List Nat) : State :=
  slots.foldl (fun t x => t.pairOut k x pfFull) (s.setErr bvPage bvArbFull)

/-- A batch split into chunks of whole tiles (R191). -/
def State.batchChunks (s : State) (fmt : Nat) (cur : List Nat) (bytes pairs : Nat) : List Nat → List (List Nat × Nat × Nat)
  | [] => if cur.isEmpty then [] else [(cur, bytes, pairs)]
  | x :: r =>
    let b := s.slotBytes fmt x
    let n := s.slotElems x
    if cur.isEmpty = false ∧ (524288 < bytes + b ∨ 262144 < pairs + n) then
      (cur, bytes, pairs) :: State.batchChunks s fmt [x] b n r
    else State.batchChunks s fmt (cur ++ [x]) (bytes + b) (pairs + n) r

def rangeHas (rg : RangeRec) (slot : Nat) : Bool :=
  decide (rg.first.toNat ≤ slot) && decide (slot < rg.first.toNat + rg.count.toNat)

/-- The range of a run that holds a slot, with its place. -/
def runRange (r : BvRun) (slot : Nat) : Option (Nat × RangeRec × TolRec) :=
  findIdx? (fun x => rangeHas x.1 slot) r.ranges

/-- A batch of a MODE 1 range, once every slot of it is resolved: the slots not decided before. -/
def State.batch (s : State) (k : Nat) (rg : RangeRec) : State :=
  let slots := ((List.range rg.count.toNat).map (· + rg.first.toNat)).filter (fun x => !nbit (s.slotInfo x) 3)
  (s.batchChunks rg.fmt.toNat [] 0 0 slots).foldl (fun t c =>
    let first := c.1.headD 0
    match t.arbEnqueue ⟨k, .chunk first (c.1.getLastD 0 + 1 - first), arbCost (2 * c.2.1) c.2.2, none⟩ with
    | some u => u
    | none => t.arbFull k c.1) s

/-- A slot of a run is resolved. -/
def State.slotResolved (s : State) (k slot : Nat) : State :=
  match s.bvRun k with
  | none => s
  | some r =>
    match runRange r slot with
    | none => s
    | some (i, rg, tol) =>
      let n := r.left.getD i 0 - 1
      let t := (s.setSlotState slot 3).setBvRun k (some { r with left := r.left.set i n })
      if n = 0 ∧ tol.mode = 1 then t.batch k rg else t

/-- The pair of a slot decides (R191). -/
def State.pairDecide (s : State) (k slot : Nat) (tol : TolRec) (rg : RangeRec) (m : SigRx) (bad : Bool) : State :=
  let i := s.slotInfo slot
  if nbit i 2 then s.pairOut k slot pfUe -- its stored value or its state has been lost (R196)
  else if bad || nbit i 1 then s.pairOut k slot pfGeom
  else if tol.mode = 1 then s
  else
    let (a, s) := s.slotRead slot 0
    let (b, s) := s.slotRead slot 1
    match a, b with
    | some x, some y =>
      if !m.invalid && !nbit i 0 && decide (x = m.sigA) then s.count (bvPage + 0x064)
      else if !m.invalid && !nbit i 0 && decide (y = m.sigB) then s.count (bvPage + 0x068)
      else
        let bytes := s.slotBytes rg.fmt.toNat slot
        match s.arbEnqueue ⟨k, .pair slot, arbCost (2 * bytes) (s.slotElems slot), none⟩ with
        | some t => t
        | none => s.arbFull k [slot]
    | _, _ => s.pairOut k slot pfUe

/-- A slot of an open run is unresolved again. -/
def State.slotUndone (s : State) (slot : Nat) : State :=
  s.bv.runs.foldl (fun t e => match e.2.bind (fun r => (runRange r slot).map (fun x => (r, x.1))) with
    | some (r, i) => if r.clearing then t else t.setBvRun e.1 (some { r with left := r.left.set i (r.left.getD i 0 + 1) })
    | none => t) s

/-- A state word that cannot be read (R196): its slots stand EMPTY, resolved ones too, and their pairs fail when they resolve. -/
def State.stateLost (s : State) (slot : Nat) : State :=
  let t := (List.range 16).foldl (fun t i =>
    let x := slot / 16 * 16 + i
    let u := if t.slotState x = 3 then t.slotUndone x else t
    (u.setSlotState x 0).setSlotInfo x (u.slotInfo x ||| 4)) s
  t.setBv { t.bv with syn := Tab.set 0 t.bv.syn (2097152 + slot / 16) 0 }

/-- A stored word that a scrub pass finds uncorrectable: the pair that holds it fails when it resolves (R196). -/
def State.wordLost (s : State) (slot : Nat) : State :=
  if s.slotState slot = 1 ∨ s.slotState slot = 2 then s.setSlotInfo slot (s.slotInfo slot ||| 4) else s

/-- A message acts on its slot (R190, step 5). -/
def State.slotAct (s : State) (k : Nat) (r : BvRun) (rg : RangeRec) (tol : TolRec) (m : SigRx) : State :=
  let bad := decide (m.fmt ≠ rg.fmt.toNat) || decide (m.final ≠ rg.final)
    || decide (uDie m.unit ≠ (if m.copy = 0 then r.dieA else r.dieB))
  let (ok, s) := s.stateRead m.slot
  let s := if ok then s else s.stateLost m.slot
  let st := s.slotState m.slot
  if st = 3 then s.pairFail k m.slot pfExtra 0
  else if st = 0 then
    let lost := s.slotInfo m.slot &&& 4
    ((((s.setSlotWord m.slot 0 m.sigA).setSlotWord m.slot 1 m.sigB).setSlotState m.slot (1 + m.copy)).setSlotInfo m.slot
      (b2n m.invalid + 2 * b2n bad + lost + 256 * m.rows + 65536 * m.cols))
  else if st = 1 + m.copy then ((s.pairOut k m.slot pfDup).slotResolved k m.slot).bvResolve k
  else ((s.pairDecide k m.slot tol rg m bad).slotResolved k m.slot).bvResolve k

/-- The run records of the range records in force that hold a slot, with their plans (R174). -/
def State.rangesOf (s : State) (slot : Nat) : List (Nat × Nat) :=
  let now := match s.bel.decl with | some d => d.ranges.map (fun g => (s.bv.gen, g)) | none => []
  ((now ++ s.bv.prev).filter (fun g => rangeHas g.2 slot)).map (fun g => (bvKey g.2.entry.toNat g.2.proof, g.1))

/-- A record that is open under a plan. -/
def State.bvUnder (s : State) (k : Nat × Nat) : Option BvRun := (s.bvRun k.1).filter (fun r => decide (r.gen = k.2))

/-- Whether a message waits for clearing (R189). -/
def State.sigWaits (s : State) (bs : List Byte) : Bool :=
  (s.rangesOf (sigRx bs).slot).any (fun k => match s.bvUnder k with | some r => r.clearing | none => false)

/-- The tests of R190 on a signature message. -/
def State.sigStep (s : State) (bs : List Byte) : State :=
  let m := sigRx bs
  let ks := s.rangesOf m.slot
  if ks.isEmpty then s.setErr bvPage bvUnplanned
  else match ks.find? (fun k => match s.bvUnder k with | some r => decide (r.seq = m.seq) | none => false) with
    | none => s.count (bvPage + 0x07C)
    | some (k, _) =>
      match s.bvRun k with
      | none => s
      | some r =>
        if !r.two then s.count (bvPage + 0x080)
        else
          match runRange r m.slot with
          | none => s.setErr bvPage bvUnplanned
          | some (_, rg, tol) =>
            let t := s.count (bvPage + 0x060)
            let (st, t) := t.writeB ghSrc (t.originA (uDie m.unit) + 32 * m.slot) (originBytes m)
            let t := t.setErrIf (decide (st ≠ 0)) bvPage bvOriginWr
            t.slotAct k r rg tol m

def State.lane (s : State) (l : Nat) : List (List Byte) := Tab.get [] s.bv.lanes l
/-- The comparator lane of a slot (R197). -/
def laneOf (bs : List Byte) : Nat := (sigRx bs).slot % 8

/-- A lane's messages, one at a time, up to one that waits for clearing. -/
def State.laneRun (s : State) (l : Nat) : Nat → State
  | 0 => s
  | f + 1 =>
    match s.lane l with
    | [] => s
    | bs :: q =>
      if s.sigWaits bs then s
      else State.laneRun ((s.setBv { s.bv with lanes := Tab.set [] s.bv.lanes l q }).sigStep bs) l f
def State.lanesRun (s : State) : State := (List.range 8).foldl (fun t l => t.laneRun l 64) s

/-- A message enters the queue of its lane, which has room for it. -/
def State.laneIn (s : State) (bs : List Byte) : State :=
  let l := laneOf bs
  (s.setBv { s.bv with lanes := Tab.set [] s.bv.lanes l (s.lane l ++ [bs]) }).laneRun l 64

/-! ### Commands -/

/-- Meaning of RUN_OPEN (R189). -/
def runOpen (m : PMsg) (n : Nat) (proof : Bool) (seq : W32) (two : Bool) (dieA dieB : Nat) (deadline : Tick) (s : State) : State :=
  let (p, t) := s.recv 2 (decide (m.type = 0x10)) m
  match p, t.bel.decl with
  | some bs, some d =>
    if bs ≠ runOpenBytes n proof seq two dieA dieB deadline then t
    else
      let k := bvKey n proof
      let rs := d.ranges.filter (fun g => decide (g.entry.toNat = n) && decide (g.proof = proof))
      let r : BvRun :=
        { seq := seq, two := two, dieA := dieA, dieB := dieB, deadline := deadline, gen := t.bv.gen, svc := (t.entry d.bank n).svc,
          ranges := rs.map (fun g => (g, d.tols.getD g.tol.toNat ⟨0, 0, 0, []⟩)), clearing := true,
          left := rs.map (fun g => g.count.toNat), failed := false }
      let t := t.bvDrop k -- a record that still stands open for the entry gives way to the new run
      let inRs := fun x => rs.any (fun g => rangeHas g x)
      t.setBv { t.bv with
        runs := Tab.set none t.bv.runs k (some r), states := Tab.keep t.bv.states (fun x => !inRs x),
        info := Tab.keep t.bv.info (fun x => !inRs x),
        syn := Tab.keep t.bv.syn (fun x => decide (x < 2097152) || !rs.any (fun g =>
          decide (g.first.toNat / 16 ≤ x % 2097152) && decide (16 * (x % 2097152) < g.first.toNat + g.count.toNat))) }
  | _, _ => t
def execRunOpen (m : PMsg) (n : Nat) (proof : Bool) (seq : W32) (two : Bool) (dieA dieB : Nat) (deadline : Tick) (s : State) : Out :=
  onUnit (decide (n < 256)) (runOpen m n proof seq two dieA dieB deadline s)

/-- The open record of an entry of a kind, where it meets a condition. -/
def State.bvFind (s : State) (n : Nat) (proof : Bool) (p : BvRun → Bool) : Option BvRun := (s.bvRun (bvKey n proof)).filter p

/-- Meaning of SLOT_CLEAR_COMPLETE (R189): messages that waited proceed. -/
def slotClear (n : Nat) (proof : Bool) (s : State) : State :=
  match s.bvFind n proof (fun r => r.clearing) with
  | none => s
  | some r => ((s.setBvRun (bvKey n proof) (some { r with clearing := false })).lanesRun).bvResolve (bvKey n proof)
def execSlotClearComplete (n : Nat) (proof : Bool) (s : State) : Out := onUnit (decide (n < 256)) (slotClear n proof s)

/-- Meaning of SIGNATURE (R133, R190, R197): a message at the Gatehouse link of a compute die. The link holds one whose lane has no room,
which is then not received. -/
def signature (link : Nat) (dom : Domain) (m : PMsg) (s : State) : State :=
  if !safetyDom dom ∨ 64 ≤ (s.lane (laneOf m.payload)).length then s
  else
    let (p, t) := s.recv link (decide (m.type = 0x01)) m
    match p with
    | some bs => if bs.length = 32 then t.laneIn bs else t
    | none => t
def execSignature (link : Nat) (dom : Domain) (m : PMsg) (s : State) : Out := onUnit (decide (link < 2)) (signature link dom m s)

/-- Meaning of ARBITRATION_START (R192). -/
def arbStart (s : State) : State :=
  match s.bv.queue with
  | a :: r => if a.start.isSome then s else (s.setBv { s.bv with queue := { a with start := some s.frc } :: r }).count (bvPage + 0x06C)
  | [] => s
def execArbitrationStart (s : State) : Out := .next (arbStart s)

/-- The slots of an arbitration. -/
def State.arbSlots (s : State) (a : ArbKind) : List Nat :=
  match a with
  | .pair x => [x]
  | .chunk f n => ((List.range n).map (· + f)).filter (fun x => !nbit (s.slotInfo x) 3)
  | .golden .. => []

/-- Meaning of ARBITRATION_END (R192, R194): the arbitration that runs decides once its cost has passed. -/
def arbEnd (fetchOk : Bool) (s : State) : State :=
  match s.bv.queue with
  | [] => s
  | a :: q =>
    match a.start with
    | none => s
    | some t0 =>
      if s.frc < t0 + (a.cost + 207) / 208 then s
      else
        let t := s.setBv { s.bv with queue := q }
        match a.kind with
        | .golden svc copyB base desc expect tol =>
          let (ok, t) := t.judgeGolden fetchOk base desc expect tol
          let t := if ok then t else t.count (bvPage + 0x070)
          (t.goldCmp svc copyB ok).goldRetry
        | kind =>
          let slots := t.arbSlots kind
          match t.bvRun a.key with
          | none => t.goldRetry
          | some r =>
            match runRange r (slots.headD 0) with
            | none => t.goldRetry
            | some (_, rg, tol) =>
              let (res, t) := t.judgeSlots r rg tol fetchOk slots
              let t := match res with
                | some (slot, reason, elem) => (t.count (bvPage + 0x070)).pairFail a.key slot reason elem
                | none => t
              (t.bvResolve a.key).goldRetry
def execArbitrationEnd (fetchOk : Bool) (s : State) : Out := .next (arbEnd fetchOk s)

/-- Meaning of BELVEDERE_DEADLINE (R195). A one-copy run's record closes without an outcome (R190). -/
def bvDeadline (n : Nat) (proof : Bool) (s : State) : State :=
  let k := bvKey n proof
  match s.bvFind n proof (fun r => decide (r.deadline ≤ s.frc)) with
  | none => s
  | some r =>
    if !r.two then (s.bvDrop k).lanesRun
    else
      let mine := s.bv.queue.filter (fun a => decide (a.key = k) && !a.kind.isGolden)
      let t := mine.foldl (fun t a => (t.arbSlots a.kind).foldl (fun t x => t.pairFail k x pfDeadline 0) t) s
      let left := r.left.foldl (· + ·) 0
      let t := t.countN (bvPage + 0x078) left
      let failed := match t.bvRun k with | some x => x.failed | none => false
      ((t.bvClose k r (if failed then chkFail else if left ≠ 0 then chkMissing else chkPass)).goldRetry).lanesRun
def execBelvedereDeadline (n : Nat) (proof : Bool) (s : State) : Out := onUnit (decide (n < 256)) (bvDeadline n proof s)

/-- Meaning of SLOT_SCRUB_PASS_START (R196). -/
def scrubStart (s : State) : State :=
  if s.bv.scrub.isSome ∨ s.frc < s.bv.scrubNext then s
  else s.setBv { s.bv with scrub := some s.frc, scrubNext := s.frc + 500000000 * s.regF (bvPage + 0x054) 0 12 }
def execSlotScrubPassStart (s : State) : Out := .next (scrubStart s)

/-- Ticks of a pass: 2,162,688 words at one per 128 cycles of 260 MHz. -/
def scrubTicks : Nat := 532353970

/-- Meaning of SLOT_SCRUB_PASS_END (R196): every word has been read and corrected. -/
def scrubEnd (s : State) : State :=
  match s.bv.scrub with
  | none => s
  | some t0 =>
    if s.frc < t0 + scrubTicks then s
    else
      let t := s.bv.syn.foldl (fun t e =>
        if e.1 < 2097152 then
          let (w, u) := t.slotRead (e.1 / 2) (e.1 % 2)
          if w.isSome then u else u.wordLost (e.1 / 2)
        else
          let (ok, u) := t.stateRead (16 * (e.1 % 2097152))
          if ok then u else u.stateLost (16 * (e.1 % 2097152))) s
      t.setBv { t.bv with scrub := none }
def execSlotScrubPassEnd (s : State) : Out := .next (scrubEnd s)

/-- Meaning of BV_FAIL_CLR (R201). -/
def bvFailClr (w : Writer) (v : W32) (s : State) : State :=
  if decide (w = .pair) && bit v 0 then (s.setReg (bvPage + 0x084) 0).setReg (bvPage + 0x088) 0 else s
def execBvFailClr (w : Writer) (v : W32) (s : State) : Out := .next (bvFailClr w v s)

/-- Meaning of DEADLINE (R212): a golden run's proof run record takes its new deadline. -/
def deadline (m : PMsg) (n : Nat) (d : Tick) (s : State) : State :=
  let (p, t) := s.recv 2 (decide (m.type = 0x12)) m
  match p with
  | some bs =>
    if bs ≠ deadlineBytes n d then t
    else match t.bvFind n true (fun _ => true) with
      | some r => t.setBvRun (bvKey n true) (some { r with deadline := d })
      | none => t
  | none => t
def execDeadline (m : PMsg) (n : Nat) (d : Tick) (s : State) : Out := onUnit (decide (n < 256)) (deadline m n d s)

end Sys2Proof.Machine
end

