-- ==== Sys2Proof/Machine/SelfTest.lean ====
section
/-! DEFINITION. The injections of a checker's test, the reports expected, and the checkers' own judging of them (R214, R215). -/

namespace Sys2Proof.Machine

/-- Checker kinds of R214's table. -/
inductive TestKind where
  | ecc32
  | ecc64
  | crc
  | lane
  | element
  | watchdog
  | sequence
  | collector
  deriving DecidableEq, Repr

/-- The kinds that a checker of the inventory covers (R215): a fabric checker judges headers and payload words, a CSI-2 receiver header ECC
and payload CRC. -/
def chkKinds (n : Nat) : List TestKind :=
  match chkRow n with
  | 1 => [.crc]
  | 4 => [.crc, .ecc32]
  | 5 => [.watchdog]
  | 6 => [.crc, .ecc32]
  | 7 => [.ecc64]
  | 8 => [.crc]
  | 9 => [.crc, .crc]
  | 10 => [.crc]
  | 11 => [.crc]
  | 12 => if chkSub n = 0 then [.ecc32] else [.crc, .ecc32]
  | 13 => if chkSub n = 0 then [.ecc64] else [.ecc32]
  | 14 => [.lane]
  | 15 => [.element]
  | 16 => if chkSub n = 1 then [.sequence] else [.watchdog]
  | 17 => [.collector]
  | _ => [.ecc32]

/-- The reports expected of a kind, in the order of its injections (R214). -/
def testExpected (k : TestKind) : List TestReport :=
  match k with
  | .ecc32 => [.corrected, .uncorrectable, .addressError, .poison]
  | .ecc64 => [.corrected, .uncorrectable, .addressError, .poison]
  | .crc => [.mismatch, .same]
  | .lane => [.passA, .passB, .arbitration]
  | .element => [.pairPass, .pairFail]
  | .watchdog => [.rejected, .early, .timeout]
  | .sequence => [.bothFail]
  | .collector => [.latched, .escalated]

/-- What a decoder reports of a syndrome (R124). -/
def eccReport (e : Ecc) : TestReport :=
  match e with
  | .clean => .clean
  | .fixData _ => .corrected
  | .fixCheck => .corrected
  | .addr => .addressError
  | .poison => .poison
  | .ue => .uncorrectable

/-- What a CRC checker reports of a stored value. -/
def crcReport (stored made : W32) : TestReport := if stored = made then .same else .mismatch

/-- What a comparator lane reports of a pair: stored signatures and those of the message (R191). -/
def laneReport (a b : W32 × W32) : TestReport :=
  if a.1 = b.1 then .passA else if a.2 = b.2 then .passB else .arbitration

/-- What the element comparator reports of a pair of FP32 codes under an absolute tolerance (R193). -/
def elementReport (tol a b : W32) : TestReport := if pairPasses (fdec tol, fdec 0) (fdec a) (fdec b) then .pairPass else .pairFail

/-- What a watchdog reports of a first key at a count (R274). -/
def watchdogReport (key count opens closes : Nat) : TestReport :=
  if closes ≤ count then .timeout else if key ≠ 0x6D2B then .rejected else if count < opens then .early else .accepted

/-- What the sequence monitor reports of two tasks' check-ins in a window, one being due of each (R280). -/
def sequenceReport (a b : Nat) : TestReport := if a ≠ 1 ∧ b ≠ 1 then .bothFail else .notBoth

/-- What the collector's test shadow reports of an event on a group at a level, 7 for clear (R228). -/
def collectorReport (g before : Nat) : TestReport :=
  if before = 7 then .latched else if before < (fcLevels before [g]).1 then .escalated else .stays

/-- The reports that a kind's own logic gives for its injections (R214). The test pair of the element comparator differs by 1.0 under a
tolerance of 2.0; inverted, the tolerance field is -1.9999998. -/
def testJudged (k : TestKind) : List TestReport :=
  match k with
  | .ecc32 => ([1, 2, 3, 4] : List Nat).map (fun n => eccReport (ecc32 (inj32 n)))
  | .ecc64 => ([1, 2, 3, 4] : List Nat).map (fun n => eccReport (ecc64 (inj64 n)))
  | .crc => let c := crc32c []; [crcReport (~~~ c) c, crcReport c c]
  | .lane => let m : W32 × W32 := (0x0F0F0F0F#32, 0x33CC33CC#32); [laneReport m m, laneReport m (~~~ m.1, m.2), laneReport m (~~~ m.1, ~~~ m.2)]
  | .element => [elementReport 0x40000000#32 0x3F800000#32 0x40000000#32, elementReport (~~~ 0x40000000#32) 0x3F800000#32 0x40000000#32]
  | .watchdog => [watchdogReport 0x92D4 8 4 16, watchdogReport 0x6D2B 3 4 16, watchdogReport 0x6D2B 16 4 16]
  | .sequence => [sequenceReport 2 0]
  | .collector => [collectorReport 0 7, collectorReport 0 (grpLevel 0)]

/-- The number within its kind's row, from 1, of the first injection whose report is not the one expected, where the checker's logic errs at
most as a defect says: an injection, counted from 1 over all kinds, and the report it gave. 0 where every report is as expected. -/
def testFirst (n : Nat) (defect : Option (Nat × TestReport)) : Nat :=
  let got := ((chkKinds n).flatMap testJudged).zipIdx.map (fun e =>
    match defect with | some (i, r) => if i = e.2 + 1 then r else e.1 | none => e.1)
  let want := (chkKinds n).flatMap (fun k => (testExpected k).zipIdx)
  match (got.zip want).find? (fun e => decide (e.1 ≠ e.2.1)) with
  | some e => e.2.2 + 1
  | none => 0

/-- The number in its row of the injection that a defect names, the first where it names none. -/
def testNumber (n : Nat) (defect : Option (Nat × TestReport)) : Nat :=
  let ids := (chkKinds n).flatMap (fun k => (testExpected k).zipIdx.map (fun e => e.2 + 1))
  match defect with | some (i, _) => ids.getD (i - 1) 1 | none => 1

end Sys2Proof.Machine
end

