-- ==== Sys2Proof/Machine/Eth.lean ====
section
/-! DEFINITION. Ethernet transmission (R318, R319, R346, R348, R363) and the 10BASE-T1S safety segment (R350 to R356, R364). -/

namespace Sys2Proof.Machine

def ethPage (k : Nat) : Nat := ioPage (0x059 + k)
def State.setRx (s : State) (x : RxSt) : State := { s with rx := x }
def State.mac (s : State) (k : Nat) : MacSt := Tab.get MacSt.init s.rx.macs k
def State.setMac (s : State) (k : Nat) (m : MacSt) : State := s.setRx { s.rx with macs := Tab.set MacSt.init s.rx.macs k m }
def State.ethUp (s : State) (k : Nat) : Bool := bit (s.reg (ethPage k + 0x044)) 0

/-- A big-endian number. -/
def beAt (bs : List Byte) (off n : Nat) : Nat := ofBytesBE ((bs.drop off).take n)
/-- Bytes replaced from an offset on. -/
def patch (bs : List Byte) (off : Nat) (new : List Byte) : List Byte := bs.take off ++ new ++ bs.drop (off + new.length)

/-- VLAN tags of a frame, up to two, and the offset of its EtherType. -/
def ethTags (bs : List Byte) : Nat :=
  let tag := fun o => decide (beAt bs o 2 = 0x8100) || decide (beAt bs o 2 = 0x88A8)
  if tag 12 then (if tag 16 then 2 else 1) else 0
def ethTypeAt (bs : List Byte) : Nat := 12 + 4 * ethTags bs

/-- Ticks that n bytes take at a speed code (R363): 10, 5, 2.5, 1 Gb/s. -/
def ethTicks (speed n : Nat) : Nat :=
  match speed with
  | 0 => (2 * n + 4) / 5
  | 1 => (4 * n + 4) / 5
  | 2 => (8 * n + 4) / 5
  | _ => 4 * n

/-- A signed latency in ns as ticks. -/
def latTicks (v : Nat) : Int := sfld v 16 / 2
/-- A frame's stamp: a tick corrected by the port's PHY latency (R318). -/
def State.egress (s : State) (k : Nat) (t : Tick) : Tick := ((t : Int) + latTicks (s.regF (ethPage k + 0x050) 16 16)).toNat
def State.ingress (s : State) (k : Nat) : Tick := ((s.frc : Int) - latTicks (s.regF (ethPage k + 0x050) 0 16)).toNat

/-- One-step insertion (R319): a Sync with at most one tag whose domain is that of an enabled slot takes T_d of its stamp. -/
def State.oneStep (s : State) (bs : List Byte) (f : Tick) : Option (List Byte) :=
  let o := ethTypeAt bs + 2
  if 2 ≤ ethTags bs then none
  else match ([0, 1] : List Nat).find? (fun d => s.domEn d && decide (s.regF (domPage d) 0 7 = beAt bs (o + 4) 1)) with
  | none => none
  | some d =>
    let p := s.domAt d f
    let cf := (beAt bs (o + 8) 8 + p % 65536) % 2 ^ 64
    let b := patch bs (o + 8) (bytesBE 8 cf)
    some (patch (patch b (o + 34) (bytesBE 6 (p / secUnits))) (o + 40) (bytesBE 4 (p % secUnits / 65536)))

/-- Whether a frame is a Sync message (R349). -/
def isSync (bs : List Byte) : Bool :=
  let o := ethTypeAt bs
  decide (beAt bs o 2 = 0x88F7) && decide (nfld (beAt bs (o + 2) 1) 0 4 = 0)

/-- A frame leaves a MAC at a tick. -/
def State.ethSend (s : State) (k : Nat) (bs : List Byte) (oneStep : Bool) (at_ : Tick) : State :=
  let f := s.egress k at_
  let t := s.setMac k { s.mac k with busy := at_ + ethTicks (s.regF (ethPage k + 0x044) 1 2) (bs.length + 12) }
  if oneStep && isSync bs then
    match s.oneStep bs f with
    | some b => t.emit (.eth k b f)
    | none => (t.count (ethPage k + 0x058)).emit (.eth k bs f)
  else t.emit (.eth k bs f)

/-- Whether a gated frame of a MAC is due within the 1,000 ticks that its fire code runs ahead (R322, R348). -/
def State.gateAhead (s : State) (k : Nat) : Bool :=
  s.bs.trig.any (fun e => let x := e.2
    x.armed && decide (x.action = 3) && decide (fld x.arg 0 3 = k)
    && (if x.presented then decide (x.target ≤ s.pt + 2000 * 65536) else decide (x.target ≤ s.frc + 1000)))

def gatedKey (port q : Nat) : Nat := 8 * port + q

/-- Meaning of ETH_FRAME_TRANSMIT (R346, R348): a frame of an ungated queue leaves; one of a GATED queue waits for its trigger. -/
def ethTransmit (k q : Nat) (bs : List Byte) (oneStep : Bool) (s : State) : State :=
  if !s.ethUp k ∨ bs.length + 4 < 64 ∨ (s.mac k).maxLen < bs.length + 4 then s
  else if bit (s.reg (ethPage k + 0x04C)) q then
    s.setRx { s.rx with gated := Tab.set [] s.rx.gated (gatedKey k q) (Tab.get [] s.rx.gated (gatedKey k q) ++ [(bs, oneStep)]) }
  else if s.frc < (s.mac k).busy ∨ s.gateAhead k = true then s
  else s.ethSend k bs oneStep s.frc
def execEthFrameTransmit (k q : Nat) (bs : List Byte) (oneStep : Bool) (s : State) : Out :=
  onUnit (decide (k < 4) && decide (q < 8)) (ethTransmit k q bs oneStep s)

/-- The frames of a queue that is GATED no longer leave, one after another (R346). -/
def State.ethRelease (s : State) (k q : Nat) : State :=
  (Tab.get [] s.rx.gated (gatedKey k q)).foldl (fun t f => t.ethSend k f.1 f.2 (max t.frc (t.mac k).busy))
    (s.setRx { s.rx with gated := Tab.set [] s.rx.gated (gatedKey k q) [] })
/-- ETH_QCFG written (R346, R363): queues in strict priority, the highest number first. -/
def ethQcfgWrite (k : Nat) (v : W32) (s : State) : State :=
  ([7, 6, 5, 4, 3, 2, 1, 0] : List Nat).foldl (fun t q => if !bit v q && s.ethUp k then t.ethRelease k q else t)
    (s.setReg (ethPage k + 0x04C) (v &&& 0xFF#32))

/-- The head of a gated queue leaves at its trigger (R322, R348): whether there was one. -/
def State.gatedSend (s : State) (port q : Nat) : Bool × State :=
  match Tab.get [] s.rx.gated (gatedKey port q) with
  | [] => (false, s)
  | (bs, oneStep) :: r =>
    if !s.ethUp port then (true, s)
    else
      let late := decide (s.frc < (s.mac port).busy)
      let t := s.setRx { s.rx with gated := Tab.set [] s.rx.gated (gatedKey port q) r }
      let t := if late then t.count (ethPage port + 0x05C) else t
      (true, t.ethSend port bs oneStep (max s.frc (s.mac port).busy))

/-! ### The safety segment -/

def t1sPeer (n : Nat) : Nat := t1sPage + 0x100 + 0x10 * n
def State.setT1s (s : State) (x : T1sSt) : State := { s with t1s := x }
def State.peerEn (s : State) (n : Nat) : Bool := decide (1 ≤ n) && decide (n ≤ 7) && bit (s.reg (t1sPeer n + 8)) 0
def State.peerMac (s : State) (n : Nat) : Nat := (s.reg (t1sPeer n)).toNat + 2 ^ 32 * s.regF (t1sPeer n + 4) 0 16
def peerId (n : Nat) : BitVec 16 := BitVec.ofNat 16 (0xFE00 + n)

/-- The next verdict instant, and the quiet window before it (R353). -/
def State.nextVerdict (s : State) : Option Tick :=
  s.cyc.next.map (fun b => b + (s.cyc.verdictCycles - 1 - s.cyc.since) * (500 * s.cyc.us))
def State.quietTicks (s : State) : Tick := min (500 * s.regF (t1sPage + 0x040) 16 13) (s.cyc.verdictCycles * (500 * s.cyc.us) / 2)
def State.quiet (s : State) : Bool :=
  match s.nextVerdict with
  | some v => decide (v ≤ s.frc + s.quietTicks) && decide (s.frc < v)
  | none => false
def State.coordinator (s : State) : Bool := s.cyc.recLoad.isSome && s.t1s.foreign.isNone

/-- A frame on the segment (R352): addresses, EtherType, the message padded to 46 bytes. -/
def State.t1sFrame (s : State) (dst : Nat) (m : PMsg) : List Byte :=
  let body := msgBody m ++ bytesLE 4 m.crc.toNat
  bytesLE 6 dst ++ bytesLE 4 (s.reg (t1sPage + 0x044)).toNat ++ bytesLE 2 (s.regF (t1sPage + 0x048) 0 16)
    ++ bytesBE 2 (s.regF (t1sPage + 0x054) 0 16) ++ body ++ List.replicate (46 - body.length) 0

/-- A message sent on the segment at a tick: 0.8 µs for each byte of preamble, frame and FCS. -/
def State.t1sSend (s : State) (id : BitVec 16) (mac type : Nat) (payload : List Byte) (at_ : Tick) : State :=
  let t := s.sendMsg idGatehouse id type payload
  match t.out.getLast? with
  | some (.msg _ m) =>
    let f := s.t1sFrame mac m
    (t.setT1s { t.t1s with busy := at_ + 400 * (8 + f.length + 4) }).emit (.eth 4 f at_)
  | _ => t

/-- Meaning of T1S_FRAME_RECEIVE (R351). -/
def t1sReceive (mac : Nat) (etype : Nat) (fcsOk : Bool) (m : PMsg) (s : State) : State :=
  if !fcsOk then s
  else match ([1, 2, 3, 4, 5, 6, 7] : List Nat).find? (fun n => s.peerEn n && decide (s.peerMac n = mac)) with
    | none => s.count (t1sPage + 0x05C)
    | some n =>
      if etype ≠ s.regF (t1sPage + 0x054) 0 16 then s.count (t1sPage + 0x060)
      else if m.type = 0x31 ∧ m.src = peerId n then s.setT1s { s.t1s with inbox := s.t1s.inbox ++ [m] }
      else (s.recv 3 (decide (m.src = peerId n)) m).2
def execT1sFrameReceive (mac : BitVec 48) (etype : BitVec 16) (fcsOk : Bool) (m : PMsg) (s : State) : Out :=
  .next (t1sReceive mac.toNat etype.toNat fcsOk m s)

/-- Meaning of HEARTBEAT (R355): the heartbeat that a frame brought is judged, and its STATE recorded. -/
def heartbeat (m : PMsg) (n : Nat) (s : State) : State :=
  if !(s.t1s.inbox.contains m && decide (m.src = peerId n)) then s
  else
    let (p, t) := (s.setT1s { s.t1s with inbox := s.t1s.inbox.erase m }).recv 3 true m
    match p with
    | some bs => (t.setRegF (t1sPeer n + 12) 0 2 (ofBytesLE (bs.take 4) % 4)).setRegF (t1sPeer n + 12) 2 1 0
    | none => t
def execHeartbeat (m : PMsg) (n : Nat) (s : State) : Out := onUnit (decide (1 ≤ n) && decide (n ≤ 7)) (heartbeat m n s)

/-- The timeout of a stream at a receiver (R301): heartbeats, and a die's concentrator. -/
def State.streamLimit (s : State) (rx : Nat) (src : BitVec 16) : Option Tick :=
  if rx = 3 then some (500000 * s.regF (t1sPeer (src.toNat % 0x200) + 8) 16 14)
  else if rx < 3 ∧ src = idConc rx then some 100000 else none

/-- Meaning of STREAM_TIMEOUT (R301, R356). -/
def streamTimeoutAt (rx : Nat) (src : BitVec 16) (s : State) : State :=
  match s.streamLimit rx src with
  | none => s
  | some lim =>
    let (hit, t) := s.streamTimeout rx src lim
    if !hit ∨ rx ≠ 3 then t
    else
      let n := src.toNat % 0x200
      (t.setRegF (t1sPeer n + 12) 2 1 1).setErrIf (bit (t.reg (t1sPeer n + 8)) 1) t1sPage 0
def execStreamTimeout (rx : Nat) (src : BitVec 16) (s : State) : Out :=
  onUnit (decide (rx < 5) && (decide (rx ≠ 3) || (decide (0xFE01 ≤ src.toNat) && decide (src.toNat ≤ 0xFE07)))) (streamTimeoutAt rx src s)

/-- The Gatehouse's heartbeat STATE (R355): its highest verdict over the four outputs. -/
def State.hbState (s : State) : Nat :=
  ([0, 1, 2, 3] : List Nat).foldl (fun a n =>
    max a (match s.regF (outStatA n) 0 2 with | 1 => 0 | 2 => 1 | _ => 3)) 0

/-- When the next heartbeat to a peer falls due. -/
def State.hbDue (s : State) (n : Nat) : Option Tick :=
  s.cyc.recLoad.map (fun t0 => max (Tab.get 0 s.t1s.hbNext n) (t0 + 500000 * s.regF (t1sPeer n + 8) 4 10))

/-- Meaning of HEARTBEAT_DUE (R353, R355): sent outside the quiet window, at each multiple of HB_PERIOD after the record load. -/
def heartbeatDue (n : Nat) (s : State) : State :=
  let p := 500000 * s.regF (t1sPeer n + 8) 4 10
  match s.hbDue n, s.cyc.recLoad with
  | some d, some t0 =>
    if !s.peerEn n ∨ s.frc < d ∨ s.quiet = true ∨ s.frc < s.t1s.busy then s
    else
      let x := s.stream 3 (peerId n)
      let seq := if x.seen then (x.expect - 1).toNat else 0
      let payload := bytesLE 4 (s.hbState + 65536 * seq) ++ bytesLE 4 (s.frc / 500000) ++ bytesLE 8 0
      let t := s.t1sSend (peerId n) (s.peerMac n) 0x31 payload s.frc
      t.setT1s { t.t1s with hbNext := Tab.set 0 t.t1s.hbNext n (t0 + ((s.frc - t0) / p + 1) * p) }
  | _, _ => s
def execHeartbeatDue (n : Nat) (s : State) : Out := onUnit (decide (1 ≤ n) && decide (n ≤ 7)) (heartbeatDue n s)

/-- Meaning of VERDICT_BEACON (R353): the beacon that ends at the verdict instant, unless another coordinator is heard. -/
def verdictBeacon (s : State) : State :=
  match s.nextVerdict with
  | some v =>
    if v ≤ s.frc + 1000 ∧ s.frc < v ∧ s.coordinator = true ∧ s.t1s.beacon ≠ some v then
      (s.setT1s { s.t1s with beacon := some v }).emit .beacon
    else s
  | none => s
def execVerdictBeacon (s : State) : Out := .next (verdictBeacon s)

/-- Meaning of FOREIGN_BEACON (R354). -/
def foreignBeacon (s : State) : State := (s.setT1s { s.t1s with foreign := some s.frc }).setErr t1sPage 1
def execForeignBeacon (s : State) : Out := .next (foreignBeacon s)

/-- Meaning of COORDINATOR_RESUME (R354). -/
def coordinatorResume (s : State) : State :=
  match s.t1s.foreign with
  | some t0 => if t0 + 50000000 ≤ s.frc then s.setT1s { s.t1s with foreign := none } else s
  | none => s
def execCoordinatorResume (s : State) : Out := .next (coordinatorResume s)

end Sys2Proof.Machine
end

