-- ==== Sys2Proof/Machine/Sensors.lean ====
section
/-! DEFINITION. Sensor sources (R203 to R207, R335, R336), CSI-2 ports (R342 to R345, R362) and the receive half of the Ethernet MACs
(R346, R347, R363). -/

namespace Sys2Proof.Machine

def snsPage : Nat := ioPage 0x050
def rxPage : Nat := ioPage 0x020
def csiPage (k : Nat) : Nat := ioPage (0x051 + k)
def rxStat (n : Nat) : Nat := rxPage + 0x108 + 16 * n

def State.rxs (s : State) (n : Nat) : FrameSt := Tab.get FrameSt.init s.rx.src n
def State.setRxs (s : State) (n : Nat) (x : FrameSt) : State := s.setRx { s.rx with src := Tab.set FrameSt.init s.rx.src n x }

/-! ### The configuration in force (R361) -/

def FrameSt.w (x : FrameSt) (i : Nat) : W32 := x.conf.getD i 0
def FrameSt.en (x : FrameSt) : Bool := bit (x.w 0) 0
def FrameSt.port (x : FrameSt) : Nat := fld (x.w 0) 1 3
def FrameSt.bufBytes (x : FrameSt) : Nat := 4096 * fld (x.w 3) 0 16
def FrameSt.stride (x : FrameSt) : Nat := 64 * fld (x.w 3) 16 16
def FrameSt.bufAt (x : FrameSt) (b : Nat) : Nat :=
  fld (x.w 1) 12 20 * 4096 + 2 ^ 32 * fld (x.w 2) 0 16 + b * x.bufBytes
/-- SNS_SRCs registers as software has set them. -/
def State.srcRegs (s : State) (n : Nat) : List W32 := (List.range 7).map (fun i => s.reg (snsPage + 0x100 + 32 * n + 4 * i))

/-- Sources on a CSI-2 port, or on a MAC. -/
def State.portSrcs (s : State) (stream : Bool) (k : Nat) : List Nat :=
  (if stream then List.range' 16 16 else List.range 16).filter (fun n => (s.rxs n).en && decide ((s.rxs n).port = k))

/-- Whether a declared service names a source in its mask (R173). -/
def State.masked (s : State) (n : Nat) : Bool :=
  match s.bel.decl with
  | some d => d.services.any (fun x => bit x.sensorMask n)
  | none => false

/-- A port start: the registers take effect, the frame in progress is abandoned, RESYNC is set (R345). -/
def State.srcStart (s : State) (n : Nat) : State :=
  let x := s.rxs n
  let c := s.srcRegs n
  let t := s.setRxs n { FrameSt.init with conf := c, order := List.range (fld (c.getD 0 0) 20 4), judged := x.judged, arrived := x.arrived }
  t.setReg (rxStat n) (setBit (t.reg (rxStat n)) 8 true)
/-- The sources that a port's start concerns: those bound to it, or to be. -/
def State.portStart (s : State) (stream : Bool) (k : Nat) : State :=
  ((if stream then List.range' 16 16 else List.range 16).filter (fun n =>
    decide (fld ((s.srcRegs n).getD 0 0) 1 3 = k) || ((s.rxs n).en && decide ((s.rxs n).port = k)))).foldl State.srcStart s

/-! ### Frames -/

/-- Whether a frame at an address is held by a run or an open gather (R336). -/
def State.frameHeld (s : State) (n a : Nat) : Bool :=
  let it := fun (v : Arrival) => decide (v.src = n) && decide (v.addr = a)
  s.plan.runs.any (fun r => r.arrivals.any it)
  || s.plan.gathers.any (fun g => match g.2 with | some g => g.got.any it | none => false)

/-- A frame starts: the oldest buffer not held, and the Folly's registers as they are (R221, R336). -/
def State.frameStart (s : State) (n : Nat) : State :=
  let x := s.rxs n
  let b := x.order.find? (fun b => !s.frameHeld n (x.bufAt b))
  let order := match b with | some b => x.order.erase b ++ [b] | none => x.order
  let t := if b.isNone then s.count (snsPage + 0x040) else s
  t.setRxs n { x with inFrame := true, nextBad := false, lineBad := x.nextBad, patterns := 0, patCrcBad := false, patBad := false, ctr := none, cfg := s.reg (rxPage + 0x100 + 16 * n), pat := s.reg (rxPage + 0x104 + 16 * n), order := order, buf := b, written := 0, line := 0 }

/-- The outcome of a frame (R207): counts, evidence of source 4, and its arrival. -/
def State.frameJudged (s : State) (n : Nat) (j : Judged) (synOk : Bool) : State :=
  let synth := bit j.cfg 1
  let r0 := if j.reason = 0 ∧ synth = true ∧ synOk = false then 6 else j.reason
  let masked := s.masked n
  let reason := if r0 ≠ 0 ∨ masked = false then r0 else if !synth then 6 else if !bit j.cfg 0 then 7 else 0
  let st := s.reg (rxStat n)
  let fails := if reason = 0 then 0 else satN 4 (fld st 4 4 + 1)
  let t := s.setReg (rxStat n) (setFld (setFld st 0 3 reason) 4 4 fails)
  let t := if reason = 0 then t else t.count (rxPage + 0x10C + 16 * n)
  let t := if masked then { t with evid := t.evid ++ [⟨if reason = 0 then t.frc else j.fin, .frame n fails⟩] } else t
  let t := if masked ∧ fails = 3 then t.emit (.portRestart n) else t
  match reason, j.buf with
  | 0, some (a, len) =>
    let x := t.rxs n
    (t.setRxs n { x with arrived := (x.arrived + 1) % 65536 }).arrive ⟨n, a, len, j.ctr, t.frc⟩
  | _, _ => t

/-- A frame has ended with the reason of its first failing check: it waits for its synthetic line, or is judged (R205, R207). -/
def State.frameOver (s : State) (n reason ctr : Nat) : State :=
  let x := s.rxs n
  let num := (x.ended + 1) % 65536
  let j : Judged := ⟨reason, x.buf.map (fun b => (x.bufAt b, x.written)), if n < 16 then ctr else num, x.cfg, num, s.frc⟩
  let t := s.setRxs n { x with ended := num, inFrame := false, done := false, judged := if bit x.cfg 1 then x.judged ++ [j] else x.judged }
  if bit x.cfg 1 then t else t.frameJudged n j true

/-- The checks of a camera frame at its frame-end packet (R203, R204). -/
def frameEnd (n : Nat) (s : State) : State :=
  let x := s.rxs n
  if !x.en || !x.inFrame then s
  else
    let st := s.reg (rxStat n)
    let exp := fld st 16 16
    let read := if x.patterns = 1 ∧ x.patCrcBad = false then x.ctr else none
    let ctrOk := match read with | some c => bit st 8 || decide (c = exp) | none => false
    let t := s.setReg (rxStat n) (match read with
      | some c => setFld (setBit st 8 false) 16 16 (c + 1)
      | none => setFld st 16 16 (exp + 1))
    let chk := bit x.cfg 0
    let reason := if x.lineBad then 1 else if !chk then 0 else if x.patterns ≠ 1 then 2 else if x.patCrcBad then 3
      else if x.patBad then 4 else if !ctrOk then 5 else 0
    let ca := csiPage x.port + 0x048
    ((t.setRegF ca 16 16 (t.regF ca 16 16 + 1)).frameOver n reason (x.ctr.getD 0))
/-- Meaning of FRAME_END. -/
def execFrameEnd (n : Nat) (s : State) : Out := onUnit (decide (n < 16)) (frameEnd n s)

/-- Meaning of CSI_FRAME_START (R336). -/
def csiFrameStart (n : Nat) (s : State) : State :=
  let x := s.rxs n
  if !x.en || !bit (Tab.get 0 s.rx.csi x.port) 0 then s
  else (s.setRegF (csiPage x.port + 0x048) 0 2 3).frameStart n
def execCsiFrameStart (n : Nat) (s : State) : Out := onUnit (decide (n < 16)) (csiFrameStart n s)

/-- Whether a synthetic line is in the path of a port. -/
def State.synInPath (s : State) (stream : Bool) (k : Nat) : Bool := (s.portSrcs stream k).any (fun n => !(s.rxs n).judged.isEmpty)

/-- A step of the Galois LFSR (R205): the bit shifted out, and the next state. -/
def lfsrStep (x : W32) : Bool × W32 := (x.getLsbD 0, (x >>> 1) ^^^ (if x.getLsbD 0 then 0x80200003#32 else 0))

/-- The next k bits of the LFSR, the first in bit 0, and the state after them. -/
def lfsrBits : Nat → W32 → Nat × W32
  | 0, x => (0, x)
  | k + 1, x =>
    let (b, y) := lfsrStep x
    let (r, z) := lfsrBits k y
    (b2n b + 2 * r, z)

/-- Bytes from the LFSR: the order of a byte's bits is open. -/
def lfsrBytes : Nat → W32 → List Byte
  | 0, _ => []
  | k + 1, x => let (b, y) := lfsrBits 8 x; Config.synOrder (BitVec.ofNat 8 b) :: lfsrBytes k y

/-- The payload of a synthetic line: source n, the frame's number, and a length (R205). -/
def synLine (n num len : Nat) : List Byte := lfsrBytes len (w32 (0x80000000 + n * 0x10000 + num))
/-- The CRC that a check-value unit forms over a synthetic line's bytes (R205). -/
def synCrc (n num : Nat) (bs : List Byte) : W32 := crc32cFold (num * 2 ^ 32 + n) bs
def synAddr (s : State) (n : Nat) : Nat :=
  (s.reg (rxPage + 0x040)).toNat + 2 ^ 32 * s.regF (rxPage + 0x044) 0 16 + 8192 * n

/-- A Folly check-value unit as a synthetic line leaves it (R286): CRC-32C in force, its running value, the bytes processed. -/
def State.synUnit (s : State) (u : Nat) (crc : W32) (len : Nat) : State :=
  let t := s.setRegF (cvuStatA u) 2 3 3
  ((t.setReg (cvuRunLo u) (~~~ crc)).setReg (cvuRunHi u) 0).setReg (cvuBytesA u) (w32 len)

/-- Meaning of SYNTHETIC_LINE_COMPLETE (R205, R206): the line leaves the receive path with some bytes spoiled or none, is written, and the
two CRC-32C values are compared. -/
def synComplete (n : Nat) (spoiled : List (Nat × Byte)) (writesOk : Bool) (s : State) : State :=
  let x := s.rxs n
  match x.judged with
  | [] => s
  | j :: r =>
    let pay := synLine n j.num (fld j.cfg 16 14)
    let got := pay.zipIdx.map (fun e => spoiled.foldl (fun b x => if x.1 = e.2 then b ^^^ x.2 else b) e.1)
    let (st, t) := s.writeB rxSrc (synAddr s n) got
    let ok := writesOk && decide (st = 0)
    let t := t.setErrIf (!ok) rxPage 0
    let t := (t.synUnit 4 (synCrc n j.num pay) pay.length).synUnit 5 (synCrc n j.num got) got.length
    let t := t.setRxs n { t.rxs n with judged := r }
    let t := if n < 16 ∧ t.synInPath false x.port = false then t.setRx { t.rx with lane := Tab.set 0 t.rx.lane x.port 0 } else t
    t.frameJudged n j (ok && decide (synCrc n j.num pay = synCrc n j.num got))
def execSyntheticLineComplete (n : Nat) (spoiled : List (Nat × Byte)) (writesOk : Bool) (s : State) : Out :=
  onUnit (decide (n < 32)) (synComplete n spoiled writesOk s)

/-! ### CSI-2 ports -/

/-- The frame of a source, or its next, fails LINE. -/
def State.badLine (s : State) (n : Nat) : State :=
  let x := s.rxs n
  s.setRxs n (if x.inFrame then { x with lineBad := true } else { x with nextBad := true })

/-- The pattern line of a frame (R344). -/
def patternOk (pat : W32) (bs : List Byte) : Bool :=
  decide (64 ≤ bs.length) && decide (bs.length ≤ 4096) && decide (bs.length % 4 = 0) && decide ((bs.drop 2).take 2 = [0, 0])
  && (List.range (bs.length / 4 - 1)).all (fun i => decide (imgW bs (i + 1) = pat.toNat))
def State.patternLine (s : State) (n : Nat) (bs : List Byte) (crcOk : Bool) : State :=
  let x := s.rxs n
  s.setRxs n { x with patterns := x.patterns + 1, patCrcBad := x.patCrcBad || !crcOk, patBad := x.patBad || !patternOk x.pat bs, ctr := if 2 ≤ bs.length then some (ofBytesLE (bs.take 2)) else none }

/-- A line of the image, written where it fits (R343). -/
def State.imageLine (s : State) (n : Nat) (bs : List Byte) : State :=
  let x := s.rxs n
  let off := x.line * x.stride
  let fits := decide (bs.length ≤ x.stride) && decide (off + bs.length ≤ x.bufBytes)
  let t := s.setRxs n { x with line := x.line + 1, written := if fits then x.written + bs.length else x.written, lineBad := x.lineBad || !fits }
  if !fits then (t.setErr (csiPage x.port) 2).count (csiPage x.port + 0x058)
  else match x.buf with
    | some b => (t.writeB rxSrc (x.bufAt b + off) bs).2
    | none => t

/-- The packet of a source in a frame. -/
def State.srcPacket (s : State) (n dt : Nat) (bs : List Byte) (crcOk : Bool) : State :=
  let x := s.rxs n
  if !x.inFrame then s.count (snsPage + 0x044)
  else
    let t := if crcOk then s else s.badLine n
    if dt = fld (x.w 0) 14 6 then t.patternLine n bs crcOk
    else if dt = fld (x.w 0) 8 6 then t.imageLine n bs else t.count (snsPage + 0x044)

/-- Meaning of CSI_LONG_PACKET (R203, R205, R343, R344). -/
def csiLongPacket (k vc dt : Nat) (bs : List Byte) (eccErrs : Nat) (crcOk : Bool) (s : State) : State :=
  let p := csiPage k
  let srcs := (s.portSrcs false k).filter (fun n => decide (fld ((s.rxs n).w 0) 4 4 = vc))
  if !bit (Tab.get 0 s.rx.csi k) 0 then s
  else
    let len := Tab.get 0 s.rx.lane k + bs.length + 6
    let queued := s.synInPath false k
    if queued ∧ 16384 < len then srcs.foldl State.badLine ((s.setErr p 2).count (p + 0x058))
    else
      let t := if queued then s.setRx { s.rx with lane := Tab.set 0 s.rx.lane k len } else s
      if 2 ≤ eccErrs then
        ((t.portSrcs false k).filter (fun n => (t.rxs n).inFrame)).foldl State.badLine ((t.setErr p 0).count (p + 0x050))
      else
        let t := if eccErrs = 1 then t.count (p + 0x04C) else t
        let t := if crcOk then t else (t.setErr p 1).count (p + 0x054)
        match srcs with
        | [] => t.count (snsPage + 0x044)
        | n :: _ => t.srcPacket n dt bs crcOk
def execCsiLongPacket (k vc : Nat) (dt : BitVec 6) (bs : List Byte) (eccErrs : Nat) (crcOk : Bool) (s : State) : Out :=
  onUnit (decide (k < 8) && decide (vc < 16)) (csiLongPacket k vc dt.toNat bs eccErrs crcOk s)

/-- Meaning of CSI_RESTART (R345). -/
def csiRestart (w : Writer) (k : Nat) (v : W32) (s : State) : State :=
  if s.writerDom w ≠ domGk ∨ bit v 0 = false then s
  else
    let t := (s.setRx { s.rx with csi := Tab.set 0 s.rx.csi k (s.reg (csiPage k + 0x040)) }).setReg (csiPage k + 0x048) 0
    t.portStart false k
def execCsiRestart (w : Writer) (k : Nat) (v : W32) (s : State) : Out := onUnit (decide (k < 8)) (csiRestart w k v s)

/-- Meaning of DPHY_SYNC_ERROR (R362). -/
def execDphySyncError (k : Nat) (s : State) : Out := onUnit (decide (k < 8)) (s.setErr (csiPage k) 3)

/-! ### Ethernet streams (R206, R347) -/

/-- Meaning of STREAM_FRAME_END (R206). -/
def streamFrameEnd (n : Nat) (s : State) : State :=
  let x := s.rxs n
  if x.done then s.frameOver n (b2n x.lineBad) 0 else s
def execStreamFrameEnd (n : Nat) (s : State) : Out := onUnit (decide (16 ≤ n) && decide (n < 32)) (streamFrameEnd n s)

/-- Whether a stream's filter matches a frame (R347). -/
def FrameSt.matches (x : FrameSt) (bs : List Byte) : Bool :=
  let m := x.w 4
  let o := ethTypeAt bs
  let udp := decide (beAt bs o 2 = 0x0800) && decide (beAt bs (o + 11) 1 = 17)
    && decide (beAt bs (o + 2 + 4 * (beAt bs (o + 2) 1 % 16) + 2) 2 = fld m 0 16)
  (if bit m 16 then udp else decide (beAt bs o 2 = fld m 0 16))
  && (!bit m 29 || (decide (ethTags bs ≠ 0) && decide (beAt bs 14 2 % 4096 = fld m 17 12)))

/-- A matching frame of a stream: its sequence number, payload and end (R347). -/
def State.streamTake (s : State) (n : Nat) (bs : List Byte) : State :=
  let s := streamFrameEnd n s
  let s := if (s.rxs n).inFrame then s else s.frameStart n
  let x := s.rxs n
  let pay := fld (x.w 5) 0 11
  let seqOff := fld (x.w 5) 16 11
  let endOff := fld (x.w 6) 0 11
  let seq := beAt bs seqOff 2
  let whole := decide (pay ≤ bs.length) && decide (seqOff + 2 ≤ bs.length) && decide (endOff < bs.length)
  let inOrder := match x.seqLast with | some q => decide (seq = (q + 1) % 65536) | none => true
  let data := bs.drop pay
  let fits := decide (x.written + data.length ≤ x.bufBytes)
  let x := { x with seqLast := if decide (seqOff + 2 ≤ bs.length) then some seq else x.seqLast }
  if !(whole && inOrder && fits) then
    (s.setErrIf (whole && inOrder) (ethPage x.port) 2).setRxs n { x with lineBad := true, done := true }
  else
    let t := match x.buf with
      | some b => (s.writeB rxSrc (x.bufAt b + x.written) data).2
      | none => s
    t.setRxs n { x with written := x.written + data.length, done := nbit (beAt bs endOff 1) (fld (x.w 6) 16 3) }

/-- Meaning of ETH_FRAME_RECEIVE (R346, R347). -/
def ethReceive (k : Nat) (f : EthFrame) (s : State) : State :=
  if !s.ethUp k then s
  else if !f.fcsOk then (s.setErr (ethPage k) 0).count (ethPage k + 0x054)
  else if f.bytes.length + 4 < 64 ∨ (s.mac k).maxLen < f.bytes.length + 4 then s
  else match (s.portSrcs true k).find? (fun n => (s.rxs n).matches f.bytes) with
    | some n => s.streamTake n f.bytes
    | none => s.emit (.gkFrame k f.bytes (s.ingress k))
def execEthFrameReceive (k : Nat) (f : EthFrame) (s : State) : Out := onUnit (decide (k < 4)) (ethReceive k f s)

/-- Meaning of ETH_LINK_UP (R363): ETH_CTRL and ETH_MAXLEN take effect, and the MAC's stream sources start. -/
def ethLinkUp (k speed : Nat) (s : State) : State :=
  let c := s.reg (ethPage k + 0x040)
  let mode := fld c 0 2
  let rate := if mode = 1 then 0 else if bit c 2 then speed else fld c 4 2
  if mode = 0 ∨ s.ethUp k = true then s
  else
    let t := s.setMac k ⟨mode, s.regF (ethPage k + 0x048) 0 14, s.frc⟩
    (t.setReg (ethPage k + 0x044) (w32 (1 + 2 * rate))).portStart true k
def execEthLinkUp (k : Nat) (speed : BitVec 2) (s : State) : Out := onUnit (decide (k < 4)) (ethLinkUp k speed.toNat s)

/-- Meaning of ETH_LINK_DOWN (R363). -/
def execEthLinkDown (k : Nat) (s : State) : Out :=
  onUnit (decide (k < 4)) ((s.setErr (ethPage k) 1).setRegF (ethPage k + 0x044) 0 1 0)

end Sys2Proof.Machine
end

