-- ==== Sys2Proof/Machine/Triggers.lean ====
section
/-! DEFINITION. Trigger entries at work (R320 to R326) and markers (R308, R315, R325). -/

namespace Sys2Proof.Machine

/-- What the firing of an entry does beside its interrupt sources (R321, R322, R96). -/
def State.trigAct (s : State) (e : Nat) : State :=
  let x := s.trig e
  match x.action with
  | 2 =>
    let n := fld x.arg 0 8
    let r := s.entry s.activeBank n
    if r.valid ∧ r.trig = 0 ∧ r.arg.toNat = e then s.fireLive n ⟨none, 0, [], s.frc, none⟩ else s
  | 3 =>
    let (had, t) := s.gatedSend (fld x.arg 0 3) (fld x.arg 4 4)
    t.setRegF (trigAt e + 0x18) 3 1 (b2n (!had))
  | 4 => match s.bs.snap with
    | none => { s with bs := { s.bs with snap := some (s.frc, false) } }
    | some _ => s
  | _ => s

/-- TRIGGER_FIRE (R321, R324): the sources, the action, then the next target. -/
def State.trigFire (s : State) (e : Nat) (late : Option Nat) : State := ((s.trigFired e late).trigAct e).trigAfter e

/-- An entry whose target lies behind fires late or is discarded (R324); entry 0 is never past (R327). -/
def State.trigLate (s : State) (e : Nat) : State :=
  match s.trigPast (s.trig e) with
  | some n => if e = 0 then s else if (s.trig e).discard then s.trigDiscard e else s.trigFire e (some n)
  | none => s

/-- The registers of an entry. -/
def State.trigWords (s : State) (e : Nat) : List W32 := (List.range 6).map (fun i => s.reg (trigAt e + 4 * i))

/-- The entry takes effect as words spell it. -/
def State.trigTake (s : State) (e : Nat) (ws : List W32) : State :=
  let w := fun i => ws.getD i 0
  let x := s.trigOf (w 0) (w 1) (w 2) (w 3) (w 4) (w 5)
  ((s.setTrig e x).setRegF (trigAt e + 0x18) 0 1 (b2n x.armed)).trigLate e

/-- The entry as its registers spell it takes effect. -/
def State.trigLoad (s : State) (e : Nat) : State := s.trigTake e (s.trigWords e)

/-- The fields of a CTRL write that waited for the old target take effect after its firing (KL-11, R488). -/
def State.trigNext (s : State) (e : Nat) (x : Trig) : State :=
  match x.held with
  | some ws => (s.setReg (trigAt e) (ws.getD 0 0)).trigTake e ws
  | none => s

/-- A presented-time entry that a commit has made past fires late or is discarded (R324, R325). -/
def State.trigPassed (s : State) (e : Nat) : State :=
  let x := s.trig e
  if x.presented && (s.trigPast x).isSome then (s.trigLate e).trigNext e x else s

/-- The commits due at this tick, and the entries that one of them has made past (R308, R324, R325). -/
def State.commits (s : State) : State :=
  let t := s.commitsDue
  if t.bs.commit = s.bs.commit then t
  else (List.range 64).foldl State.trigPassed t

/-- A record of a bank's store taken at the plan switch instant (R326): an identical one keeps its next target. -/
def State.trigRecord (s : State) (e : Nat) (ws : List W32) : State :=
  let ws := ws.take 6
  if (s.trig e).words = ws ∨ ((s.trig e).words = [] ∧ ws.all (fun w => decide (w = 0)) = true) then s
  else ((List.range 6).foldl (fun t i => t.setReg (trigAt e + 4 * i) (ws.getD i 0)) s).trigLoad e

/-- Whether a CTRL value may be written to an entry (R320, R321, R332). -/
def trigCtrlOk (e : Nat) (v : W32) : Bool :=
  let a := fld v 1 3
  decide (e ≠ 0) && decide (a ≤ 4) && decide (a ≠ 1) && (decide (a ≠ 2) || decide (16 ≤ e))

/-- Whether the old target of an armed entry lies ahead by at most 500 ticks (KL-11). -/
def State.trigNear (s : State) (x : Trig) : Bool :=
  x.armed && decide (s.trigNow x ≤ x.target ∧ x.target ≤ s.trigNow x + (if x.presented then 500 * 131072 else 500))

/-- The fields of an entry take effect with a CTRL value (R323). -/
def State.trigApply (s : State) (e : Nat) (v : W32) : State := (s.setReg (trigAt e) (v &&& 0x3F#32)).trigLoad e

/-- Meaning of TRIGGER_CTRL_WRITE (R323, R324, KL-11, R488): on this stepping, where ARM stays 1, the old target of an armed entry that is
near may fire first, and the new fields then wait for it. -/
def trigCtrlWrite (w : Writer) (e : Nat) (v : W32) (s : State) : State :=
  if w ≠ .pair ∨ trigCtrlOk e v = false then s
  else if bit v 0 && s.trigNear (s.trig e) then
    let (n, t) := s.drawNat
    if n % 2 = 1 then
      let u := t.setReg (trigAt e) (v &&& 0x3F#32)
      u.setTrig e { u.trig e with held := some (u.trigWords e) }
    else t.trigApply e v
  else s.trigApply e v
def execTriggerCtrlWrite (w : Writer) (e : Nat) (v : W32) (s : State) : Out := onUnit (decide (e < 64)) (trigCtrlWrite w e v s)

/-- An entry that fires, and the fields that waited for it. -/
def State.trigGo (s : State) (e : Nat) (late : Option Nat) : State := (s.trigFire e late).trigNext e (s.trig e)

/-- An entry of an action at its target, once the commits of the tick have been made (R308). -/
def trigAtTarget (a e : Nat) (s : State) : State :=
  let s := s.commits
  if decide ((s.trig e).action = a) && s.trigReached (s.trig e) then s.trigGo e none else s
/-- Meaning of TRIGGER_IRQ. -/
def execTriggerIrq (e : Nat) (s : State) : Out := onUnit (decide (e < 64)) (trigAtTarget 0 e s)
/-- Meaning of TRIGGER_RUN. -/
def execTriggerRun (e : Nat) (s : State) : Out := onUnit (decide (e < 64)) (trigAtTarget 2 e s)
/-- Meaning of TRIGGER_ADC. -/
def execTriggerAdc (e : Nat) (s : State) : Out := onUnit (decide (e < 64)) (trigAtTarget 4 e s)

/-- Ticks by which an ETH entry was armed too late for its fire code, which runs 1,000 ticks ahead (R322). -/
def State.ethShort (s : State) (x : Trig) : Nat :=
  let lead := if x.presented then (x.target - s.ptAt x.armedAt) / 131072 else x.target - x.armedAt
  1000 - lead
/-- Meaning of TRIGGER_ETH (R322): an entry armed too late sends as soon as it can. -/
def triggerEth (e : Nat) (s : State) : State :=
  let s := s.commits
  let x := s.trig e
  let short := s.ethShort x
  if x.action ≠ 3 ∨ s.trigReached x = false ∨ (short ≠ 0 ∧ s.frc < x.armedAt + 1000) then s
  else s.trigGo e (if short = 0 then none else some short)
def execTriggerEth (e : Nat) (s : State) : Out := onUnit (decide (e < 64)) (triggerEth e s)

/-- Meaning of STEERING_TICK (R313, R314): at a steering tick, which is a marker too, the commits come first (R308). -/
def steering (s : State) : State :=
  if s.frc % 1048576 ≠ 0 then s
  else
    let s := s.commits
    let u := s.setRegF bsStatA 3 2 s.domSel
    let t := if u.domSel < 2 ∧ u.domValid u.domSel = true ∧ u.domIsStale u.domSel = false then u.steerTo u.domSel
      else u.setRegF bsStatA 5 1 0
    u.showErr (u.showErr t 0) 1
def execSteeringTick (s : State) : Out := .next (steering s)

/-- Meaning of MARKER (R308, R315, R316, R325): domain record commits, the presented-time commit, the entries that a commit has
made past, and the sync word whose echoes come back. -/
def markerAt (echo : List (Option Int)) (s : State) : State :=
  if s.frc % 1024 ≠ 0 ∨ s.bs.marker = some s.frc then s
  else
    let t := s.commits
    let t := { t with bs := { t.bs with marker := some t.frc } }
    (List.range 3).foldl (fun t r => t.echo r ((echo[r]?).getD none)) t
def execMarker (echo : List (Option Int)) (s : State) : Out := .next (markerAt echo s)

end Sys2Proof.Machine
end

