-- ==== Sys2Proof/Machine/Folly.lean ====
section
/-! DEFINITION. Self-tests of checkers (R214 to R220) and the paths of services (R177). -/

namespace Sys2Proof.Machine

/-! ### Paths (R177) -/

def SvcSt.sets (v : SvcSt) : Nat := v.setA ||| (if v.drec.twoCopy then v.setB else 0)
def SvcSt.onDie (v : SvcSt) (d : Nat) : Bool := decide (nfld v.sets (4 * d) 4 ≠ 0)
/-- Whether a service's sensor mask names a source on a port. -/
def State.sensorPort (s : State) (v : SvcSt) (stream : Bool) (k : Nat) : Bool :=
  (s.portSrcs stream k).any (fun n => bit v.drec.sensorMask n)
/-- Whether a place lies on a service's path. -/
def State.onPath (s : State) (v : SvcSt) (l : Loc) : Bool :=
  match l with
  | .pav p => nbit v.sets p
  | .die d => v.onDie d
  | .ioLink d => v.onDie d
  | .csi k => s.sensorPort v false k
  | .mac k => s.sensorPort v true k
  | .io => decide (v.drec.sensorMask ≠ 0)
  | .nowhere => false
  | .gatehouse => true
def State.svc (s : State) (n : Nat) : Option SvcSt := Tab.get none s.bel.svcs n
def State.setBel (s : State) (b : BeliefSt) : State := { s with bel := b }
def State.setSvc (s : State) (n : Nat) (v : Option SvcSt) : State := s.setBel { s.bel with svcs := Tab.set none s.bel.svcs n v }
/-- The declared services, in number order. -/
def State.svcList (s : State) : List (Nat × SvcSt) := s.bel.svcs.filterMap (fun e => e.2.map (fun v => (e.1, v)))

/-! ### Checkers -/

def State.chk (s : State) (n : Nat) : ChkSt := Tab.get ChkSt.init s.fol.chks n
def State.setChk (s : State) (n : Nat) (c : ChkSt) : State := s.setFol { s.fol with chks := Tab.set ChkSt.init s.fol.chks n c }
def State.stInterval (s : State) : Tick := 500000 * s.regF (folPage + 0x044) 0 10

/-- R181(a): every checker on the path has passed since the last reset of its unit, and has not failed since. -/
def State.chksPassed (s : State) (v : SvcSt) : Bool :=
  (List.range chkCount).all (fun n => !(s.onPath v (chkLoc n) && s.chkExists n) || ((s.chk n).pass.isSome && !(s.chk n).failed))

/-- Whether the unit of a checker answers test accesses now. -/
def State.chkReady (s : State) (n : Nat) : Bool :=
  let u := if n < 4352 then (match s.coreOn (n % 2176) with | some u => some u | none => chkUid n) else chkUid n
  match u with
  | some u => decide (s.gate u = 0) && !s.held u && decide (s.ustate u ≠ stFaulted) && !s.tripped (uDie u)
  | none => chkLane n ≠ 10 || bit (s.reg ghIoCtrlA) 0

/-- What a slice waits for beside its lane (R215, R289): a free context, a blanking interval, an idle unit, a gap between arbitrations. -/
def State.chkOpen (s : State) (n : Nat) : Bool :=
  match chkRow n with
  | 1 => match s.coreOn (n - 2176) with
    | some u => ([0, 1, 2, 3] : List Nat).any (fun c => !s.ctxOpen u c)
    | none => true
  | 9 => !s.synInPath false (n - 4836) && (s.portSrcs false (n - 4836)).all (fun k => !(s.rxs k).inFrame)
  | 11 => s.cvuIdle (chkSub n) && !(decide (4 ≤ chkSub n) && decide (chkSub n < 6) && (List.range 32).any (fun k => !(s.rxs k).judged.isEmpty))
  | 15 => s.bv.queue.all (fun a => a.start.isNone)
  | _ => true

/-- Whether a checker is to be tested now (R216): never passed, failed, or half an interval after its last pass. -/
def State.chkWanted (s : State) (n : Nat) : Bool :=
  let c := s.chk n
  !c.wait && (match c.pass with
    | none => true
    | some p => c.failed || c.eligible || decide (c.left ≠ 0) || decide (p + s.stInterval / 2 ≤ s.frc))

/-- The order of a lane (R216): a test begun, then checkers never passed, then by last pass; ties in inventory order. -/
def State.chkKey (s : State) (n : Nat) : Nat :=
  let c := s.chk n
  if c.left ≠ 0 then 0 else match c.pass with | none => 1 | some p => 2 + p

/-- The next safety-task start after now (R217). -/
def State.nextSafety (s : State) : Option Tick :=
  let trig := s.bs.trig.filterMap (fun e =>
    let x := e.2
    let n := s.entry s.activeBank (fld x.arg 0 8)
    if x.armed ∧ x.action = 2 ∧ n.valid = true ∧ n.safety = true then
      let t := if x.presented then s.frc + ((x.target - s.pt) * 65536 + s.bsRate - 1) / s.bsRate else x.target
      (if s.frc < t then some t else none)
    else none)
  let cyc := match s.cyc.next with
    | some b => [if b ≤ s.frc then b + 500 * s.cyc.us else b]
    | none => []
  (cyc ++ trig).foldl (fun m t => match m with | none => some t | some x => some (min x t)) none

/-- Whether a slice fits before a safety-task start. -/
def State.fits (s : State) (n : Nat) : Bool :=
  match s.nextSafety with
  | none => true
  | some t => decide (s.frc + 750 + chkWorst n + 10000 ≤ t)

/-- BLK_INJ armed by the test lane with its first injection, for one check (R214, R471); a check-value unit enters its slice (R289). -/
def State.armTest (s : State) (n : Nat) : State :=
  let (_, _, c) := s.chkPlace n
  let t := s.setReg (s.chkPage n + 0x020) (w32 (c % 16 + 16 + 256 + 2 ^ 31))
  if chkRow n = 11 then t.cvuSlice (chkSub n) else t

/-- The end of a slice at its block: its last injection is made, and a check-value unit goes on. -/
def State.disarmTest (s : State) (n : Nat) : State :=
  let (_, _, c) := s.chkPlace n
  let k := ((chkKinds n).getLast?.map (fun k => (testExpected k).length)).getD 1
  let t := s.setReg (s.chkPage n + 0x020) (w32 (c % 16 + 16 * k + 2 ^ 31))
  if chkRow n = 11 then t.cvuSliceEnd (chkSub n) else t

/-- Meaning of TEST_SLICE_START (R215 to R217). -/
def sliceStart (l : Nat) (s : State) : State :=
  let wait := match Tab.get none s.fol.blocked l with | some t => decide (s.frc < t) | none => false
  if (Tab.get none s.fol.lanes l).isSome ∨ wait = true then s
  else
    let cs := (List.range chkCount).filter (fun n =>
      decide (chkLane n = l) && s.chkWanted n && s.chkExists n && s.chkReady n && s.chkOpen n)
    match cs.filter s.fits with
    | [] =>
      if cs.isEmpty then s
      else (s.setFol { s.fol with blocked := Tab.set none s.fol.blocked l s.nextSafety }).count (folPage + 0x06C)
    | n0 :: ns =>
      let n := ns.foldl (fun a b => if s.chkKey b < s.chkKey a then b else a) n0
      let c := s.chk n
      let t := (s.setChk n { c with left := if c.left = 0 then chkSlices n else c.left }).armTest n
      t.setFol { t.fol with lanes := Tab.set none t.fol.lanes l (some (n, t.frc)), blocked := Tab.set none t.fol.blocked l none }
def execTestSliceStart (l : Nat) (s : State) : Out := onUnit (decide (l < 12)) (sliceStart l s)

/-- A test has failed (R218): recorded and counted; a checker in a Pavilion or die on a path waits for the restart it orders. -/
def State.chkFail (s : State) (n report : Nat) (noReport : Bool) : State :=
  let hasScope := match chkLoc n with | .pav _ => true | .die _ => true | _ => false
  let t := s.setChk n { s.chk n with failed := true, left := 0, wait := hasScope && s.svcList.any (fun e => s.onPath e.2 (chkLoc n)) }
  let info := folPage + 0x054
  let t := if bit (t.reg info) 31 then t
    else (t.setReg (folPage + 0x050) (s.chkSel n)).setReg info (w32 (report % 16 + 16 * b2n noReport + 2 ^ 31))
  ((t.setErr folPage 0).count (folPage + 0x070)).evidence (.checker n false)

/-- A slice has passed; with the last one the test passes (R216). -/
def State.chkPass (s : State) (n : Nat) : State :=
  let c := s.chk n
  let t := s.count (folPage + 0x068)
  if 2 ≤ c.left then t.setChk n { c with left := c.left - 1 }
  else
    let u := (t.setChk n { pass := some t.frc, failed := false, left := 0, overdue := false, eligible := false, wait := false }).overdueFalls
    (if c.failed then u.evidence (.checker n true) else u)

/-- Whether the report of an injection is still to come: that of a link's checker comes with the next functional flit (R214). -/
def State.testWaits (s : State) (n : Nat) : Bool := decide (chkRow n = 8) && decide (s.regF (s.chkPage n + 0x020) 8 8 ≠ 0)

/-- Meaning of TEST_SLICE_END (R214, R218): the checker's logic judges the injections, but for a latent defect that the operand names, an
injection counted from 1 and the report it gave; `noReport` says that it gave none. A report later than the slice's worst case is none. -/
def sliceEnd (l : Nat) (defect : Option (Nat × TestReport)) (noReport : Bool) (s : State) : State :=
  match Tab.get none s.fol.lanes l with
  | none => s
  | some (n, t0) =>
    let limit := t0 + 750 + chkWorst n
    let silent := noReport || s.testWaits n
    if silent = true ∧ s.frc < limit then s
    else
      let t := (s.setFol { s.fol with lanes := Tab.set none s.fol.lanes l none }).disarmTest n
      if silent = true ∨ limit < s.frc then t.chkFail n (testNumber n defect) true
      else if testFirst n defect = 0 then s.withFalls (t.chkPass n) else t.chkFail n (testFirst n defect) false
def execTestSliceEnd (l : Nat) (defect : Option (Nat × TestReport)) (noReport : Bool) (s : State) : Out :=
  onUnit (decide (l < 12)) (sliceEnd l defect noReport s)

/-- Meaning of CHECKER_ELIGIBLE (R216). -/
def chkEligible (n : Nat) (s : State) : State :=
  match (s.chk n).pass with
  | some p => if p + s.stInterval / 2 ≤ s.frc then s.setChk n { s.chk n with eligible := true } else s
  | none => s
def execCheckerEligible (n : Nat) (s : State) : Out := onUnit (decide (n < chkCount)) (chkEligible n s)

/-- Meaning of CHECKER_OVERDUE (R219): the first overdue checker raises the source, and each is one LATENT event at its place. -/
def chkOverdue (n : Nat) (s : State) : State :=
  match (s.chk n).pass with
  | some p =>
    if s.frc < p + s.stInterval ∨ (s.chk n).overdue = true ∨ s.chkExists n = false then s
    else
      let first := !bit (s.reg (folPage + errOff)) 1
      let t := (s.setChk n { s.chk n with overdue := true }).count (folPage + 0x074)
      let t := t.setReg (folPage + errOff) (setBit (t.reg (folPage + errOff)) 1 true)
      if bit (t.reg (folPage + errMaskOff)) 1 then t
      else t.fcEvent (srcGroup folPage 1) (if first then some (folPage, 1) else none) false false (some (chkLoc n))
  | none => s
def execCheckerOverdue (n : Nat) (s : State) : Out := onUnit (decide (n < chkCount)) (chkOverdue n s)

/-- Meaning of FOL_ST_FAIL_CLR (R220). -/
def folFailClr (w : Writer) (v : W32) (s : State) : State :=
  if w = .pair ∧ bit v 0 = true then (s.setReg (folPage + 0x050) 0).setReg (folPage + 0x054) 0 else s
def execFolStFailClr (w : Writer) (v : W32) (s : State) : Out := .next (folFailClr w v s)

end Sys2Proof.Machine
end

