-- ==== Sys2Proof/Machine/Restart.lean ====
section
/-! DEFINITION. Restart orders (R185, R186, R380): the Gatehouse sends and follows them, the Groundskeeper goes on with them as units
and dies come back. -/

namespace Sys2Proof.Machine

/-! ### Safety domains and regions (R132, R137, R223) -/

/-- Pavilions that a bank names in a set of a SAFETY entry. -/
def State.safetyPavs (s : State) (b : Nat) : Nat :=
  ((s.entries b).filter (fun e => e.2.safety)).foldl (fun m e => m ||| e.2.pavA ||| e.2.fallA ||| e.2.pavB ||| e.2.fallB) 0

/-- A Pavilion takes its safety domain, every BLK_ERR_MASK of its units first zeroed (R132, R223). -/
def State.assignSafety (s : State) (p : Nat) : State :=
  let u := pavUid p
  let masks := s.regs.filterMap (fun e => match winUnit e.1 with
    | some v => if uEncl u v = true ∧ e.1 % 0x1000 = errMaskOff then some (e.1 - errMaskOff) else none
    | none => none)
  (masks.foldl (fun t page => t.setErrMask page 0) s).writeDomain domGh u (domSafety p).toNat

/-- The Gatehouse's windows at a memory controller, from the safety region list in force (R137). -/
def State.regionWindows (s : State) (d : Nat) : State :=
  let rs := match s.bel.decl with | some x => x.regions.filter (fun (r : Region) => decide (dramDie (canonical r.base.toNat) = some d)) | none => []
  (List.range 16).foldl (fun t i => match rs[i]? with
    | some r => t.fwPut d (16 + i) (r.base.toNat / 0x1000) (r.limit.toNat / 0x1000) (0xF10 + 4 * r.die) 0xFFC
        (1 + 2 * b2n r.read + 4 * b2n r.write)
    | none => if bit (t.fwWin (fwWinAt d (16 + i))).ctrl 0 then t.fwPut d (16 + i) 0 0 0 0 0 else t) s

/-! ### Orders at the Gatehouse (R186) -/

def ghRestartStatA : Nat := beliefPage + 0x0B8
def scopeUid (sc : Scope) : Nat := match scopeUnits sc with | u :: _ => u.toNat | [] => 0

/-- GH_RESTART_STAT shows the latest order. -/
def State.orderStat (s : State) (o : Order) : State :=
  if (o.num + 1) % 256 = s.bel.nextOrder then s.setReg ghRestartStatA (w32 (scopeUid o.scope + 65536 * o.state + 2 ^ 24 * o.num)) else s

def State.putOrder (s : State) (o : Order) : State :=
  (s.setBel { s.bel with orders := s.bel.orders.map (fun x => if x.num = o.num ∧ x.sent = o.sent then o else x) }).orderStat o

/-- The order outstanding under a number. -/
def State.order (s : State) (num : Nat) : Option Order := s.bel.orders.find? (fun o => decide (o.num = num) && decide (o.state < 3))

def orderOf (bs : List Byte) : Nat := nfld (ofBytesLE (bs.take 1)) 0 8
def State.orderSend (s : State) (o : Order) : State := s.sendMsg idGatehouse idGk 0x20 (orderBytes o.num o.scope)

/-- A restart is ordered: the services with a copy on its units wait for it, runs on them are interrupted (R176), and its dies' rails
are no longer monitored (R389). -/
def State.orderRestart (s : State) (sc : Scope) : State :=
  let m := scopePavs sc
  let o : Order := ⟨s.bel.nextOrder, sc, s.frc, none, 1, false, false, 0⟩
  let t := (s.setBel { s.bel with orders := s.bel.orders ++ [o], nextOrder := (o.num + 1) % 256 }).orderSend o
  let t := t.orderStat o
  let t := t.setPlan { t.plan with runs := t.plan.runs.map (fun r => if r.sets &&& m ≠ 0 then { r with interrupted := true } else r) }
  let t := t.svcList.foldl (fun t e => if e.2.sets &&& m ≠ 0 then t.setSvc e.1 (some { e.2 with orders := e.2.orders ++ [o.num] }) else t) t
  let t : State := { t with pwr := { t.pwr with armFrom := (scopeDies sc).foldl (fun a d => Tab.set none a d none) t.pwr.armFrom } }
  t.disarm ((scopeDies sc).flatMap (fun d => (List.range 5).map (fun i => 5 * d + i)))

/-- An order is over, done (3) or failed (4): the rails of its dies are monitored again (R389), and failing checkers in its scope are
tested again (R218). A rail of a die that comes back has 10 ms to arm. -/
def State.orderOver (s : State) (o : Order) (st : Nat) : State :=
  let m := scopePavs o.scope
  let inScope := fun (n : Nat) => match chkLoc n with
    | .pav p => nbit m p
    | .die d => (scopeDies o.scope).contains d
    | _ => false
  let t := s.putOrder { o with state := st, overAt := s.frc }
  let t : State := { t with pwr := { t.pwr with armFrom := (scopeDies o.scope).foldl (fun a d => Tab.set none a d (if st = 3 then some t.frc else none)) t.pwr.armFrom } }
  t.fol.chks.foldl (fun t e => if e.2.wait && inScope e.1 then t.setChk e.1 { e.2 with wait := false } else t) t

/-- A restart has failed (R186). -/
def State.orderFail (s : State) (o : Order) : State := (s.orderOver o 4).setErr beliefPage 0

/-- Meaning of RESTART_ACK (R186). -/
def restartAck (m : PMsg) (s : State) : State :=
  let (p, t) := s.recv 2 (decide (m.type = 0x21)) m
  match p with
  | none => t
  | some bs => match t.order (orderOf bs) with
    | some o => if o.state = 1 then t.putOrder { o with state := 2 } else t
    | none => t
def execRestartAck (m : PMsg) (s : State) : Out := .next (restartAck m s)

/-- Meaning of RESTART_ACK_TIMEOUT (R186): after 10 ms the order is sent once more, and then it has failed. -/
def ackTimeout (num : Nat) (s : State) : State :=
  match s.order num with
  | none => s
  | some o =>
    if o.state ≠ 1 ∨ s.frc < o.again.getD o.sent + 5000000 then s
    else match o.again with
      | none => (s.putOrder { o with again := some s.frc }).orderSend o
      | some _ => s.orderFail o
def execRestartAckTimeout (num : BitVec 8) (s : State) : Out := .next (ackTimeout num.toNat s)

/-- Meaning of RESTART_DONE (R186, R380): before any self-test of the restarted units the safety domains that the active bank names and
the Gatehouse's firewall windows are written again. -/
def restartDone (m : PMsg) (s : State) : State :=
  let (p, t) := s.recv 2 (decide (m.type = 0x22)) m
  match p with
  | none => t
  | some bs => match t.order (orderOf bs) with
    | none => t
    | some o =>
      let t := (bitsOf 8 (scopePavs o.scope &&& t.safetyPavs t.activeBank)).foldl State.assignSafety t
      let t := (scopeDies o.scope).foldl State.regionWindows t
      t.orderOver o 3
def execRestartDone (m : PMsg) (s : State) : Out := .next (restartDone m s)

/-- The limit of a scope (R186). -/
def scopeLimit (sc : Scope) : Tick := match sc with | .package => 3000000000 | .die _ => 600000000 | _ => 150000000

/-- Meaning of RESTART_DONE_TIMEOUT (R186). -/
def doneTimeout (num : Nat) (s : State) : State :=
  match s.order num with
  | some o => if o.sent + scopeLimit o.scope ≤ s.frc then s.orderFail o else s
  | none => s
def execRestartDoneTimeout (num : BitVec 8) (s : State) : Out := .next (doneTimeout num.toNat s)

/-! ### Orders at the Groundskeeper (R380, R430) -/

/-- Meaning of RESTART_ORDER (R186, R380, R430): a message accepted at the I/O die's receiver goes to the firmware. -/
def restartOrder (m : PMsg) (num : Nat) (sc : Scope) (s : State) : State :=
  let (p, t) := s.recv 4 (decide (m.type = 0x20)) m
  match p with
  | some bs => if bs = orderBytes num sc then t.gkDeliver m else t
  | none => t
def execRestartOrder (m : PMsg) (num : BitVec 8) (sc : Scope) (s : State) : Out := .next (restartOrder m num.toNat sc s)

/-- Meaning of FAULT_NOTE (R233, R430, R441): the note goes to the Groundskeeper's log. -/
def faultNoteRx (m : PMsg) (s : State) : State :=
  let (p, t) := s.recv 4 (decide (m.type = 0x23)) m
  if p.isSome then t.gkDeliver m else t
def execFaultNote (m : PMsg) (s : State) : Out := .next (faultNoteRx m s)

/-- Meaning of ABSORB_COMPLETE (R377). -/
def execAbsorbComplete (u : UnitId) (s : State) : Out := onUnit (uValid u) (absorbComplete u s).gkAdvance
/-- A retirement recorded in flash, in GK_RETIRED and in the event log (R370, R386, R436, R441). -/
def State.retired (s : State) (u : UnitId) (r : W32) (absent : Bool) : State :=
  let clu := mkUid 1 (uDie u) (uPav u) (uClu u) 0
  let a := gkBootPage + 0x04C
  let t := s.setGk { s.gk with retire := Tab.set 0 s.gk.retire (cluIx clu) r }
  let t := t.setReg a (w32 (min (fld (t.reg a) 0 16 + 1) 65535 + 65536 * (fld (t.reg a) 16 16 + b2n absent)))
  t.logAdd 0x0006 (bytesLE 2 u.toNat ++ bytesLE 1 0 ++ bytesLE 1 (b2n absent)) true 0

/-- A logical core that fails while its cluster's spare is mapped or failed is absent (R13, R79, R370). -/
def State.coreLost (s : State) (u : UnitId) : State :=
  let clu := mkUid 1 (uDie u) (uPav u) (uClu u) 0
  let m := s.reg (spareMapAt clu)
  if decide (uLevel u = 0) && decide (s.ustate u = stFaulted) && (bit m 8 || bit m 16) then
    let r := Tab.get 0 s.gk.retire (cluIx clu)
    let t := { s with absent := Tab.set false s.absent u.toNat true }
    if s.gk.up then t.retired u (setBit (recOfMap m r) (16 + uCore u) true) true else t
  else s

/-- CLU_SPARE_MAP_WRITE (R78, R369, R370): a mapping that the Groundskeeper makes is a retirement. -/
def spareMapBy (w : Writer) (clu : UnitId) (v : W32) (s : State) : State :=
  let t := spareMapWrite clu v s
  let m := t.reg (spareMapAt clu)
  if s.writerDom w = domGk ∧ m ≠ s.reg (spareMapAt clu) ∧ s.gk.up = true then
    let r := recOfMap m (Tab.get 0 t.gk.retire (cluIx clu))
    if bit m 8 then t.retired (mkUid 0 (uDie clu) (uPav clu) (uClu clu) (fld m 0 4)) r false
    else t.setGk { t.gk with retire := Tab.set 0 t.gk.retire (cluIx clu) r }
  else t
def execCluSpareMapWrite (w : Writer) (clu : UnitId) (v : W32) (s : State) : Out :=
  onUnit (uValid clu && decide (uLevel clu = 1)) (spareMapBy w clu v s)

/-- Meaning of UNIT_INIT_COMPLETE (R63, R79, R369, R375): the Groundskeeper applies its retirement record to clusters that come out of
reset. -/
def initComplete (u : UnitId) (ok : Bool) (s : State) : State :=
  let s := if ok && s.gk.up && decide (s.ustate u = stResetting) && !s.held u then s.retireMaps u else s
  ((unitInitComplete u ok s).coreLost u).gkAdvance
def execUnitInitComplete (u : UnitId) (ok : Bool) (s : State) : Out := onUnit (uValid u) (initComplete u ok s)
/-- Meaning of COMPUTE_DIE_POWER_UP (R368). -/
def execComputeDiePowerUp (d : Nat) (s : State) : Out := onUnit (decide (d < 2)) (diePowerUp d s).gkAdvance
/-- Meaning of DRAM_TRAINING_COMPLETE (R365). -/
def execDramTrainingComplete (d : Nat) (ok : Bool) (s : State) : Out := onUnit (decide (d < 2)) (dramTrained d ok s).gkAdvance
/-- Meaning of CORE_BOOT_WRITE (R82). -/
def execCoreBootWrite (_w : Writer) (u : UnitId) (v : W32) (s : State) : Out := onUnit (coreOk u) (coreBootWrite u v s).gkAdvance

end Sys2Proof.Machine
end

