-- ==== Sys2Proof/Machine/Tsm.lean ====
section
/-! DEFINITION. The task sequence monitor (R280 to R283). -/

namespace Sys2Proof.Machine

def tsmPage : Nat := ghPage 0x09
def tsmTaskA (t : Nat) : Nat := tsmPage + 0x400 + 4 * t
def tsmStatA (t : Nat) : Nat := tsmPage + 0x800 + 4 * t
def tsmMin (s : State) (t : Nat) : Nat := s.regF (tsmTaskA t) 4 4
def tsmMax (s : State) (t : Nat) : Nat := s.regF (tsmTaskA t) 8 4
def tsmSpan (s : State) (t : Nat) : Nat := s.regF (tsmTaskA t) 16 8 + 1

/-- Whether check-ins of a task are counted (R280). -/
def State.taskOn (s : State) (t : Nat) : Bool := bit (s.reg (tsmTaskA t)) 0 && decide (tsmMin s t ≤ tsmMax s t)

/-- Whether a task lies in a service's declared range (R173). -/
def declHasTask (d : DeclRec) (t : Nat) : Bool :=
  decide (d.taskFirst.toNat ≤ t) && decide (t < d.taskFirst.toNat + d.taskCount.toNat)
def State.taskDeclared (s : State) (t : Nat) : Bool := s.svcList.any (fun e => declHasTask e.2.drec t)

/-- Whether a window of a task closed at the last boundary and is not yet judged (R281). -/
def State.taskDue (s : State) (t : Nat) : Bool :=
  let c := s.cyc.count
  (s.taskOn t || s.taskDeclared t) && decide (s.tsm.origin < c) && decide ((c - s.tsm.origin) % tsmSpan s t = 0)
    && decide (Tab.get 0 s.tsm.judged t < c)

/-- A window judged, its failure stamped at its close (R280, R281). -/
def State.taskJudge (s : State) (t : Nat) : State :=
  let c := s.cyc.count
  let n := s.regF (tsmStatA t) 0 4
  let first := decide (c - s.tsm.origin = tsmSpan s t)
  let bad := !first && !(s.taskOn t && decide (tsmMin s t ≤ n) && decide (n ≤ tsmMax s t))
  let u : State := { s with tsm := { s.tsm with judged := Tab.set 0 s.tsm.judged t c } }
  let u := u.setReg (tsmStatA t) (w32 (16 * n + 256 * b2n bad))
  if !bad then u
  else
    let u := u.count (tsmPage + 0x040)
    let u := if bit (u.reg (tsmPage + 0x048)) 31 then u
      else (u.setReg (tsmPage + 0x048) (w32 (t + 256 * n + 2 ^ 31))).setReg (tsmPage + 0x04C) (w32 (nfld s.cyc.last 16 32))
    { u with evid := u.evid ++ [⟨s.cyc.last, .task t⟩] }

/-- Every window that is due, judged. -/
def State.tasksJudge (s : State) : State := ((List.range 256).filter s.taskDue).foldl State.taskJudge s

/-- The sequence watchdog served once all windows of a boundary are judged (R282). -/
def State.tsmServe (s : State) : State :=
  if s.cyc.count ≤ s.tsm.served ∨ (List.range 256).any s.taskDue = true then s
  else
    let t : State := { s with tsm := { s.tsm with served := s.cyc.count } }
    (t.wdKey 1 0x6D2B).wdKey 1 0x92D4

/-- Meaning of TASK_WINDOW_CLOSE (R281, R282). -/
def taskClose (t : Nat) (s : State) : State := if s.taskDue t then (s.taskJudge t).tsmServe else s
def execTaskWindowClose (t : Nat) (s : State) : Out := onUnit (decide (t < 256)) (taskClose t s)

/-- A check-in counted in its task's window (R280, R281). -/
def State.checkIn (s : State) (t : Nat) : State :=
  let s := taskClose t s
  if s.taskOn t then s.setRegF (tsmStatA t) 0 4 (satN 4 (s.regF (tsmStatA t) 0 4 + 1)) else s.count (tsmPage + 0x044)

/-- Meaning of CHECKIN (R133, R280, R295): a check-in at the Gatehouse link of a compute die. -/
def checkinRx (link : Nat) (dom : Domain) (m : PMsg) (s : State) : State :=
  if !safetyDom dom then s
  else
    let (p, t) := s.recv link (decide (m.type = 0x02)) m
    match p with
    | some (b :: _) => t.checkIn b.toNat
    | _ => t
def execCheckin (link : Nat) (dom : Domain) (m : PMsg) (s : State) : Out := onUnit (decide (link < 2)) (checkinRx link dom m s)

/-- The monitor at a plan switch instant (R281): closing windows are judged, the others discarded, and new ones open. -/
def State.tsmSwitch (s : State) : State :=
  let t := s.tasksJudge
  let t := (List.range 256).foldl (fun t k => if t.regF (tsmStatA k) 0 4 = 0 then t else t.setRegF (tsmStatA k) 0 4 0) t
  { t with tsm := { t.tsm with origin := t.cyc.count } }

/-- Boundaries left in a task's window (R283). -/
def State.taskLeft (s : State) (t : Nat) : Nat :=
  let d := s.cyc.count - s.tsm.origin
  tsmSpan s t - d % tsmSpan s t

/-- Meaning of TSM_FAIL_CLR (R283). -/
def tsmFailClr (w : Writer) (v : W32) (s : State) : State :=
  if w = .pair ∧ bit v 0 = true then (s.setReg (tsmPage + 0x048) 0).setReg (tsmPage + 0x04C) 0 else s
def execTsmFailClr (w : Writer) (v : W32) (s : State) : Out := .next (tsmFailClr w v s)

end Sys2Proof.Machine
end

