-- ==== Sys2Proof/Machine/Belief.lean ====
section
/-! DEFINITION. Belief (R176 to R185): the evidence of a window weighed for each service, transitions, restarts, verdicts, grace and
latching. -/

namespace Sys2Proof.Machine

def stUntested : Nat := 0
def stAdmitted : Nat := 1
def stBelieved : Nat := 2
def stDoubted : Nat := 3
def stDistrusted : Nat := 4
def stUndeclared : Nat := 7

def State.setBelief (s : State) (n x : Nat) : State := s.setRegF (beliefPage + 0x088 + 4 * (n / 8)) (4 * (n % 8)) 4 x

/-! ### Source groups on paths (R219, R226) -/

/-- Groups of Gatehouse scope. -/
def grpGatehouse (g : Nat) : Bool := ([39, 56, 57, 59, 60, 61, 62, 63] : List Nat).contains g

/-- Whether a group lies on a service's path; for LATENT the place of an event decides. -/
def State.grpOn (s : State) (v : SvcSt) (g : Nat) (loc : Option Loc) : Bool :=
  if g < 24 then nbit v.sets (g % 8)
  else if g < 32 then v.onDie (g % 2)
  else if g < 34 then v.drec.twoCopy
  else if g < 36 then v.onDie (g - 34)
  else if g = 36 then false
  else if g < 39 then v.onDie (g - 37)
  else if 40 ≤ g ∧ g < 48 then s.sensorPort v false (g - 40)
  else if 48 ≤ g ∧ g < 52 then s.sensorPort v true (g - 48)
  else if g = 58 then (match loc with | some l => s.onPath v l | none => false)
  else grpGatehouse g

/-- The restart scope that a checker's place gives (R185). -/
def locScope : Loc → Scope
  | .pav p => .pavs (BitVec.ofNat 8 (2 ^ p))
  | .die d => .die d
  | _ => .none

/-- The restart scope of a group (R226). -/
def grpScope (g : Nat) (loc : Option Loc) : Scope :=
  if g < 24 then .pavs (BitVec.ofNat 8 (2 ^ (g % 8)))
  else if g < 32 then .die (g % 2)
  else if g < 34 then .package
  else if g = 34 ∨ g = 35 then .die (g - 34)
  else if g = 37 ∨ g = 38 then .die (g - 37)
  else match loc with | some l => locScope l | none => .none

/-! ### Evidence of a window (R176, R181) -/

/-- A piece of bad evidence: its source, the restart it orders, its cause where that scope is none, and whether it withdraws belief at
once: L3, or a failed restart. -/
structure Bad where
  src : Nat
  scope : Scope
  cause : Option Cause
  hard : Bool
  golden : Bool
  deriving DecidableEq, Repr

/-- What a window says of a service. -/
structure SvcWin where
  v : SvcSt
  bads : List Bad
  /-- Causes of scope none that arose in the window and stand. -/
  fresh : List Cause
  /-- A real run has ended with a checked result. -/
  run : Bool
  deriving DecidableEq, Repr

def setsScope (m : Nat) : Scope := if m = 0 then .none else .pavs (BitVec.ofNat 8 m)

/-- Bad evidence taken in. -/
def SvcWin.bad (w : SvcWin) (b : Bad) : SvcWin :=
  let w := { w with bads := w.bads ++ [b] }
  match b.cause with
  | some c =>
    { w with fresh := if w.fresh.contains c then w.fresh else w.fresh ++ [c],
             v := { w.v with causes := if w.v.causes.contains c then w.v.causes else w.v.causes ++ [c] } }
  | none => w

/-- What bad evidence leaves of a window's good evidence in DOUBTED (R180, R181): none of it is carried forward, and without a cause of
scope none the doubt asks for a golden frame after it. `old` is the service before the window. -/
def SvcWin.settle (w : SvcWin) (st : Nat) (old : SvcSt) : SvcWin :=
  if st ≠ stDoubted ∨ w.bads.isEmpty = true then w
  else
    let ask := w.bads.any (fun b => b.cause.isNone)
    { w with v := { w.v with readmit := none, gold := if ask then none else old.gold, needGold := w.v.needGold || ask } }

/-- Causes cleared at a stamp (R181). -/
def SvcWin.clear (w : SvcWin) (p : Cause → Bool) (at_ : Tick) : SvcWin :=
  if w.v.causes.any p then
    { w with fresh := w.fresh.filter (fun c => !p c),
             v := { w.v with causes := w.v.causes.filter (fun c => !p c), clearAt := some (max at_ (w.v.clearAt.getD 0)) } }
  else w

/-- A real run with a checked result: it completes readmission where what it must follow came before its firing (R181). -/
def SvcWin.checked (w : SvcWin) (st : Nat) (stamp fired : Tick) : SvcWin :=
  let v := { w.v with checked := some (max stamp (w.v.checked.getD 0)), ageGiven := false, miss := 0 }
  let after := decide (v.since < fired) && (match v.clearAt with | some t => decide (t < fired) | none => true)
    && v.causes.isEmpty && (!v.needGold || (match v.gold with | some g => decide (g < fired) | none => false))
  let v := if st = stDoubted ∧ after = true ∧ v.readmit = none then { v with readmit := some stamp } else v
  { w with v := v, run := true }

/-- The outcome of a real run (R173, R176). -/
def SvcWin.ended (w : SvcWin) (st check : Nat) (missA missB : Bool) (fired stamp : Tick) (runSeq : W32) (interrupted : Bool) : SvcWin :=
  let w := { w with v := { w.v with last := (runSeq.toNat, check) } }
  if check = (if w.v.drec.twoCopy then chkPass else chkNone) then w.checked st stamp fired
  else if check = chkFail then ({ w with v := { w.v with miss := 0 } }).bad ⟨1, setsScope w.v.sets, none, false, false⟩
  else if check = chkMissing then
    (if interrupted then w
     else
       let m := w.v.miss + 1
       let w := { w with v := { w.v with miss := m } }
       if w.v.drec.missLimit.toNat < m then
         w.bad ⟨2, setsScope ((if missA then w.v.setA else 0) ||| (if missB then w.v.setB else 0)), none, false, false⟩
       else w)
  else { w with v := { w.v with miss := 0 } }

/-- A sensor source's frame (R181, R207). -/
def SvcWin.frame (w : SvcWin) (src fails : Nat) (stamp : Tick) : SvcWin :=
  if !bit w.v.drec.sensorMask src then w
  else if fails = 0 then
    let n := Tab.get 0 w.v.clean src + 1
    let w := { w with v := { w.v with clean := Tab.set 0 w.v.clean src (min n 3) } }
    if n = 3 then w.clear (fun c => decide (c = .source src)) stamp else w
  else
    let w := { w with v := { w.v with clean := Tab.set 0 w.v.clean src 0 } }
    if 3 ≤ fails then w.bad ⟨4, .none, some (.source src), false, false⟩ else w

/-- One piece of evidence as it bears on service n in a belief state. -/
def State.evStep (s : State) (n st : Nat) (w : SvcWin) (e : Ev) : SvcWin :=
  let v := w.v
  match e.kind with
  | .run svc check missA missB fired seq inter => if svc = n then w.ended st check missA missB fired e.stamp seq inter else w
  | .golden svc fa fb =>
    if svc ≠ n then w
    else
    let before := decide ((s.gold n).fired.getD 0 < v.since)
    if fa || fb then w.bad ⟨3, setsScope ((if fa then v.setA else 0) ||| (if fb then v.setB else 0)), none, false, !before⟩
    else if (st = stUntested ∨ st = stDoubted) ∧ before = true then { w with v := { v with staleGiven := false } }
    else { w with v := { v with gold := some e.stamp, staleGiven := false } }
  | .frame src fails => w.frame src fails e.stamp
  | .checker k pass =>
    if pass then w.clear (fun c => decide (c = .checker k)) e.stamp
    else if s.onPath v (chkLoc k) then
      let sc := locScope (chkLoc k)
      w.bad ⟨5, sc, if sc = .none then some (.checker k) else none, false, false⟩
    else w
  | .group g lvl loc =>
    if s.grpOn v g loc then
      let sc := grpScope g loc
      w.bad ⟨6, sc, if sc = .none then some (.group g) else none, decide (lvl = 3), false⟩
    else w
  | .clear k => w.clear (fun c => match c with | .group g => decide (grpClass g = k) | _ => false) e.stamp
  | .task t => if declHasTask v.drec t then w.bad ⟨2, setsScope v.sets, none, false, false⟩ else w
  | .time r agree =>
    if r = 0 then
      (if agree then w.clear (fun c => decide (c = .replica)) e.stamp
       else if v.drec.sensorMask ≠ 0 then w.bad ⟨7, .none, some .replica, false, false⟩ else w)
    else if agree = false ∧ v.onDie (r - 1) = true then w.bad ⟨7, .die (r - 1), none, false, false⟩ else w
  | .age svc => if svc = n then w.bad ⟨2, setsScope v.sets, none, false, false⟩ else w
  | .stale svc => if svc = n then w.bad ⟨3, setsScope v.sets, none, false, false⟩ else w
  | .fallback svc => if svc = n then w.bad ⟨2, .none, none, false, false⟩ else w

/-- Sets in use (R382). -/
def State.setsInUse (s : State) (v : SvcSt) : SvcSt :=
  let n := v.drec.service.toNat
  let use := fun (k : Nat) (p f : BitVec 8) => if Tab.get false s.plan.onFall (2 * n + k) then f.toNat else p.toNat
  { v with setA := use 0 v.drec.pavA v.drec.fallA, setB := use 1 v.drec.pavB v.drec.fallB }

/-- Restart orders as evidence (R185, R186): sent since the last boundary for units that carry a copy, or failed while waited for. -/
def State.orderEv (s : State) (w : SvcWin) : SvcWin :=
  s.bel.orders.foldl (fun w o =>
    let w := if !o.told && decide (w.v.sets &&& scopePavs o.scope ≠ 0) then w.bad ⟨2, .none, none, false, false⟩ else w
    if o.state = 4 ∧ o.failSeen = false ∧ w.v.orders.contains o.num = true then w.bad ⟨2, .none, none, true, false⟩ else w) w

/-- Everything that a window holds for a service. -/
def State.svcWindow (s : State) (n : Nat) (v : SvcSt) (evs : List Ev) : SvcWin :=
  let w := s.orderEv ⟨s.setsInUse v, [], [], false⟩
  let w := (evs.foldl (s.evStep n (s.beliefOf n)) w).settle (s.beliefOf n) (s.setsInUse v)
  { w with v := { w.v with orders := w.v.orders.filter (fun k => (s.order k).isSome) } }

/-! ### Transitions (R179 to R181) -/

/-- (c) and (d) of R181. -/
def State.pathQuiet (s : State) (v : SvcSt) : Bool :=
  (List.range 64).all (fun g =>
    let l := s.grpLevelNow g
    !(decide (2 ≤ l) && decide (l ≤ 3) && (if g = 58 then s.latentAt.any (s.onPath v) else s.grpOn v g none)))
  && ([0, 1] : List Nat).all (fun d => !v.onDie d || bit (s.reg (bsPage + 0x0C0 + 4 * (d + 1))) 8)
/-- (a), (c) and (d) of R181. -/
def State.pathOk (s : State) (v : SvcSt) : Bool := s.pathQuiet v && s.chksPassed v

/-- The stamp of the last piece of a window's evidence that completes a readmission (R180, R181): the run's end, the end of a restart that
the service waited for, and, where (a), (c) and (d) did not hold at the last boundary, what made them hold. -/
def State.lastPiece (s : State) (v : SvcSt) (evs : List Ev) (readmit : Tick) : Tick :=
  let orders := s.bel.orders.foldl (fun a o => if o.state = 3 ∧ v.orders.contains o.num = true then max a o.overAt else a) readmit
  if v.pathWas then orders
  else evs.foldl (fun a e =>
    let mine := match e.kind with
      | .checker k pass => pass && s.onPath v (chkLoc k)
      | .clear k => (List.range 64).any (fun g => decide (grpClass g = k) && (decide (g = 58) || s.grpOn v g none))
      | .time r agree => agree && (decide (r = 0) || v.onDie (r - 1))
      | _ => false
    if mine then max a e.stamp else a) orders

/-- Whether a readmission counts where a bound output's grace timer expires at a boundary (R180). -/
def State.inGrace (s : State) (v : SvcSt) (b stamp : Tick) : Bool :=
  (bitsOf 4 v.drec.outputs.toNat).all (fun n => match Tab.get none s.bel.grace n with
    | some (t0, iv) => decide (b < t0 + iv) || decide (stamp < t0 + iv)
    | none => true)

/-- The belief state that a window leads to (R179, R180). -/
def State.nextBelief (s : State) (b : Tick) (st : Nat) (evs : List Ev) (old : SvcSt) (w : SvcWin) : Nat :=
  let v := w.v
  if st ≠ stDistrusted ∧ w.bads.any (fun x => x.hard || (x.golden && decide (st = stDoubted))) = true then stDistrusted
  else if st = stDistrusted then
    if v.orders.isEmpty && v.causes.isEmpty && w.bads.all (fun x => decide (x.scope = .none) && !x.hard) then stUntested else st
  else if st = stUntested then (if v.gold.isSome && s.pathOk v then stAdmitted else st)
  else if !w.bads.isEmpty then (if st = stBelieved then stDoubted else if st = stAdmitted then stUntested else st)
  else if st = stAdmitted then (if w.run then stBelieved else st)
  else if st = stDoubted then
    match v.readmit with
    | some t =>
      if v.orders.isEmpty && v.causes.isEmpty && (!v.needGold || v.gold.isSome) && s.inGrace v b (s.lastPiece old evs t) && s.pathOk v
      then stBelieved else st
    | none => st
  else st

/-- A transition entered in the log (R202), in the model's record layout. -/
def State.transLog (s : State) (n old new src : Nat) (sc : Scope) (runSeq : Nat) : State :=
  let f := Tab.get 0 s.bv.lastFail n
  let r := bytesLE 8 s.cyc.last ++ bytesLE 1 n ++ bytesLE 1 old ++ bytesLE 1 new ++ bytesLE 1 src ++ bytesLE 4 f
    ++ bytesLE 4 (scopeUid sc) ++ bytesLE 4 runSeq ++ bytesLE 8 0
  s.setBel { s.bel with rows := s.bel.rows ++ [(n, r)] }

/-- The rows of a boundary go into the log in service order (R202). -/
def State.transFlush (s : State) : State :=
  let rows := (List.range 64).flatMap (fun n => s.bel.rows.filter (fun r => decide (r.1 = n)))
  let t := rows.foldl (fun t r =>
    { t with win := { t.win with log := Tab.set [] t.win.log t.bel.logIx r.2 }, bel := { t.bel with logIx := (t.bel.logIx + 1) % 1792 } }) s
  t.setBel { t.bel with rows := [] }

/-- A service enters a belief state at the boundary (R179): entry into DISTRUSTED latches every bound output. -/
def State.enterBelief (s : State) (n new src : Nat) (sc : Scope) (v : SvcSt) (fresh : List Cause) : State :=
  let old := s.beliefOf n
  if new = old then s.setSvc n (some v)
  else
    let v := { v with since := s.cyc.last }
    let v := if new = stUntested ∨ new = stDoubted then
        { v with gold := none, readmit := none, causes := fresh, miss := if new = stUntested then 0 else v.miss }
      else v
    let v := if new = stUntested then { v with needGold := false } else v
    let t := ((s.setSvc n (some v)).setBelief n new).transLog n old new src sc v.last.1
    let t := if new = stDoubted then t.count (beliefPage + 0x0BC) else t
    let t := if new = stBelieved ∧ old = stDoubted then t.count (beliefPage + 0x0C0) else t
    if new = stDistrusted then (t.setLatches v.drec.outputs.toNat lcVerdict).count (beliefPage + 0x0C4) else t

/-- One service weighed at a boundary: its transition, and the restarts that its bad evidence orders. -/
def State.weigh (s : State) (b : Tick) (evs : List Ev) (n : Nat) (v : SvcSt) : List Scope × State :=
  let st := s.beliefOf n
  let w := s.svcWindow n v evs
  let new := s.nextBelief b st evs v w
  let top := match (w.bads.filter (fun x => x.hard)).getLast? with | some x => some x | none => w.bads.getLast?
  let scopes := (w.bads.map (fun x => x.scope)).filter (fun x => decide (x ≠ .none))
  let v := { w.v with src := match top with | some x => x.src | none => w.v.src, pathWas := s.pathOk w.v }
  let v := if st = stBelieved ∧ new = stDoubted then { v with needGold := w.bads.any (fun x => x.cause.isNone) } else v
  (scopes, s.enterBelief n new (match top with | some x => x.src | none => 0) (scopes.headD .none) v w.fresh)

/-! ### Restarts (R185) -/

/-- The restarts that a window asks for: those that an outstanding order covers are left out, the others merged and sent (R185). -/
def State.orderAll (s : State) (want : List Scope) : State :=
  let out := (s.bel.orders.filter (fun o => decide (o.state < 3))).map (fun o => o.scope)
  let want := want.filter (fun sc => !out.any (fun o => scopeCovers o sc))
  if want.contains .package then s.orderRestart .package
  else
    let dies := ([0, 1] : List Nat).filter (fun d => want.contains (.die d))
    let pavs := (List.range 8).filter (fun p =>
      want.any (fun sc => match sc with | .pavs m => bit m p | _ => false) && !dies.contains (p / 4))
    let t := dies.foldl (fun t d => t.orderRestart (.die d)) s
    if pavs.isEmpty then t else t.orderRestart (.pavs (BitVec.ofNat 8 (pavs.foldl (fun m p => m + 2 ^ p) 0)))

/-- Orders told to the services they interrupt, and those over dropped. -/
def State.ordersTold (s : State) : State :=
  let told := s.bel.orders.map (fun o => ({ o with told := true, failSeen := decide (o.state = 4) } : Order))
  s.setBel { s.bel with orders := told.filter (fun o => decide (o.state < 3)) }

/-! ### Verdicts (R183, R184, R234) -/

/-- Services bound to an output, and the verdict that their belief gives: 0 SAFE, 1 ON, 2 DEGRADED. -/
def State.bound (s : State) (n : Nat) : List Nat := (s.svcList.filter (fun e => bit e.2.drec.outputs n)).map (fun e => e.1)
def State.boundVerdict (s : State) (n : Nat) : Nat :=
  let sts := (s.bound n).map s.beliefOf
  if sts.any (fun x => decide (x = stUntested) || decide (x = stAdmitted) || decide (x = stDistrusted)) then 0
  else if sts.all (fun x => decide (x = stBelieved)) then 1 else 2
def State.allBelieved (s : State) (n : Nat) : Bool := (s.bound n).all (fun k => decide (s.beliefOf k = stBelieved))

/-- A grace timer that started at t0 for an interval: kept until the interval is over, when belief is withdrawn from the bound services and
the output latches (R183). -/
def State.graceRun (s : State) (b : Tick) (n t0 iv : Nat) : State :=
  if b < t0 + iv then s.setBel { s.bel with grace := Tab.set none s.bel.grace n (some (t0, iv)) }
  else
    let t := s.setBel { s.bel with grace := Tab.set none s.bel.grace n none }
    let t := (t.bound n).foldl (fun t k => match t.svc k with
      | some v => if t.beliefOf k = stBelieved then t else t.enterBelief k stDistrusted 0 .none v []
      | none => t) t
    if t.latched n then t else t.setLatch n lcVerdict

/-- The grace timer of one output at a boundary (R183): it starts where the verdict is DEGRADED, and stops where the verdict is ON. Once its
interval is over it expires, whatever has made the verdict SAFE meanwhile, and withdraws belief. `held` where a latch set before
the boundary holds the output. -/
def State.graceOne (s : State) (b : Tick) (held : Bool) (n : Nat) : State :=
  let vd := if held then 0 else s.boundVerdict n
  if (s.bound n).isEmpty then s
  else match Tab.get none s.bel.grace n with
    | some (t0, iv) => if vd = 1 then s else s.graceRun b n t0 iv
    | none => if vd = 2 then s.graceRun b n b (500000 * s.regF (beliefPage + 0x048 + 4 * n) 0 13) else s

/-- The verdict of one output (R183, R184), `inForce` where a latch set before the boundary holds it: an output whose verdict becomes
SAFE latches, and its timer stops when it is ON. -/
def State.verdictOne (s : State) (b : Tick) (inForce : Bool) (n : Nat) : State :=
  let none' := (s.bound n).isEmpty
  let vd := if inForce || (!none' && decide (s.boundVerdict n = 0)) then 0 else if none' then 1 else s.boundVerdict n
  let t := if vd = 0 ∧ s.regF (outStatA n) 0 2 ≠ 0 ∧ s.latched n = false then s.setLatch n lcVerdict else s
  let t := if vd ≠ 1 ∧ none' = false then t else t.setBel { t.bel with grace := Tab.set none t.bel.grace n none }
  let timer := Tab.get none t.bel.grace n
  let left := match timer with | some (t0, iv) => (t0 + iv - b) / 500000 | none => 0
  let t : State := { t with safeSince := if vd = 0 ∧ s.regF (outStatA n) 0 2 ≠ 0 then Tab.set 0 t.safeSince n t.frc else t.safeSince }
  t.setReg (outStatA n) (w32 (vd + 4 * b2n (t.latched n) + 8 * b2n timer.isSome + 65536 * left))

/-- The outputs at a boundary (R183, R184, R234): L3 of a Gatehouse-scope group latches all four; grace timers; the latch changes due;
then the verdicts. The latch of a Gatehouse reset precedes every boundary, one at the reset's own tick too. -/
def State.outputs (s : State) (b : Tick) (l3 : Bool) : State :=
  let pre := mask4 (fun n => s.latched n && (decide (Tab.get 0 s.sio.latchAt n < b) || decide (s.regF (soStatA n) 12 4 = lcReset)))
  let t := if l3 then s.setLatches 15 lcVerdict else s
  let t := ([0, 1, 2, 3, 0, 1, 2, 3, 0, 1, 2, 3, 0, 1, 2, 3] : List Nat).foldl (fun t n => t.graceOne b (l3 || nbit pre n) n) t
  let ok := fun (u : State) (n : Nat) => !l3 && u.allBelieved n
  let t := t.resumeEval b (ok t)
  let t := t.autoRelease b (ok t)
  ([0, 1, 2, 3] : List Nat).foldl (fun u n => u.verdictOne b (l3 || (nbit pre n && t.latched n)) n) t

/-! ### A boundary's belief (R178 to R185) -/

/-- Evidence stamped before a boundary is weighed for every declared service but those that a plan switch has just changed; then the
restarts and the verdicts. -/
def State.believe (s : State) (b : Tick) (changed : List Nat) : State :=
  let evs := s.evid.filter (fun e => decide (e.stamp < b))
  let s : State := { s with evid := s.evid.filter (fun e => !decide (e.stamp < b)) }
  let l3 := evs.any (fun e => match e.kind with | .group g lvl _ => grpGatehouse g && decide (lvl = 3) | _ => false)
  let (want, t) := s.svcList.foldl (fun (q : List Scope × State) e =>
    if changed.contains e.1 then q
    else
      let (sc, u) := q.2.weigh b evs e.1 e.2
      (q.1 ++ sc, u)) ([], s)
  ((t.ordersTold).orderAll want).outputs b l3

end Sys2Proof.Machine
end

