-- ==== Sys2Proof/Machine/Declare.lean ====
section
/-! DEFINITION. Declarations and areas at the Gatehouse (R94, R173 to R175, R188), and what a plan switch instant changes (R95, R132,
R137, R179, R209, R326). -/

namespace Sys2Proof.Machine

/-! ### Declarations (R175) -/

def ghDeclStatA : Nat := beliefPage + 0x0B4

/-- The first element of a list that fails a test, with its position. -/
def firstAt {α : Type} (l : List α) (p : α → Bool) : Option (Nat × α) := (l.zipIdx.find? (fun e => p e.1)).map (fun e => (e.2, e.1))

/-- Whether a range lies in its entry's range of slots and overlaps no earlier one (R100, R175). -/
def State.rangeOk (s : State) (d : DeclSet) (i : Nat) (r : RangeRec) : Bool :=
  let e := s.entry d.bank r.entry.toNat
  let lo := if r.proof then e.slotProof else e.slotLive
  let n := match s.netOf e with | some x => x.slotCount | none => 0
  e.valid && decide (lo ≤ r.first.toNat) && decide (r.first.toNat + r.count.toNat ≤ lo + n)
  && (d.ranges.take i).all (fun x =>
    decide (x.first.toNat + x.count.toNat ≤ r.first.toNat) || decide (r.first.toNat + r.count.toNat ≤ x.first.toNat))

/-- Bytes of tolerance data of a plan. -/
def tolData (d : DeclSet) : Nat := d.tols.foldl (fun a t => a + 16 + 8 * t.cols.length) 0

/-- The reason for which a set of declarations is refused (R175), the first in the order of their numbers: reason, service, range. -/
def State.declReason (s : State) (d : DeclSet) : Nat × Nat × Nat :=
  let svc := fun (r : Nat) (x : DeclRec) => (r, x.service.toNat, 0)
  match d.services.find? (fun x => decide (x.proof = 3) || decide (x.resultAge = 0)) with
  | some x => svc 1 x
  | none =>
  if !d.reservedZero || decide (d.mode = 3) then (1, 0, 0)
  else match d.services.find? (fun x => decide (x.outputs ≠ 0) && !x.twoCopy) with
  | some x => svc 2 x
  | none =>
  match d.services.find? (fun x => match s.declRec d.bank x.service.toNat with
    | some y => !(decide (x.twoCopy = y.twoCopy) && decide (x.pavA = y.pavA) && decide (x.pavB = y.pavB) && decide (x.fallA = y.fallA)
        && decide (x.fallB = y.fallB) && decide (x.entry = y.entry))
    | none => true) with
  | some x => svc 3 x
  | none =>
  if 4096 < d.ranges.length ∨ 1024 < d.tols.length ∨ 65536 < tolData d then (4, 0, 0)
  else match d.ranges.zipIdx.find? (fun e => !s.rangeOk d e.2 e.1) with
  | some e => (4, 0, e.2)
  | none =>
  match firstAt d.ranges (fun r => !sigFmt r.fmt.toNat || (match d.tols[r.tol.toNat]? with
    | some t => !tolOk t || decide (t.mode ≠ if r.final then 1 else 0)
    | none => true)) with
  | some e => (5, 0, e.1)
  | none =>
  if ([0, 1] : List Nat).any (fun m => decide (16 < (d.regions.filter (fun r => decide (dramDie (canonical r.base.toNat) = some m))).length))
  then (6, 0, 0)
  else if !s.sio.recOk then (7, 0, 0)
  else if !s.areasOk then (8, 0, 0)
  else (0, 0, 0)

/-- Meaning of DECLARE (R94, R175): the transfer's content is checked; an accepted set waits for the plan switch instant. A message that
fails its check, and with it its transfer, shows reason 1 without a reply (R297). -/
def declare (m : PMsg) (d : DeclSet) (s : State) : State :=
  let (p, t) := s.recv 2 (decide (m.type = 0x13)) m
  match p with
  | none =>
    let x := t.stream 2 idRunPlan
    if m.type ≠ 0x13 ∨ m.src ≠ idRunPlan then t
    else if m.crc = msgCrc idGatehouse m ∧ x.expect = m.seq + 1 ∧ x.xfer = 1 then t.setRegF ghDeclStatA 0 2 1
    else t.setReg ghDeclStatA 0x13#32
  | some bs =>
    let (r, svc, rg) := if bs = declBytes d then t.declReason d else (1, 0, 0)
    let t := t.setReg ghDeclStatA (w32 ((if r = 0 then 2 else 3) + 16 * r + 256 * svc + 65536 * rg))
    let t := t.setBel { t.bel with pend := if r = 0 then some d else none }
    t.sendMsg idGatehouse idRunPlan 0x14 (bytesLE 4 (t.reg ghDeclStatA).toNat)
def execDeclare (m : PMsg) (d : DeclSet) (s : State) : Out := .next (declare m d s)

/-! ### Areas (R188) -/

def bvPage' : Nat := ghPage 0x02

/-- The addresses in force, as an AREAS_REPLY carries them. -/
def State.areasBytes (s : State) : List Byte :=
  ([(bvPage' + 0x044, bvPage' + 0x048), (bvPage' + 0x04C, bvPage' + 0x050), (bsPage + 0x0A0, bsPage + 0x0A4)] : List (Nat × Nat)).flatMap
    (fun e => bytesLE 4 (s.reg e.1).toNat ++ bytesLE 4 (s.regF e.2 0 16))

/-- Whether an AREAS payload passes the checks: each origin area 32 MiB aligned in its own die's stack, the ring 4 KiB aligned in
DRAM. -/
def areasFit (bs : List Byte) : Bool :=
  let a := fun (i : Nat) => ofBytesLE ((bs.drop (8 * i)).take 6)
  decide (bs.length = 24) && ([0, 1] : List Nat).all (fun d => decide (a d % 0x2000000 = 0) && decide (dramDie (a d) = some d))
  && decide (a 2 % 4096 = 0) && (dramDie (canonical (a 2))).isSome

/-- Meaning of AREAS (R188). -/
def areas (m : PMsg) (s : State) : State :=
  let (p, t) := s.recv 2 (decide (m.type = 0x26)) m
  match p with
  | none => t
  | some bs =>
    if t.areasOk then t.sendMsg idGatehouse idGk 0x27 t.areasBytes
    else if !areasFit bs then t.sendMsg idGatehouse idGk 0x27 (List.replicate 24 0)
    else
      let w := fun (o : Nat) => w32 (ofBytesLE ((bs.drop o).take 4))
      let t := ((t.setReg (bvPage' + 0x044) (w 0)).setReg (bvPage' + 0x048) (w 4 &&& 0xFFFF#32)).setReg (bvPage' + 0x04C) (w 8)
      let t := ((t.setReg (bvPage' + 0x050) (w 12 &&& 0xFFFF#32)).setReg (bsPage + 0x0A0) (w 16)).setReg (bsPage + 0x0A4) (w 20 &&& 0xFFFF#32)
      let t : State := { (t.setRegF (bvPage' + 0x024) 0 1 1).setRegF (bsPage + 0x024) 0 1 1 with areasOk := true }
      t.sendMsg idGatehouse idGk 0x27 t.areasBytes
def execAreas (m : PMsg) (s : State) : Out := .next (areas m s)

/-- Meaning of AREAS_REPLY (R188): a message accepted at the I/O die's receiver goes to the firmware. -/
def areasReply (m : PMsg) (s : State) : State :=
  let (p, t) := s.recv 4 (decide (m.type = 0x27)) m
  if p.isSome then t.gkDeliver m else t
def execAreasReply (m : PMsg) (s : State) : Out := .next (areasReply m s)

/-! ### The plan switch instant -/

/-- Proof interval in ms that a declaration asks for (R173). -/
def proofMs (p : BitVec 2) : Nat := if p = 1 then 250 else if p = 2 then 4000 else 1000

/-- A service's golden frames as a plan switch declares it (R20, R209): the sequence starts at 0 when it is first declared, and again with
another package or network. -/
def State.goldDeclare (s : State) (n : Nat) (d : DeclRec) (anew : Bool) : State :=
  let e := s.entry s.activeBank d.entry.toNat
  let key := (e.pkg, Tab.get 0 s.plan.pkgGen e.pkg, e.net)
  let g := s.gold n
  let none' := match s.netOf e with | some x => x.golden.isEmpty | none => true
  let ms := proofMs d.proof
  let g := { g with noGolden := none', declared := ms, pkg := key, index := if g.pkg ≠ key then 0 else g.index }
  let g := if anew then { g with interval := ms, pass := none, due := none, fired := none } else g
  (s.setGold n g).setErrIf none' folPage 3

/-- A service under new declarations (R179): kept where its copies stay on the same sets, else UNTESTED, or no longer declared. Answers
whether the switch row was taken. -/
def State.redeclare (s : State) (d : DeclSet) (n : Nat) : Bool × State :=
  let old := s.svc n
  match d.services.find? (fun x => decide (x.service.toNat = n)), old with
  | none, none => (false, s)
  | none, some v =>
    let t := (s.setSvc n none).transLog n (s.beliefOf n) stUndeclared 0 .none v.last.1
    (true, (t.setBelief n stUndeclared).setBel { t.bel with gone := Tab.set 0 t.bel.gone n t.cyc.last })
  | some x, old =>
    let t := s.goldDeclare n x old.isNone
    let a := x.pavA.toNat
    let b := if x.twoCopy then x.pavB.toNat else 0
    let kept := match old with
      | some v => decide (v.drec.twoCopy = x.twoCopy) && decide (v.setA = a) && (!x.twoCopy || decide (v.setB = b))
      | none => false
    match kept, old with
    | true, some v => (false, t.setSvc n (some { v with drec := x }))
    | _, _ =>
      let m := a ||| b
      let orders := (t.bel.orders.filter (fun o => decide (o.state < 3) && decide (scopePavs o.scope &&& m ≠ 0))).map (fun o => o.num)
      let last := match old with | some v => v.last | none => (0, 0)
      let checked := match old with | some v => v.checked | none => none
      let given := match old with | some v => v.ageGiven | none => false
      let v : SvcSt := ⟨x, a, b, 0, t.cyc.last, 0, checked, given, false, none, orders, false, [], [], none, last, none, false⟩
      (true, ((t.setSvc n (some v)).transLog n (t.beliefOf n) stUntested 0 .none last.1).setBelief n stUntested)

/-- Open gathers abandoned (R95). -/
def State.dropGathers (s : State) : State :=
  let n := (s.plan.gathers.filter (fun e => e.2.isSome)).length
  (s.setPlan { s.plan with gathers := [] }).countN (rpPage + 0x084) n

/-- Result rings in force from the registers (R111). -/
def State.takeRings (s : State) : State :=
  s.setPlan { s.plan with rings := (List.range 64).foldl (fun t k =>
    let a := rpPage + 0x400 + 16 * k
    Tab.set (0, 0) t k ((s.reg a).toNat + 2 ^ 32 * s.regF (a + 4) 0 16, s.reg (a + 8))) [] }

/-- Safety domains at a plan switch (R132): recorded and written where the new bank names a Pavilion, given back elsewhere. -/
def State.switchDomains (s : State) : State :=
  let m := s.safetyPavs s.activeBank
  (List.range 8).foldl (fun t p =>
    if nbit m p then
      let t := if Tab.get 0 t.prevDom p = 0 then { t with prevDom := Tab.set 0 t.prevDom p (1 + (t.domainOf (pavUid p)).toNat) } else t
      t.assignSafety p
    else t.restoreDom p) s

/-- Services bound to the outputs, as registers show them (R200). -/
def State.bindRegs (s : State) : State :=
  ([0, 1, 2, 3] : List Nat).foldl (fun t n =>
    let m := (t.bound n).foldl (fun a k => a + 2 ^ k) 0
    (t.setReg (beliefPage + 0x068 + 8 * n) (w32 (nfld m 0 32))).setReg (beliefPage + 0x06C + 8 * n) (w32 (nfld m 32 32))) s

/-- The plan switch instant (R94, R95): answers the services that take the plan-switch row. -/
def State.planSwitch (s : State) (b : Nat) (d : DeclSet) : List Nat × State :=
  let t := s.tsmSwitch
  let old := match t.bel.decl with | some x => x.ranges | none => []
  let t := (t.setReg rpActiveA (w32 (b + 65536 * d.planId.toNat))).switchStat 2 0 0
  let t := t.dropGathers.takeRings
  let t := t.setPlan { t.plan with switch := none, frameSeq := [], onFall := [], mode := d.mode.toNat, gen := t.plan.gen + 1 }
  let t := t.setBv { t.bv with prev := keepPrev t.bv.runs (t.bv.prev ++ old.map (fun g => (t.bv.gen, g))), gen := t.bv.gen + 1 }
  let t := t.setBel { t.bel with decl := some d, pend := none }
  let t := (List.range 48).foldl (fun t i => t.trigRecord (16 + i) (d.triggers.getD i (List.replicate 8 0))) t
  let t := (t.switchDomains.regionWindows 0).regionWindows 1
  let (ch, t) := (List.range 64).foldl (fun (q : List Nat × State) n =>
    let (c, u) := q.2.redeclare d n
    (if c then q.1 ++ [n] else q.1, u)) ([], t)
  (ch, t.bindRegs)

end Sys2Proof.Machine
end

