-- ==== Sys2Proof/Machine/Cycle.lean ====
section
/-! DEFINITION. Control-cycle boundaries (R172, R178 to R184): the belief engine's turn, golden frames that fall due (R209, R210), the
status window (R202), and verdict instants (R198, R199). -/

namespace Sys2Proof.Machine

/-! ### Golden frames (R209, R210) -/

/-- Whether a proof run of a service has fired and not ended. -/
def State.goldFlying (s : State) (n : Nat) : Bool := s.plan.runs.any (fun r => r.proof && decide (r.svc = n))

/-- A golden run of a service fires with the next INDEX (R209). The Folly's word reaches the run-plan block over the link of the I/O die;
without a path nothing fires (DESIGN CHOICE: R295 names no message that carries it). -/
def State.goldFire (s : State) (n : Nat) (v : SvcSt) : State :=
  let e := v.drec.entry.toNat
  if s.pathStatus 3 2 ≠ 0 then s
  else match s.netOf (s.entry s.activeBank e) with
  | none => s
  | some net =>
    let g := s.gold n
    let top := net.golden.foldl (fun a x => max a x.index.toNat) 0
    let t := s.fireGolden e g.index
    if t.plan.runs.length = s.plan.runs.length then s
    else t.setGold n { t.gold n with index := if top ≤ g.index then 0 else g.index + 1, fired := some t.frc }

/-- Whether a golden run of a service may fire at all: none in flight or being judged, none judged and not yet weighed, and no restart
of its units outstanding. -/
def State.goldFree (s : State) (n : Nat) (v : SvcSt) : Bool :=
  !(s.gold n).noGolden && !(s.gold n).judging && !s.goldFlying n && !(bitsOf 8 v.sets).any s.orderOn
  && !s.evid.any (fun e => match e.kind with | .golden k _ _ => decide (k = n) | _ => false)

/-- Whether admission or readmission asks for a service's golden run (R181, R210). -/
def State.goldWanted (s : State) (n : Nat) (v : SvcSt) : Bool :=
  let st := s.beliefOf n
  (decide (st = stUntested) || (decide (st = stDoubted) && v.needGold))
  && v.gold.isNone && v.orders.all (fun k => (s.order k).isNone) && s.chksPassed v

/-- Whether a service's golden run is due at a boundary (R210): not while it is UNTESTED or DOUBTED. -/
def State.goldTime (s : State) (b : Tick) (n : Nat) : Bool :=
  (s.gold n).due.any (fun d => decide (d ≤ b)) && decide (s.beliefOf n ≠ stUntested) && decide (s.beliefOf n ≠ stDoubted)

/-- The golden runs that fire at a boundary (R210), in service-number order. -/
def State.goldAsked (s : State) (b : Tick) : State :=
  s.svcList.foldl (fun t e =>
    if (t.goldWanted e.1 e.2 || t.goldTime b e.1) && t.goldFree e.1 e.2 then t.goldFire e.1 e.2 else t) s

/-! ### Ages (R176) -/

/-- Meaning of RESULT_AGE_EXPIRY: judged at the boundary, while ADMITTED or BELIEVED. -/
def resultAge (n : Nat) (s : State) : State :=
  match s.svc n with
  | some v =>
    let base := max (v.checked.getD 0) v.since
    if (s.beliefOf n = stAdmitted ∨ s.beliefOf n = stBelieved) ∧ v.ageGiven = false ∧ base + 500000 * v.drec.resultAge.toNat < s.cyc.last then
      let t := s.setSvc n (some { v with ageGiven := true })
      { t with evid := t.evid ++ [⟨s.cyc.last, .age n⟩] }
    else s
  | none => s
def execResultAgeExpiry (n : Nat) (s : State) : Out := onUnit (decide (n < 64)) (resultAge n s)

/-- Meaning of PROOF_STALE: judged at the boundary, while ADMITTED, BELIEVED or DOUBTED, against twice the longer interval (R20). -/
def proofStale (n : Nat) (s : State) : State :=
  let st := s.beliefOf n
  match s.svc n, (s.gold n).pass with
  | some v, some p =>
    let lim := 1000000 * max (s.gold n).interval (s.gold n).declared
    if (st = stAdmitted ∨ st = stBelieved ∨ st = stDoubted) ∧ v.staleGiven = false ∧ p + lim < s.cyc.last then
      let t := s.setSvc n (some { v with staleGiven := true })
      { t with evid := t.evid ++ [⟨s.cyc.last, .stale n⟩] }
    else s
  | _, _ => s
def execProofStale (n : Nat) (s : State) : Out := onUnit (decide (n < 64)) (proofStale n s)

/-- What the last boundary has left to judge: task windows, ages, stale proof. -/
def State.leftovers (s : State) : State :=
  if s.cyc.count = 0 then s
  else
    let t := s.tasksJudge.tsmServe
    t.svcList.foldl (fun t e => proofStale e.1 (resultAge e.1 t)) t

/-! ### The status window (R200, R202) -/

/-- GH_SVC_DETAIL and GH_SVC_SINCE of a service (R200). -/
def State.svcDetail (s : State) (n : Nat) : Nat :=
  match s.svc n with
  | none => stUndeclared
  | some v =>
    let age := match (s.gold n).pass with | some p => satN 16 ((s.frc - p) / 5000000) | none => 0
    s.beliefOf n + 16 * v.src + 256 * satN 4 v.miss + 65536 * age
def State.svcSince (s : State) (n : Nat) : Nat :=
  nfld (match s.svc n with | some v => v.since | none => Tab.get 0 s.bel.gone n) 16 32

/-- A service record, in the model's layout of its 64 bytes. -/
def State.svcRecord (s : State) (n : Nat) : List Byte :=
  let (outs, last, age) := match s.svc n with
    | some v => (v.drec.outputs.toNat, v.last, match v.checked with | some t => (s.frc - t) / 500000 | none => 0)
    | none => (0, (0, 0), 0)
  bytesLE 4 (s.svcDetail n) ++ bytesLE 4 (s.svcSince n) ++ bytesLE 4 outs ++ bytesLE 4 last.1 ++ bytesLE 4 last.2
    ++ bytesLE 4 (Tab.get 0 s.bv.lastFail n) ++ bytesLE 4 age ++ List.replicate 36 0

/-- The status window rewritten at a boundary (R202). -/
def State.statusWindow (s : State) : State :=
  let regs := fun (a n : Nat) => (List.range n).flatMap (fun i => bytesLE 4 (s.reg (a + 4 * i)).toNat)
  let ver := imgW (Tab.get [] s.sec.flash s.sec.running) 2
  let head := bytesLE 4 ver ++ bytesLE 8 s.cyc.last ++ bytesLE 4 s.bel.logIx ++ List.replicate 44 0
    ++ regs (beliefPage + 0x058) 4 ++ regs (beliefPage + 0x088) 8 ++ regs (beliefPage + 0x0B4) 2 ++ regs (fcPage + 0x040) 2
  { s with win := { s.win with gen := s.win.gen + 2, head := head, svcs := (List.range 64).flatMap s.svcRecord } }

/-- A byte of the status window; every other offset reads 0. -/
def State.winByte (s : State) (o : Nat) : Byte :=
  if o < 4 then (bytesLE 4 s.win.gen.toNat).getD o 0
  else if o < 0x80 then s.win.head.getD (o - 4) 0
  else if o < 0xB8 then s.win.verdict.getD (o - 0x80) 0
  else if 0x1000 ≤ o ∧ o < 0x2000 then s.win.svcs.getD (o % 0x1000) 0
  else if 0x2000 ≤ o then (Tab.get [] s.win.log (o / 32 - 256)).getD (o % 32) 0
  else 0

/-! ### The verdict (R18, R198) -/

/-- Whether a safe-input pair is healthy and in its run state: bit k of byte 48 of the verdict. -/
def State.pairRuns (s : State) (k : Nat) : Bool :=
  decide (s.siFunc k ≠ 0) && decide (s.siState false k = prRun)
  && (decide (s.siFunc k ≠ fnEstop) || decide (s.siState true k = prRun))

/-- FC_STAT's highest class level, 7 while all are clear (R237). -/
def State.topLevel (s : State) : Nat :=
  let ls := ((List.range 16).map s.fcLevel).filter (fun l => decide (l ≠ 7))
  if ls.isEmpty then 7 else ls.foldl max 0

/-- The verdict's 56 bytes (R198). -/
def State.verdictBytes (s : State) : List Byte :=
  let p := s.ptAt s.cyc.last
  let out := fun (n : Nat) =>
    let r := s.reg (outStatA n)
    fld r 0 2 + 4 * b2n (s.latched n) + 8 * b2n (!s.lsWanted n)
  let left := fun (n : Nat) => match Tab.get none s.bel.grace n with
    | some (t0, iv) => (t0 + iv - s.cyc.last) / 10000000
    | none => 255
  let bel := (List.range 64).foldl (fun a n => a + (s.beliefOf n % 8) * 2 ^ (3 * n)) 0
  let b := s.activeBank
  let deg := ([0, 1, 2, 3] : List Nat).any (fun n => decide (s.regF (outStatA n) 0 2 = 2))
  bytesLE 4 (p % secUnits / 65536) ++ bytesLE 4 (p / secUnits)
  ++ ([0, 1, 2, 3] : List Nat).map (fun n => BitVec.ofNat 8 (out n)) ++ ([0, 1, 2, 3] : List Nat).map (fun n => BitVec.ofNat 8 (left n))
  ++ bytesLE 24 bel ++ bytesLE 4 (s.regF rpActiveA 16 16 + 65536 * b + 2 ^ 17 * s.plan.mode)
  ++ bytesLE 4 (s.topLevel + 8 * b2n deg)
  ++ bytesLE 4 ((List.range 16).foldl (fun a k => a + b2n (s.pairRuns k) * 2 ^ k) 0)
  ++ bytesLE 4 (s.cyc.verdictCycles + 65536 * s.cyc.us)

/-! ### Boundaries (R172) -/

/-- The cycle goes on to its next boundary: at a verdict instant a new GH_CYCLE and VERDICT_CYCLES take effect (R172). -/
def State.cycleOn (s : State) (b : Tick) : State :=
  let c := s.cyc
  let v := decide (c.verdictCycles ≤ c.since + 1)
  let us := if v then s.regF (beliefPage + 0x040) 0 14 else c.us
  let n := if v then s.regF (beliefPage + 0x044) 0 7 else c.verdictCycles
  { s with cyc := { c with last := b, next := some (b + 500 * us), count := c.count + 1, us := us, verdictCycles := n,
                           since := if v then 0 else c.since + 1, verdicts := c.verdicts } }

/-- Bites whose first boundary this is (R277). -/
def State.biteBounds (s : State) (b : Tick) : State :=
  (List.range 14).foldl (fun t w =>
    if t.wdState w = wdBitten ∧ (t.wd w).boundary = none then t.setWd w { t.wd w with boundary := some b } else t) s

/-- A pending switch that the Gatehouse has accepted before a boundary, with what it declared. -/
def State.switchDue (s : State) (b : Tick) : Option (Nat × DeclSet) :=
  match s.plan.switch, s.bel.pend with
  | some x, some d => match x.accepted with
    | some t => if t < b ∧ d.bank = x.bank then some (x.bank, d) else none
    | none => none
  | _, _ => none

/-- A control-cycle boundary (R172, R178 to R184, R202). At a verdict instant the verdict of this boundary is made up, to be sent (R18,
R198). -/
def State.boundary (s : State) (b : Tick) : State :=
  let instant := decide (s.cyc.verdictCycles ≤ s.cyc.since + 1)
  let t := (s.leftovers.cycleOn b).trigFired 0 none
  let t := t.biteBounds b
  let (ch, t) := match t.switchDue b with
    | some (bank, d) => t.planSwitch bank d
    | none => ([], t)
  let t := ((t.believe b ch).transFlush).goldAsked b
  let t := (t.applySched).drive
  let t := (t.icuPulse 0 1).tsmServe
  let t : State := if instant then
      let c := t.verdictBytes
      { t with cyc := { t.cyc with verdicts := t.cyc.verdicts ++ [c] }, win := { t.win with verdict := c } }
    else t
  t.statusWindow

/-- Meaning of TRIGGER_CYCLE (R172, R183). -/
def triggerCycle (s : State) : State :=
  match s.cyc.next with
  | some b => if b ≤ s.frc then s.boundary b else s
  | none => s
def execTriggerCycle (s : State) : Out := .next (triggerCycle s)

/-- Meaning of GOLDEN_DUE (R210): the first boundary at or after the due time at which no restart of its units is outstanding. -/
def goldenDue (n : Nat) (s : State) : State :=
  match s.cyc.next, s.svc n with
  | some b, some v => if b ≤ s.frc ∧ s.goldTime b n = true ∧ s.goldFree n v = true then s.boundary b else s
  | _, _ => s
def execGoldenDue (n : Nat) (s : State) : Out := onUnit (decide (n < 64)) (goldenDue n s)

/-- Meaning of GRACE_EXPIRY (R183): the boundary at which an output's timer expires. -/
def graceExpiry (n : Nat) (s : State) : State :=
  match s.cyc.next, Tab.get none s.bel.grace n with
  | some b, some (t0, iv) => if b ≤ s.frc ∧ t0 + iv ≤ b then s.boundary b else s
  | _, _ => s
def execGraceExpiry (n : Nat) (s : State) : Out := onUnit (decide (n < 4)) (graceExpiry n s)

/-- Meaning of VERDICT_INSTANT (R198, R199, R354, R415 to R417): the verdict leaves on the segment after the delay that traffic there
causes, in ticks, and its collisions; then the domain records are to be fetched and the request block is read. -/
def verdictInstant (delay collisions : Nat) (s : State) : State :=
  match s.cyc.verdicts with
  | [] => s
  | c :: rest =>
    let t : State := { s with cyc := { s.cyc with verdicts := rest } }
    let vda := (t.reg (t1sPage + 0x04C)).toNat + 2 ^ 32 * t.regF (t1sPage + 0x050) 0 16
    let t := t.t1sSend idBroadcast vda 0x30 c (t.frc + delay)
    let t := if delay = 0 then t else
      let us := satN 16 ((delay + 499) / 500)
      let t := t.count (t1sPage + 0x068)
      if (t.regF (t1sPage + 0x06C) 0 16) < us then t.setReg (t1sPage + 0x06C) (w32 us) else t
    let t := t.countN (t1sPage + 0x064) collisions
    let t : State := { t with bs := { t.bs with fetch := true } }
    t.secInstant.gkRom
def execVerdictInstant (delay collisions : Nat) (s : State) : Out := .next (verdictInstant delay collisions s)

end Sys2Proof.Machine
end

