-- ==== Sys2Proof/Machine/RegRead.lean ====
section
/-! DEFINITION. What a register reads as (R4 to R6, R466 to R472 and each chapter's register page): the value held, or the one that
the block derives, and the effect of the reads that have one. -/

namespace Sys2Proof.Machine

/-! ### The header (R466 to R472) -/

/-- BLK_ID of a page (R467). -/
def blkId (k : PageKind) : W32 := w32 (0x00010100 + k.type * 2 ^ 20)

/-- BLK_CAP of a page (R468). -/
def blkCap (k : PageKind) (page : Nat) : W32 :=
  let n := pageCheckers page
  w32 (b2n (decide (0 < n)) + 2 * b2n (k.rows.any (fun r => decide (r.acc = .rwl))) + 16 * n)

/-- BLK_DOMAIN of a page (R472). -/
def State.blkDomain (s : State) (page : Nat) : W32 :=
  match winUnit page with
  | some u => w32 (s.domainOf u).toNat
  | none => if page < 0x100000000 then 0xF00#32 else 1#32

/-- BLK_STAT of a unit (R14, R374): the worst STATE over the present units below it, and flags that one of them shows. -/
def State.unitStat (s : State) (u : UnitId) : W32 :=
  if s.isAbsent u then 0
  else
    let own := s.reg (statAt u)
    ((unitsOf u).filter (fun v => !s.isAbsent v)).foldl (fun a v =>
      let x := s.reg (statAt v)
      let y := setFld a 0 3 (max (fld a 0 3) (fld x 0 3))
      setFld (setFld y 3 3 (fld a 3 3 ||| fld x 3 3)) 16 16 (max (fld a 16 16) (fld x 16 16))) own

/-- A header register (R466). -/
def State.headRead (s : State) (k : PageKind) (page off : Nat) : W32 :=
  if off = 0x000 then blkId k
  else if off = 0x004 then blkCap k page
  else if off = 0x00C then w32 (min (s.regF (page + 0x008) 0 2) 1)
  else if off = 0x014 then
    (match k, winUnit page with
     | .unit, some u => s.unitStat u
     | _, _ => s.reg (page + off))
  else if off = 0x028 then s.blkDomain page
  else s.reg (page + off)

/-! ### Unit windows (R82 to R86, R475, R476) -/

/-- Word k of the generator's state. -/
def genWord (g : BitVec 128) (k : Nat) : W32 := w32 (nfld g.toNat (32 * k) 32)

def State.unitRead (s : State) (u : UnitId) (page off : Nat) : W32 :=
  if off = 0x040 then w32 u.toNat
  else if 0x048 ≤ off ∧ off ≤ 0x054 then (if uLevel u = 0 then genWord (s.core u).gen ((off - 0x048) / 4) else 0)
  else s.reg (page + off)

def State.coreRead (s : State) (u : UnitId) (page off : Nat) : W32 :=
  let c := s.core u
  if off = 0x040 then w32 (s.phys u + 256 * b2n (decide (s.phys u = 16)))
  else if off = 0x058 then (c.queue 1).stat
  else if off = 0x064 then c.pc
  else if off = 0x074 then w32 (nfld (s.coreCycles u).toNat 0 32)
  else if off = 0x078 then w32 (nfld (s.coreCycles u).toNat 32 32)
  else s.reg (page + off)

def State.sigRead (s : State) (u : UnitId) (page off : Nat) : W32 :=
  let c := s.core u
  if off = 0x048 then
    w32 (([0, 1, 2, 3] : List Nat).foldl (fun a n => a + b2n (s.ctxOpen u n) * 2 ^ n + b2n (c.ctxBusy n) * 2 ^ (4 + n)) 0
      + 256 * c.sigQ.length)
  else if off = 0x04C then c.sigSent
  else s.reg (page + off)

def State.dmaRead (s : State) (u : UnitId) (page off : Nat) : W32 :=
  let c := s.core u
  if 0x040 ≤ off ∧ off < 0x050 then (c.queue (2 + (off - 0x040) / 4)).stat
  else if 0x050 ≤ off ∧ off < 0x060 then w32 (c.queue (2 + (off - 0x050) / 4)).failed
  else s.reg (page + off)

/-! ### Instances of controllers, watchdogs, firewalls and links -/

/-- The instance of an interrupt controller, watchdog, firewall, check-value unit, receiver or link end by its page. -/
def icuInst (page : Nat) : Nat := ((List.range 10).find? (fun i => decide (icuPage i = page))).getD 0
def wdInst (page : Nat) : Nat := ((List.range 14).find? (fun i => decide (wdPage i = page))).getD 0
def fwInst (page : Nat) : Nat := ((List.range 11).find? (fun i => decide (fwPage i = page))).getD 0
def linkInst (page : Nat) : Nat := ((List.range 12).find? (fun i => decide (linkPageOf i = page))).getD 0
def cvuInst (page : Nat) : Nat := ((List.range 8).find? (fun i => decide (cvuPage i = page))).getD 0
def pmInst (page : Nat) : Nat := ((List.range 5).find? (fun i => decide (pmPage i = page))).getD 0

/-- ICU page (R271). -/
def State.icuRead (s : State) (page off : Nat) : W32 :=
  let i := icuInst page
  if off = 0x040 then w32 (icuCount i + icuTargets i * 65536)
  else if 0x060 ≤ off ∧ off < 0x0A0 then
    let t := (off - 0x060) / 0x10
    if icuTargets i ≤ t then 0 else if off % 0x10 = 12 then s.icuRunSeen i t else s.reg (page + off)
  else if 0x100 ≤ off ∧ off < 0x120 then s.icuMap i icuPend ((off - 0x100) / 4)
  else if 0x140 ≤ off ∧ off < 0x160 then s.icuMap i icuOver ((off - 0x140) / 4)
  else if 0x180 ≤ off ∧ off < 0x1A0 then s.icuMap i icuInsv ((off - 0x180) / 4)
  else if 0x800 ≤ off ∧ icuCount i ≤ (off - 0x800) / 8 then 0
  else s.reg (page + off)

/-- Watchdog page (R279). -/
def State.wdRead (s : State) (page off : Nat) : W32 :=
  let w := wdInst page
  if off = 0x050 then w32 (nfld (s.wdCount w) 0 24)
  else if off = 0x054 then setBit (s.reg (page + off)) 3 (wdClassD w)
  else s.reg (page + off)

/-- Firewall page (R138). -/
def State.fwRead (s : State) (page off : Nat) : W32 :=
  let i := fwInst page
  if off = 0x040 then fwCfg i
  else if 0x100 ≤ off ∧ fwCount i ≤ (off - 0x100) / 0x10 then 0
  else s.reg (page + off)

/-- Collective contexts that requests hold at a node: 0 to 7 the hubs, 8 and 9 the Promenades (R160). -/
def State.collUsed (s : State) (node : Nat) : Nat :=
  (s.reqs.filter (fun e => match e.2 with | some r => r.nodes.contains node | none => false)).length

/-- FAB_COLL_STAT (R168). -/
def State.collStat (s : State) (d : Nat) : W32 :=
  w32 (s.collUsed (8 + d) + ([0, 1, 2, 3] : List Nat).foldl (fun a h => a + s.collUsed (4 * d + h) * 2 ^ (16 + 4 * h)) 0)

/-- Check-value unit page (R288, R290). -/
def State.cvuRead (s : State) (page off : Nat) : W32 :=
  let u := cvuInst page
  if off = 0x05C then w32 (nfld (s.cvuRunSeen u) 0 32)
  else if off = 0x060 then w32 (nfld (s.cvuRunSeen u) 32 32)
  else if off = 0x064 then w32 (nfld (s.cvuResult u) 0 32)
  else if off = 0x068 then w32 (nfld (s.cvuResult u) 32 32)
  else if off = 0x074 then setBit (s.reg (page + off)) 0 (s.cvuIdle u)
  else s.reg (page + off)

/-- Receiver page (R302). -/
def State.pmRead (s : State) (page off : Nat) : W32 :=
  let r := pmInst page
  if off = 0x040 then
    w32 (min (s.streamsUsed r) 4095 + 65536 * b2n (s.streams.any (fun e => decide (e.1 / 65536 = r) && decide (e.2.xfer = 1))))
  else if off = 0x070 then
    let p := s.stream r (BitVec.ofNat 16 (s.regF (page + 0x06C) 0 16))
    if p.seen then w32 (p.expect.toNat + 65536 * satN 16 ((s.frc - p.last) / 500000)) else 0
  else s.reg (page + off)

/-! ### The I/O die (R361, R362, R403, R448, R450) -/

/-- Calibration page (R450): an item that the instance does not serve reads 0. -/
def State.calRead (s : State) (inst off : Nat) : W32 :=
  let page := calPage inst
  let i := s.regF (page + 0x040) 0 8
  if off = 0x040 then s.reg (page + off)
  else if !calServed inst i then 0
  else
    let i32 := fun (x : Int) => BitVec.ofInt 32 x
    let (e, uc, ec) := s.calEff i
    let (ulo, uhi) := calUserRange i
    let (elo, ehi) := calEffRange i
    if off = 0x044 then i32 (s.calFactory i)
    else if off = 0x048 then i32 (s.calUser i)
    else if off = 0x04C then i32 ulo
    else if off = 0x050 then i32 uhi
    else if off = 0x054 then i32 elo
    else if off = 0x058 then i32 ehi
    else if off = 0x05C then i32 e
    else
      let finished := match calTarget i with
        | some (a, lo, n) => decide (s.regF a lo n ≠ ibits n e)
        | none => false
      w32 (b2n uc + 2 * b2n ec + 4 * b2n finished + 8 * b2n (calRegister i) + 16 * b2n (s.calValid i) + 32 * b2n (calMul i))

/-- Power page (R403): the selected sensor. -/
def State.pwrRead (s : State) (page off : Nat) : W32 :=
  if off = 0x0C4 then w32 (ibits 12 (Tab.get 0 s.pwr.temps (s.regF (page + 0x0C0) 0 7)))
  else if off = 0x044 then setBit (s.reg (page + off)) 8 (!s.killed)
  else s.reg (page + off)

/-- Sensor source page (R361). -/
def State.snsRead (s : State) (page off : Nat) : W32 :=
  if 0x100 ≤ off ∧ off < 0x500 ∧ off % 0x20 = 0x1C then
    let n := (off - 0x100) / 0x20
    let x := s.rxs n
    w32 (x.buf.getD 0 % 8 + 256 * (x.order.filter (fun b => s.frameHeld n (x.bufAt b))).length + 65536 * (x.arrived % 65536))
  else s.reg (page + off)

/-- CSI-2 port page (R362): the clock lane of an enabled port is taken to be active and its lanes to be aligned. -/
def State.csiRead (s : State) (page off : Nat) : W32 :=
  if off = 0x048 then
    let k := page / 0x1000 % 0x1000 - 0x051
    let on := bit (Tab.get 0 s.rx.csi k) 0
    w32 (b2n on + 2 * b2n on + 65536 * ((s.portSrcs false k).foldl (fun a n => a + (s.rxs n).ended) 0 % 65536))
  else s.reg (page + off)

/-! ### The Gatehouse -/

/-- Belief page (R200). -/
def State.beliefRead (s : State) (off : Nat) : W32 :=
  let sel := s.regF (beliefPage + 0x0A8) 0 6
  if off = 0x0AC then w32 (s.svcDetail sel)
  else if off = 0x0B0 then w32 (s.svcSince sel)
  else s.reg (beliefPage + off)

/-- Belvedere page (R201). -/
def State.bvRead (s : State) (off : Nat) : W32 :=
  if off = 0x040 then
    w32 (b2n s.bv.scrub.isSome + 2 * satN 4 s.bv.queue.length + 65536 * (s.bv.runs.filter (fun e => e.2.isSome)).length)
  else if off = 0x05C then
    let slot := s.regF (bvPage + 0x058) 0 20
    w32 (s.slotState slot % 4 + 4 * b2n (!(s.stateRead slot).1))
  else s.reg (bvPage + off)

/-- Folly page (R220). -/
def State.folRead (s : State) (off : Nat) : W32 :=
  if off = 0x040 then
    let lanes := (List.range 12).foldl (fun a l => a + b2n (Tab.get none s.fol.lanes l).isSome * 2 ^ l) 0
    w32 (lanes + 65536 * satN 12 (s.fol.chks.filter (fun e => e.2.overdue)).length)
  else if off = 0x04C then
    match (List.range chkCount).find? (fun n => decide (s.chkSel n = s.reg (folPage + 0x048))) with
    | none => 0
    | some n =>
      let c := s.chk n
      let st := if c.failed then 3 else if c.overdue then 2 else if c.pass.isSome then 1 else 0
      let age := match c.pass with | some t => satN 16 ((s.frc - t) / 500000) | none => 0
      w32 (st + 4 * c.left + 65536 * age)
  else if off = 0x060 then
    let n := s.regF (folPage + 0x05C) 0 6
    let g := s.gold n
    let r := s.plan.runs.find? (fun r => r.proof && decide (r.svc = n))
    let (d, f) := match r with | some r => (r.defer, r.forced) | none => (0, false)
    let age := match g.pass with | some p => satN 16 ((s.frc - p) / 5000000) | none => 0
    w32 (min d 9 + 16 * b2n f + 32 * b2n r.isSome + 64 * b2n g.noGolden + 256 * (g.index % 16) + 65536 * age)
  else if off = 0x064 then
    match (s.gold (s.regF (folPage + 0x05C) 0 6)).due with
    | some t => w32 (nfld t 16 32)
    | none => 0
  else s.reg (folPage + off)

/-- Fault collector page (R237). -/
def State.fcRead (s : State) (off : Nat) : W32 :=
  let g := s.regF (fcPage + 0x058) 0 6
  let x := s.fcGroup g
  if off = 0x048 then
    w32 (s.topLevel + 8 * b2n ((List.range 16).any s.fcHeld)
      + 65536 * (List.range 16).foldl (fun a k => a + b2n (decide (s.fcLevel k ≠ 7)) * 2 ^ k) 0)
  else if off = 0x05C then
    w32 (grpClass g + 16 * grpLevel g + 64 * b2n (s.fcLatched g) + 128 * b2n (s.grpHigh g) + 256 * b2n x.injected
      + 512 * b2n x.forced + 65536 * x.events.toNat)
  else if off = 0x060 then w32 (x.unit.toNat + 65536 * x.page)
  else if off = 0x064 then w32 x.errBit
  else if off = 0x068 then w32 (nfld x.time 16 32)
  else s.reg (fcPage + off)

/-- Safety I/O page (R261). -/
def State.sioRead (s : State) (off : Nat) : W32 :=
  if off = 0x040 then
    let pairs := (List.range 16).foldl (fun a k => a + b2n (s.pairRuns k) * 2 ^ k) 0
    let outs := ([0, 1, 2, 3] : List Nat).foldl (fun a n => a + b2n (s.latched n) * 2 ^ (24 + n) + b2n (s.locked n) * 2 ^ (28 + n)) 0
    w32 (pairs + fld (s.reg sioStatA) 16 8 * 65536 + outs)
  else if off = 0x060 then w32 (([0, 1, 2, 3] : List Nat).foldl (fun a n => a + b2n (s.latched n) * 2 ^ n) 0)
  else if 0x200 ≤ off ∧ off < 0x220 ∧ off % 8 = 4 then
    let n := (off - 0x200) / 8
    let last := max (Tab.get 0 s.sio.darkPass (2 * n)) (Tab.get 0 s.sio.darkPass (2 * n + 1))
    setFld (s.reg (sioPage + off)) 16 16 (satN 16 ((s.frc - last) / 500000))
  else s.reg (sioPage + off)

/-- Task sequence monitor page (R283). -/
def State.tsmRead (s : State) (off : Nat) : W32 :=
  if 0x800 ≤ off then
    let t := (off - 0x800) / 4
    setFld (s.reg (tsmPage + off)) 16 8 (if s.taskOn t || s.taskDeclared t then s.taskLeft t % 256 else 0)
  else s.reg (tsmPage + off)

/-- Bandstand page (R331, R332): entry 0 shows the control cycle in force (R327). -/
def State.bsRead (s : State) (off : Nat) : W32 :=
  if (off = 0x104 ∨ off = 0x144) ∧ s.domValid ((off - 0x104) / 0x40) = true then
    let d := (off - 0x104) / 0x40
    setFld (s.reg (bsPage + off)) 16 16 (satN 16 ((s.frc - Tab.get 0 s.bs.domAt d) / 500000))
  else if off = 0x408 then w32 (nfld (s.cyc.next.getD 0) 0 32)
  else if off = 0x40C then w32 (nfld (s.cyc.next.getD 0) 32 32)
  else if off = 0x414 then (if s.cyc.next.isSome then w32 (500 * s.cyc.us) else 0)
  else s.reg (bsPage + off)

/-- Power page of the Gatehouse (R404). -/
def State.ghPwrRead (s : State) (off : Nat) : W32 :=
  if off = 0x050 then w32 (satN 16 (s.rail (s.regF (ghPwrPage + 0x04C) 0 4)).mv) else s.reg (ghPwrPage + off)

/-- Grotto page (R426). -/
def State.grtRead (s : State) (off : Nat) : W32 :=
  let x := s.sec
  if off = 0x040 then
    w32 (b2n s.idReady + 2 * b2n s.idSpent + 4 * b2n s.treeBuild + 16 * x.scopes.toNat + 256 * (x.active % 2) + 512 * b2n x.try_
      + 1024 * (x.running % 2))
  else if off = 0x044 then w32 (([0, 1, 2, 3] : List Nat).foldl (fun a r => a + (s.arbOf r % 256) * 2 ^ (8 * r)) 0)
  else if off = 0x048 then w32 (s.arbOf 4 % 256)
  else if off = 0x04C then w32 x.revoked.toNat
  else if off = 0x050 then w32 (min (x.block.getD 0) (2 ^ 20 - 1) + 2 ^ 20 * (x.nextSig % 1024))
  else if off = 0x054 then w32 (nfld x.serial.toNat 0 32)
  else if off = 0x058 then w32 (nfld x.serial.toNat 32 32)
  else if 0x060 ≤ off ∧ off < 0x080 then
    let m := Tab.get (List.replicate 32 0) x.mr (s.regF (grtPage + 0x05C) 0 3)
    w32 (ofBytesLE ((m.drop (off - 0x060)).take 4))
  else s.reg (grtPage + off)

/-- 10BASE-T1S page (R364). -/
def State.t1sRead (s : State) (off : Nat) : W32 :=
  if off = 0x058 then w32 (b2n s.coordinator + 2 * b2n s.t1s.foreign.isSome + 4 * b2n s.quiet)
  else if 0x110 ≤ off ∧ off < 0x180 ∧ off % 0x10 = 12 then
    let p := s.stream 3 (peerId ((off - 0x100) / 0x10))
    setFld (s.reg (t1sPage + off)) 16 16 (if p.seen then satN 16 ((s.frc - p.last) / 500000) else 0)
  else s.reg (t1sPage + off)

/-- Service page (R465): the level of the SERVICE pin shows where access is granted. -/
def State.svcRead (s : State) (off : Nat) : W32 :=
  if off = 0x040 then
    let held := match s.svcFrom with | some t => satN 16 ((s.frc - t) / 500000 + 1000) | none => 0
    w32 (b2n s.svcAccess + 2 * b2n s.svcAccess + 4 * b2n s.scanOn + 65536 * held)
  else 0

/-! ### All pages -/

/-- A register that no row names reads 0 (R5); an absent core's window shows its unit control page only (R13). -/
def State.readReg (s : State) (a : Nat) : W32 :=
  let page := a / 0x1000 * 0x1000
  let off := a % 0x1000
  match pageKind a, regRow a with
  | some k, some r =>
    if r.acc = .wo then 0
    else if k.hasHead && decide (off < 0x040) then
      (match winUnit a with
       | some u => if s.isAbsent u ∧ k ≠ .unit then 0 else s.headRead k page off
       | none => s.headRead k page off)
    else
      match winUnit a with
      | some u =>
        if s.isAbsent u ∧ k ≠ .unit then 0
        else (match k with
          | .unit => s.unitRead u page off
          | .core => s.coreRead u page off
          | .sig => s.sigRead u page off
          | .dma => s.dmaRead u page off
          | .icu => s.icuRead page off
          | .wd => s.wdRead page off
          | .fw => s.fwRead page off
          | .fab => if off = 0x06C then s.collStat (uDie u) else s.reg a
          | .link => if off = 0x040 then linkCap (linkInst page) else s.reg a
          | _ => s.reg a)
      | none => (match k with
          | .icu => s.icuRead page off
          | .wd => s.wdRead page off
          | .fw => s.fwRead page off
          | .link => if off = 0x040 then linkCap (linkInst page) else s.reg a
          | .cvu => s.cvuRead page off
          | .pm => s.pmRead page off
          | .gkId => if off = 0x054 then setFld (s.reg a) 4 2 (min s.restartsNow 3) else s.reg a
          | .cal => s.calRead (if page < 0x100000000 then 1 else 0) off
          | .pwr => s.pwrRead page off
          | .sns => s.snsRead page off
          | .csi => s.csiRead page off
          | .belief => s.beliefRead off
          | .bv => s.bvRead off
          | .fol => s.folRead off
          | .fc => s.fcRead off
          | .sio => s.sioRead off
          | .tsm => s.tsmRead off
          | .bs => s.bsRead off
          | .ghPwr => s.ghPwrRead off
          | .grt => s.grtRead off
          | .t1s => s.t1sRead off
          | .svc => s.svcRead off
          | _ => s.reg a)
  | _, _ => 0

/-- The effect of a read (R196, R265, R289, R305, R329, R333): a claim, a comparison, a snapshot, a stamp taken, a state word checked. -/
def State.readAct (s : State) (a : Nat) : State :=
  let page := a / 0x1000 * 0x1000
  let off := a % 0x1000
  match pageKind a with
  | some .icu =>
    if 0x060 ≤ off ∧ off < 0x0A0 ∧ off % 0x10 = 4 ∧ (off - 0x060) / 0x10 < icuTargets (icuInst page) then
      icuClaim (icuInst page) ((off - 0x060) / 0x10) s
    else s
  | some .cvu => if off = 0x074 then cvuStatRead (cvuInst page) s else s
  | some .replica =>
    if off = 0x040 then replicaSnapshot (match winUnit a with | some u => 1 + uDie u | none => 0) s else s
  | some .bs =>
    if off = 0x040 then frcSnapshot s
    else if 0x180 ≤ off ∧ off < 0x1A0 ∧ off % 8 = 0 then captureRead ((off - 0x180) / 8) s
    else s
  | some .bv => if off = 0x05C then (s.stateRead (s.regF (bvPage + 0x058) 0 20)).2 else s
  | _ => s

/-- A register read: its value, after the effect of the read. -/
def State.read (s : State) (a : Nat) : W32 × State :=
  let t := s.readAct a
  (t.readReg a, t)

end Sys2Proof.Machine
end

