-- ==== Sys2Proof/Machine/RegWrite.lean ====
section
/-! DEFINITION. Register writes (R5 to R7, R466 to R476 and each chapter's register page): who may write a page, which values a
register takes, and what a write does beside setting the field. A write that a rule ignores leaves the part as it is (R7). -/

namespace Sys2Proof.Machine

/-! ### Who may write (R131, R136, R143, R168, R169, R200, R201, R220, R221, R237, R302, R331, R333, R360 to R364, R385, R386, R403,
R427, R448 to R450) -/

/-- Whether a writer carries one of the two control domains. -/
def State.ctlDom (s : State) (w : Writer) : Bool := decide (s.writerDom w = domGk) || decide (s.writerDom w = domGh)

/-- Whether a writer may write a Gatehouse page: the processor pair; the I/O die's release also its boot ROM (R366), and a supervisor
watchdog's page its owners. -/
def ghMay (w : Writer) (k : PageKind) : Bool :=
  decide (w = .pair) || (match k with
    | .ghRst => decide (w = .rom)
    | .wd => true
    | _ => false)

/-- Whether a writer may write the register at an offset of a page. -/
def State.pageMay (s : State) (w : Writer) (k : PageKind) (page off : Nat) : Bool :=
  if page < 0x100000000 then ghMay w k
  else
    let gk := decide (s.writerDom w = domGk)
    match k with
    | .fw => if 0x100 ≤ off ∧ fwFirstGh (fwInst page) ≤ (off - 0x100) / 0x10 then s.fwWriter w true else s.ctlDom w
    | .fab => if off = 0x04C then decide (s.writerDom w = domGh) else s.ctlDom w
    | .link => s.lkMay w (linkInst page)
    | .replica => s.ctlDom w
    | .folRx => s.ctlDom w
    | .pwr => s.ctlDom w
    | .mem => gk || decide (s.writerDom w = domHost)
    | .gkBoot => gk
    | .gkId => gk
    | .pcie => gk
    | .sns => gk
    | .csi => gk
    | .eth => gk
    | .pm => gk
    | .icu => s.icuMay w (icuInst page)
    | .cvu => s.cvuMay w (cvuInst page)
    | .gkMbox =>
      if off < 0x040 then gk
      else if (0x060 ≤ off ∧ off < 0x068) ∨ 0x07C ≤ off then gk else decide (s.writerDom w = domHost)
    | .sec =>
      if 0x200 ≤ off ∧ off < 0x300 then true
      else if 0x300 ≤ off ∧ off < 0x380 then gk
      else decide (s.writerDom w = domGh)
    | _ => true

/-! ### Which values are taken -/

/-- Whether a value lies in the range that its register's table gives; the reset value always does. A value outside is ignored as under
R7 (DEDUCED where the page's chapter gives a range and does not say what a write outside it does). -/
def valueOk (k : PageKind) (page off : Nat) (v : W32) : Bool :=
  let n := v.toNat
  match k with
  | .dma => if off = 0x060 then inR 0x1000 0x10000 n && decide (n % 0x1000 = 0) else true
  | .mem => if off = 0x040 then uValid (BitVec.ofNat 16 (n * 0x200)) else true
  | .mc => if off = 0x060 then inR 1 168 n else true
  | .fab => if off = 0x044 then inR 1 10000 n else if off = 0x048 then inR 1 255 n else if off = 0x04C then inR 1 8 n else true
  | .link =>
    if off = 0x048 then inR 1 (linkGroups (linkInst page)) (fld v 0 5) && inR 1 255 (fld v 8 8) && inR 100 10000 (fld v 16 16)
    else if off = 0x068 then inR 100 60000 n else true
  | .rp => if off = 0x070 then inR 1 10000 n else true
  | .folRx =>
    if 0x100 ≤ off ∧ off % 0x10 = 0 then
      let b := fld v 16 14
      decide (b = 0) || inR 64 (if (off - 0x100) / 0x10 < 16 then 8192 else 1518) b
    else true
  | .cvu => if off = 0x040 then decide (fld v 0 3 ≤ 4) else true
  | .pwr => if off = 0x0C0 then decide (n < 96) else true
  | .pcie =>
    if off = 0x044 then decide (fld v 4 4 ≤ 10) && decide (fld v 8 4 ≤ 10)
    else if off = 0x048 then inR 1 5 (fld v 0 3) && ([1, 2, 4, 8, 16] : List Nat).contains (fld v 8 5) else true
  | .csi => if off = 0x040 then decide (fld v 1 2 ≠ 3) && (decide (fld v 16 12 = 0) || inR 80 2500 (fld v 16 12)) else true
  | .eth => if off = 0x040 then decide (fld v 0 2 ≠ 3) else if off = 0x048 then inR 64 9216 n else true
  | .belief =>
    if off = 0x040 then inR 500 10000 n else if off = 0x044 then inR 1 100 n
    else if 0x048 ≤ off ∧ off < 0x058 then decide (n ≤ 5000) else true
  | .bv => if off = 0x054 then inR 10 3600 n else true
  | .fol => if off = 0x044 then inR 10 1000 n else true
  | .fc =>
    if 0x100 ≤ off ∧ off % 0x10 = 4 then decide (0x120 ≤ off) && inR 1 60000 n
    else if 0x100 ≤ off ∧ off % 0x10 = 8 then decide (0x120 ≤ off) else true
  | .bs =>
    if off = 0x05C then inR 1 65535 (fld v 0 16) && inR 100 10000 (fld v 16 16)
    else if off = 0x090 then decide (n < 1000000000) else true
  | .gkId => if off = 0x058 then decide (n ≤ 3600) else true
  | .gkMbox => if off = 0x078 then decide (n ≤ 16384) else true
  | _ => true

/-! ### A register without an effect of its own (R6) -/

/-- Whether the page's lock holds its RWL fields. -/
def State.lockedPage (s : State) (k : PageKind) (page : Nat) : Bool := k.hasHead && bit (s.reg (page + 0x024)) 0

/-- A write by the register's access code. A write with a value outside its range in one field is ignored whole, the other fields included
(DESIGN CHOICE: R7 speaks of the field). -/
def State.plain (s : State) (r : RegRow) (k : PageKind) (page off : Nat) (v : W32) : State :=
  let a := page + off
  let x := (s.reg a &&& ~~~ r.mask) ||| (v &&& r.mask)
  let put := if x = s.reg a ∨ x = regReset a ∨ valueOk k page off x = true then s.setReg a x else s
  match r.acc with
  | .ro => s
  | .wo => s
  | .rw => put
  | .rwl => if s.lockedPage k page then s else put
  | .rw1c => s.setReg a (s.reg a &&& ~~~ (v &&& r.mask))
  | .w1s => s.setReg a (s.reg a ||| (v &&& r.mask))
  | .rwo => if Tab.get false s.once a then s else { put with once := Tab.set false put.once a true }

/-! ### The header (R466 to R473) -/

/-- BLK_GEN_SEL (R473): 1 to 3, until the first write of BLK_CTRL. -/
def State.genSelWrite (s : State) (page : Nat) (v : W32) : State :=
  if fld v 0 2 = 0 ∨ Tab.get false s.once (page + 0x010) = true then s else s.setReg (page + 0x008) (w32 (fld v 0 2))

/-- BLK_LOCK (R470): LOCKED is set until domain reset. -/
def State.lockWrite (s : State) (page : Nat) (v : W32) : State := if bit v 0 then s.setRegF (page + 0x024) 0 1 1 else s

/-- BLK_ERR (R222): bits written 1 fall; what the Groundskeeper clears it records (R440). -/
def State.errWrite (s : State) (w : Writer) (page : Nat) (v : W32) : State :=
  let t := s.blkErrClear page v
  if s.writerDom w = domGk ∧ w ≠ .rom ∧ s.reg (page + errOff) ≠ t.reg (page + errOff) ∧ s.gk.up = true then
    t.logAdd 0x0004 (bytesLE 2 (srcUnit page).toNat ++ bytesLE 2 (pageNo page) ++ bytesLE 4 (s.reg (page + errOff)).toNat) false 0
  else t

/-- Whether BLK_ERR_MASK and BLK_INJ of a page take a writer's writes (R223): only domain 0xF00 on the blocks of units that hold a safety
domain and on the Gatehouse's. -/
def State.guardMay (s : State) (w : Writer) (page : Nat) : Bool :=
  if page < 0x100000000 then decide (s.writerDom w = domGh)
  else match winUnit page with
    | some u => if safetyDom (s.domainOf u) then decide (s.writerDom w = domGh) else true
    | none => true

/-- Injections of a checker's row (R214), by its block and its number within it. -/
def injCount (k : PageKind) (c : Nat) : Nat :=
  match k with
  | .core => 4
  | .sig => 2
  | .clu => if c = 1 ∨ c = 2 ∨ c = 4 then 2 else 4
  | .pav => if c = 0 then 4 else 2
  | .wd => 3
  | .fab => 2
  | .mc => 4
  | .link => 2
  | .csi => 2
  | .eth => 2
  | .cvu => 2
  | .gkBoot => 4
  | .ghRst => 4
  | .bv => if c < 3 then 4 else if c < 11 then 3 else 2
  | .fc => 1
  | _ => 0

/-- BLK_INJ (R471): every field is replaced; TEST is set for the Folly's test lane alone. -/
def State.injWrite (s : State) (w : Writer) (k : PageKind) (page : Nat) (v : W32) : State :=
  let c := fld v 0 4
  if pageCheckers page ≤ c ∨ fld v 4 4 = 0 ∨ injCount k c < fld v 4 4 then s
  else s.setReg (page + 0x020) (setBit (v &&& 0xFFFF#32) 31 (decide (w = .folly)))

/-! ### The unit control page (R374, R475, R476) -/

/-- UNIT_CLASS (R152, R476): a group's write reaches every present core below it. -/
def unitClass (w : Writer) (u : UnitId) (v : W32) (s : State) : State :=
  let own := match w with | .seq p => decide (uLevel u = 0) && decide (pavIx u = p) | _ => false
  if !(s.ctlDom w || own) || decide (fld v 0 2 = 3) then s
  else
    let put := fun (t : State) x => t.setReg (uPage x 0 + 0x044) (w32 (fld v 0 2))
    ((coresOf u).filter (fun c => decide (c ≠ u) && !s.isAbsent c)).foldl put (put s u)

/-- Whether UNIT_CTX_SR takes writes (R476). -/
def State.ctxSrOpen (s : State) (u : UnitId) : Bool :=
  decide (uLevel u = 0) && !s.isAbsent u && (decide (s.ustate u = stIdle) || (s.core u).wfi)

/-- UNIT_CTX_SR3 (R476): the four words are loaded. -/
def ctxSrLoad (u : UnitId) (v : W32) (s : State) : State :=
  if s.ctxSrOpen u then
    let p := uPage u 0
    let t := s.setReg (p + 0x054) v
    t.setCore u ((t.core u).seed (seedOf (t.reg (p + 0x048)) (t.reg (p + 0x04C)) (t.reg (p + 0x050)) v))
  else s

/-- BLK_CTRL of a unit (R374): a command, or MODE and DRAIN_TO alone. -/
def unitCtrl (w : Writer) (u : UnitId) (v : W32) (s : State) : State :=
  let cmd := fld v 0 3
  let dto := fld v 16 16
  if !s.unitMay w u || decide (5 ≤ cmd) then s
  else if cmd ≠ 0 then unitCommand w u cmd (bit v 4) dto s
  else if dto < 10 then s
  else (s.setReg (uPage u 0 + 0x010) (v &&& 0xFFFF0010#32)).ctrlTouched (uPage u 0)

def State.unitWrite (s : State) (w : Writer) (u : UnitId) (page off : Nat) (r : RegRow) (v : W32) : State :=
  if off = 0x044 then unitClass w u v s
  else if 0x048 ≤ off ∧ off < 0x054 then (if s.ctxSrOpen u then s.setReg (page + off) v else s)
  else if off = 0x054 then ctxSrLoad u v s
  else s.plain r .unit page off v

/-! ### Pages whose writes have effects -/

def State.coreWrite (s : State) (u : UnitId) (page off : Nat) (r : RegRow) (v : W32) : State :=
  if off = 0x054 then srSeedWrite u v s
  else if off = 0x060 then (coreBootWrite u v s).gkAdvance
  else if off = 0x07C then preemptWrite u v s
  else if off = 0x080 then preemptClr u v s
  else s.plain r .core page off v

def State.sigWrite (s : State) (u : UnitId) (page off : Nat) (r : RegRow) (v : W32) : State :=
  if off = 0x040 then sigSeqWrite u false v s
  else if off = 0x044 then sigSeqWrite u true v s
  else if 0x080 ≤ off then sigContextWrite u ((off - 0x080) / 0x20) (off % 0x20 / 4) v s
  else s.plain r .sig page off v

def State.icuWrite (s : State) (w : Writer) (page off : Nat) (r : RegRow) (v : W32) : State :=
  let i := icuInst page
  if off = 0x044 then icuGctrl w i v s
  else if 0x060 ≤ off ∧ off < 0x0A0 then
    let t := (off - 0x060) / 0x10
    if icuTargets i ≤ t then s
    else if off % 0x10 = 8 then icuComplete w i t v s else s.plain r .icu page off v
  else if 0x140 ≤ off ∧ off < 0x160 then s.icuOverClr w i ((off - 0x140) / 4) v
  else if 0x800 ≤ off ∧ off % 8 = 0 then s.icuCfgWrite w i ((off - 0x800) / 8 + 1) v
  else s.plain r .icu page off v

/-- Watchdog page (R273 to R279): the watched processor's, but for its key the task sequence monitor's. -/
def State.wdWrite (s : State) (w : Writer) (page off : Nat) (r : RegRow) (v : W32) : State :=
  let i := wdInst page
  if off = 0x040 then wdCtrlWrite w i v s
  else if off = 0x044 then wdWindowWrite w i false v s
  else if off = 0x048 then wdWindowWrite w i true v s
  else if off = 0x04C then wdKeyWrite w i v s
  else if off = 0x064 then wdBiteClr w i v s
  else if wdOwner w i then (s.wdTouch i).plain r .wd page off v
  else s

def State.fwWrite (s : State) (w : Writer) (page off : Nat) (r : RegRow) (v : W32) : State :=
  let i := fwInst page
  let win := (off - 0x100) / 0x10
  if off = 0x050 then fwLogClr w i v s
  else if off < 0x100 then s.plain r .fw page off v
  else if fwCount i ≤ win then s
  else if off % 0x10 = 12 then fwCtrlWrite w i win v s
  else if fwFirstGh i ≤ win then s.setReg (page + off) (v &&& r.mask)
  else s.plain r .fw page off v

def State.cvuWrite (s : State) (w : Writer) (page off : Nat) (_r : RegRow) (v : W32) : State := s.cvuPut w (cvuInst page) off v

def State.rpWrite (s : State) (page off : Nat) (r : RegRow) (v : W32) : State :=
  if off = 0x044 then bankSwitch (fld v 0 1) s
  else if off = 0x060 then (if bit v 3 then pkgUnload (fld v 0 3) s else pkgLoad (fld v 0 3) s)
  else if 0x400 ≤ off then ringWrite ((off - 0x400) / 0x10) (off % 0x10 / 4) v s
  else if (off = 0x050 ∨ off = 0x054) ∧ s.plan.switch.any (fun x => decide (x.bank = (off - 0x050) / 4)) = true then s.setErr rpPage 0
  else s.plain r .rp page off v

/-- The bank that a store page belongs to, and the words that a store of its kind has in the page (R478, R479): bank stores, trigger
stores (48 records of 32 bytes) and service tables (64 records of 16 bytes). -/
def storeBank (page : Nat) : Nat × Nat :=
  let p := page / 0x1000 % 0x1000
  if p < 0x019 then ((p - 0x011) / 4, 0x1000) else if p < 0x01B then (p - 0x019, 0x600) else (p - 0x01B, 0x400)

/-- A store page (R94, R111): writes to a frozen bank and to the active bank are ignored and leave an error bit. -/
def State.storeWrite (s : State) (page off : Nat) (v : W32) : State :=
  let (b, size) := storeBank page
  if size ≤ off then s
  else if s.plan.switch.any (fun x => decide (x.bank = b)) then s.setErr rpPage 0
  else if s.activeBank = b then s.setErr rpPage 1
  else s.setReg (page + off) v

/-- The MSI-X table (R340): of an entry's control word the mask bit is written, and an entry unmasked sends what pends (PRESUMED, PCI
Express). The pending bit array is read-only. -/
def State.msixWrite (s : State) (page off : Nat) (v : W32) : State :=
  if page = ioPage 0x049 then s
  else if off % 16 = 12 then
    (s.setReg (page + off) (v &&& 1)).msixFlush ((page / 0x1000 % 0x1000 - 0x041) * 0x100 + off / 16)
  else s.setReg (page + off) v

/-- The BRINGUP record's payload (R442). -/
def State.bringup (s : State) : List Byte :=
  let w := fun a => bytesLE 4 (s.reg a).toNat
  let link := fun e =>
    let p := linkPageOf e
    bytesLE 4 (s.regF (p + 0x050) 0 16 + s.regF (p + 0x054) 0 16 * 65536) ++ w (linkStatA e) ++ w (p + 0x05C) ++ bytesLE 4 0
  let clu := fun i =>
    let c := mkUid 1 (i / 64) (i / 16 % 4) (i % 16) 0
    w (spareMapAt c) ++ bytesLE 4 ((coresOf c).foldl (fun a u => a + b2n (s.isAbsent u) * 2 ^ uCore u) 0)
  ([0, 1, 2, 4, 3, 5, 6, 7, 8] : List Nat).flatMap link ++ (List.range 128).flatMap clu
    ++ ([0, 1] : List Nat).flatMap (fun d => w (mcPage d + 0x040) ++ bytesLE 4 (b2n (!bit (s.reg (mcPage d + 0x040)) 0)))
    ++ w (gkBootPage + 0x044) ++ w (gkBootPage + 0x048)

/-- Groundskeeper boot page (R367, R386): READY rising writes the bring-up record. -/
def State.gkBootWrite (s : State) (page off : Nat) (r : RegRow) (v : W32) : State :=
  let t := s.plain r .gkBoot page off v
  if off = 0x040 ∧ bit v 8 = true ∧ bit (s.reg (page + off)) 8 = false ∧ s.gk.up = true then t.logAdd 0x0002 t.bringup true 0 else t

/-- A write of GK_HREQ raises the Groundskeeper's source; a reserved kind is answered ARG (R437, R449). -/
def State.mboxWrite (s : State) (page off : Nat) (r : RegRow) (v : W32) : State :=
  let t := s.plain r .gkMbox page off v
  if off = 0x040 then
    let t := t.icuPulse 1 82
    let k := fld v 0 4
    if (k = 0 ∨ 9 ≤ k) ∧ t.hostAsks k = true then (t.mirrorConfig).hostRespond k hrArg 0 else t
  else t

/-- Grotto mailbox (R411, R416, R427): the credentials' status lets the boot ROM go on, and a response raises the Groundskeeper's source. -/
def State.secWrite (s : State) (page off : Nat) (r : RegRow) (v : W32) : State :=
  let t := s.plain r .sec page off v
  if off = 0x040 then t.gkRom else if off = 0x380 then t.icuPulse 1 83 else t

def State.pwrWrite (s : State) (w : Writer) (page off : Nat) (r : RegRow) (v : W32) : State :=
  if off = 0x054 ∨ off = 0x058 then vreadyWrite w ((off - 0x054) / 4) v s
  else if 0x080 ≤ off ∧ off < 0x0A0 then pavCfgWrite w ((off - 0x080) / 4) v s
  else s.plain r .pwr page off v

/-- Reset page (R366, R384, R385). -/
def State.ghRstWrite (s : State) (w : Writer) (page off : Nat) (r : RegRow) (v : W32) : State :=
  if off = 0x048 then (if bit v 0 then ioDieRelease w s else ioDieReset w s)
  else if w ≠ .pair then s
  else if off = 0x044 then (if bit v 0 then s.setReg (ghRstPage + 0x040) 0 else s)
  else if off = 0x04C then
    let t := if bit v 1 then fwDone w s else s
    if bit v 0 then fwSwitch w t else t
  else s.plain r .ghRst page off v

def State.fcWrite (s : State) (w : Writer) (page off : Nat) (r : RegRow) (v : W32) : State :=
  if off = 0x04C then fcAckWrite w v s else if off = 0x054 then fcForceWrite w v s
  else
    let t := s.plain r .fc page off v
    if 0x100 ≤ off ∧ off % 0x10 = 4 ∧ t.reg (page + off) ≠ s.reg (page + off) then
      let k := (off - 0x100) / 0x10
      t.setFcClass k { t.fcClass k with quiet := some (s.fcQuietMs k, s.frc) }
    else t

def State.sioWrite (s : State) (w : Writer) (page off : Nat) (r : RegRow) (v : W32) : State :=
  if off = 0x054 then sioResumeClr w v s
  else if off = 0x058 then sioLockClr w v s
  else if off = 0x05C then sioHsCmd w v s
  else if off = 0x060 then sioLatchSet w v s
  else s.plain r .sio page off v

/-- Bandstand page (R308, R310, R323, R331, R332): the words of a trigger entry are held until its CTRL is written; entry 0 is the
control cycle's (R320). -/
def State.bsWrite (s : State) (w : Writer) (page off : Nat) (r : RegRow) (v : W32) : State :=
  if off = 0x058 then domainSelect w v s
  else if off = 0x09C then (if fld v 0 2 = 0 then s else commitWrite (fld v 0 2) w s)
  else if off = 0x100 ∨ off = 0x140 then domCfgWrite ((off - 0x100) / 0x40) v s
  else if off = 0x1A0 then ppsCfgWrite v s
  else if 0x400 ≤ off then
    let e := (off - 0x400) / 0x20
    if e = 0 then s else if off % 0x20 = 0 then trigCtrlWrite w e v s else s.plain r .bs page off v
  else s.plain r .bs page off v

def State.ghPwrWrite (s : State) (w : Writer) (page off : Nat) (r : RegRow) (v : W32) : State :=
  if off = 0x040 then (if bit v 0 then killSet w s else if bit v 1 then killRelease w s else s) else s.plain r .ghPwr page off v

/-! ### All pages -/

/-- The block-specific registers. -/
def State.bodyWrite (s : State) (w : Writer) (k : PageKind) (page off : Nat) (r : RegRow) (v : W32) : State :=
  match k, winUnit page with
  | .unit, some u => s.unitWrite w u page off r v
  | .core, some u => s.coreWrite u page off r v
  | .sig, some u => s.sigWrite u page off r v
  | .clu, some u => if off = 0x040 then spareMapBy w u v s else s.plain r k page off v
  | .mc, some u => if off = 0x05C then mcLogClr (uDie u) v s else s.plain r k page off v
  | .icu, _ => s.icuWrite w page off r v
  | .wd, _ => s.wdWrite w page off r v
  | .fw, _ => s.fwWrite w page off r v
  | .link, _ => if off = 0x044 then linkTrain w (linkInst page) v s else s.plain r k page off v
  | .cvu, _ => s.cvuWrite w page off r v
  | .pm, _ => if off = 0x068 then pmLastClr w (pmInst page) v s else s.plain r k page off v
  | .rp, _ => s.rpWrite page off r v
  | .store, _ => s.storeWrite page off v
  | .msix, _ => s.msixWrite page off v
  | .gkBoot, _ => s.gkBootWrite page off r v
  | .gkId, _ => if off = 0x050 then (if bit v 0 && decide (s.writerDom w = domGk) then s.gkRestart 3 else s) else s.plain r k page off v
  | .gkMbox, _ => s.mboxWrite page off r v
  | .sec, _ => s.secWrite page off r v
  | .cal, _ => if off = 0x048 then calUserWrite w (if page < 0x100000000 then 1 else 0) v s else s.plain r k page off v
  | .pwr, _ => s.pwrWrite w page off r v
  | .pcie, _ => if off = 0x04C then pcieRetrain w v s else s.plain r k page off v
  | .eth, _ => if off = 0x04C then ethQcfgWrite (page / 0x1000 % 0x1000 - 0x059) v s else s.plain r k page off v
  | .csi, _ => if off = 0x044 then csiRestart w (page / 0x1000 % 0x1000 - 0x051) v s else s.plain r k page off v
  | .ghRst, _ => s.ghRstWrite w page off r v
  | .bv, _ => if off = 0x08C then bvFailClr w v s else s.plain r k page off v
  | .fol, _ => if off = 0x058 then folFailClr w v s else s.plain r k page off v
  | .fc, _ => s.fcWrite w page off r v
  | .sio, _ => s.sioWrite w page off r v
  | .tsm, _ => if off = 0x050 then tsmFailClr w v s else s.plain r k page off v
  | .bs, _ => s.bsWrite w page off r v
  | .ghPwr, _ => s.ghPwrWrite w page off r v
  | _, _ => s.plain r k page off v

/-- The header's registers, for a writer that the page takes; BLK_CTRL and BLK_DOMAIN act on unit control pages alone. -/
def State.headWrite (s : State) (w : Writer) (k : PageKind) (page off : Nat) (v : W32) : State :=
  if off = 0x008 then s.genSelWrite page v
  else if off = 0x010 then
    (match k, winUnit page with
     | .unit, some u => unitCtrl w u v s
     | _, _ => s.ctrlTouched page)
  else if off = 0x018 then s.errWrite w page v
  else if off = 0x01C then (if s.guardMay w page then s.setErrMask page v else s)
  else if off = 0x020 then (if s.guardMay w page then s.injWrite w k page v else s)
  else if off = 0x024 then s.lockWrite page v
  else if off = 0x028 then
    (match k, winUnit page with
     | .unit, some u => blkDomainWrite w u v s
     | _, _ => s)
  else s

/-- Whether the header of a page takes a writer: the page's writers; for BLK_ERR_MASK and BLK_INJ of a unit that holds a safety domain those
of R223 instead; and for BLK_INJ the Folly's test lane. -/
def State.headMay (s : State) (w : Writer) (k : PageKind) (page off : Nat) : Bool :=
  let guarded := (decide (off = 0x01C) || decide (off = 0x020)) && (winUnit page).any (fun u => safetyDom (s.domainOf u))
  (if guarded then s.guardMay w page else s.pageMay w k page off) || (decide (off = 0x020) && decide (w = .folly))

/-- The processor pair's write of a word of the Gatehouse map beside its block pages (R139): in the TCM and the slot store. The eFlash is
programmed through requests alone (R413); elsewhere the pair's access faults. -/
def State.ghMemWrite (s : State) (a : Nat) (v : W32) : State :=
  if a % 4 ≠ 0 then s
  else match ghPlace a with
    | some .tcm => s.tcmWrite a v
    | some .slots => s.setSlotWord (a % 0x10000000 / 8) (a / 4 % 2) v
    | _ => s

/-- A write of the register at an address (R5 to R7). An absent core's window takes none but its unit control page's (R13). -/
def State.writeReg (s : State) (w : Writer) (a : Nat) (v : W32) : State :=
  let page := a / 0x1000 * 0x1000
  let off := a % 0x1000
  match pageKind a, regRow a with
  | some k, some r =>
    if a % 4 ≠ 0 then s
    else if (winUnit a).any (fun u => s.isAbsent u && decide (k ≠ .unit)) then s
    else if k.hasHead && decide (off < 0x040) then (if s.headMay w k page off then s.headWrite w k page off v else s)
    else if s.pageMay w k page off then s.bodyWrite w k page off r v
    else s
  | _, _ =>
    if w = .pair then s.ghMemWrite a v
    else if w = .dom domGk ∧ gkSramAt a = true ∧ a % 4 = 0 then s.gkSramWrite a v else s

/-! ### Commands -/

/-- SPR_INSTALL (R413): as a record is installed, the pair writes the RW registers that it sets, each under its own rule; the RO registers
wait for the next Gatehouse reset. -/
def sprInstall (r : Option SafetyRecord) (s : State) : State :=
  let t := s.serve 5 sprServe
  match r with
  | some r => if t.sec.recNew = s.sec.recNew then t else (recordRw r).foldl (fun t e => t.writeReg .pair e.1 e.2) t
  | none => t
/-- Meaning of SPR_INSTALL; the record is the decoded body of the image. -/
def execSprInstall (r : Option SafetyRecord) (s : State) : Out := .next (s.gkOnResp (sprInstall r s))

/-- Meaning of REGISTER_WRITE (R6). -/
def execRegisterWrite (w : Writer) (a : Nat) (v : W32) (s : State) : Out := .next (s.writeReg w a v)

/-- Whether an address is the base of a page with a header. -/
def headPage (page : Nat) : Bool := decide (page % 0x1000 = 0) && (match pageKind page with | some k => k.hasHead | none => false)

/-- Meaning of BLK_ERR_CLEAR (R222). -/
def execBlkErrClear (w : Writer) (page : Nat) (v : W32) (s : State) : Out := onUnit (headPage page) (s.writeReg w (page + 0x018) v)
/-- Meaning of BLK_GEN_SEL_WRITE (R473). -/
def execBlkGenSelWrite (w : Writer) (page : Nat) (v : W32) (s : State) : Out := onUnit (headPage page) (s.writeReg w (page + 0x008) v)
/-- Meaning of BLK_LOCK_WRITE (R470). -/
def execBlkLockWrite (w : Writer) (page : Nat) (v : W32) (s : State) : Out := onUnit (headPage page) (s.writeReg w (page + 0x024) v)
/-- Meaning of BLK_INJ_WRITE (R471). -/
def execBlkInjWrite (w : Writer) (page : Nat) (v : W32) (s : State) : Out := onUnit (headPage page) (s.writeReg w (page + 0x020) v)
/-- Meaning of UNIT_CLASS_WRITE (R476). -/
def execUnitClassWrite (w : Writer) (u : UnitId) (v : W32) (s : State) : Out := onUnit (uValid u) (unitClass w u v s)
/-- Meaning of UNIT_CTX_SR_WRITE (R476): the write of UNIT_CTX_SR3. -/
def execUnitCtxSrWrite (_w : Writer) (u : UnitId) (v : W32) (s : State) : Out := onUnit (coreOk u) (ctxSrLoad u v s)

end Sys2Proof.Machine
end

