-- ==== Sys2Proof/Machine/Fabric.lean ====
section
/-! DEFINITION. The fabric (R145 to R160) and the host's accesses (R140, R141, R339): a command performs a packet at its target and sends
the response on its way; the response's arrival at the source, its reissue and its timeout are commands of their own. -/

namespace Sys2Proof.Machine

/-! ### Packets (R146 to R148) -/

/-- The header's eight words but for HDR_CRC (R146). -/
def pktWords (p : Packet) : List Nat :=
  [p.kind.toNat + b2n p.spec * 16 + p.cls.toNat * 32 + p.lenM1.toNat * 256 + p.tag.toNat * 65536,
   p.domain.toNat + p.srcUnit.toNat * 65536, nfld p.addr.toNat 0 32, nfld p.addr.toNat 32 16 + p.ret.toNat * 65536 + p.status.toNat * 2 ^ 24,
   p.firstBe.toNat + p.lastBe.toNat * 16 + p.op.toNat * 256, p.mcBase.toNat + p.mcMask.toNat * 65536, p.count.toNat, 0]

/-- CRC-16 of bytes (R284). -/
def crc16 (bs : List Byte) : Nat := bs.foldl (cvuByte 1) (cvuInit 1) ^^^ cvuXor 1

/-- HDR_CRC over bytes 0 to 29. -/
def pktCrc (p : Packet) : Nat := crc16 (((pktWords p).flatMap (bytesLE 4)).take 30)

def pktLen (p : Packet) : Nat := p.lenM1.toNat + 1

/-- Whether a packet of a kind is well formed (R146, R147): its payload, its 256-byte block, and its address. -/
def pktFormed (p : Packet) (kind : Nat) : Bool :=
  let a := p.addr.toNat
  decide (p.kind.toNat = kind) && !(p.spec && decide (kind ≠ 0)) && !(decide (kind = 5) && decide (p.op = 3))
  && decide (a % 4 = 0) && decide (a % 256 + 4 * (pktLen p) ≤ 256)
  && decide (p.payload.length = (if kind = 1 ∨ kind = 4 then (pktLen p) else 0))

/-- The byte enables of the packet's words, word 0 lowest: FIRST_BE and LAST_BE, of which both hold for a single word. -/
def pktBe (p : Packet) : Nat :=
  if (pktLen p) = 1 then p.firstBe.toNat &&& p.lastBe.toNat
  else p.firstBe.toNat + (2 ^ (4 * ((pktLen p) - 2)) - 1) * 16 + p.lastBe.toNat * 16 ^ ((pktLen p) - 1)

/-- A payload judged word by word by its codes, as every stage does (R148): what travels on, counted in a die's fabric page. -/
def State.payload (s : State) (die a : Nat) : List (W32 × BitVec 7) → List (Option W32) × State
  | [] => ([], s)
  | p :: r =>
    let e := ecc32 (p.2 ^^^ check32 p.1 a).toNat
    let t := match e with
      | .ue => (s.count (fabPage die + 0x064)).setErr (fabPage die) 1
      | .addr => (s.count (fabPage die + 0x064)).setErr (fabPage die) 1
      | _ => if e.corrected then s.count (fabPage die + 0x060) else s
    let (vs, t) := State.payload t die (a + 4) r
    ((if e.bad then none else some (e.fix p.1)) :: vs, t)

/-- The source of a packet (R131, R146). -/
def pktSrc (p : Packet) (die : Nat) : BusSrc :=
  ⟨die, p.domain, p.srcUnit,
   if uValid p.srcUnit ∧ uLevel p.srcUnit ≤ 2 then some (pavIx p.srcUnit) else none⟩

/-! ### At the target -/

/-- Registers, or the status window, read word by word. -/
def State.regReads (s : State) (t : BusTgt) (a : Nat) : Nat → List (Option W32) × State
  | 0 => ([], s)
  | n + 1 =>
    let (w, u) := match t with
      | .win off => (w32 (ofBytesLE ((List.range 4).map (fun i => s.winByte (off + a % 4 + i)))), s)
      | _ => s.read a
    let t' := match t with | .win off => BusTgt.win (off + 4) | x => x
    let (ws, u) := State.regReads u t' (a + 4) n
    (some w :: ws, u)

/-- A word written to a register under byte enables: bytes not enabled keep what the register holds, or are 0 where a write of 1 acts.
Poison is not written. -/
def State.regWriteW (s : State) (w : Writer) (a : Nat) (v : Option W32) (be : Nat) : State :=
  match v with
  | none => s
  | some v =>
    if be % 16 = 0 then s
    else if be % 16 = 15 then s.writeReg w a v
    else
      let hold : Bool := match regRow a with
        | some r => decide (r.acc = .rw) || decide (r.acc = .rwl) || decide (r.acc = .rwo)
        | none => false
      let o := if hold = true then (s.reg a).toNat else 0
      s.writeReg w a (w32 (ofBytesLE ((List.range 4).map (fun i => BitVec.ofNat 8 (if nbit be i then v.toNat >>> (8 * i) else o >>> (8 * i))))))
def State.regWrites (s : State) (w : Writer) : Nat → List (Option W32) → Nat → State
  | _, [], _ => s
  | a, v :: r, be => State.regWrites (s.regWriteW w a v be) w (a + 4) r (be >>> 4)

/-- A read of n words performed or refused (R135, R149, R155): its status and words. -/
def State.doRead (s : State) (src : BusSrc) (a n : Nat) (spec : Bool) : Nat × List (Option W32) × State :=
  let c := canonical a
  let t := s.busTgt c
  let (st, s) := s.busCheck src t c (4 * n) false spec
  if st ≠ 0 then (st, [], s)
  else
    let (ws, s) := if t.isReg then s.regReads t c n else s.memRead t n
    (b2n (ws.any Option.isNone), ws, s)

/-- A write of words under byte enables performed or refused: its status. -/
def State.doWrite (s : State) (src : BusSrc) (a : Nat) (ws : List (Option W32)) (be : Nat) : Nat × State :=
  let c := canonical a
  let t := s.busTgt c
  let (st, s) := s.busCheck src t c (4 * ws.length) true false
  if st ≠ 0 then (st, s)
  else if t.isReg then (b2n (ws.any Option.isNone), s.regWrites (.dom src.dom) c ws be)
  else
    let (p, s) := s.memWrite t ws be
    (b2n p, s)

/-! ### Requests at their source (R146, R150, R151) -/

def reqKey (die : Nat) (src : BitVec 16) (ret : BitVec 8) (tag : BitVec 10) : Nat :=
  die * 2 ^ 34 + src.toNat * 2 ^ 18 + ret.toNat * 2 ^ 10 + tag.toNat
def pktKey (p : Packet) (die : Nat) : Nat := reqKey die p.srcUnit p.ret p.tag
def State.req (s : State) (k : Nat) : Option ReqSt := Tab.get none s.reqs k
def State.setReq (s : State) (k : Nat) (r : Option ReqSt) : State := { s with reqs := Tab.set none s.reqs k r }

/-- The units that may be a packet's source on a die, and the domain that hardware gives their transactions (R130, R146). Sources without
a Unit ID are on the I/O die the Groundskeeper, the host and the receive paths, on a compute die its error concentrator. -/
def State.srcDomOk (s : State) (die : Nat) (p : Packet) : Bool :=
  if uValid p.srcUnit then
    decide (p.domain = s.domainOf p.srcUnit) && decide (die = (if uLevel p.srcUnit = 4 then 2 else uDie p.srcUnit))
  else decide (p.srcUnit = 0xFFFF#16) &&
    (if die = 2 then decide (1 ≤ p.domain.toNat) && decide (p.domain.toNat ≤ 3) else decide (p.domain = 0xF01#12))

/-- Whether CLASS is the one that hardware sets (R152). The table names none for a unit that is no core. -/
def State.srcClsOk (s : State) (p : Packet) : Bool :=
  if p.domain = domGh then decide (p.cls = 3)
  else if uValid p.srcUnit ∧ uLevel p.srcUnit = 0 then decide (p.cls.toNat = s.regF (uPage p.srcUnit 0 + 0x044) 0 2)
  else if p.srcUnit = 0xFFFF#16 ∧ (p.domain = domGk ∨ p.domain = domHost) then decide (p.cls = 1)
  else if p.srcUnit = 0xFFFF#16 ∧ p.domain = domRx then decide (p.cls = 2)
  else true

/-- Whether a source issues a packet: hardware sets its domain and class, its tag is free, and it is no unit behind a closed fence
(R130, R146, R152, R377). -/
def State.mayIssue (s : State) (die : Nat) (p : Packet) : Bool :=
  (s.req ((pktKey p) die)).isNone && !(uValid p.srcUnit && decide (s.gate p.srcUnit = 3)) && s.srcDomOk die p && s.srcClsOk p

/-- A packet issued: its request is outstanding under the timeout in force (R151, R168). -/
def State.issueReq (s : State) (die : Nat) (p : Packet) : State :=
  s.setReq ((pktKey p) die) (some ⟨1 + s.reqs.foldl (fun m e => match e.2 with | some r => max m r.ord | none => m) 0, p, s.frc, s.respTo die,
    0, 0, []⟩)

/-- A packet dropped on entry, by a check with injection n or 0 (R147, R148). -/
def State.droppedBy (s : State) (die n : Nat) : State := (s.count (fabPage die + 0x05C)).setErrBy n (fabPage die) 0
def State.dropped (s : State) (die : Nat) : State := s.droppedBy die 0

/-- The RESPONSE packet to a request (R146, R149, R152): it carries its request's matching fields and class. -/
def respPkt (p : Packet) (st count : Nat) (data : List (W32 × BitVec 7)) : Packet :=
  let q : Packet := { p with kind := 2, spec := false, lenM1 := BitVec.ofNat 6 (data.length - 1), firstBe := 0, lastBe := 0, op := 0,
                             mcBase := 0, mcMask := 0, status := BitVec.ofNat 4 st, count := BitVec.ofNat 16 count, payload := data }
  { q with hdrCrc := BitVec.ofNat 16 (pktCrc q) }

/-- The words of a packet on a link (R161). -/
def pktFlits (p : Packet) : List LinkWord :=
  linkWords (canonical p.addr.toNat) (((pktWords p).take 7) ++ [p.hdrCrc.toNat * 65536]) p.payload

/-- A packet laid into the flits of the link from a die to another; none within a die (R145, R161). -/
def State.overLink (s : State) (a b : Nat) (p : Packet) : State :=
  match pathEnd a b with
  | some e => s.lkSend e (pktFlits p)
  | none => s

/-- The die from which a request's response comes: that of its target, the source's own for a collective operation (R158). -/
def State.answersFrom (s : State) (die : Nat) (p : Packet) : Nat :=
  if 4 ≤ p.kind.toNat then die else (s.busTgt (canonical p.addr.toNat)).die

/-- A response sent (R149). -/
def State.answer (s : State) (die : Nat) (p : Packet) (st count : Nat) (data : List (W32 × BitVec 7)) : State :=
  let r := respPkt p st count data
  (s.emit (.resp die r)).overLink (s.answersFrom die p) die r

/-- A target's response; a target that answers nothing leaves the source to its timeout (R151). -/
def State.reply (s : State) (die : Nat) (p : Packet) (st : Nat) (data : List (W32 × BitVec 7)) : State :=
  if st = 8 then s else s.answer die p st 0 data

/-- A request completes at its source with a final status (R150). -/
def State.finishN (s : State) (k die : Nat) (p : Packet) (st count : Nat) : State :=
  (s.setReq k none).emit (.done die p.srcUnit p.ret p.tag st count)
def State.finish (s : State) (k die : Nat) (p : Packet) (st : Nat) : State := s.finishN k die p st 0

/-- A READ packet at its target. -/
def State.readPkt (s : State) (die : Nat) (p : Packet) : State :=
  let a := p.addr.toNat
  let (st, ws, t) := s.doRead ((pktSrc p) die) a (pktLen p) p.spec
  t.reply die p st (if st ≤ 1 then coded (canonical a) ws else [])

/-- A WRITE packet at its target. -/
def State.writePkt (s : State) (die : Nat) (p : Packet) : State :=
  let a := p.addr.toNat
  let (ws, t) := s.payload die (canonical a) p.payload
  let (st, t) := t.doWrite ((pktSrc p) die) a ws (pktBe p)
  t.reply die p st []

/-! ### Collective operations (R156 to R160) -/

/-- Fields of a Unit ID below a level. -/
def belowMask (l : Nat) : Nat := ([0, 0xF, 0xFF, 0x3FF, 0x7FF] : List Nat).getD l 0

/-- Whether MC_BASE and MC_MASK are lawful (R156). -/
def pktSetOk (p : Packet) : Bool :=
  uValid p.mcBase && decide (p.mcMask.toNat < 2 ^ 11) && decide (p.mcMask.toNat &&& belowMask (uLevel p.mcBase) = 0)

/-- Units of a level. -/
def levelUids (l : Nat) : List UnitId :=
  match l with | 0 => coreUids | 1 => cluUids | 2 => pavUids | 3 => [dieUid 0, dieUid 1] | _ => [pkgUid]

/-- The present members (R156). -/
def State.members (s : State) (p : Packet) : List UnitId :=
  if (pktSetOk p) then
    (levelUids (uLevel p.mcBase)).filter (fun u => decide ((u &&& ~~~ p.mcMask) = (p.mcBase &&& ~~~ p.mcMask)) && !s.isAbsent u)
  else []

/-- What window ADDR names, and its offset in each member's: SRAM (true) or registers; none for anything else (R156). -/
def pktWindow (p : Packet) : Option (Bool × Nat) :=
  let a := p.addr.toNat
  if 0x10000000000 ≤ a ∧ a < 0x20000000000 then some (true, a % 0x1000000)
  else if 0x020000000000 ≤ a ∧ a < 0x020100000000 then some (false, a % 0x10000)
  else none

/-- ADDR in a member's window. -/
def memberAddr (u : UnitId) (sram : Bool) (off : Nat) : Nat := if sram then sramBase u + off else uPage u 0 + off

/-- Nodes that a set occupies: the hubs of its Pavilions (0 to 7) and the Promenades of its dies (8, 9). The package's own page has none. -/
def nodesOf (us : List UnitId) : List Nat :=
  let us := us.filter (fun u => decide (uLevel u < 4))
  ((List.range 8).filter (fun i => us.any (fun u => decide (uLevel u ≤ 2) && decide (pavIx u = i))))
    ++ (([0, 1] : List Nat).filter (fun d => us.any (fun u => decide (uDie u = d)))).map (· + 8)

/-- Clusters whose unmapped spare a set of cores brings in (R157). -/
def State.spareClus (s : State) (us : List UnitId) : List UnitId :=
  cluUids.filter (fun c => us.any (fun u => decide (uLevel u = 0) && decide (cluOf u = c)) && !bit (s.reg (spareMapAt c)) 8)

/-- A multicast write performed at the members, one after the other: the combined status and COUNT. -/
def State.mcastTo (s : State) (src : BusSrc) (sram : Bool) (off : Nat) (ws : List (Option W32)) (be : Nat) :
    List UnitId → Nat × Nat × State
  | [] => (0, 0, s)
  | u :: r =>
    let (st, t) := s.doWrite src (memberAddr u sram off) ws be
    let (st', n, t) := State.mcastTo t src sram off ws be r
    (max st st', n + b2n (decide (st ≤ 1)), t)

/-- Whether a copy of a request reaches a cluster's cores (R157, R158): its way is up, its die runs, and their firewall permits it. -/
def State.reaches (s : State) (src : BusSrc) (c : UnitId) (a n : Nat) (write : Bool) : Bool :=
  let t := BusTgt.sram c 0
  decide (s.pathStatus src.die (uDie c) = 0) && !s.tripped (uDie c)
  && (match t.fw src.pav with | some i => s.fwOk i src.dom write a n | none => true)

/-- A core of a cluster that is in a member set. -/
def coreIn (us : List UnitId) (c : UnitId) : UnitId := (us.find? (fun u => decide (uLevel u = 0) && decide (cluOf u = c))).getD 0

/-- What an unmapped spare takes of a multicast write: scratchpad words, whose mailbox its boot receiver acts on, CORE_FW_LIMIT, and
BLK_LOCK of the core page (R157, R371, R372). -/
def State.spareTake (s : State) (sram : Bool) (off : Nat) (ws : List (Option W32)) (be : Nat) (c : UnitId) : State :=
  let key := 17 * cluIx c + 16
  let (lim, lock) := Tab.get (0, 0) s.spareFw (cluIx c)
  if sram then
    if spSize < off + 4 * ws.length then s
    else
      let t := (ws.zipIdx.foldl (fun (a : State × Nat) e => (a.1.cellWriteW (spBase key + off + 4 * e.2) e.1 (a.2 % 16), a.2 >>> 4)) (s, be)).1
      if off ≤ bootMail ∧ bootMail < off + 4 * ws.length then t.bootAct none key lim.toNat else t
  else ws.zipIdx.foldl (fun (t : State) e => match e.1 with
    | some v =>
      let a := off + 4 * e.2
      let en := be >>> (4 * e.2) % 16
      let (lim, lock) := Tab.get (lim, lock) t.spareFw (cluIx c)
      if a = 0x105C ∧ bit lock 0 = false then { t with spareFw := Tab.set (0, 0) t.spareFw (cluIx c) (mergeW lim v en, lock) }
      else if a = 0x1024 ∧ bit v 0 = true ∧ en % 2 = 1 then { t with spareFw := Tab.set (0, 0) t.spareFw (cluIx c) (lim, 1) }
      else t
    | none => t) s

/-- An MCAST_WRITE whose contexts are taken (R157, R158). -/
def State.mcastRun (s : State) (die : Nat) (p : Packet) : State :=
  let us := s.members p
  match (pktWindow p) with
  | none => s.answer die p 5 0 []
  | some (sram, off) =>
    if us.isEmpty then s.answer die p 5 0 []
    else
      let (ws, t) := s.payload die p.addr.toNat p.payload
      let (st, n, t) := t.mcastTo ((pktSrc p) die) sram off ws (pktBe p) us
      let hear := (t.spareClus us).filter (fun c =>
        t.reaches (pktSrc p die) c (memberAddr (coreIn us c) sram off) (4 * pktLen p) true)
      let t := hear.foldl (fun t c => t.spareTake sram off ws (pktBe p) c) t
      t.answer die p st n []

/-- One contribution added to another (R159); poison poisons. -/
def reduceW (op : Nat) (a b : Option W32) : Option W32 :=
  match a, b with
  | some x, some y =>
    some (if op = 0 then x ||| y
      else if op = 1 then BitVec.ofInt 32 (clampI (-2147483648) 2147483647 (x.toInt + y.toInt))
      else (fAdd x y).1)
  | _, _ => none

/-- A list in an order that a number picks. -/
def orderBy {α : Type} : Nat → Nat → List α → List α
  | 0, _, l => l
  | f + 1, seed, l =>
    match l with
    | [] => []
    | _ =>
      let i := seed % l.length
      match l.drop i with
      | x :: r => x :: orderBy f (seed / l.length) (l.take i ++ r)
      | [] => l

/-- Contributions combined word by word in arrival order, which is open. -/
def State.combine (s : State) (op : Nat) (cs : List (List (Option W32))) : List (List (Option W32)) × State :=
  if cs.length ≤ 1 then (cs, s)
  else
    let (n, t) := s.drawNat
    match orderBy cs.length n cs with
    | c :: r => ([r.foldl (fun a b => List.zipWith (reduceW op) a b) c], t)
    | [] => ([], t)

/-- What each member reads: the combined status, COUNT, and each contribution with its unit. -/
def State.reduceReads (s : State) (src : BusSrc) (sram : Bool) (off n : Nat) :
    List UnitId → Nat × Nat × List (UnitId × List (Option W32)) × State
  | [] => (0, 0, [], s)
  | u :: r =>
    let (st, ws, t) := s.doRead src (memberAddr u sram off) n false
    let (st', k, cs, t) := State.reduceReads t src sram off n r
    (max st st', k + b2n (decide (st ≤ 1)), if st ≤ 1 then (u, ws) :: cs else cs, t)

/-- Words of an unmapped spare's scratchpad. -/
def State.spareWords (s : State) (c : UnitId) (off n : Nat) : List (Option W32) :=
  (List.range n).map (fun i =>
    let k := spBase (17 * cluIx c + 16) + off + 4 * i
    let e := ecc32 (s.synAt k)
    if e.bad then none else some (e.fix (s.rawW k)))

/-- Contributions combined over the members of each group of a list. -/
def State.combineBy {γ : Type} (s : State) (op : Nat) (inG : γ → UnitId → Bool) (gid : γ → UnitId) :
    List γ → List (UnitId × List (Option W32)) → List (UnitId × List (Option W32)) × State
  | [], _ => ([], s)
  | g :: r, cs =>
    let (c, t) := s.combine op ((cs.filter (fun e => inG g e.1)).map (fun e => e.2))
    let (rest, t) := State.combineBy t op inG gid r cs
    (c.map (fun x => (gid g, x)) ++ rest, t)

/-- A REDUCE whose contexts are taken (R157, R159): the cluster switches, the hubs and the Promenades combine in turn. -/
def State.reduceRun (s : State) (die : Nat) (p : Packet) : State :=
  let us := s.members p
  let op := p.op.toNat
  match (pktWindow p) with
  | none => s.answer die p 5 0 []
  | some (sram, off) =>
    if us.isEmpty then s.answer die p 5 0 []
    else
      let (st, n, cs, t) := s.reduceReads ((pktSrc p) die) sram off (pktLen p) us
      let hear := (t.spareClus us).filter (fun c =>
        t.reaches (pktSrc p die) c (memberAddr (coreIn us c) sram off) (4 * pktLen p) false)
      let spares := if sram ∧ op = 0 ∧ off + 4 * pktLen p ≤ spSize then hear.map (fun c => (c, t.spareWords c off (pktLen p))) else []
      let (a, t) := t.combineBy op (fun c u => decide (uLevel u ≤ 1) && decide (cluOf u = c)) id cluUids (cs ++ spares)
      let (b, t) := t.combineBy op (fun h u => decide (uLevel u ≤ 2) && decide (pavOf u = h)) id pavUids
        (a ++ cs.filter (fun e => decide (uLevel e.1 = 2)))
      let (c, t) := t.combineBy op (fun d u => decide (uDie u = uDie d)) id [dieUid 0, dieUid 1]
        (b ++ cs.filter (fun e => decide (uLevel e.1 = 3)))
      let (d, t) := t.combine op ((c ++ cs.filter (fun e => decide (uLevel e.1 = 4))).map (fun e => e.2))
      t.answer die p st n (match d with | x :: _ => coded p.addr.toNat x | [] => [])

/-- The first node of an operation without a free context (R160). -/
def State.fullNode (s : State) (nodes : List Nat) : Option Nat := nodes.find? (fun n => decide (8 ≤ s.collUsed n))

/-- A collective operation takes its contexts and runs, or waits at a node that has none free (R160). -/
def State.collective (s : State) (die : Nat) (p : Packet) : State :=
  let nodes := nodesOf (s.members p)
  let k := (pktKey p) die
  match s.fullNode nodes with
  | some n =>
    let t := match s.req k with | some r => s.setReq k (some { r with st := 4 }) | none => s
    { t with collWait := Tab.set [] t.collWait n (Tab.get [] t.collWait n ++ [(die, p)]) }
  | none =>
    let t := match s.req k with | some r => s.setReq k (some { r with st := 0, nodes := nodes }) | none => s
    if p.kind = 4 then t.mcastRun die p else t.reduceRun die p

/-! ### Order at the source (R154) -/

/-- Addresses that a request acts on: its own, or one in each member's window. -/
def State.pktPlaces (s : State) (p : Packet) : List Nat :=
  if 4 ≤ p.kind.toNat then
    match pktWindow p with
    | some (sram, off) => (s.members p).map (fun u => memberAddr u sram off)
    | none => []
  else [canonical p.addr.toNat]

/-- The target unit or stack of an address. -/
def placeTgt (a : Nat) : Nat :=
  match dramDie a with
  | some d => d
  | none => if a < 0x20000000000 then 2 + a / 0x1000000 else 2 ^ 32 + a / 0x10000

/-- Whether a later request of the same source is performed after an earlier one: they touch one line, or are writes to one target in one
class. -/
def State.conflicts (s : State) (p q : Packet) : Bool :=
  let wr := fun (x : Packet) => decide (x.kind = 1) || decide (x.kind = 4)
  (s.pktPlaces p).any (fun a => (s.pktPlaces q).any (fun b =>
    (decide (a / 64 ≤ (b + 4 * pktLen q - 1) / 64) && decide (b / 64 ≤ (a + 4 * pktLen p - 1) / 64))
    || (wr p && wr q && decide (p.cls = q.cls) && decide (placeTgt a = placeTgt b))))

/-- Whether an older request of the same source, not yet performed, goes before a request (R154). -/
def State.behind (s : State) (die : Nat) (p : Packet) (ord : Nat) : Bool :=
  s.reqs.any (fun e => match e.2 with
    | some r => decide (e.1 / 2 ^ 34 = die) && decide (r.pkt.srcUnit = p.srcUnit) && (uValid p.srcUnit || decide (r.pkt.ret = p.ret))
      && (decide (r.st = 1) || decide (r.st = 3) || decide (r.st = 4)) && decide (r.ord < ord) && s.conflicts p r.pkt
    | none => false)

/-- The dies other than its source's that a request travels to (R145, R158). -/
def State.farDies (s : State) (die : Nat) (p : Packet) : List Nat :=
  let dests := if 4 ≤ p.kind.toNat then (s.members p).map uDie else [(s.busTgt (canonical p.addr.toNat)).die]
  ([0, 1, 2, 3] : List Nat).filter (fun d => decide (d ≠ die) && dests.contains d)

/-- A request performed at its target, past the links on its way. -/
def State.performPkt (s : State) (die : Nat) (p : Packet) : State :=
  let s := (s.farDies die p).foldl (fun t d => t.overLink die d p) s
  if p.kind = 1 then s.writePkt die p
  else if p.kind = 4 ∨ p.kind = 5 then s.collective die p
  else s.readPkt die p

/-- A packet on its way: dropped where its header or form is bad (an armed injection on the Promenade's checker spoils the check, R471),
held where an older request goes before it. -/
def State.sendPkt (s : State) (die kind : Nat) (p : Packet) : State :=
  if !s.mayIssue die p then s
  else
    let t := s.issueReq die p
    let k := (pktKey p) die
    let (n, t) := t.injTake (fabPage die) 0
    if decide ((pktCrc p) ≠ p.hdrCrc.toNat) || decide (n = 1) || !(pktFormed p) kind then t.droppedBy die n
    else match t.req k with
      | some r => if t.behind die p r.ord then t.setReq k (some { r with st := 3 }) else t.performPkt die p
      | none => t

/-- Meaning of FABRIC_READ (R149, R154, R155). -/
def fabricRead (die : Nat) (p : Packet) (s : State) : State := s.sendPkt die 0 p
def execFabricRead (die : Nat) (p : Packet) (s : State) : Out := onUnit (decide (die < 3)) (fabricRead die p s)
/-- Meaning of FABRIC_WRITE (R148, R149, R154). -/
def fabricWrite (die : Nat) (p : Packet) (s : State) : State := s.sendPkt die 1 p
def execFabricWrite (die : Nat) (p : Packet) (s : State) : Out := onUnit (decide (die < 3)) (fabricWrite die p s)

/-- Whether a unit behind a closed fence issued a request: its reply is absorbed (R377). -/
def State.absorbs (s : State) (u : BitVec 16) : Option (UnitId × UCmd) :=
  if uValid u then (u :: enclosersOf u).findSome? (fun v => match s.ucmd v with
    | some c => if c.phase = 2 then some (v, c) else none
    | none => none)
  else none

/-- A late response counted (R151). -/
def State.late (s : State) (die : Nat) : State := s.count (fabPage die + 0x054)

/-- Meaning of FABRIC_RESPONSE (R148 to R151, R163, R377): a response on a link that is not ACTIVE is lost; its header and its payload's
codes are checked, a quarantined tag is freed, and TARGET_DRAINING is reissued but for collective operations (R158) while
FAB_RESP_TO has not passed. -/
def fabricResponse (die : Nat) (p : Packet) (s : State) : State :=
  let k := pktKey p die
  if p.kind ≠ 2 ∨ pktCrc p ≠ p.hdrCrc.toNat then s.dropped die
  else match s.req k with
  | none => s.late die
  | some r =>
    if s.pathStatus (s.answersFrom die r.pkt) die ≠ 0 then s
    else if r.st = 2 then (s.setReq k none).late die
    else if r.st ≠ 0 then s.late die
    else
      let st := if 9 ≤ p.status.toNat then 4 else p.status.toNat
      let (ws, t) := s.payload die (canonical r.pkt.addr.toNat) p.payload
      let st := if st = 0 ∧ ws.any Option.isNone = true then 1 else st
      match t.absorbs p.srcUnit with
      | some (u, c) => (t.setReq k none).setUcmd u (some { c with absorbed := c.absorbed + 1 })
      | none =>
        if st = 2 ∧ r.pkt.spec = false ∧ r.pkt.kind.toNat ≤ 1 ∧ t.frc < r.first + r.respTo then
          t.setReq k (some { r with st := 1, again := t.frc + t.retryTicks die })
        else t.finishN k die r.pkt st p.count.toNat
def execFabricResponse (die : Nat) (p : Packet) (s : State) : Out := onUnit (decide (die < 3)) (fabricResponse die p s)

/-- Meaning of FABRIC_RETRY (R150, R154): reissued with the same tag; after FAB_RESP_TO it completes with TARGET_DRAINING. A request held
behind an older one goes on once that has been performed. -/
def fabricRetry (die : Nat) (src : BitVec 16) (ret : BitVec 8) (tag : BitVec 10) (s : State) : State :=
  let k := reqKey die src ret tag
  match s.req k with
  | none => s
  | some r =>
    if r.st = 3 then
      (if s.behind die r.pkt r.ord then s else (s.setReq k (some { r with st := 0 })).performPkt die r.pkt)
    else if r.st ≠ 1 then s
    else if r.first + r.respTo ≤ s.frc then s.finish k die r.pkt 2
    else if s.frc < r.again ∨ s.behind die r.pkt r.ord = true then s
    else ((s.setReq k (some { r with st := 0 })).count (fabPage die + 0x058)).performPkt die r.pkt
def execFabricRetry (die : Nat) (src : BitVec 16) (ret : BitVec 8) (tag : BitVec 10) (s : State) : Out :=
  onUnit (decide (die < 3)) (fabricRetry die src ret tag s)

/-- Meaning of FABRIC_TIMEOUT (R151, R155): the tag is quarantined; a speculative read is refused without a count. -/
def fabricTimeout (die : Nat) (src : BitVec 16) (ret : BitVec 8) (tag : BitVec 10) (s : State) : State :=
  let k := reqKey die src ret tag
  match s.req k with
  | none => s
  | some r =>
    if r.st = 2 ∨ s.frc < r.first + r.respTo then s
    else if r.st = 1 then s.finish k die r.pkt 2
    else
      let t := if r.pkt.spec then s else (s.count (fabPage die + 0x050)).setErr (fabPage die) 2
      (t.finish k die r.pkt (if r.pkt.spec then 7 else 8)).setReq k (some { r with st := 2, nodes := [] })
def execFabricTimeout (die : Nat) (src : BitVec 16) (ret : BitVec 8) (tag : BitVec 10) (s : State) : Out :=
  onUnit (decide (die < 3)) (fabricTimeout die src ret tag s)

/-- Meaning of TAG_QUARANTINE_END (R151). -/
def quarantineEnd (die : Nat) (src : BitVec 16) (ret : BitVec 8) (tag : BitVec 10) (s : State) : State :=
  let k := reqKey die src ret tag
  match s.req k with
  | none => s
  | some r => if r.st = 2 ∧ r.first + 4 * r.respTo ≤ s.frc then s.setReq k none else s
def execTagQuarantineEnd (die : Nat) (src : BitVec 16) (ret : BitVec 8) (tag : BitVec 10) (s : State) : Out :=
  onUnit (decide (die < 3)) (quarantineEnd die src ret tag s)

/-! ### Collective operations (R156 to R160) -/

/-- Meaning of MCAST_WRITE (R156 to R158, R160). -/
def mcastWrite (die : Nat) (p : Packet) (s : State) : State := s.sendPkt die 4 p
def execMcastWrite (die : Nat) (p : Packet) (s : State) : Out := onUnit (decide (die < 3)) (mcastWrite die p s)
/-- Meaning of REDUCE (R156, R157, R159, R160). -/
def reduce (die : Nat) (p : Packet) (s : State) : State := s.sendPkt die 5 p
def execReduce (die : Nat) (p : Packet) (s : State) : Out := onUnit (decide (die < 3)) (reduce die p s)

/-- Meaning of COLLECTIVE_CONTEXT_ACQUIRE (R160): the operation that has waited longest at a node goes on once one is free there. -/
def contextAcquire (n : Nat) (s : State) : State :=
  match Tab.get [] s.collWait n with
  | [] => s
  | (die, p) :: r =>
    if 8 ≤ s.collUsed n then s
    else
      let t := { s with collWait := Tab.set [] s.collWait n r }
      match t.req (pktKey p die) with
      | some q => if q.st = 4 then t.collective die p else t
      | none => t
def execCollectiveContextAcquire (n : Nat) (s : State) : Out := onUnit (decide (n < 10)) (contextAcquire n s)

/-! ### The host (R140, R141, R339) -/

/-- The host's transactions enter at the I/O die (R140). -/
def hostSrc : BusSrc := ⟨2, domHost, 0xFFFF#16, none⟩

/-- The address that an offset of a BAR reaches; none where nothing is (R140). -/
def State.barAddr (s : State) (bar off : Nat) : Option Nat :=
  if bar = 2 then some off
  else if off < 0x1000000 then some (0x021000000000 + off)
  else if off < 0x1010000 then some (0x022000000000 + off % 0x10000)
  else if off < 0x2000000 then none
  else
    let o := off % 0x2000000
    let u := s.regF (ioPage 0x000 + 0x040) 0 7 * 0x200 + o / 0x10000
    some (0x020000000000 + u * 0x10000 + o % 0x10000)

/-- Whether an access lies in a BAR: bytes from an offset. -/
def barOk (bar off n : Nat) : Bool :=
  (decide (bar = 0) && decide (off + n ≤ 0x4000000)) || (decide (bar = 2) && decide (off + n ≤ 0x1000000000))

/-- The request of the host that meets a draining target (R150). -/
def hostKey (write : Bool) (a : Nat) : Nat := reqKey 2 0xFFFF#16 (if write then 0xFF#8 else 0xFE#8) (BitVec.ofNat 10 (a / 4))
def hostPkt (write : Bool) (a : Nat) : Packet :=
  ⟨if write then 1 else 0, false, 1, 0, BitVec.ofNat 10 (a / 4), domHost, 0xFFFF#16, BitVec.ofNat 48 a, if write then 0xFF#8 else 0xFE#8,
   0, 0, 0, 0, 0, 0, 0, 0, []⟩

/-- An access of the host waits for its reissue, FAB_RETRY_100NS after the target last answered TARGET_DRAINING (R150). -/
def State.hostWaits (s : State) (write : Bool) (a : Nat) : Bool :=
  match s.req (hostKey write a) with
  | some r => decide (s.frc < r.again) && decide (s.frc < r.first + r.respTo)
  | none => false

/-- An access of the host at its target (R150, R151): TARGET_DRAINING leaves it waiting, its next command being the reissue, and after
FAB_RESP_TO it is final. -/
def State.hostTry (s : State) (write : Bool) (a st : Nat) (fin : Nat → State → State) : State :=
  let k := hostKey write a
  if st = 2 then
    match s.req k with
    | some r =>
      if r.first + r.respTo ≤ s.frc then fin 2 (s.setReq k none)
      else (s.setReq k (some { r with again := s.frc + s.retryTicks 2 })).count (fabPage 2 + 0x058)
    | none => s.setReq k (some ⟨0, hostPkt write a, s.frc, s.respTo 2, 1, s.frc + s.retryTicks 2, []⟩)
  else fin st ((s.setReq k none).ended 2 st)

/-- Reads of whole 256-byte blocks: the highest status, and the words. -/
def State.hostReads (s : State) (fuel a n : Nat) : Nat × List (Option W32) × State :=
  match fuel with
  | 0 => (0, [], s)
  | f + 1 =>
    if n = 0 then (0, [], s)
    else
      let m := min n ((256 - a % 256) / 4)
      let (st, ws, t) := s.doRead hostSrc a m false
      let (st', ws', t) := State.hostReads t f (a + 4 * m) (n - m)
      (max st st', ws ++ ws', t)

/-- The completion of a host read (R141, R339). -/
def State.complete (s : State) (st : Nat) (ws : List (Option W32)) : State :=
  if st ≤ 1 then s.emit (.completion 0 (decide (st = 1)) (ws.map (fun w => w.getD 0)))
  else if st = 5 then (s.count (pciePage + 0x054)).emit (.completion 1 false [])
  else (s.count (pciePage + 0x058)).emit (.completion 2 false [])

/-- Whether the host link is up. -/
def State.hostUp (s : State) : Bool := bit (s.reg pcieStatA) 9

/-- Meaning of HOST_READ (R140, R141, R339). A die that answers nothing leaves the read to its timeout, a Completer Abort. -/
def hostRead (bar off n : Nat) (s : State) : State :=
  if !s.hostUp then s
  else match s.barAddr bar off with
    | none => s.complete 5 []
    | some a =>
      if s.hostWaits false a then s
      else
      let (st, ws, t) := s.hostReads (n / 64 + 2) a n
      t.hostTry false a st (fun st t => t.complete st ws)
def execHostRead (bar off n : Nat) (s : State) : Out :=
  onUnit (barOk bar off (4 * n) && decide (off % 4 = 0) && decide (1 ≤ n) && decide (n ≤ 1024)) (hostRead bar off n s)

/-- Writes of whole blocks: the highest status. -/
def State.hostWrites (s : State) (fuel a : Nat) (bs : List Byte) (ep : Bool) : Nat × State :=
  match fuel with
  | 0 => (0, s)
  | f + 1 =>
    if bs.isEmpty then (0, s)
    else
      let m := min bs.length (256 - a % 256)
      let (ws, be) := wordsOf a (bs.take m)
      let (st, t) := s.doWrite hostSrc (a / 4 * 4) (if ep then ws.map (fun _ => none) else ws) be
      let (st', t) := State.hostWrites t f (a + m) (bs.drop m) ep
      (max st st', t)

/-- Meaning of HOST_WRITE (R140, R141, R339): posted, and dropped where it is refused. One sender's writes come in PCIe order, so Relaxed
Ordering changes nothing. -/
def hostWrite (bar off : Nat) (bs : List Byte) (ep : Bool) (s : State) : State :=
  if !s.hostUp then s
  else
    match s.barAddr bar off with
    | none => if ep then s.count (pciePage + 0x050) else s
    | some a =>
      if s.hostWaits true a then s
      else
      let t := if ep && (s.req (hostKey true a)).isNone then s.count (pciePage + 0x050) else s
      let (st, t) := t.hostWrites (blocksOf bs.length) a bs ep
      t.hostTry true a st (fun _ t => t)
def execHostWrite (bar off : Nat) (bs : List Byte) (ep _relaxed : Bool) (s : State) : Out :=
  onUnit (barOk bar off bs.length && decide (bs.length ≤ 4096)) (hostWrite bar off bs ep s)

end Sys2Proof.Machine
end

