-- ==== Sys2Proof/Machine/Dma.lean ====
section
/-! DEFINITION. The DMA engine and the signature engine (R65 to R77): a start performs a descriptor's reads and writes one row after
the other, a completion says that every write has been acknowledged. -/

namespace Sys2Proof.Machine

/-! ### Demanded accesses (R71, R150) -/

/-- Halt causes (R51), and 9 for an access answered TARGET_DRAINING, which is reissued (R150). -/
def causeOf (st : Nat) : Nat := if st = 0 then 0 else if st = 1 then 4 else if st = 2 then 9 else 3

/-- A core as a source of requests (R130). -/
def State.coreSrc (s : State) (u : UnitId) : BusSrc := ⟨uDie u, s.domainOf u, u, some (pavIx u)⟩

/-- An offset of the core's own scratchpad window. -/
def ownOff (u : UnitId) (a : Nat) : Option Nat :=
  if sramBase u ≤ a ∧ a < sramBase u + spSize then some (a % 0x1000000) else none

/-- A timeout counted at the source (R151). -/
def State.srcTimeout (s : State) (die st : Nat) : State :=
  if st = 8 then (s.count (fabPage die + 0x050)).setErr (fabPage die) 2 else s

/-- The words before the first poisoned one, and whether there is one. -/
def goodWords : List (Option W32) → List W32 × Bool
  | [] => ([], true)
  | some w :: r => let (ws, ok) := goodWords r; (w :: ws, ok)
  | none :: _ => ([], false)

/-- n words demanded from an address within one 256-byte block: the words up to the first that fails, and its cause. -/
def State.dmaBlock (s : State) (u : UnitId) (a n : Nat) : List W32 × Nat × State :=
  match ownOff u a with
  | some o =>
    let (ws, t) := s.sramReadWords u o n
    let (g, ok) := goodWords ws
    (g, if ok then 0 else 2, t)
  | none =>
    let (st, ws, t) := s.doRead (s.coreSrc u) a n false
    let (g, _) := goodWords ws
    (if st ≤ 1 then g else [], causeOf st, t.srcTimeout (uDie u) st)

/-- A word of the channel's run-ahead buffer, read for a descriptor. -/
def CoreSt.raWord (c : CoreSt) (ch : Nat) (ticket : BitVec 16) (a : Nat) : Option (Option W32 × Nat) :=
  (c.ra.find? (fun r => decide (r.chan = ch ∧ r.ticket = ticket ∧ r.addr ≤ a ∧ a < r.addr + 4 * r.data.length))).map
    (fun r => (r.data.getD ((a - r.addr) / 4) none, r.cause))

/-- A channel's run-ahead data without the words up to a poisoned one that has been demanded: that one is no discard (R71). -/
def CoreSt.raSpend (c : CoreSt) (ch : Nat) (ticket : BitVec 16) (a : Nat) : CoreSt :=
  { c with ra := c.ra.map (fun r =>
      if r.chan = ch ∧ r.ticket = ticket ∧ r.addr ≤ a ∧ a < r.addr + 4 * r.data.length then
        { r with data := r.data.drop ((a - r.addr) / 4 + 1), addr := a + 4 }
      else r) }

/-- Words demanded one after the other, from the run-ahead buffer where it holds them (R71). -/
def State.dmaWords (s : State) (u : UnitId) (ch : Nat) (ticket : BitVec 16) : Nat → Nat → Nat → List W32 × Nat × State
  | 0, _, _ => ([], 0, s)
  | f + 1, a, n =>
    if n = 0 then ([], 0, s)
    else
      let m := min n ((256 - a % 256) / 4)
      let c := s.core u
      let held := (List.range m).any (fun i => (c.raWord ch ticket (a + 4 * i)).isSome)
      let m := if held then 1 else m
      let (g, cause, t) := match c.raWord ch ticket a with
        | some (some w, _) => ([w], 0, s)
        | some (none, k) => ([], k, s.setCore u (c.raSpend ch ticket a))
        | none => s.dmaBlock u a m
      if cause ≠ 0 then (g, cause, t)
      else
        let (g', cause, t) := State.dmaWords t u ch ticket f (a + 4 * m) (n - m)
        (g ++ g', cause, t)

/-- n bytes demanded from any address: those before the first word that fails, and its cause. -/
def State.dmaFetch (s : State) (u : UnitId) (ch : Nat) (ticket : BitVec 16) (a n : Nat) : List Byte × Nat × State :=
  let k := (a % 4 + n + 3) / 4
  let (ws, cause, t) := s.dmaWords u ch ticket (k + 1) (a / 4 * 4) k
  (((ws.flatMap (fun w => bytesLE 4 w.toNat)).drop (a % 4)).take n, cause, t)

/-- Bytes written from an address on, block by block; those before a refusal stand (R71): the cause, and how many were written. -/
def State.dmaWrite (s : State) (u : UnitId) : Nat → Nat → List Byte → Nat × Nat × State
  | 0, _, _ => (0, 0, s)
  | f + 1, a, bs =>
    if bs.isEmpty then (0, 0, s)
    else
      let m := min bs.length (256 - a % 256)
      let (ws, be) := wordsOf a (bs.take m)
      let (cause, t) := match ownOff u a with
        | some o => (0, s.sramWriteWords u (o / 4 * 4) ws be)
        | none =>
          let (st, t) := s.doWrite (s.coreSrc u) (a / 4 * 4) ws be
          (causeOf st, t.srcTimeout (uDie u) st)
      if cause ≠ 0 then (cause, 0, t)
      else
        let (cause, n, t) := State.dmaWrite t u f (a + m) (bs.drop m)
        (cause, m + n, t)

/-! ### Descriptors (R65, R66, R70) -/

def dmaKind (ws : List W32) : Nat := df ws 0 0 4
def dmaSrcFmt (ws : List W32) : Nat := df ws 0 4 4
def dmaDstFmt (ws : List W32) : Nat := df ws 0 8 4
def dmaSig (ws : List W32) : Bool := bit (dw ws 0) 16
def dmaAhead (ws : List W32) : Bool := bit (dw ws 0) 15
def dmaN (ws : List W32) (i : Nat) : Nat := df ws (6 + i / 2) (16 * (i % 2)) 16
/-- A 48-bit address in two words. -/
def dmaAddr (ws : List W32) (i : Nat) : Nat := (dw ws i).toNat + 2 ^ 32 * df ws (i + 1) 0 16
def sigTile (ws : List W32) : Nat := df ws 15 0 16 + df ws 14 20 4 * 65536
/-- A conversion (R69): every kind but FILL converts where its formats differ. -/
def dmaConverts (ws : List W32) : Bool := decide (dmaKind ws ≠ 3) && decide (dmaSrcFmt ws ≠ dmaDstFmt ws)

/-- A 48-bit address moved by a signed offset. -/
def addrPlus (a : Nat) (d : Int) : Nat := (((a : Int) + d) % (2 ^ 48 : Nat)).toNat
/-- A signed 32-bit stride. -/
def strideOf (ws : List W32) (i : Nat) : Int := (dw ws i).toInt

/-- Whether a row of a format is whole bytes (R26), and whole blocks for microscaling but in a FILL, which pads them (R27). -/
def rowFits (kind fmt n : Nat) : Bool :=
  decide (elemBits fmt * n % (if elemBits fmt = 6 then 24 else 8) = 0) && (!isMx fmt || decide (kind = 3) || decide (n % 32 = 0))

/-- A dimension of a tensor descriptor (R65). -/
def tdDim (td : List W32) (i : Nat) : Nat := df td (2 + i / 2) (16 * (i % 2)) 16

/-- Whether a descriptor is valid, given its tensor descriptor's words where it takes them: a dimension of 0 is invalid (R65, R69, R70). -/
def dmaOk (ws td : List W32) : Bool :=
  let k := dmaKind ws
  let fs := dmaSrcFmt ws
  let fd := dmaDstFmt ws
  decide (k ≤ 3) && !fmtReserved fs && !fmtReserved fd && ([0, 1, 2, 3] : List Nat).all (fun i => decide (dmaN ws i ≠ 0))
  && (td.isEmpty || ([0, 1, 2, 3] : List Nat).all (fun i => decide (tdDim td i ≠ 0)))
  && decide (df ws 0 12 2 ≠ 3) && decide (df ws 0 17 3 ≠ 7)
  && (!dmaConverts ws || (([2, 3, 4, 5, 6] : List Nat).contains fs && decide (fd ≠ 7) && (!isMx fd || decide (df td 8 0 6 = 0))))
  && (decide (k = 3) || rowFits k fs (dmaN ws 0)) && rowFits k fd (dmaN ws 0)
  && (decide (k ≠ 2) || (decide (4 ≤ df ws 13 16 5) && decide (df ws 13 16 5 ≤ 28)))

/-! ### The signature engine (R72 to R75) -/

def tdRows (td : List W32) : Nat := df td 13 0 8 + 1
def tdCols (td : List W32) : Nat := df td 13 8 8 + 1
def sigSlot (ws td : List W32) : Nat := df td 12 0 20 + sigTile ws

/-- Whether a descriptor may be signed (R72). -/
def sigOk (u : UnitId) (ws td : List W32) : Bool :=
  decide (dmaKind ws = 0) && bit (dw td 1) 20 && decide (dmaDstFmt ws ≤ 6) && (ownOff u (dmaAddr ws 4)).isNone
  && decide (tdDim td 0 % tdCols td = 0) && decide (tdDim td 1 % tdRows td = 0)
  && !(decide (dmaDstFmt ws = 0) && decide (tdCols td % 2 = 1)) && decide (sigSlot ws td < 1048576)

/-- The origin of tile t (R72). -/
def tileOrigin (td : List W32) (t : Nat) : Nat :=
  let fmt := df td 1 16 4
  let tc := tdDim td 0 / tdCols td
  let tr := tdDim td 1 / tdRows td
  let plane := t / (tc * tr)
  addrPlus (dmaAddr td 0) ((t / tc % tr * tdRows td : Nat) * strideOf td 4 + (t % tc * tdCols td * elemBits fmt / 8 : Nat)
    + (plane % tdDim td 2 : Nat) * strideOf td 5 + (plane / tdDim td 2 : Nat) * strideOf td 6)

/-- A grid index saturated (R73). -/
def satGrid (x : Int) : W32 := BitVec.ofInt 32 (clampI (-2147483647) 2147483647 x)

/-- Grid indices A and B of an element (R73). -/
def gridIx (fmt : Nat) (qstep : Int) (n : Nat) : W32 × W32 :=
  match elemVal fmt n with
  | .nan => (0x80000000#32, 0x80000000#32)
  | .inf s => if s then (satGrid (-2147483647), satGrid (-2147483647)) else (satGrid 2147483647, satGrid 2147483647)
  | .fin s m e =>
    let v := smant s m
    let x := e - qstep
    let a := if 0 ≤ x then floorScaled v x else (2 * v + (2 ^ (-x).toNat : Nat)) / (2 ^ ((-x).toNat + 1) : Nat)
    (satGrid a, satGrid (floorScaled v x))

/-- The running CRC of a grid after its fold word (R74). -/
def sigFold (seq slot grid : Nat) : Nat := crcR polyC 0xFFFFFFFF (bytesLE 8 (seq * 2 ^ 32 + slot * 2 ^ 12 + grid * 2 ^ 11))

/-- The open context of a slot that an element continues (R75): one whose received count is the element's index, else the lowest (DESIGN
CHOICE: R75 speaks of the open context for the slot, as if there were one only). -/
def State.ctxOf (s : State) (u : UnitId) (slot ix : Nat) : Option Nat :=
  let mine := ([0, 1, 2, 3] : List Nat).filter (fun n => s.ctxOpen u n && decide (s.regF (ctxAt u n 0) 0 20 = slot))
  match mine.find? (fun n => decide (s.regF (ctxAt u n 1) 0 17 = ix)) with
  | some n => some n
  | none => mine.head?
def State.ctxFree (s : State) (u : UnitId) : Option Nat := ([0, 1, 2, 3] : List Nat).find? (fun n => !s.ctxOpen u n)

/-- Context n is BUSY for a channel (R77). -/
def State.ctxBusyBy (s : State) (u : UnitId) (n ch : Nat) : State :=
  s.setCore u { s.core u with sigBusy := (s.core u).sigBusy ||| BitVec.ofNat 16 (2 ^ (4 * n + ch)) }
/-- No context is BUSY for a channel any more. -/
def State.chanFree (s : State) (u : UnitId) (ch : Nat) : State :=
  s.setCore u { s.core u with sigBusy := (s.core u).sigBusy &&& ~~~ BitVec.ofNat 16 (0x1111 * 2 ^ ch) }

/-- A context opened for a tile (R75, R84). -/
def State.ctxStart (s : State) (u : UnitId) (n : Nat) (ws td : List W32) : State :=
  let slot := sigSlot ws td
  let seq := (s.reg (uPage u 2 + 0x040)).toNat
  let o := tileOrigin td (sigTile ws)
  ([slot + 2 ^ 31, 0, sigFold seq slot 0, sigFold seq slot 1, nfld o 0 32, nfld o 32 16,
    df td 13 0 16 + dmaDstFmt ws * 65536 + b2n (bit (dw td 1) 21) * 2 ^ 20, (dw td 4).toNat] : List Nat).zipIdx.foldl
    (fun t e => t.setReg (ctxAt u n e.2) (w32 e.1)) s

/-- One element counted in a context (R73 to R75): an index other than the received count, or one beyond the tile, sets ORDER and
ORDER_BAD. -/
def State.ctxCount (s : State) (u : UnitId) (k ch : Nat) (ws td : List W32) (ix n : Nat) : State :=
  let cnt := s.regF (ctxAt u k 1) 0 17
  let t := s.ctxBusyBy u k ch
  let t := if cnt = ix ∧ ix < geomCount (s.reg (ctxAt u k 6)) then t
    else (t.setErr (uPage u 2) 0).setReg (ctxAt u k 6) (setBit (t.reg (ctxAt u k 6)) 21 true)
  let (a, b) := gridIx (dmaDstFmt ws) (sfld (df td 1 24 8) 8) n
  let t := t.setReg (ctxAt u k 2) (w32 (crcR polyC (t.reg (ctxAt u k 2)).toNat (bytesLE 4 a.toNat)))
  let t := t.setReg (ctxAt u k 3) (w32 (crcR polyC (t.reg (ctxAt u k 3)).toNat (bytesLE 4 b.toNat)))
  t.setReg (ctxAt u k 1) (w32 (min (cnt + 1) 0x1FFFF))

/-- One written element fed to the engine with its tile-local index (R75): index 0 opens a context, another continues one. -/
def State.sigElem (s : State) (u : UnitId) (ch : Nat) (ws td : List W32) (ix n : Nat) : State :=
  if ix = 0 then
    match s.ctxFree u with
    | some k => (s.ctxStart u k ws td).ctxCount u k ch ws td ix n
    | none => s.setErr (uPage u 2) 0
  else
    match s.ctxOf u (sigSlot ws td) ix with
    | some k => s.ctxCount u k ch ws td ix n
    | none => s.setErr (uPage u 2) 0

/-- Elements fed in the order they are written. -/
def State.sigFeed (s : State) (u : UnitId) (ch : Nat) (ws td : List W32) (ix : Nat) : List Nat → State
  | [] => s
  | n :: r => State.sigFeed (s.sigElem u ch ws td ix n) u ch ws td (ix + 1) r

/-! ### Rows (R67 to R71) -/

/-- A row's elements converted (R28, R29, R69): stored bits, scale bytes, flags and the generator after. A microscaling block that a
failed read cuts short takes its scale over the elements before it (DESIGN CHOICE: R71 has them written and R29 needs 32 values). -/
def convRow (ws td : List W32) (g : BitVec 128) (els : List Nat) : List Nat × List Nat × Nat × BitVec 128 :=
  let fs := dmaSrcFmt ws
  let fd := dmaDstFmt ws
  let rnd := df ws 0 12 2
  let sat := bit (dw ws 0) 14
  let xs := els.map (fun n => (widen (elemVal fs n)).1)
  if !dmaConverts ws then (els, [], 0, g)
  else if isMx fd then
    (chunks 32 ((xs.length + 31) / 32) xs).foldl (fun (a : List Nat × List Nat × Nat × BitVec 128) b =>
      let (sc, ns, fl, g') := mxBlock fd rnd sat a.2.2.2 b
      (a.1 ++ ns, a.2.1 ++ [sc], a.2.2.1 ||| fl, g')) ([], [], 0, g)
  else
    let (ns, fl, g') := convList fd rnd sat (dw td 7) g xs
    (ns, [], fl, g')

/-- What a row writes: elements, and the cause that ended its reading. -/
structure RowIn where
  els : List Nat
  cause : Nat
  deriving DecidableEq, Repr

/-- Elements read from an address: those before the first that fails. -/
def State.rowRead (s : State) (u : UnitId) (ch : Nat) (ticket : BitVec 16) (fmt a n : Nat) : RowIn × State :=
  let b := elemBits fmt
  let (bs, cause, t) := s.dmaFetch u ch ticket a (b * n / 8)
  (⟨unpackElems b (min n (8 * bs.length / b)) bs, cause⟩, t)

/-- A word demanded as an index, key or hash entry. -/
def State.wordRead (s : State) (u : UnitId) (ch : Nat) (ticket : BitVec 16) (a : Nat) : Option W32 × Nat × State :=
  let (bs, cause, t) := s.dmaFetch u ch ticket a 4
  (if cause = 0 then some (w32 (ofBytesLE bs)) else none, cause, t)

/-- A row of zeros or of the pattern. -/
def constRow (n x : Nat) : RowIn := ⟨List.replicate n x, 0⟩

/-- The probes of a hash chain from entry h (R68): the row index on a hit, none for a miss, and the cause of a read that fails. -/
def State.probe (s : State) (u : UnitId) (ch : Nat) (ticket : BitVec 16) (table size : Nat) (key : W32) :
    Nat → Nat → Option Nat × Nat × State
  | 0, _ => (none, 0, s)
  | f + 1, h =>
    let a := (table + 8 * (h % size)) % 2 ^ 48
    let (k, cause, t) := s.wordRead u ch ticket a
    match k with
    | none => (none, cause, t)
    | some k =>
      if k = key then
        let (v, cause, t) := t.wordRead u ch ticket (a + 4)
        (v.map BitVec.toNat, cause, t)
      else if k = 0xFFFFFFFF#32 then (none, 0, t)
      else State.probe t u ch ticket table size key f (h + 1)

/-- What row r reads, and the address it is written to (R67, R68). -/
def State.rowIn (s : State) (u : UnitId) (ch : Nat) (ticket : BitVec 16) (ws : List W32) (r : Nat) : RowIn × Nat × State :=
  let n0 := dmaN ws 0
  let n1 := dmaN ws 1
  let n2 := dmaN ws 2
  let i1 : Int := (r % n1 : Nat)
  let i2 : Int := (r / n1 % n2 : Nat)
  let i3 : Int := (r / (n1 * n2) : Nat)
  let dst := addrPlus (dmaAddr ws 4) (i1 * strideOf ws 11 + i2 * strideOf ws 12 + i3 * strideOf ws 13)
  let dst1 := addrPlus (dmaAddr ws 4) ((r : Int) * strideOf ws 11)
  let fs := dmaSrcFmt ws
  let cnt := fun (t : State) o => t.count (uPage u 3 + o)
  match dmaKind ws with
  | 0 =>
    let src := addrPlus (dmaAddr ws 2) (i1 * strideOf ws 8 + i2 * strideOf ws 9 + i3 * strideOf ws 10)
    let (x, t) := s.rowRead u ch ticket fs src n0
    (x, dst, t)
  | 1 =>
    let (ix, cause, t) := s.wordRead u ch ticket ((dmaAddr ws 9 + 4 * r) % 2 ^ 48)
    (match ix with
     | none => (⟨[], cause⟩, dst1, t)
     | some ix =>
       if bit ix 31 ∨ (dw ws 13).toNat ≤ ix.toNat then (constRow n0 0, dst1, cnt t 0x064)
       else
         let (x, t) := t.rowRead u ch ticket fs (addrPlus (dmaAddr ws 2) ((ix.toNat : Int) * strideOf ws 8)) n0
         (x, dst1, t))
  | 2 =>
    let (key, cause, t) := s.wordRead u ch ticket ((dmaAddr ws 9 + 4 * r) % 2 ^ 48)
    (match key with
     | none => (⟨[], cause⟩, dst1, t)
     | some key =>
       let lg := df ws 13 16 5
       let h := key.toNat * 0x9E3779B1 % 2 ^ 32 / 2 ^ (32 - lg)
       let (hit, cause, t) :=
         if key = 0xFFFFFFFF#32 then (none, 0, t)
         else t.probe u ch ticket ((dw ws 12).toNat + 2 ^ 32 * df ws 13 0 16) (2 ^ lg) key (df ws 13 21 4 + 1) h
       if cause ≠ 0 then (⟨[], cause⟩, dst1, t)
       else match hit with
       | none => (constRow n0 0, dst1, cnt t 0x068)
       | some ix =>
         let (x, t) := t.rowRead u ch ticket fs (addrPlus (dmaAddr ws 2) ((ix : Int) * strideOf ws 8)) n0
         (x, dst1, t))
  | _ => (constRow n0 ((dw ws 8).toNat % 2 ^ elemBits (dmaDstFmt ws)), dst, s)

/-- The stored byte at an address, 0 where it cannot be read. -/
def State.dmaPeek (s : State) (u : UnitId) (a : Nat) : Nat × State :=
  let (ws, _, t) := s.dmaBlock u (a / 4 * 4) 1
  (fld ((ws.headD 0)) (8 * (a % 4)) 8, t)

/-- The bytes of a row's elements (R26): where they end within a byte, its other bits stay as they are stored. -/
def State.dmaPack (s : State) (u : UnitId) (w dst : Nat) (ns : List Nat) : List Byte × State :=
  let n := w * ns.length
  if n % 8 = 0 then (packElems w ns, s)
  else
    let (old, t) := s.dmaPeek u (dst + n / 8)
    let v := (ns.zipIdx.foldl (fun a e => a + (e.1 % 2 ^ w) <<< (w * e.2)) 0) + (old >>> (n % 8)) <<< n
    (bytesLE (n / 8 + 1) v, t)

/-- Row r performed (R67 to R71), with the generator of a seed: its cause. Every element before one that fails is written, and what has
been written is what the signature engine is fed (R66). -/
def State.dmaRow (s : State) (u : UnitId) (ch : Nat) (ticket : BitVec 16) (ep : Nat) (ws td : List W32) (r : Nat) : Nat × State :=
  let (x, dst, t) := s.rowIn u ch ticket ws r
  if x.cause = 9 then (9, s)
  else
    let c := t.core u
    let (ns, scales, fl, g) := convRow ws td (c.genOf ep) x.els
    let t := (t.setCore u (c.setGen ep g)).arith u fl
    let wd := elemBits (dmaDstFmt ws)
    let (bs, t) := t.dmaPack u wd dst ns
    let (w, done, t) := t.dmaWrite u (blocksOf bs.length) dst bs
    let (w, t) := if w = 0 ∧ !scales.isEmpty then
        let (w, _, t) := t.dmaWrite u (blocksOf scales.length) (addrPlus (dmaAddr td 8) ((r * df td 9 16 16 * 64 : Nat) : Int))
          (scales.map (BitVec.ofNat 8))
        (w, t)
      else (w, t)
    if w = 9 then (9, s)
    else
      let fed := if w = 0 then ns else ns.take (8 * done / wd)
      let t := if dmaSig ws then t.sigFeed u ch ws td (df ws 15 16 16 + r * dmaN ws 0) fed else t
      (if w ≠ 0 then w else x.cause, t)

/-- Rows of a descriptor. -/
def dmaRowCount (ws : List W32) : Nat :=
  if dmaKind ws = 1 ∨ dmaKind ws = 2 then dmaN ws 1 else dmaN ws 1 * dmaN ws 2 * dmaN ws 3

/-- Rows performed from row r on: the cause that ended them, and the row it ended at. -/
def State.dmaRun (s : State) (u : UnitId) (ch : Nat) (ticket : BitVec 16) (ep : Nat) (ws td : List W32) : Nat → Nat → Nat × Nat × State
  | 0, r => (0, r, s)
  | f + 1, r =>
    let (cause, t) := s.dmaRow u ch ticket ep ws td r
    if cause = 0 then State.dmaRun t u ch ticket ep ws td f (r + 1) else (cause, r, t)

/-! ### Channels (R49 to R52, R70 to R72, R75) -/

/-- The tensor descriptor that a descriptor points at; none where a word of it is uncorrectable. -/
def State.tdRead (s : State) (u : UnitId) (ws : List W32) : Option (List W32) × State :=
  if dmaSig ws || dmaConverts ws then
    (List.range 16).foldl (fun (a : Option (List W32) × State) i =>
      let (w, t) := a.2.spReadW u ((df ws 14 2 16 * 4 + 4 * i) % spSize)
      (match a.1, w with
       | some l, some w => some (l ++ [w])
       | _, _ => none, t)) (some [], s)
  else (some [], s)

/-- A descriptor fails: its channel halts and no context is BUSY for it (R51, R77). -/
def State.dmaFail (s : State) (u : UnitId) (ch cause ad : Nat) : State := (s.chanFree u ch).qFail u (2 + ch) cause ad

/-- The ticket of a channel's descriptor in progress (R50). -/
def CoreSt.ticketOf (c : CoreSt) (ch : Nat) : BitVec 16 := (c.queue (2 + ch)).counter + 1

/-- A channel's descriptor in progress given a new place. -/
def State.setRunning (s : State) (u : UnitId) (ch : Nat) (d : Option DescRun) : State :=
  let c := s.core u
  s.setCore u (c.setQueue (2 + ch) { c.queue (2 + ch) with running := d })

/-- A descriptor goes on from its place to its end, to a failure, or to an access that is to be reissued (R150). -/
def State.dmaGo (s : State) (u : UnitId) (ch : Nat) (d : DescRun) (td : List W32) : State :=
  let n0 := dmaN d.words 0
  let total := dmaRowCount d.words
  let r := d.pos / n0
  let (cause, r', t) := s.dmaRun u ch ((s.core u).ticketOf ch) d.epoch d.words td (total - r) r
  if cause = 9 then
    let from_ := if r' = r then (d.wait.map (·.1)).getD s.frc else s.frc
    if from_ + t.respTo (uDie u) ≤ t.frc then t.dmaFail u ch 3 d.addr
    else (t.count (fabPage (uDie u) + 0x058)).setRunning u ch
      (some { d with pos := r' * n0, stalled := false, wait := some (from_, t.frc + t.retryTicks (uDie u)) })
  else if cause ≠ 0 then t.dmaFail u ch cause d.addr
  else t.setRunning u ch (some { d with pos := total * n0, stalled := false, wait := none })

/-- A SIG descriptor that continues an open context refers to it from its start (R77); one that opens a context does so with its first
element. -/
def State.sigRefer (s : State) (u : UnitId) (ch : Nat) (ws td : List W32) : State :=
  if dmaSig ws && decide (df ws 15 16 16 ≠ 0) then
    match s.ctxOf u (sigSlot ws td) (df ws 15 16 16) with
    | some k => s.ctxBusyBy u k ch
    | none => s
  else s

/-- A descriptor starts, or stalls for a signature context (R70, R72, R75). -/
def State.dmaBegin (s : State) (u : UnitId) (ch : Nat) (d : DescRun) : State :=
  let (td, t) := s.tdRead u d.words
  match td with
  | none => t.dmaFail u ch 2 d.addr
  | some td =>
    if !dmaOk d.words td then t.dmaFail u ch 1 d.addr
    else if dmaSig d.words && !sigOk u d.words td then (t.dmaFail u ch 6 d.addr).setErr (uPage u 2) 1
    else if dmaSig d.words && decide (df d.words 15 16 16 = 0) && decide (d.pos = 0) && (t.ctxFree u).isNone then
      t.setRunning u ch (some { d with stalled := true })
    else (t.sigRefer u ch d.words td).dmaGo u ch d td

/-- A DMA command of a kind: the channel's first waiting descriptor starts once its dependency is met (R52), and one whose access was
answered TARGET_DRAINING goes on. A reserved KIND fails whichever command starts it. -/
def dmaStart (kind : Nat) (u : UnitId) (ch : Nat) (s : State) : State :=
  let c := s.core u
  let q := c.queue (2 + ch)
  let mine := fun (ws : List W32) => decide (dmaKind ws = kind) || decide (4 ≤ dmaKind ws)
  if q.halted then s
  else match q.running with
  | some d => if d.wait.any (fun w => decide (w.2 ≤ s.frc)) && mine d.words then s.dmaBegin u ch d else s
  | none =>
    match q.waiting with
    | [] => s
    | i :: rest =>
      if !mine i.words then s
      else
        let d : DescRun := ⟨i.words, i.addr, 0, false, none, i.epoch⟩
        let t := s.setCore u (c.setQueue (2 + ch) { q with waiting := rest, running := some d })
        match c.dep (df i.words 0 17 3) (df i.words 1 0 16) with
        | .wait => s
        | .failed => t.dmaFail u ch 5 i.addr
        | .ready => t.dmaBegin u ch d

/-- Meaning of DMA_COPY (R67, R69). -/
def execDmaCopy (u : UnitId) (ch : Nat) (s : State) : Out := onUnit (coreOk u && decide (ch < 4)) (dmaStart 0 u ch s)
/-- Meaning of DMA_GATHER (R67). -/
def execDmaGather (u : UnitId) (ch : Nat) (s : State) : Out := onUnit (coreOk u && decide (ch < 4)) (dmaStart 1 u ch s)
/-- Meaning of DMA_HASHGATHER (R67, R68). -/
def execDmaHashgather (u : UnitId) (ch : Nat) (s : State) : Out := onUnit (coreOk u && decide (ch < 4)) (dmaStart 2 u ch s)
/-- Meaning of DMA_FILL (R67). -/
def execDmaFill (u : UnitId) (ch : Nat) (s : State) : Out := onUnit (coreOk u && decide (ch < 4)) (dmaStart 3 u ch s)

/-- Meaning of SIGNATURE_CONTEXT_ACQUIRE (R75): a stalled channel goes on once a context is free. -/
def contextTake (u : UnitId) (ch : Nat) (s : State) : State :=
  match ((s.core u).queue (2 + ch)).running with
  | some d => if d.stalled && (s.ctxFree u).isSome then s.dmaBegin u ch { d with stalled := false } else s
  | none => s
def execSignatureContextAcquire (u : UnitId) (ch : Nat) (s : State) : Out := onUnit (coreOk u && decide (ch < 4)) (contextTake u ch s)

/-- Meaning of DMA_DESCRIPTOR_COMPLETE (R49, R71, R77): every write is acknowledged, the counter advances, and run-ahead data read for the
descriptor and never demanded is discarded. -/
def dmaComplete (u : UnitId) (ch : Nat) (s : State) : State :=
  let c := s.core u
  match (c.queue (2 + ch)).running with
  | none => s
  | some d =>
    if d.stalled || d.wait.isSome then s
    else
      let k := c.ticketOf ch
      let t := (s.chanFree u ch).raDrop u (fun r => decide (r.chan = ch) && decide (r.ticket = k))
      let c := t.core u
      t.setCore u (c.setQueue (2 + ch) { c.queue (2 + ch) with running := none, counter := k })
def execDmaDescriptorComplete (u : UnitId) (ch : Nat) (s : State) : Out := onUnit (coreOk u && decide (ch < 4)) (dmaComplete u ch s)

/-- The descriptor that a channel may read ahead for, by its ticket: the one in progress, or the next one once its dependency is met. -/
def CoreSt.aheadFor (c : CoreSt) (ch : Nat) : Option (BitVec 16) :=
  let q := c.queue (2 + ch)
  match q.running with
  | some d =>
    if d.stalled || d.wait.isSome then (if dmaAhead d.words then some (q.counter + 1) else none)
    else match q.waiting with
      | i :: _ =>
        if dmaAhead d.words && decide (c.dep (df i.words 0 17 3) (df i.words 1 0 16) = .ready) then some (q.counter + 2) else none
      | [] => none
  | none => match q.waiting with
    | i :: _ =>
      if dmaAhead i.words && decide (c.dep (df i.words 0 17 3) (df i.words 1 0 16) = .ready) then some (q.counter + 1) else none
    | [] => none

/-- Meaning of RUNAHEAD_READ_RESPONSE (R71, R155): a speculative read within the run-ahead window fills the buffer, with poison for a
refusal. -/
def aheadResponse (u : UnitId) (ch a n : Nat) (s : State) : State :=
  let c := s.core u
  match c.aheadFor ch with
  | none => s
  | some k =>
    let held := (c.ra.filter (fun r => decide (r.chan = ch))).foldl (fun x r => x + 4 * r.data.length) 0
    if (c.queue (2 + ch)).halted || decide ((s.reg (uPage u 3 + 0x060)).toNat < held + 4 * n) then s
    else
      let (st, ws, t) := match ownOff u a with
        | some o => let (ws, t) := s.sramReadWords u o n; (0, ws, t)
        | none => s.doRead (s.coreSrc u) a n true
      let x : RaData := ⟨ch, k, a, if st ≤ 1 then ws else List.replicate n none,
        if (ownOff u a).isSome then 2 else if st ≤ 1 then 4 else 3⟩
      t.setCore u { t.core u with ra := (t.core u).ra ++ [x] }
def execRunaheadReadResponse (u : UnitId) (ch : Nat) (a : PAddr) (n : Nat) (s : State) : Out :=
  onUnit (coreOk u && decide (ch < 4) && decide (a.toNat % 4 = 0) && decide (1 ≤ n) && decide (a.toNat % 256 + 4 * n ≤ 256))
    (aheadResponse u ch a.toNat n s)

end Sys2Proof.Machine
end

