-- ==== Sys2Proof/Machine/Scalar.lean ====
section
/-! DEFINITION. The scalar sequencer (R32, R44 to R47): RV32I, M, F, Zicsr and Zifencei in machine mode, and the Daxix classes. -/

namespace Sys2Proof.Machine

/-! ### Fields of a word -/

def iRd (w : W32) : RegNo := BitVec.ofNat 5 (fld w 7 5)
def iRs1 (w : W32) : RegNo := BitVec.ofNat 5 (fld w 15 5)
def iRs2 (w : W32) : RegNo := BitVec.ofNat 5 (fld w 20 5)
def iRs3 (w : W32) : RegNo := BitVec.ofNat 5 (fld w 27 5)
def iF3 (w : W32) : Nat := fld w 12 3
def iF7 (w : W32) : Nat := fld w 25 7
/-- Immediates of the I, S, B, U and J forms. -/
def immI (w : W32) : W32 := (w.extractLsb' 20 12).signExtend 32
def immS (w : W32) : W32 := (w.extractLsb' 25 7 ++ w.extractLsb' 7 5).signExtend 32
def immB (w : W32) : W32 :=
  (w.extractLsb' 31 1 ++ w.extractLsb' 7 1 ++ w.extractLsb' 25 6 ++ w.extractLsb' 8 4 ++ (0#1)).signExtend 32
def immU (w : W32) : W32 := w &&& 0xFFFFF000#32
def immJ (w : W32) : W32 :=
  (w.extractLsb' 31 1 ++ w.extractLsb' 12 8 ++ w.extractLsb' 20 1 ++ w.extractLsb' 21 10 ++ (0#1)).signExtend 32

/-! ### Integer arithmetic -/

/-- The arithmetic of OP and OP-IMM; `alt` is bit 30: subtraction, arithmetic right shift. -/
def alu (f3 : Nat) (alt : Bool) (a b : W32) : W32 :=
  match f3 with
  | 0 => if alt then a - b else a + b
  | 1 => a <<< (b.toNat % 32)
  | 2 => w32 (b2n (a.slt b))
  | 3 => w32 (b2n (a.ult b))
  | 4 => a ^^^ b
  | 5 => if alt then a.sshiftRight (b.toNat % 32) else a >>> (b.toNat % 32)
  | 6 => a ||| b
  | _ => a &&& b

/-- The M extension: products, quotients and remainders; a division by zero gives all ones and the dividend. -/
def mulDiv (f3 : Nat) (a b : W32) : W32 :=
  match f3 with
  | 0 => a * b
  | 1 => (a.signExtend 64 * b.signExtend 64).extractLsb' 32 32
  | 2 => (a.signExtend 64 * b.zeroExtend 64).extractLsb' 32 32
  | 3 => (a.zeroExtend 64 * b.zeroExtend 64).extractLsb' 32 32
  | 4 => if b = 0 then 0xFFFFFFFF#32 else a.sdiv b
  | 5 => if b = 0 then 0xFFFFFFFF#32 else a / b
  | 6 => if b = 0 then a else a.srem b
  | _ => if b = 0 then a else a % b

/-- The conditions of the branches; none for a reserved funct3. -/
def branchIf (f3 : Nat) (a b : W32) : Option Bool :=
  match f3 with
  | 0 => some (decide (a = b))
  | 1 => some (decide (a ≠ b))
  | 4 => some (a.slt b)
  | 5 => some (!a.slt b)
  | 6 => some (a.ult b)
  | 7 => some (!a.ult b)
  | _ => none

/-- An instruction that writes x register rd and is done. -/
def State.toX (s : State) (u : UnitId) (rd : RegNo) (v : W32) : State := s.setCore u (((s.core u).wx rd v).advance)
/-- An instruction that writes f register rd and is done. -/
def State.toF (s : State) (u : UnitId) (rd : RegNo) (v : W32) : State := s.setCore u (((s.core u).wf rd v).advance)
/-- An instruction that is done. -/
def State.pass (s : State) (u : UnitId) : State := s.setCore u (s.core u).advance

/-- A jump; a target that is no multiple of 4 traps and links nothing. -/
def State.jump (s : State) (u : UnitId) (rd : RegNo) (target : W32) : State :=
  if target.toNat % 4 ≠ 0 then s.trap u exFetchMis target
  else
    let c := s.core u
    s.setCore u { (c.wx rd (c.pc + 4)).advance with pc := target }

/-! ### Loads and stores (R45, R62) -/

/-- Where the sequencer's map leads (R45). -/
inductive SeqPlace where
  | sp (off : Nat)
  | win (off : Nat)
  | out
  deriving DecidableEq, Repr

def winBase : Nat := 0x10000000

/-- The place of n bytes at an address (R45). -/
def seqPlace (a n : Nat) : SeqPlace :=
  if a + n ≤ spSize then .sp a
  else if winBase ≤ a ∧ a + n ≤ winBase + 0x10000 then .win (a % 0x10000)
  else .out

/-- n bytes loaded at an address: the value, or the exception's cause. -/
def State.seqLoad (s : State) (u : UnitId) (a n : Nat) : Except Nat Nat × State :=
  if a % n ≠ 0 then (.error exLoadMis, s)
  else match seqPlace a n with
    | .sp off =>
      let (bs, t) := s.spRead u off n
      (match bs with
       | some bs => (.ok (ofBytesLE bs), t)
       | none => (.error exLoad, t))
    | .win off =>
      let (w, t) := s.read (uPage u 0 + off / 4 * 4)
      (.ok (nfld w.toNat (8 * (off % 4)) (8 * n)), t)
    | .out => (.error exLoad, s)

/-- n bytes stored at an address: none, or the exception's cause. -/
def State.seqStore (s : State) (u : UnitId) (a n v : Nat) : Option Nat × State :=
  if a % n ≠ 0 then (some exStoreMis, s)
  else match seqPlace a n with
    | .sp off => (none, s.spWrite u off (bytesLE n v))
    | .win off =>
      let lane := off % 4
      (none, s.regWriteW (.dom (s.domainOf u)) (uPage u 0 + off / 4 * 4) (some (w32 (v <<< (8 * lane)))) ((2 ^ n - 1) <<< lane))
    | .out => (some exStore, s)

/-- A load of n bytes whose value goes through `wr`. -/
def State.load (s : State) (u : UnitId) (a : W32) (n : Nat) (wr : State → Nat → State) : State :=
  match s.seqLoad u a.toNat n with
  | (.ok v, t) => wr t v
  | (.error c, t) => t.trap u c a

/-- A store of n bytes. -/
def State.store (s : State) (u : UnitId) (a : W32) (n : Nat) (v : W32) : State :=
  match s.seqStore u a.toNat n (v.toNat % 2 ^ (8 * n)) with
  | (none, t) => t.pass u
  | (some c, t) => t.trap u c a

/-- Sign extension of an n-bit value. -/
def sext (n v : Nat) : W32 := if nbit v (n - 1) then w32 (v + 2 ^ 32 - 2 ^ n) else w32 v

/-- LB, LH, LW, LBU and LHU. -/
def seqLoads (u : UnitId) (w : W32) (s : State) : State :=
  let a := (s.core u).rx (iRs1 w) + immI w
  let rd := iRd w
  match iF3 w with
  | 0 => s.load u a 1 (fun t v => t.toX u rd (sext 8 v))
  | 1 => s.load u a 2 (fun t v => t.toX u rd (sext 16 v))
  | 2 => s.load u a 4 (fun t v => t.toX u rd (w32 v))
  | 4 => s.load u a 1 (fun t v => t.toX u rd (w32 v))
  | 5 => s.load u a 2 (fun t v => t.toX u rd (w32 v))
  | _ => s.illegal u w

/-- SB, SH and SW. -/
def seqStores (u : UnitId) (w : W32) (s : State) : State :=
  let c := s.core u
  let a := c.rx (iRs1 w) + immS w
  match iF3 w with
  | 0 => s.store u a 1 (c.rx (iRs2 w))
  | 1 => s.store u a 2 (c.rx (iRs2 w))
  | 2 => s.store u a 4 (c.rx (iRs2 w))
  | _ => s.illegal u w

/-! ### Control and status registers (R44) -/

/-- mstatus as it reads: MPP is machine mode, and FS and SD say that the f registers are in use. -/
def mstatusOf (v : W32) : W32 := (v &&& 0x88#32) ||| 0x80007800#32

/-- A CSR read; none where the sequencer has no such register. -/
def State.csrRead (s : State) (u : UnitId) (n : Nat) : Option (W32 × State) :=
  let c := s.core u
  if n = 0x001 then some (w32 (nfld c.fcsr.toNat 0 5), s)
  else if n = 0x002 then some (w32 (nfld c.fcsr.toNat 5 3), s)
  else if n = 0x003 then some (w32 c.fcsr.toNat, s)
  else if n = csrMstatus then some (mstatusOf (c.rcsr n), s)
  else if n = 0x301 then some (0x40001120#32, s)
  else if n = csrMie ∨ n = csrMtvec ∨ n = 0x340 ∨ n = csrMepc ∨ n = csrMcause ∨ n = csrMtval then some (c.rcsr n, s)
  else if n = 0x310 ∨ n = 0x320 ∨ n = 0x344 ∨ (0x323 ≤ n ∧ n ≤ 0x33F) then some (0, s)
  else if n = 0xB00 ∨ n = 0xC00 then some (w32 (nfld (s.coreCycles u).toNat 0 32), s)
  else if n = 0xB80 ∨ n = 0xC80 then some (w32 (nfld (s.coreCycles u).toNat 32 32), s)
  else if n = 0xB02 ∨ n = 0xC02 then some (w32 (nfld c.instret.toNat 0 32), s)
  else if n = 0xB82 ∨ n = 0xC82 then some (w32 (nfld c.instret.toNat 32 32), s)
  else if n = 0xC01 then (let (v, t) := s.repCount (1 + uDie u); some (w32 (nfld v 0 32), t))
  else if n = 0xC81 then (let (v, t) := s.repCount (1 + uDie u); some (w32 (nfld v 32 32), t))
  else if (0xB03 ≤ n ∧ n ≤ 0xB1F) ∨ (0xB83 ≤ n ∧ n ≤ 0xB9F) then some (0, s)
  else if 0xF11 ≤ n ∧ n ≤ 0xF15 then some (Config.hartInfo n u, s)
  else none

/-- A CSR written (a register that reads constant keeps its value); clk is the part of the cycle count that the clock gives. -/
def CoreSt.csrWrite (c : CoreSt) (clk : W64) (n : Nat) (v : W32) : CoreSt :=
  let cyc := (c.cycle + clk).toNat
  if n = 0x001 then { c with fcsr := BitVec.ofNat 8 (c.fcsr.toNat / 32 * 32 + fld v 0 5) }
  else if n = 0x002 then { c with fcsr := BitVec.ofNat 8 (fld v 0 3 * 32 + c.fcsr.toNat % 32) }
  else if n = 0x003 then { c with fcsr := BitVec.ofNat 8 (fld v 0 8) }
  else if n = csrMstatus then c.wcsr n (v &&& 0x88#32)
  else if n = csrMie then c.wcsr n (v &&& 0x888#32)
  else if n = csrMtvec then c.wcsr n (v &&& 0xFFFFFFFD#32)
  else if n = csrMepc then c.wcsr n (v &&& 0xFFFFFFFC#32)
  else if n = 0x340 ∨ n = csrMcause ∨ n = csrMtval then c.wcsr n v
  else if n = 0xB00 then { c with cycle := BitVec.ofNat 64 (cyc / 2 ^ 32 * 2 ^ 32 + v.toNat) - clk }
  else if n = 0xB80 then { c with cycle := BitVec.ofNat 64 (2 ^ 32 * v.toNat + cyc % 2 ^ 32) - clk }
  else if n = 0xB02 then { c with instret := BitVec.ofNat 64 (c.instret.toNat / 2 ^ 32 * 2 ^ 32 + v.toNat) }
  else if n = 0xB82 then { c with instret := BitVec.ofNat 64 (2 ^ 32 * v.toNat + c.instret.toNat % 2 ^ 32) }
  else c

/-- CSRRW, CSRRS, CSRRC and their immediate forms: the CSR's old value into rd; a write of a read-only number is illegal. -/
def seqCsr (u : UnitId) (w : W32) (s : State) : State :=
  let n := fld w 20 12
  let f3 := iF3 w
  let x : W32 := if 5 ≤ f3 then w32 (fld w 15 5) else (s.core u).rx (iRs1 w)
  let writes : Bool := decide (f3 % 4 = 1) || decide (fld w 15 5 ≠ 0)
  if f3 % 4 = 0 ∨ (writes = true ∧ 0xC00 ≤ n) then s.illegal u w
  else match s.csrRead u n with
    | none => s.illegal u w
    | some (old, t) =>
      let v := match f3 % 4 with
        | 1 => x
        | 2 => old ||| x
        | _ => old &&& ~~~x
      let c := ((t.core u).wx (iRd w) old).advance
      t.setCore u (if writes then c.csrWrite (s.clkCycles u) n v else c)

/-- ECALL, EBREAK, MRET and WFI; everything else of the group is a CSR instruction or illegal. -/
def seqSystem (u : UnitId) (w : W32) (s : State) : State :=
  let c := s.core u
  if iF3 w ≠ 0 then seqCsr u w s
  else if w = 0x00000073#32 then s.trap u exEcall 0
  else if w = 0x00100073#32 then s.trap u exBreak c.pc
  else if w = 0x30200073#32 then
    let st := c.rcsr csrMstatus
    s.setCore u { (c.wcsr csrMstatus (setFld (setFld st 3 1 (fld st 7 1)) 7 1 1)).advance with pc := c.rcsr csrMepc &&& 0xFFFFFFFC#32 }
  else if w = 0x10500073#32 then s.setCore u { c.advance with wfi := true }
  else s.illegal u w

/-! ### The F extension (R32) -/

/-- The rounding mode of an rm field, 7 being frm; none for a reserved one. -/
def CoreSt.rm (c : CoreSt) (f3 : Nat) : Option Rm :=
  match (if f3 = 7 then nfld c.fcsr.toNat 5 3 else f3) with
  | 0 => some .rne
  | 1 => some .rtz
  | 2 => some .rdn
  | 3 => some .rup
  | 4 => some .rmm
  | _ => none

/-- fflags: NX, UF, OF, DZ and NV. -/
def ffNX : Nat := 1
def ffUF : Nat := 2
def ffOF : Nat := 4
def ffDZ : Nat := 8
def ffNV : Nat := 16

/-- A signalling NaN. -/
def isSnan (a : W32) : Bool := (fdec a).isNan && !bit a 22

/-- A value rounded into FP32 with its fflags. -/
def rvRound (rm : Rm) (v : FVal) (nv dz : Bool) : FRes :=
  let r := FFmt.fp32.round rm false v
  (w32 r.bits, flIf r.nx ffNX ||| flIf r.unfRv ffUF ||| flIf r.ovf ffOF ||| flIf dz ffDZ ||| flIf nv ffNV)

def rvAdd (rm : Rm) (a b : W32) (neg : Bool) : FRes :=
  let y := if neg then (fdec b).neg else fdec b
  let (v, nv) := FVal.add (decide (rm = .rdn)) (fdec a) y
  rvRound rm v (nv || isSnan a || isSnan b) false
def rvMul (rm : Rm) (a b : W32) : FRes :=
  let (v, nv) := FVal.mul (fdec a) (fdec b)
  rvRound rm v (nv || isSnan a || isSnan b) false
def rvDiv (rm : Rm) (a b : W32) : FRes :=
  let (v, nv, dz) := FVal.div (fdec a) (fdec b)
  rvRound rm v (nv || isSnan a || isSnan b) dz
def rvSqrt (rm : Rm) (a : W32) : FRes :=
  let (v, nv) := FVal.sqrt (fdec a)
  rvRound rm v (nv || isSnan a) false

/-- ± a × b ± c with one rounding. -/
def rvFma (rm : Rm) (a b c : W32) (negP negC : Bool) : FRes :=
  let (p, n1) := FVal.mul (fdec a) (fdec b)
  let z := fdec c
  let (v, n2) := FVal.add (decide (rm = .rdn)) (if negP then p.neg else p) (if negC then z.neg else z)
  rvRound rm v (n1 || n2 || isSnan a || isSnan b || isSnan c) false

/-- FMIN and FMAX: the number where one operand is NaN; −0 is below +0. -/
def rvMinMax (max : Bool) (a b : W32) : FRes :=
  let x := fdec a
  let y := fdec b
  let fl := flIf (isSnan a || isSnan b) ffNV
  if x.isNan && y.isNan then (fnan, fl)
  else if x.isNan then (b, fl)
  else if y.isNan then (a, fl)
  else
    let aLess := FVal.lt x y || (FVal.eq x y && bit a 31 && !bit b 31)
    (if aLess != max then a else b, fl)

/-- FEQ, FLT and FLE: 0 where an operand is NaN; FLT and FLE signal every NaN, FEQ signalling ones only. -/
def rvCmp (f3 : Nat) (a b : W32) : FRes :=
  let x := fdec a
  let y := fdec b
  let nan := x.isNan || y.isNan
  match f3 with
  | 2 => (w32 (b2n (FVal.eq x y)), flIf (isSnan a || isSnan b) ffNV)
  | 1 => (w32 (b2n (FVal.lt x y)), flIf nan ffNV)
  | _ => (w32 (b2n (FVal.lt x y || FVal.eq x y)), flIf nan ffNV)

/-- FCLASS. -/
def rvClass (a : W32) : W32 :=
  let s := bit a 31
  let e := fld a 23 8
  let m := fld a 0 23
  let k : Nat :=
    if e = 255 then (if m = 0 then (if s then 0 else 7) else if bit a 22 then 9 else 8)
    else if e = 0 then (if m = 0 then (if s then 3 else 4) else (if s then 2 else 5))
    else (if s then 1 else 6)
  w32 (2 ^ k)

/-- FCVT.W.S and FCVT.WU.S: NaN and what lies outside the range give the nearest bound (NaN the upper) and NV. -/
def rvToInt (rm : Rm) (signed : Bool) (a : W32) : FRes :=
  let lo : Int := if signed then -2147483648 else 0
  let hi : Int := if signed then 2147483647 else 4294967295
  let word (x : Int) : W32 := BitVec.ofInt 32 x
  match fdec a with
  | .nan => (word hi, ffNV)
  | .inf s => (word (if s then lo else hi), ffNV)
  | .fin s m e =>
    match FVal.toInt rm (.fin s m e) with
    | none => (word hi, ffNV)
    | some (x, nx) => if x < lo then (word lo, ffNV) else if hi < x then (word hi, ffNV) else (word x, flIf nx ffNX)

/-- FCVT.S.W and FCVT.S.WU. -/
def rvOfInt (rm : Rm) (signed : Bool) (x : W32) : FRes :=
  rvRound rm (FVal.ofInt (if signed then x.toInt else (x.toNat : Int))) false false

/-- fflags accumulated. -/
def CoreSt.fflag (c : CoreSt) (fl : Nat) : CoreSt := { c with fcsr := c.fcsr ||| BitVec.ofNat 8 fl }

/-- A result into an f register with its flags. -/
def State.fDone (s : State) (u : UnitId) (rd : RegNo) (r : FRes) : State :=
  s.setCore u ((((s.core u).wf rd r.1).fflag r.2).advance)
/-- A result into an x register with its flags. -/
def State.xDone (s : State) (u : UnitId) (rd : RegNo) (r : FRes) : State :=
  s.setCore u ((((s.core u).wx rd r.1).fflag r.2).advance)

/-- FMADD, FMSUB, FNMSUB and FNMADD. -/
def seqFma (u : UnitId) (w : W32) (s : State) : State :=
  let c := s.core u
  let op := fld w 0 7
  match c.rm (iF3 w), decide (fld w 25 2 = 0) with
  | some rm, true =>
    s.fDone u (iRd w) (rvFma rm (c.rf (iRs1 w)) (c.rf (iRs2 w)) (c.rf (iRs3 w)) (decide (op = 0x4B) || decide (op = 0x4F))
      (decide (op = 0x47) || decide (op = 0x4F)))
  | _, _ => s.illegal u w

/-- The OP-FP group. -/
def seqFp (u : UnitId) (w : W32) (s : State) : State :=
  let c := s.core u
  let a := c.rf (iRs1 w)
  let b := c.rf (iRs2 w)
  let rd := iRd w
  let f3 := iF3 w
  let r2 := (iRs2 w).toNat
  let rounded (f : Rm → State) : State := match c.rm f3 with
    | some rm => f rm
    | none => s.illegal u w
  match iF7 w with
  | 0x00 => rounded (fun rm => s.fDone u rd (rvAdd rm a b false))
  | 0x04 => rounded (fun rm => s.fDone u rd (rvAdd rm a b true))
  | 0x08 => rounded (fun rm => s.fDone u rd (rvMul rm a b))
  | 0x0C => rounded (fun rm => s.fDone u rd (rvDiv rm a b))
  | 0x2C => if r2 = 0 then rounded (fun rm => s.fDone u rd (rvSqrt rm a)) else s.illegal u w
  | 0x10 =>
    let m := a &&& 0x7FFFFFFF#32
    let sg := b &&& 0x80000000#32
    (match f3 with
     | 0 => s.toF u rd (m ||| sg)
     | 1 => s.toF u rd (m ||| (sg ^^^ 0x80000000#32))
     | 2 => s.toF u rd (a ^^^ sg)
     | _ => s.illegal u w)
  | 0x14 => if f3 ≤ 1 then s.fDone u rd (rvMinMax (decide (f3 = 1)) a b) else s.illegal u w
  | 0x50 => if f3 ≤ 2 then s.xDone u rd (rvCmp f3 a b) else s.illegal u w
  | 0x60 => if r2 ≤ 1 then rounded (fun rm => s.xDone u rd (rvToInt rm (decide (r2 = 0)) a)) else s.illegal u w
  | 0x68 => if r2 ≤ 1 then rounded (fun rm => s.fDone u rd (rvOfInt rm (decide (r2 = 0)) (c.rx (iRs1 w)))) else s.illegal u w
  | 0x70 =>
    if r2 = 0 ∧ f3 = 0 then s.toX u rd a
    else if r2 = 0 ∧ f3 = 1 then s.toX u rd (rvClass a)
    else s.illegal u w
  | 0x78 => if r2 = 0 ∧ f3 = 0 then s.toF u rd (c.rx (iRs1 w)) else s.illegal u w
  | _ => s.illegal u w

/-! ### Daxix instructions (R47, R50, R53 to R56) -/

/-- The state that a meaning answers. -/
def outState (s : State) : Out → State
  | .next t => t
  | _ => s

/-- CHECKIN (R55): a message with the task number x[rs1][7:0] to the Gatehouse. -/
def seqCheckin (u : UnitId) (rs1 : RegNo) (s : State) : State :=
  (s.pass u).sendMsg u idGatehouse 0x02 [BitVec.ofNat 8 (fld ((s.core u).rx rs1) 0 8)]

/-- Class Q (R50). -/
def seqQ (u : UnitId) (w : W32) (s : State) : State :=
  if iF7 w ≠ 0 then s.illegal u w
  else match iF3 w with
    | 0 => submit u 1 (iRd w) (iRs1 w) s
    | 1 => dsub u (iRd w) (iRs1 w) (iRs2 w) s
    | 2 => qwait u (iRd w) (iRs1 w) (iRs2 w) s
    | 3 => qstat u (iRd w) (iRs1 w) s
    | 4 => qrst u (iRs1 w) s
    | _ => s.illegal u w

/-- Class V (R53). -/
def seqV (u : UnitId) (w : W32) (s : State) : State :=
  let a : VArgs := ⟨u, BitVec.ofNat 3 (iF3 w), bit w 31, iRd w, iRs1 w, iRs2 w⟩
  match fld w 25 6 with
  | 0x00 => outState s (execVadd a s)
  | 0x01 => outState s (execVsub a s)
  | 0x02 => outState s (execVmul a s)
  | 0x03 => outState s (execVfma a s)
  | 0x04 => outState s (execVmin a s)
  | 0x05 => outState s (execVmax a s)
  | 0x06 => outState s (execVclt a s)
  | 0x07 => outState s (execVceq a s)
  | 0x08 => outState s (execVsel a s)
  | 0x10 => outState s (execVexp a s)
  | 0x11 => outState s (execVlog a s)
  | 0x12 => outState s (execVrcp a s)
  | 0x13 => outState s (execVrsqrt a s)
  | 0x18 => outState s (execVrsum a s)
  | 0x19 => outState s (execVrmax a s)
  | 0x1C => outState s (execVbcast a s)
  | _ => s.illegal u w

/-- Class M (R54). -/
def seqM (u : UnitId) (w : W32) (s : State) : State :=
  let a : MArgs := ⟨u, BitVec.ofNat 4 (fld w 28 4), BitVec.ofNat 2 (fld w 26 2), bit w 25, iRd w, iRs1 w, iRs2 w⟩
  match iF3 w with
  | 0 => outState s (execVld a s)
  | 1 => outState s (execVst a s)
  | 2 => outState s (execVldg a s)
  | 3 => outState s (execVsta a s)
  | 4 => outState s (execVacc a s)
  | 5 => outState s (execVcvt a s)
  | _ => s.illegal u w

/-- Class S (R55). -/
def seqS (u : UnitId) (w : W32) (s : State) : State :=
  if iF7 w ≠ 0 then s.illegal u w
  else match iF3 w with
    | 0 => dfence u s
    | 1 => vsets u (iRs1 w) s
    | 2 => seqCheckin u (iRs1 w) s
    | 3 => sigflush u s
    | 4 => pchk u (iRd w) s
    | _ => s.illegal u w

/-! ### One instruction -/

/-- OP-IMM: shifts take funct7 0, or 0x20 for SRAI. -/
def seqOpImm (u : UnitId) (w : W32) (s : State) : State :=
  let a := (s.core u).rx (iRs1 w)
  match iF3 w with
  | 1 => if iF7 w = 0 then s.toX u (iRd w) (alu 1 false a (w32 (fld w 20 5))) else s.illegal u w
  | 5 => if iF7 w = 0 ∨ iF7 w = 0x20 then s.toX u (iRd w) (alu 5 (decide (iF7 w = 0x20)) a (w32 (fld w 20 5))) else s.illegal u w
  | f => s.toX u (iRd w) (alu f false a (immI w))

/-- OP: funct7 0, 0x20 for SUB and SRA, 1 for the M extension. -/
def seqOp (u : UnitId) (w : W32) (s : State) : State :=
  let a := (s.core u).rx (iRs1 w)
  let b := (s.core u).rx (iRs2 w)
  let f := iF3 w
  if iF7 w = 0 then s.toX u (iRd w) (alu f false a b)
  else if iF7 w = 1 then s.toX u (iRd w) (mulDiv f a b)
  else if iF7 w = 0x20 ∧ (f = 0 ∨ f = 5) then s.toX u (iRd w) (alu f true a b)
  else s.illegal u w

/-- A word by its opcode. -/
def seqRun (u : UnitId) (w : W32) (s : State) : State :=
  let c := s.core u
  match fld w 0 7 with
  | 0x37 => s.toX u (iRd w) (immU w)
  | 0x17 => s.toX u (iRd w) (c.pc + immU w)
  | 0x6F => s.jump u (iRd w) (c.pc + immJ w)
  | 0x67 => if iF3 w = 0 then s.jump u (iRd w) ((c.rx (iRs1 w) + immI w) &&& 0xFFFFFFFE#32) else s.illegal u w
  | 0x63 =>
    (match branchIf (iF3 w) (c.rx (iRs1 w)) (c.rx (iRs2 w)) with
     | some true => s.jump u 0 (c.pc + immB w)
     | some false => s.pass u
     | none => s.illegal u w)
  | 0x03 => seqLoads u w s
  | 0x23 => seqStores u w s
  | 0x13 => seqOpImm u w s
  | 0x33 => seqOp u w s
  | 0x0F => if iF3 w ≤ 1 then s.pass u else s.illegal u w
  | 0x73 => seqSystem u w s
  | 0x07 => if iF3 w = 2 then s.load u (c.rx (iRs1 w) + immI w) 4 (fun t v => t.toF u (iRd w) (w32 v)) else s.illegal u w
  | 0x27 => if iF3 w = 2 then s.store u (c.rx (iRs1 w) + immS w) 4 (c.rf (iRs2 w)) else s.illegal u w
  | 0x43 => seqFma u w s
  | 0x47 => seqFma u w s
  | 0x4B => seqFma u w s
  | 0x4F => seqFma u w s
  | 0x53 => seqFp u w s
  | 0x0B => seqQ u w s
  | 0x2B => seqV u w s
  | 0x5B => seqM u w s
  | 0x7B => seqS u w s
  | _ => s.illegal u w

/-- Loads, stores and F instructions, which keep their order with vector instructions that have issued (R56; for the f registers
DEDUCED). -/
def seqOrdered (w : W32) : Bool := ([0x03, 0x23, 0x07, 0x27, 0x43, 0x47, 0x4B, 0x4F, 0x53] : List Nat).contains (fld w 0 7)

/-- Meaning of SCALAR_INSTRUCTION (R44 to R46): the word that the sequencer fetched at its program counter. -/
def scalarInstruction (u : UnitId) (w : W32) (s : State) : State :=
  if !s.executing u then s
  else if seqPlace (s.core u).pc.toNat 4 = .out then s.trap u exFetch (s.core u).pc
  else if seqOrdered w && (s.core u).vBehind then s
  else seqRun u w s
def execScalarInstruction (core : UnitId) (word : W32) (s : State) : Out := onUnit (coreOk core) (scalarInstruction core word s)

end Sys2Proof.Machine
end

