-- ==== Sys2Proof/Machine/Dispatch.lean ====
section
/-! DEFINITION. One arm per command. -/

namespace Sys2Proof.Machine

/-- The effect of a command on everything but the queue. -/
def exec (i : Instr) (s : State) : Host.Outcome State Fault Refusal :=
  match i with
  | .scalarInstruction core word => Sys2Proof.Machine.execScalarInstruction core word s
  | .tsub core rd rs1 => Sys2Proof.Machine.execTsub core rd rs1 s
  | .dsub core rd rs1 rs2 => Sys2Proof.Machine.execDsub core rd rs1 rs2 s
  | .qwait core rd rs1 rs2 => Sys2Proof.Machine.execQwait core rd rs1 rs2 s
  | .qstat core rd rs1 => Sys2Proof.Machine.execQstat core rd rs1 s
  | .qrst core rs1 => Sys2Proof.Machine.execQrst core rs1 s
  | .vadd a => Sys2Proof.Machine.execVadd a s
  | .vsub a => Sys2Proof.Machine.execVsub a s
  | .vmul a => Sys2Proof.Machine.execVmul a s
  | .vfma a => Sys2Proof.Machine.execVfma a s
  | .vmin a => Sys2Proof.Machine.execVmin a s
  | .vmax a => Sys2Proof.Machine.execVmax a s
  | .vclt a => Sys2Proof.Machine.execVclt a s
  | .vceq a => Sys2Proof.Machine.execVceq a s
  | .vsel a => Sys2Proof.Machine.execVsel a s
  | .vexp a => Sys2Proof.Machine.execVexp a s
  | .vlog a => Sys2Proof.Machine.execVlog a s
  | .vrcp a => Sys2Proof.Machine.execVrcp a s
  | .vrsqrt a => Sys2Proof.Machine.execVrsqrt a s
  | .vrsum a => Sys2Proof.Machine.execVrsum a s
  | .vrmax a => Sys2Proof.Machine.execVrmax a s
  | .vbcast a => Sys2Proof.Machine.execVbcast a s
  | .vld a => Sys2Proof.Machine.execVld a s
  | .vst a => Sys2Proof.Machine.execVst a s
  | .vldg a => Sys2Proof.Machine.execVldg a s
  | .vsta a => Sys2Proof.Machine.execVsta a s
  | .vacc a => Sys2Proof.Machine.execVacc a s
  | .vcvt a => Sys2Proof.Machine.execVcvt a s
  | .dfence core => Sys2Proof.Machine.execDfence core s
  | .vsets core fs1 => Sys2Proof.Machine.execVsets core fs1 s
  | .checkin link dom m => Sys2Proof.Machine.execCheckin link dom m s
  | .sigflush core => Sys2Proof.Machine.execSigflush core s
  | .pchk core rd => Sys2Proof.Machine.execPchk core rd s
  | .tensorOpStart core => Sys2Proof.Machine.execTensorOpStart core s
  | .tensorOpComplete core => Sys2Proof.Machine.execTensorOpComplete core s
  | .dmaCopy core ch => Sys2Proof.Machine.execDmaCopy core ch s
  | .dmaGather core ch => Sys2Proof.Machine.execDmaGather core ch s
  | .dmaHashgather core ch => Sys2Proof.Machine.execDmaHashgather core ch s
  | .dmaFill core ch => Sys2Proof.Machine.execDmaFill core ch s
  | .dmaDescriptorComplete core ch => Sys2Proof.Machine.execDmaDescriptorComplete core ch s
  | .vectorInstructionComplete core => Sys2Proof.Machine.execVectorInstructionComplete core s
  | .runaheadReadResponse core ch addr words => Sys2Proof.Machine.execRunaheadReadResponse core ch addr words s
  | .signatureContextAcquire core ch => Sys2Proof.Machine.execSignatureContextAcquire core ch s
  | .signatureMessageQueue core ctx => Sys2Proof.Machine.execSignatureMessageQueue core ctx s
  | .signatureMessageSend core => Sys2Proof.Machine.execSignatureMessageSend core s
  | .scratchpadScrubLine core => Sys2Proof.Machine.execScratchpadScrubLine core s
  | .coreSrSeedWrite w core v => Sys2Proof.Machine.execCoreSrSeedWrite w core v s
  | .coreBootWrite w core v => Sys2Proof.Machine.execCoreBootWrite w core v s
  | .corePreemptWrite w core v => Sys2Proof.Machine.execCorePreemptWrite w core v s
  | .corePreemptClr w core v => Sys2Proof.Machine.execCorePreemptClr w core v s
  | .sigContextWrite w core ctx idx v => Sys2Proof.Machine.execSigContextWrite w core ctx idx v s
  | .sigSeqWrite w core copy v => Sys2Proof.Machine.execSigSeqWrite w core copy v s
  | .cluSpareMapWrite w clu v => Sys2Proof.Machine.execCluSpareMapWrite w clu v s
  | .pkgLoad w index => Sys2Proof.Machine.execPkgLoad w index s
  | .pkgUnload w index => Sys2Proof.Machine.execPkgUnload w index s
  | .pkgLoadComplete index desc => Sys2Proof.Machine.execPkgLoadComplete index desc s
  | .bankSwitchRequest w v => Sys2Proof.Machine.execBankSwitchRequest w v s
  | .declareReply m => Sys2Proof.Machine.execDeclareReply m s
  | .declareReplyTimeout => Sys2Proof.Machine.execDeclareReplyTimeout s
  | .gatherWindowClose entry => Sys2Proof.Machine.execGatherWindowClose entry s
  | .runStart entry proof copyB => Sys2Proof.Machine.execRunStart entry proof copyB s
  | .coreYield core => Sys2Proof.Machine.execCoreYield core s
  | .workItemComplete core => Sys2Proof.Machine.execWorkItemComplete core s
  | .runDeadline entry => Sys2Proof.Machine.execRunDeadline entry s
  | .preemptTimeout core => Sys2Proof.Machine.execPreemptTimeout core s
  | .runOutcome m entry proof runSeq outcome => Sys2Proof.Machine.execRunOutcome m entry proof runSeq outcome s
  | .resultRingConfigWrite w service which v => Sys2Proof.Machine.execResultRingConfigWrite w service which v s
  | .mcRead die addr => Sys2Proof.Machine.execMcRead die addr s
  | .mcWrite die addr words be => Sys2Proof.Machine.execMcWrite die addr words be s
  | .correctedWriteback die => Sys2Proof.Machine.execCorrectedWriteback die s
  | .dramScrubLine die => Sys2Proof.Machine.execDramScrubLine die s
  | .sramScrubLine unit => Sys2Proof.Machine.execSramScrubLine unit s
  | .fwWindowCtrlWrite w inst win v => Sys2Proof.Machine.execFwWindowCtrlWrite w inst win v s
  | .fwLogClr w inst v => Sys2Proof.Machine.execFwLogClr w inst v s
  | .mcLogClr w die v => Sys2Proof.Machine.execMcLogClr w die v s
  | .blkDomainWrite w unit v => Sys2Proof.Machine.execBlkDomainWrite w unit v s
  | .hostRead bar off words => Sys2Proof.Machine.execHostRead bar off words s
  | .hostWrite bar off bytes ep relaxed => Sys2Proof.Machine.execHostWrite bar off bytes ep relaxed s
  | .fabricRead die p => Sys2Proof.Machine.execFabricRead die p s
  | .fabricWrite die p => Sys2Proof.Machine.execFabricWrite die p s
  | .fabricResponse die p => Sys2Proof.Machine.execFabricResponse die p s
  | .fabricRetry die srcUnit ret tag => Sys2Proof.Machine.execFabricRetry die srcUnit ret tag s
  | .fabricTimeout die srcUnit ret tag => Sys2Proof.Machine.execFabricTimeout die srcUnit ret tag s
  | .tagQuarantineEnd die srcUnit ret tag => Sys2Proof.Machine.execTagQuarantineEnd die srcUnit ret tag s
  | .mcastWrite die p => Sys2Proof.Machine.execMcastWrite die p s
  | .reduce die p => Sys2Proof.Machine.execReduce die p s
  | .collectiveContextAcquire node => Sys2Proof.Machine.execCollectiveContextAcquire node s
  | .flitReceive lend group f => Sys2Proof.Machine.execFlitReceive lend group f s
  | .linkReplay lend group fseq => Sys2Proof.Machine.execLinkReplay lend group fseq s
  | .linkIdleTimeout lend => Sys2Proof.Machine.execLinkIdleTimeout lend s
  | .linkTrain w lend v => Sys2Proof.Machine.execLinkTrain w lend v s
  | .ghLinkAutoDetect link => Sys2Proof.Machine.execGhLinkAutoDetect link s
  | .linkPartnerDetected lend groups => Sys2Proof.Machine.execLinkPartnerDetected lend groups s
  | .linkTrainTimeout lend => Sys2Proof.Machine.execLinkTrainTimeout lend s
  | .linkNegotiate lend => Sys2Proof.Machine.execLinkNegotiate lend s
  | .linkGroupTrainEnd lend pass => Sys2Proof.Machine.execLinkGroupTrainEnd lend pass s
  | .linkMaskExchange lend => Sys2Proof.Machine.execLinkMaskExchange lend s
  | .triggerCycle => Sys2Proof.Machine.execTriggerCycle s
  | .graceExpiry out => Sys2Proof.Machine.execGraceExpiry out s
  | .verdictInstant delay collisions => Sys2Proof.Machine.execVerdictInstant delay collisions s
  | .resultAgeExpiry service => Sys2Proof.Machine.execResultAgeExpiry service s
  | .proofStale service => Sys2Proof.Machine.execProofStale service s
  | .declare m d => Sys2Proof.Machine.execDeclare m d s
  | .restartOrder m order scope => Sys2Proof.Machine.execRestartOrder m order scope s
  | .restartAck m => Sys2Proof.Machine.execRestartAck m s
  | .restartAckTimeout order => Sys2Proof.Machine.execRestartAckTimeout order s
  | .restartDone m => Sys2Proof.Machine.execRestartDone m s
  | .restartDoneTimeout order => Sys2Proof.Machine.execRestartDoneTimeout order s
  | .areas m => Sys2Proof.Machine.execAreas m s
  | .areasReply m => Sys2Proof.Machine.execAreasReply m s
  | .runOpen m entry proof runSeq twoCopy dieA dieB deadline => Sys2Proof.Machine.execRunOpen m entry proof runSeq twoCopy dieA dieB deadline s
  | .slotClearComplete entry proof => Sys2Proof.Machine.execSlotClearComplete entry proof s
  | .signature link dom m => Sys2Proof.Machine.execSignature link dom m s
  | .arbitrationStart => Sys2Proof.Machine.execArbitrationStart s
  | .arbitrationEnd fetchOk => Sys2Proof.Machine.execArbitrationEnd fetchOk s
  | .belvedereDeadline entry proof => Sys2Proof.Machine.execBelvedereDeadline entry proof s
  | .slotScrubPassStart => Sys2Proof.Machine.execSlotScrubPassStart s
  | .slotScrubPassEnd => Sys2Proof.Machine.execSlotScrubPassEnd s
  | .bvFailClr w v => Sys2Proof.Machine.execBvFailClr w v s
  | .deadline m entry newDeadline => Sys2Proof.Machine.execDeadline m entry newDeadline s
  | .frameEnd src => Sys2Proof.Machine.execFrameEnd src s
  | .syntheticLineComplete src spoiled writesOk => Sys2Proof.Machine.execSyntheticLineComplete src spoiled writesOk s
  | .streamFrameEnd src => Sys2Proof.Machine.execStreamFrameEnd src s
  | .goldenDue service => Sys2Proof.Machine.execGoldenDue service s
  | .goldenRunDeadline entry => Sys2Proof.Machine.execGoldenRunDeadline entry s
  | .testSliceStart lane => Sys2Proof.Machine.execTestSliceStart lane s
  | .testSliceEnd lane defect noReport => Sys2Proof.Machine.execTestSliceEnd lane defect noReport s
  | .checkerEligible checker => Sys2Proof.Machine.execCheckerEligible checker s
  | .checkerOverdue checker => Sys2Proof.Machine.execCheckerOverdue checker s
  | .folStFailClr w v => Sys2Proof.Machine.execFolStFailClr w v s
  | .sourceRise page bit injected => Sys2Proof.Machine.execSourceRise page bit injected s
  | .errReport link dom m => Sys2Proof.Machine.execErrReport link dom m s
  | .srcVector link dom m => Sys2Proof.Machine.execSrcVector link dom m s
  | .srcVectorPeriod die => Sys2Proof.Machine.execSrcVectorPeriod die s
  | .concentratorSilence die => Sys2Proof.Machine.execConcentratorSilence die s
  | .blkErrClear w page v => Sys2Proof.Machine.execBlkErrClear w page v s
  | .quietPeriodExpiry cls => Sys2Proof.Machine.execQuietPeriodExpiry cls s
  | .hourlyWindowAdvance => Sys2Proof.Machine.execHourlyWindowAdvance s
  | .fcAck w v => Sys2Proof.Machine.execFcAck w v s
  | .faultAck m => Sys2Proof.Machine.execFaultAck m s
  | .fcForce w v => Sys2Proof.Machine.execFcForce w v s
  | .faultForce m => Sys2Proof.Machine.execFaultForce m s
  | .faultNote m => Sys2Proof.Machine.execFaultNote m s
  | .filterExpiry hw chan since => Sys2Proof.Machine.execFilterExpiry hw chan since s
  | .testPulseStart tp hwReads prReads => Sys2Proof.Machine.execTestPulseStart tp hwReads prReads s
  | .testPulseCheck hw chan sawLow => Sys2Proof.Machine.execTestPulseCheck hw chan sawLow s
  | .discrepancyTimeout hw pair => Sys2Proof.Machine.execDiscrepancyTimeout hw pair s
  | .processorSample => Sys2Proof.Machine.execProcessorSample s
  | .sioHsCmd w v => Sys2Proof.Machine.execSioHsCmd w v s
  | .hsCmdExpiry => Sys2Proof.Machine.execHsCmdExpiry s
  | .sioLatchSet w v => Sys2Proof.Machine.execSioLatchSet w v s
  | .adcSample chan val => Sys2Proof.Machine.execAdcSample chan val s
  | .darkTestStart out lowSide => Sys2Proof.Machine.execDarkTestStart out lowSide s
  | .darkTestTimeout out => Sys2Proof.Machine.execDarkTestTimeout out s
  | .sioLockClr w v => Sys2Proof.Machine.execSioLockClr w v s
  | .resumePressBegin => Sys2Proof.Machine.execResumePressBegin s
  | .resumeRelease first => Sys2Proof.Machine.execResumeRelease first s
  | .resumeDiscrepancyTimeout => Sys2Proof.Machine.execResumeDiscrepancyTimeout s
  | .resumeStuckTimeout contact => Sys2Proof.Machine.execResumeStuckTimeout contact s
  | .sioResumeClr w v => Sys2Proof.Machine.execSioResumeClr w v s
  | .irqSourceEvent inst src level => Sys2Proof.Machine.execIrqSourceEvent inst src level s
  | .icuClaim inst tgt => Sys2Proof.Machine.execIcuClaim inst tgt s
  | .icuComplete w inst tgt v => Sys2Proof.Machine.execIcuComplete w inst tgt v s
  | .irqModerationEnd inst src => Sys2Proof.Machine.execIrqModerationEnd inst src s
  | .icuGctrlWrite w inst v => Sys2Proof.Machine.execIcuGctrlWrite w inst v s
  | .wdCtrlWrite w wd v => Sys2Proof.Machine.execWdCtrlWrite w wd v s
  | .wdWindowWrite w wd close v => Sys2Proof.Machine.execWdWindowWrite w wd close v s
  | .wdKey w wd v => Sys2Proof.Machine.execWdKey w wd v s
  | .watchdogTimeout wd => Sys2Proof.Machine.execWatchdogTimeout wd s
  | .watchdogCoreReset core => Sys2Proof.Machine.execWatchdogCoreReset core s
  | .watchdogGatehouseReset imageOk => Sys2Proof.Machine.execWatchdogGatehouseReset imageOk s
  | .wdBiteClr w wd v => Sys2Proof.Machine.execWdBiteClr w wd v s
  | .debugHalt wd crossTrigger => Sys2Proof.Machine.execDebugHalt wd crossTrigger s
  | .debugResume wd => Sys2Proof.Machine.execDebugResume wd s
  | .clockMonitorWindow clk good imageOk => Sys2Proof.Machine.execClockMonitorWindow clk good imageOk s
  | .taskWindowClose task => Sys2Proof.Machine.execTaskWindowClose task s
  | .tsmFailClr w v => Sys2Proof.Machine.execTsmFailClr w v s
  | .cvuStart w u v => Sys2Proof.Machine.execCvuStart w u v s
  | .cvuData8 w u v => Sys2Proof.Machine.execCvuData8 w u v s
  | .cvuData16 w u v => Sys2Proof.Machine.execCvuData16 w u v s
  | .cvuData32 w u v => Sys2Proof.Machine.execCvuData32 w u v s
  | .cvuRunWrite w u hi v => Sys2Proof.Machine.execCvuRunWrite w u hi v s
  | .cvuStatRead u => Sys2Proof.Machine.execCvuStatRead u s
  | .streamTimeout rx src => Sys2Proof.Machine.execStreamTimeout rx src s
  | .pmLastClr w rx v => Sys2Proof.Machine.execPmLastClr w rx v s
  | .heartbeat m node => Sys2Proof.Machine.execHeartbeat m node s
  | .frcSnapshot => Sys2Proof.Machine.execFrcSnapshot s
  | .replicaSnapshot r => Sys2Proof.Machine.execReplicaSnapshot r s
  | .commitRate w => Sys2Proof.Machine.execCommitRate w s
  | .commitStepValue w => Sys2Proof.Machine.execCommitStepValue w s
  | .commitStepDomain w => Sys2Proof.Machine.execCommitStepDomain w s
  | .marker echo => Sys2Proof.Machine.execMarker echo s
  | .syncWord r => Sys2Proof.Machine.execSyncWord r s
  | .replicaSyncLoss r => Sys2Proof.Machine.execReplicaSyncLoss r s
  | .steeringTick => Sys2Proof.Machine.execSteeringTick s
  | .domainSelectWrite w v => Sys2Proof.Machine.execDomainSelectWrite w v s
  | .domainRecordFetch => Sys2Proof.Machine.execDomainRecordFetch s
  | .domainStale d => Sys2Proof.Machine.execDomainStale d s
  | .triggerCtrlWrite w e v => Sys2Proof.Machine.execTriggerCtrlWrite w e v s
  | .triggerIrq e => Sys2Proof.Machine.execTriggerIrq e s
  | .triggerRun e => Sys2Proof.Machine.execTriggerRun e s
  | .triggerEth e => Sys2Proof.Machine.execTriggerEth e s
  | .triggerAdc e => Sys2Proof.Machine.execTriggerAdc e s
  | .captureEdge inp falling at_ => Sys2Proof.Machine.execCaptureEdge inp falling at_ s
  | .captureRead inp => Sys2Proof.Machine.execCaptureRead inp s
  | .ppsPulse => Sys2Proof.Machine.execPpsPulse s
  | .ppsPulseEnd => Sys2Proof.Machine.execPpsPulseEnd s
  | .msixHoldEnd vec => Sys2Proof.Machine.execMsixHoldEnd vec s
  | .msixUnmask vec cfg => Sys2Proof.Machine.execMsixUnmask vec cfg s
  | .functionLevelReset => Sys2Proof.Machine.execFunctionLevelReset s
  | .pcieLinkDown => Sys2Proof.Machine.execPcieLinkDown s
  | .pcieRetrain w v => Sys2Proof.Machine.execPcieRetrain w v s
  | .csiFrameStart src => Sys2Proof.Machine.execCsiFrameStart src s
  | .csiLongPacket port vc dt payload eccErrs crcOk => Sys2Proof.Machine.execCsiLongPacket port vc dt payload eccErrs crcOk s
  | .csiRestart w port v => Sys2Proof.Machine.execCsiRestart w port v s
  | .ethFrameReceive mac f => Sys2Proof.Machine.execEthFrameReceive mac f s
  | .ethFrameTransmit mac queue bytes oneStep => Sys2Proof.Machine.execEthFrameTransmit mac queue bytes oneStep s
  | .ethLinkUp mac speed => Sys2Proof.Machine.execEthLinkUp mac speed s
  | .t1sFrameReceive mac etype fcsOk m => Sys2Proof.Machine.execT1sFrameReceive mac etype fcsOk m s
  | .verdictBeacon => Sys2Proof.Machine.execVerdictBeacon s
  | .foreignBeacon => Sys2Proof.Machine.execForeignBeacon s
  | .coordinatorResume => Sys2Proof.Machine.execCoordinatorResume s
  | .heartbeatDue peer => Sys2Proof.Machine.execHeartbeatDue peer s
  | .gatehousePowerOn imageOk => Sys2Proof.Machine.execGatehousePowerOn imageOk s
  | .gatehouseReset cause imageOk => Sys2Proof.Machine.execGatehouseReset cause imageOk s
  | .safetyRecordLoad rec => Sys2Proof.Machine.execSafetyRecordLoad rec s
  | .ioDieRelease w => Sys2Proof.Machine.execIoDieRelease w s
  | .ioDieReset w => Sys2Proof.Machine.execIoDieReset w s
  | .manifest core => Sys2Proof.Machine.execManifest core s
  | .segment core => Sys2Proof.Machine.execSegment core s
  | .check core => Sys2Proof.Machine.execCheck core s
  | .reset w unit absorb drainTo => Sys2Proof.Machine.execReset w unit absorb drainTo s
  | .hold w unit absorb drainTo => Sys2Proof.Machine.execHold w unit absorb drainTo s
  | .release w unit => Sys2Proof.Machine.execRelease w unit s
  | .powerDown w unit absorb drainTo => Sys2Proof.Machine.execPowerDown w unit absorb drainTo s
  | .drainComplete unit => Sys2Proof.Machine.execDrainComplete unit s
  | .drainTimeout unit => Sys2Proof.Machine.execDrainTimeout unit s
  | .absorbComplete unit => Sys2Proof.Machine.execAbsorbComplete unit s
  | .unitInitComplete unit ok => Sys2Proof.Machine.execUnitInitComplete unit ok s
  | .firmwareSwitchRequest w => Sys2Proof.Machine.execFirmwareSwitchRequest w s
  | .firmwareSwitchDone w => Sys2Proof.Machine.execFirmwareSwitchDone w s
  | .firmwareSwitchTimeout => Sys2Proof.Machine.execFirmwareSwitchTimeout s
  | .railMonitorSample chan mv => Sys2Proof.Machine.execRailMonitorSample chan mv s
  | .railArmTimeout chan => Sys2Proof.Machine.execRailArmTimeout chan s
  | .killSet w => Sys2Proof.Machine.execKillSet w s
  | .killRelease w => Sys2Proof.Machine.execKillRelease w s
  | .brownOut => Sys2Proof.Machine.execBrownOut s
  | .brownOutRecovery imageOk => Sys2Proof.Machine.execBrownOutRecovery imageOk s
  | .capTick est other => Sys2Proof.Machine.execCapTick est other s
  | .thermalTick temps stackTemps => Sys2Proof.Machine.execThermalTick temps stackTemps s
  | .thermalTrip die => Sys2Proof.Machine.execThermalTrip die s
  | .pwrPavCfgWrite w pav v => Sys2Proof.Machine.execPwrPavCfgWrite w pav v s
  | .pwrVreadyWrite w die v => Sys2Proof.Machine.execPwrVreadyWrite w die v s
  | .profileChange pav => Sys2Proof.Machine.execProfileChange pav s
  | .droopPause island => Sys2Proof.Machine.execDroopPause island s
  | .railTelemetryRead warn => Sys2Proof.Machine.execRailTelemetryRead warn s
  | .quote => Sys2Proof.Machine.execQuote s
  | .challenge => Sys2Proof.Machine.execChallenge s
  | .unlock => Sys2Proof.Machine.execUnlock s
  | .extend => Sys2Proof.Machine.execExtend s
  | .sprInstall rec => Sys2Proof.Machine.execSprInstall rec s
  | .ghInstall => Sys2Proof.Machine.execGhInstall s
  | .grottoCommit => Sys2Proof.Machine.execGrottoCommit s
  | .idTreeBuildComplete => Sys2Proof.Machine.execIdTreeBuildComplete s
  | .challengeLapse => Sys2Proof.Machine.execChallengeLapse s
  | .gkRestart w cause => Sys2Proof.Machine.execGkRestart w cause s
  | .stageSet flashOk => Sys2Proof.Machine.execStageSet flashOk s
  | .stageGh flashOk => Sys2Proof.Machine.execStageGh flashOk s
  | .activate flashOk => Sys2Proof.Machine.execActivate flashOk s
  | .confirm flashOk => Sys2Proof.Machine.execConfirm flashOk s
  | .hostCommit => Sys2Proof.Machine.execHostCommit s
  | .hostFaultAck => Sys2Proof.Machine.execHostFaultAck s
  | .cal flashOk => Sys2Proof.Machine.execCal flashOk s
  | .note => Sys2Proof.Machine.execNote s
  | .logPageProgram => Sys2Proof.Machine.execLogPageProgram s
  | .telemetryPeriod => Sys2Proof.Machine.execTelemetryPeriod s
  | .calUserWrite w inst v => Sys2Proof.Machine.execCalUserWrite w inst v s
  | .serviceAccessGrant => Sys2Proof.Machine.execServiceAccessGrant s
  | .serviceAccessEnd => Sys2Proof.Machine.execServiceAccessEnd s
  | .tapReset tap => Sys2Proof.Machine.execTapReset tap s
  | .idcode tap => Sys2Proof.Machine.execIdcode tap s
  | .samplePreload tap cells => Sys2Proof.Machine.execSamplePreload tap cells s
  | .extest tap => Sys2Proof.Machine.execExtest tap s
  | .extestPulse tap => Sys2Proof.Machine.execExtestPulse tap s
  | .extestTrain tap => Sys2Proof.Machine.execExtestTrain tap s
  | .clamp tap => Sys2Proof.Machine.execClamp tap s
  | .highz tap => Sys2Proof.Machine.execHighz tap s
  | .ghMbox word valid => Sys2Proof.Machine.execGhMbox word valid s
  | .debugAccess tap op => Sys2Proof.Machine.execDebugAccess tap op s
  | .bypass tap => Sys2Proof.Machine.execBypass tap s
  | .blkGenSelWrite w page v => Sys2Proof.Machine.execBlkGenSelWrite w page v s
  | .blkLockWrite w page v => Sys2Proof.Machine.execBlkLockWrite w page v s
  | .blkInjWrite w page v => Sys2Proof.Machine.execBlkInjWrite w page v s
  | .unitClassWrite w unit v => Sys2Proof.Machine.execUnitClassWrite w unit v s
  | .unitCtxSrWrite w core v => Sys2Proof.Machine.execUnitCtxSrWrite w core v s
  | .registerWrite w addr v => Sys2Proof.Machine.execRegisterWrite w addr v s
  | .computeDiePowerUp die => Sys2Proof.Machine.execComputeDiePowerUp die s
  | .dramTrainingComplete die ok => Sys2Proof.Machine.execDramTrainingComplete die ok s
  | .pcieLinkUp rate width => Sys2Proof.Machine.execPcieLinkUp rate width s
  | .ethLinkDown mac => Sys2Proof.Machine.execEthLinkDown mac s
  | .dphySyncError port => Sys2Proof.Machine.execDphySyncError port s
  | .ioDieThermalReset => Sys2Proof.Machine.execIoDieThermalReset s
  | .credentialValidTimeout => Sys2Proof.Machine.execCredentialValidTimeout s

end Sys2Proof.Machine
end

