-- ==== Sys2Proof/Machine/Step.lean ====
section
/-! DEFINITION. One step: the command at the front of the queue runs on the state with the queue's rest. On an empty queue
the part idles for one tick of the free-running counter (R303, R304). -/

namespace Sys2Proof.Machine

/-- Nothing is commanded: one tick passes. -/
def State.idle (s : State) : State := { s with frc := s.frc + 1 }

/-- One step of the part. -/
def step (s : State) : Host.Outcome State Fault Refusal :=
  match s.pending with
  | [] => .next s.idle
  | c :: rest => exec c { s with pending := rest }

/-- The state with the command that a word spells at the front of its queue; the table gives no row bits, so no word
spells one. -/
def State.withFetchWord (s : State) (nbits w : Nat) : State :=
  match decodeTableWord nbits w with
  | some c => { s with pending := c :: s.pending }
  | none => s

end Sys2Proof.Machine
end

