-- ==== Sys2Proof/WellFormed.lean ====
section
/-! DEFINITION. Well-formed commands: those whose units, instances and indices the part has. -/

namespace Sys2Proof

open Sys2Proof.Machine

/-- Whether the part has every unit, instance and index that a command names. -/
def Instr.wf : Instr → Bool
  | .scalarInstruction core _ => coreOk core
  | .tsub u _ _ => coreOk u
  | .dsub u _ _ _ => coreOk u
  | .qwait u _ _ _ => coreOk u
  | .qstat u _ _ => coreOk u
  | .qrst u _ => coreOk u
  | .vadd a => coreOk a.core
  | .vsub a => coreOk a.core
  | .vmul a => coreOk a.core
  | .vfma a => coreOk a.core
  | .vmin a => coreOk a.core
  | .vmax a => coreOk a.core
  | .vclt a => coreOk a.core
  | .vceq a => coreOk a.core
  | .vsel a => coreOk a.core
  | .vexp a => coreOk a.core
  | .vlog a => coreOk a.core
  | .vrcp a => coreOk a.core
  | .vrsqrt a => coreOk a.core
  | .vrsum a => coreOk a.core
  | .vrmax a => coreOk a.core
  | .vbcast a => coreOk a.core
  | .vld a => coreOk a.core
  | .vst a => coreOk a.core
  | .vldg a => coreOk a.core
  | .vsta a => coreOk a.core
  | .vacc a => coreOk a.core
  | .vcvt a => coreOk a.core
  | .dfence u => coreOk u
  | .vsets u _ => coreOk u
  | .checkin link _ _ => decide (link < 2)
  | .sigflush u => coreOk u
  | .pchk u _ => coreOk u
  | .tensorOpStart u => coreOk u
  | .tensorOpComplete u => coreOk u
  | .dmaCopy u ch => coreOk u && decide (ch < 4)
  | .dmaGather u ch => coreOk u && decide (ch < 4)
  | .dmaHashgather u ch => coreOk u && decide (ch < 4)
  | .dmaFill u ch => coreOk u && decide (ch < 4)
  | .dmaDescriptorComplete u ch => coreOk u && decide (ch < 4)
  | .vectorInstructionComplete u => coreOk u
  | .runaheadReadResponse u ch a n => coreOk u && decide (ch < 4) && decide (a.toNat % 4 = 0) && decide (1 ≤ n) && decide (a.toNat % 256 + 4 * n ≤ 256)
  | .signatureContextAcquire u ch => coreOk u && decide (ch < 4)
  | .signatureMessageQueue u n => coreOk u && decide (n < 4)
  | .signatureMessageSend u => coreOk u
  | .scratchpadScrubLine u => coreOk u
  | .coreSrSeedWrite _ u _ => coreOk u
  | .coreBootWrite _ u _ => coreOk u
  | .corePreemptWrite _ u _ => coreOk u
  | .corePreemptClr _ u _ => coreOk u
  | .sigContextWrite _ u n r _ => coreOk u && decide (n < 4) && decide (r < 8)
  | .sigSeqWrite _ u _ _ => coreOk u
  | .cluSpareMapWrite _ clu _ => uValid clu && decide (uLevel clu = 1)
  | .pkgLoad _ _ => true
  | .pkgUnload _ _ => true
  | .pkgLoadComplete _ _ => true
  | .bankSwitchRequest _ _ => true
  | .declareReply _ => true
  | .declareReplyTimeout => true
  | .gatherWindowClose n => decide (n < 256)
  | .runStart n _ _ => decide (n < 256)
  | .coreYield u => coreOk u
  | .workItemComplete u => coreOk u
  | .runDeadline n => decide (n < 256)
  | .preemptTimeout u => coreOk u
  | .runOutcome _ _ _ _ _ => true
  | .resultRingConfigWrite _ _ which _ => decide (which < 3)
  | .mcRead d a => mcLineOk d a.toNat
  | .mcWrite d a ws _ => mcLineOk d a.toNat && decide (ws.length = 16)
  | .correctedWriteback d => decide (d < 2)
  | .dramScrubLine d => decide (d < 2)
  | .sramScrubLine u => uValid u && (decide (uLevel u = 1) || decide (uLevel u = 2))
  | .fwWindowCtrlWrite _ i win _ => decide (i < 11) && decide (win < fwCount i)
  | .fwLogClr _ i _ => decide (i < 11)
  | .mcLogClr _ d _ => decide (d < 2)
  | .blkDomainWrite _ u _ => uValid u
  | .hostRead bar off n => barOk bar off (4 * n) && decide (off % 4 = 0) && decide (1 ≤ n) && decide (n ≤ 1024)
  | .hostWrite bar off bs _ _ => barOk bar off bs.length && decide (bs.length ≤ 4096)
  | .fabricRead die _ => decide (die < 3)
  | .fabricWrite die _ => decide (die < 3)
  | .fabricResponse die _ => decide (die < 3)
  | .fabricRetry die _ _ _ => decide (die < 3)
  | .fabricTimeout die _ _ _ => decide (die < 3)
  | .tagQuarantineEnd die _ _ _ => decide (die < 3)
  | .mcastWrite die _ => decide (die < 3)
  | .reduce die _ => decide (die < 3)
  | .collectiveContextAcquire n => decide (n < 10)
  | .flitReceive e g f => decide (e < 12) && decide (g < linkGroups e) && decide (f.data.length = 240)
  | .linkReplay e g _ => decide (e < 12) && decide (g < linkGroups e)
  | .linkIdleTimeout e => decide (e < 12)
  | .linkTrain _ e _ => decide (e < 12)
  | .ghLinkAutoDetect k => decide (k < 3)
  | .linkPartnerDetected e _ => decide (e < 12)
  | .linkTrainTimeout e => decide (e < 12)
  | .linkNegotiate e => decide (e < 12)
  | .linkGroupTrainEnd e _ => decide (e < 12)
  | .linkMaskExchange e => decide (e < 12)
  | .triggerCycle => true
  | .graceExpiry n => decide (n < 4)
  | .verdictInstant _ _ => true
  | .resultAgeExpiry n => decide (n < 64)
  | .proofStale n => decide (n < 64)
  | .declare _ _ => true
  | .restartOrder _ _ _ => true
  | .restartAck _ => true
  | .restartAckTimeout _ => true
  | .restartDone _ => true
  | .restartDoneTimeout _ => true
  | .areas _ => true
  | .areasReply _ => true
  | .runOpen _ n _ _ _ _ _ _ => decide (n < 256)
  | .slotClearComplete n _ => decide (n < 256)
  | .signature link _ _ => decide (link < 2)
  | .arbitrationStart => true
  | .arbitrationEnd _ => true
  | .belvedereDeadline n _ => decide (n < 256)
  | .slotScrubPassStart => true
  | .slotScrubPassEnd => true
  | .bvFailClr _ _ => true
  | .deadline _ n _ => decide (n < 256)
  | .frameEnd n => decide (n < 16)
  | .syntheticLineComplete n _ _ => decide (n < 32)
  | .streamFrameEnd n => decide (16 ≤ n) && decide (n < 32)
  | .goldenDue n => decide (n < 64)
  | .goldenRunDeadline n => decide (n < 256)
  | .testSliceStart l => decide (l < 12)
  | .testSliceEnd l _ _ => decide (l < 12)
  | .checkerEligible n => decide (n < chkCount)
  | .checkerOverdue n => decide (n < chkCount)
  | .folStFailClr _ _ => true
  | .sourceRise page b _ => srcOk page b
  | .errReport link _ _ => decide (link < 3)
  | .srcVector link _ _ => decide (link < 3)
  | .srcVectorPeriod die => decide (die < 3)
  | .concentratorSilence r => decide (r < 3)
  | .blkErrClear _ page _ => headPage page
  | .quietPeriodExpiry k => decide (k < 16)
  | .hourlyWindowAdvance => true
  | .fcAck _ _ => true
  | .faultAck _ => true
  | .fcForce _ _ => true
  | .faultForce _ => true
  | .faultNote _ => true
  | .filterExpiry _ ch _ => decide (ch < 34)
  | .testPulseStart m _ _ => decide (m < 4)
  | .testPulseCheck _ ch _ => decide (ch < 34)
  | .discrepancyTimeout _ k => decide (k < 16)
  | .processorSample => true
  | .sioHsCmd _ _ => true
  | .hsCmdExpiry => true
  | .sioLatchSet _ _ => true
  | .adcSample c _ => decide (c < 16)
  | .darkTestStart n _ => decide (n < 4)
  | .darkTestTimeout n => decide (n < 4)
  | .sioLockClr _ _ => true
  | .resumePressBegin => true
  | .resumeRelease _ => true
  | .resumeDiscrepancyTimeout => true
  | .resumeStuckTimeout _ => true
  | .sioResumeClr _ _ => true
  | .irqSourceEvent i n _ => icuSrcOk i n
  | .icuClaim i t => icuTgtOk i t
  | .icuComplete _ i t _ => icuTgtOk i t
  | .irqModerationEnd i n => icuSrcOk i n
  | .icuGctrlWrite _ i _ => decide (i < 10)
  | .wdCtrlWrite _ w _ => decide (w < 14)
  | .wdWindowWrite _ w _ _ => decide (w < 14)
  | .wdKey _ w _ => decide (w < 14)
  | .watchdogTimeout w => decide (w < 14)
  | .watchdogCoreReset c => decide (c < 4)
  | .watchdogGatehouseReset _ => true
  | .wdBiteClr _ w _ => decide (w < 14)
  | .debugHalt w _ => decide (w < 14)
  | .debugResume w => decide (w < 14)
  | .clockMonitorWindow c _ _ => decide (c < 5)
  | .taskWindowClose t => decide (t < 256)
  | .tsmFailClr _ _ => true
  | .cvuStart _ u _ => decide (u < 8)
  | .cvuData8 _ u _ => decide (u < 8)
  | .cvuData16 _ u _ => decide (u < 8)
  | .cvuData32 _ u _ => decide (u < 8)
  | .cvuRunWrite _ u _ _ => decide (u < 8)
  | .cvuStatRead u => decide (u < 8)
  | .streamTimeout rx src => decide (rx < 5) && (decide (rx ≠ 3) || (decide (0xFE01 ≤ src.toNat) && decide (src.toNat ≤ 0xFE07)))
  | .pmLastClr _ r _ => decide (r < 5)
  | .heartbeat _ n => decide (1 ≤ n) && decide (n ≤ 7)
  | .frcSnapshot => true
  | .replicaSnapshot r => decide (r < 3)
  | .commitRate _ => true
  | .commitStepValue _ => true
  | .commitStepDomain _ => true
  | .marker _ => true
  | .syncWord r => decide (r < 3)
  | .replicaSyncLoss r => decide (r < 3)
  | .steeringTick => true
  | .domainSelectWrite _ _ => true
  | .domainRecordFetch => true
  | .domainStale d => decide (d < 2)
  | .triggerCtrlWrite _ e _ => decide (e < 64)
  | .triggerIrq e => decide (e < 64)
  | .triggerRun e => decide (e < 64)
  | .triggerEth e => decide (e < 64)
  | .triggerAdc e => decide (e < 64)
  | .captureEdge c _ _ => decide (c < 4)
  | .captureRead c => decide (c < 4)
  | .ppsPulse => true
  | .ppsPulseEnd => true
  | .msixHoldEnd v => decide (v < 2048)
  | .msixUnmask v _ => decide (v < 2048)
  | .functionLevelReset => true
  | .pcieLinkDown => true
  | .pcieRetrain _ _ => true
  | .csiFrameStart n => decide (n < 16)
  | .csiLongPacket k vc _ _ _ _ => decide (k < 8) && decide (vc < 16)
  | .csiRestart _ k _ => decide (k < 8)
  | .ethFrameReceive k _ => decide (k < 4)
  | .ethFrameTransmit k q _ _ => decide (k < 4) && decide (q < 8)
  | .ethLinkUp k _ => decide (k < 4)
  | .t1sFrameReceive _ _ _ _ => true
  | .verdictBeacon => true
  | .foreignBeacon => true
  | .coordinatorResume => true
  | .heartbeatDue n => decide (1 ≤ n) && decide (n ≤ 7)
  | .gatehousePowerOn _ => true
  | .gatehouseReset _ _ => true
  | .safetyRecordLoad _ => true
  | .ioDieRelease _ => true
  | .ioDieReset _ => true
  | .manifest u => coreOk u
  | .segment u => coreOk u
  | .check u => coreOk u
  | .reset _ u _ _ => uValid u
  | .hold _ u _ _ => uValid u
  | .release _ u => uValid u
  | .powerDown _ u _ _ => uValid u
  | .drainComplete u => uValid u
  | .drainTimeout u => uValid u
  | .absorbComplete u => uValid u
  | .unitInitComplete u _ => uValid u
  | .firmwareSwitchRequest _ => true
  | .firmwareSwitchDone _ => true
  | .firmwareSwitchTimeout => true
  | .railMonitorSample c _ => decide (c < 13)
  | .railArmTimeout c => decide (c < 10)
  | .killSet _ => true
  | .killRelease _ => true
  | .brownOut => true
  | .brownOutRecovery _ => true
  | .capTick _ _ => true
  | .thermalTick _ _ => true
  | .thermalTrip d => decide (d < 2)
  | .pwrPavCfgWrite _ p _ => decide (p < 8)
  | .pwrVreadyWrite _ d _ => decide (d < 2)
  | .profileChange p => decide (p < 8)
  | .droopPause _ => true
  | .railTelemetryRead _ => true
  | .quote => true
  | .challenge => true
  | .unlock => true
  | .extend => true
  | .sprInstall _ => true
  | .ghInstall => true
  | .grottoCommit => true
  | .idTreeBuildComplete => true
  | .challengeLapse => true
  | .gkRestart _ _ => true
  | .stageSet _ => true
  | .stageGh _ => true
  | .activate _ => true
  | .confirm _ => true
  | .hostCommit => true
  | .hostFaultAck => true
  | .cal _ => true
  | .note => true
  | .logPageProgram => true
  | .telemetryPeriod => true
  | .calUserWrite _ inst _ => decide (inst < 2)
  | .serviceAccessGrant => true
  | .serviceAccessEnd => true
  | .tapReset t => decide (t < 4)
  | .idcode t => decide (t < 4)
  | .samplePreload t _ => decide (t < 4)
  | .extest t => decide (t < 4)
  | .extestPulse t => decide (t < 4)
  | .extestTrain t => decide (t < 4)
  | .clamp t => decide (t < 4)
  | .highz t => decide (t < 4)
  | .ghMbox _ _ => true
  | .debugAccess t _ => decide (t < 4)
  | .bypass t => decide (t < 4)
  | .blkGenSelWrite _ page _ => headPage page
  | .blkLockWrite _ page _ => headPage page
  | .blkInjWrite _ page _ => headPage page
  | .unitClassWrite _ u _ => uValid u
  | .unitCtxSrWrite _ u _ => coreOk u
  | .registerWrite _ _ _ => true
  | .computeDiePowerUp d => decide (d < 2)
  | .dramTrainingComplete d _ => decide (d < 2)
  | .pcieLinkUp rate width => decide (1 ≤ rate.toNat) && decide (rate.toNat ≤ 5) && ([1, 2, 4, 8, 16] : List Nat).contains width.toNat
  | .ethLinkDown k => decide (k < 4)
  | .dphySyncError k => decide (k < 8)
  | .ioDieThermalReset => true
  | .credentialValidTimeout => true

end Sys2Proof
end

