-- ==== Sys2Proof/Safety.lean ====
section
/-! DEFINITION. Safe outcomes: what a claim may say about a step that must not stop. -/

namespace Sys2Proof.Machine

/-- The outcome is a next state. -/
def Completes (o : Host.Outcome State Fault Refusal) : Prop := ∃ t, o = .next t

/-- Every command that waits names what the part has. -/
def State.queueWf (s : State) : Prop := ∀ c ∈ s.pending, c.wf = true

end Sys2Proof.Machine
end

