-- ==== Sys2Proof/Certificates/Slice0/Obligations.lean ====
section
/-! DEFINITION. The statements about the part. -/

open Sys2Proof Sys2Proof.Machine

/-- A step runs the command at the front of the queue on the state with the queue's rest. -/
def Obligations.StepRunsFront : Prop :=
  ∀ (c : Instr) (rest : List Instr) (s : State),
    step { s with pending := c :: rest } = exec c { s with pending := rest }

/-- R49, R50: TSUB and DSUB copy the descriptor into the queue and rd receives the counter value that its completion sets; a full queue
stalls. The traps of an address that is not 64-byte aligned, of one past the scratchpad and of an uncorrectable word, and that the queue
is full with 8 descriptors beside those in progress, are the model's choice (notes/assumptions/24.md, 104.md). -/
def Obligations.QueueSubmission : Prop :=
  ∀ (s t : State) (u : UnitId) (rd rs1 rs2 : RegNo) (ws : List W32) (n : Nat) (c : Instr), coreOk u = true →
    ((c = .tsub u rd rs1 ∧ n = 1) ∨ (c = .dsub u rd rs1 rs2 ∧ n = 2 + fld ((s.core u).rx rs2) 0 2)) →
    let ad := ((s.core u).rx rs1).toNat
    let q := (s.core u).queue n
    (s.executing u = false → exec c s = .next s) ∧
    (s.executing u = true →
      (ad % 64 = 0 → ad + 64 ≤ spSize → q.waiting.length < 8 →
        (s.spReadWs u ad 16 = (some ws, t) →
          let k := t.core u
          exec c s = .next (t.setCore u
            (((k.setQueue n { q with waiting := q.waiting ++ [QItem.mk ad ws k.issued k.epoch] }).issue.wx rd
              (w32 (q.counter + BitVec.ofNat 16 (q.occ + 1)).toNat)).advance))) ∧
        (s.spReadWs u ad 16 = (none, t) → exec c s = .next (t.trap u exLoad ((s.core u).rx rs1)))) ∧
      (ad % 64 = 0 → ad + 64 ≤ spSize → 8 ≤ q.waiting.length → exec c s = .next s) ∧
      (ad % 64 = 0 → spSize < ad + 64 → exec c s = .next (s.trap u exLoad ((s.core u).rx rs1))) ∧
      (ad % 64 ≠ 0 → exec c s = .next (s.trap u exLoadMis ((s.core u).rx rs1))))

/-- R49 to R51, R55: waiting, status and reset of a queue, the fences and the preemption check. What a number that names no queue answers
is the model's choice (notes/assumptions/25.md, 105.md). -/
def Obligations.QueueWaitAndStatus : Prop :=
  ∀ (s : State) (u : UnitId) (rd rs1 rs2 : RegNo) (n : Nat), coreOk u = true → ((s.core u).rx rs1).toNat = n →
    let c := s.core u
    let q := c.queue n
    let target := BitVec.ofNat 16 (fld (c.rx rs2) 0 16)
    (s.executing u = false → exec (.qwait u rd rs1 rs2) s = .next s ∧ exec (.qstat u rd rs1) s = .next s ∧
      exec (.qrst u rs1) s = .next s ∧ exec (.dfence u) s = .next s ∧ exec (.sigflush u) s = .next s ∧ exec (.pchk u rd) s = .next s) ∧
    (s.executing u = true → 1 ≤ n → n ≤ 6 →
      (q.halted = true → exec (.qwait u rd rs1 rs2) s = .next (s.setCore u ((c.wx rd 1).advance))) ∧
      (q.halted = false → (q.counter - target).toNat < 2 ^ 15 →
        exec (.qwait u rd rs1 rs2) s = .next (s.setCore u ((c.wx rd 0).advance))) ∧
      (q.halted = false → 2 ^ 15 ≤ (q.counter - target).toNat → exec (.qwait u rd rs1 rs2) s = .next s) ∧
      (let word := w32 (satN 8 q.occ + b2n q.halted * 256 + q.cause.toNat * 512 + q.counter.toNat * 65536)
       exec (.qstat u rd rs1) s =
         .next (s.setCore u ((c.wx rd (if n = 6 then word + w32 c.vq.length else word)).advance))) ∧
      ((q.out = none ∧ (q.halted = true ∨ (q.running = none ∧ (n = 6 → c.vq = [])))) →
        exec (.qrst u rs1) s = .next
          (if 2 ≤ n ∧ n ≤ 5
            then (s.setCore u ((c.setQueue n { q with waiting := [], halted := false, cause := 0 }).advance)).raDiscard u (n - 2)
            else s.setCore u ((c.setQueue n { q with waiting := [], halted := false, cause := 0 }).advance))) ∧
      ((q.out ≠ none ∨ (q.halted = false ∧ (q.running ≠ none ∨ (n = 6 ∧ c.vq ≠ [])))) → exec (.qrst u rs1) s = .next s)) ∧
    (s.executing u = true → (n = 0 ∨ 6 < n) →
      (∀ v t, s.draw = (v, t) → exec (.qwait u rd rs1 rs2) s = .next (t.setCore u ((c.wx rd v).advance)) ∧
        exec (.qstat u rd rs1) s = .next (t.setCore u ((c.wx rd v).advance))) ∧
      exec (.qrst u rs1) s = .next (s.setCore u c.advance)) ∧
    (s.executing u = true →
      ((∀ k d, 2 ≤ k → k ≤ 5 → (c.queue k).running = some d → d.stalled = true) → exec (.dfence u) s = .next (s.setCore u c.advance)) ∧
      (∀ k d, 2 ≤ k → k ≤ 5 → (c.queue k).running = some d → d.stalled = false → exec (.dfence u) s = .next s) ∧
      (c.sigQ = [] → exec (.sigflush u) s = .next (s.setCore u c.advance)) ∧
      (c.sigQ ≠ [] → exec (.sigflush u) s = .next s) ∧
      exec (.pchk u rd) s = .next (s.setCore u ((c.wx rd (w32 (fld (s.reg (uPage u 1 + 0x07C)) 0 1))).advance)))

/-- R53: the lane operations of class V, with the lanes that MASK and p0 allow. Behind an instruction that waits (R57) the operation takes
its place in the queue and has its effect in its turn. -/
def Obligations.VectorLaneOperations : Prop :=
  ∀ (s : State) (a : VArgs) (i : Instr) (op : Nat) (g : Nat → FRes), coreOk a.core = true →
    let u := a.core
    let c := s.core u
    let x := fun l => c.lane a.vs1 l
    let y := fun l => if a.funct3 = 1 then c.rf a.vs2 else c.lane a.vs2 l
    ((i = .vadd a ∧ op = 0x00 ∧ g = fun l => fAdd (x l) (y l)) ∨ (i = .vsub a ∧ op = 0x01 ∧ g = fun l => fSub (x l) (y l)) ∨
     (i = .vmul a ∧ op = 0x02 ∧ g = fun l => fMul (x l) (y l)) ∨ (i = .vfma a ∧ op = 0x03 ∧ g = fun l => fFma (x l) (y l) (c.lane a.vd l)) ∨
     (i = .vmin a ∧ op = 0x04 ∧ g = fun l => fMin (x l) (y l)) ∨ (i = .vmax a ∧ op = 0x05 ∧ g = fun l => fMax (x l) (y l)) ∨
     (i = .vexp a ∧ op = 0x10 ∧ g = fun l => fExp (x l)) ∨ (i = .vlog a ∧ op = 0x11 ∧ g = fun l => fLog (x l)) ∨
     (i = .vrcp a ∧ op = 0x12 ∧ g = fun l => fRcp (x l)) ∨ (i = .vrsqrt a ∧ op = 0x13 ∧ g = fun l => fRsqrt (x l)) ∨
     (i = .vsel a ∧ op = 0x08 ∧ g = fun l => (if bit (c.pred 0) l then x l else y l, 0)) ∨
     (i = .vbcast a ∧ op = 0x1C ∧ g = fun _ => (c.rf a.vs1, 0))) →
    let m := if a.mask then c.pred 0 else 0xFFFFFFFF#32
    let rs := (List.range 32).map g
    let entry := fun (done : Bool) => VItem.mk (.v a op) (c.rx a.vs1) (c.rx a.vs2) (c.rf a.vs1) (c.rf a.vs2) c.issued c.epoch done
    (s.executing u = false → exec i s = .next s) ∧
    (s.executing u = true → 2 ≤ a.funct3.toNat → exec i s = .next (s.illegal u (vWord a op))) ∧
    (s.executing u = true → a.funct3.toNat < 2 →
      (8 ≤ c.vq.length → exec i s = .next s) ∧
      (c.vq.length < 8 → (∀ e ∈ c.vq, e.done = true) →
        let t := (s.setCore u (c.setLanes a.vd m (rs.map (·.1)))).arith u
          (rs.zipIdx.foldl (fun f e => if bit m e.2 then f ||| e.1.2 else f) 0)
        exec i s = .next (t.setCore u ((t.core u).vPush (entry true)))) ∧
      (c.vq.length < 8 → (∃ e ∈ c.vq, e.done = false) → exec i s = .next (s.setCore u (c.vPush (entry false)))))

/-- R53, R55, R49, R57: comparisons, reductions, VSETS and the completion of a vector instruction. -/
def Obligations.VectorComparesAndReductions : Prop :=
  ∀ (s : State) (a : VArgs), coreOk a.core = true →
    let u := a.core
    let c := s.core u
    let y := fun l => if a.funct3 = 1 then c.rf a.vs2 else c.lane a.vs2 l
    let m := if a.mask then c.pred 0 else 0xFFFFFFFF#32
    let cmp := fun (g : FVal → FVal → Bool) => (List.range 32).foldl
      (fun (w : W32) l => if bit m l then setBit w l (g (fdec (c.lane a.vs1 l)) (fdec (y l))) else w) (c.pred (fld a.vd 0 2))
    let red := fun (f : W32 → W32 → FRes) (e : W32) =>
      treeReduce f 5 ((List.range 32).map (fun l => if bit m l then c.lane a.vs1 l else e))
    let entry := fun (op : VOp) (done : Bool) =>
      VItem.mk op (c.rx op.regs.1) (c.rx op.regs.2) (c.rf op.regs.1) (c.rf op.regs.2) c.issued c.epoch done
    let enters := fun (t : State) (op : VOp) => Host.Outcome.next (t.setCore u ((t.core u).vPush (entry op true)))
    (∀ i op, (i, op) ∈ [(Instr.vclt a, VOp.v a 0x06), (.vceq a, .v a 0x07), (.vrsum a, .v a 0x18), (.vrmax a, .v a 0x19),
        (.vsets u a.vs1, .sets a.vs1)] →
      (s.executing u = false → exec i s = .next s) ∧
      (s.executing u = true → (a.funct3.toNat < 2 ∨ i = .vsets u a.vs1) →
        (8 ≤ c.vq.length → exec i s = .next s) ∧
        (c.vq.length < 8 → (∃ e ∈ c.vq, e.done = false) → exec i s = .next (s.setCore u (c.vPush (entry op false)))))) ∧
    (s.executing u = true → c.vq.length < 8 → (∀ e ∈ c.vq, e.done = true) →
      (a.funct3.toNat < 2 →
        exec (.vclt a) s = enters ((s.setCore u (c.setPred (fld a.vd 0 2) (cmp FVal.lt))).arith u 0) (.v a 0x06) ∧
        exec (.vceq a) s = enters ((s.setCore u (c.setPred (fld a.vd 0 2) (cmp FVal.eq))).arith u 0) (.v a 0x07) ∧
        exec (.vrsum a) s = enters ((s.setCore u (c.wf a.vd (red fAdd 0).1)).arith u (red fAdd 0).2) (.v a 0x18) ∧
        exec (.vrmax a) s = enters ((s.setCore u (c.wf a.vd (red fMax 0xFF800000#32).1)).arith u (red fMax 0xFF800000#32).2) (.v a 0x19)) ∧
      exec (.vsets u a.vs1) s = enters (s.setCore u { c with vscale := c.rf a.vs1 }) (.sets a.vs1)) ∧
    (s.executing u = true → 2 ≤ a.funct3.toNat →
      exec (.vclt a) s = .next (s.illegal u (vWord a 0x06)) ∧ exec (.vceq a) s = .next (s.illegal u (vWord a 0x07)) ∧
      exec (.vrsum a) s = .next (s.illegal u (vWord a 0x18)) ∧ exec (.vrmax a) s = .next (s.illegal u (vWord a 0x19))) ∧
    (let leave := fun (t : State) => t.setCore u (({ t.core u with vq := (t.core u).vq.drop 1 }).setQueue 6
       { (t.core u).queue 6 with counter := ((t.core u).queue 6).counter + 1 })
     (c.vq = [] → exec (.vectorInstructionComplete u) s = .next s) ∧
     (∀ e r, c.vq = e :: r →
       (e.done = true → exec (.vectorInstructionComplete u) s = .next (leave s)) ∧
       (e.done = false → c.vWaits e = true → exec (.vectorInstructionComplete u) s = .next s) ∧
       (∀ t, e.done = false → c.vWaits e = false → s.vTurn u e = .done t →
         exec (.vectorInstructionComplete u) s = .next (leave t)) ∧
       (∀ t k v, e.done = false → c.vWaits e = false → s.vTurn u e = .exc t k v →
         exec (.vectorInstructionComplete u) s = .next ((t.setCore u { t.core u with vq := (t.core u).vq.drop 1 }).trap u k v))))

/-- R54, R56, R57: class M on its normal path, in every format that its operation takes, the illegal forms, and the traps of addresses. -/
def Obligations.VectorMemory : Prop :=
  ∀ (s : State) (a : MArgs), coreOk a.core = true →
    let u := a.core
    let c := s.core u
    let fmt := a.fmt.toNat
    let ad := (c.rx a.rs1).toNat
    let sc := (c.rx a.rs2).toNat
    let set := fld (c.rx a.rs1) 0 2
    let forms := [(Instr.vld a, 0), (.vst a, 1), (.vldg a, 2), (.vsta a, 3), (.vacc a, 4), (.vcvt a, 5)]
    let entry := fun (f3 : Nat) (done : Bool) =>
      VItem.mk (.m a f3) (c.rx a.rs1) (c.rx a.rs2) (c.rf a.rs1) (c.rf a.rs2) c.issued c.epoch done
    let enters := fun (t : State) (f3 : Nat) => Host.Outcome.next (t.setCore u ((t.core u).vPush (entry f3 true)))
    (∀ i f3, (i, f3) ∈ forms →
      (s.executing u = false → exec i s = .next s) ∧
      (s.executing u = true →
        ((a.rnd = 3 ∨ fmtReserved fmt = true ∨ (f3 = 2 ∧ ¬ (1 ≤ fmt ∧ fmt ≤ 6)) ∨ (f3 = 3 ∧ fmt ≠ 6)) →
          exec i s = .next (s.illegal u (mWord a f3))) ∧
        (a.rnd ≠ 3 → fmtReserved fmt = false → (f3 = 2 → 1 ≤ fmt ∧ fmt ≤ 6) → (f3 = 3 → fmt = 6) →
          (8 ≤ c.vq.length → exec i s = .next s) ∧
          (c.vq.length < 8 → ((∃ e ∈ c.vq, e.done = false) ∨ (f3 = 4 ∧ c.accBusy c.issued set = true)) →
            exec i s = .next (s.setCore u (c.vPush (entry f3 false))))))) ∧
    (s.executing u = true → c.vq.length < 8 → (∀ e ∈ c.vq, e.done = true) → a.rnd ≠ 3 → fmtReserved fmt = false →
      (∀ bs t, isMx fmt = false → ad % mAlign fmt = 0 → ad + rowBytes fmt ≤ spSize → s.spRead u ad (rowBytes fmt) = (some bs, t) →
        let rs := (unpackElems (elemBits fmt) 32 bs).map (loadLane fmt 0 c.vscale)
        exec (.vld a) s = enters ((t.setCore u ((t.core u).setLanes a.vd 0xFFFFFFFF#32 (rs.map (·.1)))).arith u
          (rs.foldl (fun x r => x ||| r.2) 0)) 0) ∧
      (∀ bs sb t t', isMx fmt = true → ad % mAlign fmt = 0 → ad + rowBytes fmt ≤ spSize → sc < spSize →
        s.spRead u ad (rowBytes fmt) = (some bs, t) → t.spRead u sc 1 = (some [sb], t') →
        let rs := (unpackElems (elemBits fmt) 32 bs).map (loadLane fmt sb.toNat c.vscale)
        exec (.vld a) s = enters ((t'.setCore u ((t'.core u).setLanes a.vd 0xFFFFFFFF#32 (rs.map (·.1)))).arith u
          (rs.foldl (fun x r => x ||| r.2) (flIf (decide (sb = 0xFF)) flMXNAN))) 0) ∧
      (∀ t, ad % mAlign fmt = 0 → ad + rowBytes fmt ≤ spSize → isMx fmt = false → s.spRead u ad (rowBytes fmt) = (none, t) →
        exec (.vld a) s = .next (t.trap u exLoad (c.rx a.rs1))) ∧
      (isMx fmt = false → ad % mAlign fmt = 0 → ad + rowBytes fmt ≤ spSize →
        let r := convList fmt a.rnd.toNat a.sat c.vscale c.gen (c.lanes a.vd)
        exec (.vst a) s = enters (((s.setCore u { c with gen := r.2.2 }).spWrite u ad (packElems (elemBits fmt) r.1)).arith u r.2.1) 1) ∧
      (isMx fmt = true → ad % mAlign fmt = 0 → ad + rowBytes fmt ≤ spSize → sc < spSize →
        let r := mxBlock fmt a.rnd.toNat a.sat c.gen (c.lanes a.vd)
        exec (.vst a) s = enters ((((s.setCore u { c with gen := r.2.2.2 }).spWrite u ad (packElems (elemBits fmt) r.2.1)).spWrite u sc
          (bytesLE 1 r.1)).arith u r.2.2.1) 1) ∧
      (∀ ns t, 1 ≤ fmt → fmt ≤ 6 → (laneAddrs c (c.rx a.rs1) a.rs2 (elemBits fmt / 8)).all (inSp (elemBits fmt / 8)) = true →
        s.gatherElems u (elemBits fmt / 8) (laneAddrs c (c.rx a.rs1) a.rs2 (elemBits fmt / 8)) = (some ns, t) →
        exec (.vldg a) s = enters (t.setCore u ((t.core u).setLanes a.vd 0xFFFFFFFF#32 (ns.map (backToF32 fmt)))) 2) ∧
      (∀ ns t t' fl, fmt = 6 → (laneAddrs c (c.rx a.rs1) a.rs2 4).all (inSp 4) = true →
        s.gatherElems u 4 (laneAddrs c (c.rx a.rs1) a.rs2 4) = (some ns, t) →
        t.scatterAdd u ((laneAddrs c (c.rx a.rs1) a.rs2 4).zip (c.lanes a.vd)) = some (t', fl) →
        exec (.vsta a) s = enters (t'.arith u fl) 3) ∧
      (c.accBusy c.issued set = false →
        exec (.vacc a) s = enters (s.setCore u (c.setLanes a.vd 0xFFFFFFFF#32 ((List.range 32).map (fun l =>
          let w := Tab.get 0 c.acc (256 * set + 32 * fld (c.rx a.rs1) 2 3 + l)
          if Tab.get false c.accInt set then (toF32 (FVal.ofInt w.toInt) false).1 else w)))) 4) ∧
      (isMx fmt = false →
        let r := convList fmt a.rnd.toNat a.sat 0x3F800000#32 c.gen (c.lanes a.rs2)
        exec (.vcvt a) s = enters ((s.setCore u (({ c with gen := r.2.2 }).setLanes a.vd 0xFFFFFFFF#32
          (r.1.map (backToF32 fmt)))).arith u r.2.1) 5) ∧
      (isMx fmt = true →
        let r := mxBlock fmt a.rnd.toNat a.sat c.gen (c.lanes a.rs2)
        exec (.vcvt a) s = enters ((s.setCore u (({ c with gen := r.2.2.2 }).setLanes a.vd 0xFFFFFFFF#32
          (r.2.1.map (fun n => (widen (mxVal fmt r.1 n)).1)))).arith u r.2.2.1) 5) ∧
      (ad % mAlign fmt ≠ 0 → exec (.vld a) s = .next (s.trap u exLoadMis (c.rx a.rs1)) ∧
        exec (.vst a) s = .next (s.trap u exStoreMis (c.rx a.rs1))) ∧
      (ad % mAlign fmt = 0 → spSize < ad + rowBytes fmt → exec (.vld a) s = .next (s.trap u exLoad (c.rx a.rs1)) ∧
        exec (.vst a) s = .next (s.trap u exStore (c.rx a.rs1))))

/-- R49, R51, R52, R57 to R60: a tensor operation from its start to its completion; while one is written out, one on another set may run. -/
def Obligations.TensorOperations : Prop :=
  ∀ (s : State) (u : UnitId), coreOk u = true →
    let c := s.core u
    let q := c.queue 1
    (∀ i rest, q.waiting = i :: rest →
      let ws := i.words
      let set := fld (ws.headD 0) 13 2
      let open_ := q.running = none ∨ (∃ d, q.running = some d ∧ bit (dw d.words 0) 16 = true ∧ fld (d.words.headD 0) 13 2 ≠ set ∧ q.out = none)
      let q1 := { q with waiting := rest, running := none, out := if q.running = none then q.out else q.running }
      let s1 := s.setCore u (c.setQueue 1 q1)
      (q.halted = false → open_ →
        (c.dep (df ws 0 24 3) (df ws 1 16 16) = .wait → exec (.tensorOpStart u) s = .next s) ∧
        (c.dep (df ws 0 24 3) (df ws 1 16 16) = .failed → exec (.tensorOpStart u) s = .next (s1.qFail u 1 5 i.addr)) ∧
        (c.dep (df ws 0 24 3) (df ws 1 16 16) = .ready →
          ((∃ v ∈ c.vq, v.id < i.id ∧ v.op.accOf v.x1 = some set) → exec (.tensorOpStart u) s = .next s) ∧
          ((∀ v ∈ c.vq, v.id < i.id → v.op.accOf v.x1 ≠ some set) →
            (∀ ops t, tensorOk ws = true → s1.tensorRead u ws = (some ops, t) →
              exec (.tensorOpStart u) s = .next ((t.setCore u (((t.core u).mac ws ops).1.setQueue 1
                { ((t.core u).mac ws ops).1.queue 1 with running := some ⟨ws, i.addr, 0, false, none, i.epoch⟩ })).arith u
                  ((t.core u).mac ws ops).2)) ∧
            (∀ t, tensorOk ws = true → s1.tensorRead u ws = (none, t) → exec (.tensorOpStart u) s = .next (t.qFail u 1 2 i.addr)) ∧
            (tensorOk ws = false → exec (.tensorOpStart u) s = .next (s1.qFail u 1 1 i.addr))))) ∧
      ((q.halted = true ∨ ¬ open_) → exec (.tensorOpStart u) s = .next s)) ∧
    (q.waiting = [] → exec (.tensorOpStart u) s = .next s) ∧
    (∀ d, (q.out = some d ∨ (q.out = none ∧ q.running = some d)) →
      let t := if bit (dw d.words 0) 16 then s.writeTile u d 16 else s
      let k := (t.core u).queue 1
      exec (.tensorOpComplete u) s = .next (t.setCore u ((t.core u).setQueue 1
        (if q.out = none then { k with running := none, counter := k.counter + 1 } else { k with out := none, counter := k.counter + 1 })))) ∧
    (q.out = none → q.running = none → exec (.tensorOpComplete u) s = .next s)

/-- R49 to R52, R66 to R72, R75, R77, R150: a DMA descriptor from its start to its completion: what keeps it waiting, what fails it and
with which cause, what its rows leave, and when a TARGET_DRAINING access is reissued. -/
def Obligations.DmaDescriptors : Prop :=
  ∀ (s : State) (u : UnitId) (ch kind : Nat) (c : Instr), coreOk u = true → ch < 4 →
    ((c = .dmaCopy u ch ∧ kind = 0) ∨ (c = .dmaGather u ch ∧ kind = 1) ∨ (c = .dmaHashgather u ch ∧ kind = 2) ∨
      (c = .dmaFill u ch ∧ kind = 3)) →
    let q := (s.core u).queue (2 + ch)
    let mine := fun (ws : List W32) => dmaKind ws = kind ∨ 4 ≤ dmaKind ws
    let begun := fun (s1 : State) (d : DescRun) (next : State → Prop) =>
      (∀ t, s1.tdRead u d.words = (none, t) → next (t.dmaFail u ch 2 d.addr)) ∧
      (∀ td t, s1.tdRead u d.words = (some td, t) →
        (dmaOk d.words td = false → next (t.dmaFail u ch 1 d.addr)) ∧
        (dmaOk d.words td = true → dmaSig d.words = true → sigOk u d.words td = false →
          next ((t.dmaFail u ch 6 d.addr).setErr (uPage u 2) 1)) ∧
        (dmaOk d.words td = true → (dmaSig d.words = true → sigOk u d.words td = true) →
          let opens := dmaSig d.words = true ∧ df d.words 15 16 16 = 0 ∧ d.pos = 0
          (opens → t.ctxFree u = none → next (t.setRunning u ch (some { d with stalled := true }))) ∧
          (¬ (opens ∧ t.ctxFree u = none) →
            let z := t.sigRefer u ch d.words td
            let row := d.pos / dmaN d.words 0
            ∀ cause r x, z.dmaRun u ch ((z.core u).ticketOf ch) d.epoch d.words td (dmaRowCount d.words - row) row = (cause, r, x) →
              (cause = 0 → next (x.setRunning u ch
                (some { d with pos := dmaRowCount d.words * dmaN d.words 0, stalled := false, wait := none }))) ∧
              (cause ≠ 0 → cause ≠ 9 → next (x.dmaFail u ch cause d.addr)) ∧
              (cause = 9 →
                let since := if r = row then (d.wait.map (·.1)).getD z.frc else z.frc
                (since + x.respTo (uDie u) ≤ x.frc → next (x.dmaFail u ch 3 d.addr)) ∧
                (x.frc < since + x.respTo (uDie u) → next ((x.count (fabPage (uDie u) + 0x058)).setRunning u ch
                  (some { d with pos := r * dmaN d.words 0, stalled := false, wait := some (since, x.frc + x.retryTicks (uDie u)) })))))))
    (q.halted = true → exec c s = .next s) ∧
    (∀ d, q.halted = false → q.running = some d →
      (mine d.words → (∃ w, d.wait = some w ∧ w.2 ≤ s.frc) → begun s d (fun t => exec c s = .next t)) ∧
      (¬ (mine d.words ∧ ∃ w, d.wait = some w ∧ w.2 ≤ s.frc) → exec c s = .next s)) ∧
    (q.halted = false → q.running = none → q.waiting = [] → exec c s = .next s) ∧
    (∀ i rest, q.waiting = i :: rest → q.halted = false → q.running = none →
      let d : DescRun := ⟨i.words, i.addr, 0, false, none, i.epoch⟩
      let s1 := s.setCore u ((s.core u).setQueue (2 + ch) { q with waiting := rest, running := some d })
      (¬ mine i.words → exec c s = .next s) ∧
      (mine i.words →
        ((s.core u).dep (df i.words 0 17 3) (df i.words 1 0 16) = .wait → exec c s = .next s) ∧
        ((s.core u).dep (df i.words 0 17 3) (df i.words 1 0 16) = .failed → exec c s = .next (s1.dmaFail u ch 5 i.addr)) ∧
        ((s.core u).dep (df i.words 0 17 3) (df i.words 1 0 16) = .ready → begun s1 d (fun t => exec c s = .next t)))) ∧
    (q.running = none → exec (.dmaDescriptorComplete u ch) s = .next s) ∧
    (∀ d, q.running = some d →
      (d.stalled = true ∨ d.wait ≠ none → exec (.dmaDescriptorComplete u ch) s = .next s) ∧
      (d.stalled = false → d.wait = none →
        let k := (s.core u).ticketOf ch
        let t := (s.chanFree u ch).raDrop u (fun r => decide (r.chan = ch) && decide (r.ticket = k))
        exec (.dmaDescriptorComplete u ch) s = .next (t.setCore u ((t.core u).setQueue (2 + ch)
          { (t.core u).queue (2 + ch) with running := none, counter := k }))))

/-- R62, R71, R75, R76, R155: run-ahead reads, signature contexts and messages, and the scratchpad scrubber, with what keeps each from
acting. -/
def Obligations.RunAheadAndContexts : Prop :=
  ∀ (s : State) (u : UnitId) (ch n k : Nat) (a : PAddr), coreOk u = true → ch < 4 → k < 4 →
    let c := s.core u
    (a.toNat % 4 = 0 → 1 ≤ n → a.toNat % 256 + 4 * n ≤ 256 →
      let held := (c.ra.filter (fun r => decide (r.chan = ch))).foldl (fun x r => x + 4 * r.data.length) 0
      let win := (s.reg (uPage u 3 + 0x060)).toNat
      (∀ ticket, c.aheadFor ch = some ticket → (c.queue (2 + ch)).halted = false → held + 4 * n ≤ win →
        (∀ o ws t, ownOff u a.toNat = some o → s.sramReadWords u o n = (ws, t) →
          exec (.runaheadReadResponse u ch a n) s = .next (t.setCore u { t.core u with ra := (t.core u).ra ++
            [⟨ch, ticket, a.toNat, ws, 2⟩] })) ∧
        (∀ st ws t, ownOff u a.toNat = none → s.doRead (s.coreSrc u) a.toNat n true = (st, ws, t) →
          exec (.runaheadReadResponse u ch a n) s = .next (t.setCore u { t.core u with ra := (t.core u).ra ++
            [⟨ch, ticket, a.toNat, if st ≤ 1 then ws else List.replicate n none, if st ≤ 1 then 4 else 3⟩] }))) ∧
      (c.aheadFor ch = none ∨ (c.queue (2 + ch)).halted = true ∨ win < held + 4 * n →
        exec (.runaheadReadResponse u ch a n) s = .next s)) ∧
    ((∀ d x, (c.queue (2 + ch)).running = some d → d.stalled = true → s.ctxFree u = some x →
        exec (.signatureContextAcquire u ch) s = .next (s.dmaBegin u ch { d with stalled := false })) ∧
      ((c.queue (2 + ch)).running.all (fun d => !d.stalled) = true ∨ s.ctxFree u = none →
        exec (.signatureContextAcquire u ch) s = .next s)) ∧
    (let ready := s.ctxOpen u k = true ∧ c.ctxBusy k = false ∧
       geomCount (s.reg (ctxAt u k 6)) ≤ s.regF (ctxAt u k 1) 0 17 ∧ c.sigQ.length < 8
     (ready → exec (.signatureMessageQueue u k) s =
        .next ((s.setCore u { c with sigQ := c.sigQ ++ [⟨s.sigPayload u k⟩] }).setReg (ctxAt u k 0) 0)) ∧
     (¬ ready → exec (.signatureMessageQueue u k) s = .next s)) ∧
    ((∀ m r, c.sigQ = m :: r → exec (.signatureMessageSend u) s =
        .next ((s.setCore u { c with sigQ := r, sigSent := c.sigSent + 1 }).sendMsg u idGatehouse 0x01 m.payload)) ∧
      (c.sigQ = [] → exec (.signatureMessageSend u) s = .next s)) ∧
    (let t := (List.range 16).foldl (fun t i => (t.spReadW u (c.scrub % 4096 * 64 + 4 * i)).2) s
     exec (.scratchpadScrubLine u) s = .next (t.setCore u { t.core u with scrub := (c.scrub + 1) % 4096 }))

/-- R13, R37, R77, R78, R82 to R86, R157, R369, R375: writes of core, signature and cluster registers, with what makes each ignored. -/
def Obligations.CoreRegisterWrites : Prop :=
  ∀ (s : State) (w : Writer) (u clu : UnitId) (v : W32) (n r : Nat), coreOk u = true → n < 4 → r < 8 →
    let p := uPage u 1
    (s.isAbsent u = true →
      exec (.coreSrSeedWrite w u v) s = .next s ∧ exec (.coreBootWrite w u v) s = .next s.gkAdvance ∧
      exec (.corePreemptWrite w u v) s = .next s ∧ exec (.corePreemptClr w u v) s = .next s ∧
      exec (.sigContextWrite w u n r v) s = .next s ∧ (∀ b, exec (.sigSeqWrite w u b v) s = .next s)) ∧
    (s.isAbsent u = false →
      (let t := s.setReg (p + 0x054) v
       exec (.coreSrSeedWrite w u v) s =
         .next (t.setCore u ((t.core u).seed (seedOf (t.reg (p + 0x048)) (t.reg (p + 0x04C)) (t.reg (p + 0x050)) v)))) ∧
      (let t := s.setReg (p + 0x060) (v &&& 0x3FFFD#32)
       (bit v 0 = true → s.regF (uPage u 0 + 0x014) 0 3 = 1 → exec (.coreBootWrite w u v) s = .next ((t.setCore u
         { t.core u with run := true, wfi := false, pc := v &&& 0x3FFFC#32 }).setRegF (uPage u 0 + 0x014) 0 3 2).gkAdvance) ∧
       (bit v 0 = false ∨ s.regF (uPage u 0 + 0x014) 0 3 ≠ 1 → exec (.coreBootWrite w u v) s = .next t.gkAdvance)) ∧
      (bit v 0 = true →
        (let t := s.setReg (p + 0x07C) 1
         (Tab.get none s.plan.req u.toNat = none → exec (.corePreemptWrite w u v) s =
           .next { t with plan := { t.plan with req := Tab.set none t.plan.req u.toNat (some (s.frc, false)) } }) ∧
         (Tab.get none s.plan.req u.toNat ≠ none → exec (.corePreemptWrite w u v) s = .next t)) ∧
        exec (.corePreemptClr w u v) s =
          let t := s.setReg (p + 0x07C) 0
          .next { t with plan := { t.plan with req := Tab.set none t.plan.req u.toNat none } }) ∧
      (bit v 0 = false → exec (.corePreemptWrite w u v) s = .next s ∧ exec (.corePreemptClr w u v) s = .next s) ∧
      ((s.core u).ctxBusy n = false → exec (.sigContextWrite w u n r v) s = .next (s.setReg (ctxAt u n r) (v &&& ctxMask r))) ∧
      ((s.core u).ctxBusy n = true → exec (.sigContextWrite w u n r v) s = .next s) ∧
      ((∀ k < 4, s.ctxOpen u k = false) →
        exec (.sigSeqWrite w u false v) s = .next (s.setReg (uPage u 2 + 0x040) v) ∧
        exec (.sigSeqWrite w u true v) s = .next (s.setReg (uPage u 2 + 0x044) (v &&& 1))) ∧
      (∀ k < 4, s.ctxOpen u k = true → ∀ b, exec (.sigSeqWrite w u b v) s = .next s)) ∧
    (uValid clu = true → uLevel clu = 1 →
      let m := s.reg (spareMapAt clu)
      let core := mkUid 0 (uDie clu) (uPav clu) (uClu clu) (fld v 0 4)
      let fw := Tab.get (0, 0) s.spareFw (cluIx clu)
      let new := setFld m 0 4 (fld v 0 4)
      let becomes := fun (t : State) =>
        (s.writerDom w ≠ domGk ∨ s.gk.up = false ∨ t.reg (spareMapAt clu) = m → exec (.cluSpareMapWrite w clu v) s = .next t) ∧
        (s.writerDom w = domGk → s.gk.up = true → t.reg (spareMapAt clu) ≠ m →
          let rec_ := recOfMap (t.reg (spareMapAt clu)) (Tab.get 0 t.gk.retire (cluIx clu))
          (bit (t.reg (spareMapAt clu)) 8 = true → exec (.cluSpareMapWrite w clu v) s =
            .next (t.retired (mkUid 0 (uDie clu) (uPav clu) (uClu clu) (fld (t.reg (spareMapAt clu)) 0 4)) rec_ false)) ∧
          (bit (t.reg (spareMapAt clu)) 8 = false → exec (.cluSpareMapWrite w clu v) s =
            .next (t.setGk { t.gk with retire := Tab.set 0 t.gk.retire (cluIx clu) rec_ })))
      (bit m 8 = true ∨ bit m 16 = true → becomes (s.setErr (uPage clu 1) 0)) ∧
      (bit m 8 = false → bit m 16 = false →
        (bit v 16 = true → (s.held core = true ∨ fld m 0 4 = fld v 0 4) → becomes (s.setReg (spareMapAt clu) (setBit new 16 true))) ∧
        (bit v 16 = true → s.held core = false → fld m 0 4 ≠ fld v 0 4 →
          becomes ((s.setReg (spareMapAt clu) (setBit m 16 true)).setErr (uPage clu 1) 0)) ∧
        (bit v 16 = false → s.held core = false → becomes (s.setErr (uPage clu 1) 0)) ∧
        (bit v 16 = false → s.held core = true → bit v 8 = true →
          becomes ((((s.spareFresh clu).setReg (spareMapAt clu) (setBit new 8 true)).setReg (uPage core 1 + 0x05C) fw.1).setReg
            (uPage core 1 + 0x024) fw.2)) ∧
        (bit v 16 = false → s.held core = true → bit v 8 = false → becomes (s.setReg (spareMapAt clu) new))))

/-- R44: the integer computational and control-transfer instructions; a core that does not execute changes nothing. -/
def Obligations.ScalarArithmetic : Prop :=
  ∀ (s : State) (u : UnitId) (w : W32), coreOk u = true →
    (s.executing u = false → exec (.scalarInstruction u w) s = .next s) ∧
    (s.executing u = true → seqPlace (s.core u).pc.toNat 4 ≠ .out →
    let c := s.core u
    let a := c.rx (iRs1 w)
    let b := c.rx (iRs2 w)
    let run := exec (.scalarInstruction u w) s
    let toX := fun (v : W32) => Host.Outcome.next (s.setCore u ((c.wx (iRd w) v).advance))
    let jump := fun (rd : RegNo) (target : W32) =>
      Host.Outcome.next (s.setCore u { (c.wx rd (c.pc + 4)).advance with pc := target })
    (fld w 0 7 = 0x33 → fld w 25 7 = 0 → run = toX (alu (fld w 12 3) false a b)) ∧
    (fld w 0 7 = 0x33 → fld w 25 7 = 0x20 → (fld w 12 3 = 0 ∨ fld w 12 3 = 5) → run = toX (alu (fld w 12 3) true a b)) ∧
    (fld w 0 7 = 0x33 → fld w 25 7 = 1 → run = toX (mulDiv (fld w 12 3) a b)) ∧
    (fld w 0 7 = 0x13 → fld w 12 3 ≠ 1 → fld w 12 3 ≠ 5 → run = toX (alu (fld w 12 3) false a (immI w))) ∧
    (fld w 0 7 = 0x13 → fld w 12 3 = 1 → fld w 25 7 = 0 → run = toX (a <<< fld w 20 5)) ∧
    (fld w 0 7 = 0x13 → fld w 12 3 = 5 → fld w 25 7 = 0 → run = toX (a >>> fld w 20 5)) ∧
    (fld w 0 7 = 0x13 → fld w 12 3 = 5 → fld w 25 7 = 0x20 → run = toX (a.sshiftRight (fld w 20 5))) ∧
    (fld w 0 7 = 0x37 → run = toX (w &&& 0xFFFFF000#32)) ∧
    (fld w 0 7 = 0x17 → run = toX (c.pc + (w &&& 0xFFFFF000#32))) ∧
    (fld w 0 7 = 0x6F → (c.pc + immJ w).toNat % 4 = 0 → run = jump (iRd w) (c.pc + immJ w)) ∧
    (fld w 0 7 = 0x6F → (c.pc + immJ w).toNat % 4 ≠ 0 → run = .next (s.trap u 0 (c.pc + immJ w))) ∧
    (fld w 0 7 = 0x67 → fld w 12 3 = 0 → ((a + immI w) &&& 0xFFFFFFFE#32).toNat % 4 = 0 →
      run = jump (iRd w) ((a + immI w) &&& 0xFFFFFFFE#32)) ∧
    (fld w 0 7 = 0x67 → fld w 12 3 = 0 → ((a + immI w) &&& 0xFFFFFFFE#32).toNat % 4 ≠ 0 →
      run = .next (s.trap u 0 ((a + immI w) &&& 0xFFFFFFFE#32))) ∧
    (fld w 0 7 = 0x63 → branchIf (fld w 12 3) a b = some true → (c.pc + immB w).toNat % 4 ≠ 0 →
      run = .next (s.trap u 0 (c.pc + immB w))) ∧
    (fld w 0 7 = 0x63 → branchIf (fld w 12 3) a b = some true → (c.pc + immB w).toNat % 4 = 0 → run = jump 0 (c.pc + immB w)) ∧
    (fld w 0 7 = 0x63 → branchIf (fld w 12 3) a b = some false → run = .next (s.setCore u c.advance)))

/-- R45, R56: the two ranges that loads, stores and fetches of the sequencer reach, their widths and extensions, the exceptions elsewhere,
and their order behind vector instructions that have issued. -/
def Obligations.ScalarMemory : Prop :=
  ∀ (s : State) (u : UnitId) (w : W32), coreOk u = true → s.executing u = true →
    let c := s.core u
    let run := exec (.scalarInstruction u w) s
    let ld := c.rx (iRs1 w) + immI w
    let st := c.rx (iRs1 w) + immS w
    let sp := fun (a n : Nat) => a + n ≤ 0x40000
    let win := fun (a n : Nat) => 0x10000000 ≤ a ∧ a + n ≤ 0x10010000
    (¬ (sp c.pc.toNat 4 ∨ win c.pc.toNat 4) → run = .next (s.trap u 1 c.pc)) ∧
    ((sp c.pc.toNat 4 ∨ win c.pc.toNat 4) → (fld w 0 7 = 0x03 ∨ fld w 0 7 = 0x23) → c.vBehind = true → run = .next s) ∧
    ((sp c.pc.toNat 4 ∨ win c.pc.toNat 4) → c.vBehind = false →
      (fld w 0 7 = 0x03 → ∀ (n : Nat) (ext : Nat → W32),
        ((fld w 12 3 = 0 ∧ n = 1 ∧ ext = sext 8) ∨ (fld w 12 3 = 1 ∧ n = 2 ∧ ext = sext 16) ∨ (fld w 12 3 = 2 ∧ n = 4 ∧ ext = w32) ∨
          (fld w 12 3 = 4 ∧ n = 1 ∧ ext = w32) ∨ (fld w 12 3 = 5 ∧ n = 2 ∧ ext = w32)) →
        (ld.toNat % n ≠ 0 → run = .next (s.trap u 4 ld)) ∧
        (ld.toNat % n = 0 →
          (sp ld.toNat n → ∀ bs t, s.spRead u ld.toNat n = (bs, t) → run = match bs with
            | some bs => .next (t.setCore u (((t.core u).wx (iRd w) (ext (ofBytesLE bs))).advance))
            | none => .next (t.trap u 5 ld)) ∧
          (win ld.toNat n → ∀ x t, s.read (uPage u 0 + (ld.toNat % 0x10000) / 4 * 4) = (x, t) →
            run = .next (t.setCore u (((t.core u).wx (iRd w) (ext (nfld x.toNat (8 * ((ld.toNat % 0x10000) % 4)) (8 * n)))).advance))) ∧
          (¬ (sp ld.toNat n ∨ win ld.toNat n) → run = .next (s.trap u 5 ld)))) ∧
      (fld w 0 7 = 0x23 → ∀ n : Nat, ((fld w 12 3 = 0 ∧ n = 1) ∨ (fld w 12 3 = 1 ∧ n = 2) ∨ (fld w 12 3 = 2 ∧ n = 4)) →
        let v := (c.rx (iRs2 w)).toNat % 2 ^ (8 * n)
        (st.toNat % n ≠ 0 → run = .next (s.trap u 6 st)) ∧
        (st.toNat % n = 0 →
          (sp st.toNat n →
            run = .next ((s.spWrite u st.toNat (bytesLE n v)).setCore u ((s.spWrite u st.toNat (bytesLE n v)).core u).advance)) ∧
          (win st.toNat n →
            let off := st.toNat % 0x10000
            let t := s.regWriteW (.dom (s.domainOf u)) (uPage u 0 + off / 4 * 4) (some (w32 (v <<< (8 * (off % 4))))) ((2 ^ n - 1) <<< (off % 4))
            run = .next (t.setCore u (t.core u).advance)) ∧
          (¬ (sp st.toNat n ∨ win st.toNat n) → run = .next (s.trap u 7 st)))))

/-- R44, R46, R55: which words of the sequencer are illegal instructions and what those do, CHECKIN, ECALL, EBREAK, WFI and MRET. -/
def Obligations.IllegalInstructions : Prop :=
  ∀ (s : State) (u : UnitId) (w : W32), coreOk u = true → s.executing u = true → seqPlace (s.core u).pc.toNat 4 ≠ .out →
    let c := s.core u
    let run := exec (.scalarInstruction u w) s
    let st := c.rcsr 0x300
    let trapped := fun (t : State) (cause : Nat) (v : W32) => (t.setCore u
      { (((((t.core u).wcsr 0x341 (t.core u).pc).wcsr 0x342 (w32 cause)).wcsr 0x343 v).wcsr 0x300
          (setFld (setFld (setFld ((t.core u).rcsr 0x300) 7 1 (fld ((t.core u).rcsr 0x300) 3 1)) 3 1 0) 11 2 3)) with
        pc := (t.core u).rcsr 0x305 &&& 0xFFFFFFFC#32, cycle := (t.core u).cycle + 1 }).setReg (uPage u 1 + 0x068) (w32 cause)
    ((fld w 0 7 = 0x0B ∨ fld w 0 7 = 0x7B) → fld w 25 7 ≠ 0 → run = .next ((s.setErr (uPage u 1) 0).trap u 2 w)) ∧
    ((fld w 0 7 = 0x0B ∨ fld w 0 7 = 0x7B) → 5 ≤ fld w 12 3 → run = .next ((s.setErr (uPage u 1) 0).trap u 2 w)) ∧
    (fld w 0 7 = 0x5B → 6 ≤ fld w 12 3 → run = .next ((s.setErr (uPage u 1) 0).trap u 2 w)) ∧
    (fld w 0 7 = 0x2B → 0x1D ≤ fld w 25 6 → run = .next ((s.setErr (uPage u 1) 0).trap u 2 w)) ∧
    (¬ fld w 0 7 ∈ [0x03, 0x07, 0x0B, 0x0F, 0x13, 0x17, 0x23, 0x27, 0x2B, 0x33, 0x37, 0x43, 0x47, 0x4B, 0x4F, 0x53, 0x5B, 0x63, 0x67,
      0x6F, 0x73, 0x7B] → run = .next ((s.setErr (uPage u 1) 0).trap u 2 w)) ∧
    (fld w 0 7 = 0x13 → fld w 12 3 = 1 → fld w 25 7 ≠ 0 → run = .next ((s.setErr (uPage u 1) 0).trap u 2 w)) ∧
    (fld w 0 7 = 0x13 → fld w 12 3 = 5 → fld w 25 7 ≠ 0 → fld w 25 7 ≠ 0x20 → run = .next ((s.setErr (uPage u 1) 0).trap u 2 w)) ∧
    (fld w 0 7 = 0x33 → fld w 25 7 ≠ 0 → fld w 25 7 ≠ 1 → (fld w 25 7 = 0x20 → fld w 12 3 ≠ 0 ∧ fld w 12 3 ≠ 5) →
      run = .next ((s.setErr (uPage u 1) 0).trap u 2 w)) ∧
    (fld w 0 7 = 0x63 → (fld w 12 3 = 2 ∨ fld w 12 3 = 3) → run = .next ((s.setErr (uPage u 1) 0).trap u 2 w)) ∧
    (fld w 0 7 = 0x73 → fld w 12 3 = 0 → ¬ w ∈ [0x00000073#32, 0x00100073#32, 0x30200073#32, 0x10500073#32] →
      run = .next ((s.setErr (uPage u 1) 0).trap u 2 w)) ∧
    (s.setErr (uPage u 1) 0).trap u 2 w = trapped (s.setErr (uPage u 1) 0) 2 w ∧
    (w = 0x00000073#32 → run = .next (trapped s 11 0)) ∧
    (w = 0x00100073#32 → run = .next (trapped s 3 c.pc)) ∧
    (w = 0x10500073#32 → run = .next (s.setCore u { c.advance with wfi := true })) ∧
    (w = 0x30200073#32 → run = .next (s.setCore u
      { (c.wcsr 0x300 (setFld (setFld st 3 1 (fld st 7 1)) 7 1 1)).advance with pc := c.rcsr 0x341 &&& 0xFFFFFFFC#32 })) ∧
    (fld w 0 7 = 0x7B → fld w 25 7 = 0 → fld w 12 3 = 2 →
      run = .next ((s.setCore u c.advance).sendMsg u 0xFF00#16 0x02 [BitVec.ofNat 8 (fld (c.rx (iRs1 w)) 0 8)]))

/-- R87, R89, R94, R111, R301: package requests and their ends, the request for a bank switch, the reply and its absence, and the ring
registers, on every path. -/
def Obligations.PackagesAndPlanSwitch : Prop :=
  ∀ (s : State) (w : Writer) (i : BitVec 3) (v : W32),
    let n := i.toNat
    let named := s.bankNames s.activeBank n
    let pend := match s.plan.switch with | some x => s.bankNames x.bank n | none => false
    (named = true → exec (.pkgLoad w i) s = .next (s.pkgResult n false 3 3)) ∧
    (named = false →
      let t := { s with plan := { s.plan with
        pkgs := Tab.set none s.plan.pkgs n none, pkgGen := Tab.set 0 s.plan.pkgGen n (Tab.get 0 s.plan.pkgGen n + 1),
        pkgAddr := Tab.set 0 s.plan.pkgAddr n ((s.reg (rpPage + 0x064)).toNat + 2 ^ 32 * s.regF (rpPage + 0x068) 0 16) } }
      (bit (s.reg (gkBootPage + 0x040)) 8 = true → exec (.pkgLoad w i) s = .next ((t.setPkgStat n 1).pkgResult n false 1 0)) ∧
      (bit (s.reg (gkBootPage + 0x040)) 8 = false → exec (.pkgLoad w i) s = .next ((t.setPkgStat n 3).pkgResult n false 3 4))) ∧
    (named = true ∨ pend = true → exec (.pkgUnload w i) s = .next (s.pkgResult n true 3 3)) ∧
    (named = false → pend = false → exec (.pkgUnload w i) s =
      .next (((({ s with plan := { s.plan with pkgs := Tab.set none s.plan.pkgs n none } } : State)).setPkgStat n 0).pkgResult n true 2 0)) ∧
    (∀ d, s.pkgStat n ≠ 1 → exec (.pkgLoadComplete i d) s = .next s) ∧
    (∀ d st0 hdr t1 st1 all t2, s.pkgStat n = 1 →
      let addr := Tab.get 0 s.plan.pkgAddr n
      s.readB gkSrc addr 256 = (st0, hdr, t1) → t1.readB gkSrc addr (ofBytesLE ((hdr.drop 16).take 8)) = (st1, all, t2) →
      let good := st0 = 0 ∧ st1 = 0 ∧ pkgSigned (t2.credKey 0x180 8) (t2.credArb 24) all = true
      (¬ good → exec (.pkgLoadComplete i d) s = .next (t2.pkgEnd n 3 1)) ∧
      (good →
        (parseTols (all.length / 16 + 1) (sectionOf all 5) = none → exec (.pkgLoadComplete i d) s = .next (t2.pkgEnd n 3 2)) ∧
        (∀ tols, parseTols (all.length / 16 + 1) (sectionOf all 5) = some tols →
          let p := readPkg all d tols
          (pkgRules all p = false → exec (.pkgLoadComplete i d) s = .next (t2.pkgEnd n 3 2)) ∧
          (pkgRules all p = true → basesOk p = false → exec (.pkgLoadComplete i d) s = .next s) ∧
          (pkgRules all p = true → basesOk p = true →
            let t := (constPlaces p).foldl (fun t k => (t.writeB gkSrc (p.constBase.getD k 0).toNat p.constImage).2) t2
            exec (.pkgLoadComplete i d) s = .next ((({ t with plan := { t.plan with
              pkgs := Tab.set none t.plan.pkgs n (some p) } } : State).pkgEnd n 2 0).gkExtend 5 (sha256 hdr)))))) ∧
    (let b := fld v 0 1
     let t := if s.plan.switch = none then s else
       (({ s with plan := { s.plan with switch := none, declared := s.plan.declared.map (fun d => (d.1, true)) } } : State)).switchStat 3 7 0
     (b = t.activeBank → exec (.bankSwitchRequest w v) s = .next (t.switchStat 3 8 0)) ∧
     (b ≠ t.activeBank → (t.bankCheck b).1 ≠ 0 →
       exec (.bankSwitchRequest w v) s = .next (t.switchStat 3 (t.bankCheck b).1 (t.bankCheck b).2)) ∧
     (b ≠ t.activeBank → (t.bankCheck b).1 = 0 →
       let bs := declBytes (t.declOf b)
       let u := (t.sendXfer idRunPlan idGatehouse 0x13 (bs.length / 240 + 1) bs).switchStat 1 0 0
       exec (.bankSwitchRequest w v) s = .next { u with plan := { u.plan with
         switch := some ⟨b, u.frc, none⟩, declared := u.plan.declared ++ [(u.frc, false)] } })) ∧
    (∀ m p t, s.recv 4 (decide (m.type = 0x14)) m = (p, t) →
      (p = none → exec (.declareReply m) s = .next t) ∧
      (∀ bs, p = some bs →
        let u : State := { t with plan := { t.plan with declared := t.declOpen.tail } }
        let st := nfld (ofBytesLE (bs.take 4)) 0 2
        let answers := ∃ x d, t.plan.switch = some x ∧ x.accepted = none ∧ t.declOpen.head? = some (d, false)
        (¬ answers → exec (.declareReply m) s = .next u) ∧
        (∀ x d, t.plan.switch = some x → x.accepted = none → t.declOpen.head? = some (d, false) →
          (st = 2 → exec (.declareReply m) s =
            .next { u with plan := { u.plan with switch := some { x with accepted := some u.frc } } }) ∧
          (st = 3 → exec (.declareReply m) s = .next u.switchRefused) ∧
          (st ≠ 2 → st ≠ 3 → exec (.declareReply m) s = .next u)))) ∧
    (let late := ∃ x, s.plan.switch = some x ∧ x.accepted = none ∧ x.sent + 50000000 ≤ s.frc
     (late → exec .declareReplyTimeout s = .next s.switchRefused) ∧ (¬ late → exec .declareReplyTimeout s = .next s)) ∧
    (∀ svc : BitVec 6,
      let a := rpPage + 0x400 + 16 * svc.toNat
      exec (.resultRingConfigWrite w svc 1 v) s = .next (s.setReg (a + 4) (v &&& 0xFFFF#32)) ∧
      (fld v 0 12 = 0 → exec (.resultRingConfigWrite w svc 0 v) s = .next (s.setReg a v)) ∧
      (fld v 0 12 ≠ 0 → exec (.resultRingConfigWrite w svc 0 v) s = .next s) ∧
      (v &&& 0xFF0F#32 = 0 ∨ (2 ≤ fld v 0 4 ∧ fld v 0 4 ≤ 10) →
        exec (.resultRingConfigWrite w svc 2 v) s = .next (s.setReg (a + 8) (v &&& 0xFF0F#32))) ∧
      (v &&& 0xFF0F#32 ≠ 0 → ¬ (2 ≤ fld v 0 4 ∧ fld v 0 4 ≤ 10) → exec (.resultRingConfigWrite w svc 2 v) s = .next s))

/-- R95, R98, R99, R107, R108, R195, R211 to R213: the run-plan block's commands on every path: what each needs, what it does then, and
that otherwise nothing changes. -/
def Obligations.RunsAndWorkItems : Prop :=
  ∀ (s : State) (n : Nat) (u : UnitId), n < 256 → coreOk u = true →
    ((∀ g, Tab.get none s.plan.gathers n = some g →
        (s.gatherOver n g = true → exec (.gatherWindowClose n) s = .next (s.closeGather n g)) ∧
        (s.gatherOver n g = false → exec (.gatherWindowClose n) s = .next s)) ∧
      (Tab.get none s.plan.gathers n = none → exec (.gatherWindowClose n) s = .next s)) ∧
    (∀ proof copyB,
      let mine := fun (r : Run) => decide (r.entry = n) && decide (r.proof = proof) && r.copies.contains copyB && r.waits copyB
      (s.plan.runs.find? mine = none → exec (.runStart n proof copyB) s = .next s) ∧
      (∀ r, s.plan.runs.find? mine = some r →
        let meets := fun (o : Run) (b : Bool) => decide ((o.copy b).set &&& (r.copy copyB).set ≠ 0)
        let may := (∀ p ∈ bitsOf 8 (r.copy copyB).set, s.gate (pavUid p) = 0 ∧ s.held (pavUid p) = false ∧ s.tripped (p / 4) = false) ∧
          s.oldHolds r copyB = false ∧ s.overdue r = false ∧
          (∀ o ∈ s.plan.runs, sameRun o r = false → ∀ b ∈ o.copies,
            ¬ (o.waits b = true ∧ meets o b = true ∧ runsBefore o r = true) ∧
            (s.copyHolds o b = true → meets o b = true → canPreempt r o = true))
        let gs := s.deferred r copyB
        let ninth := gs.filter (fun g => decide (8 ≤ g.defer))
        (¬ may → exec (.runStart n proof copyB) s = .next s) ∧
        (may → ninth = [] → exec (.runStart n proof copyB) s =
          .next ((gs.foldl (fun t g => t.deferOne r g) s).startCopy r copyB)) ∧
        (may → ninth ≠ [] →
          let t := ninth.foldl (fun t g => t.deferOne r g) s
          ((∃ g ∈ ninth, g.svc = r.svc) → exec (.runStart n proof copyB) s = .next (t.skipRun r)) ∧
          ((∀ g ∈ ninth, g.svc ≠ r.svc) → exec (.runStart n proof copyB) s = .next t)))) ∧
    (let free := (s.core u).run = true ∧ (s.core u).wfi = true ∧ s.isAbsent u = false
     (Tab.get none s.plan.jobs u.toNat = none ∨ ¬ free →
        exec (.workItemComplete u) s = .next s ∧ exec (.coreYield u) s = .next s) ∧
     (∀ j, Tab.get none s.plan.jobs u.toNat = some j → free →
        (let t := ((s.coreDone u).icuPulse (2 + pavIx u) (1 + uClu u)).assignCore u
         (∀ r, t.runOfJob j = some r → exec (.workItemComplete u) s = .next (t.copyCheck r j.copyB)) ∧
         (t.runOfJob j = none → exec (.workItemComplete u) s = .next t)) ∧
        (bit (s.reg (uPage u 1 + 0x07C)) 0 = false → exec (.coreYield u) s = .next s) ∧
        (bit (s.reg (uPage u 1 + 0x07C)) 0 = true →
          (s.runOfJob j = none → exec (.coreYield u) s = .next ((s.coreDone u).assignCore u)) ∧
          (∀ r, s.runOfJob j = some r →
            ((r.copy j.copyB).stopped = true → exec (.coreYield u) s = .next ((s.coreDone u).assignCore u).goldTimes) ∧
            (∀ st bs t, (r.copy j.copyB).stopped = false → s.readB (s.seqSrc (pavIx u)) j.save 16 = (st, bs, t) →
              (imgW bs 0 ≠ 0x56414C44 ∨ w32 (imgW bs 3) ≠ r.seq → exec (.coreYield u) s = .next t) ∧
              (imgW bs 0 = 0x56414C44 → w32 (imgW bs 3) = r.seq →
                let x := (t.writeB (s.seqSrc (pavIx u)) (j.save + 0x150) (bytesLE 16 (t.core u).gen.toNat)).2.coreDone u
                exec (.coreYield u) s = .next ((x.setPlan { x.plan with
                  saved := x.plan.saved ++ [⟨j, pavIx u, coreNo u, j.save⟩] }).assignCore u).goldTimes)))))) ∧
    (∀ proof,
      let due := s.plan.runs.find? (fun r => decide (r.entry = n) && decide (r.proof = proof) && s.overdue r)
      let t := match due with | some r => s.deadlineEnd r r.finished | none => s
      (proof = false → exec (.runDeadline n) s = .next t) ∧
      (proof = true → exec (.goldenRunDeadline n) s = .next (t.goldLate (s.entry s.activeBank n).svc))) ∧
    (let overdue := ∃ t0 j, Tab.get none s.plan.req u.toNat = some (t0, false) ∧ Tab.get none s.plan.jobs u.toNat = some j ∧
       t0 + 500 * (s.reg (rpPage + 0x070)).toNat ≤ s.frc
     (¬ overdue → exec (.preemptTimeout u) s = .next s) ∧
     (∀ t0 j, Tab.get none s.plan.req u.toNat = some (t0, false) → Tab.get none s.plan.jobs u.toNat = some j →
        t0 + 500 * (s.reg (rpPage + 0x070)).toNat ≤ s.frc →
        let t := s.setPlan { s.plan with req := Tab.set none s.plan.req u.toNat (some (t0, true)) }
        (∀ r, s.runOfJob j = some r → (r.copy j.copyB).stopped = false →
          exec (.preemptTimeout u) s = .next (t.count (rpPage + 0x090))) ∧
        ((∀ r, s.runOfJob j = some r → (r.copy j.copyB).stopped = true) →
          exec (.preemptTimeout u) s = .next (unitCommand (.seq (pavIx u)) u cmdReset true 10 t)))) ∧
    (∀ m proof seq (o : BitVec 2) p t, s.recv 4 (decide (m.type = 0x11)) m = (p, t) →
      (p = some (outcomeBytes n proof seq o.toNat) → proof = false →
        exec (.runOutcome m n proof seq o) s = .next (t.outcomeAt n false seq o.toNat)) ∧
      (p ≠ some (outcomeBytes n proof seq o.toNat) ∨ proof = true → exec (.runOutcome m n proof seq o) s = .next t))

/-- R126 to R128, R143: reads, writes, write-back, scrubbing and the log of a memory controller. -/
def Obligations.MemoryControllers : Prop :=
  ∀ (s : State) (w : Writer) (d : Nat) (u : UnitId) (v : W32), d < 2 →
    (∀ a : PAddr, mcLineOk d a.toNat = true →
      exec (.mcRead d a) s = .next (((s.dramReadDs d false a.toNat 8).2).countWrap (mcPage d + 0x06C) 1) ∧
      (∀ ws be, ws.length = 16 → exec (.mcWrite d a ws be) s =
        .next (((s.dramWriteDs d a.toNat (ws.zipIdx.map (fun e => payloadW (a.toNat + 4 * e.2) e.1)) be.toNat).2).countWrap
          (mcPage d + 0x070) 1))) ∧
    (∀ a, s.wback.find? (fun e => decide (e.1 = d)) = some (d, a) → (ecc64 (s.synAt a)).corrected = true →
      exec (.correctedWriteback d) s = .next (s.dramPut d a ((ecc64 (s.synAt a)).fix (s.rawD a)) false)) ∧
    (∀ a, s.wback.find? (fun e => decide (e.1 = d)) = some (d, a) → (ecc64 (s.synAt a)).corrected = false →
      exec (.correctedWriteback d) s = .next { s with wback := s.wback.filter (fun e => !(decide (e = (d, a)))) }) ∧
    (s.wback.find? (fun e => decide (e.1 = d)) = none → exec (.correctedWriteback d) s = .next s) ∧
    (let pos := (s.reg (mcPage d + 0x064)).toNat
     let t := (s.dramReadDs d true (d * 0x600000000 + pos % dramLines * 64) 8).2
     (pos + 1 < dramLines → exec (.dramScrubLine d) s = .next (t.setReg (mcPage d + 0x064) (w32 (pos + 1)))) ∧
     (dramLines ≤ pos + 1 → exec (.dramScrubLine d) s =
       .next ((t.setReg (mcPage d + 0x064) 0).countWrap (mcPage d + 0x068) 1))) ∧
    (uValid u = true → (uLevel u = 1 ∨ uLevel u = 2) →
      exec (.sramScrubLine u) s =
        let l := Tab.get 0 s.sramScrub u.toNat
        let t := s.sramReadWs u (l * 64) 16
        .next { t with sramScrub := Tab.set 0 t.sramScrub u.toNat ((l + 1) % (sramSize u / 64)) }) ∧
    (bit v 0 = true → exec (.mcLogClr w d v) s = .next ((s.setReg (mcPage d + 0x054) 0).setReg (mcPage d + 0x058) 0)) ∧
    (bit v 0 = false → exec (.mcLogClr w d v) s = .next s)

/-- R131, R136, R138: who may write a firewall window, its log and a domain field, and what each write does. -/
def Obligations.FirewallsAndDomains : Prop :=
  ∀ (s : State) (w : Writer) (i win : Nat) (u : UnitId) (v : W32), i < 11 → win < fwCount i → uValid u = true →
    let a := fwWinAt i win
    let t := s.setReg (a + 12) (v &&& 0xFF7#32)
    let forced := { t with fwForce := Tab.set (fwWinReset a) t.fwForce a ⟨t.reg a, t.reg (a + 4), t.reg (a + 8), t.reg (a + 12)⟩ }
    let mayWin := (s.writerDom w = domGh ∨ (s.writerDom w = domGk ∧ win < fwFirstGh i)) ∧
      (win < fwFirstGh i → bit (s.reg (fwPage i + 0x024)) 0 = false)
    (mayWin → exec (.fwWindowCtrlWrite w i win v) s = .next forced) ∧
    (¬ mayWin → exec (.fwWindowCtrlWrite w i win v) s = .next s) ∧
    (let may := (s.writerDom w = domGh ∨ s.writerDom w = domGk) ∧ bit v 0 = true
     (may → exec (.fwLogClr w i v) s =
        .next (((s.setReg (fwPage i + 0x044) 0).setReg (fwPage i + 0x048) 0).setReg (fwPage i + 0x04C) 0)) ∧
     (¬ may → exec (.fwLogClr w i v) s = .next s)) ∧
    (let below := (unitsOf u).filter (fun x => decide (x ≠ u) && !s.isAbsent x)
     let one := fun (t : State) (x : UnitId) =>
       if s.writerDom w = domGh ∨ (s.writerDom w = domGk ∧ fld v 0 12 ≤ 0xEFF ∧ t.regF (domainAt x) 0 12 < 0xF00)
       then t.setReg (domainAt x) (w32 (fld v 0 12)) else t
     exec (.blkDomainWrite w u v) s = .next ((u :: below).foldl one s))

/-- R146 to R152, R154, R155, R158, R160, R163, R377: requests of the fabric from issue to completion, on every path: what a source may not
send, what entry drops, what waits, what the target does, and what a response, a reissue, a timeout and the end of a quarantine do. -/
def Obligations.FabricRequests : Prop :=
  ∀ (s : State) (die n kind : Nat) (c : Instr) (p : Packet) (src : BitVec 16) (ret : BitVec 8) (tag : BitVec 10), die < 3 → n < 10 →
    ((c = .fabricRead die p ∧ kind = 0) ∨ (c = .fabricWrite die p ∧ kind = 1) ∨ (c = .mcastWrite die p ∧ kind = 4) ∨
      (c = .reduce die p ∧ kind = 5)) →
    let r0 : ReqSt := ⟨1 + s.reqs.foldl (fun m e => match e.2 with | some r => max m r.ord | none => m) 0, p, s.frc, s.respTo die, 0, 0, []⟩
    let entry := (s.setReq (pktKey p die) (some r0)).injTake (fabPage die) 0
    let x := entry.2
    let good := pktCrc p = p.hdrCrc.toNat ∧ entry.1 ≠ 1 ∧ pktFormed p kind = true
    (s.mayIssue die p = false → exec c s = .next s) ∧
    (s.mayIssue die p = true → ¬ good → exec c s = .next (x.droppedBy die entry.1)) ∧
    (s.mayIssue die p = true → good → x.req (pktKey p die) = none → exec c s = .next x) ∧
    (∀ r, s.mayIssue die p = true → good → x.req (pktKey p die) = some r → x.behind die p r.ord = true →
      exec c s = .next (x.setReq (pktKey p die) (some { r with st := 3 }))) ∧
    (∀ r, s.mayIssue die p = true → good → x.req (pktKey p die) = some r → x.behind die p r.ord = false →
      let y := (x.farDies die p).foldl (fun t d => t.overLink die d p) x
      (kind = 0 → ∀ st ws t, y.doRead (pktSrc p die) p.addr.toNat (pktLen p) p.spec = (st, ws, t) →
        (st = 8 → exec c s = .next t) ∧
        (st ≠ 8 → exec c s = .next (t.answer die p st 0 (if st ≤ 1 then coded (canonical p.addr.toNat) ws else [])))) ∧
      (kind = 1 → ∀ ws t st z, y.payload die (canonical p.addr.toNat) p.payload = (ws, t) →
        t.doWrite (pktSrc p die) p.addr.toNat ws (pktBe p) = (st, z) →
        (st = 8 → exec c s = .next z) ∧ (st ≠ 8 → exec c s = .next (z.answer die p st 0 []))) ∧
      (4 ≤ kind → exec c s = .next (y.collective die p))) ∧
    (∀ d (q : Packet) rest,
      (Tab.get [] s.collWait n = [] → exec (.collectiveContextAcquire n) s = .next s) ∧
      (Tab.get [] s.collWait n = (d, q) :: rest →
        let t := { s with collWait := Tab.set [] s.collWait n rest }
        (8 ≤ s.collUsed n → exec (.collectiveContextAcquire n) s = .next s) ∧
        (s.collUsed n < 8 → (∃ r, t.req (pktKey q d) = some r ∧ r.st = 4) →
          exec (.collectiveContextAcquire n) s = .next (t.collective d q)) ∧
        (s.collUsed n < 8 → (¬ ∃ r, t.req (pktKey q d) = some r ∧ r.st = 4) → exec (.collectiveContextAcquire n) s = .next t))) ∧
    (let k := pktKey p die
     let sound := p.kind = 2 ∧ pktCrc p = p.hdrCrc.toNat
     (¬ sound → exec (.fabricResponse die p) s = .next (s.dropped die)) ∧
     (sound → s.req k = none → exec (.fabricResponse die p) s = .next (s.count (fabPage die + 0x054))) ∧
     (∀ r, sound → s.req k = some r →
       (s.pathStatus (s.answersFrom die r.pkt) die ≠ 0 → exec (.fabricResponse die p) s = .next s) ∧
       (s.pathStatus (s.answersFrom die r.pkt) die = 0 →
         (r.st = 2 → exec (.fabricResponse die p) s = .next ((s.setReq k none).count (fabPage die + 0x054))) ∧
         (r.st ≠ 2 → r.st ≠ 0 → exec (.fabricResponse die p) s = .next (s.count (fabPage die + 0x054))) ∧
         (r.st = 0 → ∀ ws t, s.payload die (canonical r.pkt.addr.toNat) p.payload = (ws, t) →
           let named := if 9 ≤ p.status.toNat then 4 else p.status.toNat
           let st := if named = 0 ∧ (∃ w ∈ ws, w = none) then 1 else named
           let reissued := st = 2 ∧ r.pkt.spec = false ∧ r.pkt.kind.toNat ≤ 1 ∧ t.frc < r.first + r.respTo
           (∀ v f, t.absorbs p.srcUnit = some (v, f) → exec (.fabricResponse die p) s =
             .next ((t.setReq k none).setUcmd v (some { f with absorbed := f.absorbed + 1 }))) ∧
           (t.absorbs p.srcUnit = none → reissued → exec (.fabricResponse die p) s =
             .next (t.setReq k (some { r with st := 1, again := t.frc + t.retryTicks die }))) ∧
           (t.absorbs p.srcUnit = none → ¬ reissued → exec (.fabricResponse die p) s =
             .next (t.finishN k die r.pkt st p.count.toNat)))))) ∧
    (let k := reqKey die src ret tag
     (s.req k = none → exec (.fabricRetry die src ret tag) s = .next s ∧ exec (.fabricTimeout die src ret tag) s = .next s ∧
       exec (.tagQuarantineEnd die src ret tag) s = .next s) ∧
     (∀ r, s.req k = some r →
       let late := r.first + r.respTo ≤ s.frc
       let go := (s.setReq k (some { r with st := 0 }))
       (r.st = 3 → s.behind die r.pkt r.ord = true → exec (.fabricRetry die src ret tag) s = .next s) ∧
       (r.st = 3 → s.behind die r.pkt r.ord = false → exec (.fabricRetry die src ret tag) s = .next (go.performPkt die r.pkt)) ∧
       (r.st ≠ 1 → r.st ≠ 3 → exec (.fabricRetry die src ret tag) s = .next s) ∧
       (r.st = 1 → late → exec (.fabricRetry die src ret tag) s = .next (s.finish k die r.pkt 2) ∧
         exec (.fabricTimeout die src ret tag) s = .next (s.finish k die r.pkt 2)) ∧
       (r.st = 1 → ¬ late → (s.frc < r.again ∨ s.behind die r.pkt r.ord = true) → exec (.fabricRetry die src ret tag) s = .next s) ∧
       (r.st = 1 → ¬ late → r.again ≤ s.frc → s.behind die r.pkt r.ord = false → exec (.fabricRetry die src ret tag) s =
         .next ((go.count (fabPage die + 0x058)).performPkt die r.pkt)) ∧
       (r.st = 2 ∨ ¬ late → exec (.fabricTimeout die src ret tag) s = .next s) ∧
       (r.st ≠ 1 → r.st ≠ 2 → late → r.pkt.spec = false → exec (.fabricTimeout die src ret tag) s =
         .next ((((s.count (fabPage die + 0x050)).setErr (fabPage die) 2).finish k die r.pkt 8).setReq k
           (some { r with st := 2, nodes := [] }))) ∧
       (r.st ≠ 1 → r.st ≠ 2 → late → r.pkt.spec = true → exec (.fabricTimeout die src ret tag) s =
         .next ((s.finish k die r.pkt 7).setReq k (some { r with st := 2, nodes := [] }))) ∧
       (r.st = 2 → r.first + 4 * r.respTo ≤ s.frc → exec (.tagQuarantineEnd die src ret tag) s = .next (s.setReq k none)) ∧
       (r.st ≠ 2 ∨ s.frc < r.first + 4 * r.respTo → exec (.tagQuarantineEnd die src ret tag) s = .next s)))

/-- R140, R141, R150, R151, R339: where a host access leads, and what it does on every path: with the link down, where nothing is, while it
waits to be reissued, and with each status of its target. -/
def Obligations.HostAccesses : Prop :=
  ∀ (s : State) (bar off n : Nat) (bs : List Byte) (ep ro : Bool),
    (∀ o, s.barAddr 2 o = some o) ∧
    (∀ o < 0x1000000, s.barAddr 0 o = some (0x021000000000 + o)) ∧
    (∀ o, 0x1000000 ≤ o → o < 0x1010000 → s.barAddr 0 o = some (0x022000000000 + o % 0x10000)) ∧
    (∀ o, 0x1010000 ≤ o → o < 0x2000000 → s.barAddr 0 o = none) ∧
    (∀ o, 0x2000000 ≤ o → s.barAddr 0 o = some (0x020000000000
      + (s.regF (ioPage 0x000 + 0x040) 0 7 * 0x200 + o % 0x2000000 / 0x10000) * 0x10000 + o % 0x2000000 % 0x10000)) ∧
    (∀ (t : State) (write : Bool) (a st : Nat) (fin : Nat → State → State),
      let k := hostKey write a
      (st ≠ 2 → t.hostTry write a st fin = fin st ((t.setReq k none).ended 2 st)) ∧
      (st = 2 → t.req k = none →
        t.hostTry write a st fin = t.setReq k (some ⟨0, hostPkt write a, t.frc, t.respTo 2, 1, t.frc + t.retryTicks 2, []⟩)) ∧
      (∀ r, st = 2 → t.req k = some r →
        (r.first + r.respTo ≤ t.frc → t.hostTry write a st fin = fin 2 (t.setReq k none)) ∧
        (t.frc < r.first + r.respTo → t.hostTry write a st fin =
          (t.setReq k (some { r with again := t.frc + t.retryTicks 2 })).count (fabPage 2 + 0x058)))) ∧
    (barOk bar off (4 * n) = true → off % 4 = 0 → 1 ≤ n → n ≤ 1024 →
      (s.hostUp = false → exec (.hostRead bar off n) s = .next s) ∧
      (s.hostUp = true → s.barAddr bar off = none → exec (.hostRead bar off n) s =
        .next ((s.count (pciePage + 0x054)).emit (.completion 1 false []))) ∧
      (∀ a, s.hostUp = true → s.barAddr bar off = some a →
        (s.hostWaits false a = true → exec (.hostRead bar off n) s = .next s) ∧
        (∀ st ws t, s.hostWaits false a = false → s.hostReads (n / 64 + 2) a n = (st, ws, t) →
          exec (.hostRead bar off n) s = .next (t.hostTry false a st (fun st t => t.complete st ws))))) ∧
    (barOk bar off bs.length = true → bs.length ≤ 4096 →
      (s.hostUp = false → exec (.hostWrite bar off bs ep ro) s = .next s) ∧
      (s.hostUp = true → s.barAddr bar off = none → exec (.hostWrite bar off bs ep ro) s =
        .next (if ep then s.count (pciePage + 0x050) else s)) ∧
      (∀ a, s.hostUp = true → s.barAddr bar off = some a →
        (s.hostWaits true a = true → exec (.hostWrite bar off bs ep ro) s = .next s) ∧
        (s.hostWaits true a = false →
          let c := if ep = true ∧ s.req (hostKey true a) = none then s.count (pciePage + 0x050) else s
          ∀ st t, c.hostWrites (blocksOf bs.length) a bs ep = (st, t) →
            exec (.hostWrite bar off bs ep ro) s = .next (t.hostTry true a st (fun _ t => t)))))

/-- R161 to R163, R214: flits, replay and loss of a link, on every path. -/
def Obligations.LinkFlits : Prop :=
  ∀ (s : State) (e g : Nat) (f : Flit) (q : BitVec 12), e < 12 → g < linkGroups e →
    let live := s.lkState e = 5 ∧ nbit (s.lkMask e) g = true
    (¬ live → exec (.linkReplay e g q) s = .next s ∧ (f.data.length = 240 → exec (.flitReceive e g f) s = .next s)) ∧
    (live → f.data.length = 240 →
      let inj := s.reg (linkPageOf e + 0x020)
      let armed := fld inj 8 8 ≠ 0 ∧ fld inj 0 4 = g
      let t := if armed then s.setRegF (linkPageOf e + 0x020) 8 8 (fld inj 8 8 - 1) else s
      let x := { t.link e with last := t.frc }
      let good := ¬ (armed ∧ fld inj 4 4 = 1) ∧ f.crc = flitCrc g f ∧ f.fseq.toNat = Tab.get 0 x.expect g
      (good → exec (.flitReceive e g f) s =
        .next ((t.setLink e { x with expect := Tab.set 0 x.expect g ((f.fseq.toNat + 1) % 4096) }).lkTake e g f)) ∧
      (¬ good → exec (.flitReceive e g f) s =
        .next (((t.setLink e x).count (linkPageOf e + 0x060)).emit (.replay e g (BitVec.ofNat 12 (Tab.get 0 x.expect g)))))) ∧
    (live →
      let ts := s.frc :: (Tab.get [] (s.link e).replays g).filter (fun t0 => decide (s.frc < t0 + 500000))
      let t := (s.setLink e { s.link e with replays := Tab.set [] (s.link e).replays g ts }).count (linkPageOf e + 0x064)
      let again := (Tab.get [] (s.link e).kept g).dropWhile (fun k => decide (k.1 % 4096 ≠ q.toNat))
      (ts.length ≤ fld (s.link e).cfg 8 8 →
        exec (.linkReplay e g q) s = .next (again.foldl (fun t k => t.emit (.flit e g k.2)) t)) ∧
      (fld (s.link e).cfg 8 8 < ts.length → exec (.linkReplay e g q) s = .next ((t.lkRetire e g).lkRetire (linkPartner e) g))) ∧
    (s.lkState e = 5 → (s.link e).last + 5000 ≤ s.frc → exec (.linkIdleTimeout e) s = .next (s.lkDownBy e dnLost)) ∧
    (s.lkState e ≠ 5 ∨ s.frc < (s.link e).last + 5000 → exec (.linkIdleTimeout e) s = .next s)

/-- R164 to R169: the states of a link end from RESET to ACTIVE, and what leaves each as it is. -/
def Obligations.LinkBringUp : Prop :=
  ∀ (s : State) (w : Writer) (e k : Nat) (v : W32) (groups pass : BitVec 16), e < 12 → k < 3 →
    let p := s.lkState (linkPartner e)
    let heard := p ≠ lkDown ∧ s.lkState e ≤ p
    let mayTrain := (if linkGh e then w = .pair else s.writerDom w = domGk ∨ s.writerDom w = domGh) ∧ bit v 0 = true ∧ linkGh e = false ∧
      s.lkState e = lkReset
    (mayTrain → exec (.linkTrain w e v) s = .next (s.lkDetectIn e)) ∧ (¬ mayTrain → exec (.linkTrain w e v) s = .next s) ∧
    (s.ghUp = true → s.lkState (9 + k) = lkReset → exec (.ghLinkAutoDetect k) s = .next (s.lkDetectIn (9 + k))) ∧
    (s.ghUp = false ∨ s.lkState (9 + k) ≠ lkReset → exec (.ghLinkAutoDetect k) s = .next s) ∧
    (s.lkState e = lkDetect → heard → s.lkMin e ≤ popcnt (linkGroups e) groups.toNat →
      exec (.linkPartnerDetected e groups) s = .next (s.lkEnter e lkNegotiate)) ∧
    (s.lkState e ≠ lkDetect ∨ ¬ heard ∨ popcnt (linkGroups e) groups.toNat < s.lkMin e →
      exec (.linkPartnerDetected e groups) s = .next s) ∧
    (let late := linkGh e = false ∧ s.lkState e = lkDetect ∧ (s.link e).since + 500 * (s.link e).trainTo ≤ s.frc
     (late → exec (.linkTrainTimeout e) s = .next (s.lkDownBy e dnNoPartner)) ∧ (¬ late → exec (.linkTrainTimeout e) s = .next s)) ∧
    (let both := s.lkVersions e &&& s.lkVersions (linkPartner e)
     (s.lkState e = lkNegotiate → heard → both ≠ 0 → exec (.linkNegotiate e) s =
        .next ((s.setRegF (linkStatA e) 8 4 (topVersion both)).lkEnter e lkGroupTrain)) ∧
     (s.lkState e = lkNegotiate → heard → both = 0 → exec (.linkNegotiate e) s = .next (s.lkDownBy e dnNoVersion)) ∧
     (s.lkState e ≠ lkNegotiate ∨ ¬ heard → exec (.linkNegotiate e) s = .next s)) ∧
    (s.lkState e = lkGroupTrain → exec (.linkGroupTrainEnd e pass) s =
      let m := pass.toNat % 2 ^ linkGroups e
      .next (((s.setReg (linkPageOf e + 0x050) (w32 m)).setErrIf (decide (m ≠ 2 ^ linkGroups e - 1)) (linkPageOf e) 0).lkEnter e
        lkMaskExchange)) ∧
    (s.lkState e ≠ lkGroupTrain → exec (.linkGroupTrainEnd e pass) s = .next s) ∧
    (let remote := s.regF (linkPageOf (linkPartner e) + 0x050) 0 16
     let m := s.regF (linkPageOf e + 0x050) 0 16 &&& remote
     let t := s.setReg (linkPageOf e + 0x054) (w32 remote)
     let a := (t.setReg (linkPageOf e + 0x058) (w32 m)).setRegF (linkStatA e) 16 5 (popcnt 16 m)
     (s.lkState e = lkMaskExchange → heard → popcnt 16 m < s.lkMin e →
        exec (.linkMaskExchange e) s = .next (t.lkDownBy e dnTooFew)) ∧
     (s.lkState e = lkMaskExchange → heard → s.lkMin e ≤ popcnt 16 m → exec (.linkMaskExchange e) s =
        .next ((a.setLink e { a.link e with last := s.frc }).lkEnter e lkActive)) ∧
     (s.lkState e ≠ lkMaskExchange ∨ ¬ heard → exec (.linkMaskExchange e) s = .next s))

/-- R172, R176, R183, R198, R199, R209, R210, R354: when a boundary runs and when it does not, what a verdict instant sends, and the judged
ages. That GRACE_EXPIRY and GOLDEN_DUE run the boundary that they fall on is the model's (DESIGN CHOICE, notes/assumptions/90.md). -/
def Obligations.BoundariesAndVerdicts : Prop :=
  ∀ (s : State) (n k delay collisions : Nat), n < 64 → k < 4 →
    (∀ b, s.cyc.next = some b →
      (b ≤ s.frc → exec .triggerCycle s = .next (s.boundary b)) ∧
      (s.frc < b → exec .triggerCycle s = .next s ∧ exec (.graceExpiry k) s = .next s ∧ exec (.goldenDue n) s = .next s) ∧
      (∀ t0 iv, Tab.get none s.bel.grace k = some (t0, iv) → b ≤ s.frc →
        (t0 + iv ≤ b → exec (.graceExpiry k) s = .next (s.boundary b)) ∧ (b < t0 + iv → exec (.graceExpiry k) s = .next s)) ∧
      (∀ v, s.svc n = some v → b ≤ s.frc →
        let due := (∃ d, (s.gold n).due = some d ∧ d ≤ b) ∧ s.beliefOf n ≠ stUntested ∧ s.beliefOf n ≠ stDoubted ∧ s.goldFree n v = true
        (due → exec (.goldenDue n) s = .next (s.boundary b)) ∧ (¬ due → exec (.goldenDue n) s = .next s))) ∧
    (s.cyc.next = none → exec .triggerCycle s = .next s ∧ exec (.graceExpiry k) s = .next s ∧ exec (.goldenDue n) s = .next s) ∧
    (Tab.get none s.bel.grace k = none → exec (.graceExpiry k) s = .next s) ∧
    (s.svc n = none → exec (.goldenDue n) s = .next s) ∧
    (s.cyc.verdicts = [] → exec (.verdictInstant delay collisions) s = .next s) ∧
    (∀ c rest, s.cyc.verdicts = c :: rest →
      let t : State := { s with cyc := { s.cyc with verdicts := rest } }
      let vda := (t.reg (t1sPage + 0x04C)).toNat + 2 ^ 32 * t.regF (t1sPage + 0x050) 0 16
      let u := t.t1sSend idBroadcast vda 0x30 c (t.frc + delay)
      let us := satN 16 ((delay + 499) / 500)
      let counted := u.count (t1sPage + 0x068)
      let x := if delay = 0 then u else if counted.regF (t1sPage + 0x06C) 0 16 < us then counted.setReg (t1sPage + 0x06C) (w32 us) else counted
      let y := x.countN (t1sPage + 0x064) collisions
      exec (.verdictInstant delay collisions) s = .next ({ y with bs := { y.bs with fetch := true } } : State).secInstant.gkRom) ∧
    (let old := ∃ v, s.svc n = some v ∧ (s.beliefOf n = stAdmitted ∨ s.beliefOf n = stBelieved) ∧ v.ageGiven = false ∧
       max (v.checked.getD 0) v.since + 500000 * v.drec.resultAge.toNat < s.cyc.last
     (∀ v, old → s.svc n = some v → exec (.resultAgeExpiry n) s =
        let t := s.setSvc n (some { v with ageGiven := true })
        .next { t with evid := t.evid ++ [⟨s.cyc.last, .age n⟩] }) ∧
     (¬ old → exec (.resultAgeExpiry n) s = .next s)) ∧
    (let old := ∃ v p, s.svc n = some v ∧ (s.gold n).pass = some p ∧
       (s.beliefOf n = stAdmitted ∨ s.beliefOf n = stBelieved ∨ s.beliefOf n = stDoubted) ∧ v.staleGiven = false ∧
       p + 1000000 * max (s.gold n).interval (s.gold n).declared < s.cyc.last
     (∀ v, old → s.svc n = some v → exec (.proofStale n) s =
        let t := s.setSvc n (some { v with staleGiven := true })
        .next { t with evid := t.evid ++ [⟨s.cyc.last, .stale n⟩] }) ∧
     (¬ old → exec (.proofStale n) s = .next s))

/-- R94, R175, R186, R188, R233, R297, R380: messages between the Gatehouse, the Groundskeeper and the run-plan block, taken or refused by the
receiver, and the timeouts of restart orders, on every path. -/
def Obligations.DeclarationsAndOrders : Prop :=
  ∀ (s t : State) (m : PMsg) (num : BitVec 8) (p : Option (List Byte)),
    (∀ d, s.recv 2 (decide (m.type = 0x13)) m = (p, t) →
      (∀ bs, p = some bs →
        let v := if bs = declBytes d then t.declReason d else (1, 0, 0)
        let u := t.setReg ghDeclStatA (w32 ((if v.1 = 0 then 2 else 3) + 16 * v.1 + 256 * v.2.1 + 65536 * v.2.2))
        let u := u.setBel { u.bel with pend := if v.1 = 0 then some d else none }
        exec (.declare m d) s = .next (u.sendMsg idGatehouse idRunPlan 0x14 (bytesLE 4 (u.reg ghDeclStatA).toNat))) ∧
      (p = none →
        let x := t.stream 2 idRunPlan
        let mine := m.type = 0x13 ∧ m.src = idRunPlan
        let going := m.crc = msgCrc idGatehouse m ∧ x.expect = m.seq + 1 ∧ x.xfer = 1
        (¬ mine → exec (.declare m d) s = .next t) ∧
        (mine → going → exec (.declare m d) s = .next (t.setRegF ghDeclStatA 0 2 1)) ∧
        (mine → ¬ going → exec (.declare m d) s = .next (t.setReg ghDeclStatA 0x13#32)))) ∧
    (∀ sc, s.recv 4 (decide (m.type = 0x20)) m = (p, t) →
      (p = some (orderBytes num.toNat sc) → exec (.restartOrder m num sc) s = .next (t.gkDeliver m)) ∧
      (p ≠ some (orderBytes num.toNat sc) → exec (.restartOrder m num sc) s = .next t)) ∧
    (s.recv 4 (decide (m.type = 0x27)) m = (p, t) → exec (.areasReply m) s = .next (if p = none then t else t.gkDeliver m)) ∧
    (s.recv 4 (decide (m.type = 0x23)) m = (p, t) → exec (.faultNote m) s = .next (if p = none then t else t.gkDeliver m)) ∧
    (s.recv 2 (decide (m.type = 0x21)) m = (p, t) →
      (∀ bs o, p = some bs → t.order (orderOf bs) = some o → o.state = 1 →
        exec (.restartAck m) s = .next (t.putOrder { o with state := 2 })) ∧
      ((¬ ∃ bs o, p = some bs ∧ t.order (orderOf bs) = some o ∧ o.state = 1) → exec (.restartAck m) s = .next t)) ∧
    (s.recv 2 (decide (m.type = 0x22)) m = (p, t) →
      (∀ bs o, p = some bs → t.order (orderOf bs) = some o →
        let u := (bitsOf 8 (scopePavs o.scope &&& t.safetyPavs t.activeBank)).foldl State.assignSafety t
        exec (.restartDone m) s = .next (((scopeDies o.scope).foldl State.regionWindows u).orderOver o 3)) ∧
      ((¬ ∃ bs o, p = some bs ∧ t.order (orderOf bs) = some o) → exec (.restartDone m) s = .next t)) ∧
    (s.order num.toNat = none → exec (.restartAckTimeout num) s = .next s ∧ exec (.restartDoneTimeout num) s = .next s) ∧
    (∀ o, s.order num.toNat = some o →
      let late := o.state = 1 ∧ o.again.getD o.sent + 5000000 ≤ s.frc
      (late → o.again = none → exec (.restartAckTimeout num) s = .next ((s.putOrder { o with again := some s.frc }).orderSend o)) ∧
      (late → o.again ≠ none → exec (.restartAckTimeout num) s = .next (s.orderFail o)) ∧
      (¬ late → exec (.restartAckTimeout num) s = .next s) ∧
      (o.sent + scopeLimit o.scope ≤ s.frc → exec (.restartDoneTimeout num) s = .next (s.orderFail o)) ∧
      (s.frc < o.sent + scopeLimit o.scope → exec (.restartDoneTimeout num) s = .next s)) ∧
    (s.recv 2 (decide (m.type = 0x26)) m = (p, t) →
      (p = none → exec (.areas m) s = .next t) ∧
      (∀ bs, p = some bs →
        (t.areasOk = true → exec (.areas m) s = .next (t.sendMsg idGatehouse idGk 0x27 t.areasBytes)) ∧
        (t.areasOk = false → areasFit bs = false →
          exec (.areas m) s = .next (t.sendMsg idGatehouse idGk 0x27 (List.replicate 24 0))) ∧
        (t.areasOk = false → areasFit bs = true →
          let w := fun (o : Nat) => w32 (ofBytesLE ((bs.drop o).take 4))
          let b := ghPage 0x02
          let u := ((((((t.setReg (b + 0x044) (w 0)).setReg (b + 0x048) (w 4 &&& 0xFFFF#32)).setReg (b + 0x04C) (w 8)).setReg (b + 0x050)
            (w 12 &&& 0xFFFF#32)).setReg (bsPage + 0x0A0) (w 16)).setReg (bsPage + 0x0A4) (w 20 &&& 0xFFFF#32))
          let u : State := { (u.setRegF (b + 0x024) 0 1 1).setRegF (bsPage + 0x024) 0 1 1 with areasOk := true }
          exec (.areas m) s = .next (u.sendMsg idGatehouse idGk 0x27 u.areasBytes))))

/-- R133, R189 to R197, R201, R212, R213: run records, signatures, arbitration and scrubbing of the Belvedere, on every path. -/
def Obligations.BelvedereRuns : Prop :=
  ∀ (s t : State) (w : Writer) (m : PMsg) (n : Nat) (proof : Bool) (p : Option (List Byte)) (v : W32), n < 256 →
    let k := bvKey n proof
    (∀ seq two dieA dieB deadline, s.recv 2 (decide (m.type = 0x10)) m = (p, t) →
      (∀ d, p = some (runOpenBytes n proof seq two dieA dieB deadline) → t.bel.decl = some d →
        let rs := d.ranges.filter (fun g => decide (g.entry.toNat = n) && decide (g.proof = proof))
        let r : BvRun := ⟨seq, two, dieA, dieB, deadline, t.bv.gen, (t.entry d.bank n).svc,
          rs.map (fun g => (g, d.tols.getD g.tol.toNat ⟨0, 0, 0, []⟩)), true, rs.map (fun g => g.count.toNat), false⟩
        let u := t.bvDrop k
        let inRs := fun x => rs.any (fun g => rangeHas g x)
        exec (.runOpen m n proof seq two dieA dieB deadline) s = .next (u.setBv { u.bv with
          runs := Tab.set none u.bv.runs k (some r), states := Tab.keep u.bv.states (fun x => !inRs x),
          info := Tab.keep u.bv.info (fun x => !inRs x),
          syn := Tab.keep u.bv.syn (fun x => decide (x < 2097152) || !rs.any (fun g =>
            decide (g.first.toNat / 16 ≤ x % 2097152) && decide (16 * (x % 2097152) < g.first.toNat + g.count.toNat))) })) ∧
      (p ≠ some (runOpenBytes n proof seq two dieA dieB deadline) ∨ t.bel.decl = none →
        exec (.runOpen m n proof seq two dieA dieB deadline) s = .next t)) ∧
    (∀ r, s.bvRun k = some r →
      (r.clearing = true → exec (.slotClearComplete n proof) s =
        .next (((s.setBvRun k (some { r with clearing := false })).lanesRun).bvResolve k)) ∧
      (r.clearing = false → exec (.slotClearComplete n proof) s = .next s) ∧
      (s.frc < r.deadline → exec (.belvedereDeadline n proof) s = .next s) ∧
      (r.deadline ≤ s.frc → r.two = false → exec (.belvedereDeadline n proof) s = .next (s.bvDrop k).lanesRun) ∧
      (r.deadline ≤ s.frc → r.two = true →
        let mine := s.bv.queue.filter (fun a => decide (a.key = k) && !a.kind.isGolden)
        let x := mine.foldl (fun t a => (t.arbSlots a.kind).foldl (fun t x => t.pairFail k x pfDeadline 0) t) s
        let left := r.left.foldl (· + ·) 0
        let y := x.countN (bvPage + 0x078) left
        let failed := match y.bvRun k with | some x => x.failed | none => false
        exec (.belvedereDeadline n proof) s =
          .next ((y.bvClose k r (if failed then chkFail else if left ≠ 0 then chkMissing else chkPass)).goldRetry).lanesRun)) ∧
    (s.bvRun k = none → exec (.slotClearComplete n proof) s = .next s ∧ exec (.belvedereDeadline n proof) s = .next s) ∧
    (∀ link dom, link < 2 →
      let room := (s.lane (laneOf m.payload)).length < 64
      (safetyDom dom = false ∨ ¬ room → exec (.signature link dom m) s = .next s) ∧
      (safetyDom dom = true → room → s.recv link (decide (m.type = 0x01)) m = (p, t) →
        (∀ bs, p = some bs → bs.length = 32 → exec (.signature link dom m) s = .next (t.laneIn bs)) ∧
        ((∀ bs, p = some bs → bs.length ≠ 32) → exec (.signature link dom m) s = .next t))) ∧
    (s.bv.queue = [] → exec .arbitrationStart s = .next s ∧ ∀ ok, exec (.arbitrationEnd ok) s = .next s) ∧
    (∀ a q, s.bv.queue = a :: q →
      (a.start = none → exec .arbitrationStart s =
        .next ((s.setBv { s.bv with queue := { a with start := some s.frc } :: q }).count (bvPage + 0x06C)) ∧
        ∀ ok, exec (.arbitrationEnd ok) s = .next s) ∧
      (∀ t0 ok, a.start = some t0 →
        exec .arbitrationStart s = .next s ∧
        (s.frc < t0 + (a.cost + 207) / 208 → exec (.arbitrationEnd ok) s = .next s) ∧
        (t0 + (a.cost + 207) / 208 ≤ s.frc →
          let u := s.setBv { s.bv with queue := q }
          (∀ svc copyB base desc expect tol good x, a.kind = .golden svc copyB base desc expect tol →
            u.judgeGolden ok base desc expect tol = (good, x) →
            exec (.arbitrationEnd ok) s =
              .next (((if good then x else x.count (bvPage + 0x070)).goldCmp svc copyB good).goldRetry)) ∧
          (a.kind.isGolden = false →
            let slots := u.arbSlots a.kind
            (∀ r rg tol i res x, u.bvRun a.key = some r → runRange r (slots.headD 0) = some (i, rg, tol) →
              u.judgeSlots r rg tol ok slots = (res, x) →
              (res = none → exec (.arbitrationEnd ok) s = .next (x.bvResolve a.key).goldRetry) ∧
              (∀ slot reason elem, res = some (slot, reason, elem) → exec (.arbitrationEnd ok) s =
                .next ((((x.count (bvPage + 0x070)).pairFail a.key slot reason elem).bvResolve a.key).goldRetry))) ∧
            (((u.bvRun a.key).bind (fun r => runRange r (slots.headD 0))) = none → exec (.arbitrationEnd ok) s = .next u.goldRetry))))) ∧
    ((s.bv.scrub = none ∧ s.bv.scrubNext ≤ s.frc → exec .slotScrubPassStart s =
        .next (s.setBv { s.bv with scrub := some s.frc, scrubNext := s.frc + 500000000 * s.regF (bvPage + 0x054) 0 12 })) ∧
      (¬ (s.bv.scrub = none ∧ s.bv.scrubNext ≤ s.frc) → exec .slotScrubPassStart s = .next s)) ∧
    ((∀ t0, s.bv.scrub = some t0 → t0 + scrubTicks ≤ s.frc →
        let x := s.bv.syn.foldl (fun t e =>
          if e.1 < 2097152 then (if (t.slotRead (e.1 / 2) (e.1 % 2)).1.isSome then (t.slotRead (e.1 / 2) (e.1 % 2)).2
            else (t.slotRead (e.1 / 2) (e.1 % 2)).2.wordLost (e.1 / 2))
          else (if (t.stateRead (16 * (e.1 % 2097152))).1 then (t.stateRead (16 * (e.1 % 2097152))).2
            else (t.stateRead (16 * (e.1 % 2097152))).2.stateLost (16 * (e.1 % 2097152)))) s
        exec .slotScrubPassEnd s = .next (x.setBv { x.bv with scrub := none })) ∧
      ((∀ t0, s.bv.scrub = some t0 → s.frc < t0 + scrubTicks) → exec .slotScrubPassEnd s = .next s)) ∧
    (w = .pair ∧ bit v 0 = true → exec (.bvFailClr w v) s = .next ((s.setReg (bvPage + 0x084) 0).setReg (bvPage + 0x088) 0)) ∧
    (¬ (w = .pair ∧ bit v 0 = true) → exec (.bvFailClr w v) s = .next s) ∧
    (∀ d, s.recv 2 (decide (m.type = 0x12)) m = (p, t) →
      (∀ r, p = some (deadlineBytes n d) → t.bvRun (bvKey n true) = some r →
        exec (.deadline m n d) s = .next (t.setBvRun (bvKey n true) (some { r with deadline := d }))) ∧
      (p ≠ some (deadlineBytes n d) ∨ t.bvRun (bvKey n true) = none → exec (.deadline m n d) s = .next t))

/-- R214 to R220: slices and their ends, eligibility, overdue checkers and the record of a failure, on every branch. What a defect reports
of an injection is the model's reading of the command (log entry 142). -/
def Obligations.SelfTestsAndCheckers : Prop :=
  ∀ (s : State) (w : Writer) (l n : Nat) (defect : Option (Nat × TestReport)) (noReport : Bool) (v : W32), l < 12 → n < chkCount →
    let cs := (List.range chkCount).filter (fun n =>
      decide (chkLane n = l) && s.chkWanted n && s.chkExists n && s.chkReady n && s.chkOpen n)
    let free := Tab.get none s.fol.lanes l = none ∧ ∀ x, Tab.get none s.fol.blocked l = some x → x ≤ s.frc
    (free →
      (∀ n0 ns, cs.filter s.fits = n0 :: ns → exec (.testSliceStart l) s =
        let k := ns.foldl (fun a b => if s.chkKey b < s.chkKey a then b else a) n0
        let t := (s.setChk k { s.chk k with left := if (s.chk k).left = 0 then chkSlices k else (s.chk k).left }).armTest k
        let lanes := Tab.set none t.fol.lanes l (some (k, t.frc))
        .next (t.setFol { t.fol with lanes := lanes, blocked := Tab.set none t.fol.blocked l none })) ∧
      (cs.filter s.fits = [] → cs ≠ [] → exec (.testSliceStart l) s =
        .next ((s.setFol { s.fol with blocked := Tab.set none s.fol.blocked l s.nextSafety }).count (folPage + 0x06C))) ∧
      (cs = [] → exec (.testSliceStart l) s = .next s)) ∧
    (¬ free → exec (.testSliceStart l) s = .next s) ∧
    (∀ k t0, Tab.get none s.fol.lanes l = some (k, t0) →
      let t := (s.setFol { s.fol with lanes := Tab.set none s.fol.lanes l none }).disarmTest k
      let silent := noReport = true ∨ s.testWaits k = true
      (silent → s.frc < t0 + 750 + chkWorst k → exec (.testSliceEnd l defect noReport) s = .next s) ∧
      (silent → t0 + 750 + chkWorst k ≤ s.frc →
        exec (.testSliceEnd l defect noReport) s = .next (t.chkFail k (testNumber k defect) true)) ∧
      (t0 + 750 + chkWorst k < s.frc →
        exec (.testSliceEnd l defect noReport) s = .next (t.chkFail k (testNumber k defect) true)) ∧
      (¬ silent → s.frc ≤ t0 + 750 + chkWorst k →
        (testFirst k defect = 0 → exec (.testSliceEnd l defect noReport) s = .next (s.withFalls (t.chkPass k))) ∧
        (testFirst k defect ≠ 0 → exec (.testSliceEnd l defect noReport) s = .next (t.chkFail k (testFirst k defect) false)))) ∧
    (Tab.get none s.fol.lanes l = none → exec (.testSliceEnd l defect noReport) s = .next s) ∧
    (∀ p, (s.chk n).pass = some p →
      (p + s.stInterval / 2 ≤ s.frc → exec (.checkerEligible n) s = .next (s.setChk n { s.chk n with eligible := true })) ∧
      (s.frc < p + s.stInterval / 2 → exec (.checkerEligible n) s = .next s) ∧
      (s.frc < p + s.stInterval ∨ (s.chk n).overdue = true ∨ s.chkExists n = false → exec (.checkerOverdue n) s = .next s) ∧
      (p + s.stInterval ≤ s.frc → (s.chk n).overdue = false → s.chkExists n = true →
        let t := (s.setChk n { s.chk n with overdue := true }).count (folPage + 0x074)
        let t := t.setReg (folPage + 0x018) (setBit (t.reg (folPage + 0x018)) 1 true)
        let src := if bit (s.reg (folPage + 0x018)) 1 = true then none else some (folPage, 1)
        (bit (t.reg (folPage + 0x01C)) 1 = false → exec (.checkerOverdue n) s =
          .next (t.fcEvent (srcGroup folPage 1) src false false (some (chkLoc n)))) ∧
        (bit (t.reg (folPage + 0x01C)) 1 = true → exec (.checkerOverdue n) s = .next t))) ∧
    ((s.chk n).pass = none → exec (.checkerEligible n) s = .next s ∧ exec (.checkerOverdue n) s = .next s) ∧
    (w = .pair → bit v 0 = true → exec (.folStFailClr w v) s = .next ((s.setReg (folPage + 0x050) 0).setReg (folPage + 0x054) 0)) ∧
    (w ≠ .pair ∨ bit v 0 = false → exec (.folStFailClr w v) s = .next s)

/-- R171, R222, R224, R228, R229, R231, R235, R236, R296: how an error reaches the fault collector, on every branch of each command. The
form of SOURCE_RISE for the lockstep pair and its injection operand are the model's (log entry 136). -/
def Obligations.ErrorReports : Prop :=
  ∀ (s t u : State) (w : Writer) (page b link r : Nat) (inj : Bool) (dom : Domain) (m : PMsg) (bs : List Byte) (v : W32), link < 3 → r < 3 →
    (exec (.sourceRise lockstepSrc.1 lockstepSrc.2 inj) s = .next (s.fcEvent 63 none false false none)) ∧
    (srcOk page b = true → (page, b) ≠ lockstepSrc →
      u = (if s.risen.contains (page, b) = true then s
        else if (inj && s.injArmed page) = true then (s.injTake page (s.regF (page + injOff) 0 4)).2.setErrBy 1 page b
        else s.setErr page b) →
      (u.risen.contains (page, b) = false → exec (.sourceRise page b inj) s = .next u) ∧
      (u.risen.contains (page, b) = true →
        let x := { u with risen := u.risen.erase (page, b) }
        (pageDie page = 3 → exec (.sourceRise page b inj) s = .next (x.fcLatchSrc page b (x.injSrc.contains (page, b)))) ∧
        (pageDie page ≠ 3 → exec (.sourceRise page b inj) s =
          .next (x.sendMsg (idConc (pageDie page)) idGatehouse 0x03 (errReport x.frc page b))))) ∧
    (dom ≠ 0xF01#12 → exec (.errReport link dom m) s = .next s ∧ exec (.srcVector link dom m) s = .next s) ∧
    (s.recv link (decide (m.type = 0x03)) m = (none, t) → exec (.errReport link 0xF01#12 m) s = .next t) ∧
    (s.recv link (decide (m.type = 0x03)) m = (some bs, t) →
      pageOf (BitVec.ofNat 16 (ofBytesLE (bs.take 4))) (nfld (ofBytesLE (bs.take 4)) 16 12) = page →
      nfld (ofBytesLE ((bs.drop 4).take 4)) 0 5 = b →
      (bs.length = 8 → srcOk page b = true → pageDie page = link → exec (.errReport link 0xF01#12 m) s =
        .next ((t.known [(page, b)]).fcLatchSrc page b (t.injSrc.contains (page, b)))) ∧
      (¬ (bs.length = 8 ∧ srcOk page b = true ∧ pageDie page = link) → exec (.errReport link 0xF01#12 m) s = .next t)) ∧
    (s.recv link (decide (m.type = 0x04)) m = (none, t) → exec (.srcVector link 0xF01#12 m) s = .next t) ∧
    (s.recv link (decide (m.type = 0x04)) m = (some bs, t) →
      exec (.srcVector link 0xF01#12 m) s =
        let now := (vectorSources bs (bs.length / 8)).filter (fun e => decide (pageDie e.1 = link))
        let lost := now.filter (fun e => !t.fcKnown.contains e)
        let x := t.withFalls { t with fcKnown := t.fcKnown.filter (fun e => decide (pageDie e.1 ≠ link) || now.contains e) }
        .next (lost.foldl (fun y e => (y.count (fcPage + 0x078)).fcLatchSrc e.1 e.2 (y.injSrc.contains e)) (x.known lost))) ∧
    (s.frc < Tab.get 0 s.vecAt r + 25000 → exec (.srcVectorPeriod r) s = .next s) ∧
    (Tab.get 0 s.vecAt r + 25000 ≤ s.frc → exec (.srcVectorPeriod r) s =
      let high := fun (e : Nat × W32) => e.2 &&& ~~~ s.reg (e.1 - 0x018 + 0x01C)
      let blocks := s.regs.filter (fun e => decide (e.1 % 0x1000 = 0x018)
        && (match pageKind e.1 with | some k => k.hasHead | none => false) && decide (pageDie e.1 = r) && decide (high e ≠ 0))
      let payload := blocks.flatMap (fun e => bytesLE 4 ((srcUnit e.1).toNat + pageNo (e.1 - 0x018) * 65536) ++ bytesLE 4 (high e).toNat)
      .next { s.sendXfer (idConc r) idGatehouse 0x04 (payload.length / 240 + 1) payload with vecAt := Tab.set 0 s.vecAt r s.frc }) ∧
    (s.lastHeard r = none → exec (.concentratorSilence r) s = .next s) ∧
    (∀ t0, s.lastHeard r = some t0 →
      (Tab.get false s.silent r = false → t0 + 100000 ≤ s.frc → exec (.concentratorSilence r) s =
        let g := if r < 2 then 37 + r else 39
        .next (({ s with silent := Tab.set false s.silent r true }.extHigh (16 * g) true).fcLatchSrc
          (if r < 2 then uPage (dieUid r) 6 else ioPage 5) 2 false)) ∧
      (Tab.get false s.silent r = true ∨ s.frc < t0 + 100000 → exec (.concentratorSilence r) s = .next s)) ∧
    exec (.fcAck .pair v) s = .next ((bitsOf 16 (fld v 0 16)).foldl State.fcAckClass s) ∧
    (bit v 31 = true → s.svcAccess = true → exec (.fcForce .pair v) s = .next (s.fcEvent (fld v 0 6) none false true none)) ∧
    (bit v 31 = true → s.svcAccess = false → exec (.fcForce .pair v) s = .next (s.setErr fcPage 0)) ∧
    (bit v 31 = false → exec (.fcForce .pair v) s = .next s) ∧
    (w ≠ .pair → exec (.fcAck w v) s = .next s ∧ exec (.fcForce w v) s = .next s) ∧
    (s.recv 2 (decide (m.type = 0x24)) m = (none, t) → exec (.faultAck m) s = .next t) ∧
    (s.recv 2 (decide (m.type = 0x24)) m = (some bs, t) →
      let n := nfld (ofBytesLE (bs.take 2)) 0 16
      (nbit n 4 = false → exec (.faultAck m) s = .next (t.fcAck n)) ∧
      (nbit n 4 = true → exec (.faultAck m) s = .next (((t.fcAck n).lockClr 15).resumeClr))) ∧
    (s.recv 2 (decide (m.type = 0x25)) m = (none, t) → exec (.faultForce m) s = .next t) ∧
    (s.recv 2 (decide (m.type = 0x25)) m = (some bs, t) →
      exec (.faultForce m) s = .next (t.fcForce (w32 (nfld (ofBytesLE (bs.take 4)) 0 6 + 2 ^ 31))))

/-- R219, R222, R229, R230, R421, R440: recovery of a class, the hourly counts and the clearing of error bits, on every branch. -/
def Obligations.FaultClassRecovery : Prop :=
  ∀ (s : State) (w : Writer) (k page : Nat) (kind : PageKind) (v : W32), k < 16 →
    (s.fcQuietDue k = false → exec (.quietPeriodExpiry k) s = .next s) ∧
    (s.fcQuietDue k = true → s.regF (fcBudgetA k) 0 8 < (s.fcClass k).hourly + 1 →
      exec (.quietPeriodExpiry k) s = .next ((s.setRegF (fcClsStat k) 3 1 1).icuPulse 0 2)) ∧
    (s.fcQuietDue k = true → (s.fcClass k).hourly + 1 ≤ s.regF (fcBudgetA k) 0 8 →
      exec (.quietPeriodExpiry k) s =
        let mins := match (s.fcClass k).mins with | [] => [1] | m :: r => (m + 1) :: r
        let t := s.setFcClass k { s.fcClass k with mins := mins }
        let t := t.setRegF (fcClsStat k) 16 16 (satN 16 (t.regF (fcClsStat k) 16 16 + 1))
        let t := t.setRegF (fcClsStat k) 8 8 (satN 8 (t.fcClass k).hourly)
        .next ((t.count (fcPage + 0x074)).fcClear k)) ∧
    (s.frc < s.fcMinute → exec .hourlyWindowAdvance s = .next s) ∧
    (s.fcMinute ≤ s.frc → exec .hourlyWindowAdvance s =
      .next ((List.range 16).foldl (fun t k =>
        let c := t.fcClass k
        let mins := if c.hourly = 0 then [] else (0 :: c.mins).take 60
        let t := t.setFcClass k { c with mins := mins }
        t.setRegF (fcClsStat k) 8 8 (satN 8 (t.fcClass k).hourly)) { s with fcMinute := s.fcMinute + 30000000000 })) ∧
    (headPage page = true → pageKind (page + 0x018) = some kind → (winUnit (page + 0x018)).all (fun x => !s.isAbsent x || decide (kind = .unit)) = true →
      (s.headMay w kind page 0x018 = false → exec (.blkErrClear w page v) s = .next s) ∧
      (s.headMay w kind page 0x018 = true →
        let held : W32 := (if page = ghPage 0x14 ∧ s.dbgOpen = true then 1#32 else 0#32)
          ||| (if page = ghPage 0x03 ∧ s.fol.chks.any (fun e => e.2.overdue) = true then 2#32 else 0#32)
        let t := s.withFalls (s.setReg (page + 0x018) (s.reg (page + 0x018) &&& ~~~ (v &&& ~~~ held)))
        let byGk := s.writerDom w = domGk ∧ w ≠ .rom ∧ s.reg (page + 0x018) ≠ t.reg (page + 0x018) ∧ s.gk.up = true
        (¬ byGk → exec (.blkErrClear w page v) s = .next t) ∧
        (byGk → exec (.blkErrClear w page v) s = .next (t.logAdd 0x0004
          (bytesLE 2 (srcUnit page).toNat ++ bytesLE 2 (pageNo page) ++ bytesLE 4 (s.reg (page + 0x018)).toNat) false 0))))

/-- R243 to R247, R257, R258, R462: what the events of a safe input do, on every branch. The operands that say since when a channel has read a
level and what a channel read at a pulse are the model's form of the commands (log entry 138). -/
def Obligations.SafeInputs : Prop :=
  ∀ (s : State) (hw sawLow : Bool) (ch m k since : Nat) (a b : BitVec 34), ch < 34 → m < 4 → k < 16 →
    let active := if 32 ≤ ch then s.siLevel hw ch else s.siActive hw (ch / 2) (ch % 2)
    let taken := s.tpBlank ch = false ∧ (s.scanOn = true → active = true) ∧ s.filtered hw ch since = true
    (¬ taken → exec (.filterExpiry hw ch since) s = .next s) ∧
    (taken → 32 ≤ ch →
      (hw = true → exec (.filterExpiry hw ch since) s = .next ((s.flipLevel hw ch).contactChanged (ch - 32))) ∧
      (hw = false → exec (.filterExpiry hw ch since) s = .next (s.flipLevel hw ch))) ∧
    (taken → ch < 32 → exec (.filterExpiry hw ch since) s =
      let k := ch / 2
      let t := (if s.siEval hw k = true then s.discExpire hw k else s).flipLevel hw ch
      let t := if hw = true then t else t.setRegF (siStatA k) (6 + ch % 2) 1 (b2n (t.siActive false k (ch % 2)))
      let t := if t.siEval hw k = true then t.pairStep hw k (ch % 2) else t
      .next (if hw = true then t else t.twohandOf k).drive) ∧
    (s.cyc.recLoad = none → exec (.testPulseStart m a b) s = .next s) ∧
    (∀ t0, s.cyc.recLoad = some t0 →
      let inSlot := t0 + m * s.tpPeriod / 4 ≤ s.frc ∧ s.tpPeriod ≠ 0 ∧ (s.frc - (t0 + m * s.tpPeriod / 4)) % s.tpPeriod = 0
      (inSlot → exec (.testPulseStart m a b) s =
        .next (s.setSio { s.sio with tpAt := Tab.set none s.sio.tpAt m (some s.frc), tpReads := Tab.set (0, 0) s.sio.tpReads m (a, b) })) ∧
      (¬ inSlot → exec (.testPulseStart m a b) s = .next s)) ∧
    (s.tpOf ch = none → exec (.testPulseCheck hw ch sawLow) s = .next s) ∧
    (∀ p, s.tpOf ch = some p →
      (Tab.get none s.sio.tpAt p = none → exec (.testPulseCheck hw ch sawLow) s = .next s) ∧
      (∀ t0, Tab.get none s.sio.tpAt p = some t0 →
        let read := if hw = true then (Tab.get (0, 0) s.sio.tpReads p).1 else (Tab.get (0, 0) s.sio.tpReads p).2
        let fails := t0 + s.tpWidth + 50000 ≤ s.frc ∧ sawLow = false ∧ bit read ch = true ∧ s.scanOn = false ∧ s.scanEnd ≤ t0
        (¬ fails → exec (.testPulseCheck hw ch sawLow) s = .next s) ∧
        (fails → 32 ≤ ch → hw = true →
          exec (.testPulseCheck hw ch sawLow) s = .next ((s.setRegF sioResStatA 3 1 1).setErr sioPage 6)) ∧
        (fails → 32 ≤ ch → hw = false → exec (.testPulseCheck hw ch sawLow) s = .next s) ∧
        (fails → ch < 32 → s.siFunc (ch / 2) ≠ 0 → s.siEval hw (ch / 2) = true → exec (.testPulseCheck hw ch sawLow) s =
          .next ((s.pairFault hw (ch / 2) (2 + ch % 2) 1).twohandOf (ch / 2)).drive) ∧
        (fails → ch < 32 → s.siFunc (ch / 2) = 0 ∨ s.siEval hw (ch / 2) = false →
          exec (.testPulseCheck hw ch sawLow) s = .next s))) ∧
    (s.siEval hw k = true → exec (.discrepancyTimeout hw k) s = .next (((s.discExpire hw k).twohandOf k).drive)) ∧
    (s.siEval hw k = false → exec (.discrepancyTimeout hw k) s = .next s)

/-- R248 to R252, R254, R258: the processor path's commands, on every branch. -/
def Obligations.SafeOutputCommands : Prop :=
  ∀ (s : State) (w : Writer) (v : W32),
    (s.sio.sampled = false → s.cyc.last + 250 * s.cyc.us ≤ s.frc →
      exec .processorSample s =
        let t := (List.range 16).foldl State.pathCompare s
        let latch := mask4 (fun n => (List.range 16).any (fun k => bit t.sio.left k && t.siStop k && !t.siAuto k && t.siMask k n))
        let sched := t.sio.sched ++ [(2, mask4 t.prHs, latch)]
        .next ((t.setSio { t.sio with sampled := true, left := 0, sched := sched }).drive)) ∧
    (s.sio.sampled = true ∨ s.frc < s.cyc.last + 250 * s.cyc.us → exec .processorSample s = .next s) ∧
    exec (.sioHsCmd .pair v) s =
      (let t := s.setReg sioHsCmdA (w32 (fld v 0 4 % 16))
       .next (t.setSio { t.sio with hsValid := some (s.frc + 2 * s.cycTicks) }).drive) ∧
    exec (.sioLatchSet .pair v) s = .next ((s.setLatches (fld v 0 4) lcLatchSet).drive) ∧
    exec (.sioLockClr .pair v) s = .next ((bitsOf 4 (fld v 0 4)).foldl (fun t n =>
      if t.locked n = true ∧ t.midLong n = true then t.setRegF (soStatA n) 3 1 0 else t) s).drive ∧
    (let open1 := fun c => s.siLevel true (32 + c) = false ∧ Tab.get 0 s.sio.openAt c + 500000000 ≤ s.frc
     (bit v 0 = true → open1 0 → open1 1 → exec (.sioResumeClr .pair v) s = .next (s.setRegF sioResStatA 3 1 0)) ∧
     (bit v 0 = false ∨ ¬ open1 0 ∨ ¬ open1 1 → exec (.sioResumeClr .pair v) s = .next s)) ∧
    (w ≠ .pair → exec (.sioHsCmd w v) s = .next s ∧ exec (.sioLatchSet w v) s = .next s ∧ exec (.sioLockClr w v) s = .next s ∧
      exec (.sioResumeClr w v) s = .next s) ∧
    (let held := ∃ t1, s.fwHold = some t1 ∧ s.frc < t1 + 25000000
     (∀ t0, s.sio.hsValid = some t0 → t0 ≤ s.frc → ¬ held →
       exec .hsCmdExpiry s =
         .next ((((s.setReg sioHsCmdA 0).setSio { s.sio with hsValid := none }).setLatches 15 lcProcessor).drive)) ∧
     (∀ t0, s.sio.hsValid = some t0 → s.frc < t0 ∨ held → exec .hsCmdExpiry s = .next s) ∧
     (s.sio.hsValid = none → exec .hsCmdExpiry s = .next s))

/-- R253 to R255, R322, R464: conversions and dark tests, on every branch. -/
def Obligations.ReadbackAndDarkTests : Prop :=
  ∀ (s : State) (c n : Nat) (v : BitVec 12) (low : Bool), c < 16 → n < 4 →
    (let first := !bit s.sio.adcSeen c
     let t := (s.snapCopy c v).setReg (sioPage + 0x080 + 4 * c) (w32 (v.toNat + b2n first * 32768))
     let t := t.setSio { t.sio with adcSeen := t.sio.adcSeen ||| BitVec.ofNat 16 (2 ^ c) }
     (12 ≤ c → exec (.adcSample c v) s = .next t) ∧
     (8 ≤ c → c < 12 →
       let u := t.setRegF (soStatA (c - 8)) 6 1 (b2n (decide (10 * v.toNat < 4096)))
       (∀ d, 10 * v.toNat < 4096 → Tab.get none u.sio.dark (c - 8) = some d →
         exec (.adcSample c v) s = .next (u.darkEnd (c - 8) d.low false)) ∧
       (4096 ≤ 10 * v.toNat ∨ Tab.get none u.sio.dark (c - 8) = none → exec (.adcSample c v) s = .next u)) ∧
     (c < 8 →
       let since := match Tab.get none t.sio.mid c with | some x => some x | none => some t.frc
       let u := t.setSio { t.sio with mid := Tab.set none t.sio.mid c (if t.node c = .mid then since else none) }
       let out := c / 2
       (first = true ∨ bit (u.reg (soStatA out)) 6 = true → exec (.adcSample c v) s = .next u) ∧
       (first = false → bit (u.reg (soStatA out)) 6 = false →
         (∀ d, Tab.get none u.sio.dark out = some d → exec (.adcSample c v) s = .next (u.darkSample c d)) ∧
         (Tab.get none u.sio.dark out = none →
           (u.frc < Tab.get 0 u.sio.changedAt out + u.dtSettle ∨ u.svcAccess = true ∨ u.frc < u.svcEnd + u.dtSettle →
             exec (.adcSample c v) s = .next u) ∧
           (Tab.get 0 u.sio.changedAt out + u.dtSettle ≤ u.frc → u.svcAccess = false → u.svcEnd + u.dtSettle ≤ u.frc →
             let dv := deviation (u.hsPin out) (u.lsPin out) (decide (c % 2 = 0)) (u.node c)
             let k := Tab.get 0 u.sio.deviate c + 1
             let put := fun (x : Nat) => u.setSio { u.sio with deviate := Tab.set 0 u.sio.deviate c x }
             (dv = 0 → exec (.adcSample c v) s = .next (put 0)) ∧
             (dv ≠ 0 → k < 3 → exec (.adcSample c v) s = .next (put k)) ∧
             (dv ≠ 0 → 3 ≤ k → exec (.adcSample c v) s = .next ((put 0).setLock out dv (if dv = 5 then 4 else 2)))))))) ∧
    (s.cyc.recLoad = none → exec (.darkTestStart n low) s = .next s) ∧
    (∀ t0, s.cyc.recLoad = some t0 →
      let slot := t0 + n * s.dtPeriod / 8 + (if low = true then s.dtPeriod / 2 else 0)
      let starts := s.dtPeriod ≠ 0 ∧ slot ≤ s.frc ∧ (s.frc - slot) % s.dtPeriod = 0 ∧ s.svcAccess = false ∧ s.regF (outStatA n) 0 2 = 1 ∧
        s.hsPin n = true ∧ s.lsPin n = true ∧ bit (s.reg (soStatA n)) 6 = false
      (starts → exec (.darkTestStart n low) s =
        .next ((s.setSio { s.sio with dark := Tab.set none s.sio.dark n (some ⟨s.frc, low, false, 0⟩) }).drive)) ∧
      (¬ starts → exec (.darkTestStart n low) s = .next s)) ∧
    (∀ d, Tab.get none s.sio.dark n = some d →
      (d.start + 150000 ≤ s.frc → exec (.darkTestTimeout n) s =
        .next ((s.setSio { s.sio with dark := Tab.set none s.sio.dark n none }).setLock n (s.darkCause n)
          (if s.darkCause n = 5 then 4 else 3))) ∧
      (s.frc < d.start + 150000 → exec (.darkTestTimeout n) s = .next s)) ∧
    (Tab.get none s.sio.dark n = none → exec (.darkTestTimeout n) s = .next s)

/-- R257, R258, R462: presses of the resume button, on every branch. -/
def Obligations.ResumeButton : Prop :=
  ∀ (s : State) (second : Bool),
    let a := Tab.get 0 s.sio.closedAt 0
    let b := Tab.get 0 s.sio.closedAt 1
    let c0 := s.siLevel true 32
    let c1 := s.siLevel true 33
    (let begins := s.sio.ready = true ∧ s.scanOn = false ∧ c0 = true ∧ c1 = true ∧ s.sio.pressAt = none ∧ max a b - min a b < s.resDisc
     (begins → exec .resumePressBegin s =
       .next ((s.setSio { s.sio with pressAt := some s.frc, ready := false }).setRegF sioResStatA 2 1 1)) ∧
     (¬ begins → exec .resumePressBegin s = .next s)) ∧
    (s.sio.pressAt = none → exec (.resumeRelease second) s = .next s) ∧
    (∀ t0, s.sio.pressAt = some t0 →
      (s.siLevel true (32 + b2n second) = true → exec (.resumeRelease second) s = .next s) ∧
      (s.siLevel true (32 + b2n second) = false →
        let len := s.frc - t0
        let u := s.setSio { s.sio with pressAt := none, ready := !c0 && !c1, releaseAt := if !c0 && !c1 then none else some s.frc }
        let t := (u.setRegF sioResStatA 2 1 0).setRegF sioResStatA 16 16 (satN 16 (len / 500000))
        (len < 50000000 ∨ 1000000000 < len → exec (.resumeRelease second) s = .next (t.count (sioPage + 0x070))) ∧
        (50000000 ≤ len → len ≤ 1000000000 →
          (bit (t.reg sioResStatA) 3 = false → exec (.resumeRelease second) s =
            .next (t.setSio { t.sio with events := t.sio.events ++ [(t.frc, t0)] })) ∧
          (bit (t.reg sioResStatA) 3 = true → exec (.resumeRelease second) s = .next t)))) ∧
    (∀ t0, s.sio.releaseAt = some t0 →
      (c0 ≠ c1 → t0 + s.resDisc < s.frc → exec .resumeDiscrepancyTimeout s =
        .next ((s.setSio { s.sio with releaseAt := none, ready := false }).setErr sioPage 7)) ∧
      (c0 = c1 ∨ s.frc ≤ t0 + s.resDisc → exec .resumeDiscrepancyTimeout s = .next s)) ∧
    (s.sio.releaseAt = none →
      let due := c0 ≠ c1 ∧ s.sio.ready = true ∧ s.sio.pressAt = none ∧ (if c0 = true then a else b) + s.resDisc ≤ s.frc
      (due → exec .resumeDiscrepancyTimeout s = .next ((s.setSio { s.sio with ready := false }).setErr sioPage 7)) ∧
      (¬ due → exec .resumeDiscrepancyTimeout s = .next s)) ∧
    (let stuck := s.siLevel true (32 + b2n second) = true ∧ Tab.get 0 s.sio.closedAt (b2n second) + 5000000000 < s.frc
     (stuck → exec (.resumeStuckTimeout second) s = .next ((s.setRegF sioResStatA 3 1 1).setErr sioPage 6)) ∧
     (¬ stuck → exec (.resumeStuckTimeout second) s = .next s))

/-- R14, R262 to R269, R271, R478 to R481: events, claims, completions and moderation of an interrupt controller, on every branch. -/
def Obligations.InterruptControllers : Prop :=
  ∀ (s : State) (w : Writer) (i n t : Nat) (level : Bool) (v : W32), icuSrcOk i n = true → icuTgtOk i t = true → i < 10 →
    (let now := level || s.irqPin i n
     let old := s.icuBit i n icuLine
     let sense := s.regF (icuCfgA i n) 0 3
     let u := s.icuSet i n icuLine now
     let event := old ≠ now ∧ (sense = 0 ∧ now = true ∨ sense = 1 ∧ now = false ∨ sense = 2 ∧ now = true ∨ sense = 3 ∧ now = false ∨ sense = 4)
     (¬ event → exec (.irqSourceEvent i n level) s = .next u) ∧
     (event → u.icuBit i n icuPend = true ∨ u.icuBit i n icuInsv = true →
       exec (.irqSourceEvent i n level) s = .next (u.icuSet i n icuOver true)) ∧
     (event → u.icuBit i n icuPend = false → u.icuBit i n icuInsv = false →
       exec (.irqSourceEvent i n level) s = .next ((u.icuSet i n icuPend true).icuWake i n))) ∧
    (s.icuBest i t = 0 → exec (.icuClaim i t) s = .next (s.setReg (icuPage i + 0x064 + 0x10 * t) 0)) ∧
    (∀ k, s.icuBest i t = k → k ≠ 0 →
      let cfg := s.reg (icuCfgA i k)
      let u := ((s.icuSet i k icuPend false).icuSet i k icuInsv true).setRegF (icuStatA i k) 4 2 t
      let u := { u with icuSvc := Tab.set 0 u.icuSvc (icuKey i k) (fld cfg 4 4) }
      (fld cfg 16 16 = 0 → exec (.icuClaim i t) s = .next (u.setReg (icuPage i + 0x064 + 0x10 * t) (w32 k))) ∧
      (fld cfg 16 16 ≠ 0 → exec (.icuClaim i t) s =
        .next ({ u.icuSet i k icuHeld true with icuHold := Tab.set 0 u.icuHold (icuKey i k) (u.frc + 500 * fld cfg 16 16) }.setReg
          (icuPage i + 0x064 + 0x10 * t) (w32 k)))) ∧
    (s.icuMay w i = true →
      ((s.icuServing i t).contains (fld v 0 9) = true →
        let k := fld v 0 9
        let u := (s.icuSet i k icuInsv false).setRegF (icuStatA i k) 4 2 0
        let u := { u with icuSvc := Tab.set 0 u.icuSvc (icuKey i k) 0 }
        let active := icuActive (u.regF (icuCfgA i k) 0 3) (u.icuBit i k icuLine)
        (active = false → exec (.icuComplete w i t v) s = .next u) ∧
        (active = true → exec (.icuComplete w i t v) s = .next ((u.icuSet i k icuPend true).icuWake i k))) ∧
      ((s.icuServing i t).contains (fld v 0 9) = false → exec (.icuComplete w i t v) s = .next (s.setErr (icuPage i) 0)) ∧
      exec (.icuGctrlWrite w i v) s = .next (s.setReg (icuPage i + 0x044) (v &&& 1))) ∧
    (s.icuMay w i = false → exec (.icuComplete w i t v) s = .next s ∧ exec (.icuGctrlWrite w i v) s = .next s) ∧
    (let late := s.icuBit i n icuHeld = true ∧ Tab.get 0 s.icuHold (icuKey i n) ≤ s.frc
     (late → exec (.irqModerationEnd i n) s =
       .next { s.icuSet i n icuHeld false with icuHold := Tab.set 0 s.icuHold (icuKey i n) 0 }) ∧
     (¬ late → exec (.irqModerationEnd i n) s = .next s))

/-- R273 to R277: commands of the watchdogs, on every branch. -/
def Obligations.Watchdogs : Prop :=
  ∀ (s : State) (x : Writer) (w c : Nat) (close cross imageOk : Bool) (v : W32), w < 14 → c < 4 →
    (let t := s.wdTouch w
     let a := if close = true then wdCloseA w else wdOpenA w
     let v24 := v &&& 0xFFFFFF#32
     (wdOwner x w = true →
       ((s.wd w).started = false → exec (.wdCtrlWrite x w v) s = .next (t.wdStart w v)) ∧
       ((s.wd w).started = true → wdClassD w = false → s.wdInWindow w = true → exec (.wdCtrlWrite x w v) s =
         .next ((t.setWd w { t.wd w with heldCtrl := some (v &&& 0xF#32) }).setRegF (wdStatA w) 7 1 1)) ∧
       ((s.wd w).started = true → wdClassD w = true ∨ s.wdInWindow w = false → exec (.wdCtrlWrite x w v) s = .next t) ∧
       (wdClassD w = true →
         ((if close = true then (s.wd w).wroteClose else (s.wd w).wroteOpen) = true → exec (.wdWindowWrite x w close v) s = .next t) ∧
         ((if close = true then (s.wd w).wroteClose else (s.wd w).wroteOpen) = false → exec (.wdWindowWrite x w close v) s =
           let u := t.setReg a v24
           .next (u.setWd w (if close = true then { t.wd w with wroteClose := true } else { t.wd w with wroteOpen := true })))) ∧
       (wdClassD w = false →
         (s.wdState w = wdOff → exec (.wdWindowWrite x w close v) s = .next (s.setReg a v24)) ∧
         (s.wdState w ≠ wdOff → s.wdInWindow w = true → exec (.wdWindowWrite x w close v) s =
           .next ((t.setWd w (if close = true then { t.wd w with heldClose := some v24 } else { t.wd w with heldOpen := some v24 })).setRegF
             (wdStatA w) 7 1 1)) ∧
         (s.wdState w ≠ wdOff → s.wdInWindow w = false → exec (.wdWindowWrite x w close v) s = .next t)) ∧
       (bit v 0 = true → exec (.wdBiteClr x w v) s = .next ((t.setRegF (wdStatA w) 4 3 0).setReg (wdPage w + 0x058) 0)) ∧
       (bit v 0 = false → exec (.wdBiteClr x w v) s = .next t)) ∧
     (wdOwner x w = false → exec (.wdCtrlWrite x w v) s = .next s ∧ exec (.wdWindowWrite x w close v) s = .next s ∧
       exec (.wdBiteClr x w v) s = .next s)) ∧
    (let key := fld v 0 16
     (¬ (if w = 1 then x = .tsm else wdOwner x w = true) → exec (.wdKey x w v) s = .next s) ∧
     ((if w = 1 then x = .tsm else wdOwner x w = true) →
       (s.wdState w = wdOff ∨ s.wdState w = wdBitten → exec (.wdKey x w v) s = .next s) ∧
       (s.wdState w ≠ wdOff → s.wdState w ≠ wdBitten →
         (∀ k, s.wdDue w = some k → exec (.wdKey x w v) s = .next (s.wdBite w k)) ∧
         (s.wdDue w = none → bit (s.reg (wdStatA w)) 2 = false →
           (key = 0x6D2B → exec (.wdKey x w v) s =
             .next ((s.setRegF (wdStatA w) 2 1 1).setWd w { s.wd w with broken := false })) ∧
           (key ≠ 0x6D2B → exec (.wdKey x w v) s = .next (s.wdBite w causeKey))) ∧
         (s.wdDue w = none → bit (s.reg (wdStatA w)) 2 = true →
           (key ≠ 0x92D4 ∨ (s.wd w).broken = true → exec (.wdKey x w v) s = .next (s.wdBite w causeKey)) ∧
           (key = 0x92D4 → (s.wd w).broken = false →
             (s.wdCount w < s.regF (wdOpenA w) 0 24 → exec (.wdKey x w v) s = .next (s.wdBite w causeEarly)) ∧
             (s.regF (wdOpenA w) 0 24 ≤ s.wdCount w → exec (.wdKey x w v) s = .next (s.wdAccept w))))))) ∧
    (∀ k, s.wdDue w = some k → exec (.watchdogTimeout w) s = .next (s.wdBite w k)) ∧
    (s.wdDue w = none → exec (.watchdogTimeout w) s = .next s) ∧
    (s.wdState (2 + c) = wdBitten → (s.wd (2 + c)).biteAt + 5000000 ≤ s.frc →
      exec (.watchdogCoreReset c) s =
        .next (if (s.gkRestart 2).wdState (2 + c) = wdBitten then (s.gkRestart 2).wdReset (2 + c) else s.gkRestart 2)) ∧
    (s.wdState (2 + c) ≠ wdBitten ∨ s.frc < (s.wd (2 + c)).biteAt + 5000000 → exec (.watchdogCoreReset c) s = .next s) ∧
    (let due := fun (d : Nat) => s.wdState d = wdBitten ∧ ∃ b, (s.wd d).boundary = some b ∧ b + 5000 ≤ s.frc
     (due 0 ∨ due 1 → exec (.watchdogGatehouseReset imageOk) s = .next (s.ghReset 2 imageOk)) ∧
     (¬ due 0 → ¬ due 1 → exec (.watchdogGatehouseReset imageOk) s = .next s)) ∧
    (let t := { s with dbgHalted := Tab.set false s.dbgHalted w true }
     let r := { s with dbgHalted := Tab.set false s.dbgHalted w false }
     let freezes := wdClassD w = true ∧ cross = false ∧ s.wdState w = wdRunning
     (freezes → exec (.debugHalt w cross) s =
       .next ((t.setWd w { s.wd w with counted := s.wdElapsed w }).setWdState w wdFrozen)) ∧
     (¬ freezes → exec (.debugHalt w cross) s = .next t) ∧
     (s.wdState w = wdFrozen → exec (.debugResume w) s = .next ((r.setWd w { s.wd w with since := s.frc }).setWdState w wdRunning)) ∧
     (s.wdState w ≠ wdFrozen → exec (.debugResume w) s = .next r))

/-- R133, R280 to R283: check-ins and the windows of the task sequence monitor, on every branch. -/
def Obligations.TaskMonitorAndCheckIns : Prop :=
  ∀ (s t : State) (w : Writer) (link k : Nat) (dom : Domain) (m : PMsg) (b : Byte) (bs : List Byte) (v : W32), link < 2 → k < 256 →
    (safetyDom dom = false → exec (.checkin link dom m) s = .next s) ∧
    (safetyDom dom = true → s.recv link (decide (m.type = 0x02)) m = (none, t) ∨ s.recv link (decide (m.type = 0x02)) m = (some [], t) →
      exec (.checkin link dom m) s = .next t) ∧
    (safetyDom dom = true → s.recv link (decide (m.type = 0x02)) m = (some (b :: bs), t) →
      let n := b.toNat
      let u := if t.taskDue n = true then (t.taskJudge n).tsmServe else t
      (u.taskOn n = true → exec (.checkin link dom m) s = .next (u.setRegF (tsmStatA n) 0 4 (satN 4 (u.regF (tsmStatA n) 0 4 + 1)))) ∧
      (u.taskOn n = false → exec (.checkin link dom m) s = .next (u.count (tsmPage + 0x044)))) ∧
    (s.taskDue k = true →
      let n := s.regF (tsmStatA k) 0 4
      let bad := s.cyc.count - s.tsm.origin ≠ tsmSpan s k ∧ ¬ (s.taskOn k = true ∧ tsmMin s k ≤ n ∧ n ≤ tsmMax s k)
      let u : State := { s with tsm := { s.tsm with judged := Tab.set 0 s.tsm.judged k s.cyc.count } }
      (¬ bad → exec (.taskWindowClose k) s = .next (u.setReg (tsmStatA k) (w32 (16 * n))).tsmServe) ∧
      (bad →
        let u := (u.setReg (tsmStatA k) (w32 (16 * n + 256))).count (tsmPage + 0x040)
        let u := if bit (u.reg (tsmPage + 0x048)) 31 = true then u
          else (u.setReg (tsmPage + 0x048) (w32 (k + 256 * n + 2 ^ 31))).setReg (tsmPage + 0x04C) (w32 (nfld s.cyc.last 16 32))
        let u : State := { u with evid := u.evid ++ [⟨s.cyc.last, .task k⟩] }
        exec (.taskWindowClose k) s = .next u.tsmServe)) ∧
    (s.taskDue k = false → exec (.taskWindowClose k) s = .next s) ∧
    (bit v 0 = true → exec (.tsmFailClr .pair v) s = .next ((s.setReg (tsmPage + 0x048) 0).setReg (tsmPage + 0x04C) 0)) ∧
    (w ≠ .pair ∨ bit v 0 = false → exec (.tsmFailClr w v) s = .next s)

/-- R214, R284 to R290: the check value units, on every branch: an idle unit, one in a test slice, and a writer that may not write. -/
def Obligations.CheckValueUnits : Prop :=
  ∀ (s t : State) (w : Writer) (u n : Nat) (v : W32) (hi : Bool), u < 8 →
    (s.cvuMay w u = false → exec (.cvuStart w u v) s = .next s ∧ exec (.cvuData8 w u v) s = .next s ∧
      exec (.cvuData16 w u v) s = .next s ∧ exec (.cvuData32 w u v) s = .next s ∧ exec (.cvuRunWrite w u hi v) s = .next s) ∧
    (s.cvuMay w u = true → s.cvuTest u = true →
      let stalled := fun off => ({ s with cvuStalled := s.cvuStalled ++ [⟨u, off, v⟩] } : State)
      exec (.cvuStart w u v) s = .next (stalled 0x04C) ∧ exec (.cvuData8 w u v) s = .next (stalled 0x050) ∧
      exec (.cvuData16 w u v) s = .next (stalled 0x054) ∧ exec (.cvuData32 w u v) s = .next (stalled 0x058) ∧
      exec (.cvuRunWrite w u hi v) s = .next (stalled (if hi = true then 0x060 else 0x05C))) ∧
    (s.cvuMay w u = true → s.cvuTest u = false →
      let x : State := { s with cvuLast := Tab.set none s.cvuLast u (some s.frc) }
      let cfg := x.reg (cvuCfg u)
      let sel := fld cfg 0 3
      let fed := fun k =>
        let y := x.setCvuRun u ((bytesLE k v.toNat).foldl (cvuByte (x.cvuSel u)) (x.cvuRun u))
        y.setReg (cvuBytesA u) (y.reg (cvuBytesA u) + w32 (bytesLE k v.toNat).length)
      (bit v 0 = false → exec (.cvuStart w u v) s = .next x) ∧
      (bit v 0 = true →
        let y := x.setRegF (cvuStatA u) 2 3 sel
        (bit cfg 8 = false → exec (.cvuStart w u v) s = .next ((y.setCvuRun u (cvuInit sel)).setReg (cvuBytesA u) 0)) ∧
        (bit cfg 8 = true → exec (.cvuStart w u v) s =
          let fold := bytesLE 4 (y.reg (cvuPage u + 0x044)).toNat ++ bytesLE 4 (y.reg (cvuPage u + 0x048)).toNat
          .next ((y.setCvuRun u (fold.foldl (cvuByte sel) (cvuInit sel))).setReg (cvuBytesA u) 0))) ∧
      exec (.cvuData8 w u v) s = .next (fed 1) ∧ exec (.cvuData16 w u v) s = .next (fed 2) ∧ exec (.cvuData32 w u v) s = .next (fed 4) ∧
      exec (.cvuRunWrite w u hi v) s =
        let y := x.setCvuRun u (if hi = true then nfld (x.cvuRun u) 0 32 + 2 ^ 32 * v.toNat else x.cvuRun u / 2 ^ 32 * 2 ^ 32 + v.toNat)
        .next { y with cvuOld := Tab.set none y.cvuOld u (some (x.cvuRun u, y.frc)) }) ∧
    (s.injTake (cvuPage u) 0 = (n, t) → exec (.cvuStatRead u) s =
      let e := if n ≠ 0 then s.cvuExpect u ^^^ (2 ^ cvuWidth (s.cvuSel u) - 1) else s.cvuExpect u
      let y := t.setRegF (cvuStatA u) 1 1 (b2n (decide (s.cvuResult u = e)))
      .next { y with cvuOld := Tab.set none y.cvuOld u none })

/-- R297, R301, R302, R355, R356: stream timeouts, the receivers' drop log and heartbeats, on every branch. -/
def Obligations.StreamsAndHeartbeats : Prop :=
  ∀ (s t : State) (w : Writer) (r n : Nat) (src : BitVec 16) (m : PMsg) (bs : List Byte) (v : W32) (lim : Tick), r < 5 → 1 ≤ n → n ≤ 7 →
    ((r = 3 → 0xFE01 ≤ src.toNat ∧ src.toNat ≤ 0xFE07) →
      (s.streamLimit r src = none → exec (.streamTimeout r src) s = .next s) ∧
      (s.streamLimit r src = some lim →
        let p := s.stream r src
        let due := p.seen = true ∧ p.timedOut = false ∧ p.last + lim ≤ s.frc
        let u := (s.count (pmPage r + 0x05C)).xferDrop r p
        let x := u.2.setStream r src { u.1 with timedOut := true, xfer := if p.xfer = 1 then 2 else u.1.xfer }
        (¬ due → exec (.streamTimeout r src) s = .next s) ∧
        (due → r ≠ 3 → exec (.streamTimeout r src) s = .next x) ∧
        (due → r = 3 → exec (.streamTimeout r src) s =
          let peer := src.toNat % 0x200
          .next ((x.setRegF (t1sPeer peer + 12) 2 1 1).setErrIf (bit (x.reg (t1sPeer peer + 8)) 1) t1sPage 0)))) ∧
    (s.pmMay w r = true → bit v 0 = true → exec (.pmLastClr w r v) s = .next (s.setReg (pmPage r + 0x064) 0)) ∧
    (s.pmMay w r = false ∨ bit v 0 = false → exec (.pmLastClr w r v) s = .next s) ∧
    (s.t1s.inbox.contains m = true → m.src = peerId n →
      let x := s.setT1s { s.t1s with inbox := s.t1s.inbox.erase m }
      (x.recv 3 true m = (some bs, t) → exec (.heartbeat m n) s =
        .next ((t.setRegF (t1sPeer n + 12) 0 2 (ofBytesLE (bs.take 4) % 4)).setRegF (t1sPeer n + 12) 2 1 0)) ∧
      (x.recv 3 true m = (none, t) → exec (.heartbeat m n) s = .next t)) ∧
    (s.t1s.inbox.contains m = false ∨ m.src ≠ peerId n → exec (.heartbeat m n) s = .next s)

/-- R351 to R355: the segment, on every branch. -/
def Obligations.SegmentBeaconsAndFrames : Prop :=
  ∀ (s : State) (n : Nat) (mac : BitVec 48) (ety : BitVec 16) (fcs : Bool) (m : PMsg) (d t0 v : Tick), 1 ≤ n → n ≤ 7 →
    (s.hbDue n = none ∨ s.cyc.recLoad = none → exec (.heartbeatDue n) s = .next s) ∧
    (s.hbDue n = some d → s.cyc.recLoad = some t0 →
      let sends := s.peerEn n = true ∧ d ≤ s.frc ∧ s.quiet = false ∧ s.t1s.busy ≤ s.frc
      (sends →
        let p := 500000 * s.regF (t1sPeer n + 8) 4 10
        let seq := if (s.stream 3 (peerId n)).seen = true then ((s.stream 3 (peerId n)).expect - 1).toNat else 0
        let t := s.t1sSend (peerId n) (s.peerMac n) 0x31
          (bytesLE 4 (s.hbState + 65536 * seq) ++ bytesLE 4 (s.frc / 500000) ++ bytesLE 8 0) s.frc
        exec (.heartbeatDue n) s =
          .next (t.setT1s { t.t1s with hbNext := Tab.set 0 t.t1s.hbNext n (t0 + ((s.frc - t0) / p + 1) * p) })) ∧
      (¬ sends → exec (.heartbeatDue n) s = .next s)) ∧
    (s.nextVerdict = none → exec .verdictBeacon s = .next s) ∧
    (s.nextVerdict = some v →
      let sends := v ≤ s.frc + 1000 ∧ s.frc < v ∧ s.coordinator = true ∧ s.t1s.beacon ≠ some v
      (sends → exec .verdictBeacon s = .next ((s.setT1s { s.t1s with beacon := some v }).emit .beacon)) ∧
      (¬ sends → exec .verdictBeacon s = .next s)) ∧
    exec .foreignBeacon s = .next ((s.setT1s { s.t1s with foreign := some s.frc }).setErr t1sPage 1) ∧
    (s.t1s.foreign = some t0 →
      (t0 + 50000000 ≤ s.frc → exec .coordinatorResume s = .next (s.setT1s { s.t1s with foreign := none })) ∧
      (s.frc < t0 + 50000000 → exec .coordinatorResume s = .next s)) ∧
    (s.t1s.foreign = none → exec .coordinatorResume s = .next s) ∧
    (fcs = false → exec (.t1sFrameReceive mac ety fcs m) s = .next s) ∧
    (fcs = true →
      let who := ([1, 2, 3, 4, 5, 6, 7] : List Nat).find? (fun n => s.peerEn n && decide (s.peerMac n = mac.toNat))
      (who = none → exec (.t1sFrameReceive mac ety fcs m) s = .next (s.count (t1sPage + 0x05C))) ∧
      (who = some n → ety.toNat ≠ s.regF (t1sPage + 0x054) 0 16 →
        exec (.t1sFrameReceive mac ety fcs m) s = .next (s.count (t1sPage + 0x060))) ∧
      (who = some n → ety.toNat = s.regF (t1sPage + 0x054) 0 16 →
        (m.type = 0x31 ∧ m.src = peerId n →
          exec (.t1sFrameReceive mac ety fcs m) s = .next (s.setT1s { s.t1s with inbox := s.t1s.inbox ++ [m] })) ∧
        (¬ (m.type = 0x31 ∧ m.src = peerId n) →
          exec (.t1sFrameReceive mac ety fcs m) s = .next (s.recv 3 (decide (m.src = peerId n)) m).2)))

/-- R346 to R348, R363: the MACs, on every branch. -/
def Obligations.EthernetFrames : Prop :=
  ∀ (s : State) (k q n : Nat) (bs : List Byte) (one fcs : Bool) (sp : BitVec 2), k < 4 → q < 8 →
    (s.ethUp k = true →
      (64 ≤ bs.length + 4 → bs.length + 4 ≤ (s.mac k).maxLen →
        (bit (s.reg (ethPage k + 0x04C)) q = false → (s.mac k).busy ≤ s.frc → s.gateAhead k = false →
          exec (.ethFrameTransmit k q bs one) s = .next (s.ethSend k bs one s.frc)) ∧
        (bit (s.reg (ethPage k + 0x04C)) q = false → s.frc < (s.mac k).busy ∨ s.gateAhead k = true →
          exec (.ethFrameTransmit k q bs one) s = .next s) ∧
        (bit (s.reg (ethPage k + 0x04C)) q = true → exec (.ethFrameTransmit k q bs one) s =
          .next (s.setRx { s.rx with gated := Tab.set [] s.rx.gated (gatedKey k q) (Tab.get [] s.rx.gated (gatedKey k q) ++ [(bs, one)]) })) ∧
        ((s.portSrcs true k).find? (fun n => (s.rxs n).matches bs) = some n →
          exec (.ethFrameReceive k ⟨bs, true⟩) s = .next (s.streamTake n bs)) ∧
        ((s.portSrcs true k).find? (fun n => (s.rxs n).matches bs) = none →
          exec (.ethFrameReceive k ⟨bs, true⟩) s = .next (s.emit (.gkFrame k bs (s.ingress k))))) ∧
      ((bs.length + 4 < 64 ∨ (s.mac k).maxLen < bs.length + 4) →
        exec (.ethFrameTransmit k q bs one) s = .next s ∧ exec (.ethFrameReceive k ⟨bs, true⟩) s = .next s) ∧
      exec (.ethFrameReceive k ⟨bs, false⟩) s = .next ((s.setErr (ethPage k) 0).count (ethPage k + 0x054)) ∧
      exec (.ethLinkUp k sp) s = .next s) ∧
    (s.ethUp k = false →
      exec (.ethFrameTransmit k q bs one) s = .next s ∧ exec (.ethFrameReceive k ⟨bs, fcs⟩) s = .next s ∧
      (let c := s.reg (ethPage k + 0x040)
       let rate := if fld c 0 2 = 1 then 0 else if bit c 2 then sp.toNat else fld c 4 2
       (fld c 0 2 ≠ 0 → exec (.ethLinkUp k sp) s =
         .next (((s.setMac k ⟨fld c 0 2, s.regF (ethPage k + 0x048) 0 14, s.frc⟩).setReg (ethPage k + 0x044) (w32 (1 + 2 * rate))).portStart true k)) ∧
       (fld c 0 2 = 0 → exec (.ethLinkUp k sp) s = .next s))) ∧
    exec (.ethLinkDown k) s = .next ((s.setErr (ethPage k) 1).setRegF (ethPage k + 0x044) 0 1 0)

/-- R203 to R207, R336, R343 to R345, R362: cameras and streams, on every branch. The operands of SYNTHETIC_LINE_COMPLETE are the model's form of
the command, and the order of the bits within an LFSR byte is open (Config.synOrder). -/
def Obligations.CameraFrames : Prop :=
  ∀ (s t : State) (w : Writer) (n m k vc ec st : Nat) (dt : BitVec 6) (bs : List Byte) (crc ok : Bool) (spoiled : List (Nat × Byte)) (v : W32),
    n < 16 → m < 32 → k < 8 → vc < 16 →
    (let x := s.rxs n
     let runs := x.en = true ∧ bit (Tab.get 0 s.rx.csi x.port) 0 = true
     (runs → exec (.csiFrameStart n) s = .next ((s.setRegF (csiPage x.port + 0x048) 0 2 3).frameStart n)) ∧
     (¬ runs → exec (.csiFrameStart n) s = .next s)) ∧
    (bit (Tab.get 0 s.rx.csi k) 0 = false → exec (.csiLongPacket k vc dt bs ec crc) s = .next s) ∧
    (bit (Tab.get 0 s.rx.csi k) 0 = true →
      let srcs := (s.portSrcs false k).filter (fun n => decide (fld ((s.rxs n).w 0) 4 4 = vc))
      let len := Tab.get 0 s.rx.lane k + bs.length + 6
      (s.synInPath false k = true → 16384 < len → exec (.csiLongPacket k vc dt bs ec crc) s =
        .next (srcs.foldl State.badLine ((s.setErr (csiPage k) 2).count (csiPage k + 0x058)))) ∧
      (s.synInPath false k = false ∨ len ≤ 16384 →
        let u := if s.synInPath false k = true then s.setRx { s.rx with lane := Tab.set 0 s.rx.lane k len } else s
        (2 ≤ ec → exec (.csiLongPacket k vc dt bs ec crc) s =
          .next (((u.portSrcs false k).filter (fun n => (u.rxs n).inFrame)).foldl State.badLine ((u.setErr (csiPage k) 0).count (csiPage k + 0x050)))) ∧
        (ec < 2 →
          let u := if ec = 1 then u.count (csiPage k + 0x04C) else u
          let u := if crc = true then u else (u.setErr (csiPage k) 1).count (csiPage k + 0x054)
          (srcs = [] → exec (.csiLongPacket k vc dt bs ec crc) s = .next (u.count (snsPage + 0x044))) ∧
          (∀ a r, srcs = a :: r → exec (.csiLongPacket k vc dt bs ec crc) s = .next (u.srcPacket a dt.toNat bs crc))))) ∧
    (s.writerDom w = domGk → bit v 0 = true → exec (.csiRestart w k v) s =
      .next (((s.setRx { s.rx with csi := Tab.set 0 s.rx.csi k (s.reg (csiPage k + 0x040)) }).setReg (csiPage k + 0x048) 0).portStart false k)) ∧
    (s.writerDom w ≠ domGk ∨ bit v 0 = false → exec (.csiRestart w k v) s = .next s) ∧
    exec (.dphySyncError k) s = .next (s.setErr (csiPage k) 3) ∧
    ((s.rxs n).en = true → (s.rxs n).inFrame = true →
      let x := s.rxs n
      let st := s.reg (rxStat n)
      let ca := csiPage x.port + 0x048
      (∀ c, x.patterns = 1 → x.patCrcBad = false → x.ctr = some c →
        let t := s.setReg (rxStat n) (setFld (setBit st 8 false) 16 16 (c + 1))
        let reason := if x.lineBad = true then 1 else if bit x.cfg 0 = false then 0 else if x.patBad = true then 4
          else if bit st 8 = false ∧ c ≠ fld st 16 16 then 5 else 0
        exec (.frameEnd n) s = .next ((t.setRegF ca 16 16 (t.regF ca 16 16 + 1)).frameOver n reason c)) ∧
      ((x.patterns ≠ 1 ∨ x.patCrcBad = true ∨ x.ctr = none) →
        let t := s.setReg (rxStat n) (setFld st 16 16 (fld st 16 16 + 1))
        let reason := if x.lineBad = true then 1 else if bit x.cfg 0 = false then 0 else if x.patterns ≠ 1 then 2
          else if x.patCrcBad = true then 3 else if x.patBad = true then 4 else 5
        exec (.frameEnd n) s = .next ((t.setRegF ca 16 16 (t.regF ca 16 16 + 1)).frameOver n reason (x.ctr.getD 0)))) ∧
    ((s.rxs n).en = false ∨ (s.rxs n).inFrame = false → exec (.frameEnd n) s = .next s) ∧
    ((s.rxs m).judged = [] → exec (.syntheticLineComplete m spoiled ok) s = .next s) ∧
    (∀ j r pay got, (s.rxs m).judged = j :: r → synLine m j.num (fld j.cfg 16 14) = pay →
      pay.zipIdx.map (fun e => spoiled.foldl (fun b x => if x.1 = e.2 then b ^^^ x.2 else b) e.1) = got →
      s.writeB rxSrc (synAddr s m) got = (st, t) →
      let wrote := ok && decide (st = 0)
      let u := t.setErrIf (!wrote) rxPage 0
      let u := (u.synUnit 4 (synCrc m j.num pay) pay.length).synUnit 5 (synCrc m j.num got) got.length
      let u := u.setRxs m { u.rxs m with judged := r }
      let u := if m < 16 ∧ u.synInPath false (s.rxs m).port = false then u.setRx { u.rx with lane := Tab.set 0 u.rx.lane (s.rxs m).port 0 } else u
      exec (.syntheticLineComplete m spoiled ok) s = .next (u.frameJudged m j (wrote && decide (synCrc m j.num pay = synCrc m j.num got)))) ∧
    ((s.rxs (16 + n)).done = true → exec (.streamFrameEnd (16 + n)) s = .next (s.frameOver (16 + n) (b2n (s.rxs (16 + n)).lineBad) 0)) ∧
    ((s.rxs (16 + n)).done = false → exec (.streamFrameEnd (16 + n)) s = .next s)

/-- R305, R307 to R316: presented time, its replicas, commits, steering and the domain records, on every branch. -/
def Obligations.SnapshotsAndCommits : Prop :=
  ∀ (s : State) (w : Writer) (r d : Nat) (v : W32) (echo : List (Option Int)) (m : Tick), r < 3 → d < 2 →
    exec .frcSnapshot s = .next ((s.setReg64 (bsPage + 0x040) (s.frc % 2 ^ 64)).setTimeAt (bsPage + 0x048) s.pt) ∧
    (∀ c t, s.repCount r = (c, t) → exec (.replicaSnapshot r) s =
      let u := (t.setReg64 (repPage r + 0x040) c).setTimeAt (repPage r + 0x048) (t.ptAt c)
      let k := s.regF (repPage r + 0x05C) 0 1
      .next (u.setTimeAt (repPage r + 0x060) (if t.domValid k = true then t.domAt k c else 0))) ∧
    (let done := fun k : Nat => { s.setRegF bsStatA 1 1 1 with bs := { s.bs with commit := some (k, s.frc) } }
     let may := w = .pair ∧ s.bs.commit = none
     (may → s.commitOk 1 = true → exec (.commitRate w) s = .next (done 1)) ∧
     (may → s.commitOk 2 = true → exec (.commitStepValue w) s = .next (done 2)) ∧
     (may → s.commitOk 3 = true → exec (.commitStepDomain w) s = .next (done 3)) ∧
     (¬ may ∨ s.commitOk 1 = false → exec (.commitRate w) s = .next s) ∧
     (¬ may ∨ s.commitOk 2 = false → exec (.commitStepValue w) s = .next s) ∧
     (¬ may ∨ s.commitOk 3 = false → exec (.commitStepDomain w) s = .next s)) ∧
    (s.frc % 1024 = 0 → s.bs.marker ≠ some s.frc →
      let c := ((s.commitDomain 0).commitDomain 1).commitTime
      let t := if c.bs.commit = s.bs.commit then c else (List.range 64).foldl State.trigPassed c
      let t := { t with bs := { t.bs with marker := some t.frc } }
      exec (.marker echo) s = .next ((List.range 3).foldl (fun t r => t.echo r ((echo[r]?).getD none)) t)) ∧
    ((s.frc % 1024 ≠ 0 ∨ s.bs.marker = some s.frc) → exec (.marker echo) s = .next s) ∧
    (s.bs.marker = none → exec (.syncWord r) s = .next s) ∧
    (s.bs.marker = some m →
      ((∃ x, (s.rep r).word = some x ∧ m ≤ x) → exec (.syncWord r) s = .next s) ∧
      ((∀ x, (s.rep r).word = some x → x < m) →
        ∀ k t, s.drawNat = (k, t) →
          let off : Int := (k % 5 : Nat) - 2
          let cor : Int := if t.repLocked r = true then (if 0 < (s.rep r).off then -1 else if (s.rep r).off < 0 then 1 else 0) else 0
          exec (.syncWord r) s = .next ((t.setRep r { s.rep r with off := off, word := some m }).setReg (repPage r + 0x058)
            (setFld (setFld (setFld (t.reg (repPage r + 0x058)) 0 2 1) 8 8 (ibits 8 cor)) 16 2 t.domForce)))) ∧
    ((s.rep r).word = some m →
      (m + 8192 ≤ s.frc → exec (.replicaSyncLoss r) s = .next (s.setRegF (repPage r + 0x058) 1 1 1)) ∧
      (s.frc < m + 8192 → exec (.replicaSyncLoss r) s = .next s)) ∧
    ((s.rep r).word = none → exec (.replicaSyncLoss r) s = .next s) ∧
    (s.frc % 1048576 ≠ 0 → exec .steeringTick s = .next s) ∧
    (s.frc % 1048576 = 0 →
      let c := s.commits
      let u := c.setRegF bsStatA 3 2 c.domSel
      let steers := u.domSel < 2 ∧ u.domValid u.domSel = true ∧ u.domIsStale u.domSel = false
      (steers → exec .steeringTick s = .next (u.showErr (u.showErr (u.steerTo u.domSel) 0) 1)) ∧
      (¬ steers → exec .steeringTick s = .next (u.showErr (u.showErr (u.setRegF bsStatA 5 1 0) 0) 1))) ∧
    (let ok := w = .pair ∧ fld v 0 2 ≠ 3 ∧ 1 ≤ fld v 16 8 ∧ fld v 16 8 ≤ 200
     (ok → exec (.domainSelectWrite w v) s = .next (s.setReg bsCtrlA (v &&& 0xFF0003#32))) ∧
     (¬ ok → exec (.domainSelectWrite w v) s = .next s)) ∧
    (s.bs.fetch = true → s.areasOk = true →
      ∀ st bs t, s.readB ghSrc s.trecBase 3072 = (st, bs, t) →
        exec .domainRecordFetch s = .next ((List.range 64).foldl (fun t i => t.takeRecord ((bs.drop (48 * i)).take 48))
          { t with bs := { t.bs with fetch := false } })) ∧
    (s.bs.fetch = false ∨ s.areasOk = false → exec .domainRecordFetch s = .next s) ∧
    (let stale := s.domValid d = true ∧ Tab.get 0 s.bs.domAt d + 500000 * s.regF (bsPage + 0x05C) 16 16 ≤ s.frc
     (stale → exec (.domainStale d) s = .next (s.setRegF (domPage d + 4) 1 1 1)) ∧
     (¬ stale → exec (.domainStale d) s = .next s))

/-- R308, R320 to R325, R329, R330, R488: triggers, captures and the PPS output, on every branch. Where KL-11 leaves open whether an old target
fires first, the model draws a free value. -/
def Obligations.TriggersCapturesAndPps : Prop :=
  ∀ (s : State) (w : Writer) (e c : Nat) (v : W32) (fall : Bool) (a t0 : Tick), e < 64 → c < 4 →
    (let ok := w = .pair ∧ trigCtrlOk e v = true
     let near := bit v 0 = true ∧ s.trigNear (s.trig e) = true
     (¬ ok → exec (.triggerCtrlWrite w e v) s = .next s) ∧
     (ok → ¬ near → exec (.triggerCtrlWrite w e v) s = .next ((s.setReg (trigAt e) (v &&& 0x3F#32)).trigLoad e)) ∧
     (ok → near → ∀ k t, s.drawNat = (k, t) →
       let u := t.setReg (trigAt e) (v &&& 0x3F#32)
       (k % 2 = 1 → exec (.triggerCtrlWrite w e v) s = .next (u.setTrig e { u.trig e with held := some (u.trigWords e) })) ∧
       (k % 2 ≠ 1 → exec (.triggerCtrlWrite w e v) s = .next (u.trigLoad e)))) ∧
    (let t := s.commits
     let x := t.trig e
     let go := fun late => (t.trigFire e late).trigNext e x
     (x.action = 0 → t.trigReached x = true → exec (.triggerIrq e) s = .next (go none)) ∧
     (x.action ≠ 0 ∨ t.trigReached x = false → exec (.triggerIrq e) s = .next t) ∧
     (x.action = 2 → t.trigReached x = true → exec (.triggerRun e) s = .next (go none)) ∧
     (x.action ≠ 2 ∨ t.trigReached x = false → exec (.triggerRun e) s = .next t) ∧
     (x.action = 4 → t.trigReached x = true → exec (.triggerAdc e) s = .next (go none)) ∧
     (x.action ≠ 4 ∨ t.trigReached x = false → exec (.triggerAdc e) s = .next t) ∧
     (x.action = 3 → t.trigReached x = true →
       (t.ethShort x = 0 → exec (.triggerEth e) s = .next (go none)) ∧
       (t.ethShort x ≠ 0 → x.armedAt + 1000 ≤ t.frc → exec (.triggerEth e) s = .next (go (some (t.ethShort x)))) ∧
       (t.ethShort x ≠ 0 → t.frc < x.armedAt + 1000 → exec (.triggerEth e) s = .next t)) ∧
     (x.action ≠ 3 ∨ t.trigReached x = false → exec (.triggerEth e) s = .next t)) ∧
    (let cfg := s.reg (bsPage + 0x0E0)
     let takes := bit cfg c = true ∧ nbit (fld cfg (8 + 2 * c) 2) (b2n fall) = true
     (takes →
       ((s.capList c).length < 4 → exec (.captureEdge c fall a) s = .next ((s.setCap c (s.capList c ++ [(a, fall)])).icuPulse 0 12)) ∧
       (4 ≤ (s.capList c).length → exec (.captureEdge c fall a) s = .next (s.setRegF (bsPage + 0x0E4) c 1 1))) ∧
     (¬ takes → exec (.captureEdge c fall a) s = .next s)) ∧
    (∀ r, s.capList c = (a, fall) :: r → exec (.captureRead c) s =
      .next (((s.setReg64 (bsPage + 0x180 + 8 * c) (a % 2 ^ 64)).setCap c r).setRegF (bsPage + 0x0E8) (16 + c) 1 (b2n fall))) ∧
    (s.capList c = [] → exec (.captureRead c) s = .next s) ∧
    (let sec := s.pt / secUnits
     let pulses := bit (s.reg (bsPage + 0x1A0)) 0 = true ∧ s.bs.ppsSec < sec
     let ends := match s.bs.ppsOn with | some t1 => t1 | none => s.frc + 500000 * s.regF (bsPage + 0x1A0) 16 10
     (pulses → exec .ppsPulse s = .next { s with bs := { s.bs with ppsSec := sec, ppsOn := some ends } }) ∧
     (¬ pulses → exec .ppsPulse s = .next s)) ∧
    (s.bs.ppsOn = some t0 →
      (t0 ≤ s.frc → exec .ppsPulseEnd s = .next { s with bs := { s.bs with ppsOn := none } }) ∧
      (s.frc < t0 → exec .ppsPulseEnd s = .next s)) ∧
    (s.bs.ppsOn = none → exec .ppsPulseEnd s = .next s)

/-- R337 to R341: the host port, on every branch. -/
def Obligations.HostPort : Prop :=
  ∀ (s : State) (w : Writer) (n : Nat) (t : Tick) (mg bme fm : Bool) (v : W32) (rate : BitVec 3) (width : BitVec 5), n < 2048 →
    (Tab.get none s.pcie.hold n = some (t, mg) →
      (t ≤ s.frc →
        let u := s.setHold n none
        (mg = false → exec (.msixHoldEnd n) s = .next u) ∧
        (mg = true → u.msixMasked n = true → exec (.msixHoldEnd n) s = .next (u.setPending n true)) ∧
        (mg = true → u.msixMasked n = false → exec (.msixHoldEnd n) s = .next (u.msixSend n))) ∧
      (s.frc < t → exec (.msixHoldEnd n) s = .next s)) ∧
    (Tab.get none s.pcie.hold n = none → exec (.msixHoldEnd n) s = .next s) ∧
    exec (.msixUnmask n none) s = .next ((s.setReg (msixA n + 12) (setBit (s.reg (msixA n + 12)) 0 false)).msixFlush n) ∧
    exec (.msixUnmask n (some (bme, fm))) s = .next ((List.range 2048).foldl State.msixFlush
      (s.setReg pcieStatA (setBit (setBit (s.reg pcieStatA) 10 bme) 11 fm))) ∧
    (let r := s.resetRegs (ioPage 0x041) (ioPage 0x04A) (fun _ => false)
     let r := (r.setReg pcieStatA (setBit (setBit (r.reg pcieStatA) 10 false) 11 false)).setReg (pciePage + 0x044) 0
     exec .functionLevelReset s = .next { r with pcie := { r.pcie with hold := [] } }) ∧
    (bit (s.reg pcieStatA) 9 = true → exec .pcieLinkDown s =
      .next (((s.setReg pcieStatA (s.reg pcieStatA &&& 0xC00#32)).count (pciePage + 0x05C)).setErr pciePage 0)) ∧
    (bit (s.reg pcieStatA) 9 = false → exec .pcieLinkDown s = .next s) ∧
    (bit v 0 = true → exec (.pcieRetrain (.dom 0x001#12) v) s =
      .next { s with pcie := { s.pcie with maxGen := s.reg (pciePage + 0x048), eq := s.reg (pciePage + 0x044) } }) ∧
    (w ≠ .dom 0x001#12 ∨ bit v 0 = false → exec (.pcieRetrain w v) s = .next s) ∧
    (1 ≤ rate.toNat → rate.toNat ≤ 5 → ([1, 2, 4, 8, 16] : List Nat).contains width.toNat = true →
      let cap := if bit (s.reg pcieStatA) 9 = true then s.pcie.maxGen else s.reg (pciePage + 0x048)
      (rate.toNat ≤ fld cap 0 3 → width.toNat ≤ fld cap 8 5 →
        let u := s.setReg pcieStatA ((s.reg pcieStatA &&& 0xC00#32) ||| w32 (rate.toNat + 16 * width.toNat + 512))
        exec (.pcieLinkUp rate width) s = .next ((List.range 2048).foldl State.msixFlush
          { u with pcie := { u.pcie with maxGen := cap, eq := s.reg (pciePage + 0x044) } })) ∧
      (fld cap 0 3 < rate.toNat ∨ fld cap 8 5 < width.toNat → exec (.pcieLinkUp rate width) s = .next s))

/-- R242, R257, R278, R303, R365, R366, R385, R389, R392, R393, R400, R411, R491: the Gatehouse, the I/O die, rails and clocks, on every branch.
Whether an image that the part was shipped with passes its checks is an operand (log entry 13). -/
def Obligations.GatehouseAndIoDie : Prop :=
  ∀ (s : State) (w : Writer) (ok : Bool) (c mv n : Nat) (k : BitVec 3) (rec : SafetyRecord) (t0 : Tick),
    (∃ t, exec (.gatehousePowerOn ok) s = .next t ∧ exec (.brownOutRecovery ok) s = .next t ∧ t.frc = 0 ∧ t.pending = s.pending ∧ t.mem = []) ∧
    ((1 ≤ k.toNat ∧ k.toNat ≤ 3) ∨ (k.toNat = 4 ∧ bit s.sec.scopes 3 = true) → exec (.gatehouseReset k ok) s =
      let t := ((s.kill 0).ioReset).ghClear (decide (k.toNat = 4))
      .next ((t.setReg (ghRstPage + 0x040) (setBit (t.reg (ghRstPage + 0x040)) k.toNat true)).ghRom ok)) ∧
    (k.toNat = 0 ∨ 4 < k.toNat ∨ (k.toNat = 4 ∧ bit s.sec.scopes 3 = false) → exec (.gatehouseReset k ok) s = .next s) ∧
    exec .brownOut s = .next ((s.kill 0).ioReset.ghClear false) ∧
    (let first := fun t : State =>
       let t := t.armResume
       let p := 500 * t.cyc.us
       { t with cyc := { t.cyc with recLoad := some t.frc, next := some ((t.frc + p - 1) / p * p), since := t.cyc.verdictCycles - 1 } }.drive
     (s.ghUp = true → s.cyc.recLoad = none →
       exec (.safetyRecordLoad none) s = .next (first s) ∧
       (∀ u, s.recCopy = (none, u) → exec (.safetyRecordLoad (some rec)) s = .next (first u)) ∧
       (∀ img u, s.recCopy = (some img, u) →
         (recordOk rec = true → exec (.safetyRecordLoad (some rec)) s = .next (first
           ((({ u with sec := { u.sec with recHdr := img.take 64 } }.mrExtend 1 2 (sha256 (img.take 64))).loadRecord rec).startPairs))) ∧
         (recordOk rec = false → exec (.safetyRecordLoad (some rec)) s = .next (first u))))) ∧
    (s.ghUp = false ∨ s.cyc.recLoad = some t0 →
      exec (.safetyRecordLoad none) s = .next s ∧ exec (.safetyRecordLoad (some rec)) s = .next s) ∧
    (ioCtrlMay w = true →
      (s.gk.released = none →
        let t := (s.setRegF ghIoCtrlA 0 1 1).setRegF (gkBootPage + 0x040) 0 4 3
        exec (.ioDieRelease w) s = .next ({ t with
          gk := { t.gk with released := some t.frc, romWait := true },
          sec := { t.sec with releases := t.sec.releases + 1, measRead := false } }.ioLost 1 false)) ∧
      (s.gk.released = some t0 → exec (.ioDieRelease w) s = .next s) ∧
      (bit (s.reg ghIoCtrlA) 0 = true → exec (.ioDieReset w) s = .next (((s.setRegF ghIoCtrlA 0 1 0).ioReset).ioLost 1 true)) ∧
      (bit (s.reg ghIoCtrlA) 0 = false → exec (.ioDieReset w) s = .next s)) ∧
    (ioCtrlMay w = false → exec (.ioDieRelease w) s = .next s ∧ exec (.ioDieReset w) s = .next s) ∧
    (s.gk.released = some t0 → exec .ioDieThermalReset s = .next (s.ioReset.ioLost 1 true)) ∧
    (s.gk.released = none → exec .ioDieThermalReset s = .next s) ∧
    (c < 13 →
      let v := mv * (s.calEff (121 + c)).1.toNat / 65536
      let inside := (railWindow c).1 ≤ v ∧ v ≤ (railWindow c).2
      let on := if c < 10 then s.armed c = true else bit (s.reg ghIoCtrlA) 0 = true
      let r := s.rail c
      (on → inside → exec (.railMonitorSample c mv) s = .next (s.setRail c { r with mv := satN 16 v, out := 0 })) ∧
      (on → ¬ inside → r.out = 2 →
        exec (.railMonitorSample c mv) s = .next ((s.setRail c { r with mv := satN 16 v, out := 3 }).railFault c)) ∧
      (on → ¬ inside → r.out ≠ 2 →
        exec (.railMonitorSample c mv) s = .next (s.setRail c { r with mv := satN 16 v, out := min 3 (r.out + 1) })) ∧
      (¬ on → 10 ≤ c ∨ s.killed = true ∨ s.dieOrdered (c / 5) = true →
        exec (.railMonitorSample c mv) s = .next (s.setRail c ⟨satN 16 v, 0, none⟩)) ∧
      (¬ on → c < 10 → s.killed = false → s.dieOrdered (c / 5) = false →
        (¬ inside → exec (.railMonitorSample c mv) s = .next (s.setRail c ⟨satN 16 v, 0, none⟩)) ∧
        (inside →
          let from_ := match r.inside with | some x => x | none => s.frc
          let t := s.setRail c ⟨satN 16 v, 0, some from_⟩
          (from_ + 500000 ≤ s.frc → exec (.railMonitorSample c mv) s = .next (t.setRegF (ghPwrPage + 0x044) (16 + c) 1 1)) ∧
          (s.frc < from_ + 500000 → exec (.railMonitorSample c mv) s = .next t)))) ∧
    (c < 10 →
      let late := ∃ x, Tab.get none s.pwr.armFrom (c / 5) = some x ∧ s.armed c = false ∧ s.killed = false ∧ x + 5000000 ≤ s.frc
      (late → exec (.railArmTimeout c) s = .next (s.railFault c)) ∧ (¬ late → exec (.railArmTimeout c) s = .next s)) ∧
    (c < 5 → Tab.get 0 s.clkBad c = n →
      let t := { s with clkBad := Tab.set 0 s.clkBad c (min 4 (n + 1)) }
      let g := { s with clkBad := Tab.set 0 s.clkBad c 0 }
      (n ≠ 3 → exec (.clockMonitorWindow c false ok) s = .next t) ∧
      (n = 3 → c < 2 → exec (.clockMonitorWindow c false ok) s =
        .next ((t.extHigh (16 * (30 + c)) true).fcEvent (30 + c) none false false none)) ∧
      (n = 3 → c = 2 → exec (.clockMonitorWindow c false ok) s = .next (t.ioLost 2 true)) ∧
      (n = 3 → 3 ≤ c → exec (.clockMonitorWindow c false ok) s = .next (t.ghReset 3 ok)) ∧
      (c < 2 → exec (.clockMonitorWindow c true ok) s = .next (s.withFalls (g.extHigh (16 * (30 + c)) false))) ∧
      (c = 2 → exec (.clockMonitorWindow c true ok) s = .next (g.ioLost 2 false)) ∧
      (3 ≤ c → exec (.clockMonitorWindow c true ok) s = .next g))

/-- R13, R14, R63, R79, R365, R368, R369, R371, R372, R374 to R377: commands to units, on every branch. -/
def Obligations.UnitCommands : Prop :=
  ∀ (s : State) (w : Writer) (u : UnitId) (ab ok : Bool) (dt : BitVec 16) (x : UCmd) (d : Nat), uValid u = true → d < 2 →
    (let enc := (enclosersOf u).any (fun v => (s.ucmd v).isSome)
     let page := uPage u 0
     let ctl := fun (k n : Nat) (a : Bool) => (s.setReg (page + 0x010) (w32 (k + 16 * b2n a + 65536 * n))).ctrlTouched page
     let rab := bit (s.reg (page + 0x010)) 4
     let rdt := s.regF (page + 0x010) 16 16
     (∀ (k : Nat) (i : Instr), ((k = cmdReset ∧ i = .reset w u ab dt) ∨ (k = cmdHold ∧ i = .hold w u ab dt) ∨ (k = cmdPower ∧ i = .powerDown w u ab dt)) →
       let c : UCmd := ⟨k, ab, s.frc, 500 * dt.toNat, 0, 0⟩
       let put := ctl k dt.toNat ab
       (s.unitMay w u = false ∨ s.isAbsent u = true → exec i s = .next s) ∧
       (s.unitMay w u = true → s.isAbsent u = false →
         (enc = true → exec i s = .next (s.setErr page 0)) ∧
         (enc = false → dt.toNat < 10 → exec i s = .next s) ∧
         (enc = false → 10 ≤ dt.toNat →
           (s.ucmd u = none → s.memberBusy u = true → exec i s = .next (put.setUcmd u (some c))) ∧
           (s.ucmd u = none → s.memberBusy u = false → exec i s = .next (put.cmdBegin u c)) ∧
           (s.ucmd u = some x →
             (x.phase = 1 → ab = true → exec i s = .next (put.cmdAbsorb u c)) ∧
             (x.phase = 1 → ab = false → exec i s = .next (put.setUcmd u (some { c with phase := 1, since := x.since }))) ∧
             (x.phase = 2 → x.cmd = k → exec i s = .next s) ∧
             (x.phase = 2 → x.cmd ≠ k → exec i s = .next (put.setUcmd u (some { x with cmd := k }))) ∧
             (x.phase = 0 → exec i s = .next (put.setUcmd u (some c))) ∧
             (3 ≤ x.phase → exec i s = .next (put.cmdBegin u c)))))) ∧
     (s.unitMay w u = false ∨ s.isAbsent u = true → exec (.release w u) s = .next s) ∧
     (s.unitMay w u = true → s.isAbsent u = false →
       (enc = true → exec (.release w u) s = .next (s.setErr page 0)) ∧
       (enc = false → rdt < 10 ∨ (s.ucmd u).isSome = true ∨ s.held u = false → exec (.release w u) s = .next s) ∧
       (enc = false → 10 ≤ rdt → s.ucmd u = none → s.held u = true →
         (s.memberBusy u = true → exec (.release w u) s =
           .next ((ctl cmdRelease rdt rab).setUcmd u (some ⟨cmdRelease, rab, s.frc, 500 * rdt, 0, 0⟩))) ∧
         (s.memberBusy u = false → exec (.release w u) s = .next ((ctl cmdRelease rdt rab).startRelease u))))) ∧
    (s.ucmd u = some x →
      (x.phase = 1 ∧ s.drained u = true → exec (.drainComplete u) s = .next (s.cmdProceed u x).cmdWake) ∧
      (x.phase ≠ 1 ∨ s.drained u = false → exec (.drainComplete u) s = .next s) ∧
      (x.phase = 1 ∧ x.since + x.drainTo ≤ s.frc → exec (.drainTimeout u) s = .next ((s.cmdAbsorb u x).setStats u 5 1 1)) ∧
      (x.phase ≠ 1 ∨ s.frc < x.since + x.drainTo → exec (.drainTimeout u) s = .next s) ∧
      (x.phase = 2 ∧ (s.outstanding u = 0 ∨ x.since + 4 * s.respTo (uDie u) ≤ s.frc) →
        exec (.absorbComplete u) s = .next (s.cmdProceed u x).cmdWake.gkAdvance) ∧
      (¬ (x.phase = 2 ∧ (s.outstanding u = 0 ∨ x.since + 4 * s.respTo (uDie u) ≤ s.frc)) →
        exec (.absorbComplete u) s = .next s.gkAdvance)) ∧
    (s.ucmd u = none → exec (.drainComplete u) s = .next s ∧ exec (.drainTimeout u) s = .next s ∧
      exec (.absorbComplete u) s = .next s.gkAdvance) ∧
    (let r := if ok = true ∧ s.gk.up = true ∧ s.ustate u = stResetting ∧ s.held u = false then s.retireMaps u else s
     let go := if ok = true then (r.reach u).foldl (fun t v => if t.held v = true then t else t.setUstate v stIdle) r else r.setUstate u stFaulted
     let waits := r.held u = true ∨ r.ustate u ≠ stResetting
     (waits → exec (.unitInitComplete u ok) s = .next (r.coreLost u).gkAdvance) ∧
     (¬ waits →
       (∀ c, r.ucmd u = some c → c.phase ≠ 3 → exec (.unitInitComplete u ok) s = .next (r.coreLost u).gkAdvance) ∧
       (∀ c, r.ucmd u = some c → c.phase = 3 → exec (.unitInitComplete u ok) s =
         .next (((((go.setStats u 8 8 (c.cmd + 16 * b2n c.absorb)).setUcmd u none).cmdWake).coreLost u).gkAdvance)) ∧
       (r.ucmd u = none → (enclosersOf u).any (fun v => (r.ucmd v).isSome || r.held v) = true →
         exec (.unitInitComplete u ok) s = .next (r.coreLost u).gkAdvance) ∧
       (r.ucmd u = none → (enclosersOf u).any (fun v => (r.ucmd v).isSome || r.held v) = false →
         exec (.unitInitComplete u ok) s = .next (go.coreLost u).gkAdvance))) ∧
    (uLevel u = 0 →
      let key := s.physKey u
      let cmd := fld (s.bootW key 0) 0 4
      (s.ustate u = stIdle ∧ cmd = 1 → exec (.manifest u) s = .next (s.bootManifest key (s.reg (uPage u 1 + 0x05C)).toNat)) ∧
      (s.ustate u = stIdle ∧ cmd = 2 → exec (.segment u) s = .next (s.bootSegment (some u) key)) ∧
      (s.ustate u = stIdle ∧ cmd = 3 → exec (.check u) s = .next (s.bootCheck (some u) key)) ∧
      (s.ustate u ≠ stIdle ∨ cmd ≠ 1 → exec (.manifest u) s = .next s) ∧
      (s.ustate u ≠ stIdle ∨ cmd ≠ 2 → exec (.segment u) s = .next s) ∧
      (s.ustate u ≠ stIdle ∨ cmd ≠ 3 → exec (.check u) s = .next s)) ∧
    (let raises := s.killed = false ∧ s.gk.up = true ∧ bit (s.reg (gkBootPage + 0x040)) (9 + d) = false
     (¬ raises → exec (.computeDiePowerUp d) s = .next s.gkAdvance) ∧
     (raises →
       let t := { s with cal := { s.cal with fuses := s.cal.fuses ||| BitVec.ofNat 2 (2 ^ d) }, taps := Tab.set TapSt.init s.taps (1 + d) TapSt.init }
       let t := ((clusOf (dieUid d)).foldl State.applyRec t).setRegF (gkBootPage + 0x040) (9 + d) 1 1
       let b := t.reg (gkBootPage + 0x040)
       exec (.computeDiePowerUp d) s =
         .next (if fld b 0 4 = 4 ∧ fld b 9 2 = 3 then t.setRegF (gkBootPage + 0x040) 0 4 5 else t).gkAdvance)) ∧
    (bit (s.reg (gkBootPage + 0x040)) (9 + d) = false → exec (.dramTrainingComplete d ok) s = .next s.gkAdvance) ∧
    (bit (s.reg (gkBootPage + 0x040)) (9 + d) = true →
      exec (.dramTrainingComplete d false) s = .next (s.setRegF (gkBootPage + 0x040) 12 4 5).gkAdvance ∧
      (let t := s.setRegF (mcPage d + 0x040) 0 1 1
       let all := ([0, 1] : List Nat).all (fun e => bit (t.reg (mcPage e + 0x040)) 0 && bit (t.reg (uPage (dieUid e) 1 + 0x040)) 0)
       exec (.dramTrainingComplete d true) s =
         .next (if all = true ∧ t.regF (gkBootPage + 0x040) 0 4 = 5 then t.setRegF (gkBootPage + 0x040) 0 4 6 else t).gkAdvance))

/-- R251, R384, R385, R412: firmware switches, on every branch. -/
def Obligations.FirmwareSwitches : Prop :=
  ∀ (s : State) (w : Writer) (t0 : Tick),
    (s.fwHold = none →
      (s.fwswDenied true ≠ 0 → exec (.firmwareSwitchRequest .pair) s = .next (s.setRegF fwswStatA 4 3 (s.fwswDenied true))) ∧
      (s.fwswDenied true = 0 → exec (.firmwareSwitchRequest .pair) s =
        let t := (s.setRegF fwswStatA 0 2 1).setRegF fwswStatA 4 3 0
        .next ((({ t with fwHold := some t.frc }.wdReset 0).ghRom true).drive)) ∧
      exec (.firmwareSwitchDone w) s = .next s ∧ exec .firmwareSwitchTimeout s = .next s) ∧
    (w ≠ .pair → exec (.firmwareSwitchRequest w) s = .next s ∧ exec (.firmwareSwitchDone w) s = .next s) ∧
    (s.fwHold = some t0 →
      let ended := fun (st : Nat) =>
        { (s.setRegF fwswStatA 0 2 st).setRegF fwswStatA 16 16 (satN 16 ((s.frc - t0) / 5000)) with fwHold := none }
      let failed :=
        let t := (ended 3).setErr ghRstPage 0
        (((t.setReg sioHsCmdA 0).setSio { t.sio with hsValid := none }).setLatches 15 lcProcessor).drive
      exec (.firmwareSwitchRequest w) s = .next s ∧
      (s.frc < t0 + 25000000 → exec (.firmwareSwitchDone .pair) s = .next (ended 2).drive) ∧
      (t0 + 25000000 ≤ s.frc → exec (.firmwareSwitchDone .pair) s = .next s) ∧
      (t0 + 25000000 ≤ s.frc ∨ s.fwswDenied false ≠ 0 → exec .firmwareSwitchTimeout s = .next failed) ∧
      (s.frc < t0 + 25000000 → s.fwswDenied false = 0 → exec .firmwareSwitchTimeout s = .next s))

/-- R388, R390, R391, R395 to R402: power and temperature. -/
def Obligations.PowerAndThermal : Prop :=
  ∀ (s : State) (w : Writer) (p d : Nat) (v : W32) (est : List Nat) (other i : Nat) (ts st : List Int) (rails : List RailReport), p < 8 → d < 2 →
    exec (.killSet .pair) s = .next (s.kill 2) ∧
    (w ≠ .pair → exec (.killSet w) s = .next s ∧ exec (.killRelease w) s = .next s) ∧
    (s.killed = true → s.fcLevel 12 = 7 → ∀ t,
      t = ((s.setRegF (ghPwrPage + 0x044) 0 1 0).setReg (ghPwrPage + 0x048) 0).setRegF (pwrPage + 0x044) 8 1 1 →
      exec (.killRelease .pair) s = .next (if t.gk.up then t.setReg (gkBootPage + 0x040) 4 else t)) ∧
    (s.killed = false ∨ s.fcLevel 12 ≠ 7 → exec (.killRelease .pair) s = .next s) ∧
    (s.frc % 50000 ≠ 0 → exec (.capTick est other) s = .next s ∧ exec (.thermalTick ts st) s = .next s) ∧
    (s.frc % 50000 = 0 → ∀ sum, s.capSum est other = sum →
      (s.cap < sum → exec (.capTick est other) s = .next (s.capPut sum (max 10 (min 40 (s.capClock * s.cap / sum / 25))))) ∧
      (sum ≤ s.cap → 19 * s.cap ≤ 20 * sum → exec (.capTick est other) s = .next (s.capPut sum s.ceilC)) ∧
      (20 * sum < 19 * s.cap → exec (.capTick est other) s = .next (s.capPut sum (min 40 (s.ceilC + 1))))) ∧
    (s.frc % 50000 = 0 →
      let temps := (List.range 96).foldl (fun t i => Tab.set 0 t i (ts.getD i 0 + (s.calEff (14 + i)).1)) s.pwr.temps
      let a : State := { s with pwr := { s.pwr with temps := temps, stks := [(0, st.getD 0 0), (1, st.getD 1 0)] } }
      let b := (a.dieHeat 0 (st.getD 0 0)).dieHeat 1 (st.getD 1 0)
      let b := if 760 ≤ b.dieTemp 2 then b.setErr pwrPage 1 else b
      exec (.thermalTick ts st) s =
        .next (if b.ceilT 0 < 40 ∨ b.ceilT 1 < 40 then b.count (pwrPage + 0x0CC) else b).clocks) ∧
    exec (.thermalTrip d) s = .next (s.clkSettle.setRegF (dieStatA d) 18 1 1) ∧
    (s.pwrMay w = true →
      (fld v 0 2 ≠ 3 → exec (.pwrPavCfgWrite w p v) s = .next (s.setReg (pavCfgA p) (v &&& 3#32)).clocks ∧
        exec (.pwrVreadyWrite w d v) s = .next ((List.range 4).foldl
          (fun t i => t.setRegF (pavStatA (4 * d + i)) 0 2 (min (t.profile (4 * d + i)) (fld v 0 2)))
          (s.setReg (pwrPage + 0x054 + 4 * d) (v &&& 3#32))).clocks) ∧
      (fld v 0 2 = 3 → exec (.pwrPavCfgWrite w p v) s = .next s ∧ exec (.pwrVreadyWrite w d v) s = .next s)) ∧
    (s.pwrMay w = false → exec (.pwrPavCfgWrite w p v) s = .next s ∧ exec (.pwrVreadyWrite w d v) s = .next s) ∧
    (s.pavBusy p = true → exec (.profileChange p) s = .next s) ∧
    (s.pavBusy p = false → exec (.profileChange p) s =
      .next (s.setRegF (pavStatA p) 0 2 (min (s.regF (pavCfgA p) 0 2) (s.vready (p / 4)))).clocks) ∧
    exec (.droopPause i) s = .next ((s.count (pwrPage + 0x0D0)).setErr pwrPage 3) ∧
    (s.gk.up = true → (∃ r ∈ rails, railWarns r = true) → exec (.railTelemetryRead rails) s = .next (s.setErr pwrPage 0)) ∧
    (s.gk.up = false ∨ (∀ r ∈ rails, railWarns r = false) → exec (.railTelemetryRead rails) s = .next s) ∧
    (∀ r : RailReport, railWarns r = true ↔
      r.overCurrent = true ∨ r.target < 25 * (r.volts - r.target) ∨ r.target < 25 * (r.target - r.volts)) ∧
    (∀ n, 2 ≤ n → exec (.thermalTrip n) s = .fault .noUnit ∧ exec (.pwrVreadyWrite w n v) s = .fault .noUnit) ∧
    (∀ n, 8 ≤ n → exec (.profileChange n) s = .fault .noUnit ∧ exec (.pwrPavCfgWrite w n v) s = .fault .noUnit)

/-- R405, R409, R413 to R418, R421, R423, R424, R460: the Grotto. The status of a token with a wrong serial or challenge, the order in
which a quote's refusals are tested, and the words of the TAP's mailbox are the model's (notes/assumptions/ under ## Assumptions). -/
def Obligations.GrottoRequests : Prop :=
  (∀ (role kind : Nat) (keyOk : Nat → List Byte → Bool) (arb : Nat) (img : List Byte),
    let len := imgW img 3
    let tr := 64 + (len + 63) / 64 * 64
    let key := (img.drop tr).take 60
    (imgCheck role kind keyOk arb img = 0 ↔
      (imgW img 0 = 0x474D4948 ∧ imgW img 1 = role + 256 * kind ∧ nfld (imgW img 6) 20 4 = 0 ∧ nfld (imgW img 6) 26 6 = 0 ∧
        len ≤ kindLimit kind ∧ tr + 64 + imgW img 7 ≤ img.length) ∧
      keyOk (hdrSlot img) key = true ∧ hssVerify key (img.take 64) ((img.drop (tr + 64)).take (imgW img 7)) = true ∧
      arb ≤ hdrEpoch img ∧ sha256 ((img.drop 64).take len) = (img.drop 32).take 32)) ∧
  (∀ (s : State) (tok : List Byte) (n : Nat),
    let w := imgW tok 1
    (s.tokenCheck tok n = 0 ↔
      (imgW tok 0 = 0x4B544244 ∧ nfld w 4 4 = 0 ∧ nfld w 18 14 = 0 ∧ (tok.drop 48).take 16 = List.replicate 16 0) ∧
      s.otpKey 4 (nfld w 16 2) ((tok.drop 64).take 60) = true ∧
      hssVerify ((tok.drop 64).take 60) (tok.take 64) (tok.drop 128) = true ∧ s.arbOf 4 ≤ nfld w 8 8 ∧
      ofBytesLE ((tok.drop 8).take 8) = s.sec.serial.toNat ∧ (∃ t0, s.sec.challenge = some (t0, (tok.drop 16).take 32)) ∧
      (nfld w 0 4 < 2 ∨ (s.permit 0 = false ∧ s.permit 1 = false ∧ s.permit 2 = false ∧ s.permit 3 = false)))) ∧
  ∀ (s : State) (q : SecReq) (word : W32) (t0 : Tick) (bs : List Byte) (rec : Option SafetyRecord),
    ((∀ p, s.sec.req = some p → p.tap = false ∧ s.pathStatus 3 2 ≠ 0) →
      exec .quote s = .next s ∧ exec .challenge s = .next s ∧ exec .unlock s = .next s ∧
      exec .extend s = .next (s.gkOnResp s) ∧ exec (.sprInstall rec) s = .next (s.gkOnResp s) ∧
      exec .ghInstall s = .next (s.gkOnResp s) ∧ exec .grottoCommit s = .next (s.gkOnResp s)) ∧
    (s.sec.req = some q → (q.kind ≠ 1 → exec .quote s = .next s) ∧ (q.kind ≠ 2 → exec .challenge s = .next s) ∧
      (q.kind ≠ 3 → exec .unlock s = .next s) ∧ (q.kind ≠ 4 → exec .extend s = .next (s.gkOnResp s)) ∧
      (q.kind ≠ 5 → exec (.sprInstall rec) s = .next (s.gkOnResp s)) ∧
      (q.kind ≠ 6 → exec .ghInstall s = .next (s.gkOnResp s)) ∧ (q.kind ≠ 7 → exec .grottoCommit s = .next (s.gkOnResp s))) ∧
    (s.sec.req = some q → (q.tap = true ∨ s.pathStatus 3 2 = 0) →
      (q.kind = 1 →
        let rate := ∃ t, s.sec.quoteAt = some t ∧ s.frc < t + 500000000
        (q.addr % 64 ≠ 0 → exec .quote s = .next (s.respond q rqArg 0 [])) ∧
        (q.addr % 64 = 0 → s.idSpent = true → exec .quote s = .next (s.respond q rqSpent 0 [])) ∧
        (q.addr % 64 = 0 → s.idSpent = false → s.idReady = false → exec .quote s = .next (s.respond q rqBusy 0 [])) ∧
        (q.addr % 64 = 0 → s.idSpent = false → s.idReady = true → rate → exec .quote s = .next (s.respond q rqRate 0 [])) ∧
        (q.addr % 64 = 0 → s.idSpent = false → s.idReady = true → ¬ rate →
          let ix := s.takeIndex.1
          let t := s.takeIndex.2
          let body := t.quoteBytes (q.bytes 0x320 32) ix
          let u := { t with sec := { t.sec with quoteAt := some s.frc } }.count (grtPage + 0x084)
          let wr := u.writeB ghSrc q.addr (body ++ quoteSig ix body)
          exec .quote s = .next (if wr.1 = 0 then wr.2.respond q 0 6036 [] else wr.2.respond q rqFetch 0 []))) ∧
      (q.kind = 2 →
        let v := (Config.randomDraw s.sec.draws).toNat
        let t := { s with sec := { s.sec with challenge := some (s.frc, bytesLE 32 v), draws := s.sec.draws + 1 } }
        exec .challenge s = .next (t.respond q 0 0 ((List.range 8).map (fun i => w32 (v / 2 ^ (32 * i)))))) ∧
      (q.kind = 3 →
        (8192 < (q.arg 0x310).toNat → exec .unlock s =
          .next ({ s with sec := { s.sec with challenge := none } }.respond q rqArg 0 [])) ∧
        ((q.arg 0x310).toNat ≤ 8192 → ∀ tok t,
          (if q.tap then (some ((q.token.flatMap (fun w => bytesLE 4 w.toNat)).take (q.arg 0x310).toNat), s) else s.fetchImg q) = (tok, t) →
          (tok = none → exec .unlock s = .next ({ t with sec := { t.sec with challenge := none } }.respond q rqFetch 0 [])) ∧
          (∀ b n u, tok = some b → t.drawNat = (n, u) →
            let sp : State := { u with sec := { u.sec with challenge := none } }
            let m := sp.mrExtend 3 3 (sha256 (b.take 64))
            let sc := BitVec.ofNat 4 (nfld (imgW b 1) 0 4)
            (u.tokenCheck b n ≠ 0 → exec .unlock s = .next (sp.respond q (u.tokenCheck b n) 0 [])) ∧
            (u.tokenCheck b n = 0 → bit sc 2 = false → exec .unlock s = .next ((m.setScopes (m.sec.scopes ||| sc)).respond q 0 0 [])) ∧
            (u.tokenCheck b n = 0 → bit sc 2 = true → exec .unlock s =
              .next (({ m with sec := { m.sec with diesLeft := 3 } }.setScopes (m.sec.scopes ||| sc)).respond q 0 0 []))))) ∧
      (q.kind = 4 →
        let i := fld (q.arg 0x314) 0 3
        (i < 4 → exec .extend s = .next (s.gkOnResp (s.respond q rqArg 0 []))) ∧
        (4 ≤ i → exec .extend s = .next (s.gkOnResp ((s.mrExtend i 4 (q.bytes 0x320 32)).respond q 0 0 [])))) ∧
      (∀ img t, s.fetchImg q = (img, t) →
        (q.kind = 5 →
          let put := fun (u : State) => match rec with
            | some r => if u.sec.recNew = s.sec.recNew then u else (recordRw r).foldl (fun t e => t.writeReg .pair e.1 e.2) u
            | none => u
          (img = none → exec (.sprInstall rec) s = .next (s.gkOnResp (put (t.respond q rqFetch 0 [])))) ∧
          (∀ x e, img = some x → imgCheck 1 2 (t.otpKey 1) (t.arbOf 1) x = e →
            (e ≠ 0 → exec (.sprInstall rec) s = .next (s.gkOnResp (put (t.respond q e 0 [])))) ∧
            (e = 0 →
              let k := if t.sec.recNew = 2 then 3 else 2
              let u := t.flashPut k x
              exec (.sprInstall rec) s = .next (s.gkOnResp (put
                (({ u with sec := { u.sec with recNew := k } }.mrExtend 1 2 (sha256 (x.take 64))).respond q 0 0 [])))))) ∧
        (q.kind = 6 →
          (img = none → exec .ghInstall s = .next (s.gkOnResp (t.respond q rqFetch 0 []))) ∧
          (∀ x e, img = some x → imgCheck 0 1 (t.otpKey 0) (t.arbOf 0) x = e →
            (e ≠ 0 → exec .ghInstall s = .next (s.gkOnResp (t.respond q e 0 []))) ∧
            (e = 0 →
              let u := t.flashPut (1 - t.sec.active) x
              exec .ghInstall s = .next (s.gkOnResp
                (({ u with sec := { u.sec with try_ := true } }.mrExtend 0 1 (sha256 (x.take 64))).respond q 0 0 [])))))) ∧
      (q.kind = 7 →
        let role := fld (q.arg 0x314) 0 3
        let e := fld (q.arg 0x314) 8 8
        let fw := (Tab.get [] s.sec.flash s.sec.running).take 64
        let limit := if role = 0 then hdrEpoch fw else if role = 1 then hdrEpoch s.sec.recHdr
          else if role = 2 then s.regF (secPage + 0x220) 16 16 else 255
        let t : State := { s with sec := { s.sec with arb := Tab.set 0 s.sec.arb role e } }
        let revoke := fun (hdr : List Byte) (r mask : Nat) (x : State) => { x with sec := { x.sec with
          revoked := x.sec.revoked ||| BitVec.ofNat 20 ((hdrRevoke hdr &&& mask) &&& (2 ^ 20 - 1 - 2 ^ (4 * r + hdrSlot hdr))) } }
        (4 < role → exec .grottoCommit s = .next (s.gkOnResp (s.respond q rqArg 0 []))) ∧
        (role ≤ 4 → e < s.arbOf role → exec .grottoCommit s = .next (s.gkOnResp (s.respond q rqRollback 0 []))) ∧
        (role ≤ 4 → s.arbOf role ≤ e → limit < e → exec .grottoCommit s = .next (s.gkOnResp (s.respond q rqState 0 []))) ∧
        (s.arbOf role ≤ e → e ≤ limit →
          (role = 0 → exec .grottoCommit s = .next (s.gkOnResp
            ({ revoke fw 0 0xF00FF t with sec := { (revoke fw 0 0xF00FF t).sec with active := s.sec.running } }.respond q 0 0 []))) ∧
          (role = 2 → exec .grottoCommit s = .next (s.gkOnResp ((revoke s.gk.hdr 2 0x0FF00 t).respond q 0 0 []))) ∧
          (role = 1 ∨ role = 3 ∨ role = 4 → exec .grottoCommit s = .next (s.gkOnResp (t.respond q 0 0 [])))))) ∧
    (s.sec.challenge = none → exec .challengeLapse s = .next s) ∧
    (s.sec.challenge = some (t0, bs) →
      (t0 + 30000000000 ≤ s.frc → exec .challengeLapse s = .next { s with sec := { s.sec with challenge := none } }) ∧
      (s.frc < t0 + 30000000000 → exec .challengeLapse s = .next s)) ∧
    (s.treeBuild = true → exec .idTreeBuildComplete s = .next { s with sec := { s.sec with trees := s.sec.trees + 1 } }) ∧
    (s.treeBuild = false → exec .idTreeBuildComplete s = .next s) ∧
    (let tap := Tab.get TapSt.init s.taps 3
     let at_ := if s.scanOn then s.frc else s.scanEnd
     ∀ dr out, (match s.sec.tapOut with | [] => (0, []) | x :: r => (x.toNat + 2 ^ 32, r)) = (dr, out) →
     let t : State := { s with taps := Tab.set TapSt.init s.taps 3 { tap with instr := 0x20, dr := dr }, sec := { s.sec with tapOut := out },
                               scanEnd := at_ }
     let ws := s.sec.tapIn ++ [word]
     let need := if fld (ws.headD 0) 0 4 = 3 ∧ 17 ≤ ws.length then 17 + (min (ws.getD 4 0).toNat 8192 + 3) / 4 else 17
     let u : State := { t with sec := { t.sec with tapIn := [] } }
     exec (.ghMbox word false) s = .next t ∧
     (ws.length < need ∨ s.sec.req.isSome = true → exec (.ghMbox word true) s = .next { t with sec := { t.sec with tapIn := ws } }) ∧
     (need ≤ ws.length → s.sec.req = none →
       let bk := (ws.take 17)
       (blockOk bk = false → exec (.ghMbox word true) s = .next u) ∧
       (blockOk bk = true →
         let p : SecReq := ⟨bk, true, ws.drop 17⟩
         (p.kind ≠ 2 ∧ p.kind ≠ 3 → exec (.ghMbox word true) s = .next (u.respond p rqArg 0 [])) ∧
         (p.kind = 2 ∨ p.kind = 3 → exec (.ghMbox word true) s = .next { u with sec := { u.sec with req := some p } }))))

/-- R411, R415, R417, R429, R432, R436 to R438, R440, R441, R443, R447, R449, R450: the Groundskeeper. The layout of a set's directory
(R435), the type of a NOTE's record and what the firmware reads from outside the part are the model's free values or choices
(NOTES.md, ## Assumptions); `flashOk` is what the boot flash answers. -/
def Obligations.HostRequests : Prop :=
  ∀ (s : State) (w : Writer) (v : W32) (c : BitVec 2) (t0 : Tick) (n : Nat) (ok : Bool),
    ((∀ k, 1 ≤ k → k ≤ 8 → s.hostAsks k = false) →
      exec (.stageSet ok) s = .next s ∧ exec (.stageGh ok) s = .next s ∧ exec (.activate ok) s = .next s ∧ exec (.confirm ok) s = .next s ∧
      exec .hostCommit s = .next s ∧ exec .hostFaultAck s = .next s ∧ exec (.cal ok) s = .next s ∧ exec .note s = .next s) ∧
    (s.hostAsks 1 = false → exec (.stageSet ok) s = .next s) ∧ (s.hostAsks 2 = false → exec (.stageGh ok) s = .next s) ∧
    (s.hostAsks 3 = false → exec (.activate ok) s = .next s) ∧ (s.hostAsks 4 = false → exec (.confirm ok) s = .next s) ∧
    (s.hostAsks 5 = false → exec .hostCommit s = .next s) ∧ (s.hostAsks 6 = false → exec .hostFaultAck s = .next s) ∧
    (s.hostAsks 7 = false → exec (.cal ok) s = .next s) ∧ (s.hostAsks 8 = false → exec .note s = .next s) ∧
    (s.gkMboxFree = false → exec (.stageGh ok) s = .next s ∧ exec .hostCommit s = .next s) ∧
    (∀ m, s.mirrorConfig = m →
      (s.hostAsks 1 = true → ∀ st all t, m.readB gkSrc m.hostAddr (m.hostArg 2).toNat = (st, all, t) →
        let es := dirEntries all
        let imgs := es.map (fun e => (e.1, (all.drop e.2.1).take e.2.2))
        let why := fun (e : Nat × List Byte) => imgCheck 2 e.1 (t.credKey 0x100 4) (t.credArb 16) e.2
        (st ≠ 0 ∨ imgW all 0 ≠ 0x52494453 ∨ dirOk es = false → exec (.stageSet ok) s = .next (t.hostRespond 1 hrArg 0)) ∧
        (st = 0 → imgW all 0 = 0x52494453 → dirOk es = true →
          (∀ p e r, imgs = p ++ e :: r → (∀ x ∈ p, why x = 0) → why e ≠ 0 →
            exec (.stageSet ok) s = .next (t.hostRespond 1 hrRefused (w32 (why e)))) ∧
          ((∀ e ∈ imgs, why e = 0) →
            (ok = false → exec (.stageSet ok) s =
              .next ((t.setGk { t.gk with slots := Tab.set none t.gk.slots (1 - t.gk.running) none }).hostRespond 1 hrFlash 0)) ∧
            (ok = true → exec (.stageSet ok) s =
              .next ((imgs.foldl (fun t e => t.logImage 1 e.2 0)
                (t.setGk { t.gk with slots := Tab.set none t.gk.slots (1 - t.gk.running) (some imgs) })).hostRespond 1 0 0))))) ∧
      (s.hostAsks 2 = true → s.gkMboxFree = true → ∀ st img t, m.readB gkSrc m.hostAddr (m.hostArg 2).toNat = (st, img, t) →
        (∀ k, nfld (imgW img 1) 8 8 = k →
          (st ≠ 0 ∨ (k ≠ 1 ∧ k ≠ 2) → exec (.stageGh ok) s = .next (t.hostRespond 2 hrArg 0)) ∧
          (st = 0 → k = 1 ∨ k = 2 →
            (ok = false → exec (.stageGh ok) s = .next (t.hostRespond 2 hrFlash 0)) ∧
            (ok = true → exec (.stageGh ok) s = .next ((t.setGk { t.gk with staging := img, hostWait := some 2 }).gkRequest
              (if k = 1 then 6 else 5) [(0x308, m.hostArg 0), (0x30C, m.hostArg 1), (0x310, m.hostArg 2)]))))) ∧
      (s.hostAsks 3 = true →
        let refused := m.bel.gkOrders ≠ [] ∨ m.bcastBusy = true ∨ Tab.get none m.gk.slots (1 - m.gk.running) = none
        (refused → exec (.activate ok) s = .next (m.hostRespond 3 hrState 0)) ∧
        (¬ refused → ok = false → exec (.activate ok) s = .next (m.hostRespond 3 hrFlash 0)) ∧
        (¬ refused → ok = true → exec (.activate ok) s =
          .next (((m.setGk { m.gk with selOk := true, active := m.gk.running, try_ := true }).hostRespond 3 0 0).gkRestart 1))) ∧
      (s.hostAsks 4 = true →
        (m.gk.trial = false → exec (.confirm ok) s = .next (m.hostRespond 4 hrState 0)) ∧
        (m.gk.trial = true → ok = false → exec (.confirm ok) s = .next (m.hostRespond 4 hrFlash 0)) ∧
        (m.gk.trial = true → ok = true →
          let t := m.setGk { m.gk with selOk := true, active := m.gk.running, trial := false, try_ := false }
          exec (.confirm ok) s = .next ((t.setReg (gkIdPage + 0x048) (w32 (t.gk.running + 4 * t.gk.active))).hostRespond 4 0 0))) ∧
      (s.hostAsks 5 = true → s.gkMboxFree = true → exec .hostCommit s =
        .next ((m.setGk { m.gk with hostWait := some 5 }).gkRequest 7 [(0x314, m.hostArg 3 &&& 0xFF07#32)])) ∧
      (s.hostAsks 6 = true → exec .hostFaultAck s =
        .next ((m.sendMsg idGk idGatehouse 0x24 (bytesLE 4 (fld (m.hostArg 2) 0 16))).hostRespond 6 0 0)) ∧
      (s.hostAsks 7 = true →
        let i := (m.hostArg 2).toNat
        let x := (m.hostArg 3).toInt
        let t := m.calWrite i x
        let e := t.calEff i
        let u := t.logAdd 0x0009 (bytesLE 4 i ++ bytesLE 4 (ibits 32 (m.calUser i)) ++ bytesLE 4 (ibits 32 x) ++ bytesLE 4 (ibits 32 e.1)
          ++ bytesLE 4 (b2n e.2.1 + 2 * b2n e.2.2)) true 2
        (117 < i → exec (.cal ok) s = .next (m.hostRespond 7 hrArg 0)) ∧
        (i ≤ 117 → ok = false → exec (.cal ok) s = .next (t.hostRespond 7 hrFlash 0)) ∧
        (i ≤ 117 → ok = true → exec (.cal ok) s =
          .next ((u.setGk { u.gk with userCal := Tab.set (calUserNeutral i) u.gk.userCal i x }).hostRespond 7 0 0))) ∧
      (s.hostAsks 8 = true → ∀ t, m.drawNat = (n, t) → exec .note s =
        .next ((t.logAdd (0x8000 + n % 0x7FFF) ((List.range 6).flatMap (fun i => bytesLE 4 (t.hostArg (2 + i)).toNat)) false 2).hostRespond 8 0 0))) ∧
    (s.writerDom w = domGk → 1 ≤ c.toNat → exec (.gkRestart w c) s = .next (s.gkRestart c.toNat)) ∧
    (s.writerDom w ≠ domGk ∨ c = 0 → exec (.gkRestart w c) s = .next s) ∧
    (s.gk.waitExt = true ∨ s.gk.halted = true ∨ s.gk.romWait = true ∨ s.gk.released = none → s.gkRestart n = s) ∧
    (s.gk.waitExt = false → s.gk.halted = false → s.gk.romWait = false → s.gk.released ≠ none →
      let t := s.setGk { s.gk with up := false, restartAt := s.frc, hostWait := none,
                                   restarts := s.gk.restarts.filter (fun x => decide (s.frc < x + 300000000000)) ++ [s.frc] }
      let t := t.setReg (gkIdPage + 0x054) (w32 (n + 16 * min t.restartsNow 3))
      let t := ([2, 3, 4, 5] : List Nat).foldl (fun t w => (t.wdReset w).icuTargetReset 1 (w - 2)) t
      (3 ≤ t.restartsNow → s.gkRestart n = t.romStop) ∧
      (t.restartsNow < 3 → ∀ u,
        (t.romChoose = (none, u) → s.gkRestart n = u.romStop) ∧
        (∀ slot trial img, t.romChoose = (some (slot, trial, img), u) →
          let x := u.setGk { u.gk with running := slot, trial := trial, hdr := img.take 64, waitExt := true }
          let ask := fun (y : State) => y.gkRequest 4 ((0x314, 4#32) :: digestArgs 0x320 (sha256 (img.take 64)))
          (bit (x.reg (gkBootPage + 0x040)) 8 = true → s.gkRestart n = ask x) ∧
          (bit (x.reg (gkBootPage + 0x040)) 8 = false → s.gkRestart n = ask ((x.diePowerOff 0 false).diePowerOff 1 false))))) ∧
    (s.gk.up = false ∨ s.gk.buf = [] → exec .logPageProgram s = .next s) ∧
    (s.gk.up = true → s.gk.buf ≠ [] →
      (s.gk.bufAt + 50000000 ≤ s.frc → exec .logPageProgram s = .next s.logFlush.logLost) ∧
      (s.frc < s.gk.bufAt + 50000000 →
        let total := s.gk.buf.foldl (fun a x => a + x.size) 0
        ∀ now later, fullPages ((s.gk.used % 256 + total) / 256 * 256 - s.gk.used % 256) s.gk.buf = (now, later) →
          exec .logPageProgram s = .next (now.foldl State.logProgram (s.setGk { s.gk with buf := later, bufAt := s.frc })).logLost)) ∧
    (let p := s.regF (gkIdPage + 0x058) 0 12
     (s.gk.up = false ∨ p = 0 ∨ 3600 < p ∨ s.frc < s.gk.telAt + 500000000 * p → exec .telemetryPeriod s = .next s) ∧
     (s.gk.up = true → 1 ≤ p → p ≤ 3600 → s.gk.telAt + 500000000 * p ≤ s.frc → ∀ rails u mons t,
       s.freeBytes 26 = (rails, u) → u.freeBytes 138 = (mons, t) →
       let io := (List.range 12).foldl (fun m i => max m (Tab.get 0 t.pwr.temps (84 + i))) (Tab.get 0 t.pwr.temps 84)
       let body := bytesLE 4 (t.reg (pwrPage + 0x05C)).toNat ++ bytesLE 4 (t.reg (pwrPage + 0x060)).toNat
         ++ bytesLE 4 (t.reg (mcPage 0 + 0x040)).toNat ++ bytesLE 4 (t.reg (mcPage 1 + 0x040)).toNat
         ++ bytesLE 4 (ibits 32 (io / 8)) ++ bytesLE 4 (t.reg (pwrPage + 0x048)).toNat ++ rails ++ mons
         ++ bytesLE 4 (t.reg (pwrPage + 0x0D0)).toNat
       exec .telemetryPeriod s = .next ((t.setGk { t.gk with telAt := s.frc }).logAdd 0x000A body false 0))) ∧
    (let i := s.regF (calPage 0 + 0x040) 0 8
     (s.writerDom w = domGk → calServed 0 i = true → exec (.calUserWrite w 0 v) s = .next (s.calWrite i v.toInt)) ∧
     (s.writerDom w ≠ domGk ∨ calServed 0 i = false → exec (.calUserWrite w 0 v) s = .next s)) ∧
    exec (.calUserWrite w 1 v) s = .next s ∧
    (2 ≤ n → exec (.calUserWrite w n v) s = .fault .noUnit) ∧
    (s.gk.released = none ∨ s.gk.romWait = false ∨ bit (s.reg (secPage + 0x040)) 0 = true → exec .credentialValidTimeout s = .next s) ∧
    (s.gk.released = some t0 → s.gk.romWait = true → bit (s.reg (secPage + 0x040)) 0 = false →
      (t0 + 50000000 ≤ s.frc → exec .credentialValidTimeout s = .next s.romStop) ∧
      (s.frc < t0 + 50000000 → exec .credentialValidTimeout s = .next s))

/-- R422, R458 to R463: service access and the test access ports. The data captured from pins is a free value. -/
def Obligations.ScanAndService : Prop :=
  ∀ (s u : State) (t cells n : Nat) (op : BitVec 2), t < 4 →
    (s.svcReady = true ↔
      (∀ o < 4, s.permit o = false ∧ s.latched o = true ∧ Tab.get 0 s.safeSince o + 500000000 ≤ s.frc) ∧
      s.sec.scopes.toNat < 2 ∧ s.scopesAt + 500000000 ≤ s.frc) ∧
    (s.svcReady = true → s.svcAccess = false →
      exec .serviceAccessGrant s = .next { s with svcAccess := true, svcFrom := some s.frc }) ∧
    ((s.svcReady = false ∨ s.svcAccess = true) → exec .serviceAccessGrant s = .next s) ∧
    (s.svcAccess = true → exec .serviceAccessEnd s = .next { s with svcAccess := false, svcFrom := none, svcEnd := s.frc }) ∧
    (s.svcAccess = false → exec .serviceAccessEnd s = .next s) ∧
    (s.tapIn t = false ↔ (t = 1 ∨ t = 2) ∧ (s.killed = true ∨ bit (s.reg (gkBootPage + 0x040)) (8 + t) = false)) ∧
    (s.drawNat = (n, u) →
      let load := fun (x : State) (ir dr : Nat) =>
        let y : State := { x with taps := Tab.set TapSt.init x.taps t { x.tap t with instr := ir, dr := dr } }
        if t = 3 ∧ 3 ≤ (x.tap 3).instr ∧ (x.tap 3).instr ≤ 7 ∧ ¬ (3 ≤ ir ∧ ir ≤ 7) then { y with scanEnd := x.frc } else y
      (s.tapIn t = true →
        exec (.tapReset t) s = .next (load s 0x01 (tapId t)) ∧
        exec (.idcode t) s = .next (load s 0x01 (tapId t)) ∧
        (let x := load u 0x02 n
         exec (.samplePreload t cells) s = .next { x with taps := Tab.set TapSt.init x.taps t { x.tap t with cells := cells } }) ∧
        exec (.extest t) s = .next (load u 0x03 n) ∧
        (t = 0 ∨ t = 3 → exec (.extestPulse t) s = .next (load u 0x06 n) ∧ exec (.extestTrain t) s = .next (load u 0x07 n)) ∧
        (t = 1 ∨ t = 2 → exec (.extestPulse t) s = .next (load s 0xFF 0) ∧ exec (.extestTrain t) s = .next (load s 0xFF 0)) ∧
        exec (.clamp t) s = .next (load s 0x04 0) ∧
        exec (.highz t) s = .next (load s 0x05 0) ∧
        exec (.bypass t) s = .next (load s 0xFF 0) ∧
        (bit s.sec.scopes (tapScope t) = true → exec (.debugAccess t op) s = .next (load s (0x30 + op.toNat) 0)) ∧
        (bit s.sec.scopes (tapScope t) = false → exec (.debugAccess t op) s = .next (load s 0xFF 0))) ∧
      (s.tapIn t = false → exec (.tapReset t) s = .next s ∧ exec (.idcode t) s = .next s ∧ exec (.clamp t) s = .next s ∧
        exec (.highz t) s = .next s ∧ exec (.bypass t) s = .next s ∧ exec (.debugAccess t op) s = .next s ∧
        exec (.samplePreload t cells) s = .next u ∧ exec (.extest t) s = .next u ∧
        exec (.extestPulse t) s = .next s ∧ exec (.extestTrain t) s = .next s))

/-- R5 to R7, R13, R139, R152, R223, R464 to R476: register writes. That a value outside its range in one field is ignored whole is the model's
reading (notes/assumptions/40.md). -/
def Obligations.RegisterWrites : Prop :=
  (∀ (s : State) (r : RegRow) (k : PageKind) (page off : Nat) (v : W32),
    let x := (s.reg (page + off) &&& ~~~ r.mask) ||| (v &&& r.mask)
    let ok := x = s.reg (page + off) ∨ x = regReset (page + off) ∨ valueOk k page off x = true
    (r.acc = .ro ∨ r.acc = .wo → s.plain r k page off v = s) ∧
    (r.acc = .rw ∨ (r.acc = .rwl ∧ s.lockedPage k page = false) → ok → s.plain r k page off v = s.setReg (page + off) x) ∧
    (r.acc = .rw ∨ r.acc = .rwl → ¬ ok → s.plain r k page off v = s) ∧
    (r.acc = .rwl → s.lockedPage k page = true → s.plain r k page off v = s) ∧
    (r.acc = .rw1c → s.plain r k page off v = s.setReg (page + off) (s.reg (page + off) &&& ~~~ (v &&& r.mask))) ∧
    (r.acc = .w1s → s.plain r k page off v = s.setReg (page + off) (s.reg (page + off) ||| (v &&& r.mask))) ∧
    (r.acc = .rwo → Tab.get false s.once (page + off) = true → s.plain r k page off v = s) ∧
    (r.acc = .rwo → Tab.get false s.once (page + off) = false → ok → s.plain r k page off v =
      { s.setReg (page + off) x with once := Tab.set false s.once (page + off) true }) ∧
    (r.acc = .rwo → Tab.get false s.once (page + off) = false → ¬ ok → s.plain r k page off v =
      { s with once := Tab.set false s.once (page + off) true })) ∧
  (∀ (s : State) (w : Writer) (k : PageKind) (page : Nat) (v : W32),
    (fld v 0 2 = 0 ∨ Tab.get false s.once (page + 0x010) = true → s.headWrite w k page 0x008 v = s) ∧
    (fld v 0 2 ≠ 0 → Tab.get false s.once (page + 0x010) = false →
      s.headWrite w k page 0x008 v = s.setReg (page + 0x008) (w32 (fld v 0 2))) ∧
    (bit v 0 = true → s.headWrite w k page 0x024 v = s.setRegF (page + 0x024) 0 1 1) ∧
    (bit v 0 = false → s.headWrite w k page 0x024 v = s) ∧
    (s.guardMay w page = false → s.headWrite w k page 0x01C v = s ∧ s.headWrite w k page 0x020 v = s) ∧
    (s.guardMay w page = true → s.headWrite w k page 0x01C v = s.setErrMask page v ∧
      (pageCheckers page ≤ fld v 0 4 ∨ fld v 4 4 = 0 ∨ injCount k (fld v 0 4) < fld v 4 4 → s.headWrite w k page 0x020 v = s) ∧
      (fld v 0 4 < pageCheckers page → 1 ≤ fld v 4 4 → fld v 4 4 ≤ injCount k (fld v 0 4) →
        s.headWrite w k page 0x020 v = s.setReg (page + 0x020) (setBit (v &&& 0xFFFF#32) 31 (decide (w = .folly))))) ∧
    s.headWrite w k page 0x018 v = s.errWrite w page v) ∧
  ∀ (s : State) (w : Writer) (a page : Nat) (v : W32) (u : UnitId) (k : PageKind) (r : RegRow),
    (regRow a = none ∨ pageKind a = none →
      (w = .pair → exec (.registerWrite w a v) s = .next (s.ghMemWrite a v)) ∧
      (w = .dom domGk → gkSramAt a = true → a % 4 = 0 → exec (.registerWrite w a v) s = .next (s.gkSramWrite a v)) ∧
      (w ≠ .pair → w ≠ .dom domGk ∨ gkSramAt a = false ∨ a % 4 ≠ 0 → exec (.registerWrite w a v) s = .next s)) ∧
    (a % 4 = 0 → (ghPlace a = some .tcm → s.ghMemWrite a v = s.tcmWrite a v) ∧
      (ghPlace a = some .slots → s.ghMemWrite a v = s.setSlotWord (a % 0x10000000 / 8) (a / 4 % 2) v) ∧
      (ghPlace a ≠ some .tcm → ghPlace a ≠ some .slots → s.ghMemWrite a v = s)) ∧
    (a % 4 ≠ 0 → exec (.registerWrite w a v) s = .next s) ∧
    (pageKind a = some k → regRow a = some r → k ≠ .unit → (∃ x, winUnit a = some x ∧ s.isAbsent x = true) →
      exec (.registerWrite w a v) s = .next s) ∧
    (pageKind a = some k → regRow a = some r → a % 4 = 0 → (∀ x, winUnit a = some x → s.isAbsent x = false ∨ k = .unit) →
      (a % 0x1000 < 0x040 → k.hasHead = true →
        (s.headMay w k (a / 0x1000 * 0x1000) (a % 0x1000) = true →
          exec (.registerWrite w a v) s = .next (s.headWrite w k (a / 0x1000 * 0x1000) (a % 0x1000) v)) ∧
        (s.headMay w k (a / 0x1000 * 0x1000) (a % 0x1000) = false → exec (.registerWrite w a v) s = .next s)) ∧
      (0x040 ≤ a % 0x1000 ∨ k.hasHead = false →
        (s.pageMay w k (a / 0x1000 * 0x1000) (a % 0x1000) = true →
          exec (.registerWrite w a v) s = .next (s.bodyWrite w k (a / 0x1000 * 0x1000) (a % 0x1000) r v)) ∧
        (s.pageMay w k (a / 0x1000 * 0x1000) (a % 0x1000) = false → exec (.registerWrite w a v) s = .next s))) ∧
    (headPage page = true → ∀ o h, (o = 0x008 ∧ h = Instr.blkGenSelWrite w page v) ∨ (o = 0x024 ∧ h = .blkLockWrite w page v) ∨
        (o = 0x020 ∧ h = .blkInjWrite w page v) ∨ (o = 0x018 ∧ h = .blkErrClear w page v) →
      exec h s = exec (.registerWrite w (page + o) v) s ∧ exec h s = .next (s.writeReg w (page + o) v)) ∧
    (headPage page = false → exec (.blkGenSelWrite w page v) s = .fault .noUnit ∧ exec (.blkLockWrite w page v) s = .fault .noUnit ∧
      exec (.blkInjWrite w page v) s = .fault .noUnit ∧ exec (.blkErrClear w page v) s = .fault .noUnit) ∧
    (uValid u = true →
      let own := uLevel u = 0 ∧ ∃ p, w = .seq p ∧ pavIx u = p
      (s.ctlDom w = true ∨ own → fld v 0 2 ≠ 3 →
        let put := fun (t : State) (x : UnitId) => t.setReg (uPage x 0 + 0x044) (w32 (fld v 0 2))
        exec (.unitClassWrite w u v) s =
          .next (((coresOf u).filter (fun c => decide (c ≠ u) && !s.isAbsent c)).foldl put (put s u))) ∧
      (fld v 0 2 = 3 → exec (.unitClassWrite w u v) s = .next s) ∧
      (s.ctlDom w = false → ¬ own → exec (.unitClassWrite w u v) s = .next s)) ∧
    (coreOk u = true →
      (s.ctxSrOpen u = true → exec (.unitCtxSrWrite w u v) s =
        let t := s.setReg (uPage u 0 + 0x054) v
        .next (t.setCore u ((t.core u).seed (seedOf (t.reg (uPage u 0 + 0x048)) (t.reg (uPage u 0 + 0x04C)) (t.reg (uPage u 0 + 0x050)) v)))) ∧
      (s.ctxSrOpen u = false → exec (.unitCtxSrWrite w u v) s = .next s)) ∧
    (uValid u = false → exec (.unitClassWrite w u v) s = .fault .noUnit) ∧
    (coreOk u = false → exec (.unitCtxSrWrite w u v) s = .fault .noUnit)

/-- R22: the canonical NaN is the one that is written; every NaN pattern is read as NaN. -/
def Obligations.NanPatterns : Prop :=
  ∀ (rm : Rm) (sat : Bool) (v : FVal) (f : FFmt) (c n : Nat),
    ((f = .e4m3 ∧ c = 0x7F) ∨ (f = .e5m2 ∧ c = 0x7E) ∨ (f = .fp16 ∧ c = 0x7E00) ∨ (f = .bf16 ∧ c = 0x7FC0) ∨ (f = .fp32 ∧ c = 0x7FC00000)) →
    (f.decode (f.round rm sat v).bits = .nan → (f.round rm sat v).bits = c) ∧
    (f.round rm sat .nan).bits = c ∧
    (f = .e4m3 → n % 128 = 127 → f.decode n = .nan) ∧
    (f = .e5m2 → n / 4 % 32 = 31 → n % 4 ≠ 0 → f.decode n = .nan) ∧
    (f = .fp16 → n / 1024 % 32 = 31 → n % 1024 ≠ 0 → f.decode n = .nan) ∧
    (f = .bf16 → n / 128 % 256 = 255 → n % 128 ≠ 0 → f.decode n = .nan) ∧
    (f = .fp32 → n / 8388608 % 256 = 255 → n % 8388608 ≠ 0 → f.decode n = .nan)

/-- R25: an MXINT8 element of −128. -/
def Obligations.MxInt8Elements : Prop :=
  (∀ scale : Nat, scale ≠ 0xFF → mxVal 0xD scale 0x80 = .fin true 128 ((scale : Int) - 127 - 6)) ∧
  (∀ (rm : Rm) (x : Int) (v : FVal), (mxElem 0xD rm x v).1 < 256 ∧
    -127 ≤ sfld (mxElem 0xD rm x v).1 8 ∧ sfld (mxElem 0xD rm x v).1 8 ≤ 127)

/-- R310: a commit of kind RATE. -/
def Obligations.RateCommits : Prop :=
  ∀ (s : State) (w : Writer) (t0 : Tick), s.inForm = true →
    (s.domSel = 2 → s.bs.commit = some (1, t0) → secondMarker t0 ≤ s.frc →
      let next := (s.reg (bsPage + 0x084)).toNat + 2 ^ 32 * s.regF (bsPage + 0x088) 0 8
      let hi := rateNom * (1000000 + s.slew) / 1000000
      let lo := (rateNom * (1000000 - s.slew) + 999999) / 1000000
      s.commitTime.bsRate = max lo (min hi next) ∧
      s.commitTime.reg64 (bsPage + 0x06C) = s.frc % 2 ^ 64 ∧
      s.commitTime.timeAt (bsPage + 0x074) = s.pt % (2 ^ 64 * secUnits) ∧
      s.commitTime.regF bsStatA 2 1 = (if next < lo ∨ hi < next then 1 else 0)) ∧
    (s.domSel ≠ 2 →
      exec (.commitRate w) s = .next s ∧
      (s.bs.commit = some (1, t0) →
        s.commitTime.bsRate = s.bsRate ∧ s.commitTime.reg64 (bsPage + 0x06C) = s.reg64 (bsPage + 0x06C) ∧
        s.commitTime.timeAt (bsPage + 0x074) = s.timeAt (bsPage + 0x074) ∧
        s.commitTime.regF bsStatA 2 1 = s.regF bsStatA 2 1))

/-- R303, R306, R366, R390 and the reset values of the register tables. That the queue is empty is the model's. -/
def Obligations.ResetState : Prop :=
  State.reset.pending = [] ∧ State.reset.frc = 0 ∧ State.reset.pt = 0 ∧ State.reset.bsRate = 0x200000000 ∧
  bit (State.reset.reg ghIoCtrlA) 0 = false ∧ State.reset.killed = true ∧
  (∀ n < 4, State.reset.permit n = false ∧ State.reset.latched n = true) ∧
  (∀ k < 16, State.reset.fcLevel k = 7) ∧ (∀ w < 14, State.reset.wdState w = wdOff) ∧
  State.reset.cap = 1500 ∧ State.reset.ceilC = 40 ∧ (∀ k < 4, State.reset.reg (ethPage k + 0x048) = 0x5EE)

/-- R5, R464, R114: the storage of registers and bytes. -/
def Obligations.RegisterStorage : Prop :=
  ∀ (s : State) (w : Writer) (a b lo n x : Nat) (v : W32) (y : Byte) (p : Nat → Bool), s.inForm = true →
    (s.setReg a v).reg a = v ∧ (b ≠ a → (s.setReg a v).reg b = s.reg b) ∧
    (lo + n ≤ 32 → x < 2 ^ n → (s.setRegF a lo n x).regF a lo n = x) ∧
    (lo + n ≤ 32 → ∀ i, i < 32 → (i < lo ∨ lo + n ≤ i) → bit ((s.setRegF a lo n x).reg a) i = bit (s.reg a) i) ∧
    (s.setReg a v).inForm = true ∧
    (s.setByte a y).byte a = y ∧ (b ≠ a → (s.setByte a y).byte b = s.byte b) ∧ (s.setByte a y).inForm = true ∧
    (s.setByte a y).reg b = s.reg b ∧ (s.setReg a v).byte b = s.byte b ∧
    (s.resetRegs lo n p).inForm = true ∧
    (lo ≤ b → b < n → p b = false → (s.resetRegs lo n p).reg b = regReset b) ∧
    ((b < lo ∨ n ≤ b ∨ p b = true) → (s.resetRegs lo n p).reg b = s.reg b) ∧
    (regRow a = none → s.readReg a = 0 ∧ (w ≠ .pair → w ≠ .dom domGk → exec (.registerWrite w a v) s = .next s))

/-- R303 in the model's form: a tick passes where nothing is commanded (DESIGN CHOICE, notes/assumptions/1.md). -/
def Obligations.IdleStep : Prop :=
  ∀ s : State, s.pending = [] → step s = .next { s with frc := s.frc + 1 }

/-- R12: commands complete exactly where they name units and instances of the part. -/
def Obligations.WellFormedCommandsComplete : Prop :=
  (∀ (c : Instr) (s : State), c.wf = true → Completes (exec c s)) ∧
  (∀ (c : Instr) (s : State), c.wf = false → exec c s = .fault .noUnit) ∧
  (∀ s : State, s.queueWf → Completes (step s))

/-- R303: no reset but power-on, no write and no correction changes FRC; and no command reads or changes the queue. -/
def Obligations.QueueAndClockKept : Prop :=
  ∀ (c : Instr) (s t : State), exec c s = .next t →
    t.pending = s.pending ∧
    ((∀ ok, c ≠ .gatehousePowerOn ok ∧ c ≠ .brownOutRecovery ok) → t.frc = s.frc) ∧
    (∀ ok, (c = .gatehousePowerOn ok ∨ c = .brownOutRecovery ok) → t.frc = 0)

/-- The canonical form of memory, syndromes and registers is kept by every step. -/
def Obligations.CanonicalFormKept : Prop :=
  ∀ s t : State, s.inForm = true → step s = .next t → t.inForm = true

/-- The canonical form holds after reset. -/
def Obligations.ResetCanonical : Prop := State.reset.inForm = true
end

