-- ==== Sys2Proof/Laws/Bits.lean ====
section
/-! SUPPORT. Fields of words: what is read from a field after a field has been written. -/

namespace Sys2Proof.Machine

theorem maskW_getLsbD (lo n i : Nat) (hi : i < 32) : (maskW lo n).getLsbD i = (decide (lo ≤ i) && decide (i < lo + n)) := by
  simp only [maskW, BitVec.getLsbD_ofNat, hi, decide_true, Bool.true_and, Nat.testBit_shiftLeft, Nat.testBit_two_pow_sub_one]
  by_cases h : lo ≤ i
  · have : (i - lo < n) = (i < lo + n) := by apply propext; omega
    simp [h, this]
  · simp [h]

/-- A bit of a word whose field has been replaced. -/
theorem setFld_getLsbD (v : W32) (lo n x i : Nat) (hi : i < 32) :
    (setFld v lo n x).getLsbD i = if lo ≤ i ∧ i < lo + n then x.testBit (i - lo) else v.getLsbD i := by
  have hm := maskW_getLsbD lo n i hi
  simp only [setFld, BitVec.getLsbD_or, BitVec.getLsbD_and, BitVec.getLsbD_not, hm, BitVec.getLsbD_ofNat, hi, decide_true,
    Bool.true_and, Nat.testBit_shiftLeft, Nat.testBit_mod_two_pow]
  by_cases h1 : lo ≤ i
  · by_cases h2 : i < lo + n
    · have h3 : i - lo < n := by omega
      simp [h1, h2, h3]
    · have h3 : ¬ i - lo < n := by omega
      simp [h1, h2, h3]
  · simp [h1]

/-- A bit outside the field keeps its value. -/
theorem bit_setFld_ne (v : W32) (lo n x i : Nat) (hi : i < 32) (h : i < lo ∨ lo + n ≤ i) : bit (setFld v lo n x) i = bit v i := by
  have : ¬ (lo ≤ i ∧ i < lo + n) := by omega
  simp [bit, setFld_getLsbD v lo n x i hi, this]

/-- The field reads the low bits of what has been written. -/
theorem fld_setFld_same (v : W32) (lo n x : Nat) (h : lo + n ≤ 32) : fld (setFld v lo n x) lo n = x % 2 ^ n := by
  apply Nat.eq_of_testBit_eq
  intro i
  simp only [fld, nfld, Nat.testBit_mod_two_pow, Nat.testBit_shiftRight]
  by_cases hi : i < n
  · have h1 : (setFld v lo n x).toNat.testBit (lo + i) = (setFld v lo n x).getLsbD (lo + i) := BitVec.testBit_toNat _
    rw [h1, setFld_getLsbD v lo n x (lo + i) (by omega)]
    simp [hi]
  · simp [hi]

/-- A field apart from the one written keeps its value. -/
theorem fld_setFld_ne (v : W32) (lo n x lo' n' : Nat) (h : lo' + n' ≤ 32) (hd : lo' + n' ≤ lo ∨ lo + n ≤ lo') :
    fld (setFld v lo n x) lo' n' = fld v lo' n' := by
  apply Nat.eq_of_testBit_eq
  intro i
  simp only [fld, nfld, Nat.testBit_mod_two_pow, Nat.testBit_shiftRight]
  by_cases hi : i < n'
  · have h1 : (setFld v lo n x).toNat.testBit (lo' + i) = (setFld v lo n x).getLsbD (lo' + i) := BitVec.testBit_toNat _
    have h2 : v.toNat.testBit (lo' + i) = v.getLsbD (lo' + i) := BitVec.testBit_toNat _
    have h3 : ¬ (lo ≤ lo' + i ∧ lo' + i < lo + n) := by omega
    rw [h1, h2, setFld_getLsbD v lo n x (lo' + i) (by omega), if_neg h3]
  · simp [hi]

end Sys2Proof.Machine
end

