-- ==== Sys2Proof/Laws/Tab.lean ====
section
/-! SUPPORT. Sparse tables: what is read after a write, and that every operation keeps the canonical form. -/

namespace Sys2Proof.Machine

theorem Tab.rising_mono {α : Type} : ∀ (t : Tab α) (m n : Nat), m ≤ n → Tab.rising n t = true → Tab.rising m t = true
  | [], _, _, _, _ => rfl
  | (k, _) :: _, m, n, h, hr => by
    simp only [Tab.rising, Bool.and_eq_true, decide_eq_true_eq] at hr ⊢
    exact ⟨by omega, hr.2⟩

theorem Tab.get_below {α : Type} (d : α) : ∀ (t : Tab α) (n k : Nat), Tab.rising n t = true → k < n → Tab.get d t k = d
  | [], _, _, _, _ => rfl
  | (k', v) :: r, n, k, hr, hk => by
    simp only [Tab.rising, Bool.and_eq_true, decide_eq_true_eq] at hr
    have h1 : k' ≠ k := by omega
    have h2 : k < k' := by omega
    simp [Tab.get, h1, h2]

theorem Tab.get_cell_same {α : Type} [DecidableEq α] (d v : α) (k n : Nat) (r : Tab α) (hr : Tab.rising n r = true) (hk : k < n) :
    Tab.get d (Tab.cell d k v r) k = v := by
  unfold Tab.cell
  split
  · rename_i h; rw [Tab.get_below d r n k hr hk, h]
  · simp [Tab.get]

theorem Tab.get_cell_ne {α : Type} [DecidableEq α] (d e v : α) (k b n : Nat) (r : Tab α) (hr : Tab.rising n r = true) (hk : k < n)
    (hb : b ≠ k) : Tab.get e (Tab.cell d k v r) b = Tab.get e r b := by
  unfold Tab.cell
  split
  · rfl
  · by_cases h : b < k
    · rw [Tab.get_below e r n b hr (by omega)]; simp [Tab.get, Ne.symm hb, h]
    · simp [Tab.get, Ne.symm hb, h]

/-- A value that has been put at a key is read there. -/
theorem Tab.get_set_same {α : Type} [DecidableEq α] (d v : α) (k : Nat) :
    ∀ (t : Tab α) (n : Nat), Tab.rising n t = true → Tab.get d (Tab.set d t k v) k = v
  | [], _, _ => Tab.get_cell_same d v k (k + 1) [] rfl (by omega)
  | (k', v') :: r, n, hr => by
    have hr' := hr
    simp only [Tab.rising, Bool.and_eq_true, decide_eq_true_eq] at hr
    unfold Tab.set
    split
    · exact Tab.get_cell_same d v k (k + 1) r (by rename_i h; rw [← h]; exact hr.2) (by omega)
    · split
      · exact Tab.get_cell_same d v k (k + 1) _
          (by simp only [Tab.rising, Bool.and_eq_true, decide_eq_true_eq]; exact ⟨by omega, hr.2⟩) (by omega)
      · rename_i h1 h2
        simp only [Tab.get, h1, if_false, h2]
        exact Tab.get_set_same d v k r _ hr.2

/-- A value put at a key is read at no other key; the default of the other key is its own. -/
theorem Tab.get_set_ne {α : Type} [DecidableEq α] (d e v : α) (k b : Nat) (hb : b ≠ k) :
    ∀ (t : Tab α) (n : Nat), Tab.rising n t = true → Tab.get e (Tab.set d t k v) b = Tab.get e t b
  | [], _, _ => Tab.get_cell_ne d e v k b (k + 1) [] rfl (by omega) hb
  | (k', v') :: r, n, hr => by
    simp only [Tab.rising, Bool.and_eq_true, decide_eq_true_eq] at hr
    unfold Tab.set
    split
    · rename_i h
      rw [Tab.get_cell_ne d e v k b (k + 1) r (by rw [← h]; exact hr.2) (by omega) hb]
      have h1 : k' ≠ b := by omega
      by_cases h2 : b < k'
      · simp only [Tab.get, h1, if_false, h2, if_true]; exact Tab.get_below e r (k' + 1) b hr.2 (by omega)
      · simp [Tab.get, h1, h2]
    · split
      · exact Tab.get_cell_ne d e v k b (k + 1) _
          (by simp only [Tab.rising, Bool.and_eq_true, decide_eq_true_eq]; exact ⟨by omega, hr.2⟩) (by omega) hb
      · simp only [Tab.get]
        split
        · rfl
        · split
          · rfl
          · exact Tab.get_set_ne d e v k b hb r _ hr.2

theorem Tab.rising_cell {α : Type} [DecidableEq α] (d v : α) (k m : Nat) (r : Tab α) (hr : Tab.rising (k + 1) r = true) (hm : m ≤ k) :
    Tab.rising m (Tab.cell d k v r) = true := by
  unfold Tab.cell
  split
  · exact Tab.rising_mono r m (k + 1) (by omega) hr
  · simp only [Tab.rising, Bool.and_eq_true, decide_eq_true_eq]; exact ⟨hm, hr⟩

theorem Tab.rising_set {α : Type} [DecidableEq α] (d v : α) (k : Nat) :
    ∀ (t : Tab α) (n : Nat), n ≤ k → Tab.rising n t = true → Tab.rising n (Tab.set d t k v) = true
  | [], n, hn, _ => Tab.rising_cell d v k n [] rfl hn
  | (k', v') :: r, n, hn, hr => by
    simp only [Tab.rising, Bool.and_eq_true, decide_eq_true_eq] at hr
    unfold Tab.set
    split
    · exact Tab.rising_cell d v k n r (by rename_i h; rw [← h]; exact hr.2) hn
    · split
      · exact Tab.rising_cell d v k n _ (by simp only [Tab.rising, Bool.and_eq_true, decide_eq_true_eq]; exact ⟨by omega, hr.2⟩) hn
      · rename_i h1 h2
        simp only [Tab.rising, Bool.and_eq_true, decide_eq_true_eq]
        exact ⟨hr.1, Tab.rising_set d v k r (k' + 1) (by omega) hr.2⟩

theorem Tab.all_cell {α : Type} [DecidableEq α] (d v : α) (k : Nat) (r : Tab α) (p : Nat × α → Bool) (hr : r.all p = true)
    (hv : v ≠ d → p (k, v) = true) : (Tab.cell d k v r).all p = true := by
  unfold Tab.cell
  split
  · exact hr
  · rename_i h; simp only [List.all_cons, Bool.and_eq_true]; exact ⟨hv h, hr⟩

theorem Tab.all_set {α : Type} [DecidableEq α] (d v : α) (k : Nat) (p : Nat × α → Bool) (hv : v ≠ d → p (k, v) = true) :
    ∀ t : Tab α, t.all p = true → (Tab.set d t k v).all p = true
  | [], _ => Tab.all_cell d v k [] p rfl hv
  | (k', v') :: r, hr => by
    have hr' := hr
    simp only [List.all_cons, Bool.and_eq_true] at hr
    unfold Tab.set
    split
    · exact Tab.all_cell d v k r p hr.2 hv
    · split
      · exact Tab.all_cell d v k _ p hr' hv
      · simp only [List.all_cons, Bool.and_eq_true]; exact ⟨hr.1, Tab.all_set d v k p hv r hr.2⟩

/-- A write keeps the canonical form. -/
theorem Tab.wf_set {α : Type} [DecidableEq α] (d v : α) (k : Nat) (t : Tab α) (h : Tab.wf d t = true) :
    Tab.wf d (Tab.set d t k v) = true := by
  simp only [Tab.wf, Bool.and_eq_true] at h ⊢
  exact ⟨Tab.rising_set d v k t 0 (by omega) h.1, Tab.all_set d v k _ (by intro hv; simpa using hv) t h.2⟩

theorem Tab.rising_filter {α : Type} (p : Nat × α → Bool) :
    ∀ (t : Tab α) (n : Nat), Tab.rising n t = true → Tab.rising n (t.filter p) = true
  | [], _, _ => rfl
  | (k, v) :: r, n, hr => by
    simp only [Tab.rising, Bool.and_eq_true, decide_eq_true_eq] at hr
    have ih := Tab.rising_filter p r (k + 1) hr.2
    simp only [List.filter_cons]
    split
    · simp only [Tab.rising, Bool.and_eq_true, decide_eq_true_eq]; exact ⟨hr.1, ih⟩
    · exact Tab.rising_mono _ n (k + 1) (by omega) ih

theorem Tab.all_filter {α : Type} (p q : α → Bool) : ∀ t : List α, t.all q = true → (t.filter p).all q = true := by
  intro t h
  simp only [List.all_eq_true, List.mem_filter] at h ⊢
  exact fun x hx => h x hx.1

/-- Taking entries out keeps the canonical form. -/
theorem Tab.wf_filter {α : Type} [DecidableEq α] (d : α) (p : Nat × α → Bool) (t : Tab α) (h : Tab.wf d t = true) :
    Tab.wf d (List.filter p t) = true := by
  simp only [Tab.wf, Bool.and_eq_true] at h ⊢
  exact ⟨Tab.rising_filter p t 0 h.1, Tab.all_filter p _ t h.2⟩

theorem Tab.wf_keep {α : Type} [DecidableEq α] (d : α) (p : Nat → Bool) (t : Tab α) (h : Tab.wf d t = true) :
    Tab.wf d (Tab.keep t p) = true := Tab.wf_filter d _ t h

theorem Tab.wf_clearIn {α : Type} [DecidableEq α] (d : α) (lo hi : Nat) (t : Tab α) (h : Tab.wf d t = true) :
    Tab.wf d (Tab.clearIn t lo hi) = true := Tab.wf_filter d _ t h

/-- What is kept reads as before, and what is not kept reads as the default. -/
theorem Tab.get_keep {α : Type} (d : α) (p : Nat → Bool) (b : Nat) :
    ∀ (t : Tab α) (n : Nat), Tab.rising n t = true → Tab.get d (Tab.keep t p) b = if p b then Tab.get d t b else d
  | [], _, _ => by simp [Tab.keep, Tab.get]
  | (k, v) :: r, n, hr => by
    simp only [Tab.rising, Bool.and_eq_true, decide_eq_true_eq] at hr
    have ih := Tab.get_keep d p b r (k + 1) hr.2
    have hlow : b ≤ k → Tab.get d (Tab.keep r p) b = d := fun h =>
      Tab.get_below d _ (k + 1) b (Tab.rising_filter _ r (k + 1) hr.2) (by omega)
    unfold Tab.keep at ih hlow ⊢
    simp only [List.filter_cons]
    by_cases hpk : p k = true
    · simp only [hpk, if_true, Tab.get]
      by_cases hkb : k = b
      · subst hkb; simp [hpk]
      · by_cases hbk : b < k
        · simp [hkb, hbk]
        · simp only [hkb, if_false, hbk]; exact ih
    · simp only [hpk, if_false, Tab.get, Bool.false_eq_true]
      by_cases hkb : k = b
      · subst hkb; rw [hlow (by omega)]; simp [hpk]
      · by_cases hbk : b < k
        · rw [hlow (by omega)]; simp [hkb, hbk]
        · simp only [hkb, if_false, hbk]; exact ih

end Sys2Proof.Machine
end

