-- ==== Sys2Proof/Laws/Regs.lean ====
section
/-! SUPPORT. Registers and bytes: what is read after a write, and that the operations keep the canonical form. -/

namespace Sys2Proof.Machine

/-- What the canonical form says. -/
theorem State.inForm_iff (s : State) :
    s.inForm = true ↔ Memory.wf s.mem = true ∧ Tab.wf 0 s.syn = true ∧ regsWf s.regs = true ∧ s.localForm = true := by
  simp [State.inForm, and_assoc]

theorem regsWf_rising {r : Tab W32} (h : regsWf r = true) : Tab.rising 0 r = true := by
  simp only [regsWf, Bool.and_eq_true] at h; exact h.1

theorem Memory.wf_rising {m : Tab Byte} (h : Memory.wf m = true) : Tab.rising 0 m = true := by
  simp only [Memory.wf, Tab.wf, Bool.and_eq_true] at h; exact h.1

/-- Every register's value may be put into the table. -/
theorem regsWf_set (r : Tab W32) (a : Nat) (v : W32) (h : regsWf r = true) : regsWf (Tab.set (regReset a) r a v) = true := by
  simp only [regsWf, Bool.and_eq_true] at h ⊢
  exact ⟨Tab.rising_set _ v a r 0 (by omega) h.1, Tab.all_set _ v a _ (by intro hv; simpa using hv) r h.2⟩

theorem regsWf_filter (r : Tab W32) (p : Nat × W32 → Bool) (h : regsWf r = true) : regsWf (List.filter p r) = true := by
  simp only [regsWf, Bool.and_eq_true] at h ⊢
  exact ⟨Tab.rising_filter p r 0 h.1, Tab.all_filter p _ r h.2⟩

theorem regsWf_keep (r : Tab W32) (p : Nat → Bool) (h : regsWf r = true) : regsWf (Tab.keep r p) = true := regsWf_filter r _ h

/-- A register holds what it has been given. -/
theorem State.reg_setReg (s : State) (a : Nat) (v : W32) (h : s.inForm = true) : (s.setReg a v).reg a = v :=
  Tab.get_set_same _ v a _ 0 (regsWf_rising ((State.inForm_iff s).1 h).2.2.1)

/-- No other register changes. -/
theorem State.reg_setReg_ne (s : State) (a b : Nat) (v : W32) (h : s.inForm = true) (hb : b ≠ a) :
    (s.setReg a v).reg b = s.reg b :=
  Tab.get_set_ne _ _ v a b hb _ 0 (regsWf_rising ((State.inForm_iff s).1 h).2.2.1)

theorem State.inForm_setReg (s : State) (a : Nat) (v : W32) (h : s.inForm = true) : (s.setReg a v).inForm = true := by
  rw [State.inForm_iff] at h ⊢
  exact ⟨h.1, h.2.1, regsWf_set _ a v h.2.2.1, h.2.2.2⟩

theorem State.inForm_resetRegs (s : State) (lo hi : Nat) (p : Nat → Bool) (h : s.inForm = true) :
    (s.resetRegs lo hi p).inForm = true := by
  rw [State.inForm_iff] at h ⊢
  exact ⟨h.1, h.2.1, regsWf_filter _ _ h.2.2.1, h.2.2.2⟩

/-- A field reads the low bits of what it has been given. -/
theorem State.regF_setRegF (s : State) (a lo n x : Nat) (h : s.inForm = true) (hn : lo + n ≤ 32) :
    (s.setRegF a lo n x).regF a lo n = x % 2 ^ n := by
  simp only [State.setRegF, State.regF, State.reg_setReg s a _ h, fld_setFld_same _ lo n x hn]

/-- A field apart from the one written keeps its value. -/
theorem State.regF_setRegF_ne (s : State) (a lo n x lo' n' : Nat) (h : s.inForm = true) (hn : lo' + n' ≤ 32)
    (hd : lo' + n' ≤ lo ∨ lo + n ≤ lo') : (s.setRegF a lo n x).regF a lo' n' = s.regF a lo' n' := by
  simp only [State.setRegF, State.regF, State.reg_setReg s a _ h, fld_setFld_ne _ lo n x lo' n' hn hd]

theorem State.reg_setRegF_ne (s : State) (a lo n x b : Nat) (h : s.inForm = true) (hb : b ≠ a) :
    (s.setRegF a lo n x).reg b = s.reg b := State.reg_setReg_ne s a b _ h hb

theorem State.inForm_setRegF (s : State) (a lo n x : Nat) (h : s.inForm = true) : (s.setRegF a lo n x).inForm = true :=
  State.inForm_setReg s a _ h

/-- A byte that has been stored is read. -/
theorem State.byte_setByte (s : State) (k : Nat) (b : Byte) (h : s.inForm = true) : (s.setByte k b).byte k = b :=
  Tab.get_set_same 0 b k _ 0 (Memory.wf_rising ((State.inForm_iff s).1 h).1)

theorem State.byte_setByte_ne (s : State) (k j : Nat) (b : Byte) (h : s.inForm = true) (hj : j ≠ k) :
    (s.setByte k b).byte j = s.byte j :=
  Tab.get_set_ne 0 0 b k j hj _ 0 (Memory.wf_rising ((State.inForm_iff s).1 h).1)

/-- Every memory operation keeps the canonical form: storing a byte, -/
theorem Memory.wf_setByte (s : State) (k : Nat) (b : Byte) (h : Memory.wf s.mem = true) : Memory.wf (s.setByte k b).mem = true :=
  Tab.wf_set 0 b k _ h

/-- storing bytes, -/
theorem Memory.wf_setBytes : ∀ (bs : List Byte) (s : State) (k : Nat), Memory.wf s.mem = true → Memory.wf (s.setBytes k bs).mem = true
  | [], _, _, h => h
  | b :: r, s, k, h => Memory.wf_setBytes r (s.setByte k b) (k + 1) (Memory.wf_setByte s k b h)

theorem State.inForm_setByte (s : State) (k : Nat) (b : Byte) (h : s.inForm = true) : (s.setByte k b).inForm = true := by
  rw [State.inForm_iff] at h ⊢
  exact ⟨Memory.wf_setByte s k b h.1, h.2.1, h.2.2.1, h.2.2.2⟩

theorem State.inForm_setBytes : ∀ (bs : List Byte) (s : State) (k : Nat), s.inForm = true → (s.setBytes k bs).inForm = true
  | [], _, _, h => h
  | b :: r, s, k, h => State.inForm_setBytes r (s.setByte k b) (k + 1) (State.inForm_setByte s k b h)

/-- forgetting bytes, by a test of the key or in a range, -/
theorem Memory.wf_keep (m : Tab Byte) (p : Nat → Bool) (h : Memory.wf m = true) : Memory.wf (Tab.keep m p) = true := Tab.wf_keep 0 p m h

theorem Memory.wf_clearIn (m : Tab Byte) (lo hi : Nat) (h : Memory.wf m = true) : Memory.wf (Tab.clearIn m lo hi) = true :=
  Tab.wf_clearIn 0 lo hi m h

/-- a syndrome, -/
theorem State.inForm_setSyn (s : State) (k n : Nat) (h : s.inForm = true) : (s.setSyn k n).inForm = true := by
  rw [State.inForm_iff] at h ⊢
  exact ⟨h.1, Tab.wf_set 0 _ k _ h.2.1, h.2.2.1, h.2.2.2⟩

/-- an image in the eFlash, -/
theorem State.inForm_flashPut (s : State) (i : Nat) (img : List Byte) (h : s.inForm = true) : (s.flashPut i img).inForm = true := by
  rw [State.inForm_iff] at h ⊢
  refine ⟨h.1, h.2.1, h.2.2.1, ?_⟩
  have k := h.2.2.2
  simp only [State.localForm, Bool.and_eq_true] at k ⊢
  exact ⟨⟨⟨k.1.1.1, Tab.wf_clearIn 0 _ _ _ k.1.1.2⟩, k.1.2⟩, k.2⟩

theorem Memory.wf_putBytes (a : Nat) : ∀ (bs : List (Byte × Nat)) (m : Tab Byte), Memory.wf m = true →
    Memory.wf (bs.foldl (fun t e => Tab.set 0 t (a + e.2) e.1) m) = true
  | [], _, h => h
  | _ :: r, _, h => Memory.wf_putBytes a r _ (Tab.wf_set 0 _ _ _ h)

/-- a word of the Gatehouse's TCM, -/
theorem State.inForm_tcmWrite (s : State) (a : Nat) (v : W32) (h : s.inForm = true) : (s.tcmWrite a v).inForm = true := by
  rw [State.inForm_iff] at h ⊢
  refine ⟨h.1, h.2.1, h.2.2.1, ?_⟩
  have k := h.2.2.2
  simp only [State.localForm, Bool.and_eq_true] at k ⊢
  exact ⟨⟨⟨Memory.wf_putBytes a _ _ k.1.1.1, Tab.wf_set 0 _ _ _ k.1.1.2⟩, k.1.2⟩, k.2⟩

/-- a word of the Groundskeeper's SRAM, -/
theorem State.inForm_gkSramWrite (s : State) (a : Nat) (v : W32) (h : s.inForm = true) : (s.gkSramWrite a v).inForm = true := by
  rw [State.inForm_iff] at h ⊢
  refine ⟨h.1, h.2.1, h.2.2.1, ?_⟩
  have k := h.2.2.2
  simp only [State.localForm, Bool.and_eq_true] at k ⊢
  exact ⟨⟨k.1.1, Memory.wf_putBytes a _ _ k.1.2⟩, Tab.wf_set 0 _ _ _ k.2⟩

/-- and a word with its check bits. -/
theorem State.inForm_putW (s : State) (k : Nat) (v : W32) (h : s.inForm = true) : (s.putW k v).inForm = true :=
  State.inForm_setSyn _ k 0 (State.inForm_setBytes _ s k h)

/-- The state after reset is in canonical form. -/
theorem Memory.wf_reset : Memory.wf State.reset.mem = true := rfl

end Sys2Proof.Machine
end

