-- ==== Sys2Proof/Laws/Held.lean ====
section
/-! SUPPORT. What a function of the model leaves alone where it answers a next state: the queue, FRC, and the canonical form of
memory, syndromes and registers. One lemma for each shape that a body takes, so that a body is never evaluated. -/

namespace Sys2Proof.Machine

/-- The queue and FRC are as before, and the canonical form is kept. -/
structure Held (s t : State) : Prop where
  pending : t.pending = s.pending
  frc : t.frc = s.frc
  form : s.inForm = true → t.inForm = true

theorem Held.refl (s : State) : Held s s := ⟨rfl, rfl, id⟩

theorem Held.trans {s t u : State} (h : Held s t) (k : Held t u) : Held s u :=
  ⟨k.pending.trans h.pending, k.frc.trans h.frc, fun x => k.form (h.form x)⟩

/-- A condition decides between two states. -/
theorem Held.ite {s a b : State} {c : Prop} [Decidable c] (h : Held s a) (k : Held s b) : Held s (if c then a else b) := by
  split <;> assumption

theorem Held.iteSnd {α : Type} {s : State} {a b : α × State} {c : Prop} [Decidable c] (h : Held s a.2) (k : Held s b.2) :
    Held s (if c then a else b).2 := by
  split <;> assumption

theorem Held.iteSnd2 {α β : Type} {s : State} {a b : α × β × State} {c : Prop} [Decidable c] (h : Held s a.2.2) (k : Held s b.2.2) :
    Held s (if c then a else b).2.2 := by
  split <;> assumption

/-- The state of an answer that is taken apart. -/
theorem Held.snd {α : Type} {s t : State} {a : α} {p : α × State} (e : p = (a, t)) (h : Held s p.2) : Held s t := by
  subst e; exact h

theorem Held.snd2 {α β : Type} {s t : State} {a : α} {b : β} {p : α × β × State} (e : p = (a, b, t)) (h : Held s p.2.2) : Held s t := by
  subst e; exact h

theorem Held.snd3 {α β γ : Type} {s t : State} {a : α} {b : β} {c : γ} {p : α × β × γ × State} (e : p = (a, b, c, t))
    (h : Held s p.2.2.2) : Held s t := by
  subst e; exact h

/-- A local state, or a local function to states, is judged once. -/
theorem Held.via {s : State} {r : Prop} (t : State) (h : Held s t) (k : Held s t → r) : r := k h

theorem Held.viaF {s : State} {α : Type} {r : Prop} (f : State → α → State) (h : ∀ u x, Held s u → Held s (f u x))
    (k : (∀ u x, Held s u → Held s (f u x)) → r) : r := k h

theorem Held.viaF1 {s : State} {r : Prop} (f : State → State) (h : ∀ u, Held s u → Held s (f u)) (k : (∀ u, Held s u → Held s (f u)) → r) : r := k h

theorem Held.viaG {s : State} {α : Type} {r : Prop} (f : α → State → State) (h : ∀ x u, Held s u → Held s (f x u))
    (k : (∀ x u, Held s u → Held s (f x u)) → r) : r := k h

theorem Held.viaH {s : State} {α β : Type} {r : Prop} (f : α → State → β × State) (h : ∀ x u, Held s u → Held s (f x u).2)
    (k : (∀ x u, Held s u → Held s (f x u).2) → r) : r := k h

theorem Held.viaK {s : State} {β : Type} {r : Prop} (f : State → β × State) (h : ∀ u, Held s u → Held s (f u).2)
    (k : (∀ u, Held s u → Held s (f u).2) → r) : r := k h

theorem Held.viaF2 {s : State} {α β : Type} {r : Prop} (f : State → α → β → State) (h : ∀ u x y, Held s u → Held s (f u x y))
    (k : (∀ u x y, Held s u → Held s (f u x y)) → r) : r := k h

theorem Held.viaG2 {s : State} {α β : Type} {r : Prop} (f : α → β → State → State) (h : ∀ x y u, Held s u → Held s (f x y u))
    (k : (∀ x y u, Held s u → Held s (f x y u)) → r) : r := k h

theorem Held.viaF3 {s : State} {α β γ : Type} {r : Prop} (f : State → α → β → γ → State)
    (h : ∀ u x y z, Held s u → Held s (f u x y z)) (k : (∀ u x y z, Held s u → Held s (f u x y z)) → r) : r := k h

theorem Held.viaR {s : State} {α : Type} {r : Prop} (f : (α → State) → State) (h : ∀ g, (∀ x, Held s (g x)) → Held s (f g))
    (k : (∀ g, (∀ x, Held s (g x)) → Held s (f g)) → r) : r := k h

/-- A loop over a list. -/
theorem Held.foldl {α : Type} {s t : State} {l : List α} {f : State → α → State} (h : Held s t) (k : ∀ u x, Held s u → Held s (f u x)) :
    Held s (l.foldl f t) := by
  induction l generalizing t with
  | nil => exact h
  | cons a r ih => exact ih (k t a h)

theorem Held.foldlSnd {α β : Type} {s : State} {l : List α} {f : β × State → α → β × State} {p : β × State} (h : Held s p.2)
    (k : ∀ u x, Held s u.2 → Held s (f u x).2) : Held s (l.foldl f p).2 := by
  induction l generalizing p with
  | nil => exact h
  | cons a r ih => exact ih (k p a h)

theorem Held.foldlFst {α β : Type} {s : State} {l : List α} {f : State × β → α → State × β} {p : State × β} (h : Held s p.1)
    (k : ∀ u x, Held s u.1 → Held s (f u x).1) : Held s (l.foldl f p).1 := by
  induction l generalizing p with
  | nil => exact h
  | cons a r ih => exact ih (k p a h)

/-- A record update that leaves the five fields alone. -/
theorem Held.mk_iff {s t : State}
        {free : Nat} {risen : List (Nat × Nat)} {out : List Output} {tx : Tab Nat} {streams : Tab PmStream} {cores : Tab
      CoreSt} {absent : Tab Bool} {wback : List (Nat × Nat)} {sramScrub : Tab Nat} {fwForce : Tab FwWin} {prevDom : Tab Nat}
      {fusedMap : Tab W32} {cvuOld : Tab (Option (Nat × Tick))} {icuSvc : Tab Nat} {icuHold : Tab Tick} {wds : Tab WdSt}
      {dbgHalted : Tab Bool} {fcGrp : Tab FcGrp} {fcCls : Tab FcCls} {fcExt : Tab Bool} {fcKnown : List (Nat × Nat)} {fcLink
      : Tab (Option (Tick × Nat))} {fcMinute : Tick} {silent : Tab Bool} {vecAt : Tab Tick} {evid : List Ev} {svcAccess :
      Bool} {latentAt : List Loc} {dbgOpen : Bool} {cyc : CycleSt} {sio : SioSt} {fwHold : Option Tick} {links : Tab LinkSt}
      {ghUp : Bool} {bs : BsSt} {areasOk : Bool} {plan : PlanSt} {bv : BvSt} {fol : FolSt} {bel : BeliefSt} {tsm : TsmSt}
      {reqs : Tab (Option ReqSt)} {ucmds : Tab (Option UCmd)} {collWait : Tab (List (Nat × Packet))} {boot : Tab BootRx}
      {spareFw : Tab (W32 × W32)} {sec : SecSt} {gk : GkSt} {taps : Tab TapSt} {pcie : PcieSt} {cal : CalSt} {pwr : PwrSt}
      {scanEnd : Tick} {svcEnd : Tick} {svcFrom : Option Tick} {clkBad : Tab Nat} {rx : RxSt} {t1s : T1sSt} {win : WinSt}
      {once : Tab Bool} {safeSince : Tab Tick} {scopesAt : Tick} {pavClk : Tab (Nat × Tick)} {uart : UartSt} {injSrc : List
      (Nat × Nat)} {convFlip : Tab W64} {roseAt : Tab Nat} {cvuLast : Tab (Option Tick)} {cvuStalled : List CvuWrite} :
        Held s (State.mk t.pending t.frc free t.regs risen t.mem t.syn out tx streams cores absent wback sramScrub fwForce
      prevDom fusedMap cvuOld icuSvc icuHold wds dbgHalted fcGrp fcCls fcExt fcKnown fcLink fcMinute silent vecAt evid
      svcAccess latentAt dbgOpen cyc sio fwHold links ghUp bs areasOk plan bv fol bel tsm reqs ucmds collWait boot spareFw
      sec gk taps pcie cal pwr scanEnd svcEnd svcFrom clkBad rx t1s win once safeSince scopesAt pavClk uart injSrc convFlip
      t.tcm t.ghSyn roseAt cvuLast cvuStalled t.gkSram t.gkSyn) ↔ Held s t :=
  ⟨fun h => ⟨h.pending, h.frc, h.form⟩, fun h => ⟨h.pending, h.frc, h.form⟩⟩
/-- A record update that leaves queue and FRC alone and keeps each table in form. -/
theorem Held.mkForm {s t : State}
        {free : Nat} {risen : List (Nat × Nat)} {out : List Output} {tx : Tab Nat} {streams : Tab PmStream} {cores : Tab
      CoreSt} {absent : Tab Bool} {wback : List (Nat × Nat)} {sramScrub : Tab Nat} {fwForce : Tab FwWin} {prevDom : Tab Nat}
      {fusedMap : Tab W32} {cvuOld : Tab (Option (Nat × Tick))} {icuSvc : Tab Nat} {icuHold : Tab Tick} {wds : Tab WdSt}
      {dbgHalted : Tab Bool} {fcGrp : Tab FcGrp} {fcCls : Tab FcCls} {fcExt : Tab Bool} {fcKnown : List (Nat × Nat)} {fcLink
      : Tab (Option (Tick × Nat))} {fcMinute : Tick} {silent : Tab Bool} {vecAt : Tab Tick} {evid : List Ev} {svcAccess :
      Bool} {latentAt : List Loc} {dbgOpen : Bool} {cyc : CycleSt} {sio : SioSt} {fwHold : Option Tick} {links : Tab LinkSt}
      {ghUp : Bool} {bs : BsSt} {areasOk : Bool} {plan : PlanSt} {bv : BvSt} {fol : FolSt} {bel : BeliefSt} {tsm : TsmSt}
      {reqs : Tab (Option ReqSt)} {ucmds : Tab (Option UCmd)} {collWait : Tab (List (Nat × Packet))} {boot : Tab BootRx}
      {spareFw : Tab (W32 × W32)} {sec : SecSt} {gk : GkSt} {taps : Tab TapSt} {pcie : PcieSt} {cal : CalSt} {pwr : PwrSt}
      {scanEnd : Tick} {svcEnd : Tick} {svcFrom : Option Tick} {clkBad : Tab Nat} {rx : RxSt} {t1s : T1sSt} {win : WinSt}
      {once : Tab Bool} {safeSince : Tab Tick} {scopesAt : Tick} {pavClk : Tab (Nat × Tick)} {uart : UartSt} {injSrc : List
      (Nat × Nat)} {convFlip : Tab W64} {roseAt : Tab Nat} {cvuLast : Tab (Option Tick)} {cvuStalled : List CvuWrite} {regs : Tab W32} {mem syn : Tab Byte} (h : Held s t)
    (hr : regsWf t.regs = true → regsWf regs = true) (hm : Memory.wf t.mem = true → Memory.wf mem = true)
    (hs : Tab.wf 0 t.syn = true → Tab.wf 0 syn = true) :
        Held s (State.mk t.pending t.frc free regs risen mem syn out tx streams cores absent wback sramScrub fwForce
      prevDom fusedMap cvuOld icuSvc icuHold wds dbgHalted fcGrp fcCls fcExt fcKnown fcLink fcMinute silent vecAt evid
      svcAccess latentAt dbgOpen cyc sio fwHold links ghUp bs areasOk plan bv fol bel tsm reqs ucmds collWait boot spareFw
      sec gk taps pcie cal pwr scanEnd svcEnd svcFrom clkBad rx t1s win once safeSince scopesAt pavClk uart injSrc convFlip
      t.tcm t.ghSyn roseAt cvuLast cvuStalled t.gkSram t.gkSyn) :=
  ⟨h.pending, h.frc, fun x => by
    have y := (State.inForm_iff t).1 (h.form x)
    exact (State.inForm_iff _).2 ⟨hm y.1, hs y.2.1, hr y.2.2.1, y.2.2.2⟩⟩


/-- A command on a unit that the part has answers its effect. -/
theorem onUnit_next {ok : Bool} {t : State} (h : ok = true) : onUnit ok t = .next t := by simp [onUnit, h]

/-- A command on a unit that the part has not faults. -/
theorem onUnit_fault {ok : Bool} {t : State} (h : ok = false) : onUnit ok t = .fault .noUnit := by simp [onUnit, h]

theorem Held.unit {ok : Bool} {s t u : State} (k : Held s u) (h : onUnit ok u = .next t) : Held s t := by
  cases ok
  · simp [onUnit] at h
  · rw [onUnit_next rfl] at h; cases h; exact k

theorem Held.next {s t u : State} (k : Held s u) (h : (.next u : Out) = .next t) : Held s t := by cases h; exact k

end Sys2Proof.Machine
end

