-- ==== Sys2Proof/Laws/HeldOps.lean ====
section
/-! SUPPORT. What each function of Ops.lean leaves alone: the queue, FRC and the canonical form. -/

namespace Sys2Proof.Machine

theorem State.setReg_held {b s : State} {a : Nat} {v : W32} (h : Held b s) : Held b (s.setReg a v) :=
  h.trans ⟨rfl, rfl, State.inForm_setReg s a v⟩
theorem State.setRegF_held {b : State} {s : State} {a : Nat} {lo : Nat} {n : Nat} {x : Nat} (h : Held b s) : Held b (State.setRegF s a lo n x) := State.setReg_held h
theorem State.countN_held {b : State} {s : State} {a : Nat} {n : Nat} (h : Held b s) : Held b (State.countN s a n) := State.setReg_held h
theorem State.count_held {b : State} {s : State} {a : Nat} (h : Held b s) : Held b (State.count s a) := State.countN_held h
theorem State.countWrap_held {b : State} {s : State} {a : Nat} {n : Nat} (h : Held b s) : Held b (State.countWrap s a n) := State.setReg_held h
theorem State.resetRegs_held {b s : State} {lo hi : Nat} {keep : Nat → Bool} (h : Held b s) : Held b (s.resetRegs lo hi keep) :=
  h.trans ⟨rfl, rfl, State.inForm_resetRegs s lo hi keep⟩
theorem State.rose_held {b : State} {s : State} {key : Nat} (h : Held b s) : Held b (State.rose s key) := h.trans ⟨rfl, rfl, id⟩
theorem State.setErr_held {o : State} {s : State} {page : Nat} {b : Nat} (h : Held o s) : Held o (State.setErr s page b) := by
  unfold State.setErr
  repeat' first
    | with_reducible assumption
    | (intro x; refine Held.via (s := o) x ?_ (fun _ => ?_); rotate_left; clear_value x; rotate_right)
    | (lift_lets; intro x; refine Held.via (s := o) x ?_ (fun _ => ?_); rotate_left; clear_value x; rotate_right)
    | with_reducible apply Held.ite
    | with_reducible apply State.setReg_held
    | with_reducible apply State.rose_held
    | unfold x
    | simp only [↓Held.mk_iff]
theorem State.setErrIf_held {o : State} {s : State} {c : Bool} {page : Nat} {b : Nat} (h : Held o s) : Held o (State.setErrIf s c page b) := by
  unfold State.setErrIf
  repeat' first
    | with_reducible assumption
    | with_reducible apply Held.ite
    | with_reducible apply State.setErr_held
theorem State.clearErr_held {o : State} {s : State} {page : Nat} {b : Nat} (h : Held o s) : Held o (State.clearErr s page b) := State.setReg_held h
theorem State.injTake_held {b : State} {s : State} {page : Nat} {c : Nat} (h : Held b s) : Held b (State.injTake s page c).2 := by
  unfold State.injTake
  repeat' first
    | with_reducible assumption
    | (lift_lets; intro x; clear_value x)
    | with_reducible apply Held.iteSnd
    | with_reducible apply State.setReg_held
theorem State.setErrBy_held {o : State} {s : State} {n : Nat} {page : Nat} {b : Nat} (h : Held o s) : Held o (State.setErrBy s n page b) := by
  unfold State.setErrBy
  repeat' first
    | with_reducible assumption
    | (lift_lets; intro x; refine Held.via (s := o) x ?_ (fun _ => ?_); rotate_left; clear_value x; rotate_right)
    | with_reducible apply Held.ite
    | with_reducible apply State.setErr_held
    | simp only [↓Held.mk_iff]
theorem State.draw_held {b : State} {s : State} (h : Held b s) : Held b (State.draw s).2 := h.trans ⟨rfl, rfl, id⟩
theorem State.drawNat_held {b : State} {s : State} (h : Held b s) : Held b (State.drawNat s).2 := h.trans ⟨rfl, rfl, id⟩
theorem State.emit_held {b : State} {s : State} {o : Output} (h : Held b s) : Held b (State.emit s o) := h.trans ⟨rfl, rfl, id⟩
theorem State.setByte_held {b s : State} {k : Nat} {y : Byte} (h : Held b s) : Held b (s.setByte k y) :=
  h.trans ⟨rfl, rfl, State.inForm_setByte s k y⟩
theorem State.setBytes_held {b : State} {s : State} {a2 : Nat} {a3 : List Byte} (h : Held b s) : Held b (State.setBytes s a2 a3) := by
  fun_induction State.setBytes s a2 a3 <;>
  repeat' first
    | with_reducible assumption
    | with_reducible apply State.setByte_held
    | with_reducible apply_assumption -exfalso -symm
theorem State.setSyn_held {b s : State} {k n : Nat} (h : Held b s) : Held b (s.setSyn k n) :=
  h.trans ⟨rfl, rfl, State.inForm_setSyn s k n⟩
theorem State.putW_held {b : State} {s : State} {k : Nat} {v : W32} (h : Held b s) : Held b (State.putW s k v) := by
  unfold State.putW
  repeat' first
    | with_reducible assumption
    | with_reducible apply State.setSyn_held
    | with_reducible apply State.setBytes_held

end Sys2Proof.Machine
end

