-- ==== Sys2Proof/Laws/HeldIcu.lean ====
section
/-! SUPPORT. What each function of Icu.lean leaves alone: the queue, FRC and the canonical form. -/

namespace Sys2Proof.Machine

theorem State.icuSet_held {o : State} {s : State} {i : Nat} {n : Nat} {b : Nat} {v : Bool} (h : Held o s) : Held o (State.icuSet s i n b v) := State.setReg_held h
theorem State.icuWake_held {b : State} {s : State} {i : Nat} {n : Nat} (h : Held b s) : Held b (State.icuWake s i n) := by
  unfold State.icuWake
  repeat' first
    | with_reducible assumption
    | with_reducible apply Held.ite
    | with_reducible apply State.setRegF_held
theorem State.icuEvent_held {b : State} {s : State} {i : Nat} {n : Nat} (h : Held b s) : Held b (State.icuEvent s i n) := by
  unfold State.icuEvent
  repeat' first
    | with_reducible assumption
    | with_reducible apply Held.ite
    | with_reducible apply State.icuSet_held
    | with_reducible apply State.icuWake_held
theorem State.icuLineTo_held {b : State} {s : State} {i : Nat} {n : Nat} {level : Bool} (h : Held b s) : Held b (State.icuLineTo s i n level) := by
  unfold State.icuLineTo
  repeat' first
    | with_reducible assumption
    | (intro x; refine Held.via (s := b) x ?_ (fun _ => ?_); rotate_left; clear_value x; rotate_right)
    | (intro x; clear_value x)
    | (lift_lets; intro x; clear_value x)
    | with_reducible apply Held.ite
    | with_reducible apply State.icuSet_held
    | with_reducible apply State.icuEvent_held
theorem State.icuPulse_held {b : State} {s : State} {i : Nat} {n : Nat} (h : Held b s) : Held b (State.icuPulse s i n) := by
  unfold State.icuPulse
  repeat' first
    | with_reducible assumption
    | with_reducible apply State.icuLineTo_held
theorem execIrqSourceEvent_held (i : Nat) (n : Nat) (level : Bool) (s : State) (z : State) (h : execIrqSourceEvent i n level s = .next z) : Held s z := Held.unit (State.icuLineTo_held (Held.refl _)) h
theorem icuClaim_held {b : State} {i : Nat} {t : Nat} {s : State} (h : Held b s) : Held b (icuClaim i t s) := by
  unfold icuClaim
  repeat' first
    | with_reducible assumption
    | (intro x; refine Held.via (s := b) x ?_ (fun _ => ?_); rotate_left; clear_value x; rotate_right)
    | (intro x; clear_value x)
    | (lift_lets; intro x; clear_value x)
    | with_reducible apply Held.ite
    | with_reducible apply State.setReg_held
    | with_reducible apply State.setRegF_held
    | with_reducible apply State.icuSet_held
    | unfold x
    | simp only [↓Held.mk_iff]
theorem execIcuClaim_held (i : Nat) (t : Nat) (s : State) (z : State) (h : execIcuClaim i t s = .next z) : Held s z := Held.unit (icuClaim_held (Held.refl _)) h
theorem State.icuEnd_held {b : State} {s : State} {i : Nat} {n : Nat} (h : Held b s) : Held b (State.icuEnd s i n) := by
  unfold State.icuEnd
  repeat' first
    | with_reducible assumption
    | (intro x; refine Held.via (s := b) x ?_ (fun _ => ?_); rotate_left; clear_value x; rotate_right)
    | (lift_lets; intro x; refine Held.via (s := b) x ?_ (fun _ => ?_); rotate_left; clear_value x; rotate_right)
    | with_reducible apply Held.ite
    | with_reducible apply State.setRegF_held
    | with_reducible apply State.icuSet_held
    | with_reducible apply State.icuWake_held
    | unfold x
    | simp only [↓Held.mk_iff]
theorem icuComplete_held {b : State} {w : Writer} {i : Nat} {t : Nat} {v : W32} {s : State} (h : Held b s) : Held b (icuComplete w i t v s) := by
  unfold icuComplete
  repeat' first
    | with_reducible assumption
    | (lift_lets; intro x; clear_value x)
    | with_reducible apply Held.ite
    | with_reducible apply State.icuEnd_held
    | with_reducible apply State.setErr_held
theorem execIcuComplete_held (w : Writer) (i : Nat) (t : Nat) (v : W32) (s : State) (z : State) (h : execIcuComplete w i t v s = .next z) : Held s z := Held.unit (icuComplete_held (Held.refl _)) h
theorem State.icuTargetReset_held {b : State} {s : State} {i : Nat} {t : Nat} (h : Held b s) : Held b (State.icuTargetReset s i t) := by
  unfold State.icuTargetReset
  repeat' first
    | with_reducible assumption
    | with_reducible refine Held.foldl ?_ (fun u x _ => ?_)
    | with_reducible apply State.icuEnd_held
theorem moderationEnd_held {b : State} {i : Nat} {n : Nat} {s : State} (h : Held b s) : Held b (moderationEnd i n s) := by
  unfold moderationEnd
  repeat' first
    | with_reducible assumption
    | (lift_lets; intro x; refine Held.via (s := b) x ?_ (fun _ => ?_); rotate_left; clear_value x; rotate_right)
    | with_reducible apply Held.ite
    | with_reducible apply State.icuSet_held
    | simp only [↓Held.mk_iff]
theorem execIrqModerationEnd_held (i : Nat) (n : Nat) (s : State) (z : State) (h : execIrqModerationEnd i n s = .next z) : Held s z := Held.unit (moderationEnd_held (Held.refl _)) h
theorem icuGctrl_held {b : State} {w : Writer} {i : Nat} {v : W32} {s : State} (h : Held b s) : Held b (icuGctrl w i v s) := by
  unfold icuGctrl
  repeat' first
    | with_reducible assumption
    | with_reducible apply Held.ite
    | with_reducible apply State.setReg_held
theorem execIcuGctrlWrite_held (w : Writer) (i : Nat) (v : W32) (s : State) (z : State) (h : execIcuGctrlWrite w i v s = .next z) : Held s z := Held.unit (icuGctrl_held (Held.refl _)) h
theorem State.icuCfgWrite_held {b : State} {s : State} {w : Writer} {i : Nat} {n : Nat} {v : W32} (h : Held b s) : Held b (State.icuCfgWrite s w i n v) := by
  unfold State.icuCfgWrite
  repeat' first
    | with_reducible assumption
    | (intro x; refine Held.via (s := b) x ?_ (fun _ => ?_); rotate_left; clear_value x; rotate_right)
    | (intro x; clear_value x)
    | (lift_lets; intro x; clear_value x)
    | with_reducible apply Held.ite
    | with_reducible apply State.setReg_held
    | with_reducible apply State.icuWake_held
    | with_reducible apply State.drawNat_held
    | with_reducible apply State.icuSet_held
    | simp only [↓Held.mk_iff]
theorem State.icuOverClr_held {b : State} {s : State} {w : Writer} {i : Nat} {wd : Nat} {v : W32} (h : Held b s) : Held b (State.icuOverClr s w i wd v) := by
  unfold State.icuOverClr
  repeat' first
    | with_reducible assumption
    | with_reducible apply Held.ite
    | with_reducible refine Held.foldl ?_ (fun u x _ => ?_)
    | with_reducible apply State.icuSet_held

end Sys2Proof.Machine
end

