-- ==== Sys2Proof/Laws/HeldMessages.lean ====
section
/-! SUPPORT. What each function of Messages.lean leaves alone: the queue, FRC and the canonical form. -/

namespace Sys2Proof.Machine

theorem State.sendMsg_held {b : State} {s : State} {src : BitVec 16} {dst : BitVec 16} {type : Nat} {payload : List Byte} (h : Held b s) : Held b (State.sendMsg s src dst type payload) := by
  unfold State.sendMsg
  repeat' first
    | with_reducible assumption
    | (intro x; clear_value x)
    | (lift_lets; intro x; clear_value x)
    | with_reducible apply State.emit_held
    | simp only [↓Held.mk_iff]
theorem State.sendXfer_held {b : State} {s : State} {src : BitVec 16} {dst : BitVec 16} {type : Nat} {fuel : Nat} {payload : List Byte} (h : Held b s) : Held b (State.sendXfer s src dst type fuel payload) := by
  fun_induction State.sendXfer s src dst type fuel payload <;>
  repeat' first
    | with_reducible assumption
    | with_reducible apply State.emit_held
    | with_reducible apply_assumption -exfalso -symm
    | simp only [↓Held.mk_iff]
theorem State.setStream_held {b : State} {s : State} {r : Nat} {src : BitVec 16} {p : PmStream} (h : Held b s) : Held b (State.setStream s r src p) := h.trans ⟨rfl, rfl, id⟩
theorem State.pmBad_held {b : State} {s : State} {r : Nat} {src : Nat} {type : Nat} {cause : Nat} (h : Held b s) : Held b (State.pmBad s r src type cause) := by
  unfold State.pmBad
  repeat' first
    | with_reducible assumption
    | (lift_lets; intro x; clear_value x)
    | with_reducible apply Held.ite
    | with_reducible apply State.setReg_held
theorem State.xferDrop_held {b : State} {s : State} {r : Nat} {p : PmStream} (h : Held b s) : Held b (State.xferDrop s r p).2 := by
  unfold State.xferDrop
  repeat' first
    | with_reducible assumption
    | with_reducible apply Held.iteSnd
    | with_reducible apply State.count_held
theorem State.xferStep_held {b : State} {s : State} {r : Nat} {p : PmStream} {m : PMsg} {broken : Bool} (h : Held b s) : Held b (State.xferStep s r p m broken).2.2 := by
  unfold State.xferStep
  repeat' first
    | with_reducible assumption
    | with_reducible apply Held.iteSnd
    | with_reducible apply Held.iteSnd2
    | with_reducible apply State.xferDrop_held
theorem State.pmReceive_held {b : State} {s : State} {r : Nat} {ok : Bool} {m : PMsg} (h : Held b s) : Held b (State.pmReceive s r ok m).2 := by
  unfold State.pmReceive
  repeat' first
    | with_reducible assumption
    | (intro x; refine Held.via (s := b) x ?_ (fun _ => ?_); rotate_left; clear_value x; rotate_right)
    | (intro x; clear_value x)
    | (lift_lets; intro x; clear_value x)
    | with_reducible apply Held.ite
    | with_reducible apply Held.iteSnd
    | with_reducible apply State.pmBad_held
    | with_reducible apply State.count_held
    | with_reducible apply State.xferDrop_held
    | with_reducible apply State.setStream_held
    | with_reducible apply State.countN_held
    | with_reducible apply State.xferStep_held
theorem State.clearStreams_held {b : State} {s : State} {r : Nat} (h : Held b s) : Held b (State.clearStreams s r) := h.trans ⟨rfl, rfl, id⟩
theorem State.streamTimeout_held {b : State} {s : State} {r : Nat} {src : BitVec 16} {timeout : Tick} (h : Held b s) : Held b (State.streamTimeout s r src timeout).2 := by
  unfold State.streamTimeout
  repeat' first
    | with_reducible assumption
    | (intro x; refine Held.via (s := b) x ?_ (fun _ => ?_); rotate_left; clear_value x; rotate_right)
    | (lift_lets; intro x; clear_value x)
    | with_reducible apply Held.iteSnd
    | with_reducible apply State.count_held
    | with_reducible apply State.xferDrop_held
    | with_reducible apply State.setStream_held

end Sys2Proof.Machine
end

