-- ==== Sys2Proof/Laws/HeldCollector.lean ====
section
/-! SUPPORT. What each function of Collector.lean leaves alone: the queue, FRC and the canonical form. -/

namespace Sys2Proof.Machine

theorem State.fcLatch_held {b : State} {s : State} {g : Nat} {v : Bool} (h : Held b s) : Held b (State.fcLatch s g v) := by
  unfold State.fcLatch
  repeat' first
    | with_reducible assumption
    | (lift_lets; intro x; clear_value x)
    | with_reducible apply State.setReg_held
theorem State.setFcClass_held {b : State} {s : State} {k : Nat} {c : FcCls} (h : Held b s) : Held b (State.setFcClass s k c) := h.trans ⟨rfl, rfl, id⟩
theorem State.withFalls_held {b : State} {s : State} {t : State} (h : Held b t) : Held b (State.withFalls s t) := by
  unfold State.withFalls
  repeat' first
    | with_reducible assumption
    | (lift_lets; intro x; clear_value x)
    | with_reducible apply Held.ite
    | with_reducible refine Held.foldl ?_ (fun u x _ => ?_)
    | with_reducible apply State.setFcClass_held
theorem State.extHigh_held {b : State} {s : State} {key : Nat} {on : Bool} (h : Held b s) : Held b (State.extHigh s key on) := by
  unfold State.extHigh
  repeat' first
    | with_reducible assumption
    | (lift_lets; intro x; refine Held.via (s := b) x ?_ (fun _ => ?_); rotate_left; clear_value x; rotate_right)
    | with_reducible apply Held.ite
    | with_reducible apply State.rose_held
    | unfold x
    | simp only [↓Held.mk_iff]
theorem State.evidence_held {b : State} {s : State} {k : EvKind} (h : Held b s) : Held b (State.evidence s k) := h.trans ⟨rfl, rfl, id⟩
theorem State.fcClear_held {b : State} {s : State} {k : Nat} (h : Held b s) : Held b (State.fcClear s k) := by
  unfold State.fcClear
  repeat' first
    | with_reducible assumption
    | (intro x; refine Held.via (s := b) x ?_ (fun _ => ?_); rotate_left; clear_value x; rotate_right)
    | (lift_lets; intro x; refine Held.via (s := b) x ?_ (fun _ => ?_); rotate_left; clear_value x; rotate_right)
    | with_reducible apply Held.ite
    | with_reducible refine Held.foldl ?_ (fun u x _ => ?_)
    | with_reducible apply State.fcLatch_held
    | with_reducible apply State.setRegF_held
    | with_reducible apply State.icuPulse_held
    | with_reducible apply State.evidence_held
    | simp only [↓Held.mk_iff]
theorem State.fcQuiet_held {b : State} {s : State} {k : Nat} (h : Held b s) : Held b (State.fcQuiet s k) := by
  unfold State.fcQuiet
  repeat' first
    | with_reducible assumption
    | (intro x; refine Held.via (s := b) x ?_ (fun _ => ?_); rotate_left; clear_value x; rotate_right)
    | (intro x; clear_value x)
    | (lift_lets; intro x; clear_value x)
    | with_reducible apply Held.ite
    | with_reducible apply State.icuPulse_held
    | with_reducible apply State.setRegF_held
    | with_reducible apply State.setFcClass_held
    | with_reducible apply State.fcClear_held
    | with_reducible apply State.count_held
theorem State.faultNote_held {b : State} {s : State} {g : Nat} {lvl : Nat} (h : Held b s) : Held b (State.faultNote s g lvl) := State.sendMsg_held h
theorem State.fcEvent_held {b : State} {s : State} {g : Nat} {src : Option (Nat × Nat)} {injected : Bool} {forced : Bool} {loc : Option Loc} (h : Held b s) : Held b (State.fcEvent s g src injected forced loc) := by
  unfold State.fcEvent
  repeat' first
    | with_reducible assumption
    | (intro x; refine Held.via (s := b) x ?_ (fun _ => ?_); rotate_left; clear_value x; rotate_right)
    | (intro x; clear_value x)
    | (lift_lets; intro x; clear_value x)
    | with_reducible apply Held.ite
    | with_reducible refine Held.foldl ?_ (fun u x _ => ?_)
    | with_reducible apply State.fcQuiet_held
    | with_reducible apply State.fcLatch_held
    | with_reducible apply State.setFcClass_held
    | with_reducible apply State.count_held
    | with_reducible apply State.countN_held
    | with_reducible apply State.setRegF_held
    | with_reducible apply State.evidence_held
    | with_reducible apply State.faultNote_held
    | with_reducible apply State.icuPulse_held
    | unfold x
    | simp only [↓Held.mk_iff]
    | split
theorem State.fcLatchSrc_held {o : State} {s : State} {page : Nat} {b : Nat} {injected : Bool} (h : Held o s) : Held o (State.fcLatchSrc s page b injected) := by
  unfold State.fcLatchSrc
  repeat' first
    | with_reducible assumption
    | (intro x; refine Held.via (s := o) x ?_ (fun _ => ?_); rotate_left; clear_value x; rotate_right)
    | (lift_lets; intro x; clear_value x)
    | with_reducible apply Held.ite
    | with_reducible apply State.fcEvent_held
    | simp only [↓Held.mk_iff]
    | split
theorem sourceRise_held {o : State} {page : Nat} {b : Nat} {injected : Bool} {s : State} (h : Held o s) : Held o (sourceRise page b injected s) := by
  unfold sourceRise
  repeat' first
    | with_reducible assumption
    | (intro x; refine Held.via (s := o) x ?_ (fun _ => ?_); rotate_left; clear_value x; rotate_right)
    | (lift_lets; intro x; clear_value x)
    | with_reducible apply Held.ite
    | with_reducible apply State.fcEvent_held
    | with_reducible apply State.setErrBy_held
    | with_reducible apply State.injTake_held
    | with_reducible apply State.setErr_held
    | with_reducible apply State.fcLatchSrc_held
    | with_reducible apply State.sendMsg_held
    | unfold x
    | simp only [↓Held.mk_iff]
theorem execSourceRise_held (page : Nat) (b : Nat) (injected : Bool) (s : State) (z : State) (h : execSourceRise page b injected s = .next z) : Held s z := Held.unit (sourceRise_held (Held.refl _)) h
theorem State.msgIrq_held {b : State} {s : State} {r : Nat} (h : Held b s) : Held b (State.msgIrq s r) := by
  unfold State.msgIrq
  repeat' first
    | with_reducible assumption
    | with_reducible apply Held.ite
    | with_reducible apply State.icuPulse_held
theorem State.recv_held {b : State} {s : State} {r : Nat} {ok : Bool} {m : PMsg} (h : Held b s) : Held b (State.recv s r ok m).2 := by
  unfold State.recv
  repeat' first
    | with_reducible assumption
    | (lift_lets; intro x; clear_value x)
    | with_reducible apply Held.ite
    | with_reducible apply Held.iteSnd
    | with_reducible apply State.pmReceive_held
    | with_reducible apply State.msgIrq_held
    | with_reducible apply State.withFalls_held
    | with_reducible apply State.extHigh_held
    | simp only [↓Held.mk_iff]
theorem State.known_held {b : State} {s : State} {es : List (Nat × Nat)} (h : Held b s) : Held b (State.known s es) := by
  unfold State.known
  repeat' first
    | with_reducible assumption
    | (lift_lets; intro x; refine Held.via (s := b) x ?_ (fun _ => ?_); rotate_left; clear_value x; rotate_right)
    | with_reducible apply Held.ite
    | with_reducible refine Held.foldl ?_ (fun u x _ => ?_)
    | with_reducible apply State.rose_held
    | simp only [↓Held.mk_iff]
theorem errReportRx_held {b : State} {link : Nat} {dom : Domain} {m : PMsg} {s : State} (h : Held b s) : Held b (errReportRx link dom m s) := by
  unfold errReportRx
  repeat' first
    | with_reducible assumption
    | with_reducible apply Held.ite
    | with_reducible apply State.recv_held
    | with_reducible apply State.fcLatchSrc_held
    | with_reducible apply State.known_held
    | simp only [↓Held.mk_iff]
    | split
theorem execErrReport_held (link : Nat) (dom : Domain) (m : PMsg) (s : State) (z : State) (h : execErrReport link dom m s = .next z) : Held s z := Held.unit (errReportRx_held (Held.refl _)) h
theorem srcVectorRx_held {b : State} {link : Nat} {dom : Domain} {m : PMsg} {s : State} (h : Held b s) : Held b (srcVectorRx link dom m s) := by
  unfold srcVectorRx
  repeat' first
    | with_reducible assumption
    | with_reducible apply Held.ite
    | with_reducible refine Held.foldl ?_ (fun u x _ => ?_)
    | with_reducible apply State.recv_held
    | with_reducible apply State.withFalls_held
    | with_reducible apply State.fcLatchSrc_held
    | with_reducible apply State.count_held
    | with_reducible apply State.known_held
    | simp only [↓Held.mk_iff]
    | split
theorem execSrcVector_held (link : Nat) (dom : Domain) (m : PMsg) (s : State) (z : State) (h : execSrcVector link dom m s = .next z) : Held s z := Held.unit (srcVectorRx_held (Held.refl _)) h
theorem srcVectorSend_held {b : State} {die : Nat} {s : State} (h : Held b s) : Held b (srcVectorSend die s) := by
  unfold srcVectorSend
  repeat' first
    | with_reducible assumption
    | (intro x; refine Held.via (s := b) x ?_ (fun _ => ?_); rotate_left; clear_value x; rotate_right)
    | (intro x; clear_value x)
    | (lift_lets; intro x; clear_value x)
    | with_reducible apply Held.ite
    | with_reducible apply State.sendXfer_held
    | simp only [↓Held.mk_iff]
theorem execSrcVectorPeriod_held (die : Nat) (s : State) (z : State) (h : execSrcVectorPeriod die s = .next z) : Held s z := Held.unit (srcVectorSend_held (Held.refl _)) h
theorem concSilence_held {b : State} {r : Nat} {s : State} (h : Held b s) : Held b (concSilence r s) := by
  unfold concSilence
  repeat' first
    | with_reducible assumption
    | (intro x; refine Held.via (s := b) x ?_ (fun _ => ?_); rotate_left; clear_value x; rotate_right)
    | (intro x; clear_value x)
    | (lift_lets; intro x; clear_value x)
    | with_reducible apply Held.ite
    | with_reducible apply State.extHigh_held
    | with_reducible apply State.fcLatchSrc_held
    | simp only [↓Held.mk_iff]
    | split
theorem execConcentratorSilence_held (r : Nat) (s : State) (z : State) (h : execConcentratorSilence r s = .next z) : Held s z := Held.unit (concSilence_held (Held.refl _)) h
theorem execQuietPeriodExpiry_held (k : Nat) (s : State) (z : State) (h : execQuietPeriodExpiry k s = .next z) : Held s z := Held.unit (State.fcQuiet_held (Held.refl _)) h
theorem hourlyAdvance_held {b : State} {s : State} (h : Held b s) : Held b (hourlyAdvance s) := by
  unfold hourlyAdvance
  repeat' first
    | with_reducible assumption
    | (intro x; refine Held.via (s := b) x ?_ (fun _ => ?_); rotate_left; clear_value x; rotate_right)
    | (intro x; clear_value x)
    | (lift_lets; intro x; clear_value x)
    | with_reducible apply Held.ite
    | with_reducible refine Held.foldl ?_ (fun u x _ => ?_)
    | with_reducible apply State.setFcClass_held
    | with_reducible apply State.setRegF_held
    | simp only [↓Held.mk_iff]
theorem execHourlyWindowAdvance_held (s : State) (z : State) (h : execHourlyWindowAdvance s = .next z) : Held s z := Held.next (hourlyAdvance_held (Held.refl _)) h
theorem State.fcAckClass_held {b : State} {s : State} {k : Nat} (h : Held b s) : Held b (State.fcAckClass s k) := by
  unfold State.fcAckClass
  repeat' first
    | with_reducible assumption
    | (lift_lets; intro x; refine Held.via (s := b) x ?_ (fun _ => ?_); rotate_left; clear_value x; rotate_right)
    | with_reducible apply Held.ite
    | with_reducible apply State.fcQuiet_held
    | with_reducible apply State.setRegF_held
    | with_reducible apply State.fcClear_held
theorem State.fcAck_held {b : State} {s : State} {v : Nat} (h : Held b s) : Held b (State.fcAck s v) := by
  unfold State.fcAck
  repeat' first
    | with_reducible assumption
    | with_reducible refine Held.foldl ?_ (fun u x _ => ?_)
    | with_reducible apply State.fcAckClass_held
theorem fcAckWrite_held {b : State} {w : Writer} {v : W32} {s : State} (h : Held b s) : Held b (fcAckWrite w v s) := by
  unfold fcAckWrite
  repeat' first
    | with_reducible assumption
    | with_reducible apply Held.ite
    | with_reducible apply State.fcAck_held
theorem execFcAck_held (w : Writer) (v : W32) (s : State) (z : State) (h : execFcAck w v s = .next z) : Held s z := Held.next (fcAckWrite_held (Held.refl _)) h
theorem State.fcForce_held {b : State} {s : State} {v : W32} (h : Held b s) : Held b (State.fcForce s v) := by
  unfold State.fcForce
  repeat' first
    | with_reducible assumption
    | with_reducible apply Held.ite
    | with_reducible apply State.fcEvent_held
    | with_reducible apply State.setErr_held
theorem fcForceWrite_held {b : State} {w : Writer} {v : W32} {s : State} (h : Held b s) : Held b (fcForceWrite w v s) := by
  unfold fcForceWrite
  repeat' first
    | with_reducible assumption
    | with_reducible apply Held.ite
    | with_reducible apply State.fcForce_held
theorem execFcForce_held (w : Writer) (v : W32) (s : State) (z : State) (h : execFcForce w v s = .next z) : Held s z := Held.next (fcForceWrite_held (Held.refl _)) h
theorem faultForce_held {b : State} {m : PMsg} {s : State} (h : Held b s) : Held b (faultForce m s) := by
  unfold faultForce
  repeat' first
    | with_reducible assumption
    | with_reducible apply State.recv_held
    | with_reducible apply State.fcForce_held
    | simp only [↓Held.mk_iff]
    | split
theorem execFaultForce_held (m : PMsg) (s : State) (z : State) (h : execFaultForce m s = .next z) : Held s z := Held.next (faultForce_held (Held.refl _)) h
theorem State.setErrMask_held {b : State} {s : State} {page : Nat} {v : W32} (h : Held b s) : Held b (State.setErrMask s page v) := by
  unfold State.setErrMask
  repeat' first
    | with_reducible assumption
    | (intro x; refine Held.via (s := b) x ?_ (fun _ => ?_); rotate_left; clear_value x; rotate_right)
    | (intro x; clear_value x)
    | (lift_lets; intro x; clear_value x)
    | with_reducible refine Held.foldl ?_ (fun u x _ => ?_)
    | with_reducible apply State.setReg_held
    | with_reducible apply State.withFalls_held
    | with_reducible apply State.rose_held
    | unfold x
    | simp only [↓Held.mk_iff]
theorem State.blkErrClear_held {b : State} {s : State} {page : Nat} {v : W32} (h : Held b s) : Held b (State.blkErrClear s page v) := by
  unfold State.blkErrClear
  repeat' first
    | with_reducible assumption
    | (intro x; refine Held.via (s := b) x ?_ (fun _ => ?_); rotate_left; clear_value x; rotate_right)
    | (intro x; clear_value x)
    | (lift_lets; intro x; clear_value x)
    | with_reducible apply State.setReg_held
    | with_reducible apply State.withFalls_held

end Sys2Proof.Machine
end

