-- ==== Sys2Proof/Laws/HeldFirewall.lean ====
section
/-! SUPPORT. What each function of Firewall.lean leaves alone: the queue, FRC and the canonical form. -/

namespace Sys2Proof.Machine

theorem State.domainSet_held {b : State} {s : State} {d : Domain} {v : Nat} {u : UnitId} (h : Held b s) : Held b (State.domainSet s d v u) := by
  unfold State.domainSet
  repeat' first
    | with_reducible assumption
    | (lift_lets; intro x; clear_value x)
    | with_reducible apply Held.ite
    | with_reducible apply State.setReg_held
theorem State.writeDomain_held {b : State} {s : State} {d : Domain} {u : UnitId} {v : Nat} (h : Held b s) : Held b (State.writeDomain s d u v) := by
  unfold State.writeDomain
  repeat' first
    | with_reducible assumption
    | with_reducible refine Held.foldl ?_ (fun u x _ => ?_)
    | with_reducible apply State.domainSet_held
theorem blkDomainWrite_held {b : State} {w : Writer} {u : UnitId} {v : W32} {s : State} (h : Held b s) : Held b (blkDomainWrite w u v s) := State.writeDomain_held h
theorem execBlkDomainWrite_held (w : Writer) (u : UnitId) (v : W32) (s : State) (z : State) (h : execBlkDomainWrite w u v s = .next z) : Held s z := Held.unit (blkDomainWrite_held (Held.refl _)) h
theorem State.fwRefuse_held {b : State} {s : State} {i : Nat} {d : Domain} {src : BitVec 16} {write : Bool} {spec : Bool} {a : Nat} (h : Held b s) : Held b (State.fwRefuse s i d src write spec a) := by
  unfold State.fwRefuse
  repeat' first
    | with_reducible assumption
    | (intro x; refine Held.via (s := b) x ?_ (fun _ => ?_); rotate_left; clear_value x; rotate_right)
    | (lift_lets; intro x; clear_value x)
    | with_reducible apply Held.ite
    | with_reducible apply State.count_held
    | with_reducible apply State.setReg_held
    | with_reducible apply State.setErr_held
theorem fwCtrlWrite_held {b : State} {w : Writer} {i : Nat} {win : Nat} {v : W32} {s : State} (h : Held b s) : Held b (fwCtrlWrite w i win v s) := by
  unfold fwCtrlWrite
  repeat' first
    | with_reducible assumption
    | (intro x; refine Held.via (s := b) x ?_ (fun _ => ?_); rotate_left; clear_value x; rotate_right)
    | (intro x; clear_value x)
    | (lift_lets; intro x; clear_value x)
    | with_reducible apply Held.ite
    | with_reducible apply State.setReg_held
    | simp only [↓Held.mk_iff]
theorem execFwWindowCtrlWrite_held (w : Writer) (i : Nat) (win : Nat) (v : W32) (s : State) (z : State) (h : execFwWindowCtrlWrite w i win v s = .next z) : Held s z := Held.unit (fwCtrlWrite_held (Held.refl _)) h
theorem State.fwPut_held {b : State} {s : State} {i : Nat} {w : Nat} {lo : Nat} {hi : Nat} {dmatch : Nat} {dmask : Nat} {ctrl : Nat} (h : Held b s) : Held b (State.fwPut s i w lo hi dmatch dmask ctrl) := by
  unfold State.fwPut
  repeat' first
    | with_reducible assumption
    | (intro x; refine Held.via (s := b) x ?_ (fun _ => ?_); rotate_left; clear_value x; rotate_right)
    | (intro x; clear_value x)
    | (lift_lets; intro x; clear_value x)
    | with_reducible apply State.setReg_held
    | simp only [↓Held.mk_iff]
theorem fwLogClr_held {b : State} {w : Writer} {i : Nat} {v : W32} {s : State} (h : Held b s) : Held b (fwLogClr w i v s) := by
  unfold fwLogClr
  repeat' first
    | with_reducible assumption
    | with_reducible apply Held.ite
    | with_reducible apply State.setReg_held
theorem execFwLogClr_held (w : Writer) (i : Nat) (v : W32) (s : State) (z : State) (h : execFwLogClr w i v s = .next z) : Held s z := Held.unit (fwLogClr_held (Held.refl _)) h

end Sys2Proof.Machine
end

