-- ==== Sys2Proof/Laws/HeldOperands.lean ====
section
/-! SUPPORT. What each function of Operands.lean leaves alone: the queue, FRC and the canonical form. -/

namespace Sys2Proof.Machine

theorem State.setCore_held {b : State} {s : State} {u : UnitId} {c : CoreSt} (h : Held b s) : Held b (State.setCore s u c) := h.trans ⟨rfl, rfl, id⟩
theorem State.clkSettle_held {b : State} {s : State} (h : Held b s) : Held b (State.clkSettle s) := h.trans ⟨rfl, rfl, id⟩
theorem State.trap_held {b : State} {s : State} {u : UnitId} {cause : Nat} {tval : W32} (h : Held b s) : Held b (State.trap s u cause tval) := by
  unfold State.trap
  repeat' first
    | with_reducible assumption
    | with_reducible apply State.setReg_held
    | with_reducible apply State.setCore_held
theorem State.illegal_held {b : State} {s : State} {u : UnitId} {word : W32} (h : Held b s) : Held b (State.illegal s u word) := by
  unfold State.illegal
  repeat' first
    | with_reducible assumption
    | with_reducible apply State.trap_held
    | with_reducible apply State.setErr_held
theorem State.coreCe_held {b : State} {s : State} {u : UnitId} {n : Nat} (h : Held b s) : Held b (State.coreCe s u n) := by
  unfold State.coreCe
  repeat' first
    | with_reducible assumption
    | (lift_lets; intro x; refine Held.via (s := b) x ?_ (fun _ => ?_); rotate_left; clear_value x; rotate_right)
    | with_reducible apply Held.ite
    | with_reducible apply State.count_held
    | with_reducible apply State.setErrBy_held
theorem State.spReadW_held {b : State} {s : State} {u : UnitId} {off : Nat} (h : Held b s) : Held b (State.spReadW s u off).2 := by
  unfold State.spReadW
  repeat' first
    | with_reducible assumption
    | (intro x; clear_value x)
    | (lift_lets; intro x; clear_value x)
    | with_reducible apply State.injTake_held
    | with_reducible apply State.coreCe_held
    | with_reducible apply State.putW_held
    | with_reducible apply State.setErrBy_held
    | simp only [↓Held.mk_iff]
    | split
theorem State.spReadWs_held {b : State} {s : State} {u : UnitId} {a3 : Nat} {a4 : Nat} (h : Held b s) : Held b (State.spReadWs s u a3 a4).2 := by
  fun_induction State.spReadWs s u a3 a4 <;>
  repeat' first
    | with_reducible assumption
    | with_reducible apply State.spReadW_held
    | with_reducible apply_assumption -exfalso -symm
    | simp only [↓Held.mk_iff]
    | with_reducible refine Held.snd (by with_reducible assumption) ?_
theorem State.spRead_held {b : State} {s : State} {u : UnitId} {off : Nat} {n : Nat} (h : Held b s) : Held b (State.spRead s u off n).2 := by
  unfold State.spRead
  repeat' first
    | with_reducible assumption
    | (lift_lets; intro x; clear_value x)
    | with_reducible apply State.spReadWs_held
theorem State.spWriteW_held {b : State} {s : State} {u : UnitId} {off : Nat} {v : W32} (h : Held b s) : Held b (State.spWriteW s u off v) := State.putW_held h
theorem State.spWriteB_held {o : State} {s : State} {u : UnitId} {off : Nat} {b : Byte} (h : Held o s) : Held o (State.spWriteB s u off b) := by
  unfold State.spWriteB
  repeat' first
    | with_reducible assumption
    | with_reducible apply Held.ite
    | with_reducible apply State.spReadW_held
    | with_reducible apply State.setByte_held
    | with_reducible apply State.setSyn_held
theorem State.spWrite_held {b : State} {s : State} {u : UnitId} {a3 : Nat} {a4 : List Byte} (h : Held b s) : Held b (State.spWrite s u a3 a4) := by
  fun_induction State.spWrite s u a3 a4 <;>
  repeat' first
    | with_reducible assumption
    | with_reducible apply State.spWriteW_held
    | with_reducible apply State.spWriteB_held
    | with_reducible apply_assumption -exfalso -symm

end Sys2Proof.Machine
end

