-- ==== Sys2Proof/Laws/HeldMemory.lean ====
section
/-! SUPPORT. What each function of Memory.lean leaves alone: the queue, FRC and the canonical form. -/

namespace Sys2Proof.Machine

theorem State.mcLog_held {b : State} {s : State} {d : Nat} {a : Nat} {scrub : Bool} {adr : Bool} {conv : Bool} (h : Held b s) : Held b (State.mcLog s d a scrub adr conv) := by
  unfold State.mcLog
  repeat' first
    | with_reducible assumption
    | with_reducible apply Held.ite
    | with_reducible apply State.setReg_held
theorem State.mcCe_held {b : State} {s : State} {d : Nat} {n : Nat} (h : Held b s) : Held b (State.mcCe s d n) := by
  unfold State.mcCe
  repeat' first
    | with_reducible assumption
    | (lift_lets; intro x; refine Held.via (s := b) x ?_ (fun _ => ?_); rotate_left; clear_value x; rotate_right)
    | with_reducible apply Held.ite
    | with_reducible apply State.count_held
    | with_reducible apply State.setErrBy_held
theorem State.dramDecode_held {b : State} {s : State} {d : Nat} {a : Nat} {scrub : Bool} (h : Held b s) : Held b (State.dramDecode s d a scrub).2 := by
  unfold State.dramDecode
  repeat' first
    | with_reducible assumption
    | (lift_lets; intro x; clear_value x)
    | with_reducible apply Held.iteSnd
    | with_reducible apply State.injTake_held
    | with_reducible apply State.count_held
    | with_reducible apply State.mcLog_held
    | with_reducible apply State.setErrBy_held
    | with_reducible apply State.mcCe_held
    | with_reducible apply State.setSyn_held
    | with_reducible apply State.setBytes_held
    | simp only [↓Held.mk_iff]
    | split
theorem State.dramReadD_held {b : State} {s : State} {d : Nat} {a : Nat} {scrub : Bool} (h : Held b s) : Held b (State.dramReadD s d a scrub).2 := by
  unfold State.dramReadD
  repeat' first
    | with_reducible assumption
    | with_reducible apply Held.iteSnd
    | with_reducible apply State.dramDecode_held
    | with_reducible apply State.mcLog_held
    | with_reducible apply State.setErr_held
    | simp only [↓Held.mk_iff]
    | split
theorem State.dramReadDs_held {b : State} {s : State} {d : Nat} {scrub : Bool} {a4 : Nat} {a5 : Nat} (h : Held b s) : Held b (State.dramReadDs s d scrub a4 a5).2 := by
  fun_induction State.dramReadDs s d scrub a4 a5 <;>
  repeat' first
    | with_reducible assumption
    | with_reducible apply State.dramReadD_held
    | with_reducible apply_assumption -exfalso -symm
    | simp only [↓Held.mk_iff]
    | with_reducible refine Held.snd (by with_reducible assumption) ?_
theorem State.dramPut_held {b : State} {s : State} {d : Nat} {a : Nat} {v : W64} {poison : Bool} (h : Held b s) : Held b (State.dramPut s d a v poison) := by
  unfold State.dramPut
  repeat' first
    | with_reducible assumption
    | (lift_lets; intro x; refine Held.via (s := b) x ?_ (fun _ => ?_); rotate_left; clear_value x; rotate_right)
    | with_reducible apply State.setSyn_held
    | with_reducible apply State.setBytes_held
    | simp only [↓Held.mk_iff]
theorem State.dramWriteD_held {b : State} {s : State} {d : Nat} {a : Nat} {lo : Option W32} {hi : Option W32} {be : Nat} (h : Held b s) : Held b (State.dramWriteD s d a lo hi be).2 := by
  unfold State.dramWriteD
  repeat' first
    | with_reducible assumption
    | (intro x; clear_value x)
    | (lift_lets; intro x; clear_value x)
    | with_reducible apply Held.ite
    | with_reducible apply Held.iteSnd
    | with_reducible apply State.setErr_held
    | with_reducible apply State.dramPut_held
    | with_reducible apply State.dramDecode_held
theorem State.dramWriteDs_held {b : State} {s : State} {d : Nat} {a3 : Nat} {a4 : List (Option W32)} {a5 : Nat} (h : Held b s) : Held b (State.dramWriteDs s d a3 a4 a5).2 := by
  fun_induction State.dramWriteDs s d a3 a4 a5 <;>
  repeat' first
    | with_reducible assumption
    | with_reducible apply State.dramWriteD_held
    | with_reducible apply_assumption -exfalso -symm
    | simp only [↓Held.mk_iff]
    | with_reducible refine Held.snd (by with_reducible assumption) ?_
theorem State.sramReadW_held {b : State} {s : State} {u : UnitId} {off : Nat} (h : Held b s) : Held b (State.sramReadW s u off).2 := by
  unfold State.sramReadW
  repeat' first
    | with_reducible assumption
    | (intro x; clear_value x)
    | (lift_lets; intro x; clear_value x)
    | with_reducible apply State.injTake_held
    | with_reducible apply State.setErrBy_held
    | with_reducible apply State.putW_held
    | simp only [↓Held.mk_iff]
    | split
theorem State.anyReadW_held {b : State} {s : State} {u : UnitId} {off : Nat} (h : Held b s) : Held b (State.anyReadW s u off).2 := by
  unfold State.anyReadW
  repeat' first
    | with_reducible assumption
    | with_reducible apply Held.iteSnd
    | with_reducible apply State.spReadW_held
    | with_reducible apply State.sramReadW_held
theorem State.cellWriteW_held {b : State} {s : State} {k : Nat} {v : Option W32} {be : Nat} (h : Held b s) : Held b (State.cellWriteW s k v be) := by
  unfold State.cellWriteW
  repeat' first
    | with_reducible assumption
    | (lift_lets; intro x; clear_value x)
    | with_reducible apply Held.ite
    | with_reducible apply State.setSyn_held
    | with_reducible apply State.putW_held
    | simp only [↓Held.mk_iff]
    | split
theorem State.sramWriteW_held {b : State} {s : State} {u : UnitId} {off : Nat} {v : Option W32} {be : Nat} (h : Held b s) : Held b (State.sramWriteW s u off v be) := by
  unfold State.sramWriteW
  repeat' first
    | with_reducible assumption
    | (lift_lets; intro x; clear_value x)
    | with_reducible apply Held.ite
    | with_reducible apply State.setSyn_held
    | with_reducible apply State.putW_held
    | with_reducible apply State.anyReadW_held
    | simp only [↓Held.mk_iff]
    | split
theorem mcRead_held {b : State} {d : Nat} {a : Nat} {s : State} (h : Held b s) : Held b (mcRead d a s) := by
  unfold mcRead
  repeat' first
    | with_reducible assumption
    | with_reducible apply State.countWrap_held
    | with_reducible apply State.dramReadDs_held
theorem execMcRead_held (d : Nat) (a : PAddr) (s : State) (z : State) (h : execMcRead d a s = .next z) : Held s z := Held.unit (mcRead_held (Held.refl _)) h
theorem mcWrite_held {b : State} {d : Nat} {a : Nat} {ws : List (W32 × BitVec 7)} {be : Nat} {s : State} (h : Held b s) : Held b (mcWrite d a ws be s) := by
  unfold mcWrite
  repeat' first
    | with_reducible assumption
    | (lift_lets; intro x; clear_value x)
    | with_reducible apply State.countWrap_held
    | with_reducible apply State.dramWriteDs_held
theorem execMcWrite_held (d : Nat) (a : PAddr) (ws : List (W32 × BitVec 7)) (be : BitVec 64) (s : State) (z : State) (h : execMcWrite d a ws be s = .next z) : Held s z := Held.unit (mcWrite_held (Held.refl _)) h
theorem correctedWriteback_held {b : State} {d : Nat} {s : State} (h : Held b s) : Held b (correctedWriteback d s) := by
  unfold correctedWriteback
  repeat' first
    | with_reducible assumption
    | with_reducible apply Held.ite
    | with_reducible apply State.dramPut_held
    | simp only [↓Held.mk_iff]
    | split
theorem execCorrectedWriteback_held (d : Nat) (s : State) (z : State) (h : execCorrectedWriteback d s = .next z) : Held s z := Held.unit (correctedWriteback_held (Held.refl _)) h
theorem dramScrub_held {b : State} {d : Nat} {s : State} (h : Held b s) : Held b (dramScrub d s) := by
  unfold dramScrub
  repeat' first
    | with_reducible assumption
    | (intro x; refine Held.via (s := b) x ?_ (fun _ => ?_); rotate_left; clear_value x; rotate_right)
    | (lift_lets; intro x; clear_value x)
    | with_reducible apply Held.ite
    | with_reducible apply State.dramReadDs_held
    | with_reducible apply State.setReg_held
    | with_reducible apply State.countWrap_held
theorem execDramScrubLine_held (d : Nat) (s : State) (z : State) (h : execDramScrubLine d s = .next z) : Held s z := Held.unit (dramScrub_held (Held.refl _)) h
theorem State.sramReadWs_held {b : State} {s : State} {u : UnitId} {a3 : Nat} {a4 : Nat} (h : Held b s) : Held b (State.sramReadWs s u a3 a4) := by
  fun_induction State.sramReadWs s u a3 a4 <;>
  repeat' first
    | with_reducible assumption
    | with_reducible apply State.sramReadW_held
    | with_reducible apply_assumption -exfalso -symm
theorem sramScrubLine_held {b : State} {u : UnitId} {s : State} (h : Held b s) : Held b (sramScrubLine u s) := by
  unfold sramScrubLine
  repeat' first
    | with_reducible assumption
    | (intro x; refine Held.via (s := b) x ?_ (fun _ => ?_); rotate_left; clear_value x; rotate_right)
    | (lift_lets; intro x; clear_value x)
    | with_reducible apply State.sramReadWs_held
    | simp only [↓Held.mk_iff]
theorem execSramScrubLine_held (u : UnitId) (s : State) (z : State) (h : execSramScrubLine u s = .next z) : Held s z := Held.unit (sramScrubLine_held (Held.refl _)) h
theorem mcLogClr_held {b : State} {d : Nat} {v : W32} {s : State} (h : Held b s) : Held b (mcLogClr d v s) := by
  unfold mcLogClr
  repeat' first
    | with_reducible assumption
    | with_reducible apply Held.ite
    | with_reducible apply State.setReg_held
theorem execMcLogClr_held (_w : Writer) (d : Nat) (v : W32) (s : State) (z : State) (h : execMcLogClr _w d v s = .next z) : Held s z := Held.unit (mcLogClr_held (Held.refl _)) h

end Sys2Proof.Machine
end

