-- ==== Sys2Proof/Laws/HeldPhysMem.lean ====
section
/-! SUPPORT. What each function of PhysMem.lean leaves alone: the queue, FRC and the canonical form. -/

namespace Sys2Proof.Machine

theorem State.busCheck_held {b : State} {s : State} {src : BusSrc} {t : BusTgt} {a : Nat} {n : Nat} {write : Bool} {spec : Bool} (h : Held b s) : Held b (State.busCheck s src t a n write spec).2 := by
  unfold State.busCheck
  repeat' first
    | with_reducible assumption
    | (intro x; clear_value x)
    | (lift_lets; intro x; refine Held.viaH (s := b) x (fun k u _ => ?_) (fun hh => ?_); rotate_left; clear_value x; rotate_right)
    | with_reducible apply Held.iteSnd
    | with_reducible apply State.count_held
    | with_reducible apply State.fwRefuse_held
    | with_reducible apply hh
    | split
theorem State.sramReadWords_held {b : State} {s : State} {u : UnitId} {a3 : Nat} {a4 : Nat} (h : Held b s) : Held b (State.sramReadWords s u a3 a4).2 := by
  fun_induction State.sramReadWords s u a3 a4 <;>
  repeat' first
    | with_reducible assumption
    | with_reducible apply State.anyReadW_held
    | with_reducible apply_assumption -exfalso -symm
    | simp only [↓Held.mk_iff]
    | with_reducible refine Held.snd (by with_reducible assumption) ?_
theorem State.memRead_held {b : State} {s : State} {t : BusTgt} {n : Nat} (h : Held b s) : Held b (State.memRead s t n).2 := by
  unfold State.memRead
  repeat' first
    | with_reducible assumption
    | with_reducible apply State.dramReadDs_held
    | with_reducible apply State.countWrap_held
    | with_reducible apply State.sramReadWords_held
    | simp only [↓Held.mk_iff]
    | split
theorem State.sramWriteWords_held {b : State} {s : State} {u : UnitId} {a3 : Nat} {a4 : List (Option W32)} {a5 : Nat} (h : Held b s) : Held b (State.sramWriteWords s u a3 a4 a5) := by
  fun_induction State.sramWriteWords s u a3 a4 a5 <;>
  repeat' first
    | with_reducible assumption
    | with_reducible apply State.sramWriteW_held
    | with_reducible apply_assumption -exfalso -symm
theorem State.memWrite_held {b : State} {s : State} {t : BusTgt} {ws : List (Option W32)} {be : Nat} (h : Held b s) : Held b (State.memWrite s t ws be).2 := by
  unfold State.memWrite
  repeat' first
    | with_reducible assumption
    | with_reducible apply State.dramWriteDs_held
    | with_reducible apply State.countWrap_held
    | with_reducible apply State.sramWriteWords_held
    | simp only [↓Held.mk_iff]
    | split
theorem State.ended_held {b : State} {s : State} {die : Nat} {st : Nat} (h : Held b s) : Held b (State.ended s die st) := by
  unfold State.ended
  repeat' first
    | with_reducible assumption
    | with_reducible apply Held.ite
    | with_reducible apply State.countN_held
    | with_reducible apply State.setErr_held
    | with_reducible apply State.count_held
theorem State.fetchW_held {b : State} {s : State} {src : BusSrc} {a : Nat} {n : Nat} {spec : Bool} (h : Held b s) : Held b (State.fetchW s src a n spec).2.2 := by
  unfold State.fetchW
  repeat' first
    | with_reducible assumption
    | (intro x; clear_value x)
    | (lift_lets; intro x; clear_value x)
    | with_reducible apply Held.iteSnd2
    | with_reducible apply State.busCheck_held
    | with_reducible apply State.memRead_held
theorem State.storeW_held {b : State} {s : State} {src : BusSrc} {a : Nat} {ws : List (Option W32)} {be : Nat} (h : Held b s) : Held b (State.storeW s src a ws be).2 := by
  unfold State.storeW
  repeat' first
    | with_reducible assumption
    | (intro x; clear_value x)
    | (lift_lets; intro x; clear_value x)
    | with_reducible apply Held.iteSnd
    | with_reducible apply State.busCheck_held
    | with_reducible apply State.memWrite_held
theorem State.fetchP_held {b : State} {s : State} {src : BusSrc} {fuel : Nat} {a : Nat} {n : Nat} (h : Held b s) : Held b (State.fetchP s src fuel a n).2.2 := by
  fun_induction State.fetchP s src fuel a n <;>
  repeat' first
    | with_reducible assumption
    | with_reducible apply State.fetchW_held
    | with_reducible apply State.ended_held
    | with_reducible apply_assumption -exfalso -symm
    | simp only [↓Held.mk_iff]
    | with_reducible refine Held.snd2 (by assumption) ?_
theorem State.storeP_held {b : State} {s : State} {src : BusSrc} {fuel : Nat} {a : Nat} {bs : List (Option Byte)} (h : Held b s) : Held b (State.storeP s src fuel a bs).2 := by
  fun_induction State.storeP s src fuel a bs <;>
  repeat' first
    | with_reducible assumption
    | with_reducible apply State.storeW_held
    | with_reducible apply State.ended_held
    | with_reducible apply_assumption -exfalso -symm
    | simp only [↓Held.mk_iff]
    | with_reducible refine Held.snd (by with_reducible assumption) ?_
theorem State.readP_held {b : State} {s : State} {src : BusSrc} {a : Nat} {n : Nat} (h : Held b s) : Held b (State.readP s src a n).2.2 := State.fetchP_held h
theorem State.writeP_held {b : State} {s : State} {src : BusSrc} {a : Nat} {bs : List (Option Byte)} (h : Held b s) : Held b (State.writeP s src a bs).2 := State.storeP_held h
theorem State.readB_held {b : State} {s : State} {src : BusSrc} {a : Nat} {n : Nat} (h : Held b s) : Held b (State.readB s src a n).2.2 := State.readP_held h
theorem State.writeB_held {b : State} {s : State} {src : BusSrc} {a : Nat} {bs : List Byte} (h : Held b s) : Held b (State.writeB s src a bs).2 := State.writeP_held h

end Sys2Proof.Machine
end

