-- ==== Sys2Proof/Laws/HeldArb.lean ====
section
/-! SUPPORT. What each function of Arb.lean leaves alone: the queue, FRC and the canonical form. -/

namespace Sys2Proof.Machine

theorem State.setBv_held {o : State} {s : State} {b : BvSt} (h : Held o s) : Held o (State.setBv s b) := h.trans ⟨rfl, rfl, id⟩
theorem State.setPlan_held {b : State} {s : State} {p : PlanSt} (h : Held b s) : Held b (State.setPlan s p) := h.trans ⟨rfl, rfl, id⟩
theorem State.setFol_held {b : State} {s : State} {f : FolSt} (h : Held b s) : Held b (State.setFol s f) := h.trans ⟨rfl, rfl, id⟩
theorem State.setBvRun_held {b : State} {s : State} {k : Nat} {r : Option BvRun} (h : Held b s) : Held b (State.setBvRun s k r) := by
  unfold State.setBvRun
  repeat' first
    | with_reducible assumption
    | (lift_lets; intro x; clear_value x)
    | with_reducible apply State.setBv_held
theorem State.slotRead_held {b : State} {s : State} {slot : Nat} {copy : Nat} (h : Held b s) : Held b (State.slotRead s slot copy).2 := by
  unfold State.slotRead
  repeat' first
    | with_reducible assumption
    | (intro x; clear_value x)
    | (lift_lets; intro x; clear_value x)
    | with_reducible apply Held.iteSnd
    | with_reducible apply State.setErr_held
    | with_reducible apply State.setBv_held
    | simp only [↓Held.mk_iff]
    | split
theorem State.stateRead_held {b : State} {s : State} {slot : Nat} (h : Held b s) : Held b (State.stateRead s slot).2 := by
  unfold State.stateRead
  repeat' first
    | with_reducible assumption
    | (intro x; clear_value x)
    | (lift_lets; intro x; clear_value x)
    | with_reducible apply State.setBv_held
    | with_reducible apply State.setErr_held
    | simp only [↓Held.mk_iff]
    | split
theorem State.setSlotState_held {b : State} {s : State} {slot : Nat} {v : Nat} (h : Held b s) : Held b (State.setSlotState s slot v) := by
  unfold State.setSlotState
  repeat' first
    | with_reducible assumption
    | (lift_lets; intro x; clear_value x)
    | with_reducible apply State.setBv_held
theorem State.setSlotInfo_held {b : State} {s : State} {slot : Nat} {v : Nat} (h : Held b s) : Held b (State.setSlotInfo s slot v) := by
  unfold State.setSlotInfo
  repeat' first
    | with_reducible assumption
    | (lift_lets; intro x; clear_value x)
    | with_reducible apply State.setBv_held
theorem State.setSlotWord_held {b : State} {s : State} {slot : Nat} {copy : Nat} {w : W32} (h : Held b s) : Held b (State.setSlotWord s slot copy w) := by
  unfold State.setSlotWord
  repeat' first
    | with_reducible assumption
    | (lift_lets; intro x; clear_value x)
    | with_reducible apply State.setBv_held
theorem State.originRead_held {b : State} {s : State} {d : Nat} {slot : Nat} {copy : Nat} {seq : W32} (h : Held b s) : Held b (State.originRead s d slot copy seq).2 := by
  unfold State.originRead
  repeat' first
    | with_reducible assumption
    | with_reducible apply State.readB_held
theorem State.fetchRows_held {b : State} {s : State} {fmt : Nat} {cols : Nat} {a4 : List Nat} (h : Held b s) : Held b (State.fetchRows s fmt cols a4).2 := by
  fun_induction State.fetchRows s fmt cols a4 <;>
  repeat' first
    | with_reducible assumption
    | with_reducible apply State.readB_held
    | with_reducible apply_assumption -exfalso -symm
    | simp only [↓Held.mk_iff]
    | with_reducible refine Held.snd (by with_reducible assumption) ?_
    | with_reducible refine Held.snd2 (by assumption) ?_
theorem State.fetchTile_held {b : State} {s : State} {o : Origin} (h : Held b s) : Held b (State.fetchTile s o).2 := State.fetchRows_held h
theorem State.originsOf_held {b : State} {s : State} {r : BvRun} {a3 : List Nat} (h : Held b s) : Held b (State.originsOf s r a3).2 := by
  fun_induction State.originsOf s r a3 <;>
  repeat' first
    | with_reducible assumption
    | with_reducible apply State.originRead_held
    | with_reducible apply_assumption -exfalso -symm
    | simp only [↓Held.mk_iff]
    | with_reducible refine Held.snd (by with_reducible assumption) ?_
theorem State.tilesOf_held {b : State} {s : State} {copyB : Bool} {a3 : List (Nat × Origin × Origin)} (h : Held b s) : Held b (State.tilesOf s copyB a3).2 := by
  fun_induction State.tilesOf s copyB a3 <;>
  repeat' first
    | with_reducible assumption
    | with_reducible apply State.fetchTile_held
    | with_reducible apply_assumption -exfalso -symm
    | simp only [↓Held.mk_iff]
    | with_reducible refine Held.snd (by with_reducible assumption) ?_
theorem State.judgeSlots_held {b : State} {s : State} {r : BvRun} {rg : RangeRec} {tol : TolRec} {fetchOk : Bool} {slots : List Nat} (h : Held b s) : Held b (State.judgeSlots s r rg tol fetchOk slots).2 := by
  unfold State.judgeSlots
  repeat' first
    | with_reducible assumption
    | with_reducible apply Held.iteSnd
    | with_reducible apply State.originsOf_held
    | with_reducible apply State.tilesOf_held
    | simp only [↓Held.mk_iff]
    | split
theorem State.judgeGolden_held {b : State} {s : State} {fetchOk : Bool} {base : Nat} {t : TensorDesc} {expect : Nat} {tol : TolRec} (h : Held b s) : Held b (State.judgeGolden s fetchOk base t expect tol).2 := by
  unfold State.judgeGolden
  repeat' first
    | with_reducible assumption
    | (intro x; clear_value x)
    | (lift_lets; intro x; clear_value x)
    | with_reducible apply Held.iteSnd
    | with_reducible apply State.fetchRows_held
    | with_reducible apply State.readB_held
    | simp only [↓Held.mk_iff]
    | split
theorem State.setGold_held {b : State} {s : State} {svc : Nat} {g : GoldSt} (h : Held b s) : Held b (State.setGold s svc g) := by
  unfold State.setGold
  repeat' first
    | with_reducible assumption
    | (lift_lets; intro x; clear_value x)
    | with_reducible apply State.setFol_held
theorem State.goldFinish_held {b : State} {s : State} {svc : Nat} (h : Held b s) : Held b (State.goldFinish s svc) := by
  unfold State.goldFinish
  repeat' first
    | with_reducible assumption
    | (intro x; refine Held.via (s := b) x ?_ (fun _ => ?_); rotate_left; clear_value x; rotate_right)
    | (intro x; clear_value x)
    | (lift_lets; intro x; clear_value x)
    | with_reducible apply Held.ite
    | with_reducible apply State.evidence_held
    | with_reducible apply State.setGold_held
    | with_reducible apply State.count_held
    | with_reducible apply State.setErr_held
theorem State.goldCmp_held {b : State} {s : State} {svc : Nat} {copyB : Bool} {ok : Bool} (h : Held b s) : Held b (State.goldCmp s svc copyB ok) := by
  unfold State.goldCmp
  repeat' first
    | with_reducible assumption
    | (intro x; clear_value x)
    | (lift_lets; intro x; clear_value x)
    | with_reducible apply State.goldFinish_held
    | with_reducible apply State.setGold_held
theorem State.arbEnqueue_some {b s t : State} {a : Arb} (e : s.arbEnqueue a = some t) (h : Held b s) : Held b t := by
  unfold State.arbEnqueue at e
  split at e
  · cases e; exact State.setBv_held h
  · cases e
theorem State.goldPut_held {b : State} {s : State} {svc : Nat} {a : Arb} (h : Held b s) : Held b (State.goldPut s svc a) := by
  unfold State.goldPut
  repeat' first
    | with_reducible assumption
    | (lift_lets; intro x; clear_value x)
    | with_reducible refine State.arbEnqueue_some (by with_reducible assumption) ?_
    | with_reducible apply State.setGold_held
    | split
theorem State.goldRetry_held {b : State} {s : State} (h : Held b s) : Held b (State.goldRetry s) := by
  unfold State.goldRetry
  repeat' first
    | with_reducible assumption
    | (intro x; refine Held.via (s := b) x ?_ (fun _ => ?_); rotate_left; clear_value x; rotate_right)
    | (intro x; clear_value x)
    | (lift_lets; intro x; clear_value x)
    | with_reducible apply Held.ite
    | with_reducible refine Held.foldl ?_ (fun u x _ => ?_)
    | with_reducible apply State.setGold_held
    | with_reducible apply State.goldPut_held
theorem State.goldLate_held {b : State} {s : State} {svc : Nat} (h : Held b s) : Held b (State.goldLate s svc) := by
  unfold State.goldLate
  repeat' first
    | with_reducible assumption
    | (lift_lets; intro x; clear_value x)
    | with_reducible apply Held.ite
    | with_reducible refine Held.foldl ?_ (fun u x _ => ?_)
    | with_reducible apply State.goldCmp_held
    | with_reducible apply State.setGold_held
    | split
theorem State.goldQueue_held {b : State} {s : State} {svc : Nat} {as : List Arb} {bs : List Arb} {failA : Bool} {failB : Bool} {deadline : Option Tick} {running : Bool} (h : Held b s) : Held b (State.goldQueue s svc as bs failA failB deadline running) := by
  unfold State.goldQueue
  repeat' first
    | with_reducible assumption
    | (intro x; refine Held.via (s := b) x ?_ (fun _ => ?_); rotate_left; clear_value x; rotate_right)
    | (lift_lets; intro x; clear_value x)
    | with_reducible refine Held.foldl ?_ (fun u x _ => ?_)
    | with_reducible apply State.setGold_held
    | with_reducible apply State.goldFinish_held
    | with_reducible apply State.goldPut_held
theorem State.goldEnded_held {b : State} {s : State} {svc : Nat} {ok : Bool} (h : Held b s) : Held b (State.goldEnded s svc ok) := by
  unfold State.goldEnded
  repeat' first
    | with_reducible assumption
    | (lift_lets; intro x; clear_value x)
    | with_reducible apply Held.ite
    | with_reducible apply State.goldFinish_held
    | with_reducible apply State.setGold_held

end Sys2Proof.Machine
end

