-- ==== Sys2Proof/Laws/HeldCheckers.lean ====
section
/-! SUPPORT. What each function of Checkers.lean leaves alone: the queue, FRC and the canonical form. -/

namespace Sys2Proof.Machine

theorem State.overdueFalls_held {b : State} {s : State} (h : Held b s) : Held b (State.overdueFalls s) := by
  unfold State.overdueFalls
  repeat' first
    | with_reducible assumption
    | with_reducible apply Held.ite
    | with_reducible apply State.clearErr_held
theorem State.chkDrop_held {b : State} {s : State} {p : Nat → Bool} (h : Held b s) : Held b (State.chkDrop s p) := by
  unfold State.chkDrop
  repeat' first
    | with_reducible assumption
    | (intro x; refine Held.via (s := b) x ?_ (fun _ => ?_); rotate_left; clear_value x; rotate_right)
    | (lift_lets; intro x; clear_value x)
    | with_reducible apply State.overdueFalls_held
    | unfold x
    | simp only [↓Held.mk_iff]
theorem State.chkGone_held {b : State} {s : State} {u : UnitId} (h : Held b s) : Held b (State.chkGone s u) := State.chkDrop_held h

end Sys2Proof.Machine
end

