-- ==== Sys2Proof/Laws/HeldCvu.lean ====
section
/-! SUPPORT. What each function of Cvu.lean leaves alone: the queue, FRC and the canonical form. -/

namespace Sys2Proof.Machine

theorem State.setCvuRun_held {b : State} {s : State} {u : Nat} {v : Nat} (h : Held b s) : Held b (State.setCvuRun s u v) := by
  unfold State.setCvuRun
  repeat' first
    | with_reducible assumption
    | (lift_lets; intro x; clear_value x)
    | with_reducible apply State.setReg_held
theorem State.cvuFeed_held {b : State} {s : State} {u : Nat} {bs : List Byte} (h : Held b s) : Held b (State.cvuFeed s u bs) := by
  unfold State.cvuFeed
  repeat' first
    | with_reducible assumption
    | (lift_lets; intro x; refine Held.via (s := b) x ?_ (fun _ => ?_); rotate_left; clear_value x; rotate_right)
    | with_reducible apply State.setCvuRun_held
    | with_reducible apply State.setReg_held
theorem State.cvuStartAct_held {b : State} {s : State} {u : Nat} {v : W32} (h : Held b s) : Held b (State.cvuStartAct s u v) := by
  unfold State.cvuStartAct
  repeat' first
    | with_reducible assumption
    | (intro x; refine Held.via (s := b) x ?_ (fun _ => ?_); rotate_left; clear_value x; rotate_right)
    | (intro x; clear_value x)
    | (lift_lets; intro x; clear_value x)
    | with_reducible apply Held.ite
    | with_reducible apply State.setRegF_held
    | with_reducible apply State.setReg_held
    | with_reducible apply State.setCvuRun_held
theorem State.cvuRunAct_held {b : State} {s : State} {u : Nat} {hi : Bool} {v : W32} (h : Held b s) : Held b (State.cvuRunAct s u hi v) := by
  unfold State.cvuRunAct
  repeat' first
    | with_reducible assumption
    | (intro x; refine Held.via (s := b) x ?_ (fun _ => ?_); rotate_left; clear_value x; rotate_right)
    | (intro x; clear_value x)
    | (lift_lets; intro x; clear_value x)
    | with_reducible apply State.setCvuRun_held
    | simp only [↓Held.mk_iff]
theorem State.cvuAct_held {b : State} {s : State} {u : Nat} {off : Nat} {v : W32} (h : Held b s) : Held b (State.cvuAct s u off v) := by
  unfold State.cvuAct
  repeat' first
    | with_reducible assumption
    | (lift_lets; intro x; refine Held.via (s := b) x ?_ (fun _ => ?_); rotate_left; clear_value x; rotate_right)
    | with_reducible apply Held.ite
    | with_reducible apply State.cvuStartAct_held
    | with_reducible apply State.cvuFeed_held
    | with_reducible apply State.cvuRunAct_held
    | with_reducible apply State.setReg_held
    | unfold x
    | simp only [↓Held.mk_iff]
theorem State.cvuPut_held {b : State} {s : State} {w : Writer} {u : Nat} {off : Nat} {v : W32} (h : Held b s) : Held b (State.cvuPut s w u off v) := by
  unfold State.cvuPut
  repeat' first
    | with_reducible assumption
    | with_reducible apply Held.ite
    | with_reducible apply State.cvuAct_held
    | simp only [↓Held.mk_iff]
theorem State.cvuSlice_held {b : State} {s : State} {u : Nat} (h : Held b s) : Held b (State.cvuSlice s u) := State.setRegF_held h
theorem State.cvuSliceEnd_held {b : State} {s : State} {u : Nat} (h : Held b s) : Held b (State.cvuSliceEnd s u) := by
  unfold State.cvuSliceEnd
  repeat' first
    | with_reducible assumption
    | (intro x; refine Held.via (s := b) x ?_ (fun _ => ?_); rotate_left; clear_value x; rotate_right)
    | (lift_lets; intro x; refine Held.via (s := b) x ?_ (fun _ => ?_); rotate_left; clear_value x; rotate_right)
    | with_reducible refine Held.foldl ?_ (fun u x _ => ?_)
    | with_reducible apply State.setRegF_held
    | with_reducible apply State.cvuAct_held
    | unfold x
    | simp only [↓Held.mk_iff]
theorem cvuStart_held {b : State} {w : Writer} {u : Nat} {v : W32} {s : State} (h : Held b s) : Held b (cvuStart w u v s) := State.cvuPut_held h
theorem execCvuStart_held (w : Writer) (u : Nat) (v : W32) (s : State) (z : State) (h : execCvuStart w u v s = .next z) : Held s z := Held.unit (cvuStart_held (Held.refl _)) h
theorem cvuData_held {b : State} {n : Nat} {w : Writer} {u : Nat} {v : W32} {s : State} (h : Held b s) : Held b (cvuData n w u v s) := State.cvuPut_held h
theorem execCvuData8_held (w : Writer) (u : Nat) (v : W32) (s : State) (z : State) (h : execCvuData8 w u v s = .next z) : Held s z := Held.unit (cvuData_held (Held.refl _)) h
theorem execCvuData16_held (w : Writer) (u : Nat) (v : W32) (s : State) (z : State) (h : execCvuData16 w u v s = .next z) : Held s z := Held.unit (cvuData_held (Held.refl _)) h
theorem execCvuData32_held (w : Writer) (u : Nat) (v : W32) (s : State) (z : State) (h : execCvuData32 w u v s = .next z) : Held s z := Held.unit (cvuData_held (Held.refl _)) h
theorem cvuRunWrite_held {b : State} {w : Writer} {u : Nat} {hi : Bool} {v : W32} {s : State} (h : Held b s) : Held b (cvuRunWrite w u hi v s) := State.cvuPut_held h
theorem execCvuRunWrite_held (w : Writer) (u : Nat) (hi : Bool) (v : W32) (s : State) (z : State) (h : execCvuRunWrite w u hi v s = .next z) : Held s z := Held.unit (cvuRunWrite_held (Held.refl _)) h
theorem cvuStatRead_held {b : State} {u : Nat} {s : State} (h : Held b s) : Held b (cvuStatRead u s) := by
  unfold cvuStatRead
  repeat' first
    | with_reducible assumption
    | with_reducible apply State.injTake_held
    | with_reducible apply State.setRegF_held
    | simp only [↓Held.mk_iff]
theorem execCvuStatRead_held (u : Nat) (s : State) (z : State) (h : execCvuStatRead u s = .next z) : Held s z := Held.unit (cvuStatRead_held (Held.refl _)) h
theorem pmLastClr_held {b : State} {w : Writer} {r : Nat} {v : W32} {s : State} (h : Held b s) : Held b (pmLastClr w r v s) := by
  unfold pmLastClr
  repeat' first
    | with_reducible assumption
    | with_reducible apply Held.ite
    | with_reducible apply State.setReg_held
theorem execPmLastClr_held (w : Writer) (r : Nat) (v : W32) (s : State) (z : State) (h : execPmLastClr w r v s = .next z) : Held s z := Held.unit (pmLastClr_held (Held.refl _)) h

end Sys2Proof.Machine
end

