-- ==== Sys2Proof/Laws/HeldFolly.lean ====
section
/-! SUPPORT. What each function of Folly.lean leaves alone: the queue, FRC and the canonical form. -/

namespace Sys2Proof.Machine

theorem State.setBel_held {o : State} {s : State} {b : BeliefSt} (h : Held o s) : Held o (State.setBel s b) := h.trans ⟨rfl, rfl, id⟩
theorem State.setSvc_held {b : State} {s : State} {n : Nat} {v : Option SvcSt} (h : Held b s) : Held b (State.setSvc s n v) := by
  unfold State.setSvc
  repeat' first
    | with_reducible assumption
    | (lift_lets; intro x; clear_value x)
    | with_reducible apply State.setBel_held
theorem State.setChk_held {b : State} {s : State} {n : Nat} {c : ChkSt} (h : Held b s) : Held b (State.setChk s n c) := by
  unfold State.setChk
  repeat' first
    | with_reducible assumption
    | (lift_lets; intro x; clear_value x)
    | with_reducible apply State.setFol_held
theorem State.armTest_held {b : State} {s : State} {n : Nat} (h : Held b s) : Held b (State.armTest s n) := by
  unfold State.armTest
  repeat' first
    | with_reducible assumption
    | with_reducible apply Held.ite
    | with_reducible apply State.setReg_held
    | with_reducible apply State.cvuSlice_held
theorem State.disarmTest_held {b : State} {s : State} {n : Nat} (h : Held b s) : Held b (State.disarmTest s n) := by
  unfold State.disarmTest
  repeat' first
    | with_reducible assumption
    | (lift_lets; intro x; clear_value x)
    | with_reducible apply Held.ite
    | with_reducible apply State.setReg_held
    | with_reducible apply State.cvuSliceEnd_held
theorem sliceStart_held {b : State} {l : Nat} {s : State} (h : Held b s) : Held b (sliceStart l s) := by
  unfold sliceStart
  repeat' first
    | with_reducible assumption
    | (intro x; clear_value x)
    | (lift_lets; intro x; clear_value x)
    | with_reducible apply Held.ite
    | with_reducible apply State.count_held
    | with_reducible apply State.setFol_held
    | with_reducible apply State.armTest_held
    | with_reducible apply State.setChk_held
    | simp only [↓Held.mk_iff]
    | split
theorem execTestSliceStart_held (l : Nat) (s : State) (z : State) (h : execTestSliceStart l s = .next z) : Held s z := Held.unit (sliceStart_held (Held.refl _)) h
theorem State.chkFail_held {b : State} {s : State} {n : Nat} {report : Nat} {noReport : Bool} (h : Held b s) : Held b (State.chkFail s n report noReport) := by
  unfold State.chkFail
  repeat' first
    | with_reducible assumption
    | (intro x; refine Held.via (s := b) x ?_ (fun _ => ?_); rotate_left; clear_value x; rotate_right)
    | (intro x; clear_value x)
    | (lift_lets; intro x; clear_value x)
    | with_reducible apply Held.ite
    | with_reducible apply State.setChk_held
    | with_reducible apply State.setReg_held
    | with_reducible apply State.evidence_held
    | with_reducible apply State.count_held
    | with_reducible apply State.setErr_held
theorem State.chkPass_held {b : State} {s : State} {n : Nat} (h : Held b s) : Held b (State.chkPass s n) := by
  unfold State.chkPass
  repeat' first
    | with_reducible assumption
    | (intro x; refine Held.via (s := b) x ?_ (fun _ => ?_); rotate_left; clear_value x; rotate_right)
    | (lift_lets; intro x; clear_value x)
    | with_reducible apply Held.ite
    | with_reducible apply State.count_held
    | with_reducible apply State.setChk_held
    | with_reducible apply State.overdueFalls_held
    | with_reducible apply State.evidence_held
theorem sliceEnd_held {b : State} {l : Nat} {defect : Option (Nat × TestReport)} {noReport : Bool} {s : State} (h : Held b s) : Held b (sliceEnd l defect noReport s) := by
  unfold sliceEnd
  repeat' first
    | with_reducible assumption
    | (lift_lets; intro x; clear_value x)
    | with_reducible apply Held.ite
    | with_reducible apply State.disarmTest_held
    | with_reducible apply State.setFol_held
    | with_reducible apply State.chkFail_held
    | with_reducible apply State.withFalls_held
    | with_reducible apply State.chkPass_held
    | simp only [↓Held.mk_iff]
    | split
theorem execTestSliceEnd_held (l : Nat) (defect : Option (Nat × TestReport)) (noReport : Bool) (s : State) (z : State) (h : execTestSliceEnd l defect noReport s = .next z) : Held s z := Held.unit (sliceEnd_held (Held.refl _)) h
theorem chkEligible_held {b : State} {n : Nat} {s : State} (h : Held b s) : Held b (chkEligible n s) := by
  unfold chkEligible
  repeat' first
    | with_reducible assumption
    | (lift_lets; intro x; clear_value x)
    | with_reducible apply Held.ite
    | with_reducible apply State.setChk_held
    | split
theorem execCheckerEligible_held (n : Nat) (s : State) (z : State) (h : execCheckerEligible n s = .next z) : Held s z := Held.unit (chkEligible_held (Held.refl _)) h
theorem chkOverdue_held {b : State} {n : Nat} {s : State} (h : Held b s) : Held b (chkOverdue n s) := by
  unfold chkOverdue
  repeat' first
    | with_reducible assumption
    | (intro x; refine Held.via (s := b) x ?_ (fun _ => ?_); rotate_left; clear_value x; rotate_right)
    | (intro x; clear_value x)
    | (lift_lets; intro x; clear_value x)
    | with_reducible apply Held.ite
    | with_reducible apply State.count_held
    | with_reducible apply State.setChk_held
    | with_reducible apply State.setReg_held
    | with_reducible apply State.fcEvent_held
    | split
theorem execCheckerOverdue_held (n : Nat) (s : State) (z : State) (h : execCheckerOverdue n s = .next z) : Held s z := Held.unit (chkOverdue_held (Held.refl _)) h
theorem folFailClr_held {b : State} {w : Writer} {v : W32} {s : State} (h : Held b s) : Held b (folFailClr w v s) := by
  unfold folFailClr
  repeat' first
    | with_reducible assumption
    | with_reducible apply Held.ite
    | with_reducible apply State.setReg_held
theorem execFolStFailClr_held (w : Writer) (v : W32) (s : State) (z : State) (h : execFolStFailClr w v s = .next z) : Held s z := Held.next (folFailClr_held (Held.refl _)) h

end Sys2Proof.Machine
end

