-- ==== Sys2Proof/Laws/HeldCoreRegs.lean ====
section
/-! SUPPORT. What each function of CoreRegs.lean leaves alone: the queue, FRC and the canonical form. -/

namespace Sys2Proof.Machine

theorem State.setUstate_held {b : State} {s : State} {u : UnitId} {n : Nat} (h : Held b s) : Held b (State.setUstate s u n) := State.setRegF_held h
theorem coreBootWrite_held {b : State} {u : UnitId} {v : W32} {s : State} (h : Held b s) : Held b (coreBootWrite u v s) := by
  unfold coreBootWrite
  repeat' first
    | with_reducible assumption
    | (intro x; clear_value x)
    | (lift_lets; intro x; refine Held.via (s := b) x ?_ (fun _ => ?_); rotate_left; clear_value x; rotate_right)
    | with_reducible apply Held.ite
    | with_reducible apply State.setReg_held
    | with_reducible apply State.setUstate_held
    | with_reducible apply State.setCore_held
theorem srSeedWrite_held {b : State} {u : UnitId} {v : W32} {s : State} (h : Held b s) : Held b (srSeedWrite u v s) := by
  unfold srSeedWrite
  repeat' first
    | with_reducible assumption
    | (intro x; refine Held.via (s := b) x ?_ (fun _ => ?_); rotate_left; clear_value x; rotate_right)
    | (lift_lets; intro x; clear_value x)
    | with_reducible apply Held.ite
    | with_reducible apply State.setReg_held
    | with_reducible apply State.setCore_held
theorem execCoreSrSeedWrite_held (_w : Writer) (u : UnitId) (v : W32) (s : State) (z : State) (h : execCoreSrSeedWrite _w u v s = .next z) : Held s z := Held.unit (srSeedWrite_held (Held.refl _)) h
theorem preemptWrite_held {b : State} {u : UnitId} {v : W32} {s : State} (h : Held b s) : Held b (preemptWrite u v s) := by
  unfold preemptWrite
  repeat' first
    | with_reducible assumption
    | (intro x; clear_value x)
    | (lift_lets; intro x; refine Held.via (s := b) x ?_ (fun _ => ?_); rotate_left; clear_value x; rotate_right)
    | with_reducible apply Held.ite
    | with_reducible apply State.setReg_held
    | simp only [↓Held.mk_iff]
theorem execCorePreemptWrite_held (_w : Writer) (u : UnitId) (v : W32) (s : State) (z : State) (h : execCorePreemptWrite _w u v s = .next z) : Held s z := Held.unit (preemptWrite_held (Held.refl _)) h
theorem preemptClr_held {b : State} {u : UnitId} {v : W32} {s : State} (h : Held b s) : Held b (preemptClr u v s) := by
  unfold preemptClr
  repeat' first
    | with_reducible assumption
    | (intro x; clear_value x)
    | (lift_lets; intro x; refine Held.via (s := b) x ?_ (fun _ => ?_); rotate_left; clear_value x; rotate_right)
    | with_reducible apply Held.ite
    | with_reducible apply State.setReg_held
    | simp only [↓Held.mk_iff]
theorem execCorePreemptClr_held (_w : Writer) (u : UnitId) (v : W32) (s : State) (z : State) (h : execCorePreemptClr _w u v s = .next z) : Held s z := Held.unit (preemptClr_held (Held.refl _)) h
theorem sigContextWrite_held {b : State} {u : UnitId} {n : Nat} {r : Nat} {v : W32} {s : State} (h : Held b s) : Held b (sigContextWrite u n r v s) := by
  unfold sigContextWrite
  repeat' first
    | with_reducible assumption
    | with_reducible apply Held.ite
    | with_reducible apply State.setReg_held
theorem execSigContextWrite_held (_w : Writer) (u : UnitId) (n : Nat) (r : Nat) (v : W32) (s : State) (z : State) (h : execSigContextWrite _w u n r v s = .next z) : Held s z := Held.unit (sigContextWrite_held (Held.refl _)) h
theorem sigSeqWrite_held {b : State} {u : UnitId} {copy : Bool} {v : W32} {s : State} (h : Held b s) : Held b (sigSeqWrite u copy v s) := by
  unfold sigSeqWrite
  repeat' first
    | with_reducible assumption
    | with_reducible apply Held.ite
    | with_reducible apply State.setReg_held
theorem execSigSeqWrite_held (_w : Writer) (u : UnitId) (copy : Bool) (v : W32) (s : State) (z : State) (h : execSigSeqWrite _w u copy v s = .next z) : Held s z := Held.unit (sigSeqWrite_held (Held.refl _)) h
theorem sigMessageQueue_held {b : State} {u : UnitId} {n : Nat} {s : State} (h : Held b s) : Held b (sigMessageQueue u n s) := by
  unfold sigMessageQueue
  repeat' first
    | with_reducible assumption
    | (lift_lets; intro x; clear_value x)
    | with_reducible apply Held.ite
    | with_reducible apply State.setReg_held
    | with_reducible apply State.setCore_held
theorem execSignatureMessageQueue_held (u : UnitId) (n : Nat) (s : State) (z : State) (h : execSignatureMessageQueue u n s = .next z) : Held s z := Held.unit (sigMessageQueue_held (Held.refl _)) h
theorem sigMessageSend_held {b : State} {u : UnitId} {s : State} (h : Held b s) : Held b (sigMessageSend u s) := by
  unfold sigMessageSend
  repeat' first
    | with_reducible assumption
    | (lift_lets; intro x; clear_value x)
    | with_reducible apply State.sendMsg_held
    | with_reducible apply State.setCore_held
    | split
theorem execSignatureMessageSend_held (u : UnitId) (s : State) (z : State) (h : execSignatureMessageSend u s = .next z) : Held s z := Held.unit (sigMessageSend_held (Held.refl _)) h
theorem scratchpadScrub_held {b : State} {u : UnitId} {s : State} (h : Held b s) : Held b (scratchpadScrub u s) := by
  unfold scratchpadScrub
  repeat' first
    | with_reducible assumption
    | (intro x; refine Held.via (s := b) x ?_ (fun _ => ?_); rotate_left; clear_value x; rotate_right)
    | (intro x; clear_value x)
    | (lift_lets; intro x; clear_value x)
    | with_reducible refine Held.foldl ?_ (fun u x _ => ?_)
    | with_reducible apply State.spReadW_held
    | with_reducible apply State.setCore_held
theorem execScratchpadScrubLine_held (u : UnitId) (s : State) (z : State) (h : execScratchpadScrubLine u s = .next z) : Held s z := Held.unit (scratchpadScrub_held (Held.refl _)) h
theorem State.spareFresh_held {b : State} {s : State} {clu : UnitId} (h : Held b s) : Held b (State.spareFresh s clu) := by
  unfold State.spareFresh
  repeat' first
    | with_reducible assumption
    | (intro x; clear_value x)
    | (lift_lets; intro x; clear_value x)
    | (with_reducible refine Held.mkForm ?_ (by with_reducible exact id) (by with_reducible exact Memory.wf_clearIn _ _ _) (by with_reducible exact Tab.wf_clearIn _ _ _ _))
theorem spareMapWrite_held {b : State} {clu : UnitId} {v : W32} {s : State} (h : Held b s) : Held b (spareMapWrite clu v s) := by
  unfold spareMapWrite
  repeat' first
    | with_reducible assumption
    | (intro x; clear_value x)
    | (lift_lets; intro x; clear_value x)
    | with_reducible apply Held.ite
    | with_reducible apply State.setErr_held
    | with_reducible apply State.setReg_held
    | with_reducible apply State.spareFresh_held
theorem State.applyRec_held {b : State} {s : State} {clu : UnitId} (h : Held b s) : Held b (State.applyRec s clu) := by
  unfold State.applyRec
  repeat' first
    | with_reducible assumption
    | (intro x; refine Held.via (s := b) x ?_ (fun _ => ?_); rotate_left; clear_value x; rotate_right)
    | (intro x; clear_value x)
    | (lift_lets; intro x; clear_value x)
    | with_reducible apply State.setReg_held
    | simp only [↓Held.mk_iff]

end Sys2Proof.Machine
end

