-- ==== Sys2Proof/Laws/HeldGhMem.lean ====
section
/-! SUPPORT. What each function of GhMem.lean leaves alone: the queue, FRC and the canonical form. -/

namespace Sys2Proof.Machine

theorem State.ghWordBad_held {b : State} {s : State} (h : Held b s) : Held b (State.ghWordBad s) := State.fcEvent_held h
theorem State.tcmWrite_held {b s : State} {a : Nat} {v : W32} (h : Held b s) : Held b (s.tcmWrite a v) :=
  h.trans ⟨rfl, rfl, State.inForm_tcmWrite s a v⟩
theorem State.tcmRead_held {b : State} {s : State} {a : Nat} (h : Held b s) : Held b (State.tcmRead s a).2 := by
  unfold State.tcmRead
  repeat' first
    | with_reducible assumption
    | with_reducible apply Held.iteSnd
    | with_reducible apply State.ghWordBad_held
    | with_reducible apply State.tcmWrite_held
    | split
theorem State.gkSramWrite_held {b s : State} {a : Nat} {v : W32} (h : Held b s) : Held b (s.gkSramWrite a v) :=
  h.trans ⟨rfl, rfl, State.inForm_gkSramWrite s a v⟩
theorem State.gkSramRead_held {b : State} {s : State} {a : Nat} (h : Held b s) : Held b (State.gkSramRead s a).2 := by
  unfold State.gkSramRead
  repeat' first
    | with_reducible assumption
    | with_reducible apply Held.iteSnd
    | with_reducible apply State.gkSramWrite_held
    | split
theorem State.flashRead_held {b : State} {s : State} {i : Nat} (h : Held b s) : Held b (State.flashRead s i).2 := by
  unfold State.flashRead
  repeat' first
    | with_reducible assumption
    | (lift_lets; intro x; clear_value x)
    | with_reducible apply Held.iteSnd
    | with_reducible apply State.ghWordBad_held
theorem State.flashPut_held {b s : State} {i : Nat} {img : List Byte} (h : Held b s) : Held b (s.flashPut i img) :=
  h.trans ⟨rfl, rfl, State.inForm_flashPut s i img⟩

end Sys2Proof.Machine
end

