-- ==== Sys2Proof/Laws/HeldPcie.lean ====
section
/-! SUPPORT. What each function of Pcie.lean leaves alone: the queue, FRC and the canonical form. -/

namespace Sys2Proof.Machine

theorem State.setPending_held {o : State} {s : State} {v : Nat} {b : Bool} (h : Held o s) : Held o (State.setPending s v b) := State.setReg_held h
theorem State.setHold_held {b : State} {s : State} {v : Nat} {e : Option (Tick × Bool)} (h : Held b s) : Held b (State.setHold s v e) := by
  unfold State.setHold
  repeat' first
    | with_reducible assumption
    | (lift_lets; intro x; clear_value x)
    | simp only [↓Held.mk_iff]
theorem State.msixSend_held {b : State} {s : State} {v : Nat} (h : Held b s) : Held b (State.msixSend s v) := by
  unfold State.msixSend
  repeat' first
    | with_reducible assumption
    | (intro x; refine Held.via (s := b) x ?_ (fun _ => ?_); rotate_left; clear_value x; rotate_right)
    | (lift_lets; intro x; clear_value x)
    | with_reducible apply Held.ite
    | with_reducible apply State.emit_held
    | with_reducible apply State.setHold_held
theorem State.msixRequest_held {b : State} {s : State} {v : Nat} (h : Held b s) : Held b (State.msixRequest s v) := by
  unfold State.msixRequest
  repeat' first
    | with_reducible assumption
    | with_reducible apply Held.ite
    | with_reducible apply State.setPending_held
    | with_reducible apply State.setHold_held
    | with_reducible apply State.msixSend_held
    | split
theorem msixHoldEnd_held {b : State} {v : Nat} {s : State} (h : Held b s) : Held b (msixHoldEnd v s) := by
  unfold msixHoldEnd
  repeat' first
    | with_reducible assumption
    | (lift_lets; intro x; refine Held.via (s := b) x ?_ (fun _ => ?_); rotate_left; clear_value x; rotate_right)
    | with_reducible apply Held.ite
    | with_reducible apply State.setHold_held
    | with_reducible apply State.setPending_held
    | with_reducible apply State.msixSend_held
    | split
theorem execMsixHoldEnd_held (v : Nat) (s : State) (z : State) (h : execMsixHoldEnd v s = .next z) : Held s z := Held.unit (msixHoldEnd_held (Held.refl _)) h
theorem State.msixFlush_held {b : State} {s : State} {v : Nat} (h : Held b s) : Held b (State.msixFlush s v) := by
  unfold State.msixFlush
  repeat' first
    | with_reducible assumption
    | with_reducible apply Held.ite
    | with_reducible apply State.msixSend_held
    | with_reducible apply State.setPending_held
theorem msixUnmask_held {b : State} {v : Nat} {cfg : Option (Bool × Bool)} {s : State} (h : Held b s) : Held b (msixUnmask v cfg s) := by
  unfold msixUnmask
  repeat' first
    | with_reducible assumption
    | with_reducible refine Held.foldl ?_ (fun u x _ => ?_)
    | with_reducible apply State.setReg_held
    | with_reducible apply State.msixFlush_held
    | simp only [↓Held.mk_iff]
    | split
theorem execMsixUnmask_held (v : Nat) (cfg : Option (Bool × Bool)) (s : State) (z : State) (h : execMsixUnmask v cfg s = .next z) : Held s z := Held.unit (msixUnmask_held (Held.refl _)) h
theorem functionReset_held {b : State} {s : State} (h : Held b s) : Held b (functionReset s) := by
  unfold functionReset
  repeat' first
    | with_reducible assumption
    | (intro x; refine Held.via (s := b) x ?_ (fun _ => ?_); rotate_left; clear_value x; rotate_right)
    | (intro x; clear_value x)
    | (lift_lets; intro x; refine Held.via (s := b) x ?_ (fun _ => ?_); rotate_left; clear_value x; rotate_right)
    | with_reducible apply State.resetRegs_held
    | with_reducible apply State.setReg_held
    | simp only [↓Held.mk_iff]
theorem execFunctionLevelReset_held (s : State) (z : State) (h : execFunctionLevelReset s = .next z) : Held s z := Held.next (functionReset_held (Held.refl _)) h
theorem pcieDown_held {b : State} {s : State} (h : Held b s) : Held b (pcieDown s) := by
  unfold pcieDown
  repeat' first
    | with_reducible assumption
    | with_reducible apply Held.ite
    | with_reducible apply State.setErr_held
    | with_reducible apply State.count_held
    | with_reducible apply State.setReg_held
theorem execPcieLinkDown_held (s : State) (z : State) (h : execPcieLinkDown s = .next z) : Held s z := Held.next (pcieDown_held (Held.refl _)) h
theorem pcieRetrain_held {b : State} {w : Writer} {v : W32} {s : State} (h : Held b s) : Held b (pcieRetrain w v s) := by
  unfold pcieRetrain
  repeat' first
    | with_reducible assumption
    | (lift_lets; intro x; clear_value x)
    | with_reducible apply Held.ite
    | simp only [↓Held.mk_iff]
theorem execPcieRetrain_held (w : Writer) (v : W32) (s : State) (z : State) (h : execPcieRetrain w v s = .next z) : Held s z := Held.next (pcieRetrain_held (Held.refl _)) h
theorem pcieUp_held {b : State} {rate : Nat} {width : Nat} {s : State} (h : Held b s) : Held b (pcieUp rate width s) := by
  unfold pcieUp
  repeat' first
    | with_reducible assumption
    | (intro x; refine Held.via (s := b) x ?_ (fun _ => ?_); rotate_left; clear_value x; rotate_right)
    | (intro x; clear_value x)
    | (lift_lets; intro x; clear_value x)
    | with_reducible apply Held.ite
    | with_reducible refine Held.foldl ?_ (fun u x _ => ?_)
    | with_reducible apply State.setReg_held
    | with_reducible apply State.msixFlush_held
    | simp only [↓Held.mk_iff]
theorem execPcieLinkUp_held (rate : BitVec 3) (width : BitVec 5) (s : State) (z : State) (h : execPcieLinkUp rate width s = .next z) : Held s z := Held.unit (pcieUp_held (Held.refl _)) h

end Sys2Proof.Machine
end

