-- ==== Sys2Proof/Laws/HeldLinks.lean ====
section
/-! SUPPORT. What each function of Links.lean leaves alone: the queue, FRC and the canonical form. -/

namespace Sys2Proof.Machine

theorem State.setLink_held {b : State} {s : State} {e : Nat} {x : LinkSt} (h : Held b s) : Held b (State.setLink s e x) := h.trans ⟨rfl, rfl, id⟩
theorem State.fabStat_held {b : State} {s : State} {d : Nat} (h : Held b s) : Held b (State.fabStat s d) := by
  unfold State.fabStat
  repeat' first
    | with_reducible assumption
    | (intro x; clear_value x)
    | (lift_lets; intro x; clear_value x)
    | with_reducible apply State.setReg_held
theorem State.fabStats_held {b : State} {s : State} (h : Held b s) : Held b (State.fabStats s) := by
  unfold State.fabStats
  repeat' first
    | with_reducible assumption
    | with_reducible apply State.fabStat_held
theorem State.lkEnter_held {b : State} {s : State} {e : Nat} {st : Nat} (h : Held b s) : Held b (State.lkEnter s e st) := by
  unfold State.lkEnter
  repeat' first
    | with_reducible assumption
    | (lift_lets; intro x; clear_value x)
    | with_reducible apply State.fabStats_held
    | with_reducible apply State.setLink_held
    | with_reducible apply State.setRegF_held
theorem State.lkDownBy_held {b : State} {s : State} {e : Nat} {cause : Nat} (h : Held b s) : Held b (State.lkDownBy s e cause) := by
  unfold State.lkDownBy
  repeat' first
    | with_reducible assumption
    | (intro x; refine Held.via (s := b) x ?_ (fun _ => ?_); rotate_left; clear_value x; rotate_right)
    | (lift_lets; intro x; refine Held.via (s := b) x ?_ (fun _ => ?_); rotate_left; clear_value x; rotate_right)
    | with_reducible apply State.lkEnter_held
    | with_reducible apply State.setRegF_held
    | with_reducible apply State.setErr_held
    | with_reducible apply State.setReg_held
    | split
theorem State.lkDetectIn_held {b : State} {s : State} {e : Nat} (h : Held b s) : Held b (State.lkDetectIn s e) := by
  unfold State.lkDetectIn
  repeat' first
    | with_reducible assumption
    | (intro x; refine Held.via (s := b) x ?_ (fun _ => ?_); rotate_left; clear_value x; rotate_right)
    | (lift_lets; intro x; clear_value x)
    | with_reducible apply State.setLink_held
    | with_reducible apply State.lkEnter_held
theorem linkTrain_held {b : State} {w : Writer} {e : Nat} {v : W32} {s : State} (h : Held b s) : Held b (linkTrain w e v s) := by
  unfold linkTrain
  repeat' first
    | with_reducible assumption
    | with_reducible apply Held.ite
    | with_reducible apply State.lkDetectIn_held
theorem execLinkTrain_held (w : Writer) (e : Nat) (v : W32) (s : State) (z : State) (h : execLinkTrain w e v s = .next z) : Held s z := Held.unit (linkTrain_held (Held.refl _)) h
theorem ghAutoDetect_held {b : State} {k : Nat} {s : State} (h : Held b s) : Held b (ghAutoDetect k s) := by
  unfold ghAutoDetect
  repeat' first
    | with_reducible assumption
    | with_reducible apply Held.ite
    | with_reducible apply State.lkDetectIn_held
theorem execGhLinkAutoDetect_held (k : Nat) (s : State) (z : State) (h : execGhLinkAutoDetect k s = .next z) : Held s z := Held.unit (ghAutoDetect_held (Held.refl _)) h
theorem partnerDetected_held {b : State} {e : Nat} {groups : Nat} {s : State} (h : Held b s) : Held b (partnerDetected e groups s) := by
  unfold partnerDetected
  repeat' first
    | with_reducible assumption
    | (lift_lets; intro x; clear_value x)
    | with_reducible apply Held.ite
    | with_reducible apply State.lkEnter_held
theorem execLinkPartnerDetected_held (e : Nat) (groups : BitVec 16) (s : State) (z : State) (h : execLinkPartnerDetected e groups s = .next z) : Held s z := Held.unit (partnerDetected_held (Held.refl _)) h
theorem linkTrainTimeout_held {b : State} {e : Nat} {s : State} (h : Held b s) : Held b (linkTrainTimeout e s) := by
  unfold linkTrainTimeout
  repeat' first
    | with_reducible assumption
    | with_reducible apply Held.ite
    | with_reducible apply State.lkDownBy_held
theorem execLinkTrainTimeout_held (e : Nat) (s : State) (z : State) (h : execLinkTrainTimeout e s = .next z) : Held s z := Held.unit (linkTrainTimeout_held (Held.refl _)) h
theorem linkNegotiate_held {b : State} {e : Nat} {s : State} (h : Held b s) : Held b (linkNegotiate e s) := by
  unfold linkNegotiate
  repeat' first
    | with_reducible assumption
    | (intro x; clear_value x)
    | (lift_lets; intro x; clear_value x)
    | with_reducible apply Held.ite
    | with_reducible apply State.lkDownBy_held
    | with_reducible apply State.lkEnter_held
    | with_reducible apply State.setRegF_held
theorem execLinkNegotiate_held (e : Nat) (s : State) (z : State) (h : execLinkNegotiate e s = .next z) : Held s z := Held.unit (linkNegotiate_held (Held.refl _)) h
theorem groupTrainEnd_held {b : State} {e : Nat} {pass : Nat} {s : State} (h : Held b s) : Held b (groupTrainEnd e pass s) := by
  unfold groupTrainEnd
  repeat' first
    | with_reducible assumption
    | (intro x; refine Held.via (s := b) x ?_ (fun _ => ?_); rotate_left; clear_value x; rotate_right)
    | (lift_lets; intro x; clear_value x)
    | with_reducible apply Held.ite
    | with_reducible apply State.setErrIf_held
    | with_reducible apply State.setReg_held
    | with_reducible apply State.lkEnter_held
theorem execLinkGroupTrainEnd_held (e : Nat) (pass : BitVec 16) (s : State) (z : State) (h : execLinkGroupTrainEnd e pass s = .next z) : Held s z := Held.unit (groupTrainEnd_held (Held.refl _)) h
theorem maskExchange_held {b : State} {e : Nat} {s : State} (h : Held b s) : Held b (maskExchange e s) := by
  unfold maskExchange
  repeat' first
    | with_reducible assumption
    | (intro x; refine Held.via (s := b) x ?_ (fun _ => ?_); rotate_left; clear_value x; rotate_right)
    | (intro x; clear_value x)
    | (lift_lets; intro x; clear_value x)
    | with_reducible apply Held.ite
    | with_reducible apply State.setReg_held
    | with_reducible apply State.lkDownBy_held
    | with_reducible apply State.setRegF_held
    | with_reducible apply State.lkEnter_held
    | with_reducible apply State.setLink_held
theorem execLinkMaskExchange_held (e : Nat) (s : State) (z : State) (h : execLinkMaskExchange e s = .next z) : Held s z := Held.unit (maskExchange_held (Held.refl _)) h
theorem State.lkForm_held {b : State} {s : State} {e : Nat} {g : Nat} {a4 : Nat} (h : Held b s) : Held b (State.lkForm s e g a4) := by
  fun_induction State.lkForm s e g a4 <;>
  repeat' first
    | with_reducible assumption
    | with_reducible apply State.emit_held
    | with_reducible apply State.setLink_held
    | with_reducible apply_assumption -exfalso -symm
theorem State.lkPlace_held {b : State} {s : State} {e : Nat} {g : Nat} {num : Nat} {ws : List LinkWord} (h : Held b s) : Held b (State.lkPlace s e g num ws) := by
  unfold State.lkPlace
  repeat' first
    | with_reducible assumption
    | (intro x; clear_value x)
    | (lift_lets; intro x; clear_value x)
    | with_reducible apply State.lkForm_held
    | with_reducible apply State.setLink_held
theorem State.lkSend_held {b : State} {s : State} {e : Nat} {ws : List LinkWord} (h : Held b s) : Held b (State.lkSend s e ws) := by
  unfold State.lkSend
  repeat' first
    | with_reducible assumption
    | (intro x; clear_value x)
    | (lift_lets; intro x; clear_value x)
    | with_reducible apply Held.ite
    | with_reducible apply State.lkPlace_held
    | with_reducible apply State.setLink_held
theorem State.lkOut_held {b : State} {s : State} {e : Nat} {num : Nat} {ws : List LinkWord} (h : Held b s) : Held b (State.lkOut s e num ws) := by
  unfold State.lkOut
  repeat' first
    | with_reducible assumption
    | (lift_lets; intro x; clear_value x)
    | with_reducible apply State.emit_held
theorem State.lkRelease_held {b : State} {s : State} {e : Nat} {a3 : Nat} (h : Held b s) : Held b (State.lkRelease s e a3) := by
  fun_induction State.lkRelease s e a3 <;>
  repeat' first
    | with_reducible assumption
    | with_reducible apply State.lkOut_held
    | with_reducible apply State.setLink_held
    | with_reducible apply_assumption -exfalso -symm
theorem State.lkTake_held {b : State} {s : State} {e : Nat} {g : Nat} {f : Flit} (h : Held b s) : Held b (State.lkTake s e g f) := by
  unfold State.lkTake
  repeat' first
    | with_reducible assumption
    | (intro x; clear_value x)
    | (lift_lets; intro x; clear_value x)
    | with_reducible apply State.lkRelease_held
    | with_reducible apply State.setLink_held
theorem flitReceive_held {b : State} {e : Nat} {g : Nat} {f : Flit} {s : State} (h : Held b s) : Held b (flitReceive e g f s) := by
  unfold flitReceive
  repeat' first
    | with_reducible assumption
    | (intro x; refine Held.via (s := b) x ?_ (fun _ => ?_); rotate_left; clear_value x; rotate_right)
    | (intro x; clear_value x)
    | (lift_lets; intro x; clear_value x)
    | with_reducible apply Held.ite
    | with_reducible apply State.setRegF_held
    | with_reducible apply State.lkTake_held
    | with_reducible apply State.setLink_held
    | with_reducible apply State.emit_held
    | with_reducible apply State.count_held
theorem execFlitReceive_held (e : Nat) (g : Nat) (f : Flit) (s : State) (z : State) (h : execFlitReceive e g f s = .next z) : Held s z := Held.unit (flitReceive_held (Held.refl _)) h
theorem State.lkMove_held {b : State} {s : State} {e : Nat} {g : Nat} (h : Held b s) : Held b (State.lkMove s e g) := by
  unfold State.lkMove
  repeat' first
    | with_reducible assumption
    | (intro x; refine Held.via (s := b) x ?_ (fun _ => ?_); rotate_left; clear_value x; rotate_right)
    | (intro x; clear_value x)
    | (lift_lets; intro x; clear_value x)
    | with_reducible refine Held.foldl ?_ (fun u x _ => ?_)
    | with_reducible apply State.setLink_held
    | with_reducible apply State.lkPlace_held
theorem State.lkRetire_held {b : State} {s : State} {e : Nat} {g : Nat} (h : Held b s) : Held b (State.lkRetire s e g) := by
  unfold State.lkRetire
  repeat' first
    | with_reducible assumption
    | (intro x; refine Held.via (s := b) x ?_ (fun _ => ?_); rotate_left; clear_value x; rotate_right)
    | (intro x; clear_value x)
    | (lift_lets; intro x; clear_value x)
    | with_reducible apply Held.ite
    | with_reducible apply State.setErr_held
    | with_reducible apply State.setReg_held
    | with_reducible apply State.setRegF_held
    | with_reducible apply State.lkDownBy_held
    | with_reducible apply State.lkMove_held
theorem linkReplay_held {b : State} {e : Nat} {g : Nat} {fseq : BitVec 12} {s : State} (h : Held b s) : Held b (linkReplay e g fseq s) := by
  unfold linkReplay
  repeat' first
    | with_reducible assumption
    | (intro x; refine Held.via (s := b) x ?_ (fun _ => ?_); rotate_left; clear_value x; rotate_right)
    | (intro x; clear_value x)
    | (lift_lets; intro x; clear_value x)
    | with_reducible apply Held.ite
    | with_reducible refine Held.foldl ?_ (fun u x _ => ?_)
    | with_reducible apply State.count_held
    | with_reducible apply State.setLink_held
    | with_reducible apply State.lkRetire_held
    | with_reducible apply State.emit_held
theorem execLinkReplay_held (e : Nat) (g : Nat) (fseq : BitVec 12) (s : State) (z : State) (h : execLinkReplay e g fseq s = .next z) : Held s z := Held.unit (linkReplay_held (Held.refl _)) h
theorem linkIdle_held {b : State} {e : Nat} {s : State} (h : Held b s) : Held b (linkIdle e s) := by
  unfold linkIdle
  repeat' first
    | with_reducible assumption
    | with_reducible apply Held.ite
    | with_reducible apply State.lkDownBy_held
theorem execLinkIdleTimeout_held (e : Nat) (s : State) (z : State) (h : execLinkIdleTimeout e s = .next z) : Held s z := Held.unit (linkIdle_held (Held.refl _)) h
theorem State.lkResetEnd_held {b : State} {s : State} {e : Nat} (h : Held b s) : Held b (State.lkResetEnd s e) := by
  unfold State.lkResetEnd
  repeat' first
    | with_reducible assumption
    | (intro x; refine Held.via (s := b) x ?_ (fun _ => ?_); rotate_left; clear_value x; rotate_right)
    | (intro x; clear_value x)
    | (lift_lets; intro x; clear_value x)
    | with_reducible refine Held.foldl ?_ (fun u x _ => ?_)
    | with_reducible apply State.setReg_held
    | with_reducible apply State.fabStats_held
    | with_reducible apply State.setLink_held

end Sys2Proof.Machine
end

