-- ==== Sys2Proof/Laws/HeldTime.lean ====
section
/-! SUPPORT. What each function of Time.lean leaves alone: the queue, FRC and the canonical form. -/

namespace Sys2Proof.Machine

theorem State.setTimeAt_held {b : State} {s : State} {a : Nat} {p : Nat} (h : Held b s) : Held b (State.setTimeAt s a p) := by
  unfold State.setTimeAt
  repeat' first
    | with_reducible assumption
    | (intro x; clear_value x)
    | (lift_lets; intro x; clear_value x)
    | with_reducible apply State.setReg_held
theorem State.setReg64_held {b : State} {s : State} {lo : Nat} {v : Nat} (h : Held b s) : Held b (State.setReg64 s lo v) := by
  unfold State.setReg64
  repeat' first
    | with_reducible assumption
    | with_reducible apply State.setReg_held
theorem State.setBase_held {b : State} {s : State} {off : Nat} {anchor : Nat} {rate : Nat} (h : Held b s) : Held b (State.setBase s off anchor rate) := by
  unfold State.setBase
  repeat' first
    | with_reducible assumption
    | (lift_lets; intro x; refine Held.via (s := b) x ?_ (fun _ => ?_); rotate_left; clear_value x; rotate_right)
    | with_reducible apply State.setReg_held
    | with_reducible apply State.setTimeAt_held
    | with_reducible apply State.setReg64_held
theorem State.rebase_held {b : State} {s : State} {rate : Nat} (h : Held b s) : Held b (State.rebase s rate) := State.setBase_held h
theorem State.takeRecord_held {b : State} {s : State} {bs : List Byte} (h : Held b s) : Held b (State.takeRecord s bs) := by
  unfold State.takeRecord
  repeat' first
    | with_reducible assumption
    | with_reducible apply State.count_held
    | with_reducible apply State.setReg_held
    | simp only [↓Held.mk_iff]
    | split
theorem domCfgWrite_held {b : State} {d : Nat} {v : W32} {s : State} (h : Held b s) : Held b (domCfgWrite d v s) := by
  unfold domCfgWrite
  repeat' first
    | with_reducible assumption
    | (intro x; refine Held.via (s := b) x ?_ (fun _ => ?_); rotate_left; clear_value x; rotate_right)
    | (lift_lets; intro x; clear_value x)
    | with_reducible apply Held.ite
    | with_reducible apply State.setReg_held
    | with_reducible apply State.setRegF_held
theorem takeRing_held {b : State} {x : Nat × List Byte × State} (h : Held b x.2.2) : Held b (takeRing x) := by
  unfold takeRing
  exact Held.foldl (Held.mk_iff.2 h) (fun _ _ k => State.takeRecord_held k)
theorem domainFetch_held {b s : State} (h : Held b s) : Held b (domainFetch s) :=
  Held.ite (takeRing_held (State.readB_held h)) h
theorem execDomainRecordFetch_held (s : State) (z : State) (h : execDomainRecordFetch s = .next z) : Held s z := Held.next (domainFetch_held (Held.refl _)) h
theorem domainStale_held {b : State} {d : Nat} {s : State} (h : Held b s) : Held b (domainStale d s) := by
  unfold domainStale
  repeat' first
    | with_reducible assumption
    | with_reducible apply Held.ite
    | with_reducible apply State.setRegF_held
theorem execDomainStale_held (d : Nat) (s : State) (z : State) (h : execDomainStale d s = .next z) : Held s z := Held.unit (domainStale_held (Held.refl _)) h
theorem domainSelect_held {b : State} {w : Writer} {v : W32} {s : State} (h : Held b s) : Held b (domainSelect w v s) := by
  unfold domainSelect
  repeat' first
    | with_reducible assumption
    | with_reducible apply Held.ite
    | with_reducible apply State.setReg_held
theorem execDomainSelectWrite_held (w : Writer) (v : W32) (s : State) (z : State) (h : execDomainSelectWrite w v s = .next z) : Held s z := Held.next (domainSelect_held (Held.refl _)) h
theorem commitWrite_held {b : State} {kind : Nat} {w : Writer} {s : State} (h : Held b s) : Held b (commitWrite kind w s) := by
  unfold commitWrite
  repeat' first
    | with_reducible assumption
    | (intro x; clear_value x)
    | (lift_lets; intro x; refine Held.via (s := b) x ?_ (fun _ => ?_); rotate_left; clear_value x; rotate_right)
    | with_reducible apply Held.ite
    | with_reducible apply State.setRegF_held
    | simp only [↓Held.mk_iff]
theorem execCommitRate_held (w : Writer) (s : State) (z : State) (h : execCommitRate w s = .next z) : Held s z := Held.next (commitWrite_held (Held.refl _)) h
theorem execCommitStepValue_held (w : Writer) (s : State) (z : State) (h : execCommitStepValue w s = .next z) : Held s z := Held.next (commitWrite_held (Held.refl _)) h
theorem execCommitStepDomain_held (w : Writer) (s : State) (z : State) (h : execCommitStepDomain w s = .next z) : Held s z := Held.next (commitWrite_held (Held.refl _)) h
theorem State.stepTo_held {b : State} {s : State} {p : Nat} {rate : Nat} (h : Held b s) : Held b (State.stepTo s p rate) := by
  unfold State.stepTo
  repeat' first
    | with_reducible assumption
    | (intro x; refine Held.via (s := b) x ?_ (fun _ => ?_); rotate_left; clear_value x; rotate_right)
    | (intro x; clear_value x)
    | (lift_lets; intro x; refine Held.via (s := b) x ?_ (fun _ => ?_); rotate_left; clear_value x; rotate_right)
    | with_reducible apply Held.ite
    | with_reducible apply State.setBase_held
    | with_reducible apply State.setRegF_held
    | simp only [↓Held.mk_iff]
theorem State.commitDomain_held {b : State} {s : State} {d : Nat} (h : Held b s) : Held b (State.commitDomain s d) := by
  unfold State.commitDomain
  repeat' first
    | with_reducible assumption
    | with_reducible apply Held.ite
    | with_reducible apply State.setTimeAt_held
    | with_reducible apply State.setReg64_held
    | with_reducible apply State.setReg_held
    | simp only [↓Held.mk_iff]
    | split
theorem State.commitTime_held {b : State} {s : State} (h : Held b s) : Held b (State.commitTime s) := by
  unfold State.commitTime
  repeat' first
    | with_reducible assumption
    | (intro x; refine Held.via (s := b) x ?_ (fun _ => ?_); rotate_left; clear_value x; rotate_right)
    | (intro x; clear_value x)
    | (lift_lets; intro x; refine Held.via (s := b) x ?_ (fun _ => ?_); rotate_left; clear_value x; rotate_right)
    | with_reducible apply Held.ite
    | with_reducible apply State.setRegF_held
    | with_reducible apply State.rebase_held
    | with_reducible apply State.stepTo_held
    | unfold x
    | simp only [↓Held.mk_iff]
    | split
theorem State.commitsDue_held {b : State} {s : State} (h : Held b s) : Held b (State.commitsDue s) := by
  unfold State.commitsDue
  repeat' first
    | with_reducible assumption
    | with_reducible apply Held.ite
    | with_reducible apply State.commitTime_held
    | with_reducible apply State.commitDomain_held
theorem State.steerTo_held {b : State} {s : State} {d : Nat} (h : Held b s) : Held b (State.steerTo s d) := by
  unfold State.steerTo
  repeat' first
    | with_reducible assumption
    | (lift_lets; intro x; clear_value x)
    | with_reducible apply State.setRegF_held
    | with_reducible apply State.rebase_held
theorem State.showErr_held {b : State} {s : State} {t : State} {k : Nat} (h : Held b t) : Held b (State.showErr s t k) := by
  unfold State.showErr
  repeat' first
    | with_reducible assumption
    | with_reducible apply Held.ite
    | with_reducible apply State.setReg_held
theorem frcSnapshot_held {b : State} {s : State} (h : Held b s) : Held b (frcSnapshot s) := by
  unfold frcSnapshot
  repeat' first
    | with_reducible assumption
    | with_reducible apply State.setTimeAt_held
    | with_reducible apply State.setReg64_held
theorem execFrcSnapshot_held (s : State) (z : State) (h : execFrcSnapshot s = .next z) : Held s z := Held.next (frcSnapshot_held (Held.refl _)) h
theorem State.setRep_held {b : State} {s : State} {r : Nat} {x : RepSt} (h : Held b s) : Held b (State.setRep s r x) := by
  unfold State.setRep
  repeat' first
    | with_reducible assumption
    | (lift_lets; intro x; clear_value x)
    | simp only [↓Held.mk_iff]
theorem State.repCount_held {b : State} {s : State} {r : Nat} (h : Held b s) : Held b (State.repCount s r).2 := by
  unfold State.repCount
  repeat' first
    | with_reducible assumption
    | with_reducible apply Held.iteSnd
    | with_reducible apply State.draw_held
theorem replicaSnapshot_held {b : State} {r : Nat} {s : State} (h : Held b s) : Held b (replicaSnapshot r s) := by
  unfold replicaSnapshot
  repeat' first
    | with_reducible assumption
    | (lift_lets; intro x; clear_value x)
    | with_reducible apply State.repCount_held
    | with_reducible apply State.setTimeAt_held
    | with_reducible apply State.setReg64_held
theorem execReplicaSnapshot_held (r : Nat) (s : State) (z : State) (h : execReplicaSnapshot r s = .next z) : Held s z := Held.unit (replicaSnapshot_held (Held.refl _)) h
theorem syncWord_held {b : State} {r : Nat} {s : State} (h : Held b s) : Held b (syncWord r s) := by
  unfold syncWord
  repeat' first
    | with_reducible assumption
    | (intro x; clear_value x)
    | (lift_lets; intro x; clear_value x)
    | with_reducible apply Held.ite
    | with_reducible apply State.drawNat_held
    | with_reducible apply State.setReg_held
    | with_reducible apply State.setRep_held
    | simp only [↓Held.mk_iff]
    | split
theorem execSyncWord_held (r : Nat) (s : State) (z : State) (h : execSyncWord r s = .next z) : Held s z := Held.unit (syncWord_held (Held.refl _)) h
theorem replicaLoss_held {b : State} {r : Nat} {s : State} (h : Held b s) : Held b (replicaLoss r s) := by
  unfold replicaLoss
  repeat' first
    | with_reducible assumption
    | with_reducible apply Held.ite
    | with_reducible apply State.setRegF_held
    | split
theorem execReplicaSyncLoss_held (r : Nat) (s : State) (z : State) (h : execReplicaSyncLoss r s = .next z) : Held s z := Held.unit (replicaLoss_held (Held.refl _)) h
theorem State.setAgree_held {b : State} {s : State} {r : Nat} {v : Bool} (h : Held b s) : Held b (State.setAgree s r v) := by
  unfold State.setAgree
  repeat' first
    | with_reducible assumption
    | (intro x; refine Held.via (s := b) x ?_ (fun _ => ?_); rotate_left; clear_value x; rotate_right)
    | (lift_lets; intro x; clear_value x)
    | with_reducible apply Held.ite
    | with_reducible apply State.setReg_held
    | with_reducible apply State.evidence_held
    | with_reducible apply State.count_held
theorem State.echo_held {b : State} {s : State} {r : Nat} {e : Option Int} (h : Held b s) : Held b (State.echo s r e) := by
  unfold State.echo
  repeat' first
    | with_reducible assumption
    | (intro x; refine Held.via (s := b) x ?_ (fun _ => ?_); rotate_left; clear_value x; rotate_right)
    | (intro x; clear_value x)
    | (lift_lets; intro x; clear_value x)
    | with_reducible apply Held.ite
    | with_reducible apply State.setRegF_held
    | with_reducible apply State.setRep_held
    | with_reducible apply State.setAgree_held
    | simp only [↓Held.mk_iff]
    | split
theorem State.setTrig_held {b : State} {s : State} {e : Nat} {x : Trig} (h : Held b s) : Held b (State.setTrig s e x) := by
  unfold State.setTrig
  repeat' first
    | with_reducible assumption
    | (lift_lets; intro x; clear_value x)
    | simp only [↓Held.mk_iff]
theorem State.trigAfter_held {b : State} {s : State} {e : Nat} (h : Held b s) : Held b (State.trigAfter s e) := by
  unfold State.trigAfter
  repeat' first
    | with_reducible assumption
    | (lift_lets; intro x; clear_value x)
    | with_reducible apply Held.ite
    | with_reducible apply State.setRegF_held
    | with_reducible apply State.setTrig_held
theorem State.trigFired_held {b : State} {s : State} {e : Nat} {late : Option Nat} (h : Held b s) : Held b (State.trigFired s e late) := by
  unfold State.trigFired
  repeat' first
    | with_reducible assumption
    | (intro x; refine Held.via (s := b) x ?_ (fun _ => ?_); rotate_left; clear_value x; rotate_right)
    | (intro x; clear_value x)
    | (lift_lets; intro x; clear_value x)
    | with_reducible apply State.setReg_held
    | with_reducible apply State.count_held
    | with_reducible apply State.icuPulse_held
    | unfold x
    | split
theorem State.trigDiscard_held {b : State} {s : State} {e : Nat} (h : Held b s) : Held b (State.trigDiscard s e) := by
  unfold State.trigDiscard
  repeat' first
    | with_reducible assumption
    | with_reducible apply State.trigAfter_held
    | with_reducible apply State.count_held
    | with_reducible apply State.setRegF_held
theorem State.setCap_held {b : State} {s : State} {c : Nat} {l : List (Tick × Bool)} (h : Held b s) : Held b (State.setCap s c l) := by
  unfold State.setCap
  repeat' first
    | with_reducible assumption
    | (intro x; clear_value x)
    | (lift_lets; intro x; refine Held.via (s := b) x ?_ (fun _ => ?_); rotate_left; clear_value x; rotate_right)
    | with_reducible apply State.setRegF_held
    | simp only [↓Held.mk_iff]
theorem captureEdge_held {b : State} {c : Nat} {falling : Bool} {at_ : Tick} {s : State} (h : Held b s) : Held b (captureEdge c falling at_ s) := by
  unfold captureEdge
  repeat' first
    | with_reducible assumption
    | (intro x; clear_value x)
    | (lift_lets; intro x; clear_value x)
    | with_reducible apply Held.ite
    | with_reducible apply State.setRegF_held
    | with_reducible apply State.icuPulse_held
    | with_reducible apply State.setCap_held
theorem execCaptureEdge_held (c : Nat) (falling : Bool) (at_ : Tick) (s : State) (z : State) (h : execCaptureEdge c falling at_ s = .next z) : Held s z := Held.unit (captureEdge_held (Held.refl _)) h
theorem captureRead_held {b : State} {c : Nat} {s : State} (h : Held b s) : Held b (captureRead c s) := by
  unfold captureRead
  repeat' first
    | with_reducible assumption
    | with_reducible apply State.setRegF_held
    | with_reducible apply State.setCap_held
    | with_reducible apply State.setReg64_held
    | split
theorem execCaptureRead_held (c : Nat) (s : State) (z : State) (h : execCaptureRead c s = .next z) : Held s z := Held.unit (captureRead_held (Held.refl _)) h
theorem ppsCfgWrite_held {b : State} {v : W32} {s : State} (h : Held b s) : Held b (ppsCfgWrite v s) := by
  unfold ppsCfgWrite
  repeat' first
    | with_reducible assumption
    | (intro x; clear_value x)
    | (lift_lets; intro x; refine Held.via (s := b) x ?_ (fun _ => ?_); rotate_left; clear_value x; rotate_right)
    | with_reducible apply Held.ite
    | with_reducible apply State.setReg_held
    | simp only [↓Held.mk_iff]
theorem ppsPulse_held {b : State} {s : State} (h : Held b s) : Held b (ppsPulse s) := by
  unfold ppsPulse
  repeat' first
    | with_reducible assumption
    | (intro x; clear_value x)
    | (lift_lets; intro x; clear_value x)
    | with_reducible apply Held.ite
    | simp only [↓Held.mk_iff]
theorem execPpsPulse_held (s : State) (z : State) (h : execPpsPulse s = .next z) : Held s z := Held.next (ppsPulse_held (Held.refl _)) h
theorem ppsPulseEnd_held {b : State} {s : State} (h : Held b s) : Held b (ppsPulseEnd s) := by
  unfold ppsPulseEnd
  repeat' first
    | with_reducible assumption
    | (lift_lets; intro x; clear_value x)
    | with_reducible apply Held.ite
    | simp only [↓Held.mk_iff]
    | split
theorem execPpsPulseEnd_held (s : State) (z : State) (h : execPpsPulseEnd s = .next z) : Held s z := Held.next (ppsPulseEnd_held (Held.refl _)) h

end Sys2Proof.Machine
end

