-- ==== Sys2Proof/Laws/HeldWatchdog.lean ====
section
/-! SUPPORT. What each function of Watchdog.lean leaves alone: the queue, FRC and the canonical form. -/

namespace Sys2Proof.Machine

theorem State.setWdState_held {b : State} {s : State} {w : Nat} {n : Nat} (h : Held b s) : Held b (State.setWdState s w n) := State.setRegF_held h
theorem State.setWd_held {b : State} {s : State} {w : Nat} {x : WdSt} (h : Held b s) : Held b (State.setWd s w x) := h.trans ⟨rfl, rfl, id⟩
theorem State.wdBite_held {b : State} {s : State} {w : Nat} {cause : Nat} (h : Held b s) : Held b (State.wdBite s w cause) := by
  unfold State.wdBite
  repeat' first
    | with_reducible assumption
    | (intro x; refine Held.via (s := b) x ?_ (fun _ => ?_); rotate_left; clear_value x; rotate_right)
    | (lift_lets; intro x; clear_value x)
    | with_reducible apply Held.ite
    | with_reducible apply State.setWd_held
    | with_reducible apply State.setRegF_held
    | with_reducible apply State.setWdState_held
    | with_reducible apply State.setReg_held
    | with_reducible apply State.draw_held
    | with_reducible apply State.setErr_held
theorem wdTimeout_held {b : State} {w : Nat} {s : State} (h : Held b s) : Held b (wdTimeout w s) := by
  unfold wdTimeout
  repeat' first
    | with_reducible assumption
    | with_reducible apply State.wdBite_held
    | split
theorem execWatchdogTimeout_held (w : Nat) (s : State) (z : State) (h : execWatchdogTimeout w s = .next z) : Held s z := Held.unit (wdTimeout_held (Held.refl _)) h
theorem State.wdAccept_held {b : State} {s : State} {w : Nat} (h : Held b s) : Held b (State.wdAccept s w) := by
  unfold State.wdAccept
  repeat' first
    | with_reducible assumption
    | (intro x; refine Held.via (s := b) x ?_ (fun _ => ?_); rotate_left; clear_value x; rotate_right)
    | (intro x; refine Held.viaF2 (s := b) x (fun u k l _ => ?_) (fun hf2 => ?_); rotate_left; clear_value x; rotate_right)
    | (lift_lets; intro x; clear_value x)
    | with_reducible apply State.setReg_held
    | with_reducible apply State.setWd_held
    | with_reducible apply State.setRegF_held
    | with_reducible apply State.count_held
    | with_reducible apply hf2
    | unfold x
    | split
theorem State.wdKey_held {b : State} {s : State} {w : Nat} {v : Nat} (h : Held b s) : Held b (State.wdKey s w v) := by
  unfold State.wdKey
  repeat' first
    | with_reducible assumption
    | (intro x; clear_value x)
    | (lift_lets; intro x; clear_value x)
    | with_reducible apply Held.ite
    | with_reducible apply State.wdBite_held
    | with_reducible apply State.setWd_held
    | with_reducible apply State.setRegF_held
    | with_reducible apply State.wdAccept_held
    | split
theorem State.wdTouch_held {b : State} {s : State} {w : Nat} (h : Held b s) : Held b (State.wdTouch s w) := by
  unfold State.wdTouch
  repeat' first
    | with_reducible assumption
    | (lift_lets; intro x; clear_value x)
    | with_reducible apply Held.ite
    | with_reducible apply State.setWd_held
theorem wdKeyWrite_held {b : State} {x : Writer} {w : Nat} {v : W32} {s : State} (h : Held b s) : Held b (wdKeyWrite x w v s) := by
  unfold wdKeyWrite
  repeat' first
    | with_reducible assumption
    | with_reducible apply Held.ite
    | with_reducible apply State.wdKey_held
theorem execWdKey_held (x : Writer) (w : Nat) (v : W32) (s : State) (z : State) (h : execWdKey x w v s = .next z) : Held s z := Held.unit (wdKeyWrite_held (Held.refl _)) h
theorem State.wdStart_held {b : State} {s : State} {w : Nat} {v : W32} (h : Held b s) : Held b (State.wdStart s w v) := by
  unfold State.wdStart
  repeat' first
    | with_reducible assumption
    | (intro x; refine Held.via (s := b) x ?_ (fun _ => ?_); rotate_left; clear_value x; rotate_right)
    | (intro x; clear_value x)
    | (lift_lets; intro x; refine Held.via (s := b) x ?_ (fun _ => ?_); rotate_left; clear_value x; rotate_right)
    | with_reducible apply State.setReg_held
    | with_reducible apply State.setWd_held
    | with_reducible apply State.setWdState_held
theorem wdCtrlWrite_held {b : State} {x : Writer} {w : Nat} {v : W32} {s : State} (h : Held b s) : Held b (wdCtrlWrite x w v s) := by
  unfold wdCtrlWrite
  repeat' first
    | with_reducible assumption
    | (intro x; clear_value x)
    | (lift_lets; intro x; refine Held.via (s := b) x ?_ (fun _ => ?_); rotate_left; clear_value x; rotate_right)
    | with_reducible apply Held.ite
    | with_reducible apply State.wdStart_held
    | with_reducible apply State.wdTouch_held
    | with_reducible apply State.setRegF_held
    | with_reducible apply State.setWd_held
theorem execWdCtrlWrite_held (x : Writer) (w : Nat) (v : W32) (s : State) (z : State) (h : execWdCtrlWrite x w v s = .next z) : Held s z := Held.unit (wdCtrlWrite_held (Held.refl _)) h
theorem wdWindowWrite_held {b : State} {x : Writer} {w : Nat} {close : Bool} {v : W32} {s : State} (h : Held b s) : Held b (wdWindowWrite x w close v s) := by
  unfold wdWindowWrite
  repeat' first
    | with_reducible assumption
    | (intro x; refine Held.via (s := b) x ?_ (fun _ => ?_); rotate_left; clear_value x; rotate_right)
    | (intro x; clear_value x)
    | (lift_lets; intro x; clear_value x)
    | with_reducible apply Held.ite
    | with_reducible apply State.wdTouch_held
    | with_reducible apply State.setWd_held
    | with_reducible apply State.setReg_held
    | with_reducible apply State.setRegF_held
theorem execWdWindowWrite_held (x : Writer) (w : Nat) (close : Bool) (v : W32) (s : State) (z : State) (h : execWdWindowWrite x w close v s = .next z) : Held s z := Held.unit (wdWindowWrite_held (Held.refl _)) h
theorem wdBiteClr_held {b : State} {x : Writer} {w : Nat} {v : W32} {s : State} (h : Held b s) : Held b (wdBiteClr x w v s) := by
  unfold wdBiteClr
  repeat' first
    | with_reducible assumption
    | (lift_lets; intro x; refine Held.via (s := b) x ?_ (fun _ => ?_); rotate_left; clear_value x; rotate_right)
    | with_reducible apply Held.ite
    | with_reducible apply State.wdTouch_held
    | with_reducible apply State.setReg_held
    | with_reducible apply State.setRegF_held
theorem execWdBiteClr_held (x : Writer) (w : Nat) (v : W32) (s : State) (z : State) (h : execWdBiteClr x w v s = .next z) : Held s z := Held.unit (wdBiteClr_held (Held.refl _)) h
theorem debugHalt_held {b : State} {w : Nat} {cross : Bool} {s : State} (h : Held b s) : Held b (debugHalt w cross s) := by
  unfold debugHalt
  repeat' first
    | with_reducible assumption
    | (intro x; clear_value x)
    | (lift_lets; intro x; refine Held.via (s := b) x ?_ (fun _ => ?_); rotate_left; clear_value x; rotate_right)
    | with_reducible apply Held.ite
    | with_reducible apply State.setWdState_held
    | with_reducible apply State.setWd_held
    | unfold x
    | simp only [↓Held.mk_iff]
theorem execDebugHalt_held (w : Nat) (cross : Bool) (s : State) (z : State) (h : execDebugHalt w cross s = .next z) : Held s z := Held.unit (debugHalt_held (Held.refl _)) h
theorem debugResume_held {b : State} {w : Nat} {s : State} (h : Held b s) : Held b (debugResume w s) := by
  unfold debugResume
  repeat' first
    | with_reducible assumption
    | (intro x; clear_value x)
    | (lift_lets; intro x; refine Held.via (s := b) x ?_ (fun _ => ?_); rotate_left; clear_value x; rotate_right)
    | with_reducible apply Held.ite
    | with_reducible apply State.setWdState_held
    | with_reducible apply State.setWd_held
    | unfold x
    | simp only [↓Held.mk_iff]
theorem execDebugResume_held (w : Nat) (s : State) (z : State) (h : execDebugResume w s = .next z) : Held s z := Held.unit (debugResume_held (Held.refl _)) h
theorem State.wdReset_held {b : State} {s : State} {w : Nat} (h : Held b s) : Held b (State.wdReset s w) := by
  unfold State.wdReset
  repeat' first
    | with_reducible assumption
    | (intro x; refine Held.via (s := b) x ?_ (fun _ => ?_); rotate_left; clear_value x; rotate_right)
    | (intro x; clear_value x)
    | (lift_lets; intro x; clear_value x)
    | with_reducible apply State.resetRegs_held
    | with_reducible apply State.setReg_held
    | with_reducible apply State.setRegF_held
    | simp only [↓Held.mk_iff]

end Sys2Proof.Machine
end

