-- ==== Sys2Proof/Laws/HeldUnits.lean ====
section
/-! SUPPORT. What each function of Units.lean leaves alone: the queue, FRC and the canonical form. -/

namespace Sys2Proof.Machine

theorem State.resetWindows_held {b : State} {s : State} {u : UnitId} {keep : UnitId → Nat → Bool} (h : Held b s) : Held b (State.resetWindows s u keep) := by
  unfold State.resetWindows
  repeat' first
    | with_reducible assumption
    | (with_reducible refine Held.mkForm ?_ (by with_reducible exact regsWf_keep _ _) (by with_reducible exact id) (by with_reducible exact id))
theorem State.loseJobs_held {b : State} {s : State} {u : UnitId} (h : Held b s) : Held b (State.loseJobs s u) := by
  unfold State.loseJobs
  repeat' first
    | with_reducible assumption
    | (intro x; clear_value x)
    | (lift_lets; intro x; clear_value x)
    | simp only [↓Held.mk_iff]
theorem State.unitGone_held {b : State} {s : State} {u : UnitId} (h : Held b s) : Held b (State.unitGone s u) := by
  unfold State.unitGone
  repeat' first
    | with_reducible assumption
    | (intro x; clear_value x)
    | (lift_lets; intro x; refine Held.via (s := b) x ?_ (fun _ => ?_); rotate_left; clear_value x; rotate_right)
    | with_reducible apply State.loseJobs_held
    | simp only [↓Held.mk_iff]
theorem State.coreReset_held {b : State} {s : State} {u : UnitId} (h : Held b s) : Held b (State.coreReset s u) := by
  unfold State.coreReset
  repeat' first
    | with_reducible assumption
    | (intro x; refine Held.via (s := b) x ?_ (fun _ => ?_); rotate_left; clear_value x; rotate_right)
    | (intro x; clear_value x)
    | (lift_lets; intro x; clear_value x)
    | with_reducible apply State.resetWindows_held
    | with_reducible apply State.unitGone_held
    | with_reducible apply State.withFalls_held
    | with_reducible apply State.setCore_held
    | unfold x
    | (with_reducible refine Held.mkForm ?_ (by with_reducible exact id) (by with_reducible exact Memory.wf_clearIn _ _ _) (by with_reducible exact Tab.wf_clearIn _ _ _ _))
theorem State.cyclesZero_held {b : State} {s : State} {u : UnitId} (h : Held b s) : Held b (State.cyclesZero s u) := by
  unfold State.cyclesZero
  repeat' first
    | with_reducible assumption
    | (lift_lets; intro x; clear_value x)
    | with_reducible apply Held.ite
    | simp only [↓Held.mk_iff]
theorem State.groupReset_held {b : State} {s : State} {u : UnitId} (h : Held b s) : Held b (State.groupReset s u) := by
  unfold State.groupReset
  repeat' first
    | with_reducible assumption
    | (intro x; refine Held.via (s := b) x ?_ (fun _ => ?_); rotate_left; clear_value x; rotate_right)
    | (lift_lets; intro x; refine Held.via (s := b) x ?_ (fun _ => ?_); rotate_left; clear_value x; rotate_right)
    | (lift_lets; intro x; clear_value x)
    | with_reducible refine Held.foldl ?_ (fun u x _ => ?_)
    | with_reducible apply State.resetWindows_held
    | with_reducible apply State.unitGone_held
    | with_reducible apply State.setReg_held
    | with_reducible apply State.cyclesZero_held
    | with_reducible apply State.wdReset_held
    | unfold x
    | simp only [↓Held.mk_iff]
    | (with_reducible refine Held.mkForm ?_ (by with_reducible exact id) (by with_reducible exact Memory.wf_keep _ _) (by with_reducible exact Tab.wf_keep _ _ _))
theorem State.setScopes_held {b : State} {s : State} {v : BitVec 4} (h : Held b s) : Held b (State.setScopes s v) := by
  unfold State.setScopes
  repeat' first
    | with_reducible assumption
    | (intro x; refine Held.via (s := b) x ?_ (fun _ => ?_); rotate_left; clear_value x; rotate_right)
    | (intro x; clear_value x)
    | (lift_lets; intro x; clear_value x)
    | with_reducible apply Held.ite
    | with_reducible apply State.setErr_held
    | unfold x
    | simp only [↓Held.mk_iff]
theorem State.closeScopes_held {b : State} {s : State} {mask : BitVec 4} (h : Held b s) : Held b (State.closeScopes s mask) := State.setScopes_held h
theorem State.dieClosesScope_held {b : State} {s : State} {d : Nat} (h : Held b s) : Held b (State.dieClosesScope s d) := by
  unfold State.dieClosesScope
  repeat' first
    | with_reducible assumption
    | (intro x; refine Held.via (s := b) x ?_ (fun _ => ?_); rotate_left; clear_value x; rotate_right)
    | (intro x; clear_value x)
    | (lift_lets; intro x; clear_value x)
    | with_reducible apply Held.ite
    | with_reducible apply State.closeScopes_held
    | unfold x
    | simp only [↓Held.mk_iff]
theorem State.dieUntrip_held {b : State} {s : State} {d : Nat} (h : Held b s) : Held b (State.dieUntrip s d) := by
  unfold State.dieUntrip
  repeat' first
    | with_reducible assumption
    | (lift_lets; intro x; clear_value x)
    | with_reducible apply Held.ite
    | with_reducible apply State.setRegF_held
    | with_reducible apply State.clkSettle_held
theorem State.dieParts_held {b : State} {s : State} {d : Nat} (h : Held b s) : Held b (State.dieParts s d) := by
  unfold State.dieParts
  repeat' first
    | with_reducible assumption
    | (lift_lets; intro x; clear_value x)
    | with_reducible refine Held.foldl ?_ (fun u x _ => ?_)
    | with_reducible apply State.lkResetEnd_held
    | with_reducible apply State.dieUntrip_held
    | with_reducible apply State.dieClosesScope_held
    | with_reducible apply State.setRep_held
    | simp only [↓Held.mk_iff]
theorem State.unitReset_held {b : State} {s : State} {u : UnitId} (h : Held b s) : Held b (State.unitReset s u) := by
  unfold State.unitReset
  repeat' first
    | with_reducible assumption
    | with_reducible apply Held.ite
    | with_reducible refine Held.foldl ?_ (fun u x _ => ?_)
    | with_reducible apply State.withFalls_held
    | with_reducible apply State.coreReset_held
    | with_reducible apply State.chkGone_held
    | with_reducible apply State.dieParts_held
    | with_reducible apply State.groupReset_held
theorem State.diePowerOff_held {b : State} {s : State} {d : Nat} {loseDram : Bool} (h : Held b s) : Held b (State.diePowerOff s d loseDram) := by
  unfold State.diePowerOff
  repeat' first
    | with_reducible assumption
    | (intro x; refine Held.via (s := b) x ?_ (fun _ => ?_); rotate_left; clear_value x; rotate_right)
    | (intro x; clear_value x)
    | (lift_lets; intro x; clear_value x)
    | with_reducible apply Held.ite
    | with_reducible apply State.unitReset_held
    | with_reducible apply State.setRegF_held
    | unfold x
    | (with_reducible refine Held.mkForm ?_ (by with_reducible exact regsWf_keep _ _) (by with_reducible exact id) (by with_reducible exact id))
    | (with_reducible refine Held.mkForm ?_ (by with_reducible exact id) (by with_reducible exact Memory.wf_keep _ _) (by with_reducible exact Tab.wf_keep _ _ _))
theorem State.setUcmd_held {b : State} {s : State} {u : UnitId} {c : Option UCmd} (h : Held b s) : Held b (State.setUcmd s u c) := h.trans ⟨rfl, rfl, id⟩
theorem State.setStats_held {b : State} {s : State} {u : UnitId} {lo : Nat} {n : Nat} {x : Nat} (h : Held b s) : Held b (State.setStats s u lo n x) := by
  unfold State.setStats
  repeat' first
    | with_reducible assumption
    | with_reducible refine Held.foldl ?_ (fun u x _ => ?_)
    | with_reducible apply State.setRegF_held
theorem State.cmdProceed_held {b : State} {s : State} {u : UnitId} {c : UCmd} (h : Held b s) : Held b (State.cmdProceed s u c) := by
  unfold State.cmdProceed
  repeat' first
    | with_reducible assumption
    | (intro x; refine Held.via (s := b) x ?_ (fun _ => ?_); rotate_left; clear_value x; rotate_right)
    | (lift_lets; intro x; refine Held.via (s := b) x ?_ (fun _ => ?_); rotate_left; clear_value x; rotate_right)
    | with_reducible apply Held.ite
    | with_reducible apply State.unitReset_held
    | with_reducible apply State.setStats_held
    | with_reducible apply State.setUcmd_held
theorem State.cmdAbsorb_held {b : State} {s : State} {u : UnitId} {c : UCmd} (h : Held b s) : Held b (State.cmdAbsorb s u c) := by
  unfold State.cmdAbsorb
  repeat' first
    | with_reducible assumption
    | (intro x; refine Held.via (s := b) x ?_ (fun _ => ?_); rotate_left; clear_value x; rotate_right)
    | (lift_lets; intro x; refine Held.via (s := b) x ?_ (fun _ => ?_); rotate_left; clear_value x; rotate_right)
    | (lift_lets; intro x; clear_value x)
    | with_reducible apply Held.ite
    | with_reducible refine Held.foldl ?_ (fun u x _ => ?_)
    | with_reducible apply State.setStats_held
    | with_reducible apply State.setCore_held
    | with_reducible apply State.setUcmd_held
theorem State.cmdDrain_held {b : State} {s : State} {u : UnitId} {c : UCmd} (h : Held b s) : Held b (State.cmdDrain s u c) := by
  unfold State.cmdDrain
  repeat' first
    | with_reducible assumption
    | (intro x; refine Held.via (s := b) x ?_ (fun _ => ?_); rotate_left; clear_value x; rotate_right)
    | (lift_lets; intro x; refine Held.via (s := b) x ?_ (fun _ => ?_); rotate_left; clear_value x; rotate_right)
    | with_reducible apply Held.ite
    | with_reducible refine Held.foldl ?_ (fun u x _ => ?_)
    | with_reducible apply State.setUstate_held
    | with_reducible apply preemptWrite_held
    | with_reducible apply State.setUcmd_held
    | with_reducible apply State.setStats_held
theorem State.cmdBegin_held {b : State} {s : State} {u : UnitId} {c : UCmd} (h : Held b s) : Held b (State.cmdBegin s u c) := by
  unfold State.cmdBegin
  repeat' first
    | with_reducible assumption
    | (lift_lets; intro x; refine Held.via (s := b) x ?_ (fun _ => ?_); rotate_left; clear_value x; rotate_right)
    | with_reducible apply Held.ite
    | with_reducible apply State.setStats_held
    | with_reducible apply State.cmdAbsorb_held
    | with_reducible apply State.cmdDrain_held
theorem State.startRelease_held {b : State} {s : State} {u : UnitId} (h : Held b s) : Held b (State.startRelease s u) := by
  unfold State.startRelease
  repeat' first
    | with_reducible assumption
    | (lift_lets; intro x; refine Held.via (s := b) x ?_ (fun _ => ?_); rotate_left; clear_value x; rotate_right)
    | with_reducible apply State.setStats_held
    | with_reducible apply State.setUcmd_held
theorem State.cmdWake_held {b : State} {s : State} (h : Held b s) : Held b (State.cmdWake s) := by
  unfold State.cmdWake
  repeat' first
    | with_reducible assumption
    | (lift_lets; intro x; clear_value x)
    | with_reducible apply Held.ite
    | with_reducible refine Held.foldl ?_ (fun u x _ => ?_)
    | with_reducible apply State.startRelease_held
    | with_reducible apply State.cmdBegin_held
    | split
theorem State.ctrlTouched_held {b : State} {s : State} {page : Nat} (h : Held b s) : Held b (State.ctrlTouched s page) := h.trans ⟨rfl, rfl, id⟩
theorem unitCommand_held {b : State} {w : Writer} {u : UnitId} {cmd : Nat} {absorb : Bool} {drainTo : Nat} {s : State} (h : Held b s) : Held b (unitCommand w u cmd absorb drainTo s) := by
  unfold unitCommand
  repeat' first
    | with_reducible assumption
    | (intro x; clear_value x)
    | (lift_lets; intro x; refine Held.viaF1 (s := b) x (fun u _ => ?_) (fun hk => ?_); rotate_left; clear_value x; rotate_right)
    | with_reducible apply Held.ite
    | with_reducible apply State.setErr_held
    | with_reducible apply State.ctrlTouched_held
    | with_reducible apply State.setReg_held
    | with_reducible apply State.cmdAbsorb_held
    | with_reducible apply State.setUcmd_held
    | with_reducible apply State.cmdBegin_held
    | with_reducible apply State.startRelease_held
    | with_reducible apply hk
    | split
theorem execReset_held (w : Writer) (u : UnitId) (absorb : Bool) (drainTo : BitVec 16) (s : State) (z : State) (h : execReset w u absorb drainTo s = .next z) : Held s z := Held.unit (unitCommand_held (Held.refl _)) h
theorem execHold_held (w : Writer) (u : UnitId) (absorb : Bool) (drainTo : BitVec 16) (s : State) (z : State) (h : execHold w u absorb drainTo s = .next z) : Held s z := Held.unit (unitCommand_held (Held.refl _)) h
theorem execRelease_held (w : Writer) (u : UnitId) (s : State) (z : State) (h : execRelease w u s = .next z) : Held s z := Held.unit (unitCommand_held (Held.refl _)) h
theorem execPowerDown_held (w : Writer) (u : UnitId) (absorb : Bool) (drainTo : BitVec 16) (s : State) (z : State) (h : execPowerDown w u absorb drainTo s = .next z) : Held s z := Held.unit (unitCommand_held (Held.refl _)) h
theorem drainComplete_held {b : State} {u : UnitId} {s : State} (h : Held b s) : Held b (drainComplete u s) := by
  unfold drainComplete
  repeat' first
    | with_reducible assumption
    | with_reducible apply Held.ite
    | with_reducible apply State.cmdWake_held
    | with_reducible apply State.cmdProceed_held
    | split
theorem execDrainComplete_held (u : UnitId) (s : State) (z : State) (h : execDrainComplete u s = .next z) : Held s z := Held.unit (drainComplete_held (Held.refl _)) h
theorem drainTimeout_held {b : State} {u : UnitId} {s : State} (h : Held b s) : Held b (drainTimeout u s) := by
  unfold drainTimeout
  repeat' first
    | with_reducible assumption
    | with_reducible apply Held.ite
    | with_reducible apply State.setStats_held
    | with_reducible apply State.cmdAbsorb_held
    | split
theorem execDrainTimeout_held (u : UnitId) (s : State) (z : State) (h : execDrainTimeout u s = .next z) : Held s z := Held.unit (drainTimeout_held (Held.refl _)) h
theorem absorbComplete_held {b : State} {u : UnitId} {s : State} (h : Held b s) : Held b (absorbComplete u s) := by
  unfold absorbComplete
  repeat' first
    | with_reducible assumption
    | with_reducible apply Held.ite
    | with_reducible apply State.cmdWake_held
    | with_reducible apply State.cmdProceed_held
    | split
theorem unitInitComplete_held {b : State} {u : UnitId} {ok : Bool} {s : State} (h : Held b s) : Held b (unitInitComplete u ok s) := by
  unfold unitInitComplete
  repeat' first
    | with_reducible assumption
    | (lift_lets; intro x; refine Held.viaF1 (s := b) x (fun u _ => ?_) (fun hk => ?_); rotate_left; clear_value x; rotate_right)
    | with_reducible apply Held.ite
    | with_reducible refine Held.foldl ?_ (fun u x _ => ?_)
    | with_reducible apply State.setUstate_held
    | with_reducible apply State.cmdWake_held
    | with_reducible apply State.setUcmd_held
    | with_reducible apply State.setStats_held
    | with_reducible apply hk
    | split
theorem State.bootRead_held {b : State} {s : State} {own : Option UnitId} {key : Nat} {off : Nat} (h : Held b s) : Held b (State.bootRead s own key off).2 := by
  unfold State.bootRead
  repeat' first
    | with_reducible assumption
    | (intro x; clear_value x)
    | (lift_lets; intro x; clear_value x)
    | with_reducible apply Held.iteSnd
    | with_reducible apply State.spReadW_held
    | with_reducible apply State.putW_held
    | split
theorem State.spBytes_held {b : State} {s : State} {own : Option UnitId} {key : Nat} {a4 : Nat} {a5 : Nat} (h : Held b s) : Held b (State.spBytes s own key a4 a5).2 := by
  fun_induction State.spBytes s own key a4 a5 <;>
  repeat' first
    | with_reducible assumption
    | with_reducible apply State.bootRead_held
    | with_reducible apply_assumption -exfalso -symm
    | simp only [↓Held.mk_iff]
    | with_reducible refine Held.snd (by with_reducible assumption) ?_
theorem State.setBootW_held {b : State} {s : State} {key : Nat} {o : Nat} {v : W32} (h : Held b s) : Held b (State.setBootW s key o v) := State.putW_held h
theorem State.bootManifest_held {b : State} {s : State} {key : Nat} {lim : Nat} (h : Held b s) : Held b (State.bootManifest s key lim) := by
  unfold State.bootManifest
  repeat' first
    | with_reducible assumption
    | (intro x; refine Held.via (s := b) x ?_ (fun _ => ?_); rotate_left; clear_value x; rotate_right)
    | (intro x; clear_value x)
    | (lift_lets; intro x; clear_value x)
    | with_reducible apply Held.ite
    | with_reducible apply State.setBootW_held
    | unfold x
    | simp only [↓Held.mk_iff]
theorem State.bootSegment_held {b : State} {s : State} {own : Option UnitId} {key : Nat} (h : Held b s) : Held b (State.bootSegment s own key) := by
  unfold State.bootSegment
  repeat' first
    | with_reducible assumption
    | (intro x; clear_value x)
    | (lift_lets; intro x; clear_value x)
    | with_reducible apply Held.ite
    | with_reducible apply State.setBootW_held
    | with_reducible apply State.spBytes_held
    | simp only [↓Held.mk_iff]
    | split
theorem State.bootCheck_held {b : State} {s : State} {own : Option UnitId} {key : Nat} (h : Held b s) : Held b (State.bootCheck s own key) := by
  unfold State.bootCheck
  repeat' first
    | with_reducible assumption
    | (intro x; clear_value x)
    | (lift_lets; intro x; clear_value x)
    | with_reducible apply State.spBytes_held
    | with_reducible apply State.setBootW_held
theorem State.bootAct_held {b : State} {s : State} {own : Option UnitId} {key : Nat} {lim : Nat} (h : Held b s) : Held b (State.bootAct s own key lim) := by
  unfold State.bootAct
  repeat' first
    | with_reducible assumption
    | (lift_lets; intro x; clear_value x)
    | with_reducible apply Held.ite
    | with_reducible apply State.bootManifest_held
    | with_reducible apply State.bootSegment_held
    | with_reducible apply State.bootCheck_held
theorem bootCommand_held {b : State} {cmd : Nat} {u : UnitId} {s : State} (h : Held b s) : Held b (bootCommand cmd u s) := by
  unfold bootCommand
  repeat' first
    | with_reducible assumption
    | (lift_lets; intro x; clear_value x)
    | with_reducible apply Held.ite
    | with_reducible apply State.bootAct_held
theorem execManifest_held (u : UnitId) (s : State) (z : State) (h : execManifest u s = .next z) : Held s z := Held.unit (bootCommand_held (Held.refl _)) h
theorem execSegment_held (u : UnitId) (s : State) (z : State) (h : execSegment u s = .next z) : Held s z := Held.unit (bootCommand_held (Held.refl _)) h
theorem execCheck_held (u : UnitId) (s : State) (z : State) (h : execCheck u s = .next z) : Held s z := Held.unit (bootCommand_held (Held.refl _)) h

end Sys2Proof.Machine
end

