-- ==== Sys2Proof/Laws/HeldSecurity.lean ====
section
/-! SUPPORT. What each function of Security.lean leaves alone: the queue, FRC and the canonical form. -/

namespace Sys2Proof.Machine

theorem State.mrExtend_held {b : State} {s : State} {i : Nat} {t : Nat} {d : List Byte} (h : Held b s) : Held b (State.mrExtend s i t d) := by
  unfold State.mrExtend
  repeat' first
    | with_reducible assumption
    | (intro x; clear_value x)
    | (lift_lets; intro x; clear_value x)
    | simp only [↓Held.mk_iff]
theorem State.respond_held {b : State} {s : State} {q : SecReq} {status : Nat} {len : Nat} {data : List W32} (h : Held b s) : Held b (State.respond s q status len data) := by
  unfold State.respond
  repeat' first
    | with_reducible assumption
    | (intro x; refine Held.via (s := b) x ?_ (fun _ => ?_); rotate_left; clear_value x; rotate_right)
    | (intro x; clear_value x)
    | (lift_lets; intro x; clear_value x)
    | with_reducible apply Held.ite
    | with_reducible refine Held.foldl ?_ (fun u x _ => ?_)
    | with_reducible apply State.setReg_held
    | with_reducible apply State.count_held
    | with_reducible apply State.icuPulse_held
    | simp only [↓Held.mk_iff]
theorem State.serve_held {b : State} {s : State} {kind : Nat} {f : SecReq → State → Nat × Nat × List W32 × State} (h : Held b s) (hf : ∀ q u, Held b u → Held b (f q u).2.2.2) : Held b (State.serve s kind f) := by
  unfold State.serve
  repeat' first
    | with_reducible assumption
    | with_reducible apply Held.ite
    | with_reducible apply State.respond_held
    | with_reducible apply hf
    | simp only [↓Held.mk_iff]
    | split
theorem State.fetchImg_held {b : State} {s : State} {q : SecReq} (h : Held b s) : Held b (State.fetchImg s q).2 := State.readB_held h
theorem State.takeIndex_held {b : State} {s : State} (h : Held b s) : Held b (State.takeIndex s).2 := by
  unfold State.takeIndex
  repeat' first
    | with_reducible assumption
    | (intro x; clear_value x)
    | (lift_lets; intro x; clear_value x)
    | simp only [↓Held.mk_iff]
theorem treeBuilt_held {b : State} {s : State} (h : Held b s) : Held b (treeBuilt s) := by
  unfold treeBuilt
  repeat' first
    | with_reducible assumption
    | (lift_lets; intro x; clear_value x)
    | with_reducible apply Held.ite
    | simp only [↓Held.mk_iff]
theorem execIdTreeBuildComplete_held (s : State) (z : State) (h : execIdTreeBuildComplete s = .next z) : Held s z := Held.next (treeBuilt_held (Held.refl _)) h
theorem quoteMake_held {b : State} {q : SecReq} {s : State} (h : Held b s) : Held b (quoteMake q s).2.2.2 := by
  unfold quoteMake
  repeat' first
    | with_reducible assumption
    | with_reducible apply State.takeIndex_held
    | with_reducible apply State.count_held
    | with_reducible apply State.writeB_held
    | simp only [↓Held.mk_iff]
    | split
theorem quoteServe_held {b : State} {q : SecReq} {s : State} (h : Held b s) : Held b (quoteServe q s).2.2.2 := by
  unfold quoteServe
  repeat' first
    | with_reducible assumption
    | with_reducible apply quoteMake_held
    | split
theorem execQuote_held (s : State) (z : State) (h : execQuote s = .next z) : Held s z := Held.next (State.serve_held (Held.refl _) (fun _ _ k => quoteServe_held k)) h
theorem challengeServe_held {b : State} {_q : SecReq} {s : State} (h : Held b s) : Held b (challengeServe _q s).2.2.2 := by
  unfold challengeServe
  repeat' first
    | with_reducible assumption
    | (intro x; refine Held.via (s := b) x ?_ (fun _ => ?_); rotate_left; clear_value x; rotate_right)
    | (intro x; clear_value x)
    | (lift_lets; intro x; clear_value x)
    | unfold x
    | simp only [↓Held.mk_iff]
theorem execChallenge_held (s : State) (z : State) (h : execChallenge s = .next z) : Held s z := Held.next (State.serve_held (Held.refl _) (fun _ _ k => challengeServe_held k)) h
theorem challengeLapse_held {b : State} {s : State} (h : Held b s) : Held b (challengeLapse s) := by
  unfold challengeLapse
  repeat' first
    | with_reducible assumption
    | (lift_lets; intro x; clear_value x)
    | with_reducible apply Held.ite
    | simp only [↓Held.mk_iff]
    | split
theorem execChallengeLapse_held (s : State) (z : State) (h : execChallengeLapse s = .next z) : Held s z := Held.next (challengeLapse_held (Held.refl _)) h
theorem unlockServe_held {b : State} {q : SecReq} {s : State} (h : Held b s) : Held b (unlockServe q s).2.2.2 := by
  unfold unlockServe
  repeat' first
    | with_reducible assumption
    | (intro x; clear_value x)
    | (lift_lets; intro x; refine Held.viaF1 (s := b) x (fun u _ => ?_) (fun hk => ?_); rotate_left; clear_value x; rotate_right)
    | (lift_lets; intro x; clear_value x)
    | with_reducible apply Held.ite
    | with_reducible apply Held.iteSnd
    | with_reducible apply State.fetchImg_held
    | with_reducible apply State.drawNat_held
    | with_reducible apply State.mrExtend_held
    | with_reducible apply State.setScopes_held
    | with_reducible apply hk
    | unfold x
    | simp only [↓Held.mk_iff]
    | split
theorem execUnlock_held (s : State) (z : State) (h : execUnlock s = .next z) : Held s z := Held.next (State.serve_held (Held.refl _) (fun _ _ k => unlockServe_held k)) h
theorem sprServe_held {b : State} {q : SecReq} {s : State} (h : Held b s) : Held b (sprServe q s).2.2.2 := by
  unfold sprServe
  repeat' first
    | with_reducible assumption
    | with_reducible apply State.fetchImg_held
    | with_reducible apply State.mrExtend_held
    | with_reducible apply State.flashPut_held
    | simp only [↓Held.mk_iff]
    | split
theorem ghServe_held {b : State} {q : SecReq} {s : State} (h : Held b s) : Held b (ghServe q s).2.2.2 := by
  unfold ghServe
  repeat' first
    | with_reducible assumption
    | with_reducible apply State.fetchImg_held
    | with_reducible apply State.flashPut_held
    | with_reducible apply State.mrExtend_held
    | simp only [↓Held.mk_iff]
    | split
theorem State.revokeBy_held {b : State} {s : State} {hdr : List Byte} {role : Nat} {mask : Nat} (h : Held b s) : Held b (State.revokeBy s hdr role mask) := by
  unfold State.revokeBy
  repeat' first
    | with_reducible assumption
    | (intro x; clear_value x)
    | (lift_lets; intro x; clear_value x)
    | simp only [↓Held.mk_iff]
theorem commitServe_held {b : State} {q : SecReq} {s : State} (h : Held b s) : Held b (commitServe q s).2.2.2 := by
  unfold commitServe
  repeat' first
    | with_reducible assumption
    | (intro x; refine Held.via (s := b) x ?_ (fun _ => ?_); rotate_left; clear_value x; rotate_right)
    | (intro x; clear_value x)
    | (lift_lets; intro x; clear_value x)
    | with_reducible apply Held.ite
    | with_reducible apply State.revokeBy_held
    | unfold x
    | simp only [↓Held.mk_iff]
    | split
theorem State.writeCred_held {b : State} {s : State} (h : Held b s) : Held b (State.writeCred s) := by
  unfold State.writeCred
  repeat' first
    | with_reducible assumption
    | (intro x; refine Held.via (s := b) x ?_ (fun _ => ?_); rotate_left; clear_value x; rotate_right)
    | (intro x; refine Held.viaF2 (s := b) x (fun u k l _ => ?_) (fun hf2 => ?_); rotate_left; clear_value x; rotate_right)
    | (lift_lets; intro x; clear_value x)
    | with_reducible refine Held.foldl ?_ (fun u x _ => ?_)
    | with_reducible apply State.setReg_held
    | with_reducible apply hf2
theorem State.readMeas_held {b : State} {s : State} (h : Held b s) : Held b (State.readMeas s) := by
  unfold State.readMeas
  repeat' first
    | with_reducible assumption
    | (intro x; refine Held.via (s := b) x ?_ (fun _ => ?_); rotate_left; clear_value x; rotate_right)
    | (intro x; clear_value x)
    | (lift_lets; intro x; clear_value x)
    | with_reducible apply Held.ite
    | with_reducible apply State.mrExtend_held
    | simp only [↓Held.mk_iff]
theorem State.takeReq_held {b : State} {s : State} {q : SecReq} (h : Held b s) : Held b (State.takeReq s q) := by
  unfold State.takeReq
  repeat' first
    | with_reducible assumption
    | (lift_lets; intro x; clear_value x)
    | with_reducible apply Held.ite
    | with_reducible apply State.respond_held
    | simp only [↓Held.mk_iff]
theorem State.secInstant_held {b : State} {s : State} (h : Held b s) : Held b (State.secInstant s) := by
  unfold State.secInstant
  repeat' first
    | with_reducible assumption
    | (intro x; refine Held.via (s := b) x ?_ (fun _ => ?_); rotate_left; clear_value x; rotate_right)
    | (intro x; clear_value x)
    | (lift_lets; intro x; refine Held.via (s := b) x ?_ (fun _ => ?_); rotate_left; clear_value x; rotate_right)
    | with_reducible apply Held.ite
    | with_reducible apply State.writeCred_held
    | with_reducible apply State.readMeas_held
    | with_reducible apply State.takeReq_held
theorem ghMbox_held {b : State} {word : W32} {valid : Bool} {s : State} (h : Held b s) : Held b (ghMbox word valid s) := by
  unfold ghMbox
  repeat' first
    | with_reducible assumption
    | (intro x; clear_value x)
    | (lift_lets; intro x; clear_value x)
    | with_reducible apply Held.ite
    | with_reducible apply State.takeReq_held
    | simp only [↓Held.mk_iff]
theorem execGhMbox_held (word : W32) (valid : Bool) (s : State) (z : State) (h : execGhMbox word valid s = .next z) : Held s z := Held.next (ghMbox_held (Held.refl _)) h

end Sys2Proof.Machine
end

