-- ==== Sys2Proof/Laws/HeldGk.lean ====
section
/-! SUPPORT. What each function of Gk.lean leaves alone: the queue, FRC and the canonical form. -/

namespace Sys2Proof.Machine

theorem State.setGk_held {b : State} {s : State} {g : GkSt} (h : Held b s) : Held b (State.setGk s g) := h.trans ⟨rfl, rfl, id⟩
theorem State.mirrorPut_held {b : State} {s : State} {r : LogRec} (h : Held b s) : Held b (State.mirrorPut s r) := by
  unfold State.mirrorPut
  repeat' first
    | with_reducible assumption
    | (intro x; clear_value x)
    | (lift_lets; intro x; clear_value x)
    | with_reducible apply Held.ite
    | with_reducible apply State.writeB_held
    | with_reducible apply State.setReg_held
theorem State.logProgram_held {b : State} {s : State} {r : LogRec} (h : Held b s) : Held b (State.logProgram s r) := by
  unfold State.logProgram
  repeat' first
    | with_reducible assumption
    | (intro x; clear_value x)
    | (lift_lets; intro x; clear_value x)
    | with_reducible apply State.mirrorPut_held
    | with_reducible apply State.setGk_held
theorem State.logFlush_held {b : State} {s : State} (h : Held b s) : Held b (State.logFlush s) := by
  unfold State.logFlush
  repeat' first
    | with_reducible assumption
    | (lift_lets; intro x; clear_value x)
    | with_reducible refine Held.foldl ?_ (fun u x _ => ?_)
    | with_reducible apply State.logProgram_held
    | with_reducible apply State.setGk_held
theorem State.logAdd_held {b : State} {s : State} {type : Nat} {payload : List Byte} {sync : Bool} {origin : Nat} (h : Held b s) : Held b (State.logAdd s type payload sync origin) := by
  unfold State.logAdd
  repeat' first
    | with_reducible assumption
    | (lift_lets; intro x; refine Held.via (s := b) x ?_ (fun _ => ?_); rotate_left; clear_value x; rotate_right)
    | with_reducible apply Held.ite
    | with_reducible apply State.repCount_held
    | with_reducible apply State.setGk_held
    | with_reducible apply State.logFlush_held
theorem State.logLost_held {b : State} {s : State} (h : Held b s) : Held b (State.logLost s) := by
  unfold State.logLost
  repeat' first
    | with_reducible assumption
    | (intro x; clear_value x)
    | (lift_lets; intro x; clear_value x)
    | with_reducible apply Held.ite
    | with_reducible apply State.logAdd_held
    | with_reducible apply State.setGk_held
theorem logPageProgram_held {b : State} {s : State} (h : Held b s) : Held b (logPageProgram s) := by
  unfold logPageProgram
  repeat' first
    | with_reducible assumption
    | (intro x; clear_value x)
    | (lift_lets; intro x; clear_value x)
    | with_reducible apply Held.ite
    | with_reducible refine Held.foldl ?_ (fun u x _ => ?_)
    | with_reducible apply State.logLost_held
    | with_reducible apply State.logFlush_held
    | with_reducible apply State.logProgram_held
    | with_reducible apply State.setGk_held
theorem execLogPageProgram_held (s : State) (z : State) (h : execLogPageProgram s = .next z) : Held s z := Held.next (logPageProgram_held (Held.refl _)) h
theorem State.mirrorConfig_held {b : State} {s : State} (h : Held b s) : Held b (State.mirrorConfig s) := by
  unfold State.mirrorConfig
  repeat' first
    | with_reducible assumption
    | (intro x; refine Held.via (s := b) x ?_ (fun _ => ?_); rotate_left; clear_value x; rotate_right)
    | (intro x; clear_value x)
    | (lift_lets; intro x; clear_value x)
    | with_reducible apply Held.ite
    | with_reducible refine Held.foldl ?_ (fun u x _ => ?_)
    | with_reducible apply State.setGk_held
    | with_reducible apply State.setReg_held
    | with_reducible apply State.mirrorPut_held
theorem State.calApply_held {b : State} {s : State} {i : Nat} (h : Held b s) : Held b (State.calApply s i) := by
  unfold State.calApply
  repeat' first
    | with_reducible assumption
    | with_reducible apply State.setRegF_held
    | split
theorem State.calWrite_held {b : State} {s : State} {i : Nat} {v : Int} (h : Held b s) : Held b (State.calWrite s i v) := by
  unfold State.calWrite
  repeat' first
    | with_reducible assumption
    | (lift_lets; intro x; clear_value x)
    | with_reducible apply State.calApply_held
    | simp only [↓Held.mk_iff]
theorem calUserWrite_held {b : State} {w : Writer} {inst : Nat} {v : W32} {s : State} (h : Held b s) : Held b (calUserWrite w inst v s) := by
  unfold calUserWrite
  repeat' first
    | with_reducible assumption
    | (lift_lets; intro x; clear_value x)
    | with_reducible apply Held.ite
    | with_reducible apply State.calWrite_held
theorem execCalUserWrite_held (w : Writer) (inst : Nat) (v : W32) (s : State) (z : State) (h : execCalUserWrite w inst v s = .next z) : Held s z := Held.unit (calUserWrite_held (Held.refl _)) h
theorem State.romChoose_held {b : State} {s : State} (h : Held b s) : Held b (State.romChoose s).2 := by
  unfold State.romChoose
  repeat' first
    | with_reducible assumption
    | (intro x; refine Held.via (s := b) x ?_ (fun _ => ?_); rotate_left; clear_value x; rotate_right)
    | (intro x; clear_value x)
    | (lift_lets; intro x; clear_value x)
    | with_reducible apply Held.iteSnd
    | with_reducible apply State.setGk_held
    | split
theorem State.romStop_held {b : State} {s : State} (h : Held b s) : Held b (State.romStop s) := by
  unfold State.romStop
  repeat' first
    | with_reducible assumption
    | (intro x; clear_value x)
    | (lift_lets; intro x; refine Held.via (s := b) x ?_ (fun _ => ?_); rotate_left; clear_value x; rotate_right)
    | with_reducible apply State.setRegF_held
    | with_reducible apply State.setGk_held
theorem State.hostWindows_held {b : State} {s : State} (h : Held b s) : Held b (State.hostWindows s) := by
  unfold State.hostWindows
  repeat' first
    | with_reducible assumption
    | (lift_lets; intro x; refine Held.viaF3 (s := b) x (fun u k l m _ => ?_) (fun hf3 => ?_); rotate_left; clear_value x; rotate_right)
    | with_reducible apply State.fwPut_held
    | with_reducible apply hf3
theorem State.gkOrder_held {b : State} {s : State} {num : Nat} {sc : Scope} (h : Held b s) : Held b (State.gkOrder s num sc) := by
  unfold State.gkOrder
  repeat' first
    | with_reducible assumption
    | (intro x; refine Held.via (s := b) x ?_ (fun _ => ?_); rotate_left; clear_value x; rotate_right)
    | (intro x; clear_value x)
    | (lift_lets; intro x; refine Held.via (s := b) x ?_ (fun _ => ?_); rotate_left; clear_value x; rotate_right)
    | with_reducible apply Held.ite
    | with_reducible refine Held.foldl ?_ (fun u x _ => ?_)
    | with_reducible apply State.sendMsg_held
    | with_reducible apply unitCommand_held
    | unfold x
    | simp only [↓Held.mk_iff]
theorem State.putGkOrder_held {b : State} {s : State} {o : GkOrder} (h : Held b s) : Held b (State.putGkOrder s o) := by
  unfold State.putGkOrder
  repeat' first
    | with_reducible assumption
    | (lift_lets; intro x; clear_value x)
    | simp only [↓Held.mk_iff]
theorem State.gkRelease_held {b : State} {s : State} {o : GkOrder} (h : Held b s) : Held b (State.gkRelease s o) := by
  unfold State.gkRelease
  repeat' first
    | with_reducible assumption
    | (lift_lets; intro x; refine Held.via (s := b) x ?_ (fun _ => ?_); rotate_left; clear_value x; rotate_right)
    | with_reducible refine Held.foldl ?_ (fun u x _ => ?_)
    | with_reducible apply unitCommand_held
    | with_reducible apply State.putGkOrder_held
theorem State.retireMaps_held {b : State} {s : State} {u : UnitId} (h : Held b s) : Held b (State.retireMaps s u) := by
  unfold State.retireMaps
  repeat' first
    | with_reducible assumption
    | with_reducible refine Held.foldl ?_ (fun u x _ => ?_)
    | with_reducible apply State.applyRec_held
theorem State.gkRestore_held {b : State} {s : State} {o : GkOrder} (h : Held b s) : Held b (State.gkRestore s o) := by
  unfold State.gkRestore
  repeat' first
    | with_reducible assumption
    | (intro x; refine Held.via (s := b) x ?_ (fun _ => ?_); rotate_left; clear_value x; rotate_right)
    | (intro x; clear_value x)
    | (lift_lets; intro x; refine Held.via (s := b) x ?_ (fun _ => ?_); rotate_left; clear_value x; rotate_right)
    | with_reducible refine Held.foldl ?_ (fun u x _ => ?_)
    | with_reducible apply State.setReg_held
    | with_reducible apply State.wdStart_held
    | with_reducible apply State.setWd_held
    | unfold x
    | simp only [↓Held.mk_iff]
theorem State.gkStep_held {b : State} {s : State} {o : GkOrder} (h : Held b s) : Held b (State.gkStep s o) := by
  unfold State.gkStep
  repeat' first
    | with_reducible assumption
    | (intro x; refine Held.via (s := b) x ?_ (fun _ => ?_); rotate_left; clear_value x; rotate_right)
    | (intro x; clear_value x)
    | (lift_lets; intro x; clear_value x)
    | with_reducible apply Held.ite
    | with_reducible refine Held.foldl ?_ (fun u x _ => ?_)
    | with_reducible apply State.gkRelease_held
    | with_reducible apply State.retireMaps_held
    | with_reducible apply State.putGkOrder_held
    | with_reducible apply State.diePowerOff_held
    | with_reducible apply State.gkRestore_held
    | with_reducible apply State.sendMsg_held
    | with_reducible apply State.logAdd_held
    | unfold x
    | simp only [↓Held.mk_iff]
    | split
theorem State.gkAdvance_held {b : State} {s : State} (h : Held b s) : Held b (State.gkAdvance s) := by
  unfold State.gkAdvance
  repeat' first
    | with_reducible assumption
    | with_reducible apply Held.ite
    | with_reducible refine Held.foldl ?_ (fun u x _ => ?_)
    | with_reducible apply State.gkStep_held
    | split
theorem State.gkMessage_held {b : State} {s : State} {m : PMsg} (h : Held b s) : Held b (State.gkMessage s m) := by
  unfold State.gkMessage
  repeat' first
    | with_reducible assumption
    | (lift_lets; intro x; clear_value x)
    | with_reducible apply Held.ite
    | with_reducible apply State.logAdd_held
    | with_reducible apply State.gkAdvance_held
    | with_reducible apply State.gkOrder_held
    | simp only [↓Held.mk_iff]
theorem State.gkDeliver_held {b : State} {s : State} {m : PMsg} (h : Held b s) : Held b (State.gkDeliver s m) := by
  unfold State.gkDeliver
  repeat' first
    | with_reducible assumption
    | (lift_lets; intro x; clear_value x)
    | with_reducible apply Held.ite
    | with_reducible apply State.gkMessage_held
    | with_reducible apply State.setGk_held
theorem State.consoleRate_held {b : State} {s : State} (h : Held b s) : Held b (State.consoleRate s) := h.trans ⟨rfl, rfl, id⟩
theorem State.gkFirmwareUp_held {b : State} {s : State} (h : Held b s) : Held b (State.gkFirmwareUp s) := by
  unfold State.gkFirmwareUp
  repeat' first
    | with_reducible assumption
    | (intro x; refine Held.via (s := b) x ?_ (fun _ => ?_); rotate_left; clear_value x; rotate_right)
    | (intro x; clear_value x)
    | (lift_lets; intro x; clear_value x)
    | with_reducible apply Held.ite
    | with_reducible refine Held.foldl ?_ (fun u x _ => ?_)
    | with_reducible apply State.setGk_held
    | with_reducible apply State.setReg_held
    | with_reducible apply State.consoleRate_held
    | with_reducible apply State.hostWindows_held
    | with_reducible apply State.calWrite_held
    | with_reducible apply State.logAdd_held
    | with_reducible apply State.gkAdvance_held
    | with_reducible apply State.gkMessage_held
theorem State.gkRequest_held {b : State} {s : State} {kind : Nat} {args : List (Nat × W32)} (h : Held b s) : Held b (State.gkRequest s kind args) := by
  unfold State.gkRequest
  repeat' first
    | with_reducible assumption
    | (intro x; refine Held.via (s := b) x ?_ (fun _ => ?_); rotate_left; clear_value x; rotate_right)
    | (intro x; clear_value x)
    | (lift_lets; intro x; clear_value x)
    | with_reducible refine Held.foldl ?_ (fun u x _ => ?_)
    | with_reducible apply State.setReg_held
theorem State.gkRom_held {b : State} {s : State} (h : Held b s) : Held b (State.gkRom s) := by
  unfold State.gkRom
  repeat' first
    | with_reducible assumption
    | with_reducible apply Held.ite
    | with_reducible refine Held.foldl ?_ (fun u x _ => ?_)
    | with_reducible apply State.romChoose_held
    | with_reducible apply State.romStop_held
    | with_reducible apply State.setReg_held
    | with_reducible apply State.gkFirmwareUp_held
    | with_reducible apply State.setGk_held
    | simp only [↓Held.mk_iff]
    | with_reducible refine Held.snd (by with_reducible assumption) ?_
    | split
theorem credTimeout_held {b : State} {s : State} (h : Held b s) : Held b (credTimeout s) := by
  unfold credTimeout
  repeat' first
    | with_reducible assumption
    | with_reducible apply Held.ite
    | with_reducible apply State.romStop_held
    | split
theorem execCredentialValidTimeout_held (s : State) (z : State) (h : execCredentialValidTimeout s = .next z) : Held s z := Held.next (credTimeout_held (Held.refl _)) h
theorem State.gkRestart_held {b : State} {s : State} {cause : Nat} (h : Held b s) : Held b (State.gkRestart s cause) := by
  unfold State.gkRestart
  repeat' first
    | with_reducible assumption
    | (intro x; refine Held.via (s := b) x ?_ (fun _ => ?_); rotate_left; clear_value x; rotate_right)
    | (lift_lets; intro x; clear_value x)
    | with_reducible apply Held.ite
    | with_reducible refine Held.foldl ?_ (fun u x _ => ?_)
    | with_reducible apply State.setGk_held
    | with_reducible apply State.setReg_held
    | with_reducible apply State.icuTargetReset_held
    | with_reducible apply State.wdReset_held
    | with_reducible apply State.romStop_held
    | with_reducible apply State.romChoose_held
    | with_reducible apply State.diePowerOff_held
    | with_reducible apply State.gkRequest_held
    | simp only [↓Held.mk_iff]
    | with_reducible refine Held.snd (by with_reducible assumption) ?_
    | split
theorem gkRestart_held {b : State} {w : Writer} {cause : Nat} {s : State} (h : Held b s) : Held b (gkRestart w cause s) := by
  unfold gkRestart
  repeat' first
    | with_reducible assumption
    | with_reducible apply Held.ite
    | with_reducible apply State.gkRestart_held
theorem execGkRestart_held (w : Writer) (cause : BitVec 2) (s : State) (z : State) (h : execGkRestart w cause s = .next z) : Held s z := Held.next (gkRestart_held (Held.refl _)) h
theorem State.hostRespond_held {b : State} {s : State} {kind : Nat} {status : Nat} {data : W32} (h : Held b s) : Held b (State.hostRespond s kind status data) := by
  unfold State.hostRespond
  repeat' first
    | with_reducible assumption
    | (intro x; refine Held.via (s := b) x ?_ (fun _ => ?_); rotate_left; clear_value x; rotate_right)
    | (intro x; clear_value x)
    | (lift_lets; intro x; clear_value x)
    | with_reducible apply Held.ite
    | with_reducible apply State.setReg_held
    | with_reducible apply State.setGk_held
    | with_reducible apply State.msixRequest_held
theorem State.hostServe_held {b : State} {s : State} {kind : Nat} {f : State → Nat × W32 × State} (h : Held b s) (hf : ∀ u, Held b u → Held b (f u).2.2) : Held b (State.hostServe s kind f) := by
  unfold State.hostServe
  repeat' first
    | with_reducible assumption
    | with_reducible apply Held.ite
    | with_reducible apply State.mirrorConfig_held
    | with_reducible apply State.hostRespond_held
    | with_reducible apply hf
theorem State.logImage_held {b : State} {s : State} {req : Nat} {img : List Byte} {status : Nat} (h : Held b s) : Held b (State.logImage s req img status) := State.logAdd_held h
theorem stageSet_held {b : State} {flashOk : Bool} {s : State} (h : Held b s) : Held b (stageSet flashOk s).2.2 := by
  unfold stageSet
  repeat' first
    | with_reducible assumption
    | (intro x; refine Held.via (s := b) x ?_ (fun _ => ?_); rotate_left; clear_value x; rotate_right)
    | (intro x; clear_value x)
    | (lift_lets; intro x; clear_value x)
    | with_reducible apply Held.iteSnd2
    | with_reducible refine Held.foldl ?_ (fun u x _ => ?_)
    | with_reducible apply State.readB_held
    | with_reducible apply State.setGk_held
    | with_reducible apply State.logImage_held
    | split
theorem execStageSet_held (flashOk : Bool) (s : State) (z : State) (h : execStageSet flashOk s = .next z) : Held s z := Held.next (State.hostServe_held (Held.refl _) (fun _ k => stageSet_held k)) h
theorem stageGh_held {b : State} {flashOk : Bool} {s : State} (h : Held b s) : Held b (stageGh flashOk s) := by
  unfold stageGh
  repeat' first
    | with_reducible assumption
    | (lift_lets; intro x; refine Held.via (s := b) x ?_ (fun _ => ?_); rotate_left; clear_value x; rotate_right)
    | with_reducible apply Held.ite
    | with_reducible apply State.mirrorConfig_held
    | with_reducible apply State.readB_held
    | with_reducible apply State.hostRespond_held
    | with_reducible apply State.setGk_held
    | with_reducible apply State.gkRequest_held
theorem execStageGh_held (flashOk : Bool) (s : State) (z : State) (h : execStageGh flashOk s = .next z) : Held s z := Held.next (stageGh_held (Held.refl _)) h
theorem activate_held {b : State} {flashOk : Bool} {s : State} (h : Held b s) : Held b (activate flashOk s) := by
  unfold activate
  repeat' first
    | with_reducible assumption
    | (intro x; clear_value x)
    | (lift_lets; intro x; refine Held.via (s := b) x ?_ (fun _ => ?_); rotate_left; clear_value x; rotate_right)
    | with_reducible apply Held.ite
    | with_reducible apply State.mirrorConfig_held
    | with_reducible apply State.hostRespond_held
    | with_reducible apply State.gkRestart_held
    | with_reducible apply State.setGk_held
theorem execActivate_held (flashOk : Bool) (s : State) (z : State) (h : execActivate flashOk s = .next z) : Held s z := Held.next (activate_held (Held.refl _)) h
theorem confirm_held {b : State} {flashOk : Bool} {s : State} (h : Held b s) : Held b (confirm flashOk s).2.2 := by
  unfold confirm
  repeat' first
    | with_reducible assumption
    | (intro x; refine Held.via (s := b) x ?_ (fun _ => ?_); rotate_left; clear_value x; rotate_right)
    | (lift_lets; intro x; clear_value x)
    | with_reducible apply Held.iteSnd2
    | with_reducible apply State.setGk_held
    | with_reducible apply State.setReg_held
theorem execConfirm_held (flashOk : Bool) (s : State) (z : State) (h : execConfirm flashOk s = .next z) : Held s z := Held.next (State.hostServe_held (Held.refl _) (fun _ k => confirm_held k)) h
theorem hostCommit_held {b : State} {s : State} (h : Held b s) : Held b (hostCommit s) := by
  unfold hostCommit
  repeat' first
    | with_reducible assumption
    | (intro x; refine Held.via (s := b) x ?_ (fun _ => ?_); rotate_left; clear_value x; rotate_right)
    | (intro x; clear_value x)
    | (lift_lets; intro x; refine Held.via (s := b) x ?_ (fun _ => ?_); rotate_left; clear_value x; rotate_right)
    | with_reducible apply Held.ite
    | with_reducible apply State.mirrorConfig_held
    | with_reducible apply State.setGk_held
    | with_reducible apply State.gkRequest_held
theorem execHostCommit_held (s : State) (z : State) (h : execHostCommit s = .next z) : Held s z := Held.next (hostCommit_held (Held.refl _)) h
theorem execHostFaultAck_held (s : State) (z : State) (h : execHostFaultAck s = .next z) : Held s z := Held.next (State.hostServe_held (Held.refl _) (fun _ k => State.sendMsg_held k)) h
theorem cal_held {b : State} {flashOk : Bool} {s : State} (h : Held b s) : Held b (cal flashOk s).2.2 := by
  unfold cal
  repeat' first
    | with_reducible assumption
    | (intro x; refine Held.via (s := b) x ?_ (fun _ => ?_); rotate_left; clear_value x; rotate_right)
    | (intro x; clear_value x)
    | (lift_lets; intro x; clear_value x)
    | with_reducible apply Held.iteSnd2
    | with_reducible apply State.calWrite_held
    | with_reducible apply State.logAdd_held
    | with_reducible apply State.setGk_held
theorem execCal_held (flashOk : Bool) (s : State) (z : State) (h : execCal flashOk s = .next z) : Held s z := Held.next (State.hostServe_held (Held.refl _) (fun _ k => cal_held k)) h
theorem note_held {b : State} {s : State} (h : Held b s) : Held b (note s).2.2 := by
  unfold note
  repeat' first
    | with_reducible assumption
    | with_reducible apply State.drawNat_held
    | with_reducible apply State.logAdd_held
theorem execNote_held (s : State) (z : State) (h : execNote s = .next z) : Held s z := Held.next (State.hostServe_held (Held.refl _) (fun _ k => note_held k)) h
theorem State.logExtend_held {b : State} {s : State} {q : SecReq} {origin : Nat} (h : Held b s) : Held b (State.logExtend s q origin) := State.logAdd_held h
theorem State.gkPump_held {b : State} {s : State} (h : Held b s) : Held b (State.gkPump s) := by
  unfold State.gkPump
  repeat' first
    | with_reducible assumption
    | (lift_lets; intro x; clear_value x)
    | with_reducible apply Held.ite
    | with_reducible apply State.gkRequest_held
    | with_reducible apply State.setGk_held
    | split
theorem State.gkExtend_held {b : State} {s : State} {i : Nat} {d : List Byte} (h : Held b s) : Held b (State.gkExtend s i d) := by
  unfold State.gkExtend
  repeat' first
    | with_reducible assumption
    | (lift_lets; intro x; clear_value x)
    | with_reducible apply State.gkPump_held
    | with_reducible apply State.setGk_held
theorem State.gkOnResp_held {b : State} {before : State} {s : State} (h : Held b s) : Held b (State.gkOnResp before s) := by
  unfold State.gkOnResp
  repeat' first
    | with_reducible assumption
    | (intro x; refine Held.via (s := b) x ?_ (fun _ => ?_); rotate_left; clear_value x; rotate_right)
    | (intro x; refine Held.viaF (s := b) x (fun u k _ => ?_) (fun hf => ?_); rotate_left; clear_value x; rotate_right)
    | (intro x; clear_value x)
    | (lift_lets; intro x; clear_value x)
    | with_reducible apply Held.ite
    | with_reducible apply State.logExtend_held
    | with_reducible apply State.gkPump_held
    | with_reducible apply State.gkFirmwareUp_held
    | with_reducible apply State.hostRespond_held
    | with_reducible apply State.logImage_held
    | with_reducible apply hf
    | unfold x
    | split
theorem extendServe_held {b : State} {q : SecReq} {s : State} (h : Held b s) : Held b (extendServe q s).2.2.2 := by
  unfold extendServe
  repeat' first
    | with_reducible assumption
    | (lift_lets; intro x; clear_value x)
    | with_reducible apply State.mrExtend_held
    | split
theorem execExtend_held (s : State) (z : State) (h : execExtend s = .next z) : Held s z := Held.next (State.gkOnResp_held (State.serve_held (Held.refl _) (fun _ _ k => extendServe_held k))) h
theorem execGhInstall_held (s : State) (z : State) (h : execGhInstall s = .next z) : Held s z := Held.next (State.gkOnResp_held (State.serve_held (Held.refl _) (fun _ _ k => ghServe_held k))) h
theorem execGrottoCommit_held (s : State) (z : State) (h : execGrottoCommit s = .next z) : Held s z := Held.next (State.gkOnResp_held (State.serve_held (Held.refl _) (fun _ _ k => commitServe_held k))) h
theorem State.freeBytes_held {b : State} {s : State} {a2 : Nat} (h : Held b s) : Held b (State.freeBytes s a2).2 := by
  fun_induction State.freeBytes s a2 <;>
  repeat' first
    | with_reducible assumption
    | with_reducible apply State.draw_held
    | with_reducible apply_assumption -exfalso -symm
    | simp only [↓Held.mk_iff]
    | with_reducible refine Held.snd (by with_reducible assumption) ?_
theorem telemetry_held {b : State} {s : State} (h : Held b s) : Held b (telemetry s) := by
  unfold telemetry
  repeat' first
    | with_reducible assumption
    | (intro x; clear_value x)
    | (lift_lets; intro x; clear_value x)
    | with_reducible apply Held.ite
    | with_reducible apply State.freeBytes_held
    | with_reducible apply State.logAdd_held
    | with_reducible apply State.setGk_held
theorem execTelemetryPeriod_held (s : State) (z : State) (h : execTelemetryPeriod s = .next z) : Held s z := Held.next (telemetry_held (Held.refl _)) h

end Sys2Proof.Machine
end

