-- ==== Sys2Proof/Laws/HeldPower.lean ====
section
/-! SUPPORT. What each function of Power.lean leaves alone: the queue, FRC and the canonical form. -/

namespace Sys2Proof.Machine

theorem State.clocks_held {b : State} {s : State} (h : Held b s) : Held b (State.clocks s) := by
  unfold State.clocks
  repeat' first
    | with_reducible assumption
    | (intro x; refine Held.via (s := b) x ?_ (fun _ => ?_); rotate_left; clear_value x; rotate_right)
    | (lift_lets; intro x; refine Held.via (s := b) x ?_ (fun _ => ?_); rotate_left; clear_value x; rotate_right)
    | (lift_lets; intro x; clear_value x)
    | with_reducible refine Held.foldl ?_ (fun u x _ => ?_)
    | with_reducible apply State.clkSettle_held
    | with_reducible apply State.setReg_held
    | with_reducible apply State.setRegF_held
theorem profileChange_held {b : State} {p : Nat} {s : State} (h : Held b s) : Held b (profileChange p s) := by
  unfold profileChange
  repeat' first
    | with_reducible assumption
    | with_reducible apply Held.ite
    | with_reducible apply State.clocks_held
    | with_reducible apply State.setRegF_held
theorem execProfileChange_held (p : Nat) (s : State) (z : State) (h : execProfileChange p s = .next z) : Held s z := Held.unit (profileChange_held (Held.refl _)) h
theorem pavCfgWrite_held {b : State} {w : Writer} {p : Nat} {v : W32} {s : State} (h : Held b s) : Held b (pavCfgWrite w p v s) := by
  unfold pavCfgWrite
  repeat' first
    | with_reducible assumption
    | with_reducible apply Held.ite
    | with_reducible apply State.clocks_held
    | with_reducible apply State.setReg_held
theorem execPwrPavCfgWrite_held (w : Writer) (p : Nat) (v : W32) (s : State) (z : State) (h : execPwrPavCfgWrite w p v s = .next z) : Held s z := Held.unit (pavCfgWrite_held (Held.refl _)) h
theorem vreadyWrite_held {b : State} {w : Writer} {d : Nat} {v : W32} {s : State} (h : Held b s) : Held b (vreadyWrite w d v s) := by
  unfold vreadyWrite
  repeat' first
    | with_reducible assumption
    | (lift_lets; intro x; refine Held.via (s := b) x ?_ (fun _ => ?_); rotate_left; clear_value x; rotate_right)
    | with_reducible apply Held.ite
    | with_reducible refine Held.foldl ?_ (fun u x _ => ?_)
    | with_reducible apply State.setReg_held
    | with_reducible apply State.clocks_held
    | with_reducible apply State.setRegF_held
theorem execPwrVreadyWrite_held (w : Writer) (d : Nat) (v : W32) (s : State) (z : State) (h : execPwrVreadyWrite w d v s = .next z) : Held s z := Held.unit (vreadyWrite_held (Held.refl _)) h
theorem State.capPut_held {b : State} {s : State} {p : Nat} {c : Nat} (h : Held b s) : Held b (State.capPut s p c) := by
  unfold State.capPut
  repeat' first
    | with_reducible assumption
    | (intro x; refine Held.via (s := b) x ?_ (fun _ => ?_); rotate_left; clear_value x; rotate_right)
    | (intro x; clear_value x)
    | (lift_lets; intro x; clear_value x)
    | with_reducible apply Held.ite
    | with_reducible apply State.setRegF_held
    | with_reducible apply State.setReg_held
    | with_reducible apply State.setErrIf_held
    | with_reducible apply State.clocks_held
    | with_reducible apply State.count_held
    | unfold x
    | simp only [↓Held.mk_iff]
theorem capTick_held {b : State} {est : List Nat} {other : Nat} {s : State} (h : Held b s) : Held b (capTick est other s) := by
  unfold capTick
  repeat' first
    | with_reducible assumption
    | with_reducible apply Held.ite
    | with_reducible apply State.capPut_held
theorem execCapTick_held (est : List Nat) (other : Nat) (s : State) (z : State) (h : execCapTick est other s = .next z) : Held s z := Held.next (capTick_held (Held.refl _)) h
theorem State.dieHeat_held {b : State} {t : State} {d : Nat} {st : Int} (h : Held b t) : Held b (State.dieHeat t d st) := by
  unfold State.dieHeat
  repeat' first
    | with_reducible assumption
    | (intro x; refine Held.via (s := b) x ?_ (fun _ => ?_); rotate_left; clear_value x; rotate_right)
    | (intro x; clear_value x)
    | (lift_lets; intro x; clear_value x)
    | with_reducible apply State.setRegF_held
    | with_reducible apply State.setErrIf_held
    | unfold x
    | simp only [↓Held.mk_iff]
theorem thermalTick_held {b : State} {temps : List Int} {stackTemps : List Int} {s : State} (h : Held b s) : Held b (thermalTick temps stackTemps s) := by
  unfold thermalTick
  repeat' first
    | with_reducible assumption
    | (intro x; refine Held.via (s := b) x ?_ (fun _ => ?_); rotate_left; clear_value x; rotate_right)
    | (intro x; clear_value x)
    | (lift_lets; intro x; clear_value x)
    | with_reducible apply Held.ite
    | with_reducible apply State.dieHeat_held
    | with_reducible apply State.setErrIf_held
    | with_reducible apply State.count_held
    | with_reducible apply State.clocks_held
    | unfold x
    | simp only [↓Held.mk_iff]
theorem execThermalTick_held (temps : List Int) (stackTemps : List Int) (s : State) (z : State) (h : execThermalTick temps stackTemps s = .next z) : Held s z := Held.next (thermalTick_held (Held.refl _)) h
theorem thermalTrip_held {b : State} {d : Nat} {s : State} (h : Held b s) : Held b (thermalTrip d s) := by
  unfold thermalTrip
  repeat' first
    | with_reducible assumption
    | with_reducible apply State.setRegF_held
    | with_reducible apply State.clkSettle_held
theorem execThermalTrip_held (d : Nat) (s : State) (z : State) (h : execThermalTrip d s = .next z) : Held s z := Held.unit (thermalTrip_held (Held.refl _)) h
theorem droopPause_held {b : State} {_i : Nat} {s : State} (h : Held b s) : Held b (droopPause _i s) := by
  unfold droopPause
  repeat' first
    | with_reducible assumption
    | with_reducible apply State.setErr_held
    | with_reducible apply State.count_held
theorem execDroopPause_held (i : Nat) (s : State) (z : State) (h : execDroopPause i s = .next z) : Held s z := Held.next (droopPause_held (Held.refl _)) h
theorem railTelemetry_held {b : State} {rails : List RailReport} {s : State} (h : Held b s) : Held b (railTelemetry rails s) := State.setErrIf_held h
theorem execRailTelemetryRead_held (rails : List RailReport) (s : State) (z : State) (h : execRailTelemetryRead rails s = .next z) : Held s z := Held.next (railTelemetry_held (Held.refl _)) h
theorem State.disarm_held {b : State} {s : State} {chans : List Nat} (h : Held b s) : Held b (State.disarm s chans) := by
  unfold State.disarm
  repeat' first
    | with_reducible assumption
    | (intro x; clear_value x)
    | (lift_lets; intro x; refine Held.via (s := b) x ?_ (fun _ => ?_); rotate_left; clear_value x; rotate_right)
    | with_reducible refine Held.foldl ?_ (fun u x _ => ?_)
    | with_reducible apply State.setRegF_held
    | simp only [↓Held.mk_iff]
theorem State.kill_held {b : State} {s : State} {cause : Nat} (h : Held b s) : Held b (State.kill s cause) := by
  unfold State.kill
  repeat' first
    | with_reducible assumption
    | (intro x; refine Held.via (s := b) x ?_ (fun _ => ?_); rotate_left; clear_value x; rotate_right)
    | (intro x; clear_value x)
    | (lift_lets; intro x; refine Held.via (s := b) x ?_ (fun _ => ?_); rotate_left; clear_value x; rotate_right)
    | with_reducible apply Held.ite
    | with_reducible apply State.setRegF_held
    | with_reducible apply State.disarm_held
    | with_reducible apply State.diePowerOff_held
    | unfold x
    | simp only [↓Held.mk_iff]
theorem killSet_held {b : State} {w : Writer} {s : State} (h : Held b s) : Held b (killSet w s) := by
  unfold killSet
  repeat' first
    | with_reducible assumption
    | with_reducible apply Held.ite
    | with_reducible apply State.kill_held
theorem execKillSet_held (w : Writer) (s : State) (z : State) (h : execKillSet w s = .next z) : Held s z := Held.next (killSet_held (Held.refl _)) h
theorem killRelease_held {b : State} {w : Writer} {s : State} (h : Held b s) : Held b (killRelease w s) := by
  unfold killRelease
  repeat' first
    | with_reducible assumption
    | (intro x; refine Held.via (s := b) x ?_ (fun _ => ?_); rotate_left; clear_value x; rotate_right)
    | (lift_lets; intro x; refine Held.via (s := b) x ?_ (fun _ => ?_); rotate_left; clear_value x; rotate_right)
    | with_reducible apply Held.ite
    | with_reducible apply State.setReg_held
    | with_reducible apply State.setRegF_held
theorem execKillRelease_held (w : Writer) (s : State) (z : State) (h : execKillRelease w s = .next z) : Held s z := Held.next (killRelease_held (Held.refl _)) h

end Sys2Proof.Machine
end

