-- ==== Sys2Proof/Laws/HeldSio.lean ====
section
/-! SUPPORT. What each function of Sio.lean leaves alone: the queue, FRC and the canonical form. -/

namespace Sys2Proof.Machine

theorem State.setSio_held {b : State} {s : State} {x : SioSt} (h : Held b s) : Held b (State.setSio s x) := h.trans ⟨rfl, rfl, id⟩
theorem State.setSiState_held {b : State} {s : State} {hw : Bool} {k : Nat} {x : Nat} (h : Held b s) : Held b (State.setSiState s hw k x) := State.setRegF_held h
theorem State.driveOne_held {b : State} {s : State} {n : Nat} (h : Held b s) : Held b (State.driveOne s n) := by
  unfold State.driveOne
  repeat' first
    | with_reducible assumption
    | (intro x; refine Held.via (s := b) x ?_ (fun _ => ?_); rotate_left; clear_value x; rotate_right)
    | (intro x; clear_value x)
    | (lift_lets; intro x; clear_value x)
    | with_reducible apply Held.ite
    | with_reducible apply State.setRegF_held
    | with_reducible apply State.setReg_held
    | simp only [↓Held.mk_iff]
theorem State.setLatch_held {b : State} {s : State} {n : Nat} {cause : Nat} (h : Held b s) : Held b (State.setLatch s n cause) := by
  unfold State.setLatch
  repeat' first
    | with_reducible assumption
    | (intro x; clear_value x)
    | (lift_lets; intro x; refine Held.via (s := b) x ?_ (fun _ => ?_); rotate_left; clear_value x; rotate_right)
    | with_reducible apply State.setRegF_held
    | with_reducible apply State.setReg_held
    | simp only [↓Held.mk_iff]
theorem State.holdReact_held {b : State} {s : State} (h : Held b s) : Held b (State.holdReact s) := by
  unfold State.holdReact
  repeat' first
    | with_reducible assumption
    | with_reducible apply Held.ite
    | with_reducible refine Held.foldl ?_ (fun u x _ => ?_)
    | with_reducible apply State.setLatch_held
theorem State.drive_held {b : State} {s : State} (h : Held b s) : Held b (State.drive s) := by
  unfold State.drive
  repeat' first
    | with_reducible assumption
    | with_reducible refine Held.foldl ?_ (fun u x _ => ?_)
    | with_reducible apply State.driveOne_held
    | with_reducible apply State.holdReact_held
theorem State.setLatches_held {b : State} {s : State} {mask : Nat} {cause : Nat} (h : Held b s) : Held b (State.setLatches s mask cause) := by
  unfold State.setLatches
  repeat' first
    | with_reducible assumption
    | with_reducible refine Held.foldl ?_ (fun u x _ => ?_)
    | with_reducible apply State.setLatch_held
theorem State.clearLatch_held {b : State} {s : State} {n : Nat} (h : Held b s) : Held b (State.clearLatch s n) := by
  unfold State.clearLatch
  repeat' first
    | with_reducible assumption
    | (intro x; clear_value x)
    | (lift_lets; intro x; refine Held.via (s := b) x ?_ (fun _ => ?_); rotate_left; clear_value x; rotate_right)
    | with_reducible apply State.setRegF_held
    | simp only [↓Held.mk_iff]
theorem State.setLock_held {b : State} {s : State} {n : Nat} {cause : Nat} {errBit : Nat} (h : Held b s) : Held b (State.setLock s n cause errBit) := by
  unfold State.setLock
  repeat' first
    | with_reducible assumption
    | (lift_lets; intro x; refine Held.via (s := b) x ?_ (fun _ => ?_); rotate_left; clear_value x; rotate_right)
    | with_reducible apply Held.ite
    | with_reducible apply State.setReg_held
    | with_reducible apply State.drive_held
    | with_reducible apply State.setErr_held
    | with_reducible apply State.setLatch_held
theorem State.leaveRun_held {b : State} {s : State} {hw : Bool} {k : Nat} (h : Held b s) : Held b (State.leaveRun s hw k) := by
  unfold State.leaveRun
  repeat' first
    | with_reducible assumption
    | (lift_lets; intro x; clear_value x)
    | with_reducible apply Held.ite
    | with_reducible refine Held.foldl ?_ (fun u x _ => ?_)
    | with_reducible apply State.drive_held
    | with_reducible apply State.setLatch_held
    | with_reducible apply State.count_held
    | with_reducible apply State.setSio_held
theorem State.pairFault_held {b : State} {s : State} {hw : Bool} {k : Nat} {cause : Nat} {errBit : Nat} (h : Held b s) : Held b (State.pairFault s hw k cause errBit) := by
  unfold State.pairFault
  repeat' first
    | with_reducible assumption
    | (intro x; refine Held.via (s := b) x ?_ (fun _ => ?_); rotate_left; clear_value x; rotate_right)
    | (lift_lets; intro x; clear_value x)
    | with_reducible apply Held.ite
    | with_reducible apply State.setErr_held
    | with_reducible apply State.setRegF_held
    | with_reducible apply State.setSiState_held
    | with_reducible apply State.leaveRun_held
theorem State.discExpire_held {b : State} {s : State} {hw : Bool} {k : Nat} (h : Held b s) : Held b (State.discExpire s hw k) := by
  unfold State.discExpire
  repeat' first
    | with_reducible assumption
    | with_reducible apply Held.ite
    | with_reducible apply State.pairFault_held
theorem State.openWin_held {b : State} {s : State} {hw : Bool} {k : Nat} {c : Nat} {st : Nat} (h : Held b s) : Held b (State.openWin s hw k c st) := by
  unfold State.openWin
  repeat' first
    | with_reducible assumption
    | (intro x; clear_value x)
    | (lift_lets; intro x; refine Held.via (s := b) x ?_ (fun _ => ?_); rotate_left; clear_value x; rotate_right)
    | with_reducible apply State.setSiState_held
    | simp only [↓Held.mk_iff]
theorem State.pairStep_held {b : State} {s : State} {hw : Bool} {k : Nat} {c : Nat} (h : Held b s) : Held b (State.pairStep s hw k c) := by
  unfold State.pairStep
  repeat' first
    | with_reducible assumption
    | (intro x; refine Held.via (s := b) x ?_ (fun _ => ?_); rotate_left; clear_value x; rotate_right)
    | (intro x; clear_value x)
    | (lift_lets; intro x; clear_value x)
    | with_reducible apply Held.ite
    | with_reducible apply State.openWin_held
    | with_reducible apply State.setSiState_held
    | with_reducible apply State.setSio_held
    | with_reducible apply State.leaveRun_held
    | split
theorem State.twohand_held {b : State} {s : State} {k : Nat} (h : Held b s) : Held b (State.twohand s k) := by
  unfold State.twohand
  repeat' first
    | with_reducible assumption
    | (intro x; clear_value x)
    | (lift_lets; intro x; clear_value x)
    | with_reducible apply Held.ite
    | with_reducible apply State.setSio_held
    | with_reducible apply State.setRegF_held
theorem State.twohandOf_held {b : State} {s : State} {k : Nat} (h : Held b s) : Held b (State.twohandOf s k) := State.twohand_held h
theorem State.flipLevel_held {b : State} {s : State} {hw : Bool} {ch : Nat} (h : Held b s) : Held b (State.flipLevel s hw ch) := by
  unfold State.flipLevel
  repeat' first
    | with_reducible assumption
    | (intro x; clear_value x)
    | (lift_lets; intro x; clear_value x)
    | with_reducible apply State.setSio_held
theorem State.contactChanged_held {b : State} {s : State} {c : Nat} (h : Held b s) : Held b (State.contactChanged s c) := by
  unfold State.contactChanged
  repeat' first
    | with_reducible assumption
    | (intro x; refine Held.via (s := b) x ?_ (fun _ => ?_); rotate_left; clear_value x; rotate_right)
    | (intro x; clear_value x)
    | (lift_lets; intro x; clear_value x)
    | with_reducible apply State.setRegF_held
    | with_reducible apply State.setSio_held
theorem filterExpiry_held {b : State} {hw : Bool} {ch : Nat} {since : Tick} {s : State} (h : Held b s) : Held b (filterExpiry hw ch since s) := by
  unfold filterExpiry
  repeat' first
    | with_reducible assumption
    | (intro x; refine Held.via (s := b) x ?_ (fun _ => ?_); rotate_left; clear_value x; rotate_right)
    | (intro x; clear_value x)
    | (lift_lets; intro x; clear_value x)
    | with_reducible apply Held.ite
    | with_reducible apply State.flipLevel_held
    | with_reducible apply State.contactChanged_held
    | with_reducible apply State.discExpire_held
    | with_reducible apply State.setRegF_held
    | with_reducible apply State.pairStep_held
    | with_reducible apply State.twohandOf_held
    | with_reducible apply State.drive_held
theorem execFilterExpiry_held (hw : Bool) (ch : Nat) (since : Tick) (s : State) (z : State) (h : execFilterExpiry hw ch since s = .next z) : Held s z := Held.unit (filterExpiry_held (Held.refl _)) h
theorem testPulseStart_held {b : State} {m : Nat} {hw : BitVec 34} {pr : BitVec 34} {s : State} (h : Held b s) : Held b (testPulseStart m hw pr s) := by
  unfold testPulseStart
  repeat' first
    | with_reducible assumption
    | (lift_lets; intro x; clear_value x)
    | with_reducible apply Held.ite
    | with_reducible apply State.setSio_held
    | simp only [↓Held.mk_iff]
    | split
theorem execTestPulseStart_held (m : Nat) (hw : BitVec 34) (pr : BitVec 34) (s : State) (z : State) (h : execTestPulseStart m hw pr s = .next z) : Held s z := Held.unit (testPulseStart_held (Held.refl _)) h
theorem State.resumeStuck_held {b : State} {s : State} (h : Held b s) : Held b (State.resumeStuck s) := by
  unfold State.resumeStuck
  repeat' first
    | with_reducible assumption
    | with_reducible apply State.setErr_held
    | with_reducible apply State.setRegF_held
theorem testPulseCheck_held {b : State} {hw : Bool} {ch : Nat} {sawLow : Bool} {s : State} (h : Held b s) : Held b (testPulseCheck hw ch sawLow s) := by
  unfold testPulseCheck
  repeat' first
    | with_reducible assumption
    | (lift_lets; intro x; clear_value x)
    | with_reducible apply Held.ite
    | with_reducible apply State.resumeStuck_held
    | with_reducible apply State.drive_held
    | with_reducible apply State.twohandOf_held
    | with_reducible apply State.pairFault_held
    | simp only [↓Held.mk_iff]
    | split
theorem execTestPulseCheck_held (hw : Bool) (ch : Nat) (sawLow : Bool) (s : State) (z : State) (h : execTestPulseCheck hw ch sawLow s = .next z) : Held s z := Held.unit (testPulseCheck_held (Held.refl _)) h
theorem discrepancyTimeout_held {b : State} {hw : Bool} {k : Nat} {s : State} (h : Held b s) : Held b (discrepancyTimeout hw k s) := by
  unfold discrepancyTimeout
  repeat' first
    | with_reducible assumption
    | with_reducible apply Held.ite
    | with_reducible apply State.drive_held
    | with_reducible apply State.twohandOf_held
    | with_reducible apply State.discExpire_held
theorem execDiscrepancyTimeout_held (hw : Bool) (k : Nat) (s : State) (z : State) (h : execDiscrepancyTimeout hw k s = .next z) : Held s z := Held.unit (discrepancyTimeout_held (Held.refl _)) h
theorem State.pathCompare_held {b : State} {s : State} {k : Nat} (h : Held b s) : Held b (State.pathCompare s k) := by
  unfold State.pathCompare
  repeat' first
    | with_reducible assumption
    | (intro x; refine Held.via (s := b) x ?_ (fun _ => ?_); rotate_left; clear_value x; rotate_right)
    | (intro x; clear_value x)
    | (lift_lets; intro x; clear_value x)
    | with_reducible apply Held.ite
    | with_reducible apply State.setSio_held
    | with_reducible apply State.pairFault_held
theorem processorSample_held {b : State} {s : State} (h : Held b s) : Held b (processorSample s) := by
  unfold processorSample
  repeat' first
    | with_reducible assumption
    | (intro x; clear_value x)
    | (lift_lets; intro x; refine Held.via (s := b) x ?_ (fun _ => ?_); rotate_left; clear_value x; rotate_right)
    | with_reducible apply Held.ite
    | with_reducible refine Held.foldl ?_ (fun u x _ => ?_)
    | with_reducible apply State.pathCompare_held
    | with_reducible apply State.drive_held
    | with_reducible apply State.setSio_held
theorem execProcessorSample_held (s : State) (z : State) (h : execProcessorSample s = .next z) : Held s z := Held.next (processorSample_held (Held.refl _)) h
theorem State.hsCmd_held {b : State} {s : State} {v : Nat} (h : Held b s) : Held b (State.hsCmd s v) := by
  unfold State.hsCmd
  repeat' first
    | with_reducible assumption
    | (intro x; clear_value x)
    | (lift_lets; intro x; refine Held.via (s := b) x ?_ (fun _ => ?_); rotate_left; clear_value x; rotate_right)
    | with_reducible apply State.setReg_held
    | with_reducible apply State.drive_held
    | with_reducible apply State.setSio_held
theorem sioHsCmd_held {b : State} {w : Writer} {v : W32} {s : State} (h : Held b s) : Held b (sioHsCmd w v s) := by
  unfold sioHsCmd
  repeat' first
    | with_reducible assumption
    | with_reducible apply Held.ite
    | with_reducible apply State.hsCmd_held
theorem execSioHsCmd_held (w : Writer) (v : W32) (s : State) (z : State) (h : execSioHsCmd w v s = .next z) : Held s z := Held.next (sioHsCmd_held (Held.refl _)) h
theorem State.applySched_held {b : State} {s : State} (h : Held b s) : Held b (State.applySched s) := by
  unfold State.applySched
  repeat' first
    | with_reducible assumption
    | (intro x; clear_value x)
    | (lift_lets; intro x; clear_value x)
    | with_reducible refine Held.foldl ?_ (fun u x _ => ?_)
    | with_reducible apply State.hsCmd_held
    | with_reducible apply State.setLatches_held
    | with_reducible apply State.setSio_held
theorem hsCmdExpiry_held {b : State} {s : State} (h : Held b s) : Held b (hsCmdExpiry s) := by
  unfold hsCmdExpiry
  repeat' first
    | with_reducible assumption
    | (intro x; refine Held.via (s := b) x ?_ (fun _ => ?_); rotate_left; clear_value x; rotate_right)
    | (intro x; clear_value x)
    | (lift_lets; intro x; clear_value x)
    | with_reducible apply Held.ite
    | with_reducible apply State.setSio_held
    | with_reducible apply State.setReg_held
    | with_reducible apply State.drive_held
    | with_reducible apply State.setLatches_held
    | split
theorem execHsCmdExpiry_held (s : State) (z : State) (h : execHsCmdExpiry s = .next z) : Held s z := Held.next (hsCmdExpiry_held (Held.refl _)) h
theorem sioLatchSet_held {b : State} {w : Writer} {v : W32} {s : State} (h : Held b s) : Held b (sioLatchSet w v s) := by
  unfold sioLatchSet
  repeat' first
    | with_reducible assumption
    | with_reducible apply Held.ite
    | with_reducible apply State.drive_held
    | with_reducible apply State.setLatches_held
theorem execSioLatchSet_held (w : Writer) (v : W32) (s : State) (z : State) (h : execSioLatchSet w v s = .next z) : Held s z := Held.next (sioLatchSet_held (Held.refl _)) h
theorem State.readBack_held {b : State} {s : State} {c : Nat} (h : Held b s) : Held b (State.readBack s c) := by
  unfold State.readBack
  repeat' first
    | with_reducible assumption
    | (intro x; refine Held.via (s := b) x ?_ (fun _ => ?_); rotate_left; clear_value x; rotate_right)
    | (intro x; clear_value x)
    | (lift_lets; intro x; clear_value x)
    | with_reducible apply Held.ite
    | with_reducible apply State.setSio_held
    | with_reducible apply State.setLock_held
theorem State.darkEnd_held {b : State} {s : State} {n : Nat} {low : Bool} {pass : Bool} (h : Held b s) : Held b (State.darkEnd s n low pass) := by
  unfold State.darkEnd
  repeat' first
    | with_reducible assumption
    | (intro x; refine Held.via (s := b) x ?_ (fun _ => ?_); rotate_left; clear_value x; rotate_right)
    | (intro x; clear_value x)
    | (lift_lets; intro x; clear_value x)
    | with_reducible apply Held.ite
    | with_reducible apply State.setSio_held
    | with_reducible apply State.drive_held
    | with_reducible apply State.count_held
theorem State.darkSample_held {b : State} {s : State} {c : Nat} {d : DarkSt} (h : Held b s) : Held b (State.darkSample s c d) := by
  unfold State.darkSample
  repeat' first
    | with_reducible assumption
    | (intro x; clear_value x)
    | (lift_lets; intro x; clear_value x)
    | with_reducible apply Held.ite
    | with_reducible apply State.setSio_held
    | with_reducible apply State.darkEnd_held
theorem State.snapCopy_held {b : State} {s : State} {c : Nat} {v : BitVec 12} (h : Held b s) : Held b (State.snapCopy s c v) := by
  unfold State.snapCopy
  repeat' first
    | with_reducible assumption
    | (lift_lets; intro x; clear_value x)
    | with_reducible apply Held.ite
    | with_reducible apply State.setReg_held
    | simp only [↓Held.mk_iff]
    | split
theorem adcSample_held {b : State} {c : Nat} {v : BitVec 12} {s : State} (h : Held b s) : Held b (adcSample c v s) := by
  unfold adcSample
  repeat' first
    | with_reducible assumption
    | (intro x; refine Held.via (s := b) x ?_ (fun _ => ?_); rotate_left; clear_value x; rotate_right)
    | (intro x; clear_value x)
    | (lift_lets; intro x; clear_value x)
    | with_reducible apply Held.ite
    | with_reducible apply State.setReg_held
    | with_reducible apply State.snapCopy_held
    | with_reducible apply State.setSio_held
    | with_reducible apply State.setRegF_held
    | with_reducible apply State.darkEnd_held
    | with_reducible apply State.darkSample_held
    | with_reducible apply State.readBack_held
    | split
theorem execAdcSample_held (c : Nat) (v : BitVec 12) (s : State) (z : State) (h : execAdcSample c v s = .next z) : Held s z := Held.unit (adcSample_held (Held.refl _)) h
theorem darkTestStart_held {b : State} {n : Nat} {low : Bool} {s : State} (h : Held b s) : Held b (darkTestStart n low s) := by
  unfold darkTestStart
  repeat' first
    | with_reducible assumption
    | (intro x; clear_value x)
    | (lift_lets; intro x; clear_value x)
    | with_reducible apply Held.ite
    | with_reducible apply State.drive_held
    | with_reducible apply State.setSio_held
    | simp only [↓Held.mk_iff]
    | split
theorem execDarkTestStart_held (n : Nat) (low : Bool) (s : State) (z : State) (h : execDarkTestStart n low s = .next z) : Held s z := Held.unit (darkTestStart_held (Held.refl _)) h
theorem darkTestTimeout_held {b : State} {n : Nat} {s : State} (h : Held b s) : Held b (darkTestTimeout n s) := by
  unfold darkTestTimeout
  repeat' first
    | with_reducible assumption
    | (intro x; clear_value x)
    | (lift_lets; intro x; clear_value x)
    | with_reducible apply Held.ite
    | with_reducible apply State.setLock_held
    | with_reducible apply State.setSio_held
    | split
theorem execDarkTestTimeout_held (n : Nat) (s : State) (z : State) (h : execDarkTestTimeout n s = .next z) : Held s z := Held.unit (darkTestTimeout_held (Held.refl _)) h
theorem State.lockClr_held {b : State} {s : State} {mask : Nat} (h : Held b s) : Held b (State.lockClr s mask) := by
  unfold State.lockClr
  repeat' first
    | with_reducible assumption
    | with_reducible apply Held.ite
    | with_reducible refine Held.foldl ?_ (fun u x _ => ?_)
    | with_reducible apply State.drive_held
    | with_reducible apply State.setRegF_held
theorem sioLockClr_held {b : State} {w : Writer} {v : W32} {s : State} (h : Held b s) : Held b (sioLockClr w v s) := by
  unfold sioLockClr
  repeat' first
    | with_reducible assumption
    | with_reducible apply Held.ite
    | with_reducible apply State.lockClr_held
theorem execSioLockClr_held (w : Writer) (v : W32) (s : State) (z : State) (h : execSioLockClr w v s = .next z) : Held s z := Held.next (sioLockClr_held (Held.refl _)) h
theorem resumePressBegin_held {b : State} {s : State} (h : Held b s) : Held b (resumePressBegin s) := by
  unfold resumePressBegin
  repeat' first
    | with_reducible assumption
    | (intro x; clear_value x)
    | (lift_lets; intro x; clear_value x)
    | with_reducible apply Held.ite
    | with_reducible apply State.setRegF_held
    | with_reducible apply State.setSio_held
theorem execResumePressBegin_held (s : State) (z : State) (h : execResumePressBegin s = .next z) : Held s z := Held.next (resumePressBegin_held (Held.refl _)) h
theorem resumeRelease_held {b : State} {second : Bool} {s : State} (h : Held b s) : Held b (resumeRelease second s) := by
  unfold resumeRelease
  repeat' first
    | with_reducible assumption
    | (intro x; refine Held.via (s := b) x ?_ (fun _ => ?_); rotate_left; clear_value x; rotate_right)
    | (intro x; clear_value x)
    | (lift_lets; intro x; clear_value x)
    | with_reducible apply Held.ite
    | with_reducible apply State.setSio_held
    | with_reducible apply State.setRegF_held
    | with_reducible apply State.count_held
    | simp only [↓Held.mk_iff]
    | split
theorem execResumeRelease_held (second : Bool) (s : State) (z : State) (h : execResumeRelease second s = .next z) : Held s z := Held.next (resumeRelease_held (Held.refl _)) h
theorem resumeDiscTimeout_held {b : State} {s : State} (h : Held b s) : Held b (resumeDiscTimeout s) := by
  unfold resumeDiscTimeout
  repeat' first
    | with_reducible assumption
    | (intro x; clear_value x)
    | (lift_lets; intro x; clear_value x)
    | with_reducible apply Held.ite
    | with_reducible apply State.setErr_held
    | with_reducible apply State.setSio_held
    | split
theorem execResumeDiscrepancyTimeout_held (s : State) (z : State) (h : execResumeDiscrepancyTimeout s = .next z) : Held s z := Held.next (resumeDiscTimeout_held (Held.refl _)) h
theorem resumeStuckTimeout_held {b : State} {second : Bool} {s : State} (h : Held b s) : Held b (resumeStuckTimeout second s) := by
  unfold resumeStuckTimeout
  repeat' first
    | with_reducible assumption
    | with_reducible apply Held.ite
    | with_reducible apply State.resumeStuck_held
theorem execResumeStuckTimeout_held (second : Bool) (s : State) (z : State) (h : execResumeStuckTimeout second s = .next z) : Held s z := Held.next (resumeStuckTimeout_held (Held.refl _)) h
theorem State.resumeClr_held {b : State} {s : State} (h : Held b s) : Held b (State.resumeClr s) := by
  unfold State.resumeClr
  repeat' first
    | with_reducible assumption
    | (lift_lets; intro x; clear_value x)
    | with_reducible apply Held.ite
    | with_reducible apply State.setRegF_held
theorem sioResumeClr_held {b : State} {w : Writer} {v : W32} {s : State} (h : Held b s) : Held b (sioResumeClr w v s) := by
  unfold sioResumeClr
  repeat' first
    | with_reducible assumption
    | with_reducible apply Held.ite
    | with_reducible apply State.resumeClr_held
theorem execSioResumeClr_held (w : Writer) (v : W32) (s : State) (z : State) (h : execSioResumeClr w v s = .next z) : Held s z := Held.next (sioResumeClr_held (Held.refl _)) h
theorem State.resumeOne_held {b : State} {s : State} {n : Nat} {press : Tick} {believed : Bool} (h : Held b s) : Held b (State.resumeOne s n press believed).2 := by
  unfold State.resumeOne
  repeat' first
    | with_reducible assumption
    | (lift_lets; intro x; clear_value x)
    | with_reducible apply Held.iteSnd
    | with_reducible apply State.clearLatch_held
    | with_reducible apply State.count_held
theorem State.resumeEval_held {o : State} {s : State} {b : Tick} {believed : Nat → Bool} (h : Held o s) : Held o (State.resumeEval s b believed) := by
  unfold State.resumeEval
  repeat' first
    | with_reducible assumption
    | (intro x; refine Held.via (s := o) x ?_ (fun _ => ?_); rotate_left; clear_value x; rotate_right)
    | (intro x; clear_value x)
    | (lift_lets; intro x; clear_value x)
    | with_reducible apply Held.ite
    | with_reducible refine Held.foldl ?_ (fun u x _ => ?_)
    | with_reducible refine Held.foldlSnd ?_ (fun u x _ => ?_)
    | with_reducible apply State.setSio_held
    | with_reducible apply State.resumeOne_held
    | with_reducible apply State.count_held
theorem State.autoRelease_held {o : State} {s : State} {b : Tick} {believed : Nat → Bool} (h : Held o s) : Held o (State.autoRelease s b believed) := by
  unfold State.autoRelease
  repeat' first
    | with_reducible assumption
    | with_reducible apply Held.ite
    | with_reducible refine Held.foldl ?_ (fun u x _ => ?_)
    | with_reducible apply State.clearLatch_held
theorem faultAck_held {b : State} {m : PMsg} {s : State} (h : Held b s) : Held b (faultAck m s) := by
  unfold faultAck
  repeat' first
    | with_reducible assumption
    | with_reducible apply Held.ite
    | with_reducible apply State.recv_held
    | with_reducible apply State.fcAck_held
    | with_reducible apply State.resumeClr_held
    | with_reducible apply State.lockClr_held
    | simp only [↓Held.mk_iff]
    | split
theorem execFaultAck_held (m : PMsg) (s : State) (z : State) (h : execFaultAck m s = .next z) : Held s z := Held.next (faultAck_held (Held.refl _)) h

end Sys2Proof.Machine
end

