-- ==== Sys2Proof/Laws/HeldBoot.lean ====
section
/-! SUPPORT. What each function of Boot.lean leaves alone: the queue, FRC and the canonical form. -/

namespace Sys2Proof.Machine

theorem State.ioRegs_held {b : State} {s : State} (h : Held b s) : Held b (State.ioRegs s) := by
  unfold State.ioRegs
  repeat' first
    | with_reducible assumption
    | (lift_lets; intro x; clear_value x)
    | (with_reducible refine Held.mkForm ?_ (by with_reducible exact regsWf_keep _ _) (by with_reducible exact id) (by with_reducible exact id))
theorem State.ioReset_held {b : State} {s : State} (h : Held b s) : Held b (State.ioReset s) := by
  unfold State.ioReset
  repeat' first
    | with_reducible assumption
    | (intro x; clear_value x)
    | (lift_lets; intro x; refine Held.via (s := b) x ?_ (fun _ => ?_); rotate_left; clear_value x; rotate_right)
    | with_reducible refine Held.foldl ?_ (fun u x _ => ?_)
    | with_reducible apply State.wdReset_held
    | with_reducible apply State.setRegF_held
    | with_reducible apply State.ioRegs_held
    | with_reducible apply State.setReg_held
    | with_reducible apply State.clearStreams_held
    | with_reducible apply State.calApply_held
    | with_reducible apply State.setRep_held
    | with_reducible apply State.lkResetEnd_held
    | with_reducible apply State.chkDrop_held
    | with_reducible apply State.closeScopes_held
    | with_reducible apply State.withFalls_held
    | simp only [↓Held.mk_iff]
theorem State.ioLost_held {b : State} {s : State} {why : Nat} {on : Bool} (h : Held b s) : Held b (State.ioLost s why on) := by
  unfold State.ioLost
  repeat' first
    | with_reducible assumption
    | (intro x; refine Held.via (s := b) x ?_ (fun _ => ?_); rotate_left; clear_value x; rotate_right)
    | (lift_lets; intro x; clear_value x)
    | with_reducible apply Held.ite
    | with_reducible apply State.extHigh_held
    | with_reducible apply State.fcEvent_held
    | with_reducible apply State.withFalls_held
theorem State.ioDown_held {b : State} {s : State} (h : Held b s) : Held b (State.ioDown s) := by
  unfold State.ioDown
  repeat' first
    | with_reducible assumption
    | with_reducible apply State.ioLost_held
    | with_reducible apply State.ioReset_held
    | with_reducible apply State.setRegF_held
theorem ioDieRelease_held {b : State} {w : Writer} {s : State} (h : Held b s) : Held b (ioDieRelease w s) := by
  unfold ioDieRelease
  repeat' first
    | with_reducible assumption
    | (intro x; refine Held.via (s := b) x ?_ (fun _ => ?_); rotate_left; clear_value x; rotate_right)
    | (intro x; clear_value x)
    | (lift_lets; intro x; refine Held.via (s := b) x ?_ (fun _ => ?_); rotate_left; clear_value x; rotate_right)
    | with_reducible apply Held.ite
    | with_reducible apply State.setRegF_held
    | with_reducible apply State.ioLost_held
    | unfold x
    | simp only [↓Held.mk_iff]
theorem execIoDieRelease_held (w : Writer) (s : State) (z : State) (h : execIoDieRelease w s = .next z) : Held s z := Held.next (ioDieRelease_held (Held.refl _)) h
theorem ioDieReset_held {b : State} {w : Writer} {s : State} (h : Held b s) : Held b (ioDieReset w s) := by
  unfold ioDieReset
  repeat' first
    | with_reducible assumption
    | with_reducible apply Held.ite
    | with_reducible apply State.ioDown_held
theorem execIoDieReset_held (w : Writer) (s : State) (z : State) (h : execIoDieReset w s = .next z) : Held s z := Held.next (ioDieReset_held (Held.refl _)) h
theorem ioThermal_held {b : State} {s : State} (h : Held b s) : Held b (ioThermal s) := by
  unfold ioThermal
  repeat' first
    | with_reducible assumption
    | with_reducible apply Held.ite
    | with_reducible apply State.ioLost_held
    | with_reducible apply State.ioReset_held
theorem execIoDieThermalReset_held (s : State) (z : State) (h : execIoDieThermalReset s = .next z) : Held s z := Held.next (ioThermal_held (Held.refl _)) h
theorem State.ghRom_held {b : State} {s : State} {imageOk : Bool} (h : Held b s) : Held b (State.ghRom s imageOk) := by
  unfold State.ghRom
  repeat' first
    | with_reducible assumption
    | (intro x; refine Held.via (s := b) x ?_ (fun _ => ?_); rotate_left; clear_value x; rotate_right)
    | (intro x; refine Held.viaF2 (s := b) x (fun u k l _ => ?_) (fun hf2 => ?_); rotate_left; clear_value x; rotate_right)
    | (intro x; clear_value x)
    | (lift_lets; intro x; refine Held.via (s := b) x ?_ (fun _ => ?_); rotate_left; clear_value x; rotate_right)
    | (lift_lets; intro x; clear_value x)
    | with_reducible apply Held.ite
    | with_reducible apply Held.iteSnd
    | with_reducible apply State.flashRead_held
    | with_reducible apply State.mrExtend_held
    | with_reducible apply hf2
    | unfold x
    | simp only [↓Held.mk_iff]
/-- A Gatehouse power-on keeps the queue and the canonical form and starts FRC from 0. -/
theorem State.powerOn_form (s : State) (imageOk : Bool) : (s.powerOn imageOk).pending = s.pending ∧ (s.powerOn imageOk).frc = 0 ∧
    (s.inForm = true → (s.powerOn imageOk).inForm = true) := by
  have k : ∀ t : State, Held t (((((List.range' 110 11).foldl State.calApply t).setReg (ghRstPage + 0x040) 1).setLatches 15 lcReset).ghRom
      imageOk) :=
    fun t => State.ghRom_held (State.setLatches_held (State.setReg_held (Held.foldl (Held.refl t) (fun _ _ h => State.calApply_held h))))
  refine ⟨(k _).pending, (k _).frc, fun h => (k _).form ?_⟩
  rw [State.inForm_iff] at h ⊢
  refine ⟨rfl, rfl, rfl, ?_⟩
  have j := h.2.2.2
  simp only [State.localForm, Bool.and_eq_true] at j ⊢
  exact ⟨⟨⟨rfl, Tab.wf_keep 0 _ _ j.1.1.2⟩, rfl⟩, rfl⟩
theorem execGatehousePowerOn_form (imageOk : Bool) (s z : State) (h : execGatehousePowerOn imageOk s = .next z) :
    z.pending = s.pending ∧ z.frc = 0 ∧ (s.inForm = true → z.inForm = true) := by
  simp only [execGatehousePowerOn, Host.Outcome.next.injEq] at h
  exact h ▸ State.powerOn_form s imageOk
theorem State.ghClear_held {b : State} {s : State} {debug : Bool} (h : Held b s) : Held b (State.ghClear s debug) := by
  unfold State.ghClear
  repeat' first
    | with_reducible assumption
    | (intro x; refine Held.via (s := b) x ?_ (fun _ => ?_); rotate_left; clear_value x; rotate_right)
    | (intro x; clear_value x)
    | (lift_lets; intro x; refine Held.via (s := b) x ?_ (fun _ => ?_); rotate_left; clear_value x; rotate_right)
    | with_reducible refine Held.foldl ?_ (fun u x _ => ?_)
    | with_reducible apply State.wdReset_held
    | with_reducible apply State.resetRegs_held
    | with_reducible apply State.clearStreams_held
    | with_reducible apply State.calApply_held
    | with_reducible apply State.setScopes_held
    | with_reducible apply State.lkResetEnd_held
    | with_reducible apply State.setLatches_held
    | unfold x
    | simp only [↓Held.mk_iff]
theorem State.ghReset_held {b : State} {s : State} {cause : Nat} {imageOk : Bool} (h : Held b s) : Held b (State.ghReset s cause imageOk) := by
  unfold State.ghReset
  repeat' first
    | with_reducible assumption
    | (intro x; refine Held.via (s := b) x ?_ (fun _ => ?_); rotate_left; clear_value x; rotate_right)
    | (lift_lets; intro x; refine Held.via (s := b) x ?_ (fun _ => ?_); rotate_left; clear_value x; rotate_right)
    | with_reducible apply State.ioReset_held
    | with_reducible apply State.kill_held
    | with_reducible apply State.ghClear_held
    | with_reducible apply State.ghRom_held
    | with_reducible apply State.setReg_held
theorem gatehouseReset_held {b : State} {cause : Nat} {imageOk : Bool} {s : State} (h : Held b s) : Held b (gatehouseReset cause imageOk s) := by
  unfold gatehouseReset
  repeat' first
    | with_reducible assumption
    | with_reducible apply Held.ite
    | with_reducible apply State.ghReset_held
theorem execGatehouseReset_held (cause : BitVec 3) (imageOk : Bool) (s : State) (z : State) (h : execGatehouseReset cause imageOk s = .next z) : Held s z := Held.next (gatehouseReset_held (Held.refl _)) h
theorem wdGatehouseReset_held {b : State} {imageOk : Bool} {s : State} (h : Held b s) : Held b (wdGatehouseReset imageOk s) := by
  unfold wdGatehouseReset
  repeat' first
    | with_reducible assumption
    | (lift_lets; intro x; clear_value x)
    | with_reducible apply Held.ite
    | with_reducible apply State.ghReset_held
theorem execWatchdogGatehouseReset_held (imageOk : Bool) (s : State) (z : State) (h : execWatchdogGatehouseReset imageOk s = .next z) : Held s z := Held.next (wdGatehouseReset_held (Held.refl _)) h
theorem wdCoreReset_held {b : State} {c : Nat} {s : State} (h : Held b s) : Held b (wdCoreReset c s) := by
  unfold wdCoreReset
  repeat' first
    | with_reducible assumption
    | (intro x; refine Held.via (s := b) x ?_ (fun _ => ?_); rotate_left; clear_value x; rotate_right)
    | (lift_lets; intro x; clear_value x)
    | with_reducible apply Held.ite
    | with_reducible apply State.gkRestart_held
    | with_reducible apply State.wdReset_held
theorem execWatchdogCoreReset_held (c : Nat) (s : State) (z : State) (h : execWatchdogCoreReset c s = .next z) : Held s z := Held.unit (wdCoreReset_held (Held.refl _)) h
theorem brownOut_held {b : State} {s : State} (h : Held b s) : Held b (brownOut s) := by
  unfold brownOut
  repeat' first
    | with_reducible assumption
    | with_reducible apply State.ghClear_held
    | with_reducible apply State.ioReset_held
    | with_reducible apply State.kill_held
theorem execBrownOut_held (s : State) (z : State) (h : execBrownOut s = .next z) : Held s z := Held.next (brownOut_held (Held.refl _)) h
theorem execBrownOutRecovery_form (imageOk : Bool) (s z : State) (h : execBrownOutRecovery imageOk s = .next z) :
    z.pending = s.pending ∧ z.frc = 0 ∧ (s.inForm = true → z.inForm = true) := by
  simp only [execBrownOutRecovery, Host.Outcome.next.injEq] at h
  exact h ▸ State.powerOn_form s imageOk
theorem clockWindow_held {b : State} {c : Nat} {good : Bool} {imageOk : Bool} {s : State} (h : Held b s) : Held b (clockWindow c good imageOk s) := by
  unfold clockWindow
  repeat' first
    | with_reducible assumption
    | (intro x; refine Held.via (s := b) x ?_ (fun _ => ?_); rotate_left; clear_value x; rotate_right)
    | (lift_lets; intro x; clear_value x)
    | with_reducible apply Held.ite
    | with_reducible apply State.withFalls_held
    | with_reducible apply State.extHigh_held
    | with_reducible apply State.ioLost_held
    | with_reducible apply State.fcEvent_held
    | with_reducible apply State.ghReset_held
    | unfold x
    | simp only [↓Held.mk_iff]
theorem execClockMonitorWindow_held (c : Nat) (good : Bool) (imageOk : Bool) (s : State) (z : State) (h : execClockMonitorWindow c good imageOk s = .next z) : Held s z := Held.unit (clockWindow_held (Held.refl _)) h
theorem State.setRail_held {b : State} {s : State} {c : Nat} {r : RailSt} (h : Held b s) : Held b (State.setRail s c r) := by
  unfold State.setRail
  repeat' first
    | with_reducible assumption
    | (lift_lets; intro x; clear_value x)
    | simp only [↓Held.mk_iff]
theorem State.railFault_held {b : State} {s : State} {c : Nat} (h : Held b s) : Held b (State.railFault s c) := by
  unfold State.railFault
  repeat' first
    | with_reducible assumption
    | (lift_lets; intro x; refine Held.via (s := b) x ?_ (fun _ => ?_); rotate_left; clear_value x; rotate_right)
    | with_reducible apply Held.ite
    | with_reducible apply State.setReg_held
    | with_reducible apply State.kill_held
    | with_reducible apply State.setErr_held
    | with_reducible apply State.ioDown_held
theorem railSample_held {b : State} {c : Nat} {mv : Nat} {s : State} (h : Held b s) : Held b (railSample c mv s) := by
  unfold railSample
  repeat' first
    | with_reducible assumption
    | (intro x; clear_value x)
    | (lift_lets; intro x; clear_value x)
    | with_reducible apply Held.ite
    | with_reducible apply State.setRail_held
    | with_reducible apply State.railFault_held
    | with_reducible apply State.setRegF_held
    | split
theorem execRailMonitorSample_held (c : Nat) (mv : Nat) (s : State) (z : State) (h : execRailMonitorSample c mv s = .next z) : Held s z := Held.unit (railSample_held (Held.refl _)) h
theorem railArmTimeout_held {b : State} {c : Nat} {s : State} (h : Held b s) : Held b (railArmTimeout c s) := by
  unfold railArmTimeout
  repeat' first
    | with_reducible assumption
    | with_reducible apply Held.ite
    | with_reducible apply State.railFault_held
    | split
theorem execRailArmTimeout_held (c : Nat) (s : State) (z : State) (h : execRailArmTimeout c s = .next z) : Held s z := Held.unit (railArmTimeout_held (Held.refl _)) h
theorem diePowerUp_held {b : State} {d : Nat} {s : State} (h : Held b s) : Held b (diePowerUp d s) := by
  unfold diePowerUp
  repeat' first
    | with_reducible assumption
    | (intro x; refine Held.via (s := b) x ?_ (fun _ => ?_); rotate_left; clear_value x; rotate_right)
    | (intro x; clear_value x)
    | (lift_lets; intro x; clear_value x)
    | with_reducible apply Held.ite
    | with_reducible refine Held.foldl ?_ (fun u x _ => ?_)
    | with_reducible apply State.applyRec_held
    | with_reducible apply State.setRegF_held
    | unfold x
    | simp only [↓Held.mk_iff]
theorem dramTrained_held {b : State} {d : Nat} {ok : Bool} {s : State} (h : Held b s) : Held b (dramTrained d ok s) := by
  unfold dramTrained
  repeat' first
    | with_reducible assumption
    | (intro x; clear_value x)
    | (lift_lets; intro x; refine Held.via (s := b) x ?_ (fun _ => ?_); rotate_left; clear_value x; rotate_right)
    | with_reducible apply Held.ite
    | with_reducible apply State.setRegF_held
theorem State.loadRecord_held {b : State} {s : State} {r : SafetyRecord} (h : Held b s) : Held b (State.loadRecord s r) := by
  unfold State.loadRecord
  repeat' first
    | with_reducible assumption
    | (intro x; refine Held.via (s := b) x ?_ (fun _ => ?_); rotate_left; clear_value x; rotate_right)
    | (intro x; refine Held.viaF2 (s := b) x (fun u k l _ => ?_) (fun hf2 => ?_); rotate_left; clear_value x; rotate_right)
    | (intro x; clear_value x)
    | (lift_lets; intro x; clear_value x)
    | with_reducible refine Held.foldl ?_ (fun u x _ => ?_)
    | with_reducible apply State.setReg_held
    | with_reducible apply State.calWrite_held
    | with_reducible apply hf2
    | simp only [↓Held.mk_iff]
theorem State.startPairs_held {b : State} {s : State} (h : Held b s) : Held b (State.startPairs s) := by
  unfold State.startPairs
  repeat' first
    | with_reducible assumption
    | (lift_lets; intro x; refine Held.via (s := b) x ?_ (fun _ => ?_); rotate_left; clear_value x; rotate_right)
    | with_reducible apply Held.ite
    | with_reducible refine Held.foldl ?_ (fun u x _ => ?_)
    | with_reducible apply State.setRegF_held
    | with_reducible apply State.pairFault_held
    | with_reducible apply State.setSiState_held
theorem State.armResume_held {b : State} {s : State} (h : Held b s) : Held b (State.armResume s) := by
  unfold State.armResume
  repeat' first
    | with_reducible assumption
    | (intro x; clear_value x)
    | (lift_lets; intro x; refine Held.via (s := b) x ?_ (fun _ => ?_); rotate_left; clear_value x; rotate_right)
    | with_reducible apply State.setRegF_held
    | with_reducible apply State.setSio_held
theorem State.recCopy_held {b : State} {s : State} (h : Held b s) : Held b (State.recCopy s).2 := by
  unfold State.recCopy
  repeat' first
    | with_reducible assumption
    | (intro x; clear_value x)
    | (lift_lets; intro x; clear_value x)
    | with_reducible apply Held.iteSnd
    | with_reducible apply State.flashRead_held
theorem recordLoad_held {b : State} {r : Option SafetyRecord} {s : State} (h : Held b s) : Held b (recordLoad r s) := by
  unfold recordLoad
  repeat' first
    | with_reducible assumption
    | (intro x; refine Held.via (s := b) x ?_ (fun _ => ?_); rotate_left; clear_value x; rotate_right)
    | (intro x; clear_value x)
    | (lift_lets; intro x; refine Held.via (s := b) x ?_ (fun _ => ?_); rotate_left; clear_value x; rotate_right)
    | with_reducible apply Held.ite
    | with_reducible apply State.recCopy_held
    | with_reducible apply State.startPairs_held
    | with_reducible apply State.loadRecord_held
    | with_reducible apply State.mrExtend_held
    | with_reducible apply State.armResume_held
    | with_reducible apply State.drive_held
    | unfold x
    | simp only [↓Held.mk_iff]
    | with_reducible refine Held.snd (by with_reducible assumption) ?_
    | split
theorem execSafetyRecordLoad_held (r : Option SafetyRecord) (s : State) (z : State) (h : execSafetyRecordLoad r s = .next z) : Held s z := Held.next (recordLoad_held (Held.refl _)) h
theorem fwSwitch_held {b : State} {w : Writer} {s : State} (h : Held b s) : Held b (fwSwitch w s) := by
  unfold fwSwitch
  repeat' first
    | with_reducible assumption
    | (intro x; refine Held.via (s := b) x ?_ (fun _ => ?_); rotate_left; clear_value x; rotate_right)
    | (lift_lets; intro x; clear_value x)
    | with_reducible apply Held.ite
    | with_reducible apply State.setRegF_held
    | with_reducible apply State.drive_held
    | with_reducible apply State.ghRom_held
    | with_reducible apply State.wdReset_held
    | simp only [↓Held.mk_iff]
theorem execFirmwareSwitchRequest_held (w : Writer) (s : State) (z : State) (h : execFirmwareSwitchRequest w s = .next z) : Held s z := Held.next (fwSwitch_held (Held.refl _)) h
theorem State.fwEnd_held {b : State} {s : State} {t0 : Tick} {st : Nat} (h : Held b s) : Held b (State.fwEnd s t0 st) := by
  unfold State.fwEnd
  repeat' first
    | with_reducible assumption
    | (lift_lets; intro x; refine Held.via (s := b) x ?_ (fun _ => ?_); rotate_left; clear_value x; rotate_right)
    | with_reducible apply State.setRegF_held
    | simp only [↓Held.mk_iff]
theorem fwDone_held {b : State} {w : Writer} {s : State} (h : Held b s) : Held b (fwDone w s) := by
  unfold fwDone
  repeat' first
    | with_reducible assumption
    | with_reducible apply Held.ite
    | with_reducible apply State.drive_held
    | with_reducible apply State.fwEnd_held
    | split
theorem execFirmwareSwitchDone_held (w : Writer) (s : State) (z : State) (h : execFirmwareSwitchDone w s = .next z) : Held s z := Held.next (fwDone_held (Held.refl _)) h
theorem State.fwFail_held {b : State} {s : State} {t0 : Tick} (h : Held b s) : Held b (State.fwFail s t0) := by
  unfold State.fwFail
  repeat' first
    | with_reducible assumption
    | (intro x; clear_value x)
    | (lift_lets; intro x; refine Held.via (s := b) x ?_ (fun _ => ?_); rotate_left; clear_value x; rotate_right)
    | with_reducible apply State.setErr_held
    | with_reducible apply State.fwEnd_held
    | with_reducible apply State.drive_held
    | with_reducible apply State.setLatches_held
    | with_reducible apply State.setSio_held
    | with_reducible apply State.setReg_held
theorem fwTimeout_held {b : State} {s : State} (h : Held b s) : Held b (fwTimeout s) := by
  unfold fwTimeout
  repeat' first
    | with_reducible assumption
    | with_reducible apply Held.ite
    | with_reducible apply State.fwFail_held
    | split
theorem execFirmwareSwitchTimeout_held (s : State) (z : State) (h : execFirmwareSwitchTimeout s = .next z) : Held s z := Held.next (fwTimeout_held (Held.refl _)) h

end Sys2Proof.Machine
end

