-- ==== Sys2Proof/Laws/HeldRestart.lean ====
section
/-! SUPPORT. What each function of Restart.lean leaves alone: the queue, FRC and the canonical form. -/

namespace Sys2Proof.Machine

theorem State.assignSafety_held {b : State} {s : State} {p : Nat} (h : Held b s) : Held b (State.assignSafety s p) := by
  unfold State.assignSafety
  repeat' first
    | with_reducible assumption
    | (intro x; clear_value x)
    | (lift_lets; intro x; clear_value x)
    | with_reducible refine Held.foldl ?_ (fun u x _ => ?_)
    | with_reducible apply State.writeDomain_held
    | with_reducible apply State.setErrMask_held
theorem State.regionWindows_held {b : State} {s : State} {d : Nat} (h : Held b s) : Held b (State.regionWindows s d) := by
  unfold State.regionWindows
  repeat' first
    | with_reducible assumption
    | (lift_lets; intro x; clear_value x)
    | with_reducible apply Held.ite
    | with_reducible refine Held.foldl ?_ (fun u x _ => ?_)
    | with_reducible apply State.fwPut_held
    | split
theorem State.orderStat_held {b : State} {s : State} {o : Order} (h : Held b s) : Held b (State.orderStat s o) := by
  unfold State.orderStat
  repeat' first
    | with_reducible assumption
    | with_reducible apply Held.ite
    | with_reducible apply State.setReg_held
theorem State.putOrder_held {b : State} {s : State} {o : Order} (h : Held b s) : Held b (State.putOrder s o) := by
  unfold State.putOrder
  repeat' first
    | with_reducible assumption
    | (lift_lets; intro x; clear_value x)
    | with_reducible apply State.orderStat_held
    | with_reducible apply State.setBel_held
theorem State.orderSend_held {b : State} {s : State} {o : Order} (h : Held b s) : Held b (State.orderSend s o) := State.sendMsg_held h
theorem State.orderRestart_held {b : State} {s : State} {sc : Scope} (h : Held b s) : Held b (State.orderRestart s sc) := by
  unfold State.orderRestart
  repeat' first
    | with_reducible assumption
    | (intro x; refine Held.via (s := b) x ?_ (fun _ => ?_); rotate_left; clear_value x; rotate_right)
    | (intro x; clear_value x)
    | (lift_lets; intro x; clear_value x)
    | with_reducible apply Held.ite
    | with_reducible refine Held.foldl ?_ (fun u x _ => ?_)
    | with_reducible apply State.orderSend_held
    | with_reducible apply State.setBel_held
    | with_reducible apply State.orderStat_held
    | with_reducible apply State.setPlan_held
    | with_reducible apply State.setSvc_held
    | with_reducible apply State.disarm_held
    | unfold x
    | simp only [↓Held.mk_iff]
theorem State.orderOver_held {b : State} {s : State} {o : Order} {st : Nat} (h : Held b s) : Held b (State.orderOver s o st) := by
  unfold State.orderOver
  repeat' first
    | with_reducible assumption
    | (intro x; refine Held.via (s := b) x ?_ (fun _ => ?_); rotate_left; clear_value x; rotate_right)
    | (intro x; clear_value x)
    | (lift_lets; intro x; clear_value x)
    | with_reducible apply Held.ite
    | with_reducible refine Held.foldl ?_ (fun u x _ => ?_)
    | with_reducible apply State.putOrder_held
    | with_reducible apply State.setChk_held
    | unfold x
    | simp only [↓Held.mk_iff]
theorem State.orderFail_held {b : State} {s : State} {o : Order} (h : Held b s) : Held b (State.orderFail s o) := by
  unfold State.orderFail
  repeat' first
    | with_reducible assumption
    | with_reducible apply State.setErr_held
    | with_reducible apply State.orderOver_held
theorem restartAck_held {b : State} {m : PMsg} {s : State} (h : Held b s) : Held b (restartAck m s) := by
  unfold restartAck
  repeat' first
    | with_reducible assumption
    | with_reducible apply Held.ite
    | with_reducible apply State.recv_held
    | with_reducible apply State.putOrder_held
    | simp only [↓Held.mk_iff]
    | split
theorem execRestartAck_held (m : PMsg) (s : State) (z : State) (h : execRestartAck m s = .next z) : Held s z := Held.next (restartAck_held (Held.refl _)) h
theorem ackTimeout_held {b : State} {num : Nat} {s : State} (h : Held b s) : Held b (ackTimeout num s) := by
  unfold ackTimeout
  repeat' first
    | with_reducible assumption
    | with_reducible apply Held.ite
    | with_reducible apply State.orderSend_held
    | with_reducible apply State.putOrder_held
    | with_reducible apply State.orderFail_held
    | split
theorem execRestartAckTimeout_held (num : BitVec 8) (s : State) (z : State) (h : execRestartAckTimeout num s = .next z) : Held s z := Held.next (ackTimeout_held (Held.refl _)) h
theorem restartDone_held {b : State} {m : PMsg} {s : State} (h : Held b s) : Held b (restartDone m s) := by
  unfold restartDone
  repeat' first
    | with_reducible assumption
    | with_reducible refine Held.foldl ?_ (fun u x _ => ?_)
    | with_reducible apply State.recv_held
    | with_reducible apply State.assignSafety_held
    | with_reducible apply State.regionWindows_held
    | with_reducible apply State.orderOver_held
    | simp only [↓Held.mk_iff]
    | split
theorem execRestartDone_held (m : PMsg) (s : State) (z : State) (h : execRestartDone m s = .next z) : Held s z := Held.next (restartDone_held (Held.refl _)) h
theorem doneTimeout_held {b : State} {num : Nat} {s : State} (h : Held b s) : Held b (doneTimeout num s) := by
  unfold doneTimeout
  repeat' first
    | with_reducible assumption
    | with_reducible apply Held.ite
    | with_reducible apply State.orderFail_held
    | split
theorem execRestartDoneTimeout_held (num : BitVec 8) (s : State) (z : State) (h : execRestartDoneTimeout num s = .next z) : Held s z := Held.next (doneTimeout_held (Held.refl _)) h
theorem restartOrder_held {b : State} {m : PMsg} {num : Nat} {sc : Scope} {s : State} (h : Held b s) : Held b (restartOrder m num sc s) := by
  unfold restartOrder
  repeat' first
    | with_reducible assumption
    | with_reducible apply Held.ite
    | with_reducible apply State.recv_held
    | with_reducible apply State.gkDeliver_held
    | simp only [↓Held.mk_iff]
    | split
theorem execRestartOrder_held (m : PMsg) (num : BitVec 8) (sc : Scope) (s : State) (z : State) (h : execRestartOrder m num sc s = .next z) : Held s z := Held.next (restartOrder_held (Held.refl _)) h
theorem faultNoteRx_held {b : State} {m : PMsg} {s : State} (h : Held b s) : Held b (faultNoteRx m s) := by
  unfold faultNoteRx
  repeat' first
    | with_reducible assumption
    | with_reducible apply Held.ite
    | with_reducible apply State.recv_held
    | with_reducible apply State.gkDeliver_held
theorem execFaultNote_held (m : PMsg) (s : State) (z : State) (h : execFaultNote m s = .next z) : Held s z := Held.next (faultNoteRx_held (Held.refl _)) h
theorem execAbsorbComplete_held (u : UnitId) (s : State) (z : State) (h : execAbsorbComplete u s = .next z) : Held s z := Held.unit (State.gkAdvance_held (absorbComplete_held (Held.refl _))) h
theorem State.retired_held {b : State} {s : State} {u : UnitId} {r : W32} {absent : Bool} (h : Held b s) : Held b (State.retired s u r absent) := by
  unfold State.retired
  repeat' first
    | with_reducible assumption
    | (intro x; refine Held.via (s := b) x ?_ (fun _ => ?_); rotate_left; clear_value x; rotate_right)
    | (intro x; clear_value x)
    | (lift_lets; intro x; clear_value x)
    | with_reducible apply State.setGk_held
    | with_reducible apply State.setReg_held
    | with_reducible apply State.logAdd_held
theorem State.coreLost_held {b : State} {s : State} {u : UnitId} (h : Held b s) : Held b (State.coreLost s u) := by
  unfold State.coreLost
  repeat' first
    | with_reducible assumption
    | (intro x; refine Held.via (s := b) x ?_ (fun _ => ?_); rotate_left; clear_value x; rotate_right)
    | (intro x; clear_value x)
    | (lift_lets; intro x; clear_value x)
    | with_reducible apply Held.ite
    | with_reducible apply State.retired_held
    | unfold x
    | simp only [↓Held.mk_iff]
theorem spareMapBy_held {b : State} {w : Writer} {clu : UnitId} {v : W32} {s : State} (h : Held b s) : Held b (spareMapBy w clu v s) := by
  unfold spareMapBy
  repeat' first
    | with_reducible assumption
    | (intro x; clear_value x)
    | (lift_lets; intro x; refine Held.via (s := b) x ?_ (fun _ => ?_); rotate_left; clear_value x; rotate_right)
    | with_reducible apply Held.ite
    | with_reducible apply spareMapWrite_held
    | with_reducible apply State.retired_held
    | with_reducible apply State.setGk_held
theorem execCluSpareMapWrite_held (w : Writer) (clu : UnitId) (v : W32) (s : State) (z : State) (h : execCluSpareMapWrite w clu v s = .next z) : Held s z := Held.unit (spareMapBy_held (Held.refl _)) h
theorem initComplete_held {b : State} {u : UnitId} {ok : Bool} {s : State} (h : Held b s) : Held b (initComplete u ok s) := by
  unfold initComplete
  repeat' first
    | with_reducible assumption
    | (lift_lets; intro x; refine Held.via (s := b) x ?_ (fun _ => ?_); rotate_left; clear_value x; rotate_right)
    | with_reducible apply Held.ite
    | with_reducible apply State.retireMaps_held
    | with_reducible apply State.gkAdvance_held
    | with_reducible apply State.coreLost_held
    | with_reducible apply unitInitComplete_held
theorem execUnitInitComplete_held (u : UnitId) (ok : Bool) (s : State) (z : State) (h : execUnitInitComplete u ok s = .next z) : Held s z := Held.unit (initComplete_held (Held.refl _)) h
theorem execComputeDiePowerUp_held (d : Nat) (s : State) (z : State) (h : execComputeDiePowerUp d s = .next z) : Held s z := Held.unit (State.gkAdvance_held (diePowerUp_held (Held.refl _))) h
theorem execDramTrainingComplete_held (d : Nat) (ok : Bool) (s : State) (z : State) (h : execDramTrainingComplete d ok s = .next z) : Held s z := Held.unit (State.gkAdvance_held (dramTrained_held (Held.refl _))) h
theorem execCoreBootWrite_held (_w : Writer) (u : UnitId) (v : W32) (s : State) (z : State) (h : execCoreBootWrite _w u v s = .next z) : Held s z := Held.unit (State.gkAdvance_held (coreBootWrite_held (Held.refl _))) h

end Sys2Proof.Machine
end

