-- ==== Sys2Proof/Laws/HeldBelief.lean ====
section
/-! SUPPORT. What each function of Belief.lean leaves alone: the queue, FRC and the canonical form. -/

namespace Sys2Proof.Machine

theorem State.setBelief_held {b : State} {s : State} {n : Nat} {x : Nat} (h : Held b s) : Held b (State.setBelief s n x) := State.setRegF_held h
theorem State.transLog_held {b : State} {s : State} {n : Nat} {old : Nat} {new : Nat} {src : Nat} {sc : Scope} {runSeq : Nat} (h : Held b s) : Held b (State.transLog s n old new src sc runSeq) := by
  unfold State.transLog
  repeat' first
    | with_reducible assumption
    | (intro x; clear_value x)
    | (lift_lets; intro x; clear_value x)
    | with_reducible apply State.setBel_held
theorem State.transFlush_held {b : State} {s : State} (h : Held b s) : Held b (State.transFlush s) := by
  unfold State.transFlush
  repeat' first
    | with_reducible assumption
    | (intro x; refine Held.via (s := b) x ?_ (fun _ => ?_); rotate_left; clear_value x; rotate_right)
    | (intro x; clear_value x)
    | (lift_lets; intro x; clear_value x)
    | with_reducible refine Held.foldl ?_ (fun u x _ => ?_)
    | with_reducible apply State.setBel_held
    | simp only [↓Held.mk_iff]
theorem State.enterBelief_held {b : State} {s : State} {n : Nat} {new : Nat} {src : Nat} {sc : Scope} {v : SvcSt} {fresh : List Cause} (h : Held b s) : Held b (State.enterBelief s n new src sc v fresh) := by
  unfold State.enterBelief
  repeat' first
    | with_reducible assumption
    | (intro x; refine Held.via (s := b) x ?_ (fun _ => ?_); rotate_left; clear_value x; rotate_right)
    | (intro x; clear_value x)
    | (lift_lets; intro x; clear_value x)
    | with_reducible apply Held.ite
    | with_reducible apply State.setSvc_held
    | with_reducible apply State.transLog_held
    | with_reducible apply State.setBelief_held
    | with_reducible apply State.count_held
    | with_reducible apply State.setLatches_held
theorem State.weigh_held {o : State} {s : State} {b : Tick} {evs : List Ev} {n : Nat} {v : SvcSt} (h : Held o s) : Held o (State.weigh s b evs n v).2 := by
  unfold State.weigh
  repeat' first
    | with_reducible assumption
    | (intro x; clear_value x)
    | (lift_lets; intro x; clear_value x)
    | with_reducible apply State.enterBelief_held
theorem State.orderAll_held {b : State} {s : State} {want : List Scope} (h : Held b s) : Held b (State.orderAll s want) := by
  unfold State.orderAll
  repeat' first
    | with_reducible assumption
    | (intro x; refine Held.via (s := b) x ?_ (fun _ => ?_); rotate_left; clear_value x; rotate_right)
    | (intro x; clear_value x)
    | (lift_lets; intro x; clear_value x)
    | with_reducible apply Held.ite
    | with_reducible refine Held.foldl ?_ (fun u x _ => ?_)
    | with_reducible apply State.orderRestart_held
theorem State.ordersTold_held {b : State} {s : State} (h : Held b s) : Held b (State.ordersTold s) := by
  unfold State.ordersTold
  repeat' first
    | with_reducible assumption
    | (intro x; clear_value x)
    | (lift_lets; intro x; clear_value x)
    | with_reducible apply State.setBel_held
theorem State.graceRun_held {o : State} {s : State} {b : Tick} {n : Nat} {t0 : Nat} {iv : Nat} (h : Held o s) : Held o (State.graceRun s b n t0 iv) := by
  unfold State.graceRun
  repeat' first
    | with_reducible assumption
    | (intro x; refine Held.via (s := o) x ?_ (fun _ => ?_); rotate_left; clear_value x; rotate_right)
    | (lift_lets; intro x; clear_value x)
    | with_reducible apply Held.ite
    | with_reducible refine Held.foldl ?_ (fun u x _ => ?_)
    | with_reducible apply State.setBel_held
    | with_reducible apply State.enterBelief_held
    | with_reducible apply State.setLatch_held
    | split
theorem State.graceOne_held {o : State} {s : State} {b : Tick} {held : Bool} {n : Nat} (h : Held o s) : Held o (State.graceOne s b held n) := by
  unfold State.graceOne
  repeat' first
    | with_reducible assumption
    | (lift_lets; intro x; clear_value x)
    | with_reducible apply Held.ite
    | with_reducible apply State.graceRun_held
    | split
theorem State.verdictOne_held {o : State} {s : State} {b : Tick} {inForce : Bool} {n : Nat} (h : Held o s) : Held o (State.verdictOne s b inForce n) := by
  unfold State.verdictOne
  repeat' first
    | with_reducible assumption
    | (intro x; refine Held.via (s := o) x ?_ (fun _ => ?_); rotate_left; clear_value x; rotate_right)
    | (intro x; clear_value x)
    | (lift_lets; intro x; clear_value x)
    | with_reducible apply Held.ite
    | with_reducible apply State.setLatch_held
    | with_reducible apply State.setBel_held
    | with_reducible apply State.setReg_held
    | unfold x
    | simp only [↓Held.mk_iff]
theorem State.outputs_held {o : State} {s : State} {b : Tick} {l3 : Bool} (h : Held o s) : Held o (State.outputs s b l3) := by
  unfold State.outputs
  repeat' first
    | with_reducible assumption
    | (intro x; refine Held.via (s := o) x ?_ (fun _ => ?_); rotate_left; clear_value x; rotate_right)
    | (intro x; clear_value x)
    | (lift_lets; intro x; clear_value x)
    | with_reducible apply Held.ite
    | with_reducible refine Held.foldl ?_ (fun u x _ => ?_)
    | with_reducible apply State.setLatches_held
    | with_reducible apply State.graceOne_held
    | with_reducible apply State.resumeEval_held
    | with_reducible apply State.autoRelease_held
    | with_reducible apply State.verdictOne_held
theorem State.believe_held {o : State} {s : State} {b : Tick} {changed : List Nat} (h : Held o s) : Held o (State.believe s b changed) := by
  unfold State.believe
  repeat' first
    | with_reducible assumption
    | (intro x; refine Held.via (s := o) x ?_ (fun _ => ?_); rotate_left; clear_value x; rotate_right)
    | (intro x; clear_value x)
    | (lift_lets; intro x; clear_value x)
    | with_reducible apply Held.iteSnd
    | with_reducible refine Held.foldlSnd ?_ (fun u x _ => ?_)
    | with_reducible apply State.weigh_held
    | with_reducible apply State.outputs_held
    | with_reducible apply State.orderAll_held
    | with_reducible apply State.ordersTold_held
    | unfold x
    | simp only [↓Held.mk_iff]

end Sys2Proof.Machine
end

