-- ==== Sys2Proof/Laws/HeldRuns.lean ====
section
/-! SUPPORT. What each function of Runs.lean leaves alone: the queue, FRC and the canonical form. -/

namespace Sys2Proof.Machine

theorem State.setRun_held {b : State} {s : State} {r : Run} (h : Held b s) : Held b (State.setRun s r) := by
  unfold State.setRun
  repeat' first
    | with_reducible assumption
    | (lift_lets; intro x; clear_value x)
    | with_reducible apply State.setPlan_held
theorem State.evidIo_held {b : State} {s : State} {k : EvKind} (h : Held b s) : Held b (State.evidIo s k) := by
  unfold State.evidIo
  repeat' first
    | with_reducible assumption
    | with_reducible apply Held.ite
    | with_reducible apply State.evidence_held
theorem State.noteFall_held {o : State} {s : State} {svc : Nat} {b : Bool} {c : CopyRun} {safety : Bool} (h : Held o s) : Held o (State.noteFall s svc b c safety) := by
  unfold State.noteFall
  repeat' first
    | with_reducible assumption
    | (intro x; refine Held.via (s := o) x ?_ (fun _ => ?_); rotate_left; clear_value x; rotate_right)
    | (intro x; clear_value x)
    | (lift_lets; intro x; clear_value x)
    | with_reducible apply Held.ite
    | with_reducible apply State.setPlan_held
    | with_reducible apply State.evidIo_held
theorem State.sendDeadline_held {b : State} {s : State} {r : Run} (h : Held b s) : Held b (State.sendDeadline s r) := by
  unfold State.sendDeadline
  repeat' first
    | with_reducible assumption
    | with_reducible apply State.sendMsg_held
    | split
theorem State.skipFrame_held {o : State} {s : State} {b : Nat} {n : Nat} (h : Held o s) : Held o (State.skipFrame s b n) := by
  unfold State.skipFrame
  repeat' first
    | with_reducible assumption
    | (lift_lets; intro x; clear_value x)
    | with_reducible apply State.setPlan_held
theorem State.launch_held {o : State} {s : State} {b : Nat} {n : Nat} {proof : Bool} {golden : Nat} {frame : W32} {f : Firing} {net : NetDesc} (h : Held o s) : Held o (State.launch s b n proof golden frame f net) := by
  unfold State.launch
  repeat' first
    | with_reducible assumption
    | (intro x; refine Held.via (s := o) x ?_ (fun _ => ?_); rotate_left; clear_value x; rotate_right)
    | (intro x; clear_value x)
    | (lift_lets; intro x; clear_value x)
    | with_reducible apply State.setPlan_held
    | with_reducible apply State.noteFall_held
    | with_reducible apply State.sendMsg_held
theorem State.fireLive_held {b : State} {s : State} {n : Nat} {f : Firing} (h : Held b s) : Held b (State.fireLive s n f) := by
  unfold State.fireLive
  repeat' first
    | with_reducible assumption
    | (intro x; refine Held.via (s := b) x ?_ (fun _ => ?_); rotate_left; clear_value x; rotate_right)
    | (intro x; clear_value x)
    | (lift_lets; intro x; clear_value x)
    | with_reducible apply Held.ite
    | with_reducible apply State.setPlan_held
    | with_reducible apply State.count_held
    | with_reducible apply State.skipFrame_held
    | with_reducible apply State.launch_held
    | split
theorem State.fireGolden_held {b : State} {s : State} {n : Nat} {index : Nat} (h : Held b s) : Held b (State.fireGolden s n index) := by
  unfold State.fireGolden
  repeat' first
    | with_reducible assumption
    | (lift_lets; intro x; clear_value x)
    | with_reducible apply State.launch_held
    | split
theorem State.fireGather_held {b : State} {s : State} {n : Nat} {g : Gather} {at_ : Tick} (h : Held b s) : Held b (State.fireGather s n g at_) := by
  unfold State.fireGather
  repeat' first
    | with_reducible assumption
    | (intro x; clear_value x)
    | (lift_lets; intro x; clear_value x)
    | with_reducible apply State.fireLive_held
    | with_reducible apply State.setPlan_held
theorem State.closeGather_held {b : State} {s : State} {n : Nat} {g : Gather} (h : Held b s) : Held b (State.closeGather s n g) := by
  unfold State.closeGather
  repeat' first
    | with_reducible assumption
    | (intro x; clear_value x)
    | (lift_lets; intro x; clear_value x)
    | with_reducible apply Held.ite
    | with_reducible apply State.fireGather_held
    | with_reducible apply State.skipFrame_held
    | with_reducible apply State.count_held
    | with_reducible apply State.setPlan_held
theorem gatherWindowClose_held {b : State} {n : Nat} {s : State} (h : Held b s) : Held b (gatherWindowClose n s) := by
  unfold gatherWindowClose
  repeat' first
    | with_reducible assumption
    | with_reducible apply Held.ite
    | with_reducible apply State.closeGather_held
    | split
theorem execGatherWindowClose_held (n : Nat) (s : State) (z : State) (h : execGatherWindowClose n s = .next z) : Held s z := Held.unit (gatherWindowClose_held (Held.refl _)) h
theorem State.arriveAt_held {b : State} {s : State} {a : Arrival} {n : Nat} (h : Held b s) : Held b (State.arriveAt s a n) := by
  unfold State.arriveAt
  repeat' first
    | with_reducible assumption
    | (intro x; refine Held.via (s := b) x ?_ (fun _ => ?_); rotate_left; clear_value x; rotate_right)
    | (intro x; refine Held.viaF (s := b) x (fun u k _ => ?_) (fun hf => ?_); rotate_left; clear_value x; rotate_right)
    | (lift_lets; intro x; clear_value x)
    | with_reducible apply Held.ite
    | with_reducible apply State.closeGather_held
    | with_reducible apply State.fireGather_held
    | with_reducible apply State.setPlan_held
    | with_reducible apply State.count_held
    | with_reducible apply hf
    | unfold x
    | split
theorem State.arrive_held {b : State} {s : State} {a : Arrival} (h : Held b s) : Held b (State.arrive s a) := by
  unfold State.arrive
  repeat' first
    | with_reducible assumption
    | with_reducible refine Held.foldl ?_ (fun u x _ => ?_)
    | with_reducible apply State.arriveAt_held
theorem State.giveItem_held {o : State} {s : State} {u : UnitId} {r : Run} {b : Bool} {j : Job} {back : Option Nat} (h : Held o s) : Held o (State.giveItem s u r b j back) := by
  unfold State.giveItem
  repeat' first
    | with_reducible assumption
    | (intro x; refine Held.via (s := o) x ?_ (fun _ => ?_); rotate_left; clear_value x; rotate_right)
    | (intro x; clear_value x)
    | (lift_lets; intro x; clear_value x)
    | with_reducible apply Held.ite
    | with_reducible apply State.spWrite_held
    | with_reducible apply sigSeqWrite_held
    | with_reducible apply State.setCore_held
    | with_reducible apply State.setPlan_held
theorem State.resumeItem_held {b : State} {s : State} {u : UnitId} {r : Run} {x : Saved} (h : Held b s) : Held b (State.resumeItem s u r x) := by
  unfold State.resumeItem
  repeat' first
    | with_reducible assumption
    | (lift_lets; intro x; clear_value x)
    | with_reducible apply State.readB_held
    | with_reducible apply State.setPlan_held
    | with_reducible apply State.setCore_held
    | with_reducible apply State.giveItem_held
theorem State.assignCore_held {b : State} {s : State} {u : UnitId} (h : Held b s) : Held b (State.assignCore s u) := by
  unfold State.assignCore
  repeat' first
    | with_reducible assumption
    | (intro x; clear_value x)
    | (lift_lets; intro x; clear_value x)
    | with_reducible apply Held.ite
    | with_reducible apply State.resumeItem_held
    | with_reducible apply State.giveItem_held
    | with_reducible apply State.setRun_held
    | simp only [↓Held.mk_iff]
    | split
theorem State.assignSet_held {b : State} {s : State} {m : Nat} (h : Held b s) : Held b (State.assignSet s m) := by
  unfold State.assignSet
  repeat' first
    | with_reducible assumption
    | with_reducible refine Held.foldl ?_ (fun u x _ => ?_)
    | with_reducible apply State.assignCore_held
theorem State.resultData_held {o : State} {s : State} {r : Run} {b : Bool} (h : Held o s) : Held o (State.resultData s r b).2 := by
  unfold State.resultData
  repeat' first
    | with_reducible assumption
    | (intro x; clear_value x)
    | (lift_lets; intro x; clear_value x)
    | with_reducible refine Held.foldlSnd ?_ (fun u x _ => ?_)
    | with_reducible apply State.readP_held
theorem State.publish_held {b : State} {s : State} {r : Run} {check : Nat} (h : Held b s) : Held b (State.publish s r check) := by
  unfold State.publish
  repeat' first
    | with_reducible assumption
    | (intro x; clear_value x)
    | (lift_lets; intro x; clear_value x)
    | with_reducible apply Held.ite
    | with_reducible apply State.resultData_held
    | with_reducible apply State.writeB_held
    | with_reducible apply State.writeP_held
    | with_reducible apply State.setPlan_held
    | with_reducible apply State.setReg_held
    | with_reducible apply State.msixRequest_held
    | split
theorem State.restoreDom_held {b : State} {s : State} {p : Nat} (h : Held b s) : Held b (State.restoreDom s p) := by
  unfold State.restoreDom
  repeat' first
    | with_reducible assumption
    | (intro x; clear_value x)
    | (lift_lets; intro x; clear_value x)
    | with_reducible apply Held.ite
    | with_reducible apply State.writeDomain_held
    | simp only [↓Held.mk_iff]
    | split
theorem State.goldJudge_held {b : State} {s : State} {r : Run} {failA : Bool} {failB : Bool} (h : Held b s) : Held b (State.goldJudge s r failA failB) := by
  unfold State.goldJudge
  repeat' first
    | with_reducible assumption
    | (intro x; clear_value x)
    | (lift_lets; intro x; clear_value x)
    | with_reducible apply State.goldQueue_held
theorem State.goldTimes_held {b : State} {s : State} (h : Held b s) : Held b (State.goldTimes s) := by
  unfold State.goldTimes
  repeat' first
    | with_reducible assumption
    | (intro x; clear_value x)
    | (lift_lets; intro x; clear_value x)
    | with_reducible apply Held.ite
    | with_reducible refine Held.foldl ?_ (fun u x _ => ?_)
    | with_reducible apply State.sendDeadline_held
    | with_reducible apply State.setRun_held
theorem State.runEnd_held {b : State} {s : State} {r : Run} {check : Nat} (h : Held b s) : Held b (State.runEnd s r check) := by
  unfold State.runEnd
  repeat' first
    | with_reducible assumption
    | (intro x; refine Held.via (s := b) x ?_ (fun _ => ?_); rotate_left; clear_value x; rotate_right)
    | (intro x; clear_value x)
    | (lift_lets; intro x; clear_value x)
    | with_reducible apply Held.ite
    | with_reducible refine Held.foldl ?_ (fun u x _ => ?_)
    | with_reducible apply State.setPlan_held
    | with_reducible apply State.publish_held
    | with_reducible apply State.evidIo_held
    | with_reducible apply State.fireLive_held
    | with_reducible apply State.restoreDom_held
    | with_reducible apply State.goldTimes_held
    | with_reducible apply State.assignSet_held
theorem State.askYield_held {o : State} {s : State} {r : Run} {b : Bool} {m : Nat} (h : Held o s) : Held o (State.askYield s r b m) := by
  unfold State.askYield
  repeat' first
    | with_reducible assumption
    | (lift_lets; intro x; clear_value x)
    | with_reducible apply Held.ite
    | with_reducible refine Held.foldl ?_ (fun u x _ => ?_)
    | with_reducible apply preemptWrite_held
theorem State.stopRun_held {b : State} {s : State} {r : Run} (h : Held b s) : Held b (State.stopRun s r) := by
  unfold State.stopRun
  repeat' first
    | with_reducible assumption
    | (intro x; refine Held.via (s := b) x ?_ (fun _ => ?_); rotate_left; clear_value x; rotate_right)
    | (intro x; clear_value x)
    | (lift_lets; intro x; refine Held.via (s := b) x ?_ (fun _ => ?_); rotate_left; clear_value x; rotate_right)
    | with_reducible apply Held.ite
    | with_reducible refine Held.foldl ?_ (fun u x _ => ?_)
    | with_reducible apply State.askYield_held
    | with_reducible apply State.setRun_held
    | with_reducible apply State.setPlan_held
theorem State.runCheck_held {b : State} {s : State} {r0 : Run} (h : Held b s) : Held b (State.runCheck s r0) := by
  unfold State.runCheck
  repeat' first
    | with_reducible assumption
    | with_reducible apply Held.ite
    | with_reducible apply State.runEnd_held
    | simp only [↓Held.mk_iff]
    | split
theorem State.deadlineEnd_held {b : State} {s : State} {r : Run} {last : Bool} (h : Held b s) : Held b (State.deadlineEnd s r last) := by
  unfold State.deadlineEnd
  repeat' first
    | with_reducible assumption
    | (intro x; refine Held.via (s := b) x ?_ (fun _ => ?_); rotate_left; clear_value x; rotate_right)
    | (lift_lets; intro x; clear_value x)
    | with_reducible apply Held.ite
    | with_reducible apply State.count_held
    | with_reducible apply State.stopRun_held
    | with_reducible apply State.goldEnded_held
    | with_reducible apply State.setRun_held
    | with_reducible apply State.goldJudge_held
    | with_reducible apply State.runEnd_held
    | simp only [↓Held.mk_iff]
    | split
theorem State.copyCheck_held {o : State} {s : State} {r0 : Run} {b : Bool} (h : Held o s) : Held o (State.copyCheck s r0 b) := by
  unfold State.copyCheck
  repeat' first
    | with_reducible assumption
    | with_reducible apply Held.ite
    | with_reducible refine Held.foldl ?_ (fun u x _ => ?_)
    | with_reducible apply State.deadlineEnd_held
    | with_reducible apply State.setRun_held
    | with_reducible apply State.goldJudge_held
    | with_reducible apply State.goldEnded_held
    | with_reducible apply State.restoreDom_held
    | with_reducible apply State.goldTimes_held
    | with_reducible apply State.assignSet_held
    | with_reducible apply State.runCheck_held
    | simp only [↓Held.mk_iff]
    | split
theorem State.deferOne_held {b : State} {s : State} {r : Run} {g : Run} (h : Held b s) : Held b (State.deferOne s r g) := by
  unfold State.deferOne
  repeat' first
    | with_reducible assumption
    | (intro x; refine Held.via (s := b) x ?_ (fun _ => ?_); rotate_left; clear_value x; rotate_right)
    | (intro x; clear_value x)
    | (lift_lets; intro x; clear_value x)
    | with_reducible apply Held.ite
    | with_reducible apply State.count_held
    | with_reducible apply State.setRun_held
    | with_reducible apply State.setPlan_held
theorem State.skipRun_held {b : State} {s : State} {r : Run} (h : Held b s) : Held b (State.skipRun s r) := by
  unfold State.skipRun
  repeat' first
    | with_reducible assumption
    | (intro x; clear_value x)
    | (lift_lets; intro x; refine Held.via (s := b) x ?_ (fun _ => ?_); rotate_left; clear_value x; rotate_right)
    | with_reducible apply State.count_held
    | with_reducible apply State.stopRun_held
    | with_reducible apply State.skipFrame_held
    | with_reducible apply State.setPlan_held
theorem State.startCopy_held {o : State} {s : State} {r : Run} {b : Bool} (h : Held o s) : Held o (State.startCopy s r b) := by
  unfold State.startCopy
  repeat' first
    | with_reducible assumption
    | (intro x; refine Held.via (s := o) x ?_ (fun _ => ?_); rotate_left; clear_value x; rotate_right)
    | (intro x; clear_value x)
    | (lift_lets; intro x; clear_value x)
    | with_reducible apply Held.ite
    | with_reducible refine Held.foldl ?_ (fun u x _ => ?_)
    | with_reducible apply State.setRun_held
    | with_reducible apply State.askYield_held
    | with_reducible apply State.sendDeadline_held
    | with_reducible apply State.writeB_held
    | with_reducible apply State.goldTimes_held
    | with_reducible apply State.copyCheck_held
    | with_reducible apply State.assignSet_held
theorem runStart_held {b : State} {n : Nat} {proof : Bool} {copyB : Bool} {s : State} (h : Held b s) : Held b (runStart n proof copyB s) := by
  unfold runStart
  repeat' first
    | with_reducible assumption
    | with_reducible apply Held.ite
    | with_reducible refine Held.foldl ?_ (fun u x _ => ?_)
    | with_reducible apply State.startCopy_held
    | with_reducible apply State.deferOne_held
    | with_reducible apply State.skipRun_held
    | simp only [↓Held.mk_iff]
    | split
theorem execRunStart_held (n : Nat) (proof : Bool) (copyB : Bool) (s : State) (z : State) (h : execRunStart n proof copyB s = .next z) : Held s z := Held.unit (runStart_held (Held.refl _)) h
theorem State.coreDone_held {b : State} {s : State} {u : UnitId} (h : Held b s) : Held b (State.coreDone s u) := by
  unfold State.coreDone
  repeat' first
    | with_reducible assumption
    | (intro x; refine Held.via (s := b) x ?_ (fun _ => ?_); rotate_left; clear_value x; rotate_right)
    | (lift_lets; intro x; clear_value x)
    | with_reducible apply State.setPlan_held
    | with_reducible apply preemptClr_held
theorem coreYield_held {b : State} {u : UnitId} {s : State} (h : Held b s) : Held b (coreYield u s) := by
  unfold coreYield
  repeat' first
    | with_reducible assumption
    | (lift_lets; intro x; clear_value x)
    | with_reducible apply Held.ite
    | with_reducible apply State.assignCore_held
    | with_reducible apply State.coreDone_held
    | with_reducible apply State.goldTimes_held
    | with_reducible apply State.readB_held
    | with_reducible apply State.writeB_held
    | with_reducible apply State.setPlan_held
    | simp only [↓Held.mk_iff]
    | split
theorem execCoreYield_held (u : UnitId) (s : State) (z : State) (h : execCoreYield u s = .next z) : Held s z := Held.unit (coreYield_held (Held.refl _)) h
theorem workItemComplete_held {b : State} {u : UnitId} {s : State} (h : Held b s) : Held b (workItemComplete u s) := by
  unfold workItemComplete
  repeat' first
    | with_reducible assumption
    | (lift_lets; intro x; refine Held.via (s := b) x ?_ (fun _ => ?_); rotate_left; clear_value x; rotate_right)
    | with_reducible apply Held.ite
    | with_reducible apply State.assignCore_held
    | with_reducible apply State.icuPulse_held
    | with_reducible apply State.coreDone_held
    | with_reducible apply State.copyCheck_held
    | split
theorem execWorkItemComplete_held (u : UnitId) (s : State) (z : State) (h : execWorkItemComplete u s = .next z) : Held s z := Held.unit (workItemComplete_held (Held.refl _)) h
theorem preemptTimeout_held {b : State} {u : UnitId} {s : State} (h : Held b s) : Held b (preemptTimeout u s) := by
  unfold preemptTimeout
  repeat' first
    | with_reducible assumption
    | (lift_lets; intro x; clear_value x)
    | with_reducible apply Held.ite
    | with_reducible apply State.setPlan_held
    | with_reducible apply unitCommand_held
    | with_reducible apply State.count_held
    | simp only [↓Held.mk_iff]
    | split
theorem execPreemptTimeout_held (u : UnitId) (s : State) (z : State) (h : execPreemptTimeout u s = .next z) : Held s z := Held.unit (preemptTimeout_held (Held.refl _)) h
theorem deadlineOf_held {b : State} {n : Nat} {proof : Bool} {s : State} (h : Held b s) : Held b (deadlineOf n proof s) := by
  unfold deadlineOf
  repeat' first
    | with_reducible assumption
    | with_reducible apply State.deadlineEnd_held
    | split
theorem execRunDeadline_held (n : Nat) (s : State) (z : State) (h : execRunDeadline n s = .next z) : Held s z := Held.unit (deadlineOf_held (Held.refl _)) h
theorem goldenDeadline_held {b : State} {n : Nat} {s : State} (h : Held b s) : Held b (goldenDeadline n s) := by
  unfold goldenDeadline
  repeat' first
    | with_reducible assumption
    | with_reducible apply State.goldLate_held
    | with_reducible apply deadlineOf_held
theorem execGoldenRunDeadline_held (n : Nat) (s : State) (z : State) (h : execGoldenRunDeadline n s = .next z) : Held s z := Held.unit (goldenDeadline_held (Held.refl _)) h
theorem State.outcomeAt_held {b : State} {s : State} {n : Nat} {proof : Bool} {seq : W32} {o : Nat} (h : Held b s) : Held b (State.outcomeAt s n proof seq o) := by
  unfold State.outcomeAt
  repeat' first
    | with_reducible assumption
    | with_reducible apply State.runCheck_held
    | with_reducible apply State.setRun_held
    | simp only [↓Held.mk_iff]
    | split
theorem runOutcome_held {b : State} {m : PMsg} {n : Nat} {proof : Bool} {seq : W32} {o : Nat} {s : State} (h : Held b s) : Held b (runOutcome m n proof seq o s) := by
  unfold runOutcome
  repeat' first
    | with_reducible assumption
    | with_reducible apply Held.ite
    | with_reducible apply State.recv_held
    | with_reducible apply State.outcomeAt_held
    | simp only [↓Held.mk_iff]
    | split
theorem execRunOutcome_held (m : PMsg) (n : Nat) (proof : Bool) (seq : W32) (o : BitVec 2) (s : State) (z : State) (h : execRunOutcome m n proof seq o s = .next z) : Held s z := Held.next (runOutcome_held (Held.refl _)) h
theorem ringWrite_held {b : State} {svc : Nat} {which : Nat} {v : W32} {s : State} (h : Held b s) : Held b (ringWrite svc which v s) := by
  unfold ringWrite
  repeat' first
    | with_reducible assumption
    | (intro x; clear_value x)
    | (lift_lets; intro x; clear_value x)
    | with_reducible apply Held.ite
    | with_reducible apply State.setReg_held
theorem execResultRingConfigWrite_held (_w : Writer) (svc : BitVec 6) (which : Nat) (v : W32) (s : State) (z : State) (h : execResultRingConfigWrite _w svc which v s = .next z) : Held s z := Held.unit (ringWrite_held (Held.refl _)) h

end Sys2Proof.Machine
end

