-- ==== Sys2Proof/Laws/HeldBelvedere.lean ====
section
/-! SUPPORT. What each function of Belvedere.lean leaves alone: the queue, FRC and the canonical form. -/

namespace Sys2Proof.Machine

theorem State.pairFail_held {b : State} {s : State} {k : Nat} {slot : Nat} {reason : Nat} {elem : Nat} (h : Held b s) : Held b (State.pairFail s k slot reason elem) := by
  unfold State.pairFail
  repeat' first
    | with_reducible assumption
    | with_reducible apply Held.ite
    | with_reducible apply State.setBvRun_held
    | with_reducible apply State.setBv_held
    | with_reducible apply State.count_held
    | with_reducible apply State.setReg_held
    | simp only [↓Held.mk_iff]
    | split
theorem State.pairOut_held {b : State} {s : State} {k : Nat} {slot : Nat} {reason : Nat} (h : Held b s) : Held b (State.pairOut s k slot reason) := by
  unfold State.pairOut
  repeat' first
    | with_reducible assumption
    | with_reducible apply State.pairFail_held
    | with_reducible apply State.setSlotInfo_held
theorem State.bvDrop_held {b : State} {s : State} {k : Nat} (h : Held b s) : Held b (State.bvDrop s k) := by
  unfold State.bvDrop
  repeat' first
    | with_reducible assumption
    | (intro x; clear_value x)
    | (lift_lets; intro x; clear_value x)
    | with_reducible apply State.setBv_held
theorem State.goldOutcome_held {b : State} {s : State} {k : Nat} {r : BvRun} {o : Nat} (h : Held b s) : Held b (State.goldOutcome s k r o) := by
  unfold State.goldOutcome
  repeat' first
    | with_reducible assumption
    | with_reducible apply Held.ite
    | with_reducible apply State.goldJudge_held
    | with_reducible apply State.goldQueue_held
    | with_reducible apply State.outcomeAt_held
    | simp only [↓Held.mk_iff]
    | split
theorem State.bvClose_held {b : State} {s : State} {k : Nat} {r : BvRun} {o : Nat} (h : Held b s) : Held b (State.bvClose s k r o) := by
  unfold State.bvClose
  repeat' first
    | with_reducible assumption
    | (lift_lets; intro x; refine Held.via (s := b) x ?_ (fun _ => ?_); rotate_left; clear_value x; rotate_right)
    | with_reducible apply Held.ite
    | with_reducible apply State.bvDrop_held
    | with_reducible apply State.goldOutcome_held
    | with_reducible apply State.sendMsg_held
theorem State.bvResolve_held {b : State} {s : State} {k : Nat} (h : Held b s) : Held b (State.bvResolve s k) := by
  unfold State.bvResolve
  repeat' first
    | with_reducible assumption
    | (lift_lets; intro x; clear_value x)
    | with_reducible apply Held.ite
    | with_reducible apply State.bvClose_held
    | split
theorem State.arbFull_held {b : State} {s : State} {k : Nat} {slots : List Nat} (h : Held b s) : Held b (State.arbFull s k slots) := by
  unfold State.arbFull
  repeat' first
    | with_reducible assumption
    | with_reducible refine Held.foldl ?_ (fun u x _ => ?_)
    | with_reducible apply State.pairOut_held
    | with_reducible apply State.setErr_held
theorem State.batch_held {b : State} {s : State} {k : Nat} {rg : RangeRec} (h : Held b s) : Held b (State.batch s k rg) := by
  unfold State.batch
  repeat' first
    | with_reducible assumption
    | (lift_lets; intro x; clear_value x)
    | with_reducible refine Held.foldl ?_ (fun u x _ => ?_)
    | with_reducible refine State.arbEnqueue_some (by with_reducible assumption) ?_
    | with_reducible apply State.arbFull_held
    | split
theorem State.slotResolved_held {b : State} {s : State} {k : Nat} {slot : Nat} (h : Held b s) : Held b (State.slotResolved s k slot) := by
  unfold State.slotResolved
  repeat' first
    | with_reducible assumption
    | with_reducible apply Held.ite
    | with_reducible apply State.setBvRun_held
    | with_reducible apply State.setSlotState_held
    | with_reducible apply State.batch_held
    | simp only [↓Held.mk_iff]
    | split
theorem State.pairDecide_held {b : State} {s : State} {k : Nat} {slot : Nat} {tol : TolRec} {rg : RangeRec} {m : SigRx} {bad : Bool} (h : Held b s) : Held b (State.pairDecide s k slot tol rg m bad) := by
  unfold State.pairDecide
  repeat' first
    | with_reducible assumption
    | (lift_lets; intro x; clear_value x)
    | with_reducible apply Held.ite
    | with_reducible apply State.pairOut_held
    | with_reducible apply State.slotRead_held
    | with_reducible apply State.count_held
    | with_reducible refine State.arbEnqueue_some (by with_reducible assumption) ?_
    | with_reducible apply State.arbFull_held
    | simp only [↓Held.mk_iff]
    | split
theorem State.slotUndone_held {b : State} {s : State} {slot : Nat} (h : Held b s) : Held b (State.slotUndone s slot) := by
  unfold State.slotUndone
  repeat' first
    | with_reducible assumption
    | with_reducible apply Held.ite
    | with_reducible refine Held.foldl ?_ (fun u x _ => ?_)
    | with_reducible apply State.setBvRun_held
    | split
theorem State.stateLost_held {b : State} {s : State} {slot : Nat} (h : Held b s) : Held b (State.stateLost s slot) := by
  unfold State.stateLost
  repeat' first
    | with_reducible assumption
    | (intro x; clear_value x)
    | (lift_lets; intro x; refine Held.via (s := b) x ?_ (fun _ => ?_); rotate_left; clear_value x; rotate_right)
    | with_reducible apply Held.ite
    | with_reducible refine Held.foldl ?_ (fun u x _ => ?_)
    | with_reducible apply State.slotUndone_held
    | with_reducible apply State.setSlotInfo_held
    | with_reducible apply State.setSlotState_held
    | with_reducible apply State.setBv_held
theorem State.wordLost_held {b : State} {s : State} {slot : Nat} (h : Held b s) : Held b (State.wordLost s slot) := by
  unfold State.wordLost
  repeat' first
    | with_reducible assumption
    | with_reducible apply Held.ite
    | with_reducible apply State.setSlotInfo_held
theorem State.slotAct_held {b : State} {s : State} {k : Nat} {r : BvRun} {rg : RangeRec} {tol : TolRec} {m : SigRx} (h : Held b s) : Held b (State.slotAct s k r rg tol m) := by
  unfold State.slotAct
  repeat' first
    | with_reducible assumption
    | (lift_lets; intro x; clear_value x)
    | with_reducible apply Held.ite
    | with_reducible apply State.stateRead_held
    | with_reducible apply State.stateLost_held
    | with_reducible apply State.pairFail_held
    | with_reducible apply State.setSlotInfo_held
    | with_reducible apply State.setSlotState_held
    | with_reducible apply State.setSlotWord_held
    | with_reducible apply State.bvResolve_held
    | with_reducible apply State.slotResolved_held
    | with_reducible apply State.pairOut_held
    | with_reducible apply State.pairDecide_held
theorem State.sigStep_held {b : State} {s : State} {bs : List Byte} (h : Held b s) : Held b (State.sigStep s bs) := by
  unfold State.sigStep
  repeat' first
    | with_reducible assumption
    | (intro x; refine Held.via (s := b) x ?_ (fun _ => ?_); rotate_left; clear_value x; rotate_right)
    | (intro x; clear_value x)
    | (lift_lets; intro x; clear_value x)
    | with_reducible apply Held.ite
    | with_reducible apply State.setErr_held
    | with_reducible apply State.count_held
    | with_reducible apply State.writeB_held
    | with_reducible apply State.setErrIf_held
    | with_reducible apply State.slotAct_held
    | simp only [↓Held.mk_iff]
    | split
theorem State.laneRun_held {b : State} {l n : Nat} : ∀ {s : State}, Held b s → Held b (s.laneRun l n) := by
  induction n with
  | zero => intro s h; exact h
  | succ f ih =>
    intro s h
    unfold State.laneRun
    split
    · exact h
    · exact Held.ite h (ih (State.sigStep_held (State.setBv_held h)))
theorem State.lanesRun_held {b : State} {s : State} (h : Held b s) : Held b (State.lanesRun s) := by
  unfold State.lanesRun
  repeat' first
    | with_reducible assumption
    | with_reducible refine Held.foldl ?_ (fun u x _ => ?_)
    | with_reducible apply State.laneRun_held
theorem State.laneIn_held {b : State} {s : State} {bs : List Byte} (h : Held b s) : Held b (State.laneIn s bs) := by
  unfold State.laneIn
  repeat' first
    | with_reducible assumption
    | (intro x; clear_value x)
    | (lift_lets; intro x; clear_value x)
    | with_reducible apply State.laneRun_held
    | with_reducible apply State.setBv_held
theorem runOpen_held {b : State} {m : PMsg} {n : Nat} {proof : Bool} {seq : W32} {two : Bool} {dieA : Nat} {dieB : Nat} {deadline : Tick} {s : State} (h : Held b s) : Held b (runOpen m n proof seq two dieA dieB deadline s) := by
  unfold runOpen
  repeat' first
    | with_reducible assumption
    | (lift_lets; intro x; clear_value x)
    | with_reducible apply Held.ite
    | with_reducible apply State.recv_held
    | with_reducible apply State.bvDrop_held
    | with_reducible apply State.setBv_held
    | simp only [↓Held.mk_iff]
    | split
theorem execRunOpen_held (m : PMsg) (n : Nat) (proof : Bool) (seq : W32) (two : Bool) (dieA : Nat) (dieB : Nat) (deadline : Tick) (s : State) (z : State) (h : execRunOpen m n proof seq two dieA dieB deadline s = .next z) : Held s z := Held.unit (runOpen_held (Held.refl _)) h
theorem slotClear_held {b : State} {n : Nat} {proof : Bool} {s : State} (h : Held b s) : Held b (slotClear n proof s) := by
  unfold slotClear
  repeat' first
    | with_reducible assumption
    | with_reducible apply State.bvResolve_held
    | with_reducible apply State.lanesRun_held
    | with_reducible apply State.setBvRun_held
    | split
theorem execSlotClearComplete_held (n : Nat) (proof : Bool) (s : State) (z : State) (h : execSlotClearComplete n proof s = .next z) : Held s z := Held.unit (slotClear_held (Held.refl _)) h
theorem signature_held {b : State} {link : Nat} {dom : Domain} {m : PMsg} {s : State} (h : Held b s) : Held b (signature link dom m s) := by
  unfold signature
  repeat' first
    | with_reducible assumption
    | with_reducible apply Held.ite
    | with_reducible apply State.recv_held
    | with_reducible apply State.laneIn_held
    | simp only [↓Held.mk_iff]
    | split
theorem execSignature_held (link : Nat) (dom : Domain) (m : PMsg) (s : State) (z : State) (h : execSignature link dom m s = .next z) : Held s z := Held.unit (signature_held (Held.refl _)) h
theorem arbStart_held {b : State} {s : State} (h : Held b s) : Held b (arbStart s) := by
  unfold arbStart
  repeat' first
    | with_reducible assumption
    | (lift_lets; intro x; clear_value x)
    | with_reducible apply Held.ite
    | with_reducible apply State.count_held
    | with_reducible apply State.setBv_held
    | split
theorem execArbitrationStart_held (s : State) (z : State) (h : execArbitrationStart s = .next z) : Held s z := Held.next (arbStart_held (Held.refl _)) h
theorem arbEnd_held {b : State} {fetchOk : Bool} {s : State} (h : Held b s) : Held b (arbEnd fetchOk s) := by
  unfold arbEnd
  repeat' first
    | with_reducible assumption
    | (lift_lets; intro x; clear_value x)
    | with_reducible apply Held.ite
    | with_reducible apply State.setBv_held
    | with_reducible apply State.judgeGolden_held
    | with_reducible apply State.count_held
    | with_reducible apply State.goldRetry_held
    | with_reducible apply State.goldCmp_held
    | with_reducible apply State.judgeSlots_held
    | with_reducible apply State.pairFail_held
    | with_reducible apply State.bvResolve_held
    | simp only [↓Held.mk_iff]
    | split
theorem execArbitrationEnd_held (fetchOk : Bool) (s : State) (z : State) (h : execArbitrationEnd fetchOk s = .next z) : Held s z := Held.next (arbEnd_held (Held.refl _)) h
theorem bvDeadline_held {b : State} {n : Nat} {proof : Bool} {s : State} (h : Held b s) : Held b (bvDeadline n proof s) := by
  unfold bvDeadline
  repeat' first
    | with_reducible assumption
    | (intro x; refine Held.via (s := b) x ?_ (fun _ => ?_); rotate_left; clear_value x; rotate_right)
    | (intro x; clear_value x)
    | (lift_lets; intro x; clear_value x)
    | with_reducible apply Held.ite
    | with_reducible refine Held.foldl ?_ (fun u x _ => ?_)
    | with_reducible apply State.lanesRun_held
    | with_reducible apply State.bvDrop_held
    | with_reducible apply State.pairFail_held
    | with_reducible apply State.countN_held
    | with_reducible apply State.goldRetry_held
    | with_reducible apply State.bvClose_held
    | simp only [↓Held.mk_iff]
    | split
theorem execBelvedereDeadline_held (n : Nat) (proof : Bool) (s : State) (z : State) (h : execBelvedereDeadline n proof s = .next z) : Held s z := Held.unit (bvDeadline_held (Held.refl _)) h
theorem scrubStart_held {b : State} {s : State} (h : Held b s) : Held b (scrubStart s) := by
  unfold scrubStart
  repeat' first
    | with_reducible assumption
    | (lift_lets; intro x; clear_value x)
    | with_reducible apply Held.ite
    | with_reducible apply State.setBv_held
theorem execSlotScrubPassStart_held (s : State) (z : State) (h : execSlotScrubPassStart s = .next z) : Held s z := Held.next (scrubStart_held (Held.refl _)) h
theorem scrubEnd_held {b : State} {s : State} (h : Held b s) : Held b (scrubEnd s) := by
  unfold scrubEnd
  repeat' first
    | with_reducible assumption
    | (intro x; clear_value x)
    | (lift_lets; intro x; refine Held.via (s := b) x ?_ (fun _ => ?_); rotate_left; clear_value x; rotate_right)
    | with_reducible apply Held.ite
    | with_reducible refine Held.foldl ?_ (fun u x _ => ?_)
    | with_reducible apply State.slotRead_held
    | with_reducible apply State.wordLost_held
    | with_reducible apply State.stateRead_held
    | with_reducible apply State.stateLost_held
    | with_reducible apply State.setBv_held
    | split
theorem execSlotScrubPassEnd_held (s : State) (z : State) (h : execSlotScrubPassEnd s = .next z) : Held s z := Held.next (scrubEnd_held (Held.refl _)) h
theorem bvFailClr_held {b : State} {w : Writer} {v : W32} {s : State} (h : Held b s) : Held b (bvFailClr w v s) := by
  unfold bvFailClr
  repeat' first
    | with_reducible assumption
    | with_reducible apply Held.ite
    | with_reducible apply State.setReg_held
theorem execBvFailClr_held (w : Writer) (v : W32) (s : State) (z : State) (h : execBvFailClr w v s = .next z) : Held s z := Held.next (bvFailClr_held (Held.refl _)) h
theorem deadline_held {b : State} {m : PMsg} {n : Nat} {d : Tick} {s : State} (h : Held b s) : Held b (deadline m n d s) := by
  unfold deadline
  repeat' first
    | with_reducible assumption
    | with_reducible apply Held.ite
    | with_reducible apply State.recv_held
    | with_reducible apply State.setBvRun_held
    | simp only [↓Held.mk_iff]
    | split
theorem execDeadline_held (m : PMsg) (n : Nat) (d : Tick) (s : State) (z : State) (h : execDeadline m n d s = .next z) : Held s z := Held.unit (deadline_held (Held.refl _)) h

end Sys2Proof.Machine
end

