-- ==== Sys2Proof/Laws/HeldPlan.lean ====
section
/-! SUPPORT. What each function of Plan.lean leaves alone: the queue, FRC and the canonical form. -/

namespace Sys2Proof.Machine

theorem State.pkgResult_held {b : State} {s : State} {i : Nat} {unload : Bool} {st : Nat} {reason : Nat} (h : Held b s) : Held b (State.pkgResult s i unload st reason) := State.setReg_held h
theorem State.setPkgStat_held {b : State} {s : State} {i : Nat} {v : Nat} (h : Held b s) : Held b (State.setPkgStat s i v) := State.setRegF_held h
theorem pkgLoad_held {b : State} {i : Nat} {s : State} (h : Held b s) : Held b (pkgLoad i s) := by
  unfold pkgLoad
  repeat' first
    | with_reducible assumption
    | (intro x; refine Held.via (s := b) x ?_ (fun _ => ?_); rotate_left; clear_value x; rotate_right)
    | (intro x; clear_value x)
    | (lift_lets; intro x; clear_value x)
    | with_reducible apply Held.ite
    | with_reducible apply State.pkgResult_held
    | with_reducible apply State.setPkgStat_held
    | unfold x
    | simp only [↓Held.mk_iff]
theorem execPkgLoad_held (_w : Writer) (i : BitVec 3) (s : State) (z : State) (h : execPkgLoad _w i s = .next z) : Held s z := Held.next (pkgLoad_held (Held.refl _)) h
theorem pkgUnload_held {b : State} {i : Nat} {s : State} (h : Held b s) : Held b (pkgUnload i s) := by
  unfold pkgUnload
  repeat' first
    | with_reducible assumption
    | (intro x; clear_value x)
    | (lift_lets; intro x; clear_value x)
    | with_reducible apply Held.ite
    | with_reducible apply State.pkgResult_held
    | with_reducible apply State.setPkgStat_held
    | simp only [↓Held.mk_iff]
theorem execPkgUnload_held (_w : Writer) (i : BitVec 3) (s : State) (z : State) (h : execPkgUnload _w i s = .next z) : Held s z := Held.next (pkgUnload_held (Held.refl _)) h
theorem State.pkgEnd_held {b : State} {s : State} {i : Nat} {st : Nat} {reason : Nat} (h : Held b s) : Held b (State.pkgEnd s i st reason) := by
  unfold State.pkgEnd
  repeat' first
    | with_reducible assumption
    | (lift_lets; intro x; refine Held.via (s := b) x ?_ (fun _ => ?_); rotate_left; clear_value x; rotate_right)
    | with_reducible apply Held.ite
    | with_reducible apply State.setPkgStat_held
    | with_reducible apply State.pkgResult_held
theorem pkgLoadComplete_held {b : State} {i : Nat} {d : PkgDesc} {s : State} (h : Held b s) : Held b (pkgLoadComplete i d s) := by
  unfold pkgLoadComplete
  repeat' first
    | with_reducible assumption
    | (lift_lets; intro x; clear_value x)
    | with_reducible apply Held.ite
    | with_reducible refine Held.foldl ?_ (fun u x _ => ?_)
    | with_reducible apply State.readB_held
    | with_reducible apply State.pkgEnd_held
    | with_reducible apply State.writeB_held
    | with_reducible apply State.gkExtend_held
    | simp only [↓Held.mk_iff]
    | split
theorem execPkgLoadComplete_held (i : BitVec 3) (d : PkgDesc) (s : State) (z : State) (h : execPkgLoadComplete i d s = .next z) : Held s z := Held.next (pkgLoadComplete_held (Held.refl _)) h
theorem State.switchStat_held {b : State} {s : State} {st : Nat} {reason : Nat} {name : Nat} (h : Held b s) : Held b (State.switchStat s st reason name) := State.setReg_held h
theorem State.bankJudged_held {o : State} {t : State} {b : Nat} {r : Nat × Nat} (h : Held o t) : Held o (State.bankJudged t b r) := by
  unfold State.bankJudged
  repeat' first
    | with_reducible assumption
    | (intro x; refine Held.via (s := o) x ?_ (fun _ => ?_); rotate_left; clear_value x; rotate_right)
    | (intro x; clear_value x)
    | (lift_lets; intro x; clear_value x)
    | with_reducible apply Held.ite
    | with_reducible apply State.switchStat_held
    | with_reducible apply State.sendXfer_held
    | simp only [↓Held.mk_iff]
theorem State.supersede_held {b : State} {s : State} (h : Held b s) : Held b (State.supersede s) := by
  unfold State.supersede
  repeat' first
    | with_reducible assumption
    | (intro x; clear_value x)
    | (lift_lets; intro x; clear_value x)
    | with_reducible apply Held.ite
    | with_reducible apply State.switchStat_held
    | simp only [↓Held.mk_iff]
theorem bankSwitch_held {o : State} {b : Nat} {s : State} (h : Held o s) : Held o (bankSwitch b s) := by
  unfold bankSwitch
  repeat' first
    | with_reducible assumption
    | (lift_lets; intro x; refine Held.via (s := o) x ?_ (fun _ => ?_); rotate_left; clear_value x; rotate_right)
    | with_reducible apply Held.ite
    | with_reducible apply State.supersede_held
    | with_reducible apply State.switchStat_held
    | with_reducible apply State.bankJudged_held
theorem execBankSwitchRequest_held (_w : Writer) (v : W32) (s : State) (z : State) (h : execBankSwitchRequest _w v s = .next z) : Held s z := Held.next (bankSwitch_held (Held.refl _)) h
theorem State.switchRefused_held {b : State} {s : State} (h : Held b s) : Held b (State.switchRefused s) := by
  unfold State.switchRefused
  repeat' first
    | with_reducible assumption
    | (lift_lets; intro x; clear_value x)
    | with_reducible apply State.switchStat_held
    | simp only [↓Held.mk_iff]
theorem declareReply_held {b : State} {m : PMsg} {s : State} (h : Held b s) : Held b (declareReply m s) := by
  unfold declareReply
  repeat' first
    | with_reducible assumption
    | with_reducible apply Held.ite
    | with_reducible apply State.recv_held
    | with_reducible apply State.switchRefused_held
    | simp only [↓Held.mk_iff]
    | split
theorem execDeclareReply_held (m : PMsg) (s : State) (z : State) (h : execDeclareReply m s = .next z) : Held s z := Held.next (declareReply_held (Held.refl _)) h
theorem declareTimeout_held {b : State} {s : State} (h : Held b s) : Held b (declareTimeout s) := by
  unfold declareTimeout
  repeat' first
    | with_reducible assumption
    | with_reducible apply Held.ite
    | with_reducible apply State.switchRefused_held
    | split
theorem execDeclareReplyTimeout_held (s : State) (z : State) (h : execDeclareReplyTimeout s = .next z) : Held s z := Held.next (declareTimeout_held (Held.refl _)) h

end Sys2Proof.Machine
end

