-- ==== Sys2Proof/Laws/HeldEth.lean ====
section
/-! SUPPORT. What each function of Eth.lean leaves alone: the queue, FRC and the canonical form. -/

namespace Sys2Proof.Machine

theorem State.setRx_held {b : State} {s : State} {x : RxSt} (h : Held b s) : Held b (State.setRx s x) := h.trans ⟨rfl, rfl, id⟩
theorem State.setMac_held {b : State} {s : State} {k : Nat} {m : MacSt} (h : Held b s) : Held b (State.setMac s k m) := by
  unfold State.setMac
  repeat' first
    | with_reducible assumption
    | (lift_lets; intro x; clear_value x)
    | with_reducible apply State.setRx_held
theorem State.ethSend_held {b : State} {s : State} {k : Nat} {bs : List Byte} {oneStep : Bool} {at_ : Tick} (h : Held b s) : Held b (State.ethSend s k bs oneStep at_) := by
  unfold State.ethSend
  repeat' first
    | with_reducible assumption
    | (intro x; refine Held.via (s := b) x ?_ (fun _ => ?_); rotate_left; clear_value x; rotate_right)
    | (intro x; clear_value x)
    | (lift_lets; intro x; clear_value x)
    | with_reducible apply Held.ite
    | with_reducible apply State.setMac_held
    | with_reducible apply State.emit_held
    | with_reducible apply State.count_held
    | split
theorem ethTransmit_held {b : State} {k : Nat} {q : Nat} {bs : List Byte} {oneStep : Bool} {s : State} (h : Held b s) : Held b (ethTransmit k q bs oneStep s) := by
  unfold ethTransmit
  repeat' first
    | with_reducible assumption
    | (lift_lets; intro x; clear_value x)
    | with_reducible apply Held.ite
    | with_reducible apply State.setRx_held
    | with_reducible apply State.ethSend_held
theorem execEthFrameTransmit_held (k : Nat) (q : Nat) (bs : List Byte) (oneStep : Bool) (s : State) (z : State) (h : execEthFrameTransmit k q bs oneStep s = .next z) : Held s z := Held.unit (ethTransmit_held (Held.refl _)) h
theorem State.ethRelease_held {b : State} {s : State} {k : Nat} {q : Nat} (h : Held b s) : Held b (State.ethRelease s k q) := by
  unfold State.ethRelease
  repeat' first
    | with_reducible assumption
    | (lift_lets; intro x; clear_value x)
    | with_reducible refine Held.foldl ?_ (fun u x _ => ?_)
    | with_reducible apply State.ethSend_held
    | with_reducible apply State.setRx_held
theorem ethQcfgWrite_held {b : State} {k : Nat} {v : W32} {s : State} (h : Held b s) : Held b (ethQcfgWrite k v s) := by
  unfold ethQcfgWrite
  repeat' first
    | with_reducible assumption
    | with_reducible apply Held.ite
    | with_reducible refine Held.foldl ?_ (fun u x _ => ?_)
    | with_reducible apply State.ethRelease_held
    | with_reducible apply State.setReg_held
theorem State.gatedSend_held {b : State} {s : State} {port : Nat} {q : Nat} (h : Held b s) : Held b (State.gatedSend s port q).2 := by
  unfold State.gatedSend
  repeat' first
    | with_reducible assumption
    | (intro x; clear_value x)
    | (lift_lets; intro x; clear_value x)
    | with_reducible apply Held.ite
    | with_reducible apply Held.iteSnd
    | with_reducible apply State.setRx_held
    | with_reducible apply State.count_held
    | with_reducible apply State.ethSend_held
    | simp only [↓Held.mk_iff]
    | split
theorem State.setT1s_held {b : State} {s : State} {x : T1sSt} (h : Held b s) : Held b (State.setT1s s x) := h.trans ⟨rfl, rfl, id⟩
theorem State.t1sSend_held {b : State} {s : State} {id : BitVec 16} {mac : Nat} {type : Nat} {payload : List Byte} {at_ : Tick} (h : Held b s) : Held b (State.t1sSend s id mac type payload at_) := by
  unfold State.t1sSend
  repeat' first
    | with_reducible assumption
    | (intro x; clear_value x)
    | (lift_lets; intro x; refine Held.via (s := b) x ?_ (fun _ => ?_); rotate_left; clear_value x; rotate_right)
    | with_reducible apply State.sendMsg_held
    | with_reducible apply State.emit_held
    | with_reducible apply State.setT1s_held
    | simp only [↓Held.mk_iff]
    | split
theorem t1sReceive_held {b : State} {mac : Nat} {etype : Nat} {fcsOk : Bool} {m : PMsg} {s : State} (h : Held b s) : Held b (t1sReceive mac etype fcsOk m s) := by
  unfold t1sReceive
  repeat' first
    | with_reducible assumption
    | (lift_lets; intro x; clear_value x)
    | with_reducible apply Held.ite
    | with_reducible apply State.count_held
    | with_reducible apply State.setT1s_held
    | with_reducible apply State.recv_held
    | split
theorem execT1sFrameReceive_held (mac : BitVec 48) (etype : BitVec 16) (fcsOk : Bool) (m : PMsg) (s : State) (z : State) (h : execT1sFrameReceive mac etype fcsOk m s = .next z) : Held s z := Held.next (t1sReceive_held (Held.refl _)) h
theorem heartbeat_held {b : State} {m : PMsg} {n : Nat} {s : State} (h : Held b s) : Held b (heartbeat m n s) := by
  unfold heartbeat
  repeat' first
    | with_reducible assumption
    | (lift_lets; intro x; clear_value x)
    | with_reducible apply Held.ite
    | with_reducible apply State.recv_held
    | with_reducible apply State.setT1s_held
    | with_reducible apply State.setRegF_held
    | simp only [↓Held.mk_iff]
    | split
theorem execHeartbeat_held (m : PMsg) (n : Nat) (s : State) (z : State) (h : execHeartbeat m n s = .next z) : Held s z := Held.unit (heartbeat_held (Held.refl _)) h
theorem streamTimeoutAt_held {b : State} {rx : Nat} {src : BitVec 16} {s : State} (h : Held b s) : Held b (streamTimeoutAt rx src s) := by
  unfold streamTimeoutAt
  repeat' first
    | with_reducible assumption
    | (lift_lets; intro x; clear_value x)
    | with_reducible apply Held.ite
    | with_reducible apply State.streamTimeout_held
    | with_reducible apply State.setErrIf_held
    | with_reducible apply State.setRegF_held
    | simp only [↓Held.mk_iff]
    | split
theorem execStreamTimeout_held (rx : Nat) (src : BitVec 16) (s : State) (z : State) (h : execStreamTimeout rx src s = .next z) : Held s z := Held.unit (streamTimeoutAt_held (Held.refl _)) h
theorem heartbeatDue_held {b : State} {n : Nat} {s : State} (h : Held b s) : Held b (heartbeatDue n s) := by
  unfold heartbeatDue
  repeat' first
    | with_reducible assumption
    | (intro x; refine Held.via (s := b) x ?_ (fun _ => ?_); rotate_left; clear_value x; rotate_right)
    | (intro x; clear_value x)
    | (lift_lets; intro x; clear_value x)
    | with_reducible apply Held.ite
    | with_reducible apply State.t1sSend_held
    | with_reducible apply State.setT1s_held
    | split
theorem execHeartbeatDue_held (n : Nat) (s : State) (z : State) (h : execHeartbeatDue n s = .next z) : Held s z := Held.unit (heartbeatDue_held (Held.refl _)) h
theorem verdictBeacon_held {b : State} {s : State} (h : Held b s) : Held b (verdictBeacon s) := by
  unfold verdictBeacon
  repeat' first
    | with_reducible assumption
    | (lift_lets; intro x; clear_value x)
    | with_reducible apply Held.ite
    | with_reducible apply State.emit_held
    | with_reducible apply State.setT1s_held
    | split
theorem execVerdictBeacon_held (s : State) (z : State) (h : execVerdictBeacon s = .next z) : Held s z := Held.next (verdictBeacon_held (Held.refl _)) h
theorem foreignBeacon_held {b : State} {s : State} (h : Held b s) : Held b (foreignBeacon s) := by
  unfold foreignBeacon
  repeat' first
    | with_reducible assumption
    | (lift_lets; intro x; clear_value x)
    | with_reducible apply State.setErr_held
    | with_reducible apply State.setT1s_held
theorem execForeignBeacon_held (s : State) (z : State) (h : execForeignBeacon s = .next z) : Held s z := Held.next (foreignBeacon_held (Held.refl _)) h
theorem coordinatorResume_held {b : State} {s : State} (h : Held b s) : Held b (coordinatorResume s) := by
  unfold coordinatorResume
  repeat' first
    | with_reducible assumption
    | (lift_lets; intro x; clear_value x)
    | with_reducible apply Held.ite
    | with_reducible apply State.setT1s_held
    | split
theorem execCoordinatorResume_held (s : State) (z : State) (h : execCoordinatorResume s = .next z) : Held s z := Held.next (coordinatorResume_held (Held.refl _)) h

end Sys2Proof.Machine
end

