-- ==== Sys2Proof/Laws/HeldTriggers.lean ====
section
/-! SUPPORT. What each function of Triggers.lean leaves alone: the queue, FRC and the canonical form. -/

namespace Sys2Proof.Machine

theorem State.trigAct_held {b : State} {s : State} {e : Nat} (h : Held b s) : Held b (State.trigAct s e) := by
  unfold State.trigAct
  repeat' first
    | with_reducible assumption
    | (intro x; clear_value x)
    | (lift_lets; intro x; clear_value x)
    | with_reducible apply Held.ite
    | with_reducible apply State.fireLive_held
    | with_reducible apply State.gatedSend_held
    | with_reducible apply State.setRegF_held
    | simp only [↓Held.mk_iff]
    | split
theorem State.trigFire_held {b : State} {s : State} {e : Nat} {late : Option Nat} (h : Held b s) : Held b (State.trigFire s e late) := by
  unfold State.trigFire
  repeat' first
    | with_reducible assumption
    | with_reducible apply State.trigAfter_held
    | with_reducible apply State.trigAct_held
    | with_reducible apply State.trigFired_held
theorem State.trigLate_held {b : State} {s : State} {e : Nat} (h : Held b s) : Held b (State.trigLate s e) := by
  unfold State.trigLate
  repeat' first
    | with_reducible assumption
    | with_reducible apply Held.ite
    | with_reducible apply State.trigDiscard_held
    | with_reducible apply State.trigFire_held
    | split
theorem State.trigTake_held {b : State} {s : State} {e : Nat} {ws : List W32} (h : Held b s) : Held b (State.trigTake s e ws) := by
  unfold State.trigTake
  repeat' first
    | with_reducible assumption
    | (intro x; clear_value x)
    | (lift_lets; intro x; clear_value x)
    | with_reducible apply State.trigLate_held
    | with_reducible apply State.setRegF_held
    | with_reducible apply State.setTrig_held
theorem State.trigLoad_held {b : State} {s : State} {e : Nat} (h : Held b s) : Held b (State.trigLoad s e) := State.trigTake_held h
theorem State.trigNext_held {b : State} {s : State} {e : Nat} {x : Trig} (h : Held b s) : Held b (State.trigNext s e x) := by
  unfold State.trigNext
  repeat' first
    | with_reducible assumption
    | with_reducible apply State.trigTake_held
    | with_reducible apply State.setReg_held
    | split
theorem State.trigPassed_held {b : State} {s : State} {e : Nat} (h : Held b s) : Held b (State.trigPassed s e) := by
  unfold State.trigPassed
  repeat' first
    | with_reducible assumption
    | (lift_lets; intro x; clear_value x)
    | with_reducible apply Held.ite
    | with_reducible apply State.trigNext_held
    | with_reducible apply State.trigLate_held
theorem State.commits_held {b : State} {s : State} (h : Held b s) : Held b (State.commits s) := by
  unfold State.commits
  repeat' first
    | with_reducible assumption
    | (lift_lets; intro x; refine Held.via (s := b) x ?_ (fun _ => ?_); rotate_left; clear_value x; rotate_right)
    | with_reducible apply Held.ite
    | with_reducible refine Held.foldl ?_ (fun u x _ => ?_)
    | with_reducible apply State.commitsDue_held
    | with_reducible apply State.trigPassed_held
theorem State.trigRecord_held {b : State} {s : State} {e : Nat} {ws : List W32} (h : Held b s) : Held b (State.trigRecord s e ws) := by
  unfold State.trigRecord
  repeat' first
    | with_reducible assumption
    | (lift_lets; intro x; clear_value x)
    | with_reducible apply Held.ite
    | with_reducible refine Held.foldl ?_ (fun u x _ => ?_)
    | with_reducible apply State.trigLoad_held
    | with_reducible apply State.setReg_held
theorem State.trigApply_held {b : State} {s : State} {e : Nat} {v : W32} (h : Held b s) : Held b (State.trigApply s e v) := by
  unfold State.trigApply
  repeat' first
    | with_reducible assumption
    | with_reducible apply State.trigLoad_held
    | with_reducible apply State.setReg_held
theorem trigCtrlWrite_held {b : State} {w : Writer} {e : Nat} {v : W32} {s : State} (h : Held b s) : Held b (trigCtrlWrite w e v s) := by
  unfold trigCtrlWrite
  repeat' first
    | with_reducible assumption
    | (intro x; clear_value x)
    | (lift_lets; intro x; refine Held.via (s := b) x ?_ (fun _ => ?_); rotate_left; clear_value x; rotate_right)
    | with_reducible apply Held.ite
    | with_reducible apply State.drawNat_held
    | with_reducible apply State.setReg_held
    | with_reducible apply State.setTrig_held
    | with_reducible apply State.trigApply_held
theorem execTriggerCtrlWrite_held (w : Writer) (e : Nat) (v : W32) (s : State) (z : State) (h : execTriggerCtrlWrite w e v s = .next z) : Held s z := Held.unit (trigCtrlWrite_held (Held.refl _)) h
theorem State.trigGo_held {b : State} {s : State} {e : Nat} {late : Option Nat} (h : Held b s) : Held b (State.trigGo s e late) := by
  unfold State.trigGo
  repeat' first
    | with_reducible assumption
    | with_reducible apply State.trigNext_held
    | with_reducible apply State.trigFire_held
theorem trigAtTarget_held {b : State} {a : Nat} {e : Nat} {s : State} (h : Held b s) : Held b (trigAtTarget a e s) := by
  unfold trigAtTarget
  repeat' first
    | with_reducible assumption
    | (lift_lets; intro x; refine Held.via (s := b) x ?_ (fun _ => ?_); rotate_left; clear_value x; rotate_right)
    | with_reducible apply Held.ite
    | with_reducible apply State.commits_held
    | with_reducible apply State.trigGo_held
theorem execTriggerIrq_held (e : Nat) (s : State) (z : State) (h : execTriggerIrq e s = .next z) : Held s z := Held.unit (trigAtTarget_held (Held.refl _)) h
theorem execTriggerRun_held (e : Nat) (s : State) (z : State) (h : execTriggerRun e s = .next z) : Held s z := Held.unit (trigAtTarget_held (Held.refl _)) h
theorem execTriggerAdc_held (e : Nat) (s : State) (z : State) (h : execTriggerAdc e s = .next z) : Held s z := Held.unit (trigAtTarget_held (Held.refl _)) h
theorem triggerEth_held {b : State} {e : Nat} {s : State} (h : Held b s) : Held b (triggerEth e s) := by
  unfold triggerEth
  repeat' first
    | with_reducible assumption
    | (intro x; clear_value x)
    | (lift_lets; intro x; refine Held.via (s := b) x ?_ (fun _ => ?_); rotate_left; clear_value x; rotate_right)
    | with_reducible apply Held.ite
    | with_reducible apply State.commits_held
    | with_reducible apply State.trigGo_held
theorem execTriggerEth_held (e : Nat) (s : State) (z : State) (h : execTriggerEth e s = .next z) : Held s z := Held.unit (triggerEth_held (Held.refl _)) h
theorem steering_held {b : State} {s : State} (h : Held b s) : Held b (steering s) := by
  unfold steering
  repeat' first
    | with_reducible assumption
    | (intro x; refine Held.via (s := b) x ?_ (fun _ => ?_); rotate_left; clear_value x; rotate_right)
    | (lift_lets; intro x; refine Held.via (s := b) x ?_ (fun _ => ?_); rotate_left; clear_value x; rotate_right)
    | with_reducible apply Held.ite
    | with_reducible apply State.commits_held
    | with_reducible apply State.setRegF_held
    | with_reducible apply State.steerTo_held
    | with_reducible apply State.showErr_held
theorem execSteeringTick_held (s : State) (z : State) (h : execSteeringTick s = .next z) : Held s z := Held.next (steering_held (Held.refl _)) h
theorem markerAt_held {b : State} {echo : List (Option Int)} {s : State} (h : Held b s) : Held b (markerAt echo s) := by
  unfold markerAt
  repeat' first
    | with_reducible assumption
    | (intro x; refine Held.via (s := b) x ?_ (fun _ => ?_); rotate_left; clear_value x; rotate_right)
    | (intro x; clear_value x)
    | (lift_lets; intro x; refine Held.via (s := b) x ?_ (fun _ => ?_); rotate_left; clear_value x; rotate_right)
    | with_reducible apply Held.ite
    | with_reducible refine Held.foldl ?_ (fun u x _ => ?_)
    | with_reducible apply State.commits_held
    | with_reducible apply State.echo_held
    | unfold x
    | simp only [↓Held.mk_iff]
theorem execMarker_held (echo : List (Option Int)) (s : State) (z : State) (h : execMarker echo s = .next z) : Held s z := Held.next (markerAt_held (Held.refl _)) h

end Sys2Proof.Machine
end

