-- ==== Sys2Proof/Laws/HeldTsm.lean ====
section
/-! SUPPORT. What each function of Tsm.lean leaves alone: the queue, FRC and the canonical form. -/

namespace Sys2Proof.Machine

theorem State.taskJudge_held {b : State} {s : State} {t : Nat} (h : Held b s) : Held b (State.taskJudge s t) := by
  unfold State.taskJudge
  repeat' first
    | with_reducible assumption
    | (intro x; refine Held.via (s := b) x ?_ (fun _ => ?_); rotate_left; clear_value x; rotate_right)
    | (intro x; clear_value x)
    | (lift_lets; intro x; clear_value x)
    | with_reducible apply Held.ite
    | with_reducible apply State.setReg_held
    | with_reducible apply State.count_held
    | unfold x
    | simp only [↓Held.mk_iff]
theorem State.tasksJudge_held {b : State} {s : State} (h : Held b s) : Held b (State.tasksJudge s) := by
  unfold State.tasksJudge
  repeat' first
    | with_reducible assumption
    | with_reducible refine Held.foldl ?_ (fun u x _ => ?_)
    | with_reducible apply State.taskJudge_held
theorem State.tsmServe_held {b : State} {s : State} (h : Held b s) : Held b (State.tsmServe s) := by
  unfold State.tsmServe
  repeat' first
    | with_reducible assumption
    | (intro x; refine Held.via (s := b) x ?_ (fun _ => ?_); rotate_left; clear_value x; rotate_right)
    | (lift_lets; intro x; clear_value x)
    | with_reducible apply Held.ite
    | with_reducible apply State.wdKey_held
    | unfold x
    | simp only [↓Held.mk_iff]
theorem taskClose_held {b : State} {t : Nat} {s : State} (h : Held b s) : Held b (taskClose t s) := by
  unfold taskClose
  repeat' first
    | with_reducible assumption
    | with_reducible apply Held.ite
    | with_reducible apply State.tsmServe_held
    | with_reducible apply State.taskJudge_held
theorem execTaskWindowClose_held (t : Nat) (s : State) (z : State) (h : execTaskWindowClose t s = .next z) : Held s z := Held.unit (taskClose_held (Held.refl _)) h
theorem State.checkIn_held {b : State} {s : State} {t : Nat} (h : Held b s) : Held b (State.checkIn s t) := by
  unfold State.checkIn
  repeat' first
    | with_reducible assumption
    | (lift_lets; intro x; refine Held.via (s := b) x ?_ (fun _ => ?_); rotate_left; clear_value x; rotate_right)
    | with_reducible apply Held.ite
    | with_reducible apply taskClose_held
    | with_reducible apply State.setRegF_held
    | with_reducible apply State.count_held
theorem checkinRx_held {b : State} {link : Nat} {dom : Domain} {m : PMsg} {s : State} (h : Held b s) : Held b (checkinRx link dom m s) := by
  unfold checkinRx
  repeat' first
    | with_reducible assumption
    | with_reducible apply Held.ite
    | with_reducible apply State.recv_held
    | with_reducible apply State.checkIn_held
    | simp only [↓Held.mk_iff]
    | split
theorem execCheckin_held (link : Nat) (dom : Domain) (m : PMsg) (s : State) (z : State) (h : execCheckin link dom m s = .next z) : Held s z := Held.unit (checkinRx_held (Held.refl _)) h
theorem State.tsmSwitch_held {b : State} {s : State} (h : Held b s) : Held b (State.tsmSwitch s) := by
  unfold State.tsmSwitch
  repeat' first
    | with_reducible assumption
    | (intro x; refine Held.via (s := b) x ?_ (fun _ => ?_); rotate_left; clear_value x; rotate_right)
    | (intro x; clear_value x)
    | (lift_lets; intro x; refine Held.via (s := b) x ?_ (fun _ => ?_); rotate_left; clear_value x; rotate_right)
    | with_reducible apply Held.ite
    | with_reducible refine Held.foldl ?_ (fun u x _ => ?_)
    | with_reducible apply State.tasksJudge_held
    | with_reducible apply State.setRegF_held
    | simp only [↓Held.mk_iff]
theorem tsmFailClr_held {b : State} {w : Writer} {v : W32} {s : State} (h : Held b s) : Held b (tsmFailClr w v s) := by
  unfold tsmFailClr
  repeat' first
    | with_reducible assumption
    | with_reducible apply Held.ite
    | with_reducible apply State.setReg_held
theorem execTsmFailClr_held (w : Writer) (v : W32) (s : State) (z : State) (h : execTsmFailClr w v s = .next z) : Held s z := Held.next (tsmFailClr_held (Held.refl _)) h

end Sys2Proof.Machine
end

