-- ==== Sys2Proof/Laws/HeldDeclare.lean ====
section
/-! SUPPORT. What each function of Declare.lean leaves alone: the queue, FRC and the canonical form. -/

namespace Sys2Proof.Machine

theorem declare_held {b : State} {m : PMsg} {d : DeclSet} {s : State} (h : Held b s) : Held b (declare m d s) := by
  unfold declare
  repeat' first
    | with_reducible assumption
    | with_reducible apply Held.ite
    | with_reducible apply State.recv_held
    | with_reducible apply State.setRegF_held
    | with_reducible apply State.setReg_held
    | with_reducible apply State.setBel_held
    | with_reducible apply State.sendMsg_held
    | simp only [↓Held.mk_iff]
    | split
theorem execDeclare_held (m : PMsg) (d : DeclSet) (s : State) (z : State) (h : execDeclare m d s = .next z) : Held s z := Held.next (declare_held (Held.refl _)) h
theorem areas_held {b : State} {m : PMsg} {s : State} (h : Held b s) : Held b (areas m s) := by
  unfold areas
  repeat' first
    | with_reducible assumption
    | with_reducible apply Held.ite
    | with_reducible apply State.recv_held
    | with_reducible apply State.sendMsg_held
    | with_reducible apply State.setReg_held
    | with_reducible apply State.setRegF_held
    | simp only [↓Held.mk_iff]
    | split
theorem execAreas_held (m : PMsg) (s : State) (z : State) (h : execAreas m s = .next z) : Held s z := Held.next (areas_held (Held.refl _)) h
theorem areasReply_held {b : State} {m : PMsg} {s : State} (h : Held b s) : Held b (areasReply m s) := by
  unfold areasReply
  repeat' first
    | with_reducible assumption
    | with_reducible apply Held.ite
    | with_reducible apply State.recv_held
    | with_reducible apply State.gkDeliver_held
theorem execAreasReply_held (m : PMsg) (s : State) (z : State) (h : execAreasReply m s = .next z) : Held s z := Held.next (areasReply_held (Held.refl _)) h
theorem State.goldDeclare_held {b : State} {s : State} {n : Nat} {d : DeclRec} {anew : Bool} (h : Held b s) : Held b (State.goldDeclare s n d anew) := by
  unfold State.goldDeclare
  repeat' first
    | with_reducible assumption
    | (intro x; clear_value x)
    | (lift_lets; intro x; clear_value x)
    | with_reducible apply State.setErrIf_held
    | with_reducible apply State.setGold_held
theorem State.redeclare_held {b : State} {s : State} {d : DeclSet} {n : Nat} (h : Held b s) : Held b (State.redeclare s d n).2 := by
  unfold State.redeclare
  repeat' first
    | with_reducible assumption
    | (lift_lets; intro x; clear_value x)
    | with_reducible apply State.transLog_held
    | with_reducible apply State.setSvc_held
    | with_reducible apply State.setBel_held
    | with_reducible apply State.setBelief_held
    | with_reducible apply State.goldDeclare_held
    | simp only [↓Held.mk_iff]
    | split
theorem State.dropGathers_held {b : State} {s : State} (h : Held b s) : Held b (State.dropGathers s) := by
  unfold State.dropGathers
  repeat' first
    | with_reducible assumption
    | (intro x; clear_value x)
    | (lift_lets; intro x; clear_value x)
    | with_reducible apply State.countN_held
    | with_reducible apply State.setPlan_held
theorem State.takeRings_held {b : State} {s : State} (h : Held b s) : Held b (State.takeRings s) := by
  unfold State.takeRings
  repeat' first
    | with_reducible assumption
    | (lift_lets; intro x; clear_value x)
    | with_reducible apply State.setPlan_held
theorem State.switchDomains_held {b : State} {s : State} (h : Held b s) : Held b (State.switchDomains s) := by
  unfold State.switchDomains
  repeat' first
    | with_reducible assumption
    | (lift_lets; intro x; refine Held.via (s := b) x ?_ (fun _ => ?_); rotate_left; clear_value x; rotate_right)
    | (lift_lets; intro x; clear_value x)
    | with_reducible apply Held.ite
    | with_reducible refine Held.foldl ?_ (fun u x _ => ?_)
    | with_reducible apply State.assignSafety_held
    | with_reducible apply State.restoreDom_held
    | simp only [↓Held.mk_iff]
theorem State.bindRegs_held {b : State} {s : State} (h : Held b s) : Held b (State.bindRegs s) := by
  unfold State.bindRegs
  repeat' first
    | with_reducible assumption
    | (lift_lets; intro x; clear_value x)
    | with_reducible refine Held.foldl ?_ (fun u x _ => ?_)
    | with_reducible apply State.setReg_held
theorem State.planSwitch_held {o : State} {s : State} {b : Nat} {d : DeclSet} (h : Held o s) : Held o (State.planSwitch s b d).2 := by
  unfold State.planSwitch
  repeat' first
    | with_reducible assumption
    | (intro x; refine Held.via (s := o) x ?_ (fun _ => ?_); rotate_left; clear_value x; rotate_right)
    | (intro x; clear_value x)
    | (lift_lets; intro x; refine Held.via (s := o) x ?_ (fun _ => ?_); rotate_left; clear_value x; rotate_right)
    | with_reducible refine Held.foldl ?_ (fun u x _ => ?_)
    | with_reducible refine Held.foldlSnd ?_ (fun u x _ => ?_)
    | with_reducible apply State.tsmSwitch_held
    | with_reducible apply State.switchStat_held
    | with_reducible apply State.setReg_held
    | with_reducible apply State.takeRings_held
    | with_reducible apply State.dropGathers_held
    | with_reducible apply State.setPlan_held
    | with_reducible apply State.setBv_held
    | with_reducible apply State.setBel_held
    | with_reducible apply State.trigRecord_held
    | with_reducible apply State.regionWindows_held
    | with_reducible apply State.switchDomains_held
    | with_reducible apply State.redeclare_held
    | with_reducible apply State.bindRegs_held

end Sys2Proof.Machine
end

