-- ==== Sys2Proof/Laws/HeldCycle.lean ====
section
/-! SUPPORT. What each function of Cycle.lean leaves alone: the queue, FRC and the canonical form. -/

namespace Sys2Proof.Machine

theorem State.goldFire_held {b : State} {s : State} {n : Nat} {v : SvcSt} (h : Held b s) : Held b (State.goldFire s n v) := by
  unfold State.goldFire
  repeat' first
    | with_reducible assumption
    | (intro x; refine Held.via (s := b) x ?_ (fun _ => ?_); rotate_left; clear_value x; rotate_right)
    | (intro x; clear_value x)
    | (lift_lets; intro x; clear_value x)
    | with_reducible apply Held.ite
    | with_reducible apply State.fireGolden_held
    | with_reducible apply State.setGold_held
    | simp only [↓Held.mk_iff]
    | split
theorem State.goldAsked_held {o : State} {s : State} {b : Tick} (h : Held o s) : Held o (State.goldAsked s b) := by
  unfold State.goldAsked
  repeat' first
    | with_reducible assumption
    | with_reducible apply Held.ite
    | with_reducible refine Held.foldl ?_ (fun u x _ => ?_)
    | with_reducible apply State.goldFire_held
theorem resultAge_held {b : State} {n : Nat} {s : State} (h : Held b s) : Held b (resultAge n s) := by
  unfold resultAge
  repeat' first
    | with_reducible assumption
    | with_reducible apply Held.ite
    | with_reducible apply State.setSvc_held
    | simp only [↓Held.mk_iff]
    | split
theorem execResultAgeExpiry_held (n : Nat) (s : State) (z : State) (h : execResultAgeExpiry n s = .next z) : Held s z := Held.unit (resultAge_held (Held.refl _)) h
theorem proofStale_held {b : State} {n : Nat} {s : State} (h : Held b s) : Held b (proofStale n s) := by
  unfold proofStale
  repeat' first
    | with_reducible assumption
    | (intro x; clear_value x)
    | (lift_lets; intro x; clear_value x)
    | with_reducible apply Held.ite
    | with_reducible apply State.setSvc_held
    | simp only [↓Held.mk_iff]
    | split
theorem execProofStale_held (n : Nat) (s : State) (z : State) (h : execProofStale n s = .next z) : Held s z := Held.unit (proofStale_held (Held.refl _)) h
theorem State.leftovers_held {b : State} {s : State} (h : Held b s) : Held b (State.leftovers s) := by
  unfold State.leftovers
  repeat' first
    | with_reducible assumption
    | (lift_lets; intro x; refine Held.via (s := b) x ?_ (fun _ => ?_); rotate_left; clear_value x; rotate_right)
    | with_reducible apply Held.ite
    | with_reducible refine Held.foldl ?_ (fun u x _ => ?_)
    | with_reducible apply State.tsmServe_held
    | with_reducible apply State.tasksJudge_held
    | with_reducible apply proofStale_held
    | with_reducible apply resultAge_held
theorem State.statusWindow_held {b : State} {s : State} (h : Held b s) : Held b (State.statusWindow s) := by
  unfold State.statusWindow
  repeat' first
    | with_reducible assumption
    | (intro x; clear_value x)
    | (lift_lets; intro x; clear_value x)
    | simp only [↓Held.mk_iff]
theorem State.cycleOn_held {o : State} {s : State} {b : Tick} (h : Held o s) : Held o (State.cycleOn s b) := by
  unfold State.cycleOn
  repeat' first
    | with_reducible assumption
    | (intro x; clear_value x)
    | (lift_lets; intro x; clear_value x)
    | simp only [↓Held.mk_iff]
theorem State.biteBounds_held {o : State} {s : State} {b : Tick} (h : Held o s) : Held o (State.biteBounds s b) := by
  unfold State.biteBounds
  repeat' first
    | with_reducible assumption
    | (lift_lets; intro x; clear_value x)
    | with_reducible apply Held.ite
    | with_reducible refine Held.foldl ?_ (fun u x _ => ?_)
    | with_reducible apply State.setWd_held
theorem State.boundary_held {o : State} {s : State} {b : Tick} (h : Held o s) : Held o (State.boundary s b) := by
  unfold State.boundary
  repeat' first
    | with_reducible assumption
    | (intro x; refine Held.via (s := o) x ?_ (fun _ => ?_); rotate_left; clear_value x; rotate_right)
    | (lift_lets; intro x; clear_value x)
    | with_reducible apply Held.ite
    | with_reducible apply State.trigFired_held
    | with_reducible apply State.cycleOn_held
    | with_reducible apply State.leftovers_held
    | with_reducible apply State.biteBounds_held
    | with_reducible apply State.planSwitch_held
    | with_reducible apply State.goldAsked_held
    | with_reducible apply State.transFlush_held
    | with_reducible apply State.believe_held
    | with_reducible apply State.drive_held
    | with_reducible apply State.applySched_held
    | with_reducible apply State.tsmServe_held
    | with_reducible apply State.icuPulse_held
    | with_reducible apply State.statusWindow_held
    | simp only [↓Held.mk_iff]
    | split
theorem triggerCycle_held {b : State} {s : State} (h : Held b s) : Held b (triggerCycle s) := by
  unfold triggerCycle
  repeat' first
    | with_reducible assumption
    | with_reducible apply Held.ite
    | with_reducible apply State.boundary_held
    | split
theorem execTriggerCycle_held (s : State) (z : State) (h : execTriggerCycle s = .next z) : Held s z := Held.next (triggerCycle_held (Held.refl _)) h
theorem goldenDue_held {b : State} {n : Nat} {s : State} (h : Held b s) : Held b (goldenDue n s) := by
  unfold goldenDue
  repeat' first
    | with_reducible assumption
    | with_reducible apply Held.ite
    | with_reducible apply State.boundary_held
    | split
theorem execGoldenDue_held (n : Nat) (s : State) (z : State) (h : execGoldenDue n s = .next z) : Held s z := Held.unit (goldenDue_held (Held.refl _)) h
theorem graceExpiry_held {b : State} {n : Nat} {s : State} (h : Held b s) : Held b (graceExpiry n s) := by
  unfold graceExpiry
  repeat' first
    | with_reducible assumption
    | with_reducible apply Held.ite
    | with_reducible apply State.boundary_held
    | split
theorem execGraceExpiry_held (n : Nat) (s : State) (z : State) (h : execGraceExpiry n s = .next z) : Held s z := Held.unit (graceExpiry_held (Held.refl _)) h
theorem verdictInstant_held {b : State} {delay : Nat} {collisions : Nat} {s : State} (h : Held b s) : Held b (verdictInstant delay collisions s) := by
  unfold verdictInstant
  repeat' first
    | with_reducible assumption
    | (intro x; clear_value x)
    | (lift_lets; intro x; clear_value x)
    | with_reducible apply Held.ite
    | with_reducible apply State.t1sSend_held
    | with_reducible apply State.count_held
    | with_reducible apply State.setReg_held
    | with_reducible apply State.countN_held
    | with_reducible apply State.gkRom_held
    | with_reducible apply State.secInstant_held
    | simp only [↓Held.mk_iff]
    | split
theorem execVerdictInstant_held (delay : Nat) (collisions : Nat) (s : State) (z : State) (h : execVerdictInstant delay collisions s = .next z) : Held s z := Held.next (verdictInstant_held (Held.refl _)) h

end Sys2Proof.Machine
end

