-- ==== Sys2Proof/Laws/HeldRegRead.lean ====
section
/-! SUPPORT. What each function of RegRead.lean leaves alone: the queue, FRC and the canonical form. -/

namespace Sys2Proof.Machine

theorem State.readAct_held {b : State} {s : State} {a : Nat} (h : Held b s) : Held b (State.readAct s a) := by
  unfold State.readAct
  repeat' first
    | with_reducible assumption
    | (intro x; clear_value x)
    | (lift_lets; intro x; clear_value x)
    | with_reducible apply Held.ite
    | with_reducible apply icuClaim_held
    | with_reducible apply cvuStatRead_held
    | with_reducible apply replicaSnapshot_held
    | with_reducible apply frcSnapshot_held
    | with_reducible apply captureRead_held
    | with_reducible apply State.stateRead_held
    | split
theorem State.read_held {b : State} {s : State} {a : Nat} (h : Held b s) : Held b (State.read s a).2 := by
  unfold State.read
  repeat' first
    | with_reducible assumption
    | (lift_lets; intro x; refine Held.via (s := b) x ?_ (fun _ => ?_); rotate_left; clear_value x; rotate_right)
    | with_reducible apply State.readAct_held

end Sys2Proof.Machine
end

