-- ==== Sys2Proof/Laws/HeldSensors.lean ====
section
/-! SUPPORT. What each function of Sensors.lean leaves alone: the queue, FRC and the canonical form. -/

namespace Sys2Proof.Machine

theorem State.setRxs_held {b : State} {s : State} {n : Nat} {x : FrameSt} (h : Held b s) : Held b (State.setRxs s n x) := by
  unfold State.setRxs
  repeat' first
    | with_reducible assumption
    | (lift_lets; intro x; clear_value x)
    | with_reducible apply State.setRx_held
theorem State.srcStart_held {b : State} {s : State} {n : Nat} (h : Held b s) : Held b (State.srcStart s n) := by
  unfold State.srcStart
  repeat' first
    | with_reducible assumption
    | (intro x; refine Held.via (s := b) x ?_ (fun _ => ?_); rotate_left; clear_value x; rotate_right)
    | (intro x; clear_value x)
    | (lift_lets; intro x; clear_value x)
    | with_reducible apply State.setRxs_held
    | with_reducible apply State.setReg_held
theorem State.portStart_held {b : State} {s : State} {stream : Bool} {k : Nat} (h : Held b s) : Held b (State.portStart s stream k) := by
  unfold State.portStart
  repeat' first
    | with_reducible assumption
    | with_reducible refine Held.foldl ?_ (fun u x _ => ?_)
    | with_reducible apply State.srcStart_held
theorem State.frameStart_held {b : State} {s : State} {n : Nat} (h : Held b s) : Held b (State.frameStart s n) := by
  unfold State.frameStart
  repeat' first
    | with_reducible assumption
    | (intro x; refine Held.via (s := b) x ?_ (fun _ => ?_); rotate_left; clear_value x; rotate_right)
    | (intro x; clear_value x)
    | (lift_lets; intro x; clear_value x)
    | with_reducible apply Held.ite
    | with_reducible apply State.count_held
    | with_reducible apply State.setRxs_held
theorem State.frameJudged_held {b : State} {s : State} {n : Nat} {j : Judged} {synOk : Bool} (h : Held b s) : Held b (State.frameJudged s n j synOk) := by
  unfold State.frameJudged
  repeat' first
    | with_reducible assumption
    | (intro x; refine Held.via (s := b) x ?_ (fun _ => ?_); rotate_left; clear_value x; rotate_right)
    | (intro x; clear_value x)
    | (lift_lets; intro x; clear_value x)
    | with_reducible apply Held.ite
    | with_reducible apply State.setReg_held
    | with_reducible apply State.count_held
    | with_reducible apply State.emit_held
    | with_reducible apply State.arrive_held
    | with_reducible apply State.setRxs_held
    | simp only [↓Held.mk_iff]
    | split
theorem State.frameOver_held {b : State} {s : State} {n : Nat} {reason : Nat} {ctr : Nat} (h : Held b s) : Held b (State.frameOver s n reason ctr) := by
  unfold State.frameOver
  repeat' first
    | with_reducible assumption
    | (intro x; refine Held.via (s := b) x ?_ (fun _ => ?_); rotate_left; clear_value x; rotate_right)
    | (intro x; clear_value x)
    | (lift_lets; intro x; clear_value x)
    | with_reducible apply Held.ite
    | with_reducible apply State.setRxs_held
    | with_reducible apply State.frameJudged_held
theorem frameEnd_held {b : State} {n : Nat} {s : State} (h : Held b s) : Held b (frameEnd n s) := by
  unfold frameEnd
  repeat' first
    | with_reducible assumption
    | (intro x; refine Held.via (s := b) x ?_ (fun _ => ?_); rotate_left; clear_value x; rotate_right)
    | (intro x; clear_value x)
    | (lift_lets; intro x; clear_value x)
    | with_reducible apply Held.ite
    | with_reducible apply State.setReg_held
    | with_reducible apply State.frameOver_held
    | with_reducible apply State.setRegF_held
theorem execFrameEnd_held (n : Nat) (s : State) (z : State) (h : execFrameEnd n s = .next z) : Held s z := Held.unit (frameEnd_held (Held.refl _)) h
theorem csiFrameStart_held {b : State} {n : Nat} {s : State} (h : Held b s) : Held b (csiFrameStart n s) := by
  unfold csiFrameStart
  repeat' first
    | with_reducible assumption
    | (lift_lets; intro x; clear_value x)
    | with_reducible apply Held.ite
    | with_reducible apply State.frameStart_held
    | with_reducible apply State.setRegF_held
theorem execCsiFrameStart_held (n : Nat) (s : State) (z : State) (h : execCsiFrameStart n s = .next z) : Held s z := Held.unit (csiFrameStart_held (Held.refl _)) h
theorem State.synUnit_held {b : State} {s : State} {u : Nat} {crc : W32} {len : Nat} (h : Held b s) : Held b (State.synUnit s u crc len) := by
  unfold State.synUnit
  repeat' first
    | with_reducible assumption
    | (lift_lets; intro x; refine Held.via (s := b) x ?_ (fun _ => ?_); rotate_left; clear_value x; rotate_right)
    | with_reducible apply State.setRegF_held
    | with_reducible apply State.setReg_held
theorem synComplete_held {b : State} {n : Nat} {spoiled : List (Nat × Byte)} {writesOk : Bool} {s : State} (h : Held b s) : Held b (synComplete n spoiled writesOk s) := by
  unfold synComplete
  repeat' first
    | with_reducible assumption
    | (lift_lets; intro x; clear_value x)
    | with_reducible apply Held.ite
    | with_reducible apply State.writeB_held
    | with_reducible apply State.setErrIf_held
    | with_reducible apply State.synUnit_held
    | with_reducible apply State.setRxs_held
    | with_reducible apply State.setRx_held
    | with_reducible apply State.frameJudged_held
    | simp only [↓Held.mk_iff]
    | split
theorem execSyntheticLineComplete_held (n : Nat) (spoiled : List (Nat × Byte)) (writesOk : Bool) (s : State) (z : State) (h : execSyntheticLineComplete n spoiled writesOk s = .next z) : Held s z := Held.unit (synComplete_held (Held.refl _)) h
theorem State.badLine_held {b : State} {s : State} {n : Nat} (h : Held b s) : Held b (State.badLine s n) := by
  unfold State.badLine
  repeat' first
    | with_reducible assumption
    | (lift_lets; intro x; clear_value x)
    | with_reducible apply State.setRxs_held
theorem State.patternLine_held {b : State} {s : State} {n : Nat} {bs : List Byte} {crcOk : Bool} (h : Held b s) : Held b (State.patternLine s n bs crcOk) := by
  unfold State.patternLine
  repeat' first
    | with_reducible assumption
    | (lift_lets; intro x; clear_value x)
    | with_reducible apply State.setRxs_held
theorem State.imageLine_held {b : State} {s : State} {n : Nat} {bs : List Byte} (h : Held b s) : Held b (State.imageLine s n bs) := by
  unfold State.imageLine
  repeat' first
    | with_reducible assumption
    | (intro x; refine Held.via (s := b) x ?_ (fun _ => ?_); rotate_left; clear_value x; rotate_right)
    | (intro x; clear_value x)
    | (lift_lets; intro x; clear_value x)
    | with_reducible apply Held.ite
    | with_reducible apply State.setRxs_held
    | with_reducible apply State.count_held
    | with_reducible apply State.setErr_held
    | with_reducible apply State.writeB_held
    | split
theorem State.srcPacket_held {b : State} {s : State} {n : Nat} {dt : Nat} {bs : List Byte} {crcOk : Bool} (h : Held b s) : Held b (State.srcPacket s n dt bs crcOk) := by
  unfold State.srcPacket
  repeat' first
    | with_reducible assumption
    | (intro x; refine Held.via (s := b) x ?_ (fun _ => ?_); rotate_left; clear_value x; rotate_right)
    | (lift_lets; intro x; clear_value x)
    | with_reducible apply Held.ite
    | with_reducible apply State.count_held
    | with_reducible apply State.badLine_held
    | with_reducible apply State.patternLine_held
    | with_reducible apply State.imageLine_held
theorem csiLongPacket_held {b : State} {k : Nat} {vc : Nat} {dt : Nat} {bs : List Byte} {eccErrs : Nat} {crcOk : Bool} {s : State} (h : Held b s) : Held b (csiLongPacket k vc dt bs eccErrs crcOk s) := by
  unfold csiLongPacket
  repeat' first
    | with_reducible assumption
    | (intro x; refine Held.via (s := b) x ?_ (fun _ => ?_); rotate_left; clear_value x; rotate_right)
    | (intro x; clear_value x)
    | (lift_lets; intro x; clear_value x)
    | with_reducible apply Held.ite
    | with_reducible refine Held.foldl ?_ (fun u x _ => ?_)
    | with_reducible apply State.badLine_held
    | with_reducible apply State.count_held
    | with_reducible apply State.setErr_held
    | with_reducible apply State.setRx_held
    | with_reducible apply State.srcPacket_held
    | split
theorem execCsiLongPacket_held (k : Nat) (vc : Nat) (dt : BitVec 6) (bs : List Byte) (eccErrs : Nat) (crcOk : Bool) (s : State) (z : State) (h : execCsiLongPacket k vc dt bs eccErrs crcOk s = .next z) : Held s z := Held.unit (csiLongPacket_held (Held.refl _)) h
theorem csiRestart_held {b : State} {w : Writer} {k : Nat} {v : W32} {s : State} (h : Held b s) : Held b (csiRestart w k v s) := by
  unfold csiRestart
  repeat' first
    | with_reducible assumption
    | (intro x; refine Held.via (s := b) x ?_ (fun _ => ?_); rotate_left; clear_value x; rotate_right)
    | (lift_lets; intro x; clear_value x)
    | with_reducible apply Held.ite
    | with_reducible apply State.setReg_held
    | with_reducible apply State.setRx_held
    | with_reducible apply State.portStart_held
theorem execCsiRestart_held (w : Writer) (k : Nat) (v : W32) (s : State) (z : State) (h : execCsiRestart w k v s = .next z) : Held s z := Held.unit (csiRestart_held (Held.refl _)) h
theorem execDphySyncError_held (k : Nat) (s : State) (z : State) (h : execDphySyncError k s = .next z) : Held s z := Held.unit (State.setErr_held (Held.refl _)) h
theorem streamFrameEnd_held {b : State} {n : Nat} {s : State} (h : Held b s) : Held b (streamFrameEnd n s) := by
  unfold streamFrameEnd
  repeat' first
    | with_reducible assumption
    | (lift_lets; intro x; clear_value x)
    | with_reducible apply Held.ite
    | with_reducible apply State.frameOver_held
theorem execStreamFrameEnd_held (n : Nat) (s : State) (z : State) (h : execStreamFrameEnd n s = .next z) : Held s z := Held.unit (streamFrameEnd_held (Held.refl _)) h
theorem State.streamTake_held {b : State} {s : State} {n : Nat} {bs : List Byte} (h : Held b s) : Held b (State.streamTake s n bs) := by
  unfold State.streamTake
  repeat' first
    | with_reducible assumption
    | (intro x; refine Held.via (s := b) x ?_ (fun _ => ?_); rotate_left; clear_value x; rotate_right)
    | (intro x; clear_value x)
    | (lift_lets; intro x; refine Held.via (s := b) x ?_ (fun _ => ?_); rotate_left; clear_value x; rotate_right)
    | with_reducible apply Held.ite
    | with_reducible apply streamFrameEnd_held
    | with_reducible apply State.frameStart_held
    | with_reducible apply State.setRxs_held
    | with_reducible apply State.setErrIf_held
    | with_reducible apply State.writeB_held
    | unfold x
    | split
theorem ethReceive_held {b : State} {k : Nat} {f : EthFrame} {s : State} (h : Held b s) : Held b (ethReceive k f s) := by
  unfold ethReceive
  repeat' first
    | with_reducible assumption
    | with_reducible apply Held.ite
    | with_reducible apply State.count_held
    | with_reducible apply State.setErr_held
    | with_reducible apply State.streamTake_held
    | with_reducible apply State.emit_held
    | split
theorem execEthFrameReceive_held (k : Nat) (f : EthFrame) (s : State) (z : State) (h : execEthFrameReceive k f s = .next z) : Held s z := Held.unit (ethReceive_held (Held.refl _)) h
theorem ethLinkUp_held {b : State} {k : Nat} {speed : Nat} {s : State} (h : Held b s) : Held b (ethLinkUp k speed s) := by
  unfold ethLinkUp
  repeat' first
    | with_reducible assumption
    | (intro x; refine Held.via (s := b) x ?_ (fun _ => ?_); rotate_left; clear_value x; rotate_right)
    | (intro x; clear_value x)
    | (lift_lets; intro x; clear_value x)
    | with_reducible apply Held.ite
    | with_reducible apply State.setMac_held
    | with_reducible apply State.portStart_held
    | with_reducible apply State.setReg_held
theorem execEthLinkUp_held (k : Nat) (speed : BitVec 2) (s : State) (z : State) (h : execEthLinkUp k speed s = .next z) : Held s z := Held.unit (ethLinkUp_held (Held.refl _)) h
theorem execEthLinkDown_held (k : Nat) (s : State) (z : State) (h : execEthLinkDown k s = .next z) : Held s z := by
  unfold execEthLinkDown at h
  refine Held.unit ?_ h
  repeat' first
    | with_reducible exact Held.refl _
    | with_reducible apply Held.ite
    | with_reducible apply State.setErr_held
    | with_reducible apply State.setRegF_held
    | simp only [↓Held.mk_iff]
    | split

end Sys2Proof.Machine
end

