-- ==== Sys2Proof/Laws/HeldRegWrite.lean ====
section
/-! SUPPORT. What each function of RegWrite.lean leaves alone: the queue, FRC and the canonical form. -/

namespace Sys2Proof.Machine

theorem State.plain_held {b : State} {s : State} {r : RegRow} {k : PageKind} {page : Nat} {off : Nat} {v : W32} (h : Held b s) : Held b (State.plain s r k page off v) := by
  unfold State.plain
  repeat' first
    | with_reducible assumption
    | (intro x; refine Held.via (s := b) x ?_ (fun _ => ?_); rotate_left; clear_value x; rotate_right)
    | (intro x; clear_value x)
    | (lift_lets; intro x; clear_value x)
    | with_reducible apply Held.ite
    | with_reducible apply State.setReg_held
    | simp only [↓Held.mk_iff]
    | split
theorem State.genSelWrite_held {b : State} {s : State} {page : Nat} {v : W32} (h : Held b s) : Held b (State.genSelWrite s page v) := by
  unfold State.genSelWrite
  repeat' first
    | with_reducible assumption
    | with_reducible apply Held.ite
    | with_reducible apply State.setReg_held
theorem State.lockWrite_held {b : State} {s : State} {page : Nat} {v : W32} (h : Held b s) : Held b (State.lockWrite s page v) := by
  unfold State.lockWrite
  repeat' first
    | with_reducible assumption
    | with_reducible apply Held.ite
    | with_reducible apply State.setRegF_held
theorem State.errWrite_held {b : State} {s : State} {w : Writer} {page : Nat} {v : W32} (h : Held b s) : Held b (State.errWrite s w page v) := by
  unfold State.errWrite
  repeat' first
    | with_reducible assumption
    | (lift_lets; intro x; refine Held.via (s := b) x ?_ (fun _ => ?_); rotate_left; clear_value x; rotate_right)
    | with_reducible apply Held.ite
    | with_reducible apply State.blkErrClear_held
    | with_reducible apply State.logAdd_held
theorem State.injWrite_held {b : State} {s : State} {w : Writer} {k : PageKind} {page : Nat} {v : W32} (h : Held b s) : Held b (State.injWrite s w k page v) := by
  unfold State.injWrite
  repeat' first
    | with_reducible assumption
    | (lift_lets; intro x; clear_value x)
    | with_reducible apply Held.ite
    | with_reducible apply State.setReg_held
theorem unitClass_held {b : State} {w : Writer} {u : UnitId} {v : W32} {s : State} (h : Held b s) : Held b (unitClass w u v s) := by
  unfold unitClass
  repeat' first
    | with_reducible assumption
    | (intro x; refine Held.viaF (s := b) x (fun u k _ => ?_) (fun hf => ?_); rotate_left; clear_value x; rotate_right)
    | (lift_lets; intro x; clear_value x)
    | with_reducible apply Held.ite
    | with_reducible refine Held.foldl ?_ (fun u x _ => ?_)
    | with_reducible apply State.setReg_held
    | with_reducible apply hf
theorem ctxSrLoad_held {b : State} {u : UnitId} {v : W32} {s : State} (h : Held b s) : Held b (ctxSrLoad u v s) := by
  unfold ctxSrLoad
  repeat' first
    | with_reducible assumption
    | (intro x; refine Held.via (s := b) x ?_ (fun _ => ?_); rotate_left; clear_value x; rotate_right)
    | (lift_lets; intro x; clear_value x)
    | with_reducible apply Held.ite
    | with_reducible apply State.setReg_held
    | with_reducible apply State.setCore_held
theorem unitCtrl_held {b : State} {w : Writer} {u : UnitId} {v : W32} {s : State} (h : Held b s) : Held b (unitCtrl w u v s) := by
  unfold unitCtrl
  repeat' first
    | with_reducible assumption
    | (intro x; clear_value x)
    | (lift_lets; intro x; clear_value x)
    | with_reducible apply Held.ite
    | with_reducible apply unitCommand_held
    | with_reducible apply State.ctrlTouched_held
    | with_reducible apply State.setReg_held
theorem State.unitWrite_held {b : State} {s : State} {w : Writer} {u : UnitId} {page : Nat} {off : Nat} {r : RegRow} {v : W32} (h : Held b s) : Held b (State.unitWrite s w u page off r v) := by
  unfold State.unitWrite
  repeat' first
    | with_reducible assumption
    | with_reducible apply Held.ite
    | with_reducible apply unitClass_held
    | with_reducible apply State.setReg_held
    | with_reducible apply ctxSrLoad_held
    | with_reducible apply State.plain_held
theorem State.coreWrite_held {b : State} {s : State} {u : UnitId} {page : Nat} {off : Nat} {r : RegRow} {v : W32} (h : Held b s) : Held b (State.coreWrite s u page off r v) := by
  unfold State.coreWrite
  repeat' first
    | with_reducible assumption
    | with_reducible apply Held.ite
    | with_reducible apply srSeedWrite_held
    | with_reducible apply State.gkAdvance_held
    | with_reducible apply coreBootWrite_held
    | with_reducible apply preemptWrite_held
    | with_reducible apply preemptClr_held
    | with_reducible apply State.plain_held
theorem State.sigWrite_held {b : State} {s : State} {u : UnitId} {page : Nat} {off : Nat} {r : RegRow} {v : W32} (h : Held b s) : Held b (State.sigWrite s u page off r v) := by
  unfold State.sigWrite
  repeat' first
    | with_reducible assumption
    | with_reducible apply Held.ite
    | with_reducible apply sigSeqWrite_held
    | with_reducible apply sigContextWrite_held
    | with_reducible apply State.plain_held
theorem State.icuWrite_held {b : State} {s : State} {w : Writer} {page : Nat} {off : Nat} {r : RegRow} {v : W32} (h : Held b s) : Held b (State.icuWrite s w page off r v) := by
  unfold State.icuWrite
  repeat' first
    | with_reducible assumption
    | (intro x; clear_value x)
    | (lift_lets; intro x; clear_value x)
    | with_reducible apply Held.ite
    | with_reducible apply icuGctrl_held
    | with_reducible apply icuComplete_held
    | with_reducible apply State.plain_held
    | with_reducible apply State.icuOverClr_held
    | with_reducible apply State.icuCfgWrite_held
theorem State.wdWrite_held {b : State} {s : State} {w : Writer} {page : Nat} {off : Nat} {r : RegRow} {v : W32} (h : Held b s) : Held b (State.wdWrite s w page off r v) := by
  unfold State.wdWrite
  repeat' first
    | with_reducible assumption
    | (lift_lets; intro x; clear_value x)
    | with_reducible apply Held.ite
    | with_reducible apply wdCtrlWrite_held
    | with_reducible apply wdWindowWrite_held
    | with_reducible apply wdKeyWrite_held
    | with_reducible apply wdBiteClr_held
    | with_reducible apply State.plain_held
    | with_reducible apply State.wdTouch_held
theorem State.fwWrite_held {b : State} {s : State} {w : Writer} {page : Nat} {off : Nat} {r : RegRow} {v : W32} (h : Held b s) : Held b (State.fwWrite s w page off r v) := by
  unfold State.fwWrite
  repeat' first
    | with_reducible assumption
    | (intro x; clear_value x)
    | (lift_lets; intro x; clear_value x)
    | with_reducible apply Held.ite
    | with_reducible apply fwLogClr_held
    | with_reducible apply State.plain_held
    | with_reducible apply fwCtrlWrite_held
    | with_reducible apply State.setReg_held
theorem State.cvuWrite_held {b : State} {s : State} {w : Writer} {page : Nat} {off : Nat} {_r : RegRow} {v : W32} (h : Held b s) : Held b (State.cvuWrite s w page off _r v) := State.cvuPut_held h
theorem State.rpWrite_held {b : State} {s : State} {page : Nat} {off : Nat} {r : RegRow} {v : W32} (h : Held b s) : Held b (State.rpWrite s page off r v) := by
  unfold State.rpWrite
  repeat' first
    | with_reducible assumption
    | with_reducible apply Held.ite
    | with_reducible apply bankSwitch_held
    | with_reducible apply pkgUnload_held
    | with_reducible apply pkgLoad_held
    | with_reducible apply ringWrite_held
    | with_reducible apply State.setErr_held
    | with_reducible apply State.plain_held
theorem State.storeWrite_held {b : State} {s : State} {page : Nat} {off : Nat} {v : W32} (h : Held b s) : Held b (State.storeWrite s page off v) := by
  unfold State.storeWrite
  repeat' first
    | with_reducible assumption
    | with_reducible apply Held.ite
    | with_reducible apply State.setErr_held
    | with_reducible apply State.setReg_held
theorem State.msixWrite_held {b : State} {s : State} {page : Nat} {off : Nat} {v : W32} (h : Held b s) : Held b (State.msixWrite s page off v) := by
  unfold State.msixWrite
  repeat' first
    | with_reducible assumption
    | with_reducible apply Held.ite
    | with_reducible apply State.msixFlush_held
    | with_reducible apply State.setReg_held
theorem State.gkBootWrite_held {b : State} {s : State} {page : Nat} {off : Nat} {r : RegRow} {v : W32} (h : Held b s) : Held b (State.gkBootWrite s page off r v) := by
  unfold State.gkBootWrite
  repeat' first
    | with_reducible assumption
    | (lift_lets; intro x; refine Held.via (s := b) x ?_ (fun _ => ?_); rotate_left; clear_value x; rotate_right)
    | with_reducible apply Held.ite
    | with_reducible apply State.plain_held
    | with_reducible apply State.logAdd_held
theorem State.mboxWrite_held {b : State} {s : State} {page : Nat} {off : Nat} {r : RegRow} {v : W32} (h : Held b s) : Held b (State.mboxWrite s page off r v) := by
  unfold State.mboxWrite
  repeat' first
    | with_reducible assumption
    | (intro x; refine Held.via (s := b) x ?_ (fun _ => ?_); rotate_left; clear_value x; rotate_right)
    | (intro x; clear_value x)
    | (lift_lets; intro x; refine Held.via (s := b) x ?_ (fun _ => ?_); rotate_left; clear_value x; rotate_right)
    | with_reducible apply Held.ite
    | with_reducible apply State.plain_held
    | with_reducible apply State.icuPulse_held
    | with_reducible apply State.hostRespond_held
    | with_reducible apply State.mirrorConfig_held
theorem State.secWrite_held {b : State} {s : State} {page : Nat} {off : Nat} {r : RegRow} {v : W32} (h : Held b s) : Held b (State.secWrite s page off r v) := by
  unfold State.secWrite
  repeat' first
    | with_reducible assumption
    | (lift_lets; intro x; refine Held.via (s := b) x ?_ (fun _ => ?_); rotate_left; clear_value x; rotate_right)
    | with_reducible apply Held.ite
    | with_reducible apply State.plain_held
    | with_reducible apply State.gkRom_held
    | with_reducible apply State.icuPulse_held
theorem State.pwrWrite_held {b : State} {s : State} {w : Writer} {page : Nat} {off : Nat} {r : RegRow} {v : W32} (h : Held b s) : Held b (State.pwrWrite s w page off r v) := by
  unfold State.pwrWrite
  repeat' first
    | with_reducible assumption
    | with_reducible apply Held.ite
    | with_reducible apply vreadyWrite_held
    | with_reducible apply pavCfgWrite_held
    | with_reducible apply State.plain_held
theorem State.ghRstWrite_held {b : State} {s : State} {w : Writer} {page : Nat} {off : Nat} {r : RegRow} {v : W32} (h : Held b s) : Held b (State.ghRstWrite s w page off r v) := by
  unfold State.ghRstWrite
  repeat' first
    | with_reducible assumption
    | (lift_lets; intro x; refine Held.via (s := b) x ?_ (fun _ => ?_); rotate_left; clear_value x; rotate_right)
    | with_reducible apply Held.ite
    | with_reducible apply ioDieRelease_held
    | with_reducible apply ioDieReset_held
    | with_reducible apply State.setReg_held
    | with_reducible apply fwDone_held
    | with_reducible apply fwSwitch_held
    | with_reducible apply State.plain_held
theorem State.fcWrite_held {b : State} {s : State} {w : Writer} {page : Nat} {off : Nat} {r : RegRow} {v : W32} (h : Held b s) : Held b (State.fcWrite s w page off r v) := by
  unfold State.fcWrite
  repeat' first
    | with_reducible assumption
    | (intro x; clear_value x)
    | (lift_lets; intro x; refine Held.via (s := b) x ?_ (fun _ => ?_); rotate_left; clear_value x; rotate_right)
    | with_reducible apply Held.ite
    | with_reducible apply fcAckWrite_held
    | with_reducible apply fcForceWrite_held
    | with_reducible apply State.plain_held
    | with_reducible apply State.setFcClass_held
theorem State.sioWrite_held {b : State} {s : State} {w : Writer} {page : Nat} {off : Nat} {r : RegRow} {v : W32} (h : Held b s) : Held b (State.sioWrite s w page off r v) := by
  unfold State.sioWrite
  repeat' first
    | with_reducible assumption
    | with_reducible apply Held.ite
    | with_reducible apply sioResumeClr_held
    | with_reducible apply sioLockClr_held
    | with_reducible apply sioHsCmd_held
    | with_reducible apply sioLatchSet_held
    | with_reducible apply State.plain_held
theorem State.bsWrite_held {b : State} {s : State} {w : Writer} {page : Nat} {off : Nat} {r : RegRow} {v : W32} (h : Held b s) : Held b (State.bsWrite s w page off r v) := by
  unfold State.bsWrite
  repeat' first
    | with_reducible assumption
    | (lift_lets; intro x; clear_value x)
    | with_reducible apply Held.ite
    | with_reducible apply domainSelect_held
    | with_reducible apply commitWrite_held
    | with_reducible apply domCfgWrite_held
    | with_reducible apply ppsCfgWrite_held
    | with_reducible apply trigCtrlWrite_held
    | with_reducible apply State.plain_held
theorem State.ghPwrWrite_held {b : State} {s : State} {w : Writer} {page : Nat} {off : Nat} {r : RegRow} {v : W32} (h : Held b s) : Held b (State.ghPwrWrite s w page off r v) := by
  unfold State.ghPwrWrite
  repeat' first
    | with_reducible assumption
    | with_reducible apply Held.ite
    | with_reducible apply killSet_held
    | with_reducible apply killRelease_held
    | with_reducible apply State.plain_held
theorem State.bodyWrite_held {b : State} {s : State} {w : Writer} {k : PageKind} {page : Nat} {off : Nat} {r : RegRow} {v : W32} (h : Held b s) : Held b (State.bodyWrite s w k page off r v) := by
  unfold State.bodyWrite
  repeat' first
    | with_reducible assumption
    | with_reducible apply Held.ite
    | with_reducible apply State.unitWrite_held
    | with_reducible apply State.coreWrite_held
    | with_reducible apply State.sigWrite_held
    | with_reducible apply spareMapBy_held
    | with_reducible apply State.plain_held
    | with_reducible apply mcLogClr_held
    | with_reducible apply State.icuWrite_held
    | with_reducible apply State.wdWrite_held
    | with_reducible apply State.fwWrite_held
    | with_reducible apply linkTrain_held
    | with_reducible apply State.cvuWrite_held
    | with_reducible apply pmLastClr_held
    | with_reducible apply State.rpWrite_held
    | with_reducible apply State.storeWrite_held
    | with_reducible apply State.msixWrite_held
    | with_reducible apply State.gkBootWrite_held
    | with_reducible apply State.gkRestart_held
    | with_reducible apply State.mboxWrite_held
    | with_reducible apply State.secWrite_held
    | with_reducible apply calUserWrite_held
    | with_reducible apply State.pwrWrite_held
    | with_reducible apply pcieRetrain_held
    | with_reducible apply ethQcfgWrite_held
    | with_reducible apply csiRestart_held
    | with_reducible apply State.ghRstWrite_held
    | with_reducible apply bvFailClr_held
    | with_reducible apply folFailClr_held
    | with_reducible apply State.fcWrite_held
    | with_reducible apply State.sioWrite_held
    | with_reducible apply tsmFailClr_held
    | with_reducible apply State.bsWrite_held
    | with_reducible apply State.ghPwrWrite_held
    | split
theorem State.headWrite_held {b : State} {s : State} {w : Writer} {k : PageKind} {page : Nat} {off : Nat} {v : W32} (h : Held b s) : Held b (State.headWrite s w k page off v) := by
  unfold State.headWrite
  repeat' first
    | with_reducible assumption
    | with_reducible apply Held.ite
    | with_reducible apply State.genSelWrite_held
    | with_reducible apply unitCtrl_held
    | with_reducible apply State.ctrlTouched_held
    | with_reducible apply State.errWrite_held
    | with_reducible apply State.setErrMask_held
    | with_reducible apply State.injWrite_held
    | with_reducible apply State.lockWrite_held
    | with_reducible apply blkDomainWrite_held
    | split
theorem State.ghMemWrite_held {b : State} {s : State} {a : Nat} {v : W32} (h : Held b s) : Held b (State.ghMemWrite s a v) := by
  unfold State.ghMemWrite
  repeat' first
    | with_reducible assumption
    | with_reducible apply Held.ite
    | with_reducible apply State.tcmWrite_held
    | with_reducible apply State.setSlotWord_held
    | split
theorem State.writeReg_held {b : State} {s : State} {w : Writer} {a : Nat} {v : W32} (h : Held b s) : Held b (State.writeReg s w a v) := by
  unfold State.writeReg
  repeat' first
    | with_reducible assumption
    | (intro x; clear_value x)
    | (lift_lets; intro x; clear_value x)
    | with_reducible apply Held.ite
    | with_reducible apply State.headWrite_held
    | with_reducible apply State.bodyWrite_held
    | with_reducible apply State.ghMemWrite_held
    | with_reducible apply State.gkSramWrite_held
    | split
theorem sprInstall_held {b : State} {r : Option SafetyRecord} {s : State} (h : Held b s) : Held b (sprInstall r s) := by
  unfold sprInstall
  repeat' first
    | with_reducible assumption
    | (lift_lets; intro x; refine Held.via (s := b) x ?_ (fun _ => ?_); rotate_left; clear_value x; rotate_right)
    | with_reducible apply Held.ite
    | with_reducible refine Held.foldl ?_ (fun u x _ => ?_)
    | with_reducible apply State.serve_held
    | with_reducible apply sprServe_held
    | with_reducible apply State.writeReg_held
    | split
theorem execSprInstall_held (r : Option SafetyRecord) (s : State) (z : State) (h : execSprInstall r s = .next z) : Held s z := Held.next (State.gkOnResp_held (sprInstall_held (Held.refl _))) h
theorem execRegisterWrite_held (w : Writer) (a : Nat) (v : W32) (s : State) (z : State) (h : execRegisterWrite w a v s = .next z) : Held s z := Held.next (State.writeReg_held (Held.refl _)) h
theorem execBlkErrClear_held (w : Writer) (page : Nat) (v : W32) (s : State) (z : State) (h : execBlkErrClear w page v s = .next z) : Held s z := Held.unit (State.writeReg_held (Held.refl _)) h
theorem execBlkGenSelWrite_held (w : Writer) (page : Nat) (v : W32) (s : State) (z : State) (h : execBlkGenSelWrite w page v s = .next z) : Held s z := Held.unit (State.writeReg_held (Held.refl _)) h
theorem execBlkLockWrite_held (w : Writer) (page : Nat) (v : W32) (s : State) (z : State) (h : execBlkLockWrite w page v s = .next z) : Held s z := Held.unit (State.writeReg_held (Held.refl _)) h
theorem execBlkInjWrite_held (w : Writer) (page : Nat) (v : W32) (s : State) (z : State) (h : execBlkInjWrite w page v s = .next z) : Held s z := Held.unit (State.writeReg_held (Held.refl _)) h
theorem execUnitClassWrite_held (w : Writer) (u : UnitId) (v : W32) (s : State) (z : State) (h : execUnitClassWrite w u v s = .next z) : Held s z := Held.unit (unitClass_held (Held.refl _)) h
theorem execUnitCtxSrWrite_held (_w : Writer) (u : UnitId) (v : W32) (s : State) (z : State) (h : execUnitCtxSrWrite _w u v s = .next z) : Held s z := Held.unit (ctxSrLoad_held (Held.refl _)) h

end Sys2Proof.Machine
end

