-- ==== Sys2Proof/Laws/HeldFabric.lean ====
section
/-! SUPPORT. What each function of Fabric.lean leaves alone: the queue, FRC and the canonical form. -/

namespace Sys2Proof.Machine

theorem State.payload_held {b s : State} {die a : Nat} {l : List (W32 × BitVec 7)} (h : Held b s) : Held b (State.payload s die a l).2 := by
  induction l generalizing s a with
  | nil => exact h
  | cons p r ih =>
    simp only [State.payload]
    refine ih ?_
    split
    · exact State.setErr_held (State.count_held h)
    · exact State.setErr_held (State.count_held h)
    · exact Held.ite (State.count_held h) h
theorem State.regReads_held {b : State} {s : State} {t : BusTgt} {a : Nat} {a4 : Nat} (h : Held b s) : Held b (State.regReads s t a a4).2 := by
  fun_induction State.regReads s t a a4 <;>
  repeat' first
    | with_reducible assumption
    | with_reducible apply State.read_held
    | with_reducible apply_assumption -exfalso -symm
    | simp only [↓Held.mk_iff]
    | with_reducible refine Held.snd (by with_reducible assumption) ?_
    | split
theorem State.regWriteW_held {b : State} {s : State} {w : Writer} {a : Nat} {v : Option W32} {be : Nat} (h : Held b s) : Held b (State.regWriteW s w a v be) := by
  unfold State.regWriteW
  repeat' first
    | with_reducible assumption
    | (intro x; clear_value x)
    | (lift_lets; intro x; clear_value x)
    | with_reducible apply Held.ite
    | with_reducible apply State.writeReg_held
    | split
theorem State.regWrites_held {b : State} {s : State} {w : Writer} {a3 : Nat} {a4 : List (Option W32)} {a5 : Nat} (h : Held b s) : Held b (State.regWrites s w a3 a4 a5) := by
  fun_induction State.regWrites s w a3 a4 a5 <;>
  repeat' first
    | with_reducible assumption
    | with_reducible apply State.regWriteW_held
    | with_reducible apply_assumption -exfalso -symm
theorem State.doRead_held {b : State} {s : State} {src : BusSrc} {a : Nat} {n : Nat} {spec : Bool} (h : Held b s) : Held b (State.doRead s src a n spec).2.2 := by
  unfold State.doRead
  repeat' first
    | with_reducible assumption
    | (intro x; clear_value x)
    | (lift_lets; intro x; clear_value x)
    | with_reducible apply Held.iteSnd
    | with_reducible apply Held.iteSnd2
    | with_reducible apply State.busCheck_held
    | with_reducible apply State.regReads_held
    | with_reducible apply State.memRead_held
theorem State.doWrite_held {b : State} {s : State} {src : BusSrc} {a : Nat} {ws : List (Option W32)} {be : Nat} (h : Held b s) : Held b (State.doWrite s src a ws be).2 := by
  unfold State.doWrite
  repeat' first
    | with_reducible assumption
    | (intro x; clear_value x)
    | (lift_lets; intro x; clear_value x)
    | with_reducible apply Held.iteSnd
    | with_reducible apply State.busCheck_held
    | with_reducible apply State.regWrites_held
    | with_reducible apply State.memWrite_held
theorem State.setReq_held {b : State} {s : State} {k : Nat} {r : Option ReqSt} (h : Held b s) : Held b (State.setReq s k r) := h.trans ⟨rfl, rfl, id⟩
theorem State.issueReq_held {b : State} {s : State} {die : Nat} {p : Packet} (h : Held b s) : Held b (State.issueReq s die p) := State.setReq_held h
theorem State.droppedBy_held {b : State} {s : State} {die : Nat} {n : Nat} (h : Held b s) : Held b (State.droppedBy s die n) := by
  unfold State.droppedBy
  repeat' first
    | with_reducible assumption
    | with_reducible apply State.setErrBy_held
    | with_reducible apply State.count_held
theorem State.dropped_held {b : State} {s : State} {die : Nat} (h : Held b s) : Held b (State.dropped s die) := State.droppedBy_held h
theorem State.overLink_held {o : State} {s : State} {a : Nat} {b : Nat} {p : Packet} (h : Held o s) : Held o (State.overLink s a b p) := by
  unfold State.overLink
  repeat' first
    | with_reducible assumption
    | with_reducible apply State.lkSend_held
    | split
theorem State.answer_held {b : State} {s : State} {die : Nat} {p : Packet} {st : Nat} {count : Nat} {data : List (W32 × BitVec 7)} (h : Held b s) : Held b (State.answer s die p st count data) := by
  unfold State.answer
  repeat' first
    | with_reducible assumption
    | (lift_lets; intro x; clear_value x)
    | with_reducible apply State.overLink_held
    | with_reducible apply State.emit_held
theorem State.reply_held {b : State} {s : State} {die : Nat} {p : Packet} {st : Nat} {data : List (W32 × BitVec 7)} (h : Held b s) : Held b (State.reply s die p st data) := by
  unfold State.reply
  repeat' first
    | with_reducible assumption
    | with_reducible apply Held.ite
    | with_reducible apply State.answer_held
theorem State.finishN_held {b : State} {s : State} {k : Nat} {die : Nat} {p : Packet} {st : Nat} {count : Nat} (h : Held b s) : Held b (State.finishN s k die p st count) := by
  unfold State.finishN
  repeat' first
    | with_reducible assumption
    | with_reducible apply State.emit_held
    | with_reducible apply State.setReq_held
theorem State.finish_held {b : State} {s : State} {k : Nat} {die : Nat} {p : Packet} {st : Nat} (h : Held b s) : Held b (State.finish s k die p st) := State.finishN_held h
theorem State.readPkt_held {b : State} {s : State} {die : Nat} {p : Packet} (h : Held b s) : Held b (State.readPkt s die p) := by
  unfold State.readPkt
  repeat' first
    | with_reducible assumption
    | (lift_lets; intro x; clear_value x)
    | with_reducible apply State.doRead_held
    | with_reducible apply State.reply_held
theorem State.writePkt_held {b : State} {s : State} {die : Nat} {p : Packet} (h : Held b s) : Held b (State.writePkt s die p) := by
  unfold State.writePkt
  repeat' first
    | with_reducible assumption
    | (lift_lets; intro x; clear_value x)
    | with_reducible apply State.payload_held
    | with_reducible apply State.doWrite_held
    | with_reducible apply State.reply_held
theorem State.mcastTo_held {b : State} {s : State} {src : BusSrc} {sram : Bool} {off : Nat} {ws : List (Option W32)} {be : Nat} {a7 : List UnitId} (h : Held b s) : Held b (State.mcastTo s src sram off ws be a7).2.2 := by
  fun_induction State.mcastTo s src sram off ws be a7 <;>
  repeat' first
    | with_reducible assumption
    | with_reducible apply State.doWrite_held
    | with_reducible apply_assumption -exfalso -symm
    | simp only [↓Held.mk_iff]
    | with_reducible refine Held.snd (by with_reducible assumption) ?_
    | with_reducible refine Held.snd2 (by assumption) ?_
theorem State.spareTake_held {b : State} {s : State} {sram : Bool} {off : Nat} {ws : List (Option W32)} {be : Nat} {c : UnitId} (h : Held b s) : Held b (State.spareTake s sram off ws be c) := by
  unfold State.spareTake
  repeat' first
    | with_reducible assumption
    | (intro x; refine Held.via (s := b) x ?_ (fun _ => ?_); rotate_left; clear_value x; rotate_right)
    | (intro x; clear_value x)
    | (lift_lets; intro x; clear_value x)
    | with_reducible apply Held.ite
    | with_reducible refine Held.foldl ?_ (fun u x _ => ?_)
    | with_reducible refine Held.foldlFst ?_ (fun u x _ => ?_)
    | with_reducible apply State.cellWriteW_held
    | with_reducible apply State.bootAct_held
    | simp only [↓Held.mk_iff]
    | split
theorem State.mcastRun_held {b : State} {s : State} {die : Nat} {p : Packet} (h : Held b s) : Held b (State.mcastRun s die p) := by
  unfold State.mcastRun
  repeat' first
    | with_reducible assumption
    | (lift_lets; intro x; clear_value x)
    | with_reducible apply Held.ite
    | with_reducible refine Held.foldl ?_ (fun u x _ => ?_)
    | with_reducible apply State.answer_held
    | with_reducible apply State.payload_held
    | with_reducible apply State.mcastTo_held
    | with_reducible apply State.spareTake_held
    | simp only [↓Held.mk_iff]
    | split
theorem State.combine_held {b : State} {s : State} {op : Nat} {cs : List (List (Option W32))} (h : Held b s) : Held b (State.combine s op cs).2 := by
  unfold State.combine
  repeat' first
    | with_reducible assumption
    | with_reducible apply Held.iteSnd
    | with_reducible apply State.drawNat_held
    | simp only [↓Held.mk_iff]
    | split
theorem State.reduceReads_held {b : State} {s : State} {src : BusSrc} {sram : Bool} {off : Nat} {n : Nat} {a6 : List UnitId} (h : Held b s) : Held b (State.reduceReads s src sram off n a6).2.2.2 := by
  fun_induction State.reduceReads s src sram off n a6 <;>
  repeat' first
    | with_reducible assumption
    | with_reducible apply State.doRead_held
    | with_reducible apply_assumption -exfalso -symm
    | simp only [↓Held.mk_iff]
    | with_reducible refine Held.snd2 (by assumption) ?_
    | with_reducible refine Held.snd3 (by assumption) ?_
theorem State.combineBy_held {b : State} {γ : Type} {s : State} {op : Nat} {inG : γ → UnitId → Bool} {gid : γ → UnitId} {a5 : List γ} {a6 : List (UnitId × List (Option W32))} (h : Held b s) : Held b (State.combineBy s op inG gid a5 a6).2 := by
  fun_induction State.combineBy s op inG gid a5 a6 <;>
  repeat' first
    | with_reducible assumption
    | with_reducible apply State.combine_held
    | with_reducible apply_assumption -exfalso -symm
    | simp only [↓Held.mk_iff]
    | with_reducible refine Held.snd (by with_reducible assumption) ?_
theorem State.reduceRun_held {b : State} {s : State} {die : Nat} {p : Packet} (h : Held b s) : Held b (State.reduceRun s die p) := by
  unfold State.reduceRun
  repeat' first
    | with_reducible assumption
    | (intro x; clear_value x)
    | (lift_lets; intro x; clear_value x)
    | with_reducible apply Held.ite
    | with_reducible apply State.answer_held
    | with_reducible apply State.reduceReads_held
    | with_reducible apply State.combineBy_held
    | with_reducible apply State.combine_held
    | simp only [↓Held.mk_iff]
    | split
theorem State.collective_held {b : State} {s : State} {die : Nat} {p : Packet} (h : Held b s) : Held b (State.collective s die p) := by
  unfold State.collective
  repeat' first
    | with_reducible assumption
    | (intro x; refine Held.via (s := b) x ?_ (fun _ => ?_); rotate_left; clear_value x; rotate_right)
    | (intro x; clear_value x)
    | (lift_lets; intro x; clear_value x)
    | with_reducible apply Held.ite
    | with_reducible apply State.setReq_held
    | with_reducible apply State.mcastRun_held
    | with_reducible apply State.reduceRun_held
    | unfold x
    | simp only [↓Held.mk_iff]
    | split
theorem State.performPkt_held {b : State} {s : State} {die : Nat} {p : Packet} (h : Held b s) : Held b (State.performPkt s die p) := by
  unfold State.performPkt
  repeat' first
    | with_reducible assumption
    | (lift_lets; intro x; refine Held.via (s := b) x ?_ (fun _ => ?_); rotate_left; clear_value x; rotate_right)
    | with_reducible apply Held.ite
    | with_reducible refine Held.foldl ?_ (fun u x _ => ?_)
    | with_reducible apply State.overLink_held
    | with_reducible apply State.writePkt_held
    | with_reducible apply State.collective_held
    | with_reducible apply State.readPkt_held
theorem State.sendPkt_held {b : State} {s : State} {die : Nat} {kind : Nat} {p : Packet} (h : Held b s) : Held b (State.sendPkt s die kind p) := by
  unfold State.sendPkt
  repeat' first
    | with_reducible assumption
    | (intro x; clear_value x)
    | (lift_lets; intro x; refine Held.via (s := b) x ?_ (fun _ => ?_); rotate_left; clear_value x; rotate_right)
    | with_reducible apply Held.ite
    | with_reducible apply State.issueReq_held
    | with_reducible apply State.injTake_held
    | with_reducible apply State.droppedBy_held
    | with_reducible apply State.setReq_held
    | with_reducible apply State.performPkt_held
    | split
theorem fabricRead_held {b : State} {die : Nat} {p : Packet} {s : State} (h : Held b s) : Held b (fabricRead die p s) := State.sendPkt_held h
theorem execFabricRead_held (die : Nat) (p : Packet) (s : State) (z : State) (h : execFabricRead die p s = .next z) : Held s z := Held.unit (fabricRead_held (Held.refl _)) h
theorem fabricWrite_held {b : State} {die : Nat} {p : Packet} {s : State} (h : Held b s) : Held b (fabricWrite die p s) := State.sendPkt_held h
theorem execFabricWrite_held (die : Nat) (p : Packet) (s : State) (z : State) (h : execFabricWrite die p s = .next z) : Held s z := Held.unit (fabricWrite_held (Held.refl _)) h
theorem State.late_held {b : State} {s : State} {die : Nat} (h : Held b s) : Held b (State.late s die) := State.count_held h
theorem fabricResponse_held {b : State} {die : Nat} {p : Packet} {s : State} (h : Held b s) : Held b (fabricResponse die p s) := by
  unfold fabricResponse
  repeat' first
    | with_reducible assumption
    | (intro x; clear_value x)
    | (lift_lets; intro x; clear_value x)
    | with_reducible apply Held.ite
    | with_reducible apply State.dropped_held
    | with_reducible apply State.late_held
    | with_reducible apply State.setReq_held
    | with_reducible apply State.payload_held
    | with_reducible apply State.setUcmd_held
    | with_reducible apply State.finishN_held
    | simp only [↓Held.mk_iff]
    | split
theorem execFabricResponse_held (die : Nat) (p : Packet) (s : State) (z : State) (h : execFabricResponse die p s = .next z) : Held s z := Held.unit (fabricResponse_held (Held.refl _)) h
theorem fabricRetry_held {b : State} {die : Nat} {src : BitVec 16} {ret : BitVec 8} {tag : BitVec 10} {s : State} (h : Held b s) : Held b (fabricRetry die src ret tag s) := by
  unfold fabricRetry
  repeat' first
    | with_reducible assumption
    | (lift_lets; intro x; clear_value x)
    | with_reducible apply Held.ite
    | with_reducible apply State.performPkt_held
    | with_reducible apply State.setReq_held
    | with_reducible apply State.finish_held
    | with_reducible apply State.count_held
    | split
theorem execFabricRetry_held (die : Nat) (src : BitVec 16) (ret : BitVec 8) (tag : BitVec 10) (s : State) (z : State) (h : execFabricRetry die src ret tag s = .next z) : Held s z := Held.unit (fabricRetry_held (Held.refl _)) h
theorem fabricTimeout_held {b : State} {die : Nat} {src : BitVec 16} {ret : BitVec 8} {tag : BitVec 10} {s : State} (h : Held b s) : Held b (fabricTimeout die src ret tag s) := by
  unfold fabricTimeout
  repeat' first
    | with_reducible assumption
    | (lift_lets; intro x; clear_value x)
    | with_reducible apply Held.ite
    | with_reducible apply State.finish_held
    | with_reducible apply State.setErr_held
    | with_reducible apply State.count_held
    | with_reducible apply State.setReq_held
    | simp only [↓Held.mk_iff]
    | split
theorem execFabricTimeout_held (die : Nat) (src : BitVec 16) (ret : BitVec 8) (tag : BitVec 10) (s : State) (z : State) (h : execFabricTimeout die src ret tag s = .next z) : Held s z := Held.unit (fabricTimeout_held (Held.refl _)) h
theorem quarantineEnd_held {b : State} {die : Nat} {src : BitVec 16} {ret : BitVec 8} {tag : BitVec 10} {s : State} (h : Held b s) : Held b (quarantineEnd die src ret tag s) := by
  unfold quarantineEnd
  repeat' first
    | with_reducible assumption
    | (lift_lets; intro x; clear_value x)
    | with_reducible apply Held.ite
    | with_reducible apply State.setReq_held
    | split
theorem execTagQuarantineEnd_held (die : Nat) (src : BitVec 16) (ret : BitVec 8) (tag : BitVec 10) (s : State) (z : State) (h : execTagQuarantineEnd die src ret tag s = .next z) : Held s z := Held.unit (quarantineEnd_held (Held.refl _)) h
theorem mcastWrite_held {b : State} {die : Nat} {p : Packet} {s : State} (h : Held b s) : Held b (mcastWrite die p s) := State.sendPkt_held h
theorem execMcastWrite_held (die : Nat) (p : Packet) (s : State) (z : State) (h : execMcastWrite die p s = .next z) : Held s z := Held.unit (mcastWrite_held (Held.refl _)) h
theorem reduce_held {b : State} {die : Nat} {p : Packet} {s : State} (h : Held b s) : Held b (reduce die p s) := State.sendPkt_held h
theorem execReduce_held (die : Nat) (p : Packet) (s : State) (z : State) (h : execReduce die p s = .next z) : Held s z := Held.unit (reduce_held (Held.refl _)) h
theorem contextAcquire_held {b : State} {n : Nat} {s : State} (h : Held b s) : Held b (contextAcquire n s) := by
  unfold contextAcquire
  repeat' first
    | with_reducible assumption
    | with_reducible apply Held.ite
    | with_reducible apply State.collective_held
    | simp only [↓Held.mk_iff]
    | split
theorem execCollectiveContextAcquire_held (n : Nat) (s : State) (z : State) (h : execCollectiveContextAcquire n s = .next z) : Held s z := Held.unit (contextAcquire_held (Held.refl _)) h
theorem State.hostTry_held {b : State} {s : State} {write : Bool} {a : Nat} {st : Nat} {fin : Nat → State → State} (h : Held b s) (hf : ∀ n u, Held b u → Held b (fin n u)) : Held b (State.hostTry s write a st fin) := by
  unfold State.hostTry
  repeat' first
    | with_reducible assumption
    | (lift_lets; intro x; clear_value x)
    | with_reducible apply Held.ite
    | with_reducible apply State.setReq_held
    | with_reducible apply State.count_held
    | with_reducible apply State.ended_held
    | with_reducible apply hf
    | split
theorem State.hostReads_held {b : State} {s : State} {fuel : Nat} {a : Nat} {n : Nat} (h : Held b s) : Held b (State.hostReads s fuel a n).2.2 := by
  fun_induction State.hostReads s fuel a n <;>
  repeat' first
    | with_reducible assumption
    | with_reducible apply State.doRead_held
    | with_reducible apply_assumption -exfalso -symm
    | simp only [↓Held.mk_iff]
    | with_reducible refine Held.snd2 (by assumption) ?_
theorem State.complete_held {b : State} {s : State} {st : Nat} {ws : List (Option W32)} (h : Held b s) : Held b (State.complete s st ws) := by
  unfold State.complete
  repeat' first
    | with_reducible assumption
    | with_reducible apply Held.ite
    | with_reducible apply State.emit_held
    | with_reducible apply State.count_held
theorem hostRead_held {b : State} {bar : Nat} {off : Nat} {n : Nat} {s : State} (h : Held b s) : Held b (hostRead bar off n s) := by
  unfold hostRead
  repeat' first
    | with_reducible assumption
    | with_reducible apply Held.ite
    | with_reducible apply State.complete_held
    | with_reducible apply State.hostReads_held
    | with_reducible apply State.hostTry_held
    | simp only [↓Held.mk_iff]
    | split
    | (intro _; intros)
theorem execHostRead_held (bar : Nat) (off : Nat) (n : Nat) (s : State) (z : State) (h : execHostRead bar off n s = .next z) : Held s z := Held.unit (hostRead_held (Held.refl _)) h
theorem State.hostWrites_held {b : State} {s : State} {fuel : Nat} {a : Nat} {bs : List Byte} {ep : Bool} (h : Held b s) : Held b (State.hostWrites s fuel a bs ep).2 := by
  fun_induction State.hostWrites s fuel a bs ep <;>
  repeat' first
    | with_reducible assumption
    | with_reducible apply State.doWrite_held
    | with_reducible apply_assumption -exfalso -symm
    | simp only [↓Held.mk_iff]
    | with_reducible refine Held.snd (by with_reducible assumption) ?_
theorem hostWrite_held {b : State} {bar : Nat} {off : Nat} {bs : List Byte} {ep : Bool} {s : State} (h : Held b s) : Held b (hostWrite bar off bs ep s) := by
  unfold hostWrite
  repeat' first
    | with_reducible assumption
    | with_reducible apply Held.ite
    | with_reducible apply State.count_held
    | with_reducible apply State.hostWrites_held
    | with_reducible apply State.hostTry_held
    | simp only [↓Held.mk_iff]
    | split
    | (intro _; intros)
theorem execHostWrite_held (bar : Nat) (off : Nat) (bs : List Byte) (ep : Bool) (_relaxed : Bool) (s : State) (z : State) (h : execHostWrite bar off bs ep _relaxed s = .next z) : Held s z := Held.unit (hostWrite_held (Held.refl _)) h

end Sys2Proof.Machine
end

