-- ==== Sys2Proof/Laws/HeldFlags.lean ====
section
/-! SUPPORT. What each function of Flags.lean leaves alone: the queue, FRC and the canonical form. -/

namespace Sys2Proof.Machine

theorem State.arith_held {b : State} {s : State} {u : UnitId} {fl : Nat} (h : Held b s) : Held b (State.arith s u fl) := by
  unfold State.arith
  repeat' first
    | with_reducible assumption
    | (intro x; refine Held.via (s := b) x ?_ (fun _ => ?_); rotate_left; clear_value x; rotate_right)
    | (lift_lets; intro x; clear_value x)
    | with_reducible apply Held.ite
    | with_reducible apply State.setReg_held
    | with_reducible apply State.setErr_held

end Sys2Proof.Machine
end

