-- ==== Sys2Proof/Laws/HeldQueue.lean ====
section
/-! SUPPORT. What each function of Queue.lean leaves alone: the queue, FRC and the canonical form. -/

namespace Sys2Proof.Machine

theorem State.haltErr_held {b : State} {s : State} {u : UnitId} {n : Nat} {cause : Nat} (h : Held b s) : Held b (State.haltErr s u n cause) := by
  unfold State.haltErr
  repeat' first
    | with_reducible assumption
    | with_reducible apply Held.ite
    | with_reducible apply State.setErrIf_held
    | with_reducible apply State.setErr_held
    | split
theorem State.qFail_held {b : State} {s : State} {u : UnitId} {n : Nat} {cause : Nat} {addr : Nat} (h : Held b s) : Held b (State.qFail s u n cause addr) := by
  unfold State.qFail
  repeat' first
    | with_reducible assumption
    | with_reducible apply State.haltErr_held
    | with_reducible apply State.setCore_held
theorem submit_held {b : State} {u : UnitId} {n : Nat} {rd : RegNo} {rs1 : RegNo} {s : State} (h : Held b s) : Held b (submit u n rd rs1 s) := by
  unfold submit
  repeat' first
    | with_reducible assumption
    | (intro x; clear_value x)
    | (lift_lets; intro x; clear_value x)
    | with_reducible apply Held.ite
    | with_reducible apply State.trap_held
    | with_reducible apply State.spReadWs_held
    | with_reducible apply State.setCore_held
    | simp only [↓Held.mk_iff]
    | split
theorem execTsub_held (u : UnitId) (rd : RegNo) (rs1 : RegNo) (s : State) (z : State) (h : execTsub u rd rs1 s = .next z) : Held s z := Held.unit (submit_held (Held.refl _)) h
theorem dsub_held {b : State} {u : UnitId} {rd : RegNo} {rs1 : RegNo} {rs2 : RegNo} {s : State} (h : Held b s) : Held b (dsub u rd rs1 rs2 s) := submit_held h
theorem execDsub_held (u : UnitId) (rd : RegNo) (rs1 : RegNo) (rs2 : RegNo) (s : State) (z : State) (h : execDsub u rd rs1 rs2 s = .next z) : Held s z := Held.unit (dsub_held (Held.refl _)) h
theorem qwait_held {b : State} {u : UnitId} {rd : RegNo} {rs1 : RegNo} {rs2 : RegNo} {s : State} (h : Held b s) : Held b (qwait u rd rs1 rs2 s) := by
  unfold qwait
  repeat' first
    | with_reducible assumption
    | (intro x; clear_value x)
    | (lift_lets; intro x; clear_value x)
    | with_reducible apply Held.ite
    | with_reducible apply State.draw_held
    | with_reducible apply State.setCore_held
theorem execQwait_held (u : UnitId) (rd : RegNo) (rs1 : RegNo) (rs2 : RegNo) (s : State) (z : State) (h : execQwait u rd rs1 rs2 s = .next z) : Held s z := Held.unit (qwait_held (Held.refl _)) h
theorem qstat_held {b : State} {u : UnitId} {rd : RegNo} {rs1 : RegNo} {s : State} (h : Held b s) : Held b (qstat u rd rs1 s) := by
  unfold qstat
  repeat' first
    | with_reducible assumption
    | (intro x; clear_value x)
    | (lift_lets; intro x; clear_value x)
    | with_reducible apply Held.ite
    | with_reducible apply State.draw_held
    | with_reducible apply State.setCore_held
theorem execQstat_held (u : UnitId) (rd : RegNo) (rs1 : RegNo) (s : State) (z : State) (h : execQstat u rd rs1 s = .next z) : Held s z := Held.unit (qstat_held (Held.refl _)) h
theorem State.raDrop_held {b : State} {s : State} {u : UnitId} {p : RaData → Bool} (h : Held b s) : Held b (State.raDrop s u p) := by
  unfold State.raDrop
  repeat' first
    | with_reducible assumption
    | (intro x; refine Held.via (s := b) x ?_ (fun _ => ?_); rotate_left; clear_value x; rotate_right)
    | (intro x; clear_value x)
    | (lift_lets; intro x; clear_value x)
    | with_reducible apply Held.ite
    | with_reducible apply State.setCore_held
    | with_reducible apply State.countN_held
theorem State.raDiscard_held {b : State} {s : State} {u : UnitId} {ch : Nat} (h : Held b s) : Held b (State.raDiscard s u ch) := State.raDrop_held h
theorem qrst_held {b : State} {u : UnitId} {rs1 : RegNo} {s : State} (h : Held b s) : Held b (qrst u rs1 s) := by
  unfold qrst
  repeat' first
    | with_reducible assumption
    | (intro x; refine Held.via (s := b) x ?_ (fun _ => ?_); rotate_left; clear_value x; rotate_right)
    | (intro x; clear_value x)
    | (lift_lets; intro x; clear_value x)
    | with_reducible apply Held.ite
    | with_reducible apply State.setCore_held
    | with_reducible apply State.raDiscard_held
theorem execQrst_held (u : UnitId) (rs1 : RegNo) (s : State) (z : State) (h : execQrst u rs1 s = .next z) : Held s z := Held.unit (qrst_held (Held.refl _)) h
theorem dfence_held {b : State} {u : UnitId} {s : State} (h : Held b s) : Held b (dfence u s) := by
  unfold dfence
  repeat' first
    | with_reducible assumption
    | (lift_lets; intro x; clear_value x)
    | with_reducible apply Held.ite
    | with_reducible apply State.setCore_held
theorem execDfence_held (u : UnitId) (s : State) (z : State) (h : execDfence u s = .next z) : Held s z := Held.unit (dfence_held (Held.refl _)) h
theorem sigflush_held {b : State} {u : UnitId} {s : State} (h : Held b s) : Held b (sigflush u s) := by
  unfold sigflush
  repeat' first
    | with_reducible assumption
    | (lift_lets; intro x; clear_value x)
    | with_reducible apply Held.ite
    | with_reducible apply State.setCore_held
theorem execSigflush_held (u : UnitId) (s : State) (z : State) (h : execSigflush u s = .next z) : Held s z := Held.unit (sigflush_held (Held.refl _)) h
theorem pchk_held {b : State} {u : UnitId} {rd : RegNo} {s : State} (h : Held b s) : Held b (pchk u rd s) := by
  unfold pchk
  repeat' first
    | with_reducible assumption
    | with_reducible apply Held.ite
    | with_reducible apply State.setCore_held
theorem execPchk_held (u : UnitId) (rd : RegNo) (s : State) (z : State) (h : execPchk u rd s = .next z) : Held s z := Held.unit (pchk_held (Held.refl _)) h

end Sys2Proof.Machine
end

