-- ==== Sys2Proof/Laws/HeldDma.lean ====
section
/-! SUPPORT. What each function of Dma.lean leaves alone: the queue, FRC and the canonical form. -/

namespace Sys2Proof.Machine

theorem State.srcTimeout_held {b : State} {s : State} {die : Nat} {st : Nat} (h : Held b s) : Held b (State.srcTimeout s die st) := by
  unfold State.srcTimeout
  repeat' first
    | with_reducible assumption
    | with_reducible apply Held.ite
    | with_reducible apply State.setErr_held
    | with_reducible apply State.count_held
theorem State.dmaBlock_held {b : State} {s : State} {u : UnitId} {a : Nat} {n : Nat} (h : Held b s) : Held b (State.dmaBlock s u a n).2.2 := by
  unfold State.dmaBlock
  repeat' first
    | with_reducible assumption
    | with_reducible apply State.sramReadWords_held
    | with_reducible apply State.doRead_held
    | with_reducible apply State.srcTimeout_held
    | simp only [↓Held.mk_iff]
    | split
theorem State.dmaWords_held {b : State} {s : State} {u : UnitId} {ch : Nat} {ticket : BitVec 16} {a5 : Nat} {a6 : Nat} {a7 : Nat} (h : Held b s) : Held b (State.dmaWords s u ch ticket a5 a6 a7).2.2 := by
  fun_induction State.dmaWords s u ch ticket a5 a6 a7 <;>
  repeat' first
    | with_reducible assumption
    | with_reducible apply State.setCore_held
    | with_reducible apply State.dmaBlock_held
    | with_reducible apply_assumption -exfalso -symm
    | simp only [↓Held.mk_iff]
    | with_reducible refine Held.snd2 (by assumption) ?_
    | split
theorem State.dmaFetch_held {b : State} {s : State} {u : UnitId} {ch : Nat} {ticket : BitVec 16} {a : Nat} {n : Nat} (h : Held b s) : Held b (State.dmaFetch s u ch ticket a n).2.2 := by
  unfold State.dmaFetch
  repeat' first
    | with_reducible assumption
    | (lift_lets; intro x; clear_value x)
    | with_reducible apply State.dmaWords_held
theorem State.dmaWrite_held {b : State} {s : State} {u : UnitId} {a3 : Nat} {a4 : Nat} {a5 : List Byte} (h : Held b s) : Held b (State.dmaWrite s u a3 a4 a5).2.2 := by
  fun_induction State.dmaWrite s u a3 a4 a5 <;>
  repeat' first
    | with_reducible assumption
    | with_reducible apply State.sramWriteWords_held
    | with_reducible apply State.doWrite_held
    | with_reducible apply State.srcTimeout_held
    | with_reducible apply_assumption -exfalso -symm
    | simp only [↓Held.mk_iff]
    | with_reducible refine Held.snd (by with_reducible assumption) ?_
    | with_reducible refine Held.snd2 (by assumption) ?_
    | split
theorem State.ctxBusyBy_held {b : State} {s : State} {u : UnitId} {n : Nat} {ch : Nat} (h : Held b s) : Held b (State.ctxBusyBy s u n ch) := by
  unfold State.ctxBusyBy
  repeat' first
    | with_reducible assumption
    | (lift_lets; intro x; clear_value x)
    | with_reducible apply State.setCore_held
theorem State.chanFree_held {b : State} {s : State} {u : UnitId} {ch : Nat} (h : Held b s) : Held b (State.chanFree s u ch) := by
  unfold State.chanFree
  repeat' first
    | with_reducible assumption
    | (lift_lets; intro x; clear_value x)
    | with_reducible apply State.setCore_held
theorem State.ctxStart_held {b : State} {s : State} {u : UnitId} {n : Nat} {ws : List W32} {td : List W32} (h : Held b s) : Held b (State.ctxStart s u n ws td) := by
  unfold State.ctxStart
  repeat' first
    | with_reducible assumption
    | (intro x; clear_value x)
    | (lift_lets; intro x; clear_value x)
    | with_reducible refine Held.foldl ?_ (fun u x _ => ?_)
    | with_reducible apply State.setReg_held
theorem State.ctxCount_held {b : State} {s : State} {u : UnitId} {k : Nat} {ch : Nat} {ws : List W32} {td : List W32} {ix : Nat} {n : Nat} (h : Held b s) : Held b (State.ctxCount s u k ch ws td ix n) := by
  unfold State.ctxCount
  repeat' first
    | with_reducible assumption
    | (intro x; refine Held.via (s := b) x ?_ (fun _ => ?_); rotate_left; clear_value x; rotate_right)
    | (lift_lets; intro x; clear_value x)
    | with_reducible apply Held.ite
    | with_reducible apply State.ctxBusyBy_held
    | with_reducible apply State.setReg_held
    | with_reducible apply State.setErr_held
theorem State.sigElem_held {b : State} {s : State} {u : UnitId} {ch : Nat} {ws : List W32} {td : List W32} {ix : Nat} {n : Nat} (h : Held b s) : Held b (State.sigElem s u ch ws td ix n) := by
  unfold State.sigElem
  repeat' first
    | with_reducible assumption
    | with_reducible apply Held.ite
    | with_reducible apply State.ctxCount_held
    | with_reducible apply State.ctxStart_held
    | with_reducible apply State.setErr_held
    | split
theorem State.sigFeed_held {b : State} {s : State} {u : UnitId} {ch : Nat} {ws : List W32} {td : List W32} {ix : Nat} {a7 : List Nat} (h : Held b s) : Held b (State.sigFeed s u ch ws td ix a7) := by
  fun_induction State.sigFeed s u ch ws td ix a7 <;>
  repeat' first
    | with_reducible assumption
    | with_reducible apply State.sigElem_held
    | with_reducible apply_assumption -exfalso -symm
theorem State.rowRead_held {b : State} {s : State} {u : UnitId} {ch : Nat} {ticket : BitVec 16} {fmt : Nat} {a : Nat} {n : Nat} (h : Held b s) : Held b (State.rowRead s u ch ticket fmt a n).2 := by
  unfold State.rowRead
  repeat' first
    | with_reducible assumption
    | (lift_lets; intro x; clear_value x)
    | with_reducible apply State.dmaFetch_held
theorem State.wordRead_held {b : State} {s : State} {u : UnitId} {ch : Nat} {ticket : BitVec 16} {a : Nat} (h : Held b s) : Held b (State.wordRead s u ch ticket a).2.2 := State.dmaFetch_held h
theorem State.probe_held {b : State} {s : State} {u : UnitId} {ch : Nat} {ticket : BitVec 16} {table : Nat} {size : Nat} {key : W32} {a8 : Nat} {a9 : Nat} (h : Held b s) : Held b (State.probe s u ch ticket table size key a8 a9).2.2 := by
  fun_induction State.probe s u ch ticket table size key a8 a9 <;>
  repeat' first
    | with_reducible assumption
    | with_reducible apply State.wordRead_held
    | with_reducible apply_assumption -exfalso -symm
    | simp only [↓Held.mk_iff]
    | with_reducible refine Held.snd2 (by assumption) ?_
theorem State.rowIn_held {b : State} {s : State} {u : UnitId} {ch : Nat} {ticket : BitVec 16} {ws : List W32} {r : Nat} (h : Held b s) : Held b (State.rowIn s u ch ticket ws r).2.2 := by
  unfold State.rowIn
  repeat' first
    | with_reducible assumption
    | (intro x; refine Held.viaF (s := b) x (fun u k _ => ?_) (fun hf => ?_); rotate_left; clear_value x; rotate_right)
    | (intro x; clear_value x)
    | (lift_lets; intro x; clear_value x)
    | with_reducible apply Held.iteSnd2
    | with_reducible apply State.count_held
    | with_reducible apply State.rowRead_held
    | with_reducible apply State.wordRead_held
    | with_reducible apply State.probe_held
    | with_reducible apply hf
    | simp only [↓Held.mk_iff]
    | split
theorem State.dmaPeek_held {b : State} {s : State} {u : UnitId} {a : Nat} (h : Held b s) : Held b (State.dmaPeek s u a).2 := by
  unfold State.dmaPeek
  repeat' first
    | with_reducible assumption
    | with_reducible apply State.dmaBlock_held
theorem State.dmaPack_held {b : State} {s : State} {u : UnitId} {w : Nat} {dst : Nat} {ns : List Nat} (h : Held b s) : Held b (State.dmaPack s u w dst ns).2 := by
  unfold State.dmaPack
  repeat' first
    | with_reducible assumption
    | (lift_lets; intro x; clear_value x)
    | with_reducible apply Held.iteSnd
    | with_reducible apply State.dmaPeek_held
theorem State.dmaRow_held {b : State} {s : State} {u : UnitId} {ch : Nat} {ticket : BitVec 16} {ep : Nat} {ws : List W32} {td : List W32} {r : Nat} (h : Held b s) : Held b (State.dmaRow s u ch ticket ep ws td r).2 := by
  unfold State.dmaRow
  repeat' first
    | with_reducible assumption
    | (lift_lets; intro x; clear_value x)
    | with_reducible apply Held.ite
    | with_reducible apply Held.iteSnd
    | with_reducible apply State.rowIn_held
    | with_reducible apply State.arith_held
    | with_reducible apply State.setCore_held
    | with_reducible apply State.dmaPack_held
    | with_reducible apply State.dmaWrite_held
    | with_reducible apply State.sigFeed_held
theorem State.dmaRun_held {b : State} {s : State} {u : UnitId} {ch : Nat} {ticket : BitVec 16} {ep : Nat} {ws : List W32} {td : List W32} {a8 : Nat} {a9 : Nat} (h : Held b s) : Held b (State.dmaRun s u ch ticket ep ws td a8 a9).2.2 := by
  fun_induction State.dmaRun s u ch ticket ep ws td a8 a9 <;>
  repeat' first
    | with_reducible assumption
    | with_reducible apply State.dmaRow_held
    | with_reducible apply_assumption -exfalso -symm
    | simp only [↓Held.mk_iff]
    | with_reducible refine Held.snd (by with_reducible assumption) ?_
theorem State.tdRead_held {b : State} {s : State} {u : UnitId} {ws : List W32} (h : Held b s) : Held b (State.tdRead s u ws).2 := by
  unfold State.tdRead
  repeat' first
    | with_reducible assumption
    | with_reducible apply Held.iteSnd
    | with_reducible refine Held.foldlSnd ?_ (fun u x _ => ?_)
    | with_reducible apply State.spReadW_held
theorem State.dmaFail_held {b : State} {s : State} {u : UnitId} {ch : Nat} {cause : Nat} {ad : Nat} (h : Held b s) : Held b (State.dmaFail s u ch cause ad) := by
  unfold State.dmaFail
  repeat' first
    | with_reducible assumption
    | with_reducible apply State.qFail_held
    | with_reducible apply State.chanFree_held
theorem State.setRunning_held {b : State} {s : State} {u : UnitId} {ch : Nat} {d : Option DescRun} (h : Held b s) : Held b (State.setRunning s u ch d) := by
  unfold State.setRunning
  repeat' first
    | with_reducible assumption
    | (intro x; clear_value x)
    | (lift_lets; intro x; clear_value x)
    | with_reducible apply State.setCore_held
theorem State.dmaGo_held {b : State} {s : State} {u : UnitId} {ch : Nat} {d : DescRun} {td : List W32} (h : Held b s) : Held b (State.dmaGo s u ch d td) := by
  unfold State.dmaGo
  repeat' first
    | with_reducible assumption
    | (intro x; clear_value x)
    | (lift_lets; intro x; clear_value x)
    | with_reducible apply Held.ite
    | with_reducible apply State.dmaRun_held
    | with_reducible apply State.dmaFail_held
    | with_reducible apply State.setRunning_held
    | with_reducible apply State.count_held
theorem State.sigRefer_held {b : State} {s : State} {u : UnitId} {ch : Nat} {ws : List W32} {td : List W32} (h : Held b s) : Held b (State.sigRefer s u ch ws td) := by
  unfold State.sigRefer
  repeat' first
    | with_reducible assumption
    | with_reducible apply Held.ite
    | with_reducible apply State.ctxBusyBy_held
    | split
theorem State.dmaBegin_held {b : State} {s : State} {u : UnitId} {ch : Nat} {d : DescRun} (h : Held b s) : Held b (State.dmaBegin s u ch d) := by
  unfold State.dmaBegin
  repeat' first
    | with_reducible assumption
    | with_reducible apply Held.ite
    | with_reducible apply State.tdRead_held
    | with_reducible apply State.dmaFail_held
    | with_reducible apply State.setErr_held
    | with_reducible apply State.setRunning_held
    | with_reducible apply State.dmaGo_held
    | with_reducible apply State.sigRefer_held
    | simp only [↓Held.mk_iff]
    | split
theorem dmaStart_held {b : State} {kind : Nat} {u : UnitId} {ch : Nat} {s : State} (h : Held b s) : Held b (dmaStart kind u ch s) := by
  unfold dmaStart
  repeat' first
    | with_reducible assumption
    | (intro x; clear_value x)
    | (lift_lets; intro x; clear_value x)
    | with_reducible apply Held.ite
    | with_reducible apply State.dmaBegin_held
    | with_reducible apply State.setCore_held
    | with_reducible apply State.dmaFail_held
    | simp only [↓Held.mk_iff]
    | split
theorem execDmaCopy_held (u : UnitId) (ch : Nat) (s : State) (z : State) (h : execDmaCopy u ch s = .next z) : Held s z := Held.unit (dmaStart_held (Held.refl _)) h
theorem execDmaGather_held (u : UnitId) (ch : Nat) (s : State) (z : State) (h : execDmaGather u ch s = .next z) : Held s z := Held.unit (dmaStart_held (Held.refl _)) h
theorem execDmaHashgather_held (u : UnitId) (ch : Nat) (s : State) (z : State) (h : execDmaHashgather u ch s = .next z) : Held s z := Held.unit (dmaStart_held (Held.refl _)) h
theorem execDmaFill_held (u : UnitId) (ch : Nat) (s : State) (z : State) (h : execDmaFill u ch s = .next z) : Held s z := Held.unit (dmaStart_held (Held.refl _)) h
theorem contextTake_held {b : State} {u : UnitId} {ch : Nat} {s : State} (h : Held b s) : Held b (contextTake u ch s) := by
  unfold contextTake
  repeat' first
    | with_reducible assumption
    | with_reducible apply Held.ite
    | with_reducible apply State.dmaBegin_held
    | split
theorem execSignatureContextAcquire_held (u : UnitId) (ch : Nat) (s : State) (z : State) (h : execSignatureContextAcquire u ch s = .next z) : Held s z := Held.unit (contextTake_held (Held.refl _)) h
theorem dmaComplete_held {b : State} {u : UnitId} {ch : Nat} {s : State} (h : Held b s) : Held b (dmaComplete u ch s) := by
  unfold dmaComplete
  repeat' first
    | with_reducible assumption
    | (intro x; refine Held.via (s := b) x ?_ (fun _ => ?_); rotate_left; clear_value x; rotate_right)
    | (intro x; clear_value x)
    | (lift_lets; intro x; clear_value x)
    | with_reducible apply Held.ite
    | with_reducible apply State.raDrop_held
    | with_reducible apply State.chanFree_held
    | with_reducible apply State.setCore_held
    | split
theorem execDmaDescriptorComplete_held (u : UnitId) (ch : Nat) (s : State) (z : State) (h : execDmaDescriptorComplete u ch s = .next z) : Held s z := Held.unit (dmaComplete_held (Held.refl _)) h
theorem aheadResponse_held {b : State} {u : UnitId} {ch : Nat} {a : Nat} {n : Nat} {s : State} (h : Held b s) : Held b (aheadResponse u ch a n s) := by
  unfold aheadResponse
  repeat' first
    | with_reducible assumption
    | (intro x; clear_value x)
    | (lift_lets; intro x; clear_value x)
    | with_reducible apply Held.ite
    | with_reducible apply State.sramReadWords_held
    | with_reducible apply State.doRead_held
    | with_reducible apply State.setCore_held
    | simp only [↓Held.mk_iff]
    | split
theorem execRunaheadReadResponse_held (u : UnitId) (ch : Nat) (a : PAddr) (n : Nat) (s : State) (z : State) (h : execRunaheadReadResponse u ch a n s = .next z) : Held s z := Held.unit (aheadResponse_held (Held.refl _)) h

end Sys2Proof.Machine
end

