-- ==== Sys2Proof/Laws/HeldVector.lean ====
section
/-! SUPPORT. What each function of Vector.lean leaves alone: the queue, FRC and the canonical form. -/

namespace Sys2Proof.Machine

theorem State.gatherElems_held {b : State} {s : State} {u : UnitId} {size : Nat} {a4 : List Int} (h : Held b s) : Held b (State.gatherElems s u size a4).2 := by
  fun_induction State.gatherElems s u size a4 <;>
  repeat' first
    | with_reducible assumption
    | with_reducible apply State.spRead_held
    | with_reducible apply_assumption -exfalso -symm
    | simp only [↓Held.mk_iff]
    | with_reducible refine Held.snd (by with_reducible assumption) ?_
/-- What an instruction of the vector queue comes to leaves alone what a state does. -/
def MRes.Kept (b : State) : MRes → Prop
  | .done t => Held b t
  | .exc t _ _ => Held b t
theorem MRes.Kept.done {b t : State} (h : Held b t) : MRes.Kept b (.done t) := h
theorem MRes.Kept.exc {b t : State} {n : Nat} {v : W32} (h : Held b t) : MRes.Kept b (.exc t n v) := h
theorem MRes.Kept.ite {b : State} {c : Prop} [Decidable c] {x y : MRes} (h : MRes.Kept b x) (k : MRes.Kept b y) :
    MRes.Kept b (if c then x else y) := by
  split <;> assumption
theorem State.scatterAdd_held {b s t : State} {u : UnitId} {l : List (Int × W32)} {fl : Nat} (h : Held b s)
    (e : s.scatterAdd u l = some (t, fl)) : Held b t := by
  induction l generalizing s fl with
  | nil => simp only [State.scatterAdd, Option.some.injEq, Prod.mk.injEq] at e; exact e.1 ▸ h
  | cons a r ih =>
    simp only [State.scatterAdd] at e
    split at e
    · cases e
    · simp only [Option.map_eq_some_iff, Prod.mk.injEq] at e
      obtain ⟨⟨t', f'⟩, e1, rfl, e2⟩ := e
      refine ih (State.spWrite_held (Held.snd (by assumption) (State.spRead_held h))) e1
theorem vld_kept {b s : State} {a : MArgs} (h : Held b s) : MRes.Kept b (vld a s) := by
  unfold vld
  repeat' first
    | with_reducible assumption
    | (lift_lets; intro x; refine Held.via (s := b) x ?_ (fun _ => ?_); rotate_left; clear_value x; rotate_right)
    | (lift_lets; intro x; clear_value x)
    | with_reducible apply MRes.Kept.ite
    | with_reducible apply MRes.Kept.done
    | with_reducible apply MRes.Kept.exc
    | with_reducible apply Held.iteSnd
    | with_reducible apply State.arith_held
    | with_reducible apply State.setCore_held
    | with_reducible apply State.spRead_held
    | with_reducible refine Held.snd (by with_reducible assumption) ?_
    | split
theorem vst_kept {b s : State} {a : MArgs} (h : Held b s) : MRes.Kept b (vst a s) := by
  unfold vst
  repeat' first
    | with_reducible assumption
    | (lift_lets; intro x; refine Held.via (s := b) x ?_ (fun _ => ?_); rotate_left; clear_value x; rotate_right)
    | (lift_lets; intro x; clear_value x)
    | with_reducible apply MRes.Kept.ite
    | with_reducible apply MRes.Kept.done
    | with_reducible apply MRes.Kept.exc
    | with_reducible apply Held.iteSnd
    | with_reducible apply State.arith_held
    | with_reducible apply State.spWrite_held
    | with_reducible apply State.setCore_held
    | with_reducible refine Held.snd (by with_reducible assumption) ?_
    | split
theorem vldg_kept {b s : State} {a : MArgs} (h : Held b s) : MRes.Kept b (vldg a s) := by
  unfold vldg
  repeat' first
    | with_reducible assumption
    | (lift_lets; intro x; refine Held.via (s := b) x ?_ (fun _ => ?_); rotate_left; clear_value x; rotate_right)
    | (lift_lets; intro x; clear_value x)
    | with_reducible apply MRes.Kept.ite
    | with_reducible apply MRes.Kept.done
    | with_reducible apply MRes.Kept.exc
    | with_reducible apply Held.iteSnd
    | with_reducible apply State.setCore_held
    | with_reducible apply State.gatherElems_held
    | with_reducible refine Held.snd (by with_reducible assumption) ?_
    | split
theorem vsta_kept {b s : State} {a : MArgs} (h : Held b s) : MRes.Kept b (vsta a s) := by
  unfold vsta
  repeat' first
    | with_reducible assumption
    | (lift_lets; intro x; refine Held.via (s := b) x ?_ (fun _ => ?_); rotate_left; clear_value x; rotate_right)
    | (lift_lets; intro x; clear_value x)
    | with_reducible apply MRes.Kept.ite
    | with_reducible apply MRes.Kept.done
    | with_reducible apply MRes.Kept.exc
    | with_reducible apply Held.iteSnd
    | with_reducible apply State.arith_held
    | with_reducible apply (State.scatterAdd_held (h := ?_) (e := by with_reducible assumption))
    | with_reducible apply State.gatherElems_held
    | with_reducible refine Held.snd (by with_reducible assumption) ?_
    | split
theorem vacc_kept {b s : State} {a : MArgs} (h : Held b s) : MRes.Kept b (vacc a s) := by
  unfold vacc
  repeat' first
    | with_reducible assumption
    | (lift_lets; intro x; refine Held.via (s := b) x ?_ (fun _ => ?_); rotate_left; clear_value x; rotate_right)
    | (lift_lets; intro x; clear_value x)
    | with_reducible apply MRes.Kept.ite
    | with_reducible apply MRes.Kept.done
    | with_reducible apply MRes.Kept.exc
    | with_reducible apply Held.iteSnd
    | with_reducible apply State.setCore_held
    | with_reducible refine Held.snd (by with_reducible assumption) ?_
    | split
theorem vcvt_kept {b s : State} {a : MArgs} (h : Held b s) : MRes.Kept b (vcvt a s) := by
  unfold vcvt
  repeat' first
    | with_reducible assumption
    | (lift_lets; intro x; refine Held.via (s := b) x ?_ (fun _ => ?_); rotate_left; clear_value x; rotate_right)
    | (lift_lets; intro x; clear_value x)
    | with_reducible apply MRes.Kept.ite
    | with_reducible apply MRes.Kept.done
    | with_reducible apply MRes.Kept.exc
    | with_reducible apply Held.iteSnd
    | with_reducible apply State.arith_held
    | with_reducible apply State.setCore_held
    | with_reducible refine Held.snd (by with_reducible assumption) ?_
    | split
theorem mEff_kept {b s : State} {a : MArgs} {f3 : Nat} (h : Held b s) : MRes.Kept b (mEff a f3 s) := by
  unfold mEff
  split
  · exact vld_kept h
  · exact vst_kept h
  · exact vldg_kept h
  · exact vsta_kept h
  · exact vacc_kept h
  · exact vcvt_kept h
theorem State.vPerform_kept {b s : State} {u : UnitId} {op : VOp} (h : Held b s) : MRes.Kept b (s.vPerform u op) := by
  cases op with
  | v => exact MRes.Kept.done (State.arith_held (State.setCore_held h))
  | m => exact mEff_kept h
  | sets => exact MRes.Kept.done (State.setCore_held h)
theorem State.vTurn_kept {b s : State} {u : UnitId} {i : VItem} (h : Held b s) : MRes.Kept b (s.vTurn u i) := by
  unfold State.vTurn
  lift_lets
  intro c c1 x2 c2 back
  have hb : ∀ t, Held b t → Held b (back t) := fun t k => State.setCore_held k
  have hp := State.vPerform_kept (op := i.op) (u := u) (State.setCore_held (u := u) (c := c2) h)
  clear_value back c2
  split
  next t e => rw [e] at hp; exact MRes.Kept.done (hb t hp)
  next t k v e => rw [e] at hp; exact MRes.Kept.exc (hb t hp)
theorem State.vEnter_held {b s : State} {u : UnitId} {op : VOp} (h : Held b s) : Held b (s.vEnter u op) := by
  unfold State.vEnter
  lift_lets; intro c; clear_value c
  refine Held.ite h (Held.ite (State.setCore_held h) ?_)
  have hp := State.vPerform_kept (u := u) (op := op) h
  split
  next t e => rw [e] at hp; exact State.setCore_held hp
  next t k v e => rw [e] at hp; exact State.trap_held hp
theorem State.vIssue_held {b : State} {s : State} {a : VArgs} {op : Nat} (h : Held b s) : Held b (State.vIssue s a op) := by
  unfold State.vIssue
  repeat' first
    | with_reducible assumption
    | with_reducible apply Held.ite
    | with_reducible apply State.illegal_held
    | with_reducible apply State.vEnter_held
theorem State.mIssue_held {b : State} {s : State} {a : MArgs} {f3 : Nat} {fmtOk : Nat → Bool} (h : Held b s) : Held b (State.mIssue s a f3 fmtOk) := by
  unfold State.mIssue
  repeat' first
    | with_reducible assumption
    | with_reducible apply Held.ite
    | with_reducible apply State.illegal_held
    | with_reducible apply State.vEnter_held
theorem execVadd_held (a : VArgs) (s : State) (z : State) (h : execVadd a s = .next z) : Held s z := Held.unit (State.vIssue_held (Held.refl _)) h
theorem execVsub_held (a : VArgs) (s : State) (z : State) (h : execVsub a s = .next z) : Held s z := Held.unit (State.vIssue_held (Held.refl _)) h
theorem execVmul_held (a : VArgs) (s : State) (z : State) (h : execVmul a s = .next z) : Held s z := Held.unit (State.vIssue_held (Held.refl _)) h
theorem execVfma_held (a : VArgs) (s : State) (z : State) (h : execVfma a s = .next z) : Held s z := Held.unit (State.vIssue_held (Held.refl _)) h
theorem execVmin_held (a : VArgs) (s : State) (z : State) (h : execVmin a s = .next z) : Held s z := Held.unit (State.vIssue_held (Held.refl _)) h
theorem execVmax_held (a : VArgs) (s : State) (z : State) (h : execVmax a s = .next z) : Held s z := Held.unit (State.vIssue_held (Held.refl _)) h
theorem execVclt_held (a : VArgs) (s : State) (z : State) (h : execVclt a s = .next z) : Held s z := Held.unit (State.vIssue_held (Held.refl _)) h
theorem execVceq_held (a : VArgs) (s : State) (z : State) (h : execVceq a s = .next z) : Held s z := Held.unit (State.vIssue_held (Held.refl _)) h
theorem execVsel_held (a : VArgs) (s : State) (z : State) (h : execVsel a s = .next z) : Held s z := Held.unit (State.vIssue_held (Held.refl _)) h
theorem execVexp_held (a : VArgs) (s : State) (z : State) (h : execVexp a s = .next z) : Held s z := Held.unit (State.vIssue_held (Held.refl _)) h
theorem execVlog_held (a : VArgs) (s : State) (z : State) (h : execVlog a s = .next z) : Held s z := Held.unit (State.vIssue_held (Held.refl _)) h
theorem execVrcp_held (a : VArgs) (s : State) (z : State) (h : execVrcp a s = .next z) : Held s z := Held.unit (State.vIssue_held (Held.refl _)) h
theorem execVrsqrt_held (a : VArgs) (s : State) (z : State) (h : execVrsqrt a s = .next z) : Held s z := Held.unit (State.vIssue_held (Held.refl _)) h
theorem execVrsum_held (a : VArgs) (s : State) (z : State) (h : execVrsum a s = .next z) : Held s z := Held.unit (State.vIssue_held (Held.refl _)) h
theorem execVrmax_held (a : VArgs) (s : State) (z : State) (h : execVrmax a s = .next z) : Held s z := Held.unit (State.vIssue_held (Held.refl _)) h
theorem execVbcast_held (a : VArgs) (s : State) (z : State) (h : execVbcast a s = .next z) : Held s z := Held.unit (State.vIssue_held (Held.refl _)) h
theorem execVld_held (a : MArgs) (s : State) (z : State) (h : execVld a s = .next z) : Held s z := Held.unit (State.mIssue_held (Held.refl _)) h
theorem execVst_held (a : MArgs) (s : State) (z : State) (h : execVst a s = .next z) : Held s z := Held.unit (State.mIssue_held (Held.refl _)) h
theorem execVldg_held (a : MArgs) (s : State) (z : State) (h : execVldg a s = .next z) : Held s z := Held.unit (State.mIssue_held (Held.refl _)) h
theorem execVsta_held (a : MArgs) (s : State) (z : State) (h : execVsta a s = .next z) : Held s z := Held.unit (State.mIssue_held (Held.refl _)) h
theorem execVacc_held (a : MArgs) (s : State) (z : State) (h : execVacc a s = .next z) : Held s z := Held.unit (State.mIssue_held (Held.refl _)) h
theorem execVcvt_held (a : MArgs) (s : State) (z : State) (h : execVcvt a s = .next z) : Held s z := Held.unit (State.mIssue_held (Held.refl _)) h
theorem vsets_held {b : State} {u : UnitId} {fs1 : RegNo} {s : State} (h : Held b s) : Held b (vsets u fs1 s) := by
  unfold vsets
  repeat' first
    | with_reducible assumption
    | with_reducible apply Held.ite
    | with_reducible apply State.vEnter_held
theorem execVsets_held (u : UnitId) (fs1 : RegNo) (s : State) (z : State) (h : execVsets u fs1 s = .next z) : Held s z := Held.unit (vsets_held (Held.refl _)) h
theorem vecComplete_held {b s : State} {u : UnitId} (h : Held b s) : Held b (vecComplete u s) := by
  unfold vecComplete
  lift_lets; intro leave
  have ho : ∀ t, Held b t → Held b (leave t) := fun t k => State.setCore_held k
  clear_value leave
  split
  · exact h
  · refine Held.ite (ho s h) (Held.ite h ?_)
    next i _ _ =>
    have hp := State.vTurn_kept (u := u) (i := i) h
    split
    next t e => rw [e] at hp; exact ho t hp
    next t k v e => rw [e] at hp; exact State.trap_held (State.setCore_held hp)
theorem execVectorInstructionComplete_held (u : UnitId) (s : State) (z : State) (h : execVectorInstructionComplete u s = .next z) : Held s z := Held.unit (vecComplete_held (Held.refl _)) h

end Sys2Proof.Machine
end

