-- ==== Sys2Proof/Laws/HeldScalar.lean ====
section
/-! SUPPORT. What each function of Scalar.lean leaves alone: the queue, FRC and the canonical form. -/

namespace Sys2Proof.Machine

theorem State.toX_held {b : State} {s : State} {u : UnitId} {rd : RegNo} {v : W32} (h : Held b s) : Held b (State.toX s u rd v) := State.setCore_held h
theorem State.toF_held {b : State} {s : State} {u : UnitId} {rd : RegNo} {v : W32} (h : Held b s) : Held b (State.toF s u rd v) := State.setCore_held h
theorem State.pass_held {b : State} {s : State} {u : UnitId} (h : Held b s) : Held b (State.pass s u) := State.setCore_held h
theorem State.jump_held {b : State} {s : State} {u : UnitId} {rd : RegNo} {target : W32} (h : Held b s) : Held b (State.jump s u rd target) := by
  unfold State.jump
  repeat' first
    | with_reducible assumption
    | (intro x; clear_value x)
    | (lift_lets; intro x; clear_value x)
    | with_reducible apply Held.ite
    | with_reducible apply State.trap_held
    | with_reducible apply State.setCore_held
theorem State.seqLoad_held {b : State} {s : State} {u : UnitId} {a : Nat} {n : Nat} (h : Held b s) : Held b (State.seqLoad s u a n).2 := by
  unfold State.seqLoad
  repeat' first
    | with_reducible assumption
    | with_reducible apply Held.iteSnd
    | with_reducible apply State.spRead_held
    | with_reducible apply State.read_held
    | simp only [↓Held.mk_iff]
    | split
theorem State.seqStore_held {b : State} {s : State} {u : UnitId} {a : Nat} {n : Nat} {v : Nat} (h : Held b s) : Held b (State.seqStore s u a n v).2 := by
  unfold State.seqStore
  repeat' first
    | with_reducible assumption
    | with_reducible apply Held.iteSnd
    | with_reducible apply State.spWrite_held
    | with_reducible apply State.regWriteW_held
    | simp only [↓Held.mk_iff]
    | split
theorem State.load_held {b : State} {s : State} {u : UnitId} {a : W32} {n : Nat} {wr : State → Nat → State} (h : Held b s) (hf : ∀ u n, Held b u → Held b (wr u n)) : Held b (State.load s u a n wr) := by
  unfold State.load
  repeat' first
    | with_reducible assumption
    | with_reducible apply State.seqLoad_held
    | with_reducible apply State.trap_held
    | with_reducible apply hf
    | with_reducible refine Held.snd (by with_reducible assumption) ?_
    | split
theorem State.store_held {b : State} {s : State} {u : UnitId} {a : W32} {n : Nat} {v : W32} (h : Held b s) : Held b (State.store s u a n v) := by
  unfold State.store
  repeat' first
    | with_reducible assumption
    | with_reducible apply State.seqStore_held
    | with_reducible apply State.pass_held
    | with_reducible apply State.trap_held
    | with_reducible refine Held.snd (by with_reducible assumption) ?_
    | split
theorem seqLoads_held {b : State} {u : UnitId} {w : W32} {s : State} (h : Held b s) : Held b (seqLoads u w s) := by
  unfold seqLoads
  repeat' first
    | with_reducible assumption
    | (intro x; clear_value x)
    | (lift_lets; intro x; clear_value x)
    | with_reducible apply State.load_held
    | with_reducible apply State.toX_held
    | with_reducible apply State.illegal_held
    | split
    | (intro _; intros)
theorem seqStores_held {b : State} {u : UnitId} {w : W32} {s : State} (h : Held b s) : Held b (seqStores u w s) := by
  unfold seqStores
  repeat' first
    | with_reducible assumption
    | (intro x; clear_value x)
    | (lift_lets; intro x; clear_value x)
    | with_reducible apply State.store_held
    | with_reducible apply State.illegal_held
    | split
theorem Held.optIte {α : Type} {b : State} {c : Prop} [Decidable c] {x y : Option (α × State)} (h : ∀ v t, x = some (v, t) → Held b t)
    (k : ∀ v t, y = some (v, t) → Held b t) : ∀ v t, (if c then x else y) = some (v, t) → Held b t := by
  split <;> assumption
theorem Held.optSome {α : Type} {b s : State} {x : α} (h : Held b s) : ∀ v t, some (x, s) = some (v, t) → Held b t := by
  intro v t e; cases e; exact h
theorem State.csrRead_some {b s t : State} {u : UnitId} {n : Nat} {v : W32} (e : s.csrRead u n = some (v, t)) (h : Held b s) : Held b t := by
  refine (?_ : ∀ v t, s.csrRead u n = some (v, t) → Held b t) v t e
  unfold State.csrRead
  repeat' first
    | with_reducible apply Held.optIte
    | with_reducible exact Held.optSome h
    | exact Held.optSome (State.repCount_held h)
    | (intro v t e; cases e)
theorem seqCsr_held {b : State} {u : UnitId} {w : W32} {s : State} (h : Held b s) : Held b (seqCsr u w s) := by
  unfold seqCsr
  repeat' first
    | with_reducible assumption
    | (intro x; clear_value x)
    | (lift_lets; intro x; clear_value x)
    | with_reducible apply Held.ite
    | with_reducible apply State.illegal_held
    | with_reducible refine State.csrRead_some (by with_reducible assumption) ?_
    | with_reducible apply State.setCore_held
    | simp only [↓Held.mk_iff]
    | split
theorem seqSystem_held {b : State} {u : UnitId} {w : W32} {s : State} (h : Held b s) : Held b (seqSystem u w s) := by
  unfold seqSystem
  repeat' first
    | with_reducible assumption
    | (intro x; clear_value x)
    | (lift_lets; intro x; clear_value x)
    | with_reducible apply Held.ite
    | with_reducible apply seqCsr_held
    | with_reducible apply State.trap_held
    | with_reducible apply State.setCore_held
    | with_reducible apply State.illegal_held
theorem State.fDone_held {b : State} {s : State} {u : UnitId} {rd : RegNo} {r : FRes} (h : Held b s) : Held b (State.fDone s u rd r) := State.setCore_held h
theorem State.xDone_held {b : State} {s : State} {u : UnitId} {rd : RegNo} {r : FRes} (h : Held b s) : Held b (State.xDone s u rd r) := State.setCore_held h
theorem seqFma_held {b : State} {u : UnitId} {w : W32} {s : State} (h : Held b s) : Held b (seqFma u w s) := by
  unfold seqFma
  repeat' first
    | with_reducible assumption
    | (intro x; clear_value x)
    | (lift_lets; intro x; clear_value x)
    | with_reducible apply State.fDone_held
    | with_reducible apply State.illegal_held
    | split
theorem seqFp_held {b : State} {u : UnitId} {w : W32} {s : State} (h : Held b s) : Held b (seqFp u w s) := by
  unfold seqFp
  repeat' first
    | with_reducible assumption
    | (intro x; refine Held.viaR (s := b) x (fun g hg1 => ?_) (fun hr => ?_); rotate_left; clear_value x; rotate_right)
    | (intro x; clear_value x)
    | (lift_lets; intro x; clear_value x)
    | with_reducible apply Held.ite
    | with_reducible apply State.illegal_held
    | with_reducible apply State.fDone_held
    | with_reducible apply State.toF_held
    | with_reducible apply State.xDone_held
    | with_reducible apply State.toX_held
    | with_reducible apply hr
    | with_reducible apply hg1
    | unfold x
    | split
    | (intro _; intros)
theorem outState_held {b s : State} {o : Out} (h : Held b s) (k : ∀ z, o = .next z → Held s z) : Held b (outState s o) := by
  cases o with
  | next t => exact h.trans (k t rfl)
  | fault => exact h
  | refused => exact h
theorem seqCheckin_held {b : State} {u : UnitId} {rs1 : RegNo} {s : State} (h : Held b s) : Held b (seqCheckin u rs1 s) := by
  unfold seqCheckin
  repeat' first
    | with_reducible assumption
    | with_reducible apply State.sendMsg_held
    | with_reducible apply State.pass_held
theorem seqQ_held {b : State} {u : UnitId} {w : W32} {s : State} (h : Held b s) : Held b (seqQ u w s) := by
  unfold seqQ
  repeat' first
    | with_reducible assumption
    | with_reducible apply Held.ite
    | with_reducible apply State.illegal_held
    | with_reducible apply submit_held
    | with_reducible apply dsub_held
    | with_reducible apply qwait_held
    | with_reducible apply qstat_held
    | with_reducible apply qrst_held
    | split
theorem seqV_held {b : State} {u : UnitId} {w : W32} {s : State} (h : Held b s) : Held b (seqV u w s) := by
  unfold seqV
  dsimp only
  split
  · exact outState_held h (execVadd_held _ _)
  · exact outState_held h (execVsub_held _ _)
  · exact outState_held h (execVmul_held _ _)
  · exact outState_held h (execVfma_held _ _)
  · exact outState_held h (execVmin_held _ _)
  · exact outState_held h (execVmax_held _ _)
  · exact outState_held h (execVclt_held _ _)
  · exact outState_held h (execVceq_held _ _)
  · exact outState_held h (execVsel_held _ _)
  · exact outState_held h (execVexp_held _ _)
  · exact outState_held h (execVlog_held _ _)
  · exact outState_held h (execVrcp_held _ _)
  · exact outState_held h (execVrsqrt_held _ _)
  · exact outState_held h (execVrsum_held _ _)
  · exact outState_held h (execVrmax_held _ _)
  · exact outState_held h (execVbcast_held _ _)
  · exact State.illegal_held h
theorem seqM_held {b : State} {u : UnitId} {w : W32} {s : State} (h : Held b s) : Held b (seqM u w s) := by
  unfold seqM
  dsimp only
  split
  · exact outState_held h (execVld_held _ _)
  · exact outState_held h (execVst_held _ _)
  · exact outState_held h (execVldg_held _ _)
  · exact outState_held h (execVsta_held _ _)
  · exact outState_held h (execVacc_held _ _)
  · exact outState_held h (execVcvt_held _ _)
  · exact State.illegal_held h
theorem seqS_held {b : State} {u : UnitId} {w : W32} {s : State} (h : Held b s) : Held b (seqS u w s) := by
  unfold seqS
  repeat' first
    | with_reducible assumption
    | with_reducible apply Held.ite
    | with_reducible apply State.illegal_held
    | with_reducible apply dfence_held
    | with_reducible apply vsets_held
    | with_reducible apply seqCheckin_held
    | with_reducible apply sigflush_held
    | with_reducible apply pchk_held
    | split
theorem seqOpImm_held {b : State} {u : UnitId} {w : W32} {s : State} (h : Held b s) : Held b (seqOpImm u w s) := by
  unfold seqOpImm
  repeat' first
    | with_reducible assumption
    | (lift_lets; intro x; clear_value x)
    | with_reducible apply Held.ite
    | with_reducible apply State.toX_held
    | with_reducible apply State.illegal_held
    | split
theorem seqOp_held {b : State} {u : UnitId} {w : W32} {s : State} (h : Held b s) : Held b (seqOp u w s) := by
  unfold seqOp
  repeat' first
    | with_reducible assumption
    | (intro x; clear_value x)
    | (lift_lets; intro x; clear_value x)
    | with_reducible apply Held.ite
    | with_reducible apply State.toX_held
    | with_reducible apply State.illegal_held
theorem seqRun_held {b : State} {u : UnitId} {w : W32} {s : State} (h : Held b s) : Held b (seqRun u w s) := by
  unfold seqRun
  repeat' first
    | with_reducible assumption
    | (lift_lets; intro x; clear_value x)
    | with_reducible apply Held.ite
    | with_reducible apply State.toX_held
    | with_reducible apply State.jump_held
    | with_reducible apply State.illegal_held
    | with_reducible apply State.pass_held
    | with_reducible apply seqLoads_held
    | with_reducible apply seqStores_held
    | with_reducible apply seqOpImm_held
    | with_reducible apply seqOp_held
    | with_reducible apply seqSystem_held
    | with_reducible apply State.load_held
    | with_reducible apply State.toF_held
    | with_reducible apply State.store_held
    | with_reducible apply seqFma_held
    | with_reducible apply seqFp_held
    | with_reducible apply seqQ_held
    | with_reducible apply seqV_held
    | with_reducible apply seqM_held
    | with_reducible apply seqS_held
    | split
    | (intro _; intros)
theorem scalarInstruction_held {b : State} {u : UnitId} {w : W32} {s : State} (h : Held b s) : Held b (scalarInstruction u w s) := by
  unfold scalarInstruction
  repeat' first
    | with_reducible assumption
    | with_reducible apply Held.ite
    | with_reducible apply State.trap_held
    | with_reducible apply seqRun_held
theorem execScalarInstruction_held (core : UnitId) (word : W32) (s : State) (z : State) (h : execScalarInstruction core word s = .next z) : Held s z := Held.unit (scalarInstruction_held (Held.refl _)) h

end Sys2Proof.Machine
end

