-- ==== Sys2Proof/Laws/HeldScan.lean ====
section
/-! SUPPORT. What each function of Scan.lean leaves alone: the queue, FRC and the canonical form. -/

namespace Sys2Proof.Machine

theorem State.tapLoad_held {b : State} {s : State} {t : Nat} {ir : Nat} {dr : Nat} (h : Held b s) : Held b (State.tapLoad s t ir dr) := by
  unfold State.tapLoad
  repeat' first
    | with_reducible assumption
    | (intro x; refine Held.via (s := b) x ?_ (fun _ => ?_); rotate_left; clear_value x; rotate_right)
    | (lift_lets; intro x; clear_value x)
    | with_reducible apply Held.ite
    | unfold x
    | simp only [↓Held.mk_iff]
theorem tapReset_held {b : State} {t : Nat} {s : State} (h : Held b s) : Held b (tapReset t s) := State.tapLoad_held h
theorem execTapReset_held (t : Nat) (s : State) (z : State) (h : execTapReset t s = .next z) : Held s z := Held.unit (tapReset_held (Held.refl _)) h
theorem execIdcode_held (t : Nat) (s : State) (z : State) (h : execIdcode t s = .next z) : Held s z := Held.unit (State.tapLoad_held (Held.refl _)) h
theorem samplePreload_held {b : State} {t : Nat} {cells : Nat} {s : State} (h : Held b s) : Held b (samplePreload t cells s) := by
  unfold samplePreload
  repeat' first
    | with_reducible assumption
    | (lift_lets; intro x; clear_value x)
    | with_reducible apply Held.ite
    | with_reducible apply State.drawNat_held
    | with_reducible apply State.tapLoad_held
    | simp only [↓Held.mk_iff]
theorem execSamplePreload_held (t : Nat) (cells : Nat) (s : State) (z : State) (h : execSamplePreload t cells s = .next z) : Held s z := Held.unit (samplePreload_held (Held.refl _)) h
theorem State.tapBoundary_held {b : State} {s : State} {t : Nat} {ir : Nat} (h : Held b s) : Held b (State.tapBoundary s t ir) := by
  unfold State.tapBoundary
  repeat' first
    | with_reducible assumption
    | with_reducible apply State.drawNat_held
    | with_reducible apply State.tapLoad_held
theorem execExtest_held (t : Nat) (s : State) (z : State) (h : execExtest t s = .next z) : Held s z := Held.unit (State.tapBoundary_held (Held.refl _)) h
theorem State.tapAc_held {b : State} {s : State} {t : Nat} {ir : Nat} (h : Held b s) : Held b (State.tapAc s t ir) := by
  unfold State.tapAc
  repeat' first
    | with_reducible assumption
    | with_reducible apply Held.ite
    | with_reducible apply State.tapBoundary_held
    | with_reducible apply State.tapLoad_held
theorem execExtestPulse_held (t : Nat) (s : State) (z : State) (h : execExtestPulse t s = .next z) : Held s z := Held.unit (State.tapAc_held (Held.refl _)) h
theorem execExtestTrain_held (t : Nat) (s : State) (z : State) (h : execExtestTrain t s = .next z) : Held s z := Held.unit (State.tapAc_held (Held.refl _)) h
theorem execClamp_held (t : Nat) (s : State) (z : State) (h : execClamp t s = .next z) : Held s z := Held.unit (State.tapLoad_held (Held.refl _)) h
theorem execHighz_held (t : Nat) (s : State) (z : State) (h : execHighz t s = .next z) : Held s z := Held.unit (State.tapLoad_held (Held.refl _)) h
theorem execBypass_held (t : Nat) (s : State) (z : State) (h : execBypass t s = .next z) : Held s z := Held.unit (State.tapLoad_held (Held.refl _)) h
theorem debugAccess_held {b : State} {t : Nat} {op : Nat} {s : State} (h : Held b s) : Held b (debugAccess t op s) := by
  unfold debugAccess
  repeat' first
    | with_reducible assumption
    | with_reducible apply Held.ite
    | with_reducible apply State.tapLoad_held
theorem execDebugAccess_held (t : Nat) (op : BitVec 2) (s : State) (z : State) (h : execDebugAccess t op s = .next z) : Held s z := Held.unit (debugAccess_held (Held.refl _)) h
theorem serviceGrant_held {b : State} {s : State} (h : Held b s) : Held b (serviceGrant s) := by
  unfold serviceGrant
  repeat' first
    | with_reducible assumption
    | with_reducible apply Held.ite
    | simp only [↓Held.mk_iff]
theorem execServiceAccessGrant_held (s : State) (z : State) (h : execServiceAccessGrant s = .next z) : Held s z := Held.next (serviceGrant_held (Held.refl _)) h
theorem serviceEnd_held {b : State} {s : State} (h : Held b s) : Held b (serviceEnd s) := by
  unfold serviceEnd
  repeat' first
    | with_reducible assumption
    | with_reducible apply Held.ite
    | simp only [↓Held.mk_iff]
theorem execServiceAccessEnd_held (s : State) (z : State) (h : execServiceAccessEnd s = .next z) : Held s z := Held.next (serviceEnd_held (Held.refl _)) h

end Sys2Proof.Machine
end

