-- ==== Sys2Proof/Laws/HeldTensor.lean ====
section
/-! SUPPORT. What each function of Tensor.lean leaves alone: the queue, FRC and the canonical form. -/

namespace Sys2Proof.Machine

theorem State.spRing_held {b : State} {s : State} {u : UnitId} {size : Nat} {off : Nat} {n : Nat} (h : Held b s) : Held b (State.spRing s u size off n).2 := by
  unfold State.spRing
  repeat' first
    | with_reducible assumption
    | (lift_lets; intro x; clear_value x)
    | with_reducible apply Held.iteSnd
    | with_reducible refine Held.snd (by with_reducible assumption) ?_
    | split
    | with_reducible apply State.spRead_held
theorem State.spRow_held {b : State} {s : State} {u : UnitId} {off : Nat} {n : Nat} (h : Held b s) : Held b (State.spRow s u off n).2 := State.spRing_held h
theorem State.spRows_held {b : State} {s : State} {u : UnitId} {base : Nat} {stride : Nat} {n : Nat} {a6 : Nat} (h : Held b s) : Held b (State.spRows s u base stride n a6).2 := by
  fun_induction State.spRows s u base stride n a6 <;>
  repeat' first
    | with_reducible assumption
    | with_reducible apply State.spRow_held
    | with_reducible apply_assumption -exfalso -symm
    | simp only [↓Held.mk_iff]
    | with_reducible refine Held.snd (by with_reducible assumption) ?_
theorem State.tensorRead_held {b : State} {s : State} {u : UnitId} {ws : List W32} (h : Held b s) : Held b (State.tensorRead s u ws).2 := by
  unfold State.tensorRead
  repeat' first
    | with_reducible assumption
    | (intro x; clear_value x)
    | (lift_lets; intro x; clear_value x)
    | with_reducible apply Held.iteSnd
    | with_reducible refine Held.snd (by with_reducible assumption) ?_
    | split
    | with_reducible apply State.spRows_held
theorem tensorStart_held {b : State} {u : UnitId} {s : State} (h : Held b s) : Held b (tensorStart u s) := by
  unfold tensorStart
  repeat' first
    | with_reducible assumption
    | (intro x; refine Held.via (s := b) x ?_ (fun _ => ?_); rotate_left; clear_value x; rotate_right)
    | (intro x; clear_value x)
    | (lift_lets; intro x; clear_value x)
    | with_reducible apply Held.ite
    | with_reducible apply State.qFail_held
    | with_reducible apply State.setCore_held
    | with_reducible apply State.tensorRead_held
    | with_reducible apply State.arith_held
    | simp only [↓Held.mk_iff]
    | split
theorem execTensorOpStart_held (u : UnitId) (s : State) (z : State) (h : execTensorOpStart u s = .next z) : Held s z := Held.unit (tensorStart_held (Held.refl _)) h
theorem State.writeTile_held {b : State} {s : State} {u : UnitId} {d : DescRun} {a4 : Nat} (h : Held b s) : Held b (State.writeTile s u d a4) := by
  fun_induction State.writeTile s u d a4 <;>
  repeat' first
    | with_reducible assumption
    | with_reducible apply State.setCore_held
    | with_reducible apply State.spWrite_held
    | with_reducible apply State.arith_held
    | with_reducible apply_assumption -exfalso -symm
theorem State.writtenOut_held {b : State} {s : State} {u : UnitId} {d : DescRun} (h : Held b s) : Held b (State.writtenOut s u d) := by
  unfold State.writtenOut
  repeat' first
    | with_reducible assumption
    | with_reducible apply Held.ite
    | with_reducible apply State.writeTile_held
theorem tensorComplete_held {b : State} {u : UnitId} {s : State} (h : Held b s) : Held b (tensorComplete u s) := by
  unfold tensorComplete
  repeat' first
    | with_reducible assumption
    | (lift_lets; intro x; clear_value x)
    | with_reducible apply State.writtenOut_held
    | with_reducible apply State.setCore_held
    | simp only [↓Held.mk_iff]
    | split
theorem execTensorOpComplete_held (u : UnitId) (s : State) (z : State) (h : execTensorOpComplete u s = .next z) : Held s z := Held.unit (tensorComplete_held (Held.refl _)) h

end Sys2Proof.Machine
end

