-- ==== Sys2Proof/Laws/State.lean ====
section
/-! SUPPORT. What each setter of the state does to each field: one lemma per field per update. -/

namespace Sys2Proof.Machine

section
variable (s : State) (a : Nat) (v : W32)
@[simp] theorem State.setReg_pending : (s.setReg a v).pending = s.pending := rfl
@[simp] theorem State.setReg_frc : (s.setReg a v).frc = s.frc := rfl
@[simp] theorem State.setReg_free : (s.setReg a v).free = s.free := rfl
@[simp] theorem State.setReg_regs : (s.setReg a v).regs = Tab.set (regReset a) s.regs a v := rfl
@[simp] theorem State.setReg_risen : (s.setReg a v).risen = s.risen := rfl
@[simp] theorem State.setReg_mem : (s.setReg a v).mem = s.mem := rfl
@[simp] theorem State.setReg_syn : (s.setReg a v).syn = s.syn := rfl
@[simp] theorem State.setReg_out : (s.setReg a v).out = s.out := rfl
@[simp] theorem State.setReg_tx : (s.setReg a v).tx = s.tx := rfl
@[simp] theorem State.setReg_streams : (s.setReg a v).streams = s.streams := rfl
@[simp] theorem State.setReg_cores : (s.setReg a v).cores = s.cores := rfl
@[simp] theorem State.setReg_absent : (s.setReg a v).absent = s.absent := rfl
@[simp] theorem State.setReg_wback : (s.setReg a v).wback = s.wback := rfl
@[simp] theorem State.setReg_sramScrub : (s.setReg a v).sramScrub = s.sramScrub := rfl
@[simp] theorem State.setReg_fwForce : (s.setReg a v).fwForce = s.fwForce := rfl
@[simp] theorem State.setReg_prevDom : (s.setReg a v).prevDom = s.prevDom := rfl
@[simp] theorem State.setReg_fusedMap : (s.setReg a v).fusedMap = s.fusedMap := rfl
@[simp] theorem State.setReg_cvuOld : (s.setReg a v).cvuOld = s.cvuOld := rfl
@[simp] theorem State.setReg_icuSvc : (s.setReg a v).icuSvc = s.icuSvc := rfl
@[simp] theorem State.setReg_icuHold : (s.setReg a v).icuHold = s.icuHold := rfl
@[simp] theorem State.setReg_wds : (s.setReg a v).wds = s.wds := rfl
@[simp] theorem State.setReg_dbgHalted : (s.setReg a v).dbgHalted = s.dbgHalted := rfl
@[simp] theorem State.setReg_fcGrp : (s.setReg a v).fcGrp = s.fcGrp := rfl
@[simp] theorem State.setReg_fcCls : (s.setReg a v).fcCls = s.fcCls := rfl
@[simp] theorem State.setReg_fcExt : (s.setReg a v).fcExt = s.fcExt := rfl
@[simp] theorem State.setReg_fcKnown : (s.setReg a v).fcKnown = s.fcKnown := rfl
@[simp] theorem State.setReg_fcLink : (s.setReg a v).fcLink = s.fcLink := rfl
@[simp] theorem State.setReg_fcMinute : (s.setReg a v).fcMinute = s.fcMinute := rfl
@[simp] theorem State.setReg_silent : (s.setReg a v).silent = s.silent := rfl
@[simp] theorem State.setReg_vecAt : (s.setReg a v).vecAt = s.vecAt := rfl
@[simp] theorem State.setReg_evid : (s.setReg a v).evid = s.evid := rfl
@[simp] theorem State.setReg_svcAccess : (s.setReg a v).svcAccess = s.svcAccess := rfl
@[simp] theorem State.setReg_latentAt : (s.setReg a v).latentAt = s.latentAt := rfl
@[simp] theorem State.setReg_dbgOpen : (s.setReg a v).dbgOpen = s.dbgOpen := rfl
@[simp] theorem State.setReg_cyc : (s.setReg a v).cyc = s.cyc := rfl
@[simp] theorem State.setReg_sio : (s.setReg a v).sio = s.sio := rfl
@[simp] theorem State.setReg_fwHold : (s.setReg a v).fwHold = s.fwHold := rfl
@[simp] theorem State.setReg_links : (s.setReg a v).links = s.links := rfl
@[simp] theorem State.setReg_ghUp : (s.setReg a v).ghUp = s.ghUp := rfl
@[simp] theorem State.setReg_bs : (s.setReg a v).bs = s.bs := rfl
@[simp] theorem State.setReg_areasOk : (s.setReg a v).areasOk = s.areasOk := rfl
@[simp] theorem State.setReg_plan : (s.setReg a v).plan = s.plan := rfl
@[simp] theorem State.setReg_bv : (s.setReg a v).bv = s.bv := rfl
@[simp] theorem State.setReg_fol : (s.setReg a v).fol = s.fol := rfl
@[simp] theorem State.setReg_bel : (s.setReg a v).bel = s.bel := rfl
@[simp] theorem State.setReg_tsm : (s.setReg a v).tsm = s.tsm := rfl
@[simp] theorem State.setReg_reqs : (s.setReg a v).reqs = s.reqs := rfl
@[simp] theorem State.setReg_ucmds : (s.setReg a v).ucmds = s.ucmds := rfl
@[simp] theorem State.setReg_collWait : (s.setReg a v).collWait = s.collWait := rfl
@[simp] theorem State.setReg_boot : (s.setReg a v).boot = s.boot := rfl
@[simp] theorem State.setReg_spareFw : (s.setReg a v).spareFw = s.spareFw := rfl
@[simp] theorem State.setReg_sec : (s.setReg a v).sec = s.sec := rfl
@[simp] theorem State.setReg_gk : (s.setReg a v).gk = s.gk := rfl
@[simp] theorem State.setReg_taps : (s.setReg a v).taps = s.taps := rfl
@[simp] theorem State.setReg_pcie : (s.setReg a v).pcie = s.pcie := rfl
@[simp] theorem State.setReg_cal : (s.setReg a v).cal = s.cal := rfl
@[simp] theorem State.setReg_pwr : (s.setReg a v).pwr = s.pwr := rfl
@[simp] theorem State.setReg_scanEnd : (s.setReg a v).scanEnd = s.scanEnd := rfl
@[simp] theorem State.setReg_svcEnd : (s.setReg a v).svcEnd = s.svcEnd := rfl
@[simp] theorem State.setReg_svcFrom : (s.setReg a v).svcFrom = s.svcFrom := rfl
@[simp] theorem State.setReg_clkBad : (s.setReg a v).clkBad = s.clkBad := rfl
@[simp] theorem State.setReg_rx : (s.setReg a v).rx = s.rx := rfl
@[simp] theorem State.setReg_t1s : (s.setReg a v).t1s = s.t1s := rfl
@[simp] theorem State.setReg_win : (s.setReg a v).win = s.win := rfl
@[simp] theorem State.setReg_once : (s.setReg a v).once = s.once := rfl
@[simp] theorem State.setReg_safeSince : (s.setReg a v).safeSince = s.safeSince := rfl
@[simp] theorem State.setReg_scopesAt : (s.setReg a v).scopesAt = s.scopesAt := rfl
@[simp] theorem State.setReg_pavClk : (s.setReg a v).pavClk = s.pavClk := rfl
@[simp] theorem State.setReg_uart : (s.setReg a v).uart = s.uart := rfl
@[simp] theorem State.setReg_injSrc : (s.setReg a v).injSrc = s.injSrc := rfl
@[simp] theorem State.setReg_convFlip : (s.setReg a v).convFlip = s.convFlip := rfl
@[simp] theorem State.setReg_tcm : (s.setReg a v).tcm = s.tcm := rfl
@[simp] theorem State.setReg_ghSyn : (s.setReg a v).ghSyn = s.ghSyn := rfl
@[simp] theorem State.setReg_roseAt : (s.setReg a v).roseAt = s.roseAt := rfl
@[simp] theorem State.setReg_cvuLast : (s.setReg a v).cvuLast = s.cvuLast := rfl
@[simp] theorem State.setReg_cvuStalled : (s.setReg a v).cvuStalled = s.cvuStalled := rfl
@[simp] theorem State.setReg_gkSram : (s.setReg a v).gkSram = s.gkSram := rfl
@[simp] theorem State.setReg_gkSyn : (s.setReg a v).gkSyn = s.gkSyn := rfl
end

section
variable (s : State) (a lo n x : Nat)
@[simp] theorem State.setRegF_pending : (s.setRegF a lo n x).pending = s.pending := rfl
@[simp] theorem State.setRegF_frc : (s.setRegF a lo n x).frc = s.frc := rfl
@[simp] theorem State.setRegF_free : (s.setRegF a lo n x).free = s.free := rfl
@[simp] theorem State.setRegF_regs : (s.setRegF a lo n x).regs = Tab.set (regReset a) s.regs a (setFld (s.reg a) lo n x) := rfl
@[simp] theorem State.setRegF_risen : (s.setRegF a lo n x).risen = s.risen := rfl
@[simp] theorem State.setRegF_mem : (s.setRegF a lo n x).mem = s.mem := rfl
@[simp] theorem State.setRegF_syn : (s.setRegF a lo n x).syn = s.syn := rfl
@[simp] theorem State.setRegF_out : (s.setRegF a lo n x).out = s.out := rfl
@[simp] theorem State.setRegF_tx : (s.setRegF a lo n x).tx = s.tx := rfl
@[simp] theorem State.setRegF_streams : (s.setRegF a lo n x).streams = s.streams := rfl
@[simp] theorem State.setRegF_cores : (s.setRegF a lo n x).cores = s.cores := rfl
@[simp] theorem State.setRegF_absent : (s.setRegF a lo n x).absent = s.absent := rfl
@[simp] theorem State.setRegF_wback : (s.setRegF a lo n x).wback = s.wback := rfl
@[simp] theorem State.setRegF_sramScrub : (s.setRegF a lo n x).sramScrub = s.sramScrub := rfl
@[simp] theorem State.setRegF_fwForce : (s.setRegF a lo n x).fwForce = s.fwForce := rfl
@[simp] theorem State.setRegF_prevDom : (s.setRegF a lo n x).prevDom = s.prevDom := rfl
@[simp] theorem State.setRegF_fusedMap : (s.setRegF a lo n x).fusedMap = s.fusedMap := rfl
@[simp] theorem State.setRegF_cvuOld : (s.setRegF a lo n x).cvuOld = s.cvuOld := rfl
@[simp] theorem State.setRegF_icuSvc : (s.setRegF a lo n x).icuSvc = s.icuSvc := rfl
@[simp] theorem State.setRegF_icuHold : (s.setRegF a lo n x).icuHold = s.icuHold := rfl
@[simp] theorem State.setRegF_wds : (s.setRegF a lo n x).wds = s.wds := rfl
@[simp] theorem State.setRegF_dbgHalted : (s.setRegF a lo n x).dbgHalted = s.dbgHalted := rfl
@[simp] theorem State.setRegF_fcGrp : (s.setRegF a lo n x).fcGrp = s.fcGrp := rfl
@[simp] theorem State.setRegF_fcCls : (s.setRegF a lo n x).fcCls = s.fcCls := rfl
@[simp] theorem State.setRegF_fcExt : (s.setRegF a lo n x).fcExt = s.fcExt := rfl
@[simp] theorem State.setRegF_fcKnown : (s.setRegF a lo n x).fcKnown = s.fcKnown := rfl
@[simp] theorem State.setRegF_fcLink : (s.setRegF a lo n x).fcLink = s.fcLink := rfl
@[simp] theorem State.setRegF_fcMinute : (s.setRegF a lo n x).fcMinute = s.fcMinute := rfl
@[simp] theorem State.setRegF_silent : (s.setRegF a lo n x).silent = s.silent := rfl
@[simp] theorem State.setRegF_vecAt : (s.setRegF a lo n x).vecAt = s.vecAt := rfl
@[simp] theorem State.setRegF_evid : (s.setRegF a lo n x).evid = s.evid := rfl
@[simp] theorem State.setRegF_svcAccess : (s.setRegF a lo n x).svcAccess = s.svcAccess := rfl
@[simp] theorem State.setRegF_latentAt : (s.setRegF a lo n x).latentAt = s.latentAt := rfl
@[simp] theorem State.setRegF_dbgOpen : (s.setRegF a lo n x).dbgOpen = s.dbgOpen := rfl
@[simp] theorem State.setRegF_cyc : (s.setRegF a lo n x).cyc = s.cyc := rfl
@[simp] theorem State.setRegF_sio : (s.setRegF a lo n x).sio = s.sio := rfl
@[simp] theorem State.setRegF_fwHold : (s.setRegF a lo n x).fwHold = s.fwHold := rfl
@[simp] theorem State.setRegF_links : (s.setRegF a lo n x).links = s.links := rfl
@[simp] theorem State.setRegF_ghUp : (s.setRegF a lo n x).ghUp = s.ghUp := rfl
@[simp] theorem State.setRegF_bs : (s.setRegF a lo n x).bs = s.bs := rfl
@[simp] theorem State.setRegF_areasOk : (s.setRegF a lo n x).areasOk = s.areasOk := rfl
@[simp] theorem State.setRegF_plan : (s.setRegF a lo n x).plan = s.plan := rfl
@[simp] theorem State.setRegF_bv : (s.setRegF a lo n x).bv = s.bv := rfl
@[simp] theorem State.setRegF_fol : (s.setRegF a lo n x).fol = s.fol := rfl
@[simp] theorem State.setRegF_bel : (s.setRegF a lo n x).bel = s.bel := rfl
@[simp] theorem State.setRegF_tsm : (s.setRegF a lo n x).tsm = s.tsm := rfl
@[simp] theorem State.setRegF_reqs : (s.setRegF a lo n x).reqs = s.reqs := rfl
@[simp] theorem State.setRegF_ucmds : (s.setRegF a lo n x).ucmds = s.ucmds := rfl
@[simp] theorem State.setRegF_collWait : (s.setRegF a lo n x).collWait = s.collWait := rfl
@[simp] theorem State.setRegF_boot : (s.setRegF a lo n x).boot = s.boot := rfl
@[simp] theorem State.setRegF_spareFw : (s.setRegF a lo n x).spareFw = s.spareFw := rfl
@[simp] theorem State.setRegF_sec : (s.setRegF a lo n x).sec = s.sec := rfl
@[simp] theorem State.setRegF_gk : (s.setRegF a lo n x).gk = s.gk := rfl
@[simp] theorem State.setRegF_taps : (s.setRegF a lo n x).taps = s.taps := rfl
@[simp] theorem State.setRegF_pcie : (s.setRegF a lo n x).pcie = s.pcie := rfl
@[simp] theorem State.setRegF_cal : (s.setRegF a lo n x).cal = s.cal := rfl
@[simp] theorem State.setRegF_pwr : (s.setRegF a lo n x).pwr = s.pwr := rfl
@[simp] theorem State.setRegF_scanEnd : (s.setRegF a lo n x).scanEnd = s.scanEnd := rfl
@[simp] theorem State.setRegF_svcEnd : (s.setRegF a lo n x).svcEnd = s.svcEnd := rfl
@[simp] theorem State.setRegF_svcFrom : (s.setRegF a lo n x).svcFrom = s.svcFrom := rfl
@[simp] theorem State.setRegF_clkBad : (s.setRegF a lo n x).clkBad = s.clkBad := rfl
@[simp] theorem State.setRegF_rx : (s.setRegF a lo n x).rx = s.rx := rfl
@[simp] theorem State.setRegF_t1s : (s.setRegF a lo n x).t1s = s.t1s := rfl
@[simp] theorem State.setRegF_win : (s.setRegF a lo n x).win = s.win := rfl
@[simp] theorem State.setRegF_once : (s.setRegF a lo n x).once = s.once := rfl
@[simp] theorem State.setRegF_safeSince : (s.setRegF a lo n x).safeSince = s.safeSince := rfl
@[simp] theorem State.setRegF_scopesAt : (s.setRegF a lo n x).scopesAt = s.scopesAt := rfl
@[simp] theorem State.setRegF_pavClk : (s.setRegF a lo n x).pavClk = s.pavClk := rfl
@[simp] theorem State.setRegF_uart : (s.setRegF a lo n x).uart = s.uart := rfl
@[simp] theorem State.setRegF_injSrc : (s.setRegF a lo n x).injSrc = s.injSrc := rfl
@[simp] theorem State.setRegF_convFlip : (s.setRegF a lo n x).convFlip = s.convFlip := rfl
@[simp] theorem State.setRegF_tcm : (s.setRegF a lo n x).tcm = s.tcm := rfl
@[simp] theorem State.setRegF_ghSyn : (s.setRegF a lo n x).ghSyn = s.ghSyn := rfl
@[simp] theorem State.setRegF_roseAt : (s.setRegF a lo n x).roseAt = s.roseAt := rfl
@[simp] theorem State.setRegF_cvuLast : (s.setRegF a lo n x).cvuLast = s.cvuLast := rfl
@[simp] theorem State.setRegF_cvuStalled : (s.setRegF a lo n x).cvuStalled = s.cvuStalled := rfl
@[simp] theorem State.setRegF_gkSram : (s.setRegF a lo n x).gkSram = s.gkSram := rfl
@[simp] theorem State.setRegF_gkSyn : (s.setRegF a lo n x).gkSyn = s.gkSyn := rfl
end

section
variable (s : State) (k : Nat) (b : Byte)
@[simp] theorem State.setByte_pending : (s.setByte k b).pending = s.pending := rfl
@[simp] theorem State.setByte_frc : (s.setByte k b).frc = s.frc := rfl
@[simp] theorem State.setByte_free : (s.setByte k b).free = s.free := rfl
@[simp] theorem State.setByte_regs : (s.setByte k b).regs = s.regs := rfl
@[simp] theorem State.setByte_risen : (s.setByte k b).risen = s.risen := rfl
@[simp] theorem State.setByte_mem : (s.setByte k b).mem = Tab.set 0 s.mem k b := rfl
@[simp] theorem State.setByte_syn : (s.setByte k b).syn = s.syn := rfl
@[simp] theorem State.setByte_out : (s.setByte k b).out = s.out := rfl
@[simp] theorem State.setByte_tx : (s.setByte k b).tx = s.tx := rfl
@[simp] theorem State.setByte_streams : (s.setByte k b).streams = s.streams := rfl
@[simp] theorem State.setByte_cores : (s.setByte k b).cores = s.cores := rfl
@[simp] theorem State.setByte_absent : (s.setByte k b).absent = s.absent := rfl
@[simp] theorem State.setByte_wback : (s.setByte k b).wback = s.wback := rfl
@[simp] theorem State.setByte_sramScrub : (s.setByte k b).sramScrub = s.sramScrub := rfl
@[simp] theorem State.setByte_fwForce : (s.setByte k b).fwForce = s.fwForce := rfl
@[simp] theorem State.setByte_prevDom : (s.setByte k b).prevDom = s.prevDom := rfl
@[simp] theorem State.setByte_fusedMap : (s.setByte k b).fusedMap = s.fusedMap := rfl
@[simp] theorem State.setByte_cvuOld : (s.setByte k b).cvuOld = s.cvuOld := rfl
@[simp] theorem State.setByte_icuSvc : (s.setByte k b).icuSvc = s.icuSvc := rfl
@[simp] theorem State.setByte_icuHold : (s.setByte k b).icuHold = s.icuHold := rfl
@[simp] theorem State.setByte_wds : (s.setByte k b).wds = s.wds := rfl
@[simp] theorem State.setByte_dbgHalted : (s.setByte k b).dbgHalted = s.dbgHalted := rfl
@[simp] theorem State.setByte_fcGrp : (s.setByte k b).fcGrp = s.fcGrp := rfl
@[simp] theorem State.setByte_fcCls : (s.setByte k b).fcCls = s.fcCls := rfl
@[simp] theorem State.setByte_fcExt : (s.setByte k b).fcExt = s.fcExt := rfl
@[simp] theorem State.setByte_fcKnown : (s.setByte k b).fcKnown = s.fcKnown := rfl
@[simp] theorem State.setByte_fcLink : (s.setByte k b).fcLink = s.fcLink := rfl
@[simp] theorem State.setByte_fcMinute : (s.setByte k b).fcMinute = s.fcMinute := rfl
@[simp] theorem State.setByte_silent : (s.setByte k b).silent = s.silent := rfl
@[simp] theorem State.setByte_vecAt : (s.setByte k b).vecAt = s.vecAt := rfl
@[simp] theorem State.setByte_evid : (s.setByte k b).evid = s.evid := rfl
@[simp] theorem State.setByte_svcAccess : (s.setByte k b).svcAccess = s.svcAccess := rfl
@[simp] theorem State.setByte_latentAt : (s.setByte k b).latentAt = s.latentAt := rfl
@[simp] theorem State.setByte_dbgOpen : (s.setByte k b).dbgOpen = s.dbgOpen := rfl
@[simp] theorem State.setByte_cyc : (s.setByte k b).cyc = s.cyc := rfl
@[simp] theorem State.setByte_sio : (s.setByte k b).sio = s.sio := rfl
@[simp] theorem State.setByte_fwHold : (s.setByte k b).fwHold = s.fwHold := rfl
@[simp] theorem State.setByte_links : (s.setByte k b).links = s.links := rfl
@[simp] theorem State.setByte_ghUp : (s.setByte k b).ghUp = s.ghUp := rfl
@[simp] theorem State.setByte_bs : (s.setByte k b).bs = s.bs := rfl
@[simp] theorem State.setByte_areasOk : (s.setByte k b).areasOk = s.areasOk := rfl
@[simp] theorem State.setByte_plan : (s.setByte k b).plan = s.plan := rfl
@[simp] theorem State.setByte_bv : (s.setByte k b).bv = s.bv := rfl
@[simp] theorem State.setByte_fol : (s.setByte k b).fol = s.fol := rfl
@[simp] theorem State.setByte_bel : (s.setByte k b).bel = s.bel := rfl
@[simp] theorem State.setByte_tsm : (s.setByte k b).tsm = s.tsm := rfl
@[simp] theorem State.setByte_reqs : (s.setByte k b).reqs = s.reqs := rfl
@[simp] theorem State.setByte_ucmds : (s.setByte k b).ucmds = s.ucmds := rfl
@[simp] theorem State.setByte_collWait : (s.setByte k b).collWait = s.collWait := rfl
@[simp] theorem State.setByte_boot : (s.setByte k b).boot = s.boot := rfl
@[simp] theorem State.setByte_spareFw : (s.setByte k b).spareFw = s.spareFw := rfl
@[simp] theorem State.setByte_sec : (s.setByte k b).sec = s.sec := rfl
@[simp] theorem State.setByte_gk : (s.setByte k b).gk = s.gk := rfl
@[simp] theorem State.setByte_taps : (s.setByte k b).taps = s.taps := rfl
@[simp] theorem State.setByte_pcie : (s.setByte k b).pcie = s.pcie := rfl
@[simp] theorem State.setByte_cal : (s.setByte k b).cal = s.cal := rfl
@[simp] theorem State.setByte_pwr : (s.setByte k b).pwr = s.pwr := rfl
@[simp] theorem State.setByte_scanEnd : (s.setByte k b).scanEnd = s.scanEnd := rfl
@[simp] theorem State.setByte_svcEnd : (s.setByte k b).svcEnd = s.svcEnd := rfl
@[simp] theorem State.setByte_svcFrom : (s.setByte k b).svcFrom = s.svcFrom := rfl
@[simp] theorem State.setByte_clkBad : (s.setByte k b).clkBad = s.clkBad := rfl
@[simp] theorem State.setByte_rx : (s.setByte k b).rx = s.rx := rfl
@[simp] theorem State.setByte_t1s : (s.setByte k b).t1s = s.t1s := rfl
@[simp] theorem State.setByte_win : (s.setByte k b).win = s.win := rfl
@[simp] theorem State.setByte_once : (s.setByte k b).once = s.once := rfl
@[simp] theorem State.setByte_safeSince : (s.setByte k b).safeSince = s.safeSince := rfl
@[simp] theorem State.setByte_scopesAt : (s.setByte k b).scopesAt = s.scopesAt := rfl
@[simp] theorem State.setByte_pavClk : (s.setByte k b).pavClk = s.pavClk := rfl
@[simp] theorem State.setByte_uart : (s.setByte k b).uart = s.uart := rfl
@[simp] theorem State.setByte_injSrc : (s.setByte k b).injSrc = s.injSrc := rfl
@[simp] theorem State.setByte_convFlip : (s.setByte k b).convFlip = s.convFlip := rfl
@[simp] theorem State.setByte_tcm : (s.setByte k b).tcm = s.tcm := rfl
@[simp] theorem State.setByte_ghSyn : (s.setByte k b).ghSyn = s.ghSyn := rfl
@[simp] theorem State.setByte_roseAt : (s.setByte k b).roseAt = s.roseAt := rfl
@[simp] theorem State.setByte_cvuLast : (s.setByte k b).cvuLast = s.cvuLast := rfl
@[simp] theorem State.setByte_cvuStalled : (s.setByte k b).cvuStalled = s.cvuStalled := rfl
@[simp] theorem State.setByte_gkSram : (s.setByte k b).gkSram = s.gkSram := rfl
@[simp] theorem State.setByte_gkSyn : (s.setByte k b).gkSyn = s.gkSyn := rfl
end

section
variable (s : State) (k n : Nat)
@[simp] theorem State.setSyn_pending : (s.setSyn k n).pending = s.pending := rfl
@[simp] theorem State.setSyn_frc : (s.setSyn k n).frc = s.frc := rfl
@[simp] theorem State.setSyn_free : (s.setSyn k n).free = s.free := rfl
@[simp] theorem State.setSyn_regs : (s.setSyn k n).regs = s.regs := rfl
@[simp] theorem State.setSyn_risen : (s.setSyn k n).risen = s.risen := rfl
@[simp] theorem State.setSyn_mem : (s.setSyn k n).mem = s.mem := rfl
@[simp] theorem State.setSyn_syn : (s.setSyn k n).syn = Tab.set 0 s.syn k (BitVec.ofNat 8 n) := rfl
@[simp] theorem State.setSyn_out : (s.setSyn k n).out = s.out := rfl
@[simp] theorem State.setSyn_tx : (s.setSyn k n).tx = s.tx := rfl
@[simp] theorem State.setSyn_streams : (s.setSyn k n).streams = s.streams := rfl
@[simp] theorem State.setSyn_cores : (s.setSyn k n).cores = s.cores := rfl
@[simp] theorem State.setSyn_absent : (s.setSyn k n).absent = s.absent := rfl
@[simp] theorem State.setSyn_wback : (s.setSyn k n).wback = s.wback := rfl
@[simp] theorem State.setSyn_sramScrub : (s.setSyn k n).sramScrub = s.sramScrub := rfl
@[simp] theorem State.setSyn_fwForce : (s.setSyn k n).fwForce = s.fwForce := rfl
@[simp] theorem State.setSyn_prevDom : (s.setSyn k n).prevDom = s.prevDom := rfl
@[simp] theorem State.setSyn_fusedMap : (s.setSyn k n).fusedMap = s.fusedMap := rfl
@[simp] theorem State.setSyn_cvuOld : (s.setSyn k n).cvuOld = s.cvuOld := rfl
@[simp] theorem State.setSyn_icuSvc : (s.setSyn k n).icuSvc = s.icuSvc := rfl
@[simp] theorem State.setSyn_icuHold : (s.setSyn k n).icuHold = s.icuHold := rfl
@[simp] theorem State.setSyn_wds : (s.setSyn k n).wds = s.wds := rfl
@[simp] theorem State.setSyn_dbgHalted : (s.setSyn k n).dbgHalted = s.dbgHalted := rfl
@[simp] theorem State.setSyn_fcGrp : (s.setSyn k n).fcGrp = s.fcGrp := rfl
@[simp] theorem State.setSyn_fcCls : (s.setSyn k n).fcCls = s.fcCls := rfl
@[simp] theorem State.setSyn_fcExt : (s.setSyn k n).fcExt = s.fcExt := rfl
@[simp] theorem State.setSyn_fcKnown : (s.setSyn k n).fcKnown = s.fcKnown := rfl
@[simp] theorem State.setSyn_fcLink : (s.setSyn k n).fcLink = s.fcLink := rfl
@[simp] theorem State.setSyn_fcMinute : (s.setSyn k n).fcMinute = s.fcMinute := rfl
@[simp] theorem State.setSyn_silent : (s.setSyn k n).silent = s.silent := rfl
@[simp] theorem State.setSyn_vecAt : (s.setSyn k n).vecAt = s.vecAt := rfl
@[simp] theorem State.setSyn_evid : (s.setSyn k n).evid = s.evid := rfl
@[simp] theorem State.setSyn_svcAccess : (s.setSyn k n).svcAccess = s.svcAccess := rfl
@[simp] theorem State.setSyn_latentAt : (s.setSyn k n).latentAt = s.latentAt := rfl
@[simp] theorem State.setSyn_dbgOpen : (s.setSyn k n).dbgOpen = s.dbgOpen := rfl
@[simp] theorem State.setSyn_cyc : (s.setSyn k n).cyc = s.cyc := rfl
@[simp] theorem State.setSyn_sio : (s.setSyn k n).sio = s.sio := rfl
@[simp] theorem State.setSyn_fwHold : (s.setSyn k n).fwHold = s.fwHold := rfl
@[simp] theorem State.setSyn_links : (s.setSyn k n).links = s.links := rfl
@[simp] theorem State.setSyn_ghUp : (s.setSyn k n).ghUp = s.ghUp := rfl
@[simp] theorem State.setSyn_bs : (s.setSyn k n).bs = s.bs := rfl
@[simp] theorem State.setSyn_areasOk : (s.setSyn k n).areasOk = s.areasOk := rfl
@[simp] theorem State.setSyn_plan : (s.setSyn k n).plan = s.plan := rfl
@[simp] theorem State.setSyn_bv : (s.setSyn k n).bv = s.bv := rfl
@[simp] theorem State.setSyn_fol : (s.setSyn k n).fol = s.fol := rfl
@[simp] theorem State.setSyn_bel : (s.setSyn k n).bel = s.bel := rfl
@[simp] theorem State.setSyn_tsm : (s.setSyn k n).tsm = s.tsm := rfl
@[simp] theorem State.setSyn_reqs : (s.setSyn k n).reqs = s.reqs := rfl
@[simp] theorem State.setSyn_ucmds : (s.setSyn k n).ucmds = s.ucmds := rfl
@[simp] theorem State.setSyn_collWait : (s.setSyn k n).collWait = s.collWait := rfl
@[simp] theorem State.setSyn_boot : (s.setSyn k n).boot = s.boot := rfl
@[simp] theorem State.setSyn_spareFw : (s.setSyn k n).spareFw = s.spareFw := rfl
@[simp] theorem State.setSyn_sec : (s.setSyn k n).sec = s.sec := rfl
@[simp] theorem State.setSyn_gk : (s.setSyn k n).gk = s.gk := rfl
@[simp] theorem State.setSyn_taps : (s.setSyn k n).taps = s.taps := rfl
@[simp] theorem State.setSyn_pcie : (s.setSyn k n).pcie = s.pcie := rfl
@[simp] theorem State.setSyn_cal : (s.setSyn k n).cal = s.cal := rfl
@[simp] theorem State.setSyn_pwr : (s.setSyn k n).pwr = s.pwr := rfl
@[simp] theorem State.setSyn_scanEnd : (s.setSyn k n).scanEnd = s.scanEnd := rfl
@[simp] theorem State.setSyn_svcEnd : (s.setSyn k n).svcEnd = s.svcEnd := rfl
@[simp] theorem State.setSyn_svcFrom : (s.setSyn k n).svcFrom = s.svcFrom := rfl
@[simp] theorem State.setSyn_clkBad : (s.setSyn k n).clkBad = s.clkBad := rfl
@[simp] theorem State.setSyn_rx : (s.setSyn k n).rx = s.rx := rfl
@[simp] theorem State.setSyn_t1s : (s.setSyn k n).t1s = s.t1s := rfl
@[simp] theorem State.setSyn_win : (s.setSyn k n).win = s.win := rfl
@[simp] theorem State.setSyn_once : (s.setSyn k n).once = s.once := rfl
@[simp] theorem State.setSyn_safeSince : (s.setSyn k n).safeSince = s.safeSince := rfl
@[simp] theorem State.setSyn_scopesAt : (s.setSyn k n).scopesAt = s.scopesAt := rfl
@[simp] theorem State.setSyn_pavClk : (s.setSyn k n).pavClk = s.pavClk := rfl
@[simp] theorem State.setSyn_uart : (s.setSyn k n).uart = s.uart := rfl
@[simp] theorem State.setSyn_injSrc : (s.setSyn k n).injSrc = s.injSrc := rfl
@[simp] theorem State.setSyn_convFlip : (s.setSyn k n).convFlip = s.convFlip := rfl
@[simp] theorem State.setSyn_tcm : (s.setSyn k n).tcm = s.tcm := rfl
@[simp] theorem State.setSyn_ghSyn : (s.setSyn k n).ghSyn = s.ghSyn := rfl
@[simp] theorem State.setSyn_roseAt : (s.setSyn k n).roseAt = s.roseAt := rfl
@[simp] theorem State.setSyn_cvuLast : (s.setSyn k n).cvuLast = s.cvuLast := rfl
@[simp] theorem State.setSyn_cvuStalled : (s.setSyn k n).cvuStalled = s.cvuStalled := rfl
@[simp] theorem State.setSyn_gkSram : (s.setSyn k n).gkSram = s.gkSram := rfl
@[simp] theorem State.setSyn_gkSyn : (s.setSyn k n).gkSyn = s.gkSyn := rfl
end

section
variable (s : State) (o : Output)
@[simp] theorem State.emit_pending : (s.emit o).pending = s.pending := rfl
@[simp] theorem State.emit_frc : (s.emit o).frc = s.frc := rfl
@[simp] theorem State.emit_free : (s.emit o).free = s.free := rfl
@[simp] theorem State.emit_regs : (s.emit o).regs = s.regs := rfl
@[simp] theorem State.emit_risen : (s.emit o).risen = s.risen := rfl
@[simp] theorem State.emit_mem : (s.emit o).mem = s.mem := rfl
@[simp] theorem State.emit_syn : (s.emit o).syn = s.syn := rfl
@[simp] theorem State.emit_out : (s.emit o).out = s.out ++ [o] := rfl
@[simp] theorem State.emit_tx : (s.emit o).tx = s.tx := rfl
@[simp] theorem State.emit_streams : (s.emit o).streams = s.streams := rfl
@[simp] theorem State.emit_cores : (s.emit o).cores = s.cores := rfl
@[simp] theorem State.emit_absent : (s.emit o).absent = s.absent := rfl
@[simp] theorem State.emit_wback : (s.emit o).wback = s.wback := rfl
@[simp] theorem State.emit_sramScrub : (s.emit o).sramScrub = s.sramScrub := rfl
@[simp] theorem State.emit_fwForce : (s.emit o).fwForce = s.fwForce := rfl
@[simp] theorem State.emit_prevDom : (s.emit o).prevDom = s.prevDom := rfl
@[simp] theorem State.emit_fusedMap : (s.emit o).fusedMap = s.fusedMap := rfl
@[simp] theorem State.emit_cvuOld : (s.emit o).cvuOld = s.cvuOld := rfl
@[simp] theorem State.emit_icuSvc : (s.emit o).icuSvc = s.icuSvc := rfl
@[simp] theorem State.emit_icuHold : (s.emit o).icuHold = s.icuHold := rfl
@[simp] theorem State.emit_wds : (s.emit o).wds = s.wds := rfl
@[simp] theorem State.emit_dbgHalted : (s.emit o).dbgHalted = s.dbgHalted := rfl
@[simp] theorem State.emit_fcGrp : (s.emit o).fcGrp = s.fcGrp := rfl
@[simp] theorem State.emit_fcCls : (s.emit o).fcCls = s.fcCls := rfl
@[simp] theorem State.emit_fcExt : (s.emit o).fcExt = s.fcExt := rfl
@[simp] theorem State.emit_fcKnown : (s.emit o).fcKnown = s.fcKnown := rfl
@[simp] theorem State.emit_fcLink : (s.emit o).fcLink = s.fcLink := rfl
@[simp] theorem State.emit_fcMinute : (s.emit o).fcMinute = s.fcMinute := rfl
@[simp] theorem State.emit_silent : (s.emit o).silent = s.silent := rfl
@[simp] theorem State.emit_vecAt : (s.emit o).vecAt = s.vecAt := rfl
@[simp] theorem State.emit_evid : (s.emit o).evid = s.evid := rfl
@[simp] theorem State.emit_svcAccess : (s.emit o).svcAccess = s.svcAccess := rfl
@[simp] theorem State.emit_latentAt : (s.emit o).latentAt = s.latentAt := rfl
@[simp] theorem State.emit_dbgOpen : (s.emit o).dbgOpen = s.dbgOpen := rfl
@[simp] theorem State.emit_cyc : (s.emit o).cyc = s.cyc := rfl
@[simp] theorem State.emit_sio : (s.emit o).sio = s.sio := rfl
@[simp] theorem State.emit_fwHold : (s.emit o).fwHold = s.fwHold := rfl
@[simp] theorem State.emit_links : (s.emit o).links = s.links := rfl
@[simp] theorem State.emit_ghUp : (s.emit o).ghUp = s.ghUp := rfl
@[simp] theorem State.emit_bs : (s.emit o).bs = s.bs := rfl
@[simp] theorem State.emit_areasOk : (s.emit o).areasOk = s.areasOk := rfl
@[simp] theorem State.emit_plan : (s.emit o).plan = s.plan := rfl
@[simp] theorem State.emit_bv : (s.emit o).bv = s.bv := rfl
@[simp] theorem State.emit_fol : (s.emit o).fol = s.fol := rfl
@[simp] theorem State.emit_bel : (s.emit o).bel = s.bel := rfl
@[simp] theorem State.emit_tsm : (s.emit o).tsm = s.tsm := rfl
@[simp] theorem State.emit_reqs : (s.emit o).reqs = s.reqs := rfl
@[simp] theorem State.emit_ucmds : (s.emit o).ucmds = s.ucmds := rfl
@[simp] theorem State.emit_collWait : (s.emit o).collWait = s.collWait := rfl
@[simp] theorem State.emit_boot : (s.emit o).boot = s.boot := rfl
@[simp] theorem State.emit_spareFw : (s.emit o).spareFw = s.spareFw := rfl
@[simp] theorem State.emit_sec : (s.emit o).sec = s.sec := rfl
@[simp] theorem State.emit_gk : (s.emit o).gk = s.gk := rfl
@[simp] theorem State.emit_taps : (s.emit o).taps = s.taps := rfl
@[simp] theorem State.emit_pcie : (s.emit o).pcie = s.pcie := rfl
@[simp] theorem State.emit_cal : (s.emit o).cal = s.cal := rfl
@[simp] theorem State.emit_pwr : (s.emit o).pwr = s.pwr := rfl
@[simp] theorem State.emit_scanEnd : (s.emit o).scanEnd = s.scanEnd := rfl
@[simp] theorem State.emit_svcEnd : (s.emit o).svcEnd = s.svcEnd := rfl
@[simp] theorem State.emit_svcFrom : (s.emit o).svcFrom = s.svcFrom := rfl
@[simp] theorem State.emit_clkBad : (s.emit o).clkBad = s.clkBad := rfl
@[simp] theorem State.emit_rx : (s.emit o).rx = s.rx := rfl
@[simp] theorem State.emit_t1s : (s.emit o).t1s = s.t1s := rfl
@[simp] theorem State.emit_win : (s.emit o).win = s.win := rfl
@[simp] theorem State.emit_once : (s.emit o).once = s.once := rfl
@[simp] theorem State.emit_safeSince : (s.emit o).safeSince = s.safeSince := rfl
@[simp] theorem State.emit_scopesAt : (s.emit o).scopesAt = s.scopesAt := rfl
@[simp] theorem State.emit_pavClk : (s.emit o).pavClk = s.pavClk := rfl
@[simp] theorem State.emit_uart : (s.emit o).uart = s.uart := rfl
@[simp] theorem State.emit_injSrc : (s.emit o).injSrc = s.injSrc := rfl
@[simp] theorem State.emit_convFlip : (s.emit o).convFlip = s.convFlip := rfl
@[simp] theorem State.emit_tcm : (s.emit o).tcm = s.tcm := rfl
@[simp] theorem State.emit_ghSyn : (s.emit o).ghSyn = s.ghSyn := rfl
@[simp] theorem State.emit_roseAt : (s.emit o).roseAt = s.roseAt := rfl
@[simp] theorem State.emit_cvuLast : (s.emit o).cvuLast = s.cvuLast := rfl
@[simp] theorem State.emit_cvuStalled : (s.emit o).cvuStalled = s.cvuStalled := rfl
@[simp] theorem State.emit_gkSram : (s.emit o).gkSram = s.gkSram := rfl
@[simp] theorem State.emit_gkSyn : (s.emit o).gkSyn = s.gkSyn := rfl
end

section
variable (s : State) (u : UnitId) (c : CoreSt)
@[simp] theorem State.setCore_pending : (s.setCore u c).pending = s.pending := rfl
@[simp] theorem State.setCore_frc : (s.setCore u c).frc = s.frc := rfl
@[simp] theorem State.setCore_free : (s.setCore u c).free = s.free := rfl
@[simp] theorem State.setCore_regs : (s.setCore u c).regs = s.regs := rfl
@[simp] theorem State.setCore_risen : (s.setCore u c).risen = s.risen := rfl
@[simp] theorem State.setCore_mem : (s.setCore u c).mem = s.mem := rfl
@[simp] theorem State.setCore_syn : (s.setCore u c).syn = s.syn := rfl
@[simp] theorem State.setCore_out : (s.setCore u c).out = s.out := rfl
@[simp] theorem State.setCore_tx : (s.setCore u c).tx = s.tx := rfl
@[simp] theorem State.setCore_streams : (s.setCore u c).streams = s.streams := rfl
@[simp] theorem State.setCore_cores : (s.setCore u c).cores = Tab.set CoreSt.init s.cores (s.physKey u) c := rfl
@[simp] theorem State.setCore_absent : (s.setCore u c).absent = s.absent := rfl
@[simp] theorem State.setCore_wback : (s.setCore u c).wback = s.wback := rfl
@[simp] theorem State.setCore_sramScrub : (s.setCore u c).sramScrub = s.sramScrub := rfl
@[simp] theorem State.setCore_fwForce : (s.setCore u c).fwForce = s.fwForce := rfl
@[simp] theorem State.setCore_prevDom : (s.setCore u c).prevDom = s.prevDom := rfl
@[simp] theorem State.setCore_fusedMap : (s.setCore u c).fusedMap = s.fusedMap := rfl
@[simp] theorem State.setCore_cvuOld : (s.setCore u c).cvuOld = s.cvuOld := rfl
@[simp] theorem State.setCore_icuSvc : (s.setCore u c).icuSvc = s.icuSvc := rfl
@[simp] theorem State.setCore_icuHold : (s.setCore u c).icuHold = s.icuHold := rfl
@[simp] theorem State.setCore_wds : (s.setCore u c).wds = s.wds := rfl
@[simp] theorem State.setCore_dbgHalted : (s.setCore u c).dbgHalted = s.dbgHalted := rfl
@[simp] theorem State.setCore_fcGrp : (s.setCore u c).fcGrp = s.fcGrp := rfl
@[simp] theorem State.setCore_fcCls : (s.setCore u c).fcCls = s.fcCls := rfl
@[simp] theorem State.setCore_fcExt : (s.setCore u c).fcExt = s.fcExt := rfl
@[simp] theorem State.setCore_fcKnown : (s.setCore u c).fcKnown = s.fcKnown := rfl
@[simp] theorem State.setCore_fcLink : (s.setCore u c).fcLink = s.fcLink := rfl
@[simp] theorem State.setCore_fcMinute : (s.setCore u c).fcMinute = s.fcMinute := rfl
@[simp] theorem State.setCore_silent : (s.setCore u c).silent = s.silent := rfl
@[simp] theorem State.setCore_vecAt : (s.setCore u c).vecAt = s.vecAt := rfl
@[simp] theorem State.setCore_evid : (s.setCore u c).evid = s.evid := rfl
@[simp] theorem State.setCore_svcAccess : (s.setCore u c).svcAccess = s.svcAccess := rfl
@[simp] theorem State.setCore_latentAt : (s.setCore u c).latentAt = s.latentAt := rfl
@[simp] theorem State.setCore_dbgOpen : (s.setCore u c).dbgOpen = s.dbgOpen := rfl
@[simp] theorem State.setCore_cyc : (s.setCore u c).cyc = s.cyc := rfl
@[simp] theorem State.setCore_sio : (s.setCore u c).sio = s.sio := rfl
@[simp] theorem State.setCore_fwHold : (s.setCore u c).fwHold = s.fwHold := rfl
@[simp] theorem State.setCore_links : (s.setCore u c).links = s.links := rfl
@[simp] theorem State.setCore_ghUp : (s.setCore u c).ghUp = s.ghUp := rfl
@[simp] theorem State.setCore_bs : (s.setCore u c).bs = s.bs := rfl
@[simp] theorem State.setCore_areasOk : (s.setCore u c).areasOk = s.areasOk := rfl
@[simp] theorem State.setCore_plan : (s.setCore u c).plan = s.plan := rfl
@[simp] theorem State.setCore_bv : (s.setCore u c).bv = s.bv := rfl
@[simp] theorem State.setCore_fol : (s.setCore u c).fol = s.fol := rfl
@[simp] theorem State.setCore_bel : (s.setCore u c).bel = s.bel := rfl
@[simp] theorem State.setCore_tsm : (s.setCore u c).tsm = s.tsm := rfl
@[simp] theorem State.setCore_reqs : (s.setCore u c).reqs = s.reqs := rfl
@[simp] theorem State.setCore_ucmds : (s.setCore u c).ucmds = s.ucmds := rfl
@[simp] theorem State.setCore_collWait : (s.setCore u c).collWait = s.collWait := rfl
@[simp] theorem State.setCore_boot : (s.setCore u c).boot = s.boot := rfl
@[simp] theorem State.setCore_spareFw : (s.setCore u c).spareFw = s.spareFw := rfl
@[simp] theorem State.setCore_sec : (s.setCore u c).sec = s.sec := rfl
@[simp] theorem State.setCore_gk : (s.setCore u c).gk = s.gk := rfl
@[simp] theorem State.setCore_taps : (s.setCore u c).taps = s.taps := rfl
@[simp] theorem State.setCore_pcie : (s.setCore u c).pcie = s.pcie := rfl
@[simp] theorem State.setCore_cal : (s.setCore u c).cal = s.cal := rfl
@[simp] theorem State.setCore_pwr : (s.setCore u c).pwr = s.pwr := rfl
@[simp] theorem State.setCore_scanEnd : (s.setCore u c).scanEnd = s.scanEnd := rfl
@[simp] theorem State.setCore_svcEnd : (s.setCore u c).svcEnd = s.svcEnd := rfl
@[simp] theorem State.setCore_svcFrom : (s.setCore u c).svcFrom = s.svcFrom := rfl
@[simp] theorem State.setCore_clkBad : (s.setCore u c).clkBad = s.clkBad := rfl
@[simp] theorem State.setCore_rx : (s.setCore u c).rx = s.rx := rfl
@[simp] theorem State.setCore_t1s : (s.setCore u c).t1s = s.t1s := rfl
@[simp] theorem State.setCore_win : (s.setCore u c).win = s.win := rfl
@[simp] theorem State.setCore_once : (s.setCore u c).once = s.once := rfl
@[simp] theorem State.setCore_safeSince : (s.setCore u c).safeSince = s.safeSince := rfl
@[simp] theorem State.setCore_scopesAt : (s.setCore u c).scopesAt = s.scopesAt := rfl
@[simp] theorem State.setCore_pavClk : (s.setCore u c).pavClk = s.pavClk := rfl
@[simp] theorem State.setCore_uart : (s.setCore u c).uart = s.uart := rfl
@[simp] theorem State.setCore_injSrc : (s.setCore u c).injSrc = s.injSrc := rfl
@[simp] theorem State.setCore_convFlip : (s.setCore u c).convFlip = s.convFlip := rfl
@[simp] theorem State.setCore_tcm : (s.setCore u c).tcm = s.tcm := rfl
@[simp] theorem State.setCore_ghSyn : (s.setCore u c).ghSyn = s.ghSyn := rfl
@[simp] theorem State.setCore_roseAt : (s.setCore u c).roseAt = s.roseAt := rfl
@[simp] theorem State.setCore_cvuLast : (s.setCore u c).cvuLast = s.cvuLast := rfl
@[simp] theorem State.setCore_cvuStalled : (s.setCore u c).cvuStalled = s.cvuStalled := rfl
@[simp] theorem State.setCore_gkSram : (s.setCore u c).gkSram = s.gkSram := rfl
@[simp] theorem State.setCore_gkSyn : (s.setCore u c).gkSyn = s.gkSyn := rfl
end

section
variable (s : State) (e : Nat) (x : LinkSt)
@[simp] theorem State.setLink_pending : (s.setLink e x).pending = s.pending := rfl
@[simp] theorem State.setLink_frc : (s.setLink e x).frc = s.frc := rfl
@[simp] theorem State.setLink_free : (s.setLink e x).free = s.free := rfl
@[simp] theorem State.setLink_regs : (s.setLink e x).regs = s.regs := rfl
@[simp] theorem State.setLink_risen : (s.setLink e x).risen = s.risen := rfl
@[simp] theorem State.setLink_mem : (s.setLink e x).mem = s.mem := rfl
@[simp] theorem State.setLink_syn : (s.setLink e x).syn = s.syn := rfl
@[simp] theorem State.setLink_out : (s.setLink e x).out = s.out := rfl
@[simp] theorem State.setLink_tx : (s.setLink e x).tx = s.tx := rfl
@[simp] theorem State.setLink_streams : (s.setLink e x).streams = s.streams := rfl
@[simp] theorem State.setLink_cores : (s.setLink e x).cores = s.cores := rfl
@[simp] theorem State.setLink_absent : (s.setLink e x).absent = s.absent := rfl
@[simp] theorem State.setLink_wback : (s.setLink e x).wback = s.wback := rfl
@[simp] theorem State.setLink_sramScrub : (s.setLink e x).sramScrub = s.sramScrub := rfl
@[simp] theorem State.setLink_fwForce : (s.setLink e x).fwForce = s.fwForce := rfl
@[simp] theorem State.setLink_prevDom : (s.setLink e x).prevDom = s.prevDom := rfl
@[simp] theorem State.setLink_fusedMap : (s.setLink e x).fusedMap = s.fusedMap := rfl
@[simp] theorem State.setLink_cvuOld : (s.setLink e x).cvuOld = s.cvuOld := rfl
@[simp] theorem State.setLink_icuSvc : (s.setLink e x).icuSvc = s.icuSvc := rfl
@[simp] theorem State.setLink_icuHold : (s.setLink e x).icuHold = s.icuHold := rfl
@[simp] theorem State.setLink_wds : (s.setLink e x).wds = s.wds := rfl
@[simp] theorem State.setLink_dbgHalted : (s.setLink e x).dbgHalted = s.dbgHalted := rfl
@[simp] theorem State.setLink_fcGrp : (s.setLink e x).fcGrp = s.fcGrp := rfl
@[simp] theorem State.setLink_fcCls : (s.setLink e x).fcCls = s.fcCls := rfl
@[simp] theorem State.setLink_fcExt : (s.setLink e x).fcExt = s.fcExt := rfl
@[simp] theorem State.setLink_fcKnown : (s.setLink e x).fcKnown = s.fcKnown := rfl
@[simp] theorem State.setLink_fcLink : (s.setLink e x).fcLink = s.fcLink := rfl
@[simp] theorem State.setLink_fcMinute : (s.setLink e x).fcMinute = s.fcMinute := rfl
@[simp] theorem State.setLink_silent : (s.setLink e x).silent = s.silent := rfl
@[simp] theorem State.setLink_vecAt : (s.setLink e x).vecAt = s.vecAt := rfl
@[simp] theorem State.setLink_evid : (s.setLink e x).evid = s.evid := rfl
@[simp] theorem State.setLink_svcAccess : (s.setLink e x).svcAccess = s.svcAccess := rfl
@[simp] theorem State.setLink_latentAt : (s.setLink e x).latentAt = s.latentAt := rfl
@[simp] theorem State.setLink_dbgOpen : (s.setLink e x).dbgOpen = s.dbgOpen := rfl
@[simp] theorem State.setLink_cyc : (s.setLink e x).cyc = s.cyc := rfl
@[simp] theorem State.setLink_sio : (s.setLink e x).sio = s.sio := rfl
@[simp] theorem State.setLink_fwHold : (s.setLink e x).fwHold = s.fwHold := rfl
@[simp] theorem State.setLink_links : (s.setLink e x).links = Tab.set LinkSt.init s.links e x := rfl
@[simp] theorem State.setLink_ghUp : (s.setLink e x).ghUp = s.ghUp := rfl
@[simp] theorem State.setLink_bs : (s.setLink e x).bs = s.bs := rfl
@[simp] theorem State.setLink_areasOk : (s.setLink e x).areasOk = s.areasOk := rfl
@[simp] theorem State.setLink_plan : (s.setLink e x).plan = s.plan := rfl
@[simp] theorem State.setLink_bv : (s.setLink e x).bv = s.bv := rfl
@[simp] theorem State.setLink_fol : (s.setLink e x).fol = s.fol := rfl
@[simp] theorem State.setLink_bel : (s.setLink e x).bel = s.bel := rfl
@[simp] theorem State.setLink_tsm : (s.setLink e x).tsm = s.tsm := rfl
@[simp] theorem State.setLink_reqs : (s.setLink e x).reqs = s.reqs := rfl
@[simp] theorem State.setLink_ucmds : (s.setLink e x).ucmds = s.ucmds := rfl
@[simp] theorem State.setLink_collWait : (s.setLink e x).collWait = s.collWait := rfl
@[simp] theorem State.setLink_boot : (s.setLink e x).boot = s.boot := rfl
@[simp] theorem State.setLink_spareFw : (s.setLink e x).spareFw = s.spareFw := rfl
@[simp] theorem State.setLink_sec : (s.setLink e x).sec = s.sec := rfl
@[simp] theorem State.setLink_gk : (s.setLink e x).gk = s.gk := rfl
@[simp] theorem State.setLink_taps : (s.setLink e x).taps = s.taps := rfl
@[simp] theorem State.setLink_pcie : (s.setLink e x).pcie = s.pcie := rfl
@[simp] theorem State.setLink_cal : (s.setLink e x).cal = s.cal := rfl
@[simp] theorem State.setLink_pwr : (s.setLink e x).pwr = s.pwr := rfl
@[simp] theorem State.setLink_scanEnd : (s.setLink e x).scanEnd = s.scanEnd := rfl
@[simp] theorem State.setLink_svcEnd : (s.setLink e x).svcEnd = s.svcEnd := rfl
@[simp] theorem State.setLink_svcFrom : (s.setLink e x).svcFrom = s.svcFrom := rfl
@[simp] theorem State.setLink_clkBad : (s.setLink e x).clkBad = s.clkBad := rfl
@[simp] theorem State.setLink_rx : (s.setLink e x).rx = s.rx := rfl
@[simp] theorem State.setLink_t1s : (s.setLink e x).t1s = s.t1s := rfl
@[simp] theorem State.setLink_win : (s.setLink e x).win = s.win := rfl
@[simp] theorem State.setLink_once : (s.setLink e x).once = s.once := rfl
@[simp] theorem State.setLink_safeSince : (s.setLink e x).safeSince = s.safeSince := rfl
@[simp] theorem State.setLink_scopesAt : (s.setLink e x).scopesAt = s.scopesAt := rfl
@[simp] theorem State.setLink_pavClk : (s.setLink e x).pavClk = s.pavClk := rfl
@[simp] theorem State.setLink_uart : (s.setLink e x).uart = s.uart := rfl
@[simp] theorem State.setLink_injSrc : (s.setLink e x).injSrc = s.injSrc := rfl
@[simp] theorem State.setLink_convFlip : (s.setLink e x).convFlip = s.convFlip := rfl
@[simp] theorem State.setLink_tcm : (s.setLink e x).tcm = s.tcm := rfl
@[simp] theorem State.setLink_ghSyn : (s.setLink e x).ghSyn = s.ghSyn := rfl
@[simp] theorem State.setLink_roseAt : (s.setLink e x).roseAt = s.roseAt := rfl
@[simp] theorem State.setLink_cvuLast : (s.setLink e x).cvuLast = s.cvuLast := rfl
@[simp] theorem State.setLink_cvuStalled : (s.setLink e x).cvuStalled = s.cvuStalled := rfl
@[simp] theorem State.setLink_gkSram : (s.setLink e x).gkSram = s.gkSram := rfl
@[simp] theorem State.setLink_gkSyn : (s.setLink e x).gkSyn = s.gkSyn := rfl
end

section
variable (s : State) (r : Nat) (src : BitVec 16) (p : PmStream)
@[simp] theorem State.setStream_pending : (s.setStream r src p).pending = s.pending := rfl
@[simp] theorem State.setStream_frc : (s.setStream r src p).frc = s.frc := rfl
@[simp] theorem State.setStream_free : (s.setStream r src p).free = s.free := rfl
@[simp] theorem State.setStream_regs : (s.setStream r src p).regs = s.regs := rfl
@[simp] theorem State.setStream_risen : (s.setStream r src p).risen = s.risen := rfl
@[simp] theorem State.setStream_mem : (s.setStream r src p).mem = s.mem := rfl
@[simp] theorem State.setStream_syn : (s.setStream r src p).syn = s.syn := rfl
@[simp] theorem State.setStream_out : (s.setStream r src p).out = s.out := rfl
@[simp] theorem State.setStream_tx : (s.setStream r src p).tx = s.tx := rfl
@[simp] theorem State.setStream_streams : (s.setStream r src p).streams = Tab.set PmStream.init s.streams (streamKey r src) p := rfl
@[simp] theorem State.setStream_cores : (s.setStream r src p).cores = s.cores := rfl
@[simp] theorem State.setStream_absent : (s.setStream r src p).absent = s.absent := rfl
@[simp] theorem State.setStream_wback : (s.setStream r src p).wback = s.wback := rfl
@[simp] theorem State.setStream_sramScrub : (s.setStream r src p).sramScrub = s.sramScrub := rfl
@[simp] theorem State.setStream_fwForce : (s.setStream r src p).fwForce = s.fwForce := rfl
@[simp] theorem State.setStream_prevDom : (s.setStream r src p).prevDom = s.prevDom := rfl
@[simp] theorem State.setStream_fusedMap : (s.setStream r src p).fusedMap = s.fusedMap := rfl
@[simp] theorem State.setStream_cvuOld : (s.setStream r src p).cvuOld = s.cvuOld := rfl
@[simp] theorem State.setStream_icuSvc : (s.setStream r src p).icuSvc = s.icuSvc := rfl
@[simp] theorem State.setStream_icuHold : (s.setStream r src p).icuHold = s.icuHold := rfl
@[simp] theorem State.setStream_wds : (s.setStream r src p).wds = s.wds := rfl
@[simp] theorem State.setStream_dbgHalted : (s.setStream r src p).dbgHalted = s.dbgHalted := rfl
@[simp] theorem State.setStream_fcGrp : (s.setStream r src p).fcGrp = s.fcGrp := rfl
@[simp] theorem State.setStream_fcCls : (s.setStream r src p).fcCls = s.fcCls := rfl
@[simp] theorem State.setStream_fcExt : (s.setStream r src p).fcExt = s.fcExt := rfl
@[simp] theorem State.setStream_fcKnown : (s.setStream r src p).fcKnown = s.fcKnown := rfl
@[simp] theorem State.setStream_fcLink : (s.setStream r src p).fcLink = s.fcLink := rfl
@[simp] theorem State.setStream_fcMinute : (s.setStream r src p).fcMinute = s.fcMinute := rfl
@[simp] theorem State.setStream_silent : (s.setStream r src p).silent = s.silent := rfl
@[simp] theorem State.setStream_vecAt : (s.setStream r src p).vecAt = s.vecAt := rfl
@[simp] theorem State.setStream_evid : (s.setStream r src p).evid = s.evid := rfl
@[simp] theorem State.setStream_svcAccess : (s.setStream r src p).svcAccess = s.svcAccess := rfl
@[simp] theorem State.setStream_latentAt : (s.setStream r src p).latentAt = s.latentAt := rfl
@[simp] theorem State.setStream_dbgOpen : (s.setStream r src p).dbgOpen = s.dbgOpen := rfl
@[simp] theorem State.setStream_cyc : (s.setStream r src p).cyc = s.cyc := rfl
@[simp] theorem State.setStream_sio : (s.setStream r src p).sio = s.sio := rfl
@[simp] theorem State.setStream_fwHold : (s.setStream r src p).fwHold = s.fwHold := rfl
@[simp] theorem State.setStream_links : (s.setStream r src p).links = s.links := rfl
@[simp] theorem State.setStream_ghUp : (s.setStream r src p).ghUp = s.ghUp := rfl
@[simp] theorem State.setStream_bs : (s.setStream r src p).bs = s.bs := rfl
@[simp] theorem State.setStream_areasOk : (s.setStream r src p).areasOk = s.areasOk := rfl
@[simp] theorem State.setStream_plan : (s.setStream r src p).plan = s.plan := rfl
@[simp] theorem State.setStream_bv : (s.setStream r src p).bv = s.bv := rfl
@[simp] theorem State.setStream_fol : (s.setStream r src p).fol = s.fol := rfl
@[simp] theorem State.setStream_bel : (s.setStream r src p).bel = s.bel := rfl
@[simp] theorem State.setStream_tsm : (s.setStream r src p).tsm = s.tsm := rfl
@[simp] theorem State.setStream_reqs : (s.setStream r src p).reqs = s.reqs := rfl
@[simp] theorem State.setStream_ucmds : (s.setStream r src p).ucmds = s.ucmds := rfl
@[simp] theorem State.setStream_collWait : (s.setStream r src p).collWait = s.collWait := rfl
@[simp] theorem State.setStream_boot : (s.setStream r src p).boot = s.boot := rfl
@[simp] theorem State.setStream_spareFw : (s.setStream r src p).spareFw = s.spareFw := rfl
@[simp] theorem State.setStream_sec : (s.setStream r src p).sec = s.sec := rfl
@[simp] theorem State.setStream_gk : (s.setStream r src p).gk = s.gk := rfl
@[simp] theorem State.setStream_taps : (s.setStream r src p).taps = s.taps := rfl
@[simp] theorem State.setStream_pcie : (s.setStream r src p).pcie = s.pcie := rfl
@[simp] theorem State.setStream_cal : (s.setStream r src p).cal = s.cal := rfl
@[simp] theorem State.setStream_pwr : (s.setStream r src p).pwr = s.pwr := rfl
@[simp] theorem State.setStream_scanEnd : (s.setStream r src p).scanEnd = s.scanEnd := rfl
@[simp] theorem State.setStream_svcEnd : (s.setStream r src p).svcEnd = s.svcEnd := rfl
@[simp] theorem State.setStream_svcFrom : (s.setStream r src p).svcFrom = s.svcFrom := rfl
@[simp] theorem State.setStream_clkBad : (s.setStream r src p).clkBad = s.clkBad := rfl
@[simp] theorem State.setStream_rx : (s.setStream r src p).rx = s.rx := rfl
@[simp] theorem State.setStream_t1s : (s.setStream r src p).t1s = s.t1s := rfl
@[simp] theorem State.setStream_win : (s.setStream r src p).win = s.win := rfl
@[simp] theorem State.setStream_once : (s.setStream r src p).once = s.once := rfl
@[simp] theorem State.setStream_safeSince : (s.setStream r src p).safeSince = s.safeSince := rfl
@[simp] theorem State.setStream_scopesAt : (s.setStream r src p).scopesAt = s.scopesAt := rfl
@[simp] theorem State.setStream_pavClk : (s.setStream r src p).pavClk = s.pavClk := rfl
@[simp] theorem State.setStream_uart : (s.setStream r src p).uart = s.uart := rfl
@[simp] theorem State.setStream_injSrc : (s.setStream r src p).injSrc = s.injSrc := rfl
@[simp] theorem State.setStream_convFlip : (s.setStream r src p).convFlip = s.convFlip := rfl
@[simp] theorem State.setStream_tcm : (s.setStream r src p).tcm = s.tcm := rfl
@[simp] theorem State.setStream_ghSyn : (s.setStream r src p).ghSyn = s.ghSyn := rfl
@[simp] theorem State.setStream_roseAt : (s.setStream r src p).roseAt = s.roseAt := rfl
@[simp] theorem State.setStream_cvuLast : (s.setStream r src p).cvuLast = s.cvuLast := rfl
@[simp] theorem State.setStream_cvuStalled : (s.setStream r src p).cvuStalled = s.cvuStalled := rfl
@[simp] theorem State.setStream_gkSram : (s.setStream r src p).gkSram = s.gkSram := rfl
@[simp] theorem State.setStream_gkSyn : (s.setStream r src p).gkSyn = s.gkSyn := rfl
end

section
variable (s : State) (k : Nat) (r : Option ReqSt)
@[simp] theorem State.setReq_pending : (s.setReq k r).pending = s.pending := rfl
@[simp] theorem State.setReq_frc : (s.setReq k r).frc = s.frc := rfl
@[simp] theorem State.setReq_free : (s.setReq k r).free = s.free := rfl
@[simp] theorem State.setReq_regs : (s.setReq k r).regs = s.regs := rfl
@[simp] theorem State.setReq_risen : (s.setReq k r).risen = s.risen := rfl
@[simp] theorem State.setReq_mem : (s.setReq k r).mem = s.mem := rfl
@[simp] theorem State.setReq_syn : (s.setReq k r).syn = s.syn := rfl
@[simp] theorem State.setReq_out : (s.setReq k r).out = s.out := rfl
@[simp] theorem State.setReq_tx : (s.setReq k r).tx = s.tx := rfl
@[simp] theorem State.setReq_streams : (s.setReq k r).streams = s.streams := rfl
@[simp] theorem State.setReq_cores : (s.setReq k r).cores = s.cores := rfl
@[simp] theorem State.setReq_absent : (s.setReq k r).absent = s.absent := rfl
@[simp] theorem State.setReq_wback : (s.setReq k r).wback = s.wback := rfl
@[simp] theorem State.setReq_sramScrub : (s.setReq k r).sramScrub = s.sramScrub := rfl
@[simp] theorem State.setReq_fwForce : (s.setReq k r).fwForce = s.fwForce := rfl
@[simp] theorem State.setReq_prevDom : (s.setReq k r).prevDom = s.prevDom := rfl
@[simp] theorem State.setReq_fusedMap : (s.setReq k r).fusedMap = s.fusedMap := rfl
@[simp] theorem State.setReq_cvuOld : (s.setReq k r).cvuOld = s.cvuOld := rfl
@[simp] theorem State.setReq_icuSvc : (s.setReq k r).icuSvc = s.icuSvc := rfl
@[simp] theorem State.setReq_icuHold : (s.setReq k r).icuHold = s.icuHold := rfl
@[simp] theorem State.setReq_wds : (s.setReq k r).wds = s.wds := rfl
@[simp] theorem State.setReq_dbgHalted : (s.setReq k r).dbgHalted = s.dbgHalted := rfl
@[simp] theorem State.setReq_fcGrp : (s.setReq k r).fcGrp = s.fcGrp := rfl
@[simp] theorem State.setReq_fcCls : (s.setReq k r).fcCls = s.fcCls := rfl
@[simp] theorem State.setReq_fcExt : (s.setReq k r).fcExt = s.fcExt := rfl
@[simp] theorem State.setReq_fcKnown : (s.setReq k r).fcKnown = s.fcKnown := rfl
@[simp] theorem State.setReq_fcLink : (s.setReq k r).fcLink = s.fcLink := rfl
@[simp] theorem State.setReq_fcMinute : (s.setReq k r).fcMinute = s.fcMinute := rfl
@[simp] theorem State.setReq_silent : (s.setReq k r).silent = s.silent := rfl
@[simp] theorem State.setReq_vecAt : (s.setReq k r).vecAt = s.vecAt := rfl
@[simp] theorem State.setReq_evid : (s.setReq k r).evid = s.evid := rfl
@[simp] theorem State.setReq_svcAccess : (s.setReq k r).svcAccess = s.svcAccess := rfl
@[simp] theorem State.setReq_latentAt : (s.setReq k r).latentAt = s.latentAt := rfl
@[simp] theorem State.setReq_dbgOpen : (s.setReq k r).dbgOpen = s.dbgOpen := rfl
@[simp] theorem State.setReq_cyc : (s.setReq k r).cyc = s.cyc := rfl
@[simp] theorem State.setReq_sio : (s.setReq k r).sio = s.sio := rfl
@[simp] theorem State.setReq_fwHold : (s.setReq k r).fwHold = s.fwHold := rfl
@[simp] theorem State.setReq_links : (s.setReq k r).links = s.links := rfl
@[simp] theorem State.setReq_ghUp : (s.setReq k r).ghUp = s.ghUp := rfl
@[simp] theorem State.setReq_bs : (s.setReq k r).bs = s.bs := rfl
@[simp] theorem State.setReq_areasOk : (s.setReq k r).areasOk = s.areasOk := rfl
@[simp] theorem State.setReq_plan : (s.setReq k r).plan = s.plan := rfl
@[simp] theorem State.setReq_bv : (s.setReq k r).bv = s.bv := rfl
@[simp] theorem State.setReq_fol : (s.setReq k r).fol = s.fol := rfl
@[simp] theorem State.setReq_bel : (s.setReq k r).bel = s.bel := rfl
@[simp] theorem State.setReq_tsm : (s.setReq k r).tsm = s.tsm := rfl
@[simp] theorem State.setReq_reqs : (s.setReq k r).reqs = Tab.set none s.reqs k r := rfl
@[simp] theorem State.setReq_ucmds : (s.setReq k r).ucmds = s.ucmds := rfl
@[simp] theorem State.setReq_collWait : (s.setReq k r).collWait = s.collWait := rfl
@[simp] theorem State.setReq_boot : (s.setReq k r).boot = s.boot := rfl
@[simp] theorem State.setReq_spareFw : (s.setReq k r).spareFw = s.spareFw := rfl
@[simp] theorem State.setReq_sec : (s.setReq k r).sec = s.sec := rfl
@[simp] theorem State.setReq_gk : (s.setReq k r).gk = s.gk := rfl
@[simp] theorem State.setReq_taps : (s.setReq k r).taps = s.taps := rfl
@[simp] theorem State.setReq_pcie : (s.setReq k r).pcie = s.pcie := rfl
@[simp] theorem State.setReq_cal : (s.setReq k r).cal = s.cal := rfl
@[simp] theorem State.setReq_pwr : (s.setReq k r).pwr = s.pwr := rfl
@[simp] theorem State.setReq_scanEnd : (s.setReq k r).scanEnd = s.scanEnd := rfl
@[simp] theorem State.setReq_svcEnd : (s.setReq k r).svcEnd = s.svcEnd := rfl
@[simp] theorem State.setReq_svcFrom : (s.setReq k r).svcFrom = s.svcFrom := rfl
@[simp] theorem State.setReq_clkBad : (s.setReq k r).clkBad = s.clkBad := rfl
@[simp] theorem State.setReq_rx : (s.setReq k r).rx = s.rx := rfl
@[simp] theorem State.setReq_t1s : (s.setReq k r).t1s = s.t1s := rfl
@[simp] theorem State.setReq_win : (s.setReq k r).win = s.win := rfl
@[simp] theorem State.setReq_once : (s.setReq k r).once = s.once := rfl
@[simp] theorem State.setReq_safeSince : (s.setReq k r).safeSince = s.safeSince := rfl
@[simp] theorem State.setReq_scopesAt : (s.setReq k r).scopesAt = s.scopesAt := rfl
@[simp] theorem State.setReq_pavClk : (s.setReq k r).pavClk = s.pavClk := rfl
@[simp] theorem State.setReq_uart : (s.setReq k r).uart = s.uart := rfl
@[simp] theorem State.setReq_injSrc : (s.setReq k r).injSrc = s.injSrc := rfl
@[simp] theorem State.setReq_convFlip : (s.setReq k r).convFlip = s.convFlip := rfl
@[simp] theorem State.setReq_tcm : (s.setReq k r).tcm = s.tcm := rfl
@[simp] theorem State.setReq_ghSyn : (s.setReq k r).ghSyn = s.ghSyn := rfl
@[simp] theorem State.setReq_roseAt : (s.setReq k r).roseAt = s.roseAt := rfl
@[simp] theorem State.setReq_cvuLast : (s.setReq k r).cvuLast = s.cvuLast := rfl
@[simp] theorem State.setReq_cvuStalled : (s.setReq k r).cvuStalled = s.cvuStalled := rfl
@[simp] theorem State.setReq_gkSram : (s.setReq k r).gkSram = s.gkSram := rfl
@[simp] theorem State.setReq_gkSyn : (s.setReq k r).gkSyn = s.gkSyn := rfl
end

section
variable (s : State) (u : UnitId) (c : Option UCmd)
@[simp] theorem State.setUcmd_pending : (s.setUcmd u c).pending = s.pending := rfl
@[simp] theorem State.setUcmd_frc : (s.setUcmd u c).frc = s.frc := rfl
@[simp] theorem State.setUcmd_free : (s.setUcmd u c).free = s.free := rfl
@[simp] theorem State.setUcmd_regs : (s.setUcmd u c).regs = s.regs := rfl
@[simp] theorem State.setUcmd_risen : (s.setUcmd u c).risen = s.risen := rfl
@[simp] theorem State.setUcmd_mem : (s.setUcmd u c).mem = s.mem := rfl
@[simp] theorem State.setUcmd_syn : (s.setUcmd u c).syn = s.syn := rfl
@[simp] theorem State.setUcmd_out : (s.setUcmd u c).out = s.out := rfl
@[simp] theorem State.setUcmd_tx : (s.setUcmd u c).tx = s.tx := rfl
@[simp] theorem State.setUcmd_streams : (s.setUcmd u c).streams = s.streams := rfl
@[simp] theorem State.setUcmd_cores : (s.setUcmd u c).cores = s.cores := rfl
@[simp] theorem State.setUcmd_absent : (s.setUcmd u c).absent = s.absent := rfl
@[simp] theorem State.setUcmd_wback : (s.setUcmd u c).wback = s.wback := rfl
@[simp] theorem State.setUcmd_sramScrub : (s.setUcmd u c).sramScrub = s.sramScrub := rfl
@[simp] theorem State.setUcmd_fwForce : (s.setUcmd u c).fwForce = s.fwForce := rfl
@[simp] theorem State.setUcmd_prevDom : (s.setUcmd u c).prevDom = s.prevDom := rfl
@[simp] theorem State.setUcmd_fusedMap : (s.setUcmd u c).fusedMap = s.fusedMap := rfl
@[simp] theorem State.setUcmd_cvuOld : (s.setUcmd u c).cvuOld = s.cvuOld := rfl
@[simp] theorem State.setUcmd_icuSvc : (s.setUcmd u c).icuSvc = s.icuSvc := rfl
@[simp] theorem State.setUcmd_icuHold : (s.setUcmd u c).icuHold = s.icuHold := rfl
@[simp] theorem State.setUcmd_wds : (s.setUcmd u c).wds = s.wds := rfl
@[simp] theorem State.setUcmd_dbgHalted : (s.setUcmd u c).dbgHalted = s.dbgHalted := rfl
@[simp] theorem State.setUcmd_fcGrp : (s.setUcmd u c).fcGrp = s.fcGrp := rfl
@[simp] theorem State.setUcmd_fcCls : (s.setUcmd u c).fcCls = s.fcCls := rfl
@[simp] theorem State.setUcmd_fcExt : (s.setUcmd u c).fcExt = s.fcExt := rfl
@[simp] theorem State.setUcmd_fcKnown : (s.setUcmd u c).fcKnown = s.fcKnown := rfl
@[simp] theorem State.setUcmd_fcLink : (s.setUcmd u c).fcLink = s.fcLink := rfl
@[simp] theorem State.setUcmd_fcMinute : (s.setUcmd u c).fcMinute = s.fcMinute := rfl
@[simp] theorem State.setUcmd_silent : (s.setUcmd u c).silent = s.silent := rfl
@[simp] theorem State.setUcmd_vecAt : (s.setUcmd u c).vecAt = s.vecAt := rfl
@[simp] theorem State.setUcmd_evid : (s.setUcmd u c).evid = s.evid := rfl
@[simp] theorem State.setUcmd_svcAccess : (s.setUcmd u c).svcAccess = s.svcAccess := rfl
@[simp] theorem State.setUcmd_latentAt : (s.setUcmd u c).latentAt = s.latentAt := rfl
@[simp] theorem State.setUcmd_dbgOpen : (s.setUcmd u c).dbgOpen = s.dbgOpen := rfl
@[simp] theorem State.setUcmd_cyc : (s.setUcmd u c).cyc = s.cyc := rfl
@[simp] theorem State.setUcmd_sio : (s.setUcmd u c).sio = s.sio := rfl
@[simp] theorem State.setUcmd_fwHold : (s.setUcmd u c).fwHold = s.fwHold := rfl
@[simp] theorem State.setUcmd_links : (s.setUcmd u c).links = s.links := rfl
@[simp] theorem State.setUcmd_ghUp : (s.setUcmd u c).ghUp = s.ghUp := rfl
@[simp] theorem State.setUcmd_bs : (s.setUcmd u c).bs = s.bs := rfl
@[simp] theorem State.setUcmd_areasOk : (s.setUcmd u c).areasOk = s.areasOk := rfl
@[simp] theorem State.setUcmd_plan : (s.setUcmd u c).plan = s.plan := rfl
@[simp] theorem State.setUcmd_bv : (s.setUcmd u c).bv = s.bv := rfl
@[simp] theorem State.setUcmd_fol : (s.setUcmd u c).fol = s.fol := rfl
@[simp] theorem State.setUcmd_bel : (s.setUcmd u c).bel = s.bel := rfl
@[simp] theorem State.setUcmd_tsm : (s.setUcmd u c).tsm = s.tsm := rfl
@[simp] theorem State.setUcmd_reqs : (s.setUcmd u c).reqs = s.reqs := rfl
@[simp] theorem State.setUcmd_ucmds : (s.setUcmd u c).ucmds = Tab.set none s.ucmds u.toNat c := rfl
@[simp] theorem State.setUcmd_collWait : (s.setUcmd u c).collWait = s.collWait := rfl
@[simp] theorem State.setUcmd_boot : (s.setUcmd u c).boot = s.boot := rfl
@[simp] theorem State.setUcmd_spareFw : (s.setUcmd u c).spareFw = s.spareFw := rfl
@[simp] theorem State.setUcmd_sec : (s.setUcmd u c).sec = s.sec := rfl
@[simp] theorem State.setUcmd_gk : (s.setUcmd u c).gk = s.gk := rfl
@[simp] theorem State.setUcmd_taps : (s.setUcmd u c).taps = s.taps := rfl
@[simp] theorem State.setUcmd_pcie : (s.setUcmd u c).pcie = s.pcie := rfl
@[simp] theorem State.setUcmd_cal : (s.setUcmd u c).cal = s.cal := rfl
@[simp] theorem State.setUcmd_pwr : (s.setUcmd u c).pwr = s.pwr := rfl
@[simp] theorem State.setUcmd_scanEnd : (s.setUcmd u c).scanEnd = s.scanEnd := rfl
@[simp] theorem State.setUcmd_svcEnd : (s.setUcmd u c).svcEnd = s.svcEnd := rfl
@[simp] theorem State.setUcmd_svcFrom : (s.setUcmd u c).svcFrom = s.svcFrom := rfl
@[simp] theorem State.setUcmd_clkBad : (s.setUcmd u c).clkBad = s.clkBad := rfl
@[simp] theorem State.setUcmd_rx : (s.setUcmd u c).rx = s.rx := rfl
@[simp] theorem State.setUcmd_t1s : (s.setUcmd u c).t1s = s.t1s := rfl
@[simp] theorem State.setUcmd_win : (s.setUcmd u c).win = s.win := rfl
@[simp] theorem State.setUcmd_once : (s.setUcmd u c).once = s.once := rfl
@[simp] theorem State.setUcmd_safeSince : (s.setUcmd u c).safeSince = s.safeSince := rfl
@[simp] theorem State.setUcmd_scopesAt : (s.setUcmd u c).scopesAt = s.scopesAt := rfl
@[simp] theorem State.setUcmd_pavClk : (s.setUcmd u c).pavClk = s.pavClk := rfl
@[simp] theorem State.setUcmd_uart : (s.setUcmd u c).uart = s.uart := rfl
@[simp] theorem State.setUcmd_injSrc : (s.setUcmd u c).injSrc = s.injSrc := rfl
@[simp] theorem State.setUcmd_convFlip : (s.setUcmd u c).convFlip = s.convFlip := rfl
@[simp] theorem State.setUcmd_tcm : (s.setUcmd u c).tcm = s.tcm := rfl
@[simp] theorem State.setUcmd_ghSyn : (s.setUcmd u c).ghSyn = s.ghSyn := rfl
@[simp] theorem State.setUcmd_roseAt : (s.setUcmd u c).roseAt = s.roseAt := rfl
@[simp] theorem State.setUcmd_cvuLast : (s.setUcmd u c).cvuLast = s.cvuLast := rfl
@[simp] theorem State.setUcmd_cvuStalled : (s.setUcmd u c).cvuStalled = s.cvuStalled := rfl
@[simp] theorem State.setUcmd_gkSram : (s.setUcmd u c).gkSram = s.gkSram := rfl
@[simp] theorem State.setUcmd_gkSyn : (s.setUcmd u c).gkSyn = s.gkSyn := rfl
end

section
variable (s : State) (w : Nat) (x : WdSt)
@[simp] theorem State.setWd_pending : (s.setWd w x).pending = s.pending := rfl
@[simp] theorem State.setWd_frc : (s.setWd w x).frc = s.frc := rfl
@[simp] theorem State.setWd_free : (s.setWd w x).free = s.free := rfl
@[simp] theorem State.setWd_regs : (s.setWd w x).regs = s.regs := rfl
@[simp] theorem State.setWd_risen : (s.setWd w x).risen = s.risen := rfl
@[simp] theorem State.setWd_mem : (s.setWd w x).mem = s.mem := rfl
@[simp] theorem State.setWd_syn : (s.setWd w x).syn = s.syn := rfl
@[simp] theorem State.setWd_out : (s.setWd w x).out = s.out := rfl
@[simp] theorem State.setWd_tx : (s.setWd w x).tx = s.tx := rfl
@[simp] theorem State.setWd_streams : (s.setWd w x).streams = s.streams := rfl
@[simp] theorem State.setWd_cores : (s.setWd w x).cores = s.cores := rfl
@[simp] theorem State.setWd_absent : (s.setWd w x).absent = s.absent := rfl
@[simp] theorem State.setWd_wback : (s.setWd w x).wback = s.wback := rfl
@[simp] theorem State.setWd_sramScrub : (s.setWd w x).sramScrub = s.sramScrub := rfl
@[simp] theorem State.setWd_fwForce : (s.setWd w x).fwForce = s.fwForce := rfl
@[simp] theorem State.setWd_prevDom : (s.setWd w x).prevDom = s.prevDom := rfl
@[simp] theorem State.setWd_fusedMap : (s.setWd w x).fusedMap = s.fusedMap := rfl
@[simp] theorem State.setWd_cvuOld : (s.setWd w x).cvuOld = s.cvuOld := rfl
@[simp] theorem State.setWd_icuSvc : (s.setWd w x).icuSvc = s.icuSvc := rfl
@[simp] theorem State.setWd_icuHold : (s.setWd w x).icuHold = s.icuHold := rfl
@[simp] theorem State.setWd_wds : (s.setWd w x).wds = Tab.set WdSt.init s.wds w x := rfl
@[simp] theorem State.setWd_dbgHalted : (s.setWd w x).dbgHalted = s.dbgHalted := rfl
@[simp] theorem State.setWd_fcGrp : (s.setWd w x).fcGrp = s.fcGrp := rfl
@[simp] theorem State.setWd_fcCls : (s.setWd w x).fcCls = s.fcCls := rfl
@[simp] theorem State.setWd_fcExt : (s.setWd w x).fcExt = s.fcExt := rfl
@[simp] theorem State.setWd_fcKnown : (s.setWd w x).fcKnown = s.fcKnown := rfl
@[simp] theorem State.setWd_fcLink : (s.setWd w x).fcLink = s.fcLink := rfl
@[simp] theorem State.setWd_fcMinute : (s.setWd w x).fcMinute = s.fcMinute := rfl
@[simp] theorem State.setWd_silent : (s.setWd w x).silent = s.silent := rfl
@[simp] theorem State.setWd_vecAt : (s.setWd w x).vecAt = s.vecAt := rfl
@[simp] theorem State.setWd_evid : (s.setWd w x).evid = s.evid := rfl
@[simp] theorem State.setWd_svcAccess : (s.setWd w x).svcAccess = s.svcAccess := rfl
@[simp] theorem State.setWd_latentAt : (s.setWd w x).latentAt = s.latentAt := rfl
@[simp] theorem State.setWd_dbgOpen : (s.setWd w x).dbgOpen = s.dbgOpen := rfl
@[simp] theorem State.setWd_cyc : (s.setWd w x).cyc = s.cyc := rfl
@[simp] theorem State.setWd_sio : (s.setWd w x).sio = s.sio := rfl
@[simp] theorem State.setWd_fwHold : (s.setWd w x).fwHold = s.fwHold := rfl
@[simp] theorem State.setWd_links : (s.setWd w x).links = s.links := rfl
@[simp] theorem State.setWd_ghUp : (s.setWd w x).ghUp = s.ghUp := rfl
@[simp] theorem State.setWd_bs : (s.setWd w x).bs = s.bs := rfl
@[simp] theorem State.setWd_areasOk : (s.setWd w x).areasOk = s.areasOk := rfl
@[simp] theorem State.setWd_plan : (s.setWd w x).plan = s.plan := rfl
@[simp] theorem State.setWd_bv : (s.setWd w x).bv = s.bv := rfl
@[simp] theorem State.setWd_fol : (s.setWd w x).fol = s.fol := rfl
@[simp] theorem State.setWd_bel : (s.setWd w x).bel = s.bel := rfl
@[simp] theorem State.setWd_tsm : (s.setWd w x).tsm = s.tsm := rfl
@[simp] theorem State.setWd_reqs : (s.setWd w x).reqs = s.reqs := rfl
@[simp] theorem State.setWd_ucmds : (s.setWd w x).ucmds = s.ucmds := rfl
@[simp] theorem State.setWd_collWait : (s.setWd w x).collWait = s.collWait := rfl
@[simp] theorem State.setWd_boot : (s.setWd w x).boot = s.boot := rfl
@[simp] theorem State.setWd_spareFw : (s.setWd w x).spareFw = s.spareFw := rfl
@[simp] theorem State.setWd_sec : (s.setWd w x).sec = s.sec := rfl
@[simp] theorem State.setWd_gk : (s.setWd w x).gk = s.gk := rfl
@[simp] theorem State.setWd_taps : (s.setWd w x).taps = s.taps := rfl
@[simp] theorem State.setWd_pcie : (s.setWd w x).pcie = s.pcie := rfl
@[simp] theorem State.setWd_cal : (s.setWd w x).cal = s.cal := rfl
@[simp] theorem State.setWd_pwr : (s.setWd w x).pwr = s.pwr := rfl
@[simp] theorem State.setWd_scanEnd : (s.setWd w x).scanEnd = s.scanEnd := rfl
@[simp] theorem State.setWd_svcEnd : (s.setWd w x).svcEnd = s.svcEnd := rfl
@[simp] theorem State.setWd_svcFrom : (s.setWd w x).svcFrom = s.svcFrom := rfl
@[simp] theorem State.setWd_clkBad : (s.setWd w x).clkBad = s.clkBad := rfl
@[simp] theorem State.setWd_rx : (s.setWd w x).rx = s.rx := rfl
@[simp] theorem State.setWd_t1s : (s.setWd w x).t1s = s.t1s := rfl
@[simp] theorem State.setWd_win : (s.setWd w x).win = s.win := rfl
@[simp] theorem State.setWd_once : (s.setWd w x).once = s.once := rfl
@[simp] theorem State.setWd_safeSince : (s.setWd w x).safeSince = s.safeSince := rfl
@[simp] theorem State.setWd_scopesAt : (s.setWd w x).scopesAt = s.scopesAt := rfl
@[simp] theorem State.setWd_pavClk : (s.setWd w x).pavClk = s.pavClk := rfl
@[simp] theorem State.setWd_uart : (s.setWd w x).uart = s.uart := rfl
@[simp] theorem State.setWd_injSrc : (s.setWd w x).injSrc = s.injSrc := rfl
@[simp] theorem State.setWd_convFlip : (s.setWd w x).convFlip = s.convFlip := rfl
@[simp] theorem State.setWd_tcm : (s.setWd w x).tcm = s.tcm := rfl
@[simp] theorem State.setWd_ghSyn : (s.setWd w x).ghSyn = s.ghSyn := rfl
@[simp] theorem State.setWd_roseAt : (s.setWd w x).roseAt = s.roseAt := rfl
@[simp] theorem State.setWd_cvuLast : (s.setWd w x).cvuLast = s.cvuLast := rfl
@[simp] theorem State.setWd_cvuStalled : (s.setWd w x).cvuStalled = s.cvuStalled := rfl
@[simp] theorem State.setWd_gkSram : (s.setWd w x).gkSram = s.gkSram := rfl
@[simp] theorem State.setWd_gkSyn : (s.setWd w x).gkSyn = s.gkSyn := rfl
end

section
variable (s : State) (b : BvSt)
@[simp] theorem State.setBv_pending : (s.setBv b).pending = s.pending := rfl
@[simp] theorem State.setBv_frc : (s.setBv b).frc = s.frc := rfl
@[simp] theorem State.setBv_free : (s.setBv b).free = s.free := rfl
@[simp] theorem State.setBv_regs : (s.setBv b).regs = s.regs := rfl
@[simp] theorem State.setBv_risen : (s.setBv b).risen = s.risen := rfl
@[simp] theorem State.setBv_mem : (s.setBv b).mem = s.mem := rfl
@[simp] theorem State.setBv_syn : (s.setBv b).syn = s.syn := rfl
@[simp] theorem State.setBv_out : (s.setBv b).out = s.out := rfl
@[simp] theorem State.setBv_tx : (s.setBv b).tx = s.tx := rfl
@[simp] theorem State.setBv_streams : (s.setBv b).streams = s.streams := rfl
@[simp] theorem State.setBv_cores : (s.setBv b).cores = s.cores := rfl
@[simp] theorem State.setBv_absent : (s.setBv b).absent = s.absent := rfl
@[simp] theorem State.setBv_wback : (s.setBv b).wback = s.wback := rfl
@[simp] theorem State.setBv_sramScrub : (s.setBv b).sramScrub = s.sramScrub := rfl
@[simp] theorem State.setBv_fwForce : (s.setBv b).fwForce = s.fwForce := rfl
@[simp] theorem State.setBv_prevDom : (s.setBv b).prevDom = s.prevDom := rfl
@[simp] theorem State.setBv_fusedMap : (s.setBv b).fusedMap = s.fusedMap := rfl
@[simp] theorem State.setBv_cvuOld : (s.setBv b).cvuOld = s.cvuOld := rfl
@[simp] theorem State.setBv_icuSvc : (s.setBv b).icuSvc = s.icuSvc := rfl
@[simp] theorem State.setBv_icuHold : (s.setBv b).icuHold = s.icuHold := rfl
@[simp] theorem State.setBv_wds : (s.setBv b).wds = s.wds := rfl
@[simp] theorem State.setBv_dbgHalted : (s.setBv b).dbgHalted = s.dbgHalted := rfl
@[simp] theorem State.setBv_fcGrp : (s.setBv b).fcGrp = s.fcGrp := rfl
@[simp] theorem State.setBv_fcCls : (s.setBv b).fcCls = s.fcCls := rfl
@[simp] theorem State.setBv_fcExt : (s.setBv b).fcExt = s.fcExt := rfl
@[simp] theorem State.setBv_fcKnown : (s.setBv b).fcKnown = s.fcKnown := rfl
@[simp] theorem State.setBv_fcLink : (s.setBv b).fcLink = s.fcLink := rfl
@[simp] theorem State.setBv_fcMinute : (s.setBv b).fcMinute = s.fcMinute := rfl
@[simp] theorem State.setBv_silent : (s.setBv b).silent = s.silent := rfl
@[simp] theorem State.setBv_vecAt : (s.setBv b).vecAt = s.vecAt := rfl
@[simp] theorem State.setBv_evid : (s.setBv b).evid = s.evid := rfl
@[simp] theorem State.setBv_svcAccess : (s.setBv b).svcAccess = s.svcAccess := rfl
@[simp] theorem State.setBv_latentAt : (s.setBv b).latentAt = s.latentAt := rfl
@[simp] theorem State.setBv_dbgOpen : (s.setBv b).dbgOpen = s.dbgOpen := rfl
@[simp] theorem State.setBv_cyc : (s.setBv b).cyc = s.cyc := rfl
@[simp] theorem State.setBv_sio : (s.setBv b).sio = s.sio := rfl
@[simp] theorem State.setBv_fwHold : (s.setBv b).fwHold = s.fwHold := rfl
@[simp] theorem State.setBv_links : (s.setBv b).links = s.links := rfl
@[simp] theorem State.setBv_ghUp : (s.setBv b).ghUp = s.ghUp := rfl
@[simp] theorem State.setBv_bs : (s.setBv b).bs = s.bs := rfl
@[simp] theorem State.setBv_areasOk : (s.setBv b).areasOk = s.areasOk := rfl
@[simp] theorem State.setBv_plan : (s.setBv b).plan = s.plan := rfl
@[simp] theorem State.setBv_bv : (s.setBv b).bv = b := rfl
@[simp] theorem State.setBv_fol : (s.setBv b).fol = s.fol := rfl
@[simp] theorem State.setBv_bel : (s.setBv b).bel = s.bel := rfl
@[simp] theorem State.setBv_tsm : (s.setBv b).tsm = s.tsm := rfl
@[simp] theorem State.setBv_reqs : (s.setBv b).reqs = s.reqs := rfl
@[simp] theorem State.setBv_ucmds : (s.setBv b).ucmds = s.ucmds := rfl
@[simp] theorem State.setBv_collWait : (s.setBv b).collWait = s.collWait := rfl
@[simp] theorem State.setBv_boot : (s.setBv b).boot = s.boot := rfl
@[simp] theorem State.setBv_spareFw : (s.setBv b).spareFw = s.spareFw := rfl
@[simp] theorem State.setBv_sec : (s.setBv b).sec = s.sec := rfl
@[simp] theorem State.setBv_gk : (s.setBv b).gk = s.gk := rfl
@[simp] theorem State.setBv_taps : (s.setBv b).taps = s.taps := rfl
@[simp] theorem State.setBv_pcie : (s.setBv b).pcie = s.pcie := rfl
@[simp] theorem State.setBv_cal : (s.setBv b).cal = s.cal := rfl
@[simp] theorem State.setBv_pwr : (s.setBv b).pwr = s.pwr := rfl
@[simp] theorem State.setBv_scanEnd : (s.setBv b).scanEnd = s.scanEnd := rfl
@[simp] theorem State.setBv_svcEnd : (s.setBv b).svcEnd = s.svcEnd := rfl
@[simp] theorem State.setBv_svcFrom : (s.setBv b).svcFrom = s.svcFrom := rfl
@[simp] theorem State.setBv_clkBad : (s.setBv b).clkBad = s.clkBad := rfl
@[simp] theorem State.setBv_rx : (s.setBv b).rx = s.rx := rfl
@[simp] theorem State.setBv_t1s : (s.setBv b).t1s = s.t1s := rfl
@[simp] theorem State.setBv_win : (s.setBv b).win = s.win := rfl
@[simp] theorem State.setBv_once : (s.setBv b).once = s.once := rfl
@[simp] theorem State.setBv_safeSince : (s.setBv b).safeSince = s.safeSince := rfl
@[simp] theorem State.setBv_scopesAt : (s.setBv b).scopesAt = s.scopesAt := rfl
@[simp] theorem State.setBv_pavClk : (s.setBv b).pavClk = s.pavClk := rfl
@[simp] theorem State.setBv_uart : (s.setBv b).uart = s.uart := rfl
@[simp] theorem State.setBv_injSrc : (s.setBv b).injSrc = s.injSrc := rfl
@[simp] theorem State.setBv_convFlip : (s.setBv b).convFlip = s.convFlip := rfl
@[simp] theorem State.setBv_tcm : (s.setBv b).tcm = s.tcm := rfl
@[simp] theorem State.setBv_ghSyn : (s.setBv b).ghSyn = s.ghSyn := rfl
@[simp] theorem State.setBv_roseAt : (s.setBv b).roseAt = s.roseAt := rfl
@[simp] theorem State.setBv_cvuLast : (s.setBv b).cvuLast = s.cvuLast := rfl
@[simp] theorem State.setBv_cvuStalled : (s.setBv b).cvuStalled = s.cvuStalled := rfl
@[simp] theorem State.setBv_gkSram : (s.setBv b).gkSram = s.gkSram := rfl
@[simp] theorem State.setBv_gkSyn : (s.setBv b).gkSyn = s.gkSyn := rfl
end

section
variable (s : State) (p : PlanSt)
@[simp] theorem State.setPlan_pending : (s.setPlan p).pending = s.pending := rfl
@[simp] theorem State.setPlan_frc : (s.setPlan p).frc = s.frc := rfl
@[simp] theorem State.setPlan_free : (s.setPlan p).free = s.free := rfl
@[simp] theorem State.setPlan_regs : (s.setPlan p).regs = s.regs := rfl
@[simp] theorem State.setPlan_risen : (s.setPlan p).risen = s.risen := rfl
@[simp] theorem State.setPlan_mem : (s.setPlan p).mem = s.mem := rfl
@[simp] theorem State.setPlan_syn : (s.setPlan p).syn = s.syn := rfl
@[simp] theorem State.setPlan_out : (s.setPlan p).out = s.out := rfl
@[simp] theorem State.setPlan_tx : (s.setPlan p).tx = s.tx := rfl
@[simp] theorem State.setPlan_streams : (s.setPlan p).streams = s.streams := rfl
@[simp] theorem State.setPlan_cores : (s.setPlan p).cores = s.cores := rfl
@[simp] theorem State.setPlan_absent : (s.setPlan p).absent = s.absent := rfl
@[simp] theorem State.setPlan_wback : (s.setPlan p).wback = s.wback := rfl
@[simp] theorem State.setPlan_sramScrub : (s.setPlan p).sramScrub = s.sramScrub := rfl
@[simp] theorem State.setPlan_fwForce : (s.setPlan p).fwForce = s.fwForce := rfl
@[simp] theorem State.setPlan_prevDom : (s.setPlan p).prevDom = s.prevDom := rfl
@[simp] theorem State.setPlan_fusedMap : (s.setPlan p).fusedMap = s.fusedMap := rfl
@[simp] theorem State.setPlan_cvuOld : (s.setPlan p).cvuOld = s.cvuOld := rfl
@[simp] theorem State.setPlan_icuSvc : (s.setPlan p).icuSvc = s.icuSvc := rfl
@[simp] theorem State.setPlan_icuHold : (s.setPlan p).icuHold = s.icuHold := rfl
@[simp] theorem State.setPlan_wds : (s.setPlan p).wds = s.wds := rfl
@[simp] theorem State.setPlan_dbgHalted : (s.setPlan p).dbgHalted = s.dbgHalted := rfl
@[simp] theorem State.setPlan_fcGrp : (s.setPlan p).fcGrp = s.fcGrp := rfl
@[simp] theorem State.setPlan_fcCls : (s.setPlan p).fcCls = s.fcCls := rfl
@[simp] theorem State.setPlan_fcExt : (s.setPlan p).fcExt = s.fcExt := rfl
@[simp] theorem State.setPlan_fcKnown : (s.setPlan p).fcKnown = s.fcKnown := rfl
@[simp] theorem State.setPlan_fcLink : (s.setPlan p).fcLink = s.fcLink := rfl
@[simp] theorem State.setPlan_fcMinute : (s.setPlan p).fcMinute = s.fcMinute := rfl
@[simp] theorem State.setPlan_silent : (s.setPlan p).silent = s.silent := rfl
@[simp] theorem State.setPlan_vecAt : (s.setPlan p).vecAt = s.vecAt := rfl
@[simp] theorem State.setPlan_evid : (s.setPlan p).evid = s.evid := rfl
@[simp] theorem State.setPlan_svcAccess : (s.setPlan p).svcAccess = s.svcAccess := rfl
@[simp] theorem State.setPlan_latentAt : (s.setPlan p).latentAt = s.latentAt := rfl
@[simp] theorem State.setPlan_dbgOpen : (s.setPlan p).dbgOpen = s.dbgOpen := rfl
@[simp] theorem State.setPlan_cyc : (s.setPlan p).cyc = s.cyc := rfl
@[simp] theorem State.setPlan_sio : (s.setPlan p).sio = s.sio := rfl
@[simp] theorem State.setPlan_fwHold : (s.setPlan p).fwHold = s.fwHold := rfl
@[simp] theorem State.setPlan_links : (s.setPlan p).links = s.links := rfl
@[simp] theorem State.setPlan_ghUp : (s.setPlan p).ghUp = s.ghUp := rfl
@[simp] theorem State.setPlan_bs : (s.setPlan p).bs = s.bs := rfl
@[simp] theorem State.setPlan_areasOk : (s.setPlan p).areasOk = s.areasOk := rfl
@[simp] theorem State.setPlan_plan : (s.setPlan p).plan = p := rfl
@[simp] theorem State.setPlan_bv : (s.setPlan p).bv = s.bv := rfl
@[simp] theorem State.setPlan_fol : (s.setPlan p).fol = s.fol := rfl
@[simp] theorem State.setPlan_bel : (s.setPlan p).bel = s.bel := rfl
@[simp] theorem State.setPlan_tsm : (s.setPlan p).tsm = s.tsm := rfl
@[simp] theorem State.setPlan_reqs : (s.setPlan p).reqs = s.reqs := rfl
@[simp] theorem State.setPlan_ucmds : (s.setPlan p).ucmds = s.ucmds := rfl
@[simp] theorem State.setPlan_collWait : (s.setPlan p).collWait = s.collWait := rfl
@[simp] theorem State.setPlan_boot : (s.setPlan p).boot = s.boot := rfl
@[simp] theorem State.setPlan_spareFw : (s.setPlan p).spareFw = s.spareFw := rfl
@[simp] theorem State.setPlan_sec : (s.setPlan p).sec = s.sec := rfl
@[simp] theorem State.setPlan_gk : (s.setPlan p).gk = s.gk := rfl
@[simp] theorem State.setPlan_taps : (s.setPlan p).taps = s.taps := rfl
@[simp] theorem State.setPlan_pcie : (s.setPlan p).pcie = s.pcie := rfl
@[simp] theorem State.setPlan_cal : (s.setPlan p).cal = s.cal := rfl
@[simp] theorem State.setPlan_pwr : (s.setPlan p).pwr = s.pwr := rfl
@[simp] theorem State.setPlan_scanEnd : (s.setPlan p).scanEnd = s.scanEnd := rfl
@[simp] theorem State.setPlan_svcEnd : (s.setPlan p).svcEnd = s.svcEnd := rfl
@[simp] theorem State.setPlan_svcFrom : (s.setPlan p).svcFrom = s.svcFrom := rfl
@[simp] theorem State.setPlan_clkBad : (s.setPlan p).clkBad = s.clkBad := rfl
@[simp] theorem State.setPlan_rx : (s.setPlan p).rx = s.rx := rfl
@[simp] theorem State.setPlan_t1s : (s.setPlan p).t1s = s.t1s := rfl
@[simp] theorem State.setPlan_win : (s.setPlan p).win = s.win := rfl
@[simp] theorem State.setPlan_once : (s.setPlan p).once = s.once := rfl
@[simp] theorem State.setPlan_safeSince : (s.setPlan p).safeSince = s.safeSince := rfl
@[simp] theorem State.setPlan_scopesAt : (s.setPlan p).scopesAt = s.scopesAt := rfl
@[simp] theorem State.setPlan_pavClk : (s.setPlan p).pavClk = s.pavClk := rfl
@[simp] theorem State.setPlan_uart : (s.setPlan p).uart = s.uart := rfl
@[simp] theorem State.setPlan_injSrc : (s.setPlan p).injSrc = s.injSrc := rfl
@[simp] theorem State.setPlan_convFlip : (s.setPlan p).convFlip = s.convFlip := rfl
@[simp] theorem State.setPlan_tcm : (s.setPlan p).tcm = s.tcm := rfl
@[simp] theorem State.setPlan_ghSyn : (s.setPlan p).ghSyn = s.ghSyn := rfl
@[simp] theorem State.setPlan_roseAt : (s.setPlan p).roseAt = s.roseAt := rfl
@[simp] theorem State.setPlan_cvuLast : (s.setPlan p).cvuLast = s.cvuLast := rfl
@[simp] theorem State.setPlan_cvuStalled : (s.setPlan p).cvuStalled = s.cvuStalled := rfl
@[simp] theorem State.setPlan_gkSram : (s.setPlan p).gkSram = s.gkSram := rfl
@[simp] theorem State.setPlan_gkSyn : (s.setPlan p).gkSyn = s.gkSyn := rfl
end

section
variable (s : State) (f : FolSt)
@[simp] theorem State.setFol_pending : (s.setFol f).pending = s.pending := rfl
@[simp] theorem State.setFol_frc : (s.setFol f).frc = s.frc := rfl
@[simp] theorem State.setFol_free : (s.setFol f).free = s.free := rfl
@[simp] theorem State.setFol_regs : (s.setFol f).regs = s.regs := rfl
@[simp] theorem State.setFol_risen : (s.setFol f).risen = s.risen := rfl
@[simp] theorem State.setFol_mem : (s.setFol f).mem = s.mem := rfl
@[simp] theorem State.setFol_syn : (s.setFol f).syn = s.syn := rfl
@[simp] theorem State.setFol_out : (s.setFol f).out = s.out := rfl
@[simp] theorem State.setFol_tx : (s.setFol f).tx = s.tx := rfl
@[simp] theorem State.setFol_streams : (s.setFol f).streams = s.streams := rfl
@[simp] theorem State.setFol_cores : (s.setFol f).cores = s.cores := rfl
@[simp] theorem State.setFol_absent : (s.setFol f).absent = s.absent := rfl
@[simp] theorem State.setFol_wback : (s.setFol f).wback = s.wback := rfl
@[simp] theorem State.setFol_sramScrub : (s.setFol f).sramScrub = s.sramScrub := rfl
@[simp] theorem State.setFol_fwForce : (s.setFol f).fwForce = s.fwForce := rfl
@[simp] theorem State.setFol_prevDom : (s.setFol f).prevDom = s.prevDom := rfl
@[simp] theorem State.setFol_fusedMap : (s.setFol f).fusedMap = s.fusedMap := rfl
@[simp] theorem State.setFol_cvuOld : (s.setFol f).cvuOld = s.cvuOld := rfl
@[simp] theorem State.setFol_icuSvc : (s.setFol f).icuSvc = s.icuSvc := rfl
@[simp] theorem State.setFol_icuHold : (s.setFol f).icuHold = s.icuHold := rfl
@[simp] theorem State.setFol_wds : (s.setFol f).wds = s.wds := rfl
@[simp] theorem State.setFol_dbgHalted : (s.setFol f).dbgHalted = s.dbgHalted := rfl
@[simp] theorem State.setFol_fcGrp : (s.setFol f).fcGrp = s.fcGrp := rfl
@[simp] theorem State.setFol_fcCls : (s.setFol f).fcCls = s.fcCls := rfl
@[simp] theorem State.setFol_fcExt : (s.setFol f).fcExt = s.fcExt := rfl
@[simp] theorem State.setFol_fcKnown : (s.setFol f).fcKnown = s.fcKnown := rfl
@[simp] theorem State.setFol_fcLink : (s.setFol f).fcLink = s.fcLink := rfl
@[simp] theorem State.setFol_fcMinute : (s.setFol f).fcMinute = s.fcMinute := rfl
@[simp] theorem State.setFol_silent : (s.setFol f).silent = s.silent := rfl
@[simp] theorem State.setFol_vecAt : (s.setFol f).vecAt = s.vecAt := rfl
@[simp] theorem State.setFol_evid : (s.setFol f).evid = s.evid := rfl
@[simp] theorem State.setFol_svcAccess : (s.setFol f).svcAccess = s.svcAccess := rfl
@[simp] theorem State.setFol_latentAt : (s.setFol f).latentAt = s.latentAt := rfl
@[simp] theorem State.setFol_dbgOpen : (s.setFol f).dbgOpen = s.dbgOpen := rfl
@[simp] theorem State.setFol_cyc : (s.setFol f).cyc = s.cyc := rfl
@[simp] theorem State.setFol_sio : (s.setFol f).sio = s.sio := rfl
@[simp] theorem State.setFol_fwHold : (s.setFol f).fwHold = s.fwHold := rfl
@[simp] theorem State.setFol_links : (s.setFol f).links = s.links := rfl
@[simp] theorem State.setFol_ghUp : (s.setFol f).ghUp = s.ghUp := rfl
@[simp] theorem State.setFol_bs : (s.setFol f).bs = s.bs := rfl
@[simp] theorem State.setFol_areasOk : (s.setFol f).areasOk = s.areasOk := rfl
@[simp] theorem State.setFol_plan : (s.setFol f).plan = s.plan := rfl
@[simp] theorem State.setFol_bv : (s.setFol f).bv = s.bv := rfl
@[simp] theorem State.setFol_fol : (s.setFol f).fol = f := rfl
@[simp] theorem State.setFol_bel : (s.setFol f).bel = s.bel := rfl
@[simp] theorem State.setFol_tsm : (s.setFol f).tsm = s.tsm := rfl
@[simp] theorem State.setFol_reqs : (s.setFol f).reqs = s.reqs := rfl
@[simp] theorem State.setFol_ucmds : (s.setFol f).ucmds = s.ucmds := rfl
@[simp] theorem State.setFol_collWait : (s.setFol f).collWait = s.collWait := rfl
@[simp] theorem State.setFol_boot : (s.setFol f).boot = s.boot := rfl
@[simp] theorem State.setFol_spareFw : (s.setFol f).spareFw = s.spareFw := rfl
@[simp] theorem State.setFol_sec : (s.setFol f).sec = s.sec := rfl
@[simp] theorem State.setFol_gk : (s.setFol f).gk = s.gk := rfl
@[simp] theorem State.setFol_taps : (s.setFol f).taps = s.taps := rfl
@[simp] theorem State.setFol_pcie : (s.setFol f).pcie = s.pcie := rfl
@[simp] theorem State.setFol_cal : (s.setFol f).cal = s.cal := rfl
@[simp] theorem State.setFol_pwr : (s.setFol f).pwr = s.pwr := rfl
@[simp] theorem State.setFol_scanEnd : (s.setFol f).scanEnd = s.scanEnd := rfl
@[simp] theorem State.setFol_svcEnd : (s.setFol f).svcEnd = s.svcEnd := rfl
@[simp] theorem State.setFol_svcFrom : (s.setFol f).svcFrom = s.svcFrom := rfl
@[simp] theorem State.setFol_clkBad : (s.setFol f).clkBad = s.clkBad := rfl
@[simp] theorem State.setFol_rx : (s.setFol f).rx = s.rx := rfl
@[simp] theorem State.setFol_t1s : (s.setFol f).t1s = s.t1s := rfl
@[simp] theorem State.setFol_win : (s.setFol f).win = s.win := rfl
@[simp] theorem State.setFol_once : (s.setFol f).once = s.once := rfl
@[simp] theorem State.setFol_safeSince : (s.setFol f).safeSince = s.safeSince := rfl
@[simp] theorem State.setFol_scopesAt : (s.setFol f).scopesAt = s.scopesAt := rfl
@[simp] theorem State.setFol_pavClk : (s.setFol f).pavClk = s.pavClk := rfl
@[simp] theorem State.setFol_uart : (s.setFol f).uart = s.uart := rfl
@[simp] theorem State.setFol_injSrc : (s.setFol f).injSrc = s.injSrc := rfl
@[simp] theorem State.setFol_convFlip : (s.setFol f).convFlip = s.convFlip := rfl
@[simp] theorem State.setFol_tcm : (s.setFol f).tcm = s.tcm := rfl
@[simp] theorem State.setFol_ghSyn : (s.setFol f).ghSyn = s.ghSyn := rfl
@[simp] theorem State.setFol_roseAt : (s.setFol f).roseAt = s.roseAt := rfl
@[simp] theorem State.setFol_cvuLast : (s.setFol f).cvuLast = s.cvuLast := rfl
@[simp] theorem State.setFol_cvuStalled : (s.setFol f).cvuStalled = s.cvuStalled := rfl
@[simp] theorem State.setFol_gkSram : (s.setFol f).gkSram = s.gkSram := rfl
@[simp] theorem State.setFol_gkSyn : (s.setFol f).gkSyn = s.gkSyn := rfl
end

section
variable (s : State) (b : BeliefSt)
@[simp] theorem State.setBel_pending : (s.setBel b).pending = s.pending := rfl
@[simp] theorem State.setBel_frc : (s.setBel b).frc = s.frc := rfl
@[simp] theorem State.setBel_free : (s.setBel b).free = s.free := rfl
@[simp] theorem State.setBel_regs : (s.setBel b).regs = s.regs := rfl
@[simp] theorem State.setBel_risen : (s.setBel b).risen = s.risen := rfl
@[simp] theorem State.setBel_mem : (s.setBel b).mem = s.mem := rfl
@[simp] theorem State.setBel_syn : (s.setBel b).syn = s.syn := rfl
@[simp] theorem State.setBel_out : (s.setBel b).out = s.out := rfl
@[simp] theorem State.setBel_tx : (s.setBel b).tx = s.tx := rfl
@[simp] theorem State.setBel_streams : (s.setBel b).streams = s.streams := rfl
@[simp] theorem State.setBel_cores : (s.setBel b).cores = s.cores := rfl
@[simp] theorem State.setBel_absent : (s.setBel b).absent = s.absent := rfl
@[simp] theorem State.setBel_wback : (s.setBel b).wback = s.wback := rfl
@[simp] theorem State.setBel_sramScrub : (s.setBel b).sramScrub = s.sramScrub := rfl
@[simp] theorem State.setBel_fwForce : (s.setBel b).fwForce = s.fwForce := rfl
@[simp] theorem State.setBel_prevDom : (s.setBel b).prevDom = s.prevDom := rfl
@[simp] theorem State.setBel_fusedMap : (s.setBel b).fusedMap = s.fusedMap := rfl
@[simp] theorem State.setBel_cvuOld : (s.setBel b).cvuOld = s.cvuOld := rfl
@[simp] theorem State.setBel_icuSvc : (s.setBel b).icuSvc = s.icuSvc := rfl
@[simp] theorem State.setBel_icuHold : (s.setBel b).icuHold = s.icuHold := rfl
@[simp] theorem State.setBel_wds : (s.setBel b).wds = s.wds := rfl
@[simp] theorem State.setBel_dbgHalted : (s.setBel b).dbgHalted = s.dbgHalted := rfl
@[simp] theorem State.setBel_fcGrp : (s.setBel b).fcGrp = s.fcGrp := rfl
@[simp] theorem State.setBel_fcCls : (s.setBel b).fcCls = s.fcCls := rfl
@[simp] theorem State.setBel_fcExt : (s.setBel b).fcExt = s.fcExt := rfl
@[simp] theorem State.setBel_fcKnown : (s.setBel b).fcKnown = s.fcKnown := rfl
@[simp] theorem State.setBel_fcLink : (s.setBel b).fcLink = s.fcLink := rfl
@[simp] theorem State.setBel_fcMinute : (s.setBel b).fcMinute = s.fcMinute := rfl
@[simp] theorem State.setBel_silent : (s.setBel b).silent = s.silent := rfl
@[simp] theorem State.setBel_vecAt : (s.setBel b).vecAt = s.vecAt := rfl
@[simp] theorem State.setBel_evid : (s.setBel b).evid = s.evid := rfl
@[simp] theorem State.setBel_svcAccess : (s.setBel b).svcAccess = s.svcAccess := rfl
@[simp] theorem State.setBel_latentAt : (s.setBel b).latentAt = s.latentAt := rfl
@[simp] theorem State.setBel_dbgOpen : (s.setBel b).dbgOpen = s.dbgOpen := rfl
@[simp] theorem State.setBel_cyc : (s.setBel b).cyc = s.cyc := rfl
@[simp] theorem State.setBel_sio : (s.setBel b).sio = s.sio := rfl
@[simp] theorem State.setBel_fwHold : (s.setBel b).fwHold = s.fwHold := rfl
@[simp] theorem State.setBel_links : (s.setBel b).links = s.links := rfl
@[simp] theorem State.setBel_ghUp : (s.setBel b).ghUp = s.ghUp := rfl
@[simp] theorem State.setBel_bs : (s.setBel b).bs = s.bs := rfl
@[simp] theorem State.setBel_areasOk : (s.setBel b).areasOk = s.areasOk := rfl
@[simp] theorem State.setBel_plan : (s.setBel b).plan = s.plan := rfl
@[simp] theorem State.setBel_bv : (s.setBel b).bv = s.bv := rfl
@[simp] theorem State.setBel_fol : (s.setBel b).fol = s.fol := rfl
@[simp] theorem State.setBel_bel : (s.setBel b).bel = b := rfl
@[simp] theorem State.setBel_tsm : (s.setBel b).tsm = s.tsm := rfl
@[simp] theorem State.setBel_reqs : (s.setBel b).reqs = s.reqs := rfl
@[simp] theorem State.setBel_ucmds : (s.setBel b).ucmds = s.ucmds := rfl
@[simp] theorem State.setBel_collWait : (s.setBel b).collWait = s.collWait := rfl
@[simp] theorem State.setBel_boot : (s.setBel b).boot = s.boot := rfl
@[simp] theorem State.setBel_spareFw : (s.setBel b).spareFw = s.spareFw := rfl
@[simp] theorem State.setBel_sec : (s.setBel b).sec = s.sec := rfl
@[simp] theorem State.setBel_gk : (s.setBel b).gk = s.gk := rfl
@[simp] theorem State.setBel_taps : (s.setBel b).taps = s.taps := rfl
@[simp] theorem State.setBel_pcie : (s.setBel b).pcie = s.pcie := rfl
@[simp] theorem State.setBel_cal : (s.setBel b).cal = s.cal := rfl
@[simp] theorem State.setBel_pwr : (s.setBel b).pwr = s.pwr := rfl
@[simp] theorem State.setBel_scanEnd : (s.setBel b).scanEnd = s.scanEnd := rfl
@[simp] theorem State.setBel_svcEnd : (s.setBel b).svcEnd = s.svcEnd := rfl
@[simp] theorem State.setBel_svcFrom : (s.setBel b).svcFrom = s.svcFrom := rfl
@[simp] theorem State.setBel_clkBad : (s.setBel b).clkBad = s.clkBad := rfl
@[simp] theorem State.setBel_rx : (s.setBel b).rx = s.rx := rfl
@[simp] theorem State.setBel_t1s : (s.setBel b).t1s = s.t1s := rfl
@[simp] theorem State.setBel_win : (s.setBel b).win = s.win := rfl
@[simp] theorem State.setBel_once : (s.setBel b).once = s.once := rfl
@[simp] theorem State.setBel_safeSince : (s.setBel b).safeSince = s.safeSince := rfl
@[simp] theorem State.setBel_scopesAt : (s.setBel b).scopesAt = s.scopesAt := rfl
@[simp] theorem State.setBel_pavClk : (s.setBel b).pavClk = s.pavClk := rfl
@[simp] theorem State.setBel_uart : (s.setBel b).uart = s.uart := rfl
@[simp] theorem State.setBel_injSrc : (s.setBel b).injSrc = s.injSrc := rfl
@[simp] theorem State.setBel_convFlip : (s.setBel b).convFlip = s.convFlip := rfl
@[simp] theorem State.setBel_tcm : (s.setBel b).tcm = s.tcm := rfl
@[simp] theorem State.setBel_ghSyn : (s.setBel b).ghSyn = s.ghSyn := rfl
@[simp] theorem State.setBel_roseAt : (s.setBel b).roseAt = s.roseAt := rfl
@[simp] theorem State.setBel_cvuLast : (s.setBel b).cvuLast = s.cvuLast := rfl
@[simp] theorem State.setBel_cvuStalled : (s.setBel b).cvuStalled = s.cvuStalled := rfl
@[simp] theorem State.setBel_gkSram : (s.setBel b).gkSram = s.gkSram := rfl
@[simp] theorem State.setBel_gkSyn : (s.setBel b).gkSyn = s.gkSyn := rfl
end

section
variable (s : State) (x : RxSt)
@[simp] theorem State.setRx_pending : (s.setRx x).pending = s.pending := rfl
@[simp] theorem State.setRx_frc : (s.setRx x).frc = s.frc := rfl
@[simp] theorem State.setRx_free : (s.setRx x).free = s.free := rfl
@[simp] theorem State.setRx_regs : (s.setRx x).regs = s.regs := rfl
@[simp] theorem State.setRx_risen : (s.setRx x).risen = s.risen := rfl
@[simp] theorem State.setRx_mem : (s.setRx x).mem = s.mem := rfl
@[simp] theorem State.setRx_syn : (s.setRx x).syn = s.syn := rfl
@[simp] theorem State.setRx_out : (s.setRx x).out = s.out := rfl
@[simp] theorem State.setRx_tx : (s.setRx x).tx = s.tx := rfl
@[simp] theorem State.setRx_streams : (s.setRx x).streams = s.streams := rfl
@[simp] theorem State.setRx_cores : (s.setRx x).cores = s.cores := rfl
@[simp] theorem State.setRx_absent : (s.setRx x).absent = s.absent := rfl
@[simp] theorem State.setRx_wback : (s.setRx x).wback = s.wback := rfl
@[simp] theorem State.setRx_sramScrub : (s.setRx x).sramScrub = s.sramScrub := rfl
@[simp] theorem State.setRx_fwForce : (s.setRx x).fwForce = s.fwForce := rfl
@[simp] theorem State.setRx_prevDom : (s.setRx x).prevDom = s.prevDom := rfl
@[simp] theorem State.setRx_fusedMap : (s.setRx x).fusedMap = s.fusedMap := rfl
@[simp] theorem State.setRx_cvuOld : (s.setRx x).cvuOld = s.cvuOld := rfl
@[simp] theorem State.setRx_icuSvc : (s.setRx x).icuSvc = s.icuSvc := rfl
@[simp] theorem State.setRx_icuHold : (s.setRx x).icuHold = s.icuHold := rfl
@[simp] theorem State.setRx_wds : (s.setRx x).wds = s.wds := rfl
@[simp] theorem State.setRx_dbgHalted : (s.setRx x).dbgHalted = s.dbgHalted := rfl
@[simp] theorem State.setRx_fcGrp : (s.setRx x).fcGrp = s.fcGrp := rfl
@[simp] theorem State.setRx_fcCls : (s.setRx x).fcCls = s.fcCls := rfl
@[simp] theorem State.setRx_fcExt : (s.setRx x).fcExt = s.fcExt := rfl
@[simp] theorem State.setRx_fcKnown : (s.setRx x).fcKnown = s.fcKnown := rfl
@[simp] theorem State.setRx_fcLink : (s.setRx x).fcLink = s.fcLink := rfl
@[simp] theorem State.setRx_fcMinute : (s.setRx x).fcMinute = s.fcMinute := rfl
@[simp] theorem State.setRx_silent : (s.setRx x).silent = s.silent := rfl
@[simp] theorem State.setRx_vecAt : (s.setRx x).vecAt = s.vecAt := rfl
@[simp] theorem State.setRx_evid : (s.setRx x).evid = s.evid := rfl
@[simp] theorem State.setRx_svcAccess : (s.setRx x).svcAccess = s.svcAccess := rfl
@[simp] theorem State.setRx_latentAt : (s.setRx x).latentAt = s.latentAt := rfl
@[simp] theorem State.setRx_dbgOpen : (s.setRx x).dbgOpen = s.dbgOpen := rfl
@[simp] theorem State.setRx_cyc : (s.setRx x).cyc = s.cyc := rfl
@[simp] theorem State.setRx_sio : (s.setRx x).sio = s.sio := rfl
@[simp] theorem State.setRx_fwHold : (s.setRx x).fwHold = s.fwHold := rfl
@[simp] theorem State.setRx_links : (s.setRx x).links = s.links := rfl
@[simp] theorem State.setRx_ghUp : (s.setRx x).ghUp = s.ghUp := rfl
@[simp] theorem State.setRx_bs : (s.setRx x).bs = s.bs := rfl
@[simp] theorem State.setRx_areasOk : (s.setRx x).areasOk = s.areasOk := rfl
@[simp] theorem State.setRx_plan : (s.setRx x).plan = s.plan := rfl
@[simp] theorem State.setRx_bv : (s.setRx x).bv = s.bv := rfl
@[simp] theorem State.setRx_fol : (s.setRx x).fol = s.fol := rfl
@[simp] theorem State.setRx_bel : (s.setRx x).bel = s.bel := rfl
@[simp] theorem State.setRx_tsm : (s.setRx x).tsm = s.tsm := rfl
@[simp] theorem State.setRx_reqs : (s.setRx x).reqs = s.reqs := rfl
@[simp] theorem State.setRx_ucmds : (s.setRx x).ucmds = s.ucmds := rfl
@[simp] theorem State.setRx_collWait : (s.setRx x).collWait = s.collWait := rfl
@[simp] theorem State.setRx_boot : (s.setRx x).boot = s.boot := rfl
@[simp] theorem State.setRx_spareFw : (s.setRx x).spareFw = s.spareFw := rfl
@[simp] theorem State.setRx_sec : (s.setRx x).sec = s.sec := rfl
@[simp] theorem State.setRx_gk : (s.setRx x).gk = s.gk := rfl
@[simp] theorem State.setRx_taps : (s.setRx x).taps = s.taps := rfl
@[simp] theorem State.setRx_pcie : (s.setRx x).pcie = s.pcie := rfl
@[simp] theorem State.setRx_cal : (s.setRx x).cal = s.cal := rfl
@[simp] theorem State.setRx_pwr : (s.setRx x).pwr = s.pwr := rfl
@[simp] theorem State.setRx_scanEnd : (s.setRx x).scanEnd = s.scanEnd := rfl
@[simp] theorem State.setRx_svcEnd : (s.setRx x).svcEnd = s.svcEnd := rfl
@[simp] theorem State.setRx_svcFrom : (s.setRx x).svcFrom = s.svcFrom := rfl
@[simp] theorem State.setRx_clkBad : (s.setRx x).clkBad = s.clkBad := rfl
@[simp] theorem State.setRx_rx : (s.setRx x).rx = x := rfl
@[simp] theorem State.setRx_t1s : (s.setRx x).t1s = s.t1s := rfl
@[simp] theorem State.setRx_win : (s.setRx x).win = s.win := rfl
@[simp] theorem State.setRx_once : (s.setRx x).once = s.once := rfl
@[simp] theorem State.setRx_safeSince : (s.setRx x).safeSince = s.safeSince := rfl
@[simp] theorem State.setRx_scopesAt : (s.setRx x).scopesAt = s.scopesAt := rfl
@[simp] theorem State.setRx_pavClk : (s.setRx x).pavClk = s.pavClk := rfl
@[simp] theorem State.setRx_uart : (s.setRx x).uart = s.uart := rfl
@[simp] theorem State.setRx_injSrc : (s.setRx x).injSrc = s.injSrc := rfl
@[simp] theorem State.setRx_convFlip : (s.setRx x).convFlip = s.convFlip := rfl
@[simp] theorem State.setRx_tcm : (s.setRx x).tcm = s.tcm := rfl
@[simp] theorem State.setRx_ghSyn : (s.setRx x).ghSyn = s.ghSyn := rfl
@[simp] theorem State.setRx_roseAt : (s.setRx x).roseAt = s.roseAt := rfl
@[simp] theorem State.setRx_cvuLast : (s.setRx x).cvuLast = s.cvuLast := rfl
@[simp] theorem State.setRx_cvuStalled : (s.setRx x).cvuStalled = s.cvuStalled := rfl
@[simp] theorem State.setRx_gkSram : (s.setRx x).gkSram = s.gkSram := rfl
@[simp] theorem State.setRx_gkSyn : (s.setRx x).gkSyn = s.gkSyn := rfl
end

section
variable (s : State) (x : T1sSt)
@[simp] theorem State.setT1s_pending : (s.setT1s x).pending = s.pending := rfl
@[simp] theorem State.setT1s_frc : (s.setT1s x).frc = s.frc := rfl
@[simp] theorem State.setT1s_free : (s.setT1s x).free = s.free := rfl
@[simp] theorem State.setT1s_regs : (s.setT1s x).regs = s.regs := rfl
@[simp] theorem State.setT1s_risen : (s.setT1s x).risen = s.risen := rfl
@[simp] theorem State.setT1s_mem : (s.setT1s x).mem = s.mem := rfl
@[simp] theorem State.setT1s_syn : (s.setT1s x).syn = s.syn := rfl
@[simp] theorem State.setT1s_out : (s.setT1s x).out = s.out := rfl
@[simp] theorem State.setT1s_tx : (s.setT1s x).tx = s.tx := rfl
@[simp] theorem State.setT1s_streams : (s.setT1s x).streams = s.streams := rfl
@[simp] theorem State.setT1s_cores : (s.setT1s x).cores = s.cores := rfl
@[simp] theorem State.setT1s_absent : (s.setT1s x).absent = s.absent := rfl
@[simp] theorem State.setT1s_wback : (s.setT1s x).wback = s.wback := rfl
@[simp] theorem State.setT1s_sramScrub : (s.setT1s x).sramScrub = s.sramScrub := rfl
@[simp] theorem State.setT1s_fwForce : (s.setT1s x).fwForce = s.fwForce := rfl
@[simp] theorem State.setT1s_prevDom : (s.setT1s x).prevDom = s.prevDom := rfl
@[simp] theorem State.setT1s_fusedMap : (s.setT1s x).fusedMap = s.fusedMap := rfl
@[simp] theorem State.setT1s_cvuOld : (s.setT1s x).cvuOld = s.cvuOld := rfl
@[simp] theorem State.setT1s_icuSvc : (s.setT1s x).icuSvc = s.icuSvc := rfl
@[simp] theorem State.setT1s_icuHold : (s.setT1s x).icuHold = s.icuHold := rfl
@[simp] theorem State.setT1s_wds : (s.setT1s x).wds = s.wds := rfl
@[simp] theorem State.setT1s_dbgHalted : (s.setT1s x).dbgHalted = s.dbgHalted := rfl
@[simp] theorem State.setT1s_fcGrp : (s.setT1s x).fcGrp = s.fcGrp := rfl
@[simp] theorem State.setT1s_fcCls : (s.setT1s x).fcCls = s.fcCls := rfl
@[simp] theorem State.setT1s_fcExt : (s.setT1s x).fcExt = s.fcExt := rfl
@[simp] theorem State.setT1s_fcKnown : (s.setT1s x).fcKnown = s.fcKnown := rfl
@[simp] theorem State.setT1s_fcLink : (s.setT1s x).fcLink = s.fcLink := rfl
@[simp] theorem State.setT1s_fcMinute : (s.setT1s x).fcMinute = s.fcMinute := rfl
@[simp] theorem State.setT1s_silent : (s.setT1s x).silent = s.silent := rfl
@[simp] theorem State.setT1s_vecAt : (s.setT1s x).vecAt = s.vecAt := rfl
@[simp] theorem State.setT1s_evid : (s.setT1s x).evid = s.evid := rfl
@[simp] theorem State.setT1s_svcAccess : (s.setT1s x).svcAccess = s.svcAccess := rfl
@[simp] theorem State.setT1s_latentAt : (s.setT1s x).latentAt = s.latentAt := rfl
@[simp] theorem State.setT1s_dbgOpen : (s.setT1s x).dbgOpen = s.dbgOpen := rfl
@[simp] theorem State.setT1s_cyc : (s.setT1s x).cyc = s.cyc := rfl
@[simp] theorem State.setT1s_sio : (s.setT1s x).sio = s.sio := rfl
@[simp] theorem State.setT1s_fwHold : (s.setT1s x).fwHold = s.fwHold := rfl
@[simp] theorem State.setT1s_links : (s.setT1s x).links = s.links := rfl
@[simp] theorem State.setT1s_ghUp : (s.setT1s x).ghUp = s.ghUp := rfl
@[simp] theorem State.setT1s_bs : (s.setT1s x).bs = s.bs := rfl
@[simp] theorem State.setT1s_areasOk : (s.setT1s x).areasOk = s.areasOk := rfl
@[simp] theorem State.setT1s_plan : (s.setT1s x).plan = s.plan := rfl
@[simp] theorem State.setT1s_bv : (s.setT1s x).bv = s.bv := rfl
@[simp] theorem State.setT1s_fol : (s.setT1s x).fol = s.fol := rfl
@[simp] theorem State.setT1s_bel : (s.setT1s x).bel = s.bel := rfl
@[simp] theorem State.setT1s_tsm : (s.setT1s x).tsm = s.tsm := rfl
@[simp] theorem State.setT1s_reqs : (s.setT1s x).reqs = s.reqs := rfl
@[simp] theorem State.setT1s_ucmds : (s.setT1s x).ucmds = s.ucmds := rfl
@[simp] theorem State.setT1s_collWait : (s.setT1s x).collWait = s.collWait := rfl
@[simp] theorem State.setT1s_boot : (s.setT1s x).boot = s.boot := rfl
@[simp] theorem State.setT1s_spareFw : (s.setT1s x).spareFw = s.spareFw := rfl
@[simp] theorem State.setT1s_sec : (s.setT1s x).sec = s.sec := rfl
@[simp] theorem State.setT1s_gk : (s.setT1s x).gk = s.gk := rfl
@[simp] theorem State.setT1s_taps : (s.setT1s x).taps = s.taps := rfl
@[simp] theorem State.setT1s_pcie : (s.setT1s x).pcie = s.pcie := rfl
@[simp] theorem State.setT1s_cal : (s.setT1s x).cal = s.cal := rfl
@[simp] theorem State.setT1s_pwr : (s.setT1s x).pwr = s.pwr := rfl
@[simp] theorem State.setT1s_scanEnd : (s.setT1s x).scanEnd = s.scanEnd := rfl
@[simp] theorem State.setT1s_svcEnd : (s.setT1s x).svcEnd = s.svcEnd := rfl
@[simp] theorem State.setT1s_svcFrom : (s.setT1s x).svcFrom = s.svcFrom := rfl
@[simp] theorem State.setT1s_clkBad : (s.setT1s x).clkBad = s.clkBad := rfl
@[simp] theorem State.setT1s_rx : (s.setT1s x).rx = s.rx := rfl
@[simp] theorem State.setT1s_t1s : (s.setT1s x).t1s = x := rfl
@[simp] theorem State.setT1s_win : (s.setT1s x).win = s.win := rfl
@[simp] theorem State.setT1s_once : (s.setT1s x).once = s.once := rfl
@[simp] theorem State.setT1s_safeSince : (s.setT1s x).safeSince = s.safeSince := rfl
@[simp] theorem State.setT1s_scopesAt : (s.setT1s x).scopesAt = s.scopesAt := rfl
@[simp] theorem State.setT1s_pavClk : (s.setT1s x).pavClk = s.pavClk := rfl
@[simp] theorem State.setT1s_uart : (s.setT1s x).uart = s.uart := rfl
@[simp] theorem State.setT1s_injSrc : (s.setT1s x).injSrc = s.injSrc := rfl
@[simp] theorem State.setT1s_convFlip : (s.setT1s x).convFlip = s.convFlip := rfl
@[simp] theorem State.setT1s_tcm : (s.setT1s x).tcm = s.tcm := rfl
@[simp] theorem State.setT1s_ghSyn : (s.setT1s x).ghSyn = s.ghSyn := rfl
@[simp] theorem State.setT1s_roseAt : (s.setT1s x).roseAt = s.roseAt := rfl
@[simp] theorem State.setT1s_cvuLast : (s.setT1s x).cvuLast = s.cvuLast := rfl
@[simp] theorem State.setT1s_cvuStalled : (s.setT1s x).cvuStalled = s.cvuStalled := rfl
@[simp] theorem State.setT1s_gkSram : (s.setT1s x).gkSram = s.gkSram := rfl
@[simp] theorem State.setT1s_gkSyn : (s.setT1s x).gkSyn = s.gkSyn := rfl
end

section
variable (s : State) (g : GkSt)
@[simp] theorem State.setGk_pending : (s.setGk g).pending = s.pending := rfl
@[simp] theorem State.setGk_frc : (s.setGk g).frc = s.frc := rfl
@[simp] theorem State.setGk_free : (s.setGk g).free = s.free := rfl
@[simp] theorem State.setGk_regs : (s.setGk g).regs = s.regs := rfl
@[simp] theorem State.setGk_risen : (s.setGk g).risen = s.risen := rfl
@[simp] theorem State.setGk_mem : (s.setGk g).mem = s.mem := rfl
@[simp] theorem State.setGk_syn : (s.setGk g).syn = s.syn := rfl
@[simp] theorem State.setGk_out : (s.setGk g).out = s.out := rfl
@[simp] theorem State.setGk_tx : (s.setGk g).tx = s.tx := rfl
@[simp] theorem State.setGk_streams : (s.setGk g).streams = s.streams := rfl
@[simp] theorem State.setGk_cores : (s.setGk g).cores = s.cores := rfl
@[simp] theorem State.setGk_absent : (s.setGk g).absent = s.absent := rfl
@[simp] theorem State.setGk_wback : (s.setGk g).wback = s.wback := rfl
@[simp] theorem State.setGk_sramScrub : (s.setGk g).sramScrub = s.sramScrub := rfl
@[simp] theorem State.setGk_fwForce : (s.setGk g).fwForce = s.fwForce := rfl
@[simp] theorem State.setGk_prevDom : (s.setGk g).prevDom = s.prevDom := rfl
@[simp] theorem State.setGk_fusedMap : (s.setGk g).fusedMap = s.fusedMap := rfl
@[simp] theorem State.setGk_cvuOld : (s.setGk g).cvuOld = s.cvuOld := rfl
@[simp] theorem State.setGk_icuSvc : (s.setGk g).icuSvc = s.icuSvc := rfl
@[simp] theorem State.setGk_icuHold : (s.setGk g).icuHold = s.icuHold := rfl
@[simp] theorem State.setGk_wds : (s.setGk g).wds = s.wds := rfl
@[simp] theorem State.setGk_dbgHalted : (s.setGk g).dbgHalted = s.dbgHalted := rfl
@[simp] theorem State.setGk_fcGrp : (s.setGk g).fcGrp = s.fcGrp := rfl
@[simp] theorem State.setGk_fcCls : (s.setGk g).fcCls = s.fcCls := rfl
@[simp] theorem State.setGk_fcExt : (s.setGk g).fcExt = s.fcExt := rfl
@[simp] theorem State.setGk_fcKnown : (s.setGk g).fcKnown = s.fcKnown := rfl
@[simp] theorem State.setGk_fcLink : (s.setGk g).fcLink = s.fcLink := rfl
@[simp] theorem State.setGk_fcMinute : (s.setGk g).fcMinute = s.fcMinute := rfl
@[simp] theorem State.setGk_silent : (s.setGk g).silent = s.silent := rfl
@[simp] theorem State.setGk_vecAt : (s.setGk g).vecAt = s.vecAt := rfl
@[simp] theorem State.setGk_evid : (s.setGk g).evid = s.evid := rfl
@[simp] theorem State.setGk_svcAccess : (s.setGk g).svcAccess = s.svcAccess := rfl
@[simp] theorem State.setGk_latentAt : (s.setGk g).latentAt = s.latentAt := rfl
@[simp] theorem State.setGk_dbgOpen : (s.setGk g).dbgOpen = s.dbgOpen := rfl
@[simp] theorem State.setGk_cyc : (s.setGk g).cyc = s.cyc := rfl
@[simp] theorem State.setGk_sio : (s.setGk g).sio = s.sio := rfl
@[simp] theorem State.setGk_fwHold : (s.setGk g).fwHold = s.fwHold := rfl
@[simp] theorem State.setGk_links : (s.setGk g).links = s.links := rfl
@[simp] theorem State.setGk_ghUp : (s.setGk g).ghUp = s.ghUp := rfl
@[simp] theorem State.setGk_bs : (s.setGk g).bs = s.bs := rfl
@[simp] theorem State.setGk_areasOk : (s.setGk g).areasOk = s.areasOk := rfl
@[simp] theorem State.setGk_plan : (s.setGk g).plan = s.plan := rfl
@[simp] theorem State.setGk_bv : (s.setGk g).bv = s.bv := rfl
@[simp] theorem State.setGk_fol : (s.setGk g).fol = s.fol := rfl
@[simp] theorem State.setGk_bel : (s.setGk g).bel = s.bel := rfl
@[simp] theorem State.setGk_tsm : (s.setGk g).tsm = s.tsm := rfl
@[simp] theorem State.setGk_reqs : (s.setGk g).reqs = s.reqs := rfl
@[simp] theorem State.setGk_ucmds : (s.setGk g).ucmds = s.ucmds := rfl
@[simp] theorem State.setGk_collWait : (s.setGk g).collWait = s.collWait := rfl
@[simp] theorem State.setGk_boot : (s.setGk g).boot = s.boot := rfl
@[simp] theorem State.setGk_spareFw : (s.setGk g).spareFw = s.spareFw := rfl
@[simp] theorem State.setGk_sec : (s.setGk g).sec = s.sec := rfl
@[simp] theorem State.setGk_gk : (s.setGk g).gk = g := rfl
@[simp] theorem State.setGk_taps : (s.setGk g).taps = s.taps := rfl
@[simp] theorem State.setGk_pcie : (s.setGk g).pcie = s.pcie := rfl
@[simp] theorem State.setGk_cal : (s.setGk g).cal = s.cal := rfl
@[simp] theorem State.setGk_pwr : (s.setGk g).pwr = s.pwr := rfl
@[simp] theorem State.setGk_scanEnd : (s.setGk g).scanEnd = s.scanEnd := rfl
@[simp] theorem State.setGk_svcEnd : (s.setGk g).svcEnd = s.svcEnd := rfl
@[simp] theorem State.setGk_svcFrom : (s.setGk g).svcFrom = s.svcFrom := rfl
@[simp] theorem State.setGk_clkBad : (s.setGk g).clkBad = s.clkBad := rfl
@[simp] theorem State.setGk_rx : (s.setGk g).rx = s.rx := rfl
@[simp] theorem State.setGk_t1s : (s.setGk g).t1s = s.t1s := rfl
@[simp] theorem State.setGk_win : (s.setGk g).win = s.win := rfl
@[simp] theorem State.setGk_once : (s.setGk g).once = s.once := rfl
@[simp] theorem State.setGk_safeSince : (s.setGk g).safeSince = s.safeSince := rfl
@[simp] theorem State.setGk_scopesAt : (s.setGk g).scopesAt = s.scopesAt := rfl
@[simp] theorem State.setGk_pavClk : (s.setGk g).pavClk = s.pavClk := rfl
@[simp] theorem State.setGk_uart : (s.setGk g).uart = s.uart := rfl
@[simp] theorem State.setGk_injSrc : (s.setGk g).injSrc = s.injSrc := rfl
@[simp] theorem State.setGk_convFlip : (s.setGk g).convFlip = s.convFlip := rfl
@[simp] theorem State.setGk_tcm : (s.setGk g).tcm = s.tcm := rfl
@[simp] theorem State.setGk_ghSyn : (s.setGk g).ghSyn = s.ghSyn := rfl
@[simp] theorem State.setGk_roseAt : (s.setGk g).roseAt = s.roseAt := rfl
@[simp] theorem State.setGk_cvuLast : (s.setGk g).cvuLast = s.cvuLast := rfl
@[simp] theorem State.setGk_cvuStalled : (s.setGk g).cvuStalled = s.cvuStalled := rfl
@[simp] theorem State.setGk_gkSram : (s.setGk g).gkSram = s.gkSram := rfl
@[simp] theorem State.setGk_gkSyn : (s.setGk g).gkSyn = s.gkSyn := rfl
end

section
variable (s : State) (x : SioSt)
@[simp] theorem State.setSio_pending : (s.setSio x).pending = s.pending := rfl
@[simp] theorem State.setSio_frc : (s.setSio x).frc = s.frc := rfl
@[simp] theorem State.setSio_free : (s.setSio x).free = s.free := rfl
@[simp] theorem State.setSio_regs : (s.setSio x).regs = s.regs := rfl
@[simp] theorem State.setSio_risen : (s.setSio x).risen = s.risen := rfl
@[simp] theorem State.setSio_mem : (s.setSio x).mem = s.mem := rfl
@[simp] theorem State.setSio_syn : (s.setSio x).syn = s.syn := rfl
@[simp] theorem State.setSio_out : (s.setSio x).out = s.out := rfl
@[simp] theorem State.setSio_tx : (s.setSio x).tx = s.tx := rfl
@[simp] theorem State.setSio_streams : (s.setSio x).streams = s.streams := rfl
@[simp] theorem State.setSio_cores : (s.setSio x).cores = s.cores := rfl
@[simp] theorem State.setSio_absent : (s.setSio x).absent = s.absent := rfl
@[simp] theorem State.setSio_wback : (s.setSio x).wback = s.wback := rfl
@[simp] theorem State.setSio_sramScrub : (s.setSio x).sramScrub = s.sramScrub := rfl
@[simp] theorem State.setSio_fwForce : (s.setSio x).fwForce = s.fwForce := rfl
@[simp] theorem State.setSio_prevDom : (s.setSio x).prevDom = s.prevDom := rfl
@[simp] theorem State.setSio_fusedMap : (s.setSio x).fusedMap = s.fusedMap := rfl
@[simp] theorem State.setSio_cvuOld : (s.setSio x).cvuOld = s.cvuOld := rfl
@[simp] theorem State.setSio_icuSvc : (s.setSio x).icuSvc = s.icuSvc := rfl
@[simp] theorem State.setSio_icuHold : (s.setSio x).icuHold = s.icuHold := rfl
@[simp] theorem State.setSio_wds : (s.setSio x).wds = s.wds := rfl
@[simp] theorem State.setSio_dbgHalted : (s.setSio x).dbgHalted = s.dbgHalted := rfl
@[simp] theorem State.setSio_fcGrp : (s.setSio x).fcGrp = s.fcGrp := rfl
@[simp] theorem State.setSio_fcCls : (s.setSio x).fcCls = s.fcCls := rfl
@[simp] theorem State.setSio_fcExt : (s.setSio x).fcExt = s.fcExt := rfl
@[simp] theorem State.setSio_fcKnown : (s.setSio x).fcKnown = s.fcKnown := rfl
@[simp] theorem State.setSio_fcLink : (s.setSio x).fcLink = s.fcLink := rfl
@[simp] theorem State.setSio_fcMinute : (s.setSio x).fcMinute = s.fcMinute := rfl
@[simp] theorem State.setSio_silent : (s.setSio x).silent = s.silent := rfl
@[simp] theorem State.setSio_vecAt : (s.setSio x).vecAt = s.vecAt := rfl
@[simp] theorem State.setSio_evid : (s.setSio x).evid = s.evid := rfl
@[simp] theorem State.setSio_svcAccess : (s.setSio x).svcAccess = s.svcAccess := rfl
@[simp] theorem State.setSio_latentAt : (s.setSio x).latentAt = s.latentAt := rfl
@[simp] theorem State.setSio_dbgOpen : (s.setSio x).dbgOpen = s.dbgOpen := rfl
@[simp] theorem State.setSio_cyc : (s.setSio x).cyc = s.cyc := rfl
@[simp] theorem State.setSio_sio : (s.setSio x).sio = x := rfl
@[simp] theorem State.setSio_fwHold : (s.setSio x).fwHold = s.fwHold := rfl
@[simp] theorem State.setSio_links : (s.setSio x).links = s.links := rfl
@[simp] theorem State.setSio_ghUp : (s.setSio x).ghUp = s.ghUp := rfl
@[simp] theorem State.setSio_bs : (s.setSio x).bs = s.bs := rfl
@[simp] theorem State.setSio_areasOk : (s.setSio x).areasOk = s.areasOk := rfl
@[simp] theorem State.setSio_plan : (s.setSio x).plan = s.plan := rfl
@[simp] theorem State.setSio_bv : (s.setSio x).bv = s.bv := rfl
@[simp] theorem State.setSio_fol : (s.setSio x).fol = s.fol := rfl
@[simp] theorem State.setSio_bel : (s.setSio x).bel = s.bel := rfl
@[simp] theorem State.setSio_tsm : (s.setSio x).tsm = s.tsm := rfl
@[simp] theorem State.setSio_reqs : (s.setSio x).reqs = s.reqs := rfl
@[simp] theorem State.setSio_ucmds : (s.setSio x).ucmds = s.ucmds := rfl
@[simp] theorem State.setSio_collWait : (s.setSio x).collWait = s.collWait := rfl
@[simp] theorem State.setSio_boot : (s.setSio x).boot = s.boot := rfl
@[simp] theorem State.setSio_spareFw : (s.setSio x).spareFw = s.spareFw := rfl
@[simp] theorem State.setSio_sec : (s.setSio x).sec = s.sec := rfl
@[simp] theorem State.setSio_gk : (s.setSio x).gk = s.gk := rfl
@[simp] theorem State.setSio_taps : (s.setSio x).taps = s.taps := rfl
@[simp] theorem State.setSio_pcie : (s.setSio x).pcie = s.pcie := rfl
@[simp] theorem State.setSio_cal : (s.setSio x).cal = s.cal := rfl
@[simp] theorem State.setSio_pwr : (s.setSio x).pwr = s.pwr := rfl
@[simp] theorem State.setSio_scanEnd : (s.setSio x).scanEnd = s.scanEnd := rfl
@[simp] theorem State.setSio_svcEnd : (s.setSio x).svcEnd = s.svcEnd := rfl
@[simp] theorem State.setSio_svcFrom : (s.setSio x).svcFrom = s.svcFrom := rfl
@[simp] theorem State.setSio_clkBad : (s.setSio x).clkBad = s.clkBad := rfl
@[simp] theorem State.setSio_rx : (s.setSio x).rx = s.rx := rfl
@[simp] theorem State.setSio_t1s : (s.setSio x).t1s = s.t1s := rfl
@[simp] theorem State.setSio_win : (s.setSio x).win = s.win := rfl
@[simp] theorem State.setSio_once : (s.setSio x).once = s.once := rfl
@[simp] theorem State.setSio_safeSince : (s.setSio x).safeSince = s.safeSince := rfl
@[simp] theorem State.setSio_scopesAt : (s.setSio x).scopesAt = s.scopesAt := rfl
@[simp] theorem State.setSio_pavClk : (s.setSio x).pavClk = s.pavClk := rfl
@[simp] theorem State.setSio_uart : (s.setSio x).uart = s.uart := rfl
@[simp] theorem State.setSio_injSrc : (s.setSio x).injSrc = s.injSrc := rfl
@[simp] theorem State.setSio_convFlip : (s.setSio x).convFlip = s.convFlip := rfl
@[simp] theorem State.setSio_tcm : (s.setSio x).tcm = s.tcm := rfl
@[simp] theorem State.setSio_ghSyn : (s.setSio x).ghSyn = s.ghSyn := rfl
@[simp] theorem State.setSio_roseAt : (s.setSio x).roseAt = s.roseAt := rfl
@[simp] theorem State.setSio_cvuLast : (s.setSio x).cvuLast = s.cvuLast := rfl
@[simp] theorem State.setSio_cvuStalled : (s.setSio x).cvuStalled = s.cvuStalled := rfl
@[simp] theorem State.setSio_gkSram : (s.setSio x).gkSram = s.gkSram := rfl
@[simp] theorem State.setSio_gkSyn : (s.setSio x).gkSyn = s.gkSyn := rfl
end

section
variable (s : State) (r : Nat) (x : RepSt)
@[simp] theorem State.setRep_pending : (s.setRep r x).pending = s.pending := rfl
@[simp] theorem State.setRep_frc : (s.setRep r x).frc = s.frc := rfl
@[simp] theorem State.setRep_free : (s.setRep r x).free = s.free := rfl
@[simp] theorem State.setRep_regs : (s.setRep r x).regs = s.regs := rfl
@[simp] theorem State.setRep_risen : (s.setRep r x).risen = s.risen := rfl
@[simp] theorem State.setRep_mem : (s.setRep r x).mem = s.mem := rfl
@[simp] theorem State.setRep_syn : (s.setRep r x).syn = s.syn := rfl
@[simp] theorem State.setRep_out : (s.setRep r x).out = s.out := rfl
@[simp] theorem State.setRep_tx : (s.setRep r x).tx = s.tx := rfl
@[simp] theorem State.setRep_streams : (s.setRep r x).streams = s.streams := rfl
@[simp] theorem State.setRep_cores : (s.setRep r x).cores = s.cores := rfl
@[simp] theorem State.setRep_absent : (s.setRep r x).absent = s.absent := rfl
@[simp] theorem State.setRep_wback : (s.setRep r x).wback = s.wback := rfl
@[simp] theorem State.setRep_sramScrub : (s.setRep r x).sramScrub = s.sramScrub := rfl
@[simp] theorem State.setRep_fwForce : (s.setRep r x).fwForce = s.fwForce := rfl
@[simp] theorem State.setRep_prevDom : (s.setRep r x).prevDom = s.prevDom := rfl
@[simp] theorem State.setRep_fusedMap : (s.setRep r x).fusedMap = s.fusedMap := rfl
@[simp] theorem State.setRep_cvuOld : (s.setRep r x).cvuOld = s.cvuOld := rfl
@[simp] theorem State.setRep_icuSvc : (s.setRep r x).icuSvc = s.icuSvc := rfl
@[simp] theorem State.setRep_icuHold : (s.setRep r x).icuHold = s.icuHold := rfl
@[simp] theorem State.setRep_wds : (s.setRep r x).wds = s.wds := rfl
@[simp] theorem State.setRep_dbgHalted : (s.setRep r x).dbgHalted = s.dbgHalted := rfl
@[simp] theorem State.setRep_fcGrp : (s.setRep r x).fcGrp = s.fcGrp := rfl
@[simp] theorem State.setRep_fcCls : (s.setRep r x).fcCls = s.fcCls := rfl
@[simp] theorem State.setRep_fcExt : (s.setRep r x).fcExt = s.fcExt := rfl
@[simp] theorem State.setRep_fcKnown : (s.setRep r x).fcKnown = s.fcKnown := rfl
@[simp] theorem State.setRep_fcLink : (s.setRep r x).fcLink = s.fcLink := rfl
@[simp] theorem State.setRep_fcMinute : (s.setRep r x).fcMinute = s.fcMinute := rfl
@[simp] theorem State.setRep_silent : (s.setRep r x).silent = s.silent := rfl
@[simp] theorem State.setRep_vecAt : (s.setRep r x).vecAt = s.vecAt := rfl
@[simp] theorem State.setRep_evid : (s.setRep r x).evid = s.evid := rfl
@[simp] theorem State.setRep_svcAccess : (s.setRep r x).svcAccess = s.svcAccess := rfl
@[simp] theorem State.setRep_latentAt : (s.setRep r x).latentAt = s.latentAt := rfl
@[simp] theorem State.setRep_dbgOpen : (s.setRep r x).dbgOpen = s.dbgOpen := rfl
@[simp] theorem State.setRep_cyc : (s.setRep r x).cyc = s.cyc := rfl
@[simp] theorem State.setRep_sio : (s.setRep r x).sio = s.sio := rfl
@[simp] theorem State.setRep_fwHold : (s.setRep r x).fwHold = s.fwHold := rfl
@[simp] theorem State.setRep_links : (s.setRep r x).links = s.links := rfl
@[simp] theorem State.setRep_ghUp : (s.setRep r x).ghUp = s.ghUp := rfl
@[simp] theorem State.setRep_bs : (s.setRep r x).bs = { s.bs with reps := Tab.set RepSt.init s.bs.reps r x } := rfl
@[simp] theorem State.setRep_areasOk : (s.setRep r x).areasOk = s.areasOk := rfl
@[simp] theorem State.setRep_plan : (s.setRep r x).plan = s.plan := rfl
@[simp] theorem State.setRep_bv : (s.setRep r x).bv = s.bv := rfl
@[simp] theorem State.setRep_fol : (s.setRep r x).fol = s.fol := rfl
@[simp] theorem State.setRep_bel : (s.setRep r x).bel = s.bel := rfl
@[simp] theorem State.setRep_tsm : (s.setRep r x).tsm = s.tsm := rfl
@[simp] theorem State.setRep_reqs : (s.setRep r x).reqs = s.reqs := rfl
@[simp] theorem State.setRep_ucmds : (s.setRep r x).ucmds = s.ucmds := rfl
@[simp] theorem State.setRep_collWait : (s.setRep r x).collWait = s.collWait := rfl
@[simp] theorem State.setRep_boot : (s.setRep r x).boot = s.boot := rfl
@[simp] theorem State.setRep_spareFw : (s.setRep r x).spareFw = s.spareFw := rfl
@[simp] theorem State.setRep_sec : (s.setRep r x).sec = s.sec := rfl
@[simp] theorem State.setRep_gk : (s.setRep r x).gk = s.gk := rfl
@[simp] theorem State.setRep_taps : (s.setRep r x).taps = s.taps := rfl
@[simp] theorem State.setRep_pcie : (s.setRep r x).pcie = s.pcie := rfl
@[simp] theorem State.setRep_cal : (s.setRep r x).cal = s.cal := rfl
@[simp] theorem State.setRep_pwr : (s.setRep r x).pwr = s.pwr := rfl
@[simp] theorem State.setRep_scanEnd : (s.setRep r x).scanEnd = s.scanEnd := rfl
@[simp] theorem State.setRep_svcEnd : (s.setRep r x).svcEnd = s.svcEnd := rfl
@[simp] theorem State.setRep_svcFrom : (s.setRep r x).svcFrom = s.svcFrom := rfl
@[simp] theorem State.setRep_clkBad : (s.setRep r x).clkBad = s.clkBad := rfl
@[simp] theorem State.setRep_rx : (s.setRep r x).rx = s.rx := rfl
@[simp] theorem State.setRep_t1s : (s.setRep r x).t1s = s.t1s := rfl
@[simp] theorem State.setRep_win : (s.setRep r x).win = s.win := rfl
@[simp] theorem State.setRep_once : (s.setRep r x).once = s.once := rfl
@[simp] theorem State.setRep_safeSince : (s.setRep r x).safeSince = s.safeSince := rfl
@[simp] theorem State.setRep_scopesAt : (s.setRep r x).scopesAt = s.scopesAt := rfl
@[simp] theorem State.setRep_pavClk : (s.setRep r x).pavClk = s.pavClk := rfl
@[simp] theorem State.setRep_uart : (s.setRep r x).uart = s.uart := rfl
@[simp] theorem State.setRep_injSrc : (s.setRep r x).injSrc = s.injSrc := rfl
@[simp] theorem State.setRep_convFlip : (s.setRep r x).convFlip = s.convFlip := rfl
@[simp] theorem State.setRep_tcm : (s.setRep r x).tcm = s.tcm := rfl
@[simp] theorem State.setRep_ghSyn : (s.setRep r x).ghSyn = s.ghSyn := rfl
@[simp] theorem State.setRep_roseAt : (s.setRep r x).roseAt = s.roseAt := rfl
@[simp] theorem State.setRep_cvuLast : (s.setRep r x).cvuLast = s.cvuLast := rfl
@[simp] theorem State.setRep_cvuStalled : (s.setRep r x).cvuStalled = s.cvuStalled := rfl
@[simp] theorem State.setRep_gkSram : (s.setRep r x).gkSram = s.gkSram := rfl
@[simp] theorem State.setRep_gkSyn : (s.setRep r x).gkSyn = s.gkSyn := rfl
end

section
variable (s : State) (e : Nat) (x : Trig)
@[simp] theorem State.setTrig_pending : (s.setTrig e x).pending = s.pending := rfl
@[simp] theorem State.setTrig_frc : (s.setTrig e x).frc = s.frc := rfl
@[simp] theorem State.setTrig_free : (s.setTrig e x).free = s.free := rfl
@[simp] theorem State.setTrig_regs : (s.setTrig e x).regs = s.regs := rfl
@[simp] theorem State.setTrig_risen : (s.setTrig e x).risen = s.risen := rfl
@[simp] theorem State.setTrig_mem : (s.setTrig e x).mem = s.mem := rfl
@[simp] theorem State.setTrig_syn : (s.setTrig e x).syn = s.syn := rfl
@[simp] theorem State.setTrig_out : (s.setTrig e x).out = s.out := rfl
@[simp] theorem State.setTrig_tx : (s.setTrig e x).tx = s.tx := rfl
@[simp] theorem State.setTrig_streams : (s.setTrig e x).streams = s.streams := rfl
@[simp] theorem State.setTrig_cores : (s.setTrig e x).cores = s.cores := rfl
@[simp] theorem State.setTrig_absent : (s.setTrig e x).absent = s.absent := rfl
@[simp] theorem State.setTrig_wback : (s.setTrig e x).wback = s.wback := rfl
@[simp] theorem State.setTrig_sramScrub : (s.setTrig e x).sramScrub = s.sramScrub := rfl
@[simp] theorem State.setTrig_fwForce : (s.setTrig e x).fwForce = s.fwForce := rfl
@[simp] theorem State.setTrig_prevDom : (s.setTrig e x).prevDom = s.prevDom := rfl
@[simp] theorem State.setTrig_fusedMap : (s.setTrig e x).fusedMap = s.fusedMap := rfl
@[simp] theorem State.setTrig_cvuOld : (s.setTrig e x).cvuOld = s.cvuOld := rfl
@[simp] theorem State.setTrig_icuSvc : (s.setTrig e x).icuSvc = s.icuSvc := rfl
@[simp] theorem State.setTrig_icuHold : (s.setTrig e x).icuHold = s.icuHold := rfl
@[simp] theorem State.setTrig_wds : (s.setTrig e x).wds = s.wds := rfl
@[simp] theorem State.setTrig_dbgHalted : (s.setTrig e x).dbgHalted = s.dbgHalted := rfl
@[simp] theorem State.setTrig_fcGrp : (s.setTrig e x).fcGrp = s.fcGrp := rfl
@[simp] theorem State.setTrig_fcCls : (s.setTrig e x).fcCls = s.fcCls := rfl
@[simp] theorem State.setTrig_fcExt : (s.setTrig e x).fcExt = s.fcExt := rfl
@[simp] theorem State.setTrig_fcKnown : (s.setTrig e x).fcKnown = s.fcKnown := rfl
@[simp] theorem State.setTrig_fcLink : (s.setTrig e x).fcLink = s.fcLink := rfl
@[simp] theorem State.setTrig_fcMinute : (s.setTrig e x).fcMinute = s.fcMinute := rfl
@[simp] theorem State.setTrig_silent : (s.setTrig e x).silent = s.silent := rfl
@[simp] theorem State.setTrig_vecAt : (s.setTrig e x).vecAt = s.vecAt := rfl
@[simp] theorem State.setTrig_evid : (s.setTrig e x).evid = s.evid := rfl
@[simp] theorem State.setTrig_svcAccess : (s.setTrig e x).svcAccess = s.svcAccess := rfl
@[simp] theorem State.setTrig_latentAt : (s.setTrig e x).latentAt = s.latentAt := rfl
@[simp] theorem State.setTrig_dbgOpen : (s.setTrig e x).dbgOpen = s.dbgOpen := rfl
@[simp] theorem State.setTrig_cyc : (s.setTrig e x).cyc = s.cyc := rfl
@[simp] theorem State.setTrig_sio : (s.setTrig e x).sio = s.sio := rfl
@[simp] theorem State.setTrig_fwHold : (s.setTrig e x).fwHold = s.fwHold := rfl
@[simp] theorem State.setTrig_links : (s.setTrig e x).links = s.links := rfl
@[simp] theorem State.setTrig_ghUp : (s.setTrig e x).ghUp = s.ghUp := rfl
@[simp] theorem State.setTrig_bs : (s.setTrig e x).bs = { s.bs with trig := Tab.set Trig.init s.bs.trig e x } := rfl
@[simp] theorem State.setTrig_areasOk : (s.setTrig e x).areasOk = s.areasOk := rfl
@[simp] theorem State.setTrig_plan : (s.setTrig e x).plan = s.plan := rfl
@[simp] theorem State.setTrig_bv : (s.setTrig e x).bv = s.bv := rfl
@[simp] theorem State.setTrig_fol : (s.setTrig e x).fol = s.fol := rfl
@[simp] theorem State.setTrig_bel : (s.setTrig e x).bel = s.bel := rfl
@[simp] theorem State.setTrig_tsm : (s.setTrig e x).tsm = s.tsm := rfl
@[simp] theorem State.setTrig_reqs : (s.setTrig e x).reqs = s.reqs := rfl
@[simp] theorem State.setTrig_ucmds : (s.setTrig e x).ucmds = s.ucmds := rfl
@[simp] theorem State.setTrig_collWait : (s.setTrig e x).collWait = s.collWait := rfl
@[simp] theorem State.setTrig_boot : (s.setTrig e x).boot = s.boot := rfl
@[simp] theorem State.setTrig_spareFw : (s.setTrig e x).spareFw = s.spareFw := rfl
@[simp] theorem State.setTrig_sec : (s.setTrig e x).sec = s.sec := rfl
@[simp] theorem State.setTrig_gk : (s.setTrig e x).gk = s.gk := rfl
@[simp] theorem State.setTrig_taps : (s.setTrig e x).taps = s.taps := rfl
@[simp] theorem State.setTrig_pcie : (s.setTrig e x).pcie = s.pcie := rfl
@[simp] theorem State.setTrig_cal : (s.setTrig e x).cal = s.cal := rfl
@[simp] theorem State.setTrig_pwr : (s.setTrig e x).pwr = s.pwr := rfl
@[simp] theorem State.setTrig_scanEnd : (s.setTrig e x).scanEnd = s.scanEnd := rfl
@[simp] theorem State.setTrig_svcEnd : (s.setTrig e x).svcEnd = s.svcEnd := rfl
@[simp] theorem State.setTrig_svcFrom : (s.setTrig e x).svcFrom = s.svcFrom := rfl
@[simp] theorem State.setTrig_clkBad : (s.setTrig e x).clkBad = s.clkBad := rfl
@[simp] theorem State.setTrig_rx : (s.setTrig e x).rx = s.rx := rfl
@[simp] theorem State.setTrig_t1s : (s.setTrig e x).t1s = s.t1s := rfl
@[simp] theorem State.setTrig_win : (s.setTrig e x).win = s.win := rfl
@[simp] theorem State.setTrig_once : (s.setTrig e x).once = s.once := rfl
@[simp] theorem State.setTrig_safeSince : (s.setTrig e x).safeSince = s.safeSince := rfl
@[simp] theorem State.setTrig_scopesAt : (s.setTrig e x).scopesAt = s.scopesAt := rfl
@[simp] theorem State.setTrig_pavClk : (s.setTrig e x).pavClk = s.pavClk := rfl
@[simp] theorem State.setTrig_uart : (s.setTrig e x).uart = s.uart := rfl
@[simp] theorem State.setTrig_injSrc : (s.setTrig e x).injSrc = s.injSrc := rfl
@[simp] theorem State.setTrig_convFlip : (s.setTrig e x).convFlip = s.convFlip := rfl
@[simp] theorem State.setTrig_tcm : (s.setTrig e x).tcm = s.tcm := rfl
@[simp] theorem State.setTrig_ghSyn : (s.setTrig e x).ghSyn = s.ghSyn := rfl
@[simp] theorem State.setTrig_roseAt : (s.setTrig e x).roseAt = s.roseAt := rfl
@[simp] theorem State.setTrig_cvuLast : (s.setTrig e x).cvuLast = s.cvuLast := rfl
@[simp] theorem State.setTrig_cvuStalled : (s.setTrig e x).cvuStalled = s.cvuStalled := rfl
@[simp] theorem State.setTrig_gkSram : (s.setTrig e x).gkSram = s.gkSram := rfl
@[simp] theorem State.setTrig_gkSyn : (s.setTrig e x).gkSyn = s.gkSyn := rfl
end

end Sys2Proof.Machine
end

