-- ==== Sys2Proof/Tests/Slice0.lean ====
section
/-! SUPPORT. Tests on fixed values: witnesses that the statements' hypotheses are met, ill-formed commands refused, and values taken
from the spec's own tables and worked examples. -/

namespace Sys2Proof.Tests

open Sys2Proof.Machine

set_option Elab.async false

/-- A state whose core 0 is as given. -/
def cor (c : CoreSt) : State := State.reset.setCore 0#16 c
/-- A core that runs. -/
def run0 : CoreSt := { CoreSt.init with run := true }
/-- A waiting descriptor of the words given. -/
def qi (ws : List W32) : QItem := ⟨64, ws, 1, 0⟩
/-- A queue with n waiting entries of the words given. -/
def qw (n : Nat) (ws : List W32) : QueueSt := { QueueSt.init with waiting := List.replicate n (qi ws) }
/-- A descriptor in progress. -/
def dr (ws : List W32) (stalled : Bool) : DescRun := ⟨ws, 0, 0, stalled, none, 0⟩
/-- A queue with a descriptor in progress. -/
def qr (ws : List W32) (stalled : Bool) : QueueSt := { QueueSt.init with running := some (dr ws stalled) }
def va (f : BitVec 3) (m : Bool) : VArgs := ⟨0, f, m, 1, 2, 3⟩
def ma (fmt : BitVec 4) (rnd : BitVec 2) (rs1 : RegNo) : MArgs := ⟨0, fmt, rnd, false, 1, rs1, 3⟩
/-- A core with n performed instructions in its vector queue, and one behind them that waits, where asked. -/
def vq0 (n : Nat) (behind : Bool) : CoreSt :=
  let e : VItem := ⟨.sets 0, 0, 0, 0, 0, 0, 0, true⟩
  { run0 with vq := List.replicate n e ++ if behind then [{ e with done := false }] else [] }

theorem witness_QueueSubmission :
    coreOk 0 = true ∧ (cor run0).executing 0 = true ∧ (cor CoreSt.init).executing 0 = false ∧ ((cor run0).core 0).rx 1 = 0 ∧
    ((cor run0).spReadWs 0 0 16).1.isSome = true ∧ (((cor run0).setSyn (spBase ((cor run0).physKey 0)) 3).spReadWs 0 0 16).1 = none ∧
    (cor (run0.setQueue 1 (qw 8 []))).executing 0 = true ∧ (((cor (run0.setQueue 1 (qw 8 []))).core 0).queue 1).waiting.length = 8 ∧
    (((cor (run0.wx 1 0x3FFC0#32)).core 0).rx 1).toNat + 64 = spSize ∧ (((cor (run0.wx 1 0x40000#32)).core 0).rx 1).toNat % 64 = 0 ∧
    (cor (run0.wx 1 65)).executing 0 = true ∧ (((cor (run0.wx 1 65)).core 0).rx 1).toNat % 64 = 1 := by decide +kernel
theorem witness_QueueWaitAndStatus :
    let q := { QueueSt.init with halted := true, cause := 1 }
    let s := cor ((run0.wx 1 6).setQueue 6 q)
    let r := cor ((run0.wx 1 1).wx 2 0x8000)
    s.executing 0 = true ∧ ((s.core 0).rx 1).toNat = 6 ∧ ((s.core 0).queue 6).halted = true ∧
    ((r.core 0).rx 1).toNat = 1 ∧ ((r.core 0).queue 1).halted = false ∧
    (((r.core 0).queue 1).counter - BitVec.ofNat 16 (fld ((r.core 0).rx 3) 0 16)).toNat = 0 ∧
    (((r.core 0).queue 1).counter - BitVec.ofNat 16 (fld ((r.core 0).rx 2) 0 16)).toNat = 2 ^ 15 ∧
    ((r.core 0).queue 1).running = none ∧ ((r.core 0).queue 1).out = none ∧ (r.core 0).vq = [] ∧ ((cor (vq0 1 false)).core 0).vq ≠ [] ∧
    ((((cor ((run0.wx 1 7).setQueue 5 (qr [] true))).core 0).queue 5).running.map (·.stalled)) = some true ∧
    ((((cor (run0.setQueue 2 (qr [] false))).core 0).queue 2).running.map (·.stalled)) = some false ∧
    (r.core 0).sigQ = [] ∧ ((cor { run0 with sigQ := [⟨[]⟩] }).core 0).sigQ ≠ [] := by decide +kernel
theorem witness_VectorLaneOperations :
    (cor run0).executing (va 1 true).core = true ∧ (va 1 true).funct3.toNat < 2 ∧ (va 0 false).funct3.toNat < 2 ∧ 2 ≤ (va 2 false).funct3.toNat ∧
    ((cor (vq0 7 false)).core 0).vq.length < 8 ∧ (((cor (vq0 7 false)).core 0).vq.all (·.done)) = true ∧
    8 ≤ ((cor (vq0 8 false)).core 0).vq.length ∧ ((cor (vq0 6 true)).core 0).vq.length < 8 ∧
    (((cor (vq0 6 true)).core 0).vq.any (fun e => !e.done)) = true := by decide +kernel
theorem witness_VectorComparesAndReductions :
    let head := fun n b => ((cor (vq0 n b)).core 0).vq.head?.map (fun e => (e.done, ((cor (vq0 n b)).core 0).vWaits e))
    (cor run0).executing 0 = true ∧ 2 ≤ (va 2 false).funct3.toNat ∧ (va 1 true).funct3.toNat < 2 ∧
    ((cor (vq0 7 false)).core 0).vq.length < 8 ∧ 8 ≤ ((cor (vq0 7 true)).core 0).vq.length ∧
    (head 1 false).map (·.1) = some true ∧ head 0 true = some (false, false) ∧ ((cor run0).core 0).vq = [] := by decide +kernel
theorem witness_VectorMemory :
    let c := (cor run0).core 0
    fmtReserved 6 = false ∧ isMx 6 = false ∧ (c.rx 0).toNat % mAlign 6 = 0 ∧ 0 + rowBytes 6 ≤ spSize ∧
    ((cor run0).spRead 0 0 (rowBytes 6)).1.isSome = true ∧ ((cor run0).spRead 0 0 1).1 = some [0] ∧ isMx 0xD = true ∧ (c.rx 3).toNat < spSize ∧
    (((cor run0).setSyn (spBase ((cor run0).physKey 0)) 3).spRead 0 0 (rowBytes 6)).1 = none ∧
    (laneAddrs c (c.rx 0) 3 4).all (inSp 4) = true ∧ ((cor run0).gatherElems 0 4 (laneAddrs c (c.rx 0) 3 4)).1.isSome = true ∧
    ((cor run0).scatterAdd 0 ((laneAddrs c (c.rx 0) 3 4).zip (c.lanes 1))).isSome = true ∧
    c.accBusy c.issued (fld (c.rx 0) 0 2) = false ∧ spSize < (((cor (run0.wx 1 0x40000#32)).core 0).rx 1).toNat + rowBytes 6 ∧
    (((cor (run0.wx 1 0x40000#32)).core 0).rx 1).toNat % mAlign 6 = 0 ∧
    (((cor (run0.wx 1 1)).core 0).rx 1).toNat % mAlign 6 ≠ 0 ∧ (ma 6 3 0).rnd = 3 ∧ (ma 6 2 0).rnd ≠ 3 := by decide +kernel
/-- A tensor operation of k = 32 over FP32-accumulated FP8 operands; the second stores its result. -/
def tw (close : Bool) : List W32 := [w32 (0x22 * 16 + 0xC0000 + b2n close * 65536), 32, 0, 0, 0x00400040#32, 0, 0, 0, 0x1000#32, 0x00000100#32]
theorem witness_TensorOperations :
    let s := cor (run0.setQueue 1 (qw 1 (tw false)))
    let b := cor (run0.setQueue 1 (qw 1 []))
    let o := cor (run0.setQueue 1 { qw 1 ((tw false).set 0 (w32 (0x22 * 16 + 0xC0000 + 0x2000))) with running := some (dr (tw true) false) })
    let a : VItem := ⟨.m (ma 6 0 0) 4, 0, 0, 0, 0, 0, 0, false⟩
    ((s.core 0).queue 1).waiting = qi (tw false) :: [] ∧ (s.core 0).dep (df (tw false) 0 24 3) (df (tw false) 1 16 16) = .ready ∧
    tensorOk (tw false) = true ∧ (s.tensorRead 0 (tw false)).1.isSome = true ∧ tensorOk [] = false ∧
    ((b.core 0).queue 1).waiting = qi [] :: [] ∧ a.id < (qi []).id ∧ a.op.accOf a.x1 = some (fld ((tw false).headD 0) 13 2) ∧
    (((o.core 0).queue 1).running.map (fun d => bit (dw d.words 0) 16)) = some true ∧ ((o.core 0).queue 1).out = none ∧
    ((((o.core 0).queue 1).waiting.map (fun i => fld (i.words.headD 0) 13 2))) = [1] ∧ fld ((tw true).headD 0) 13 2 = 0 ∧
    ((((cor (run0.setQueue 1 (qr (tw false) false))).core 0).queue 1).running).isSome = true ∧
    bit (dw (tw false) 0) 16 = false ∧ bit (dw (tw true) 0) 16 = true := by decide +kernel
/-- A COPY, GATHER, HASHGATHER or FILL of one INT8 element, and the same with a dependency on queue 1. -/
def dws (kind : Nat) (dep : Bool) : List W32 :=
  let hi := w32 (sramBase 0 / 2 ^ 32)
  [w32 (kind + 0x110 + b2n dep * 2 ^ 17), w32 (b2n dep), w32 (sramBase 0), hi, w32 (sramBase 0), hi, 0x00010001#32, 0x00010001#32, 0,
   w32 (sramBase 0), hi, 0, w32 (sramBase 0), 0x00100000#32 + hi, 0, 0]
theorem witness_DmaDescriptors :
    (∀ k < 4,
      let s := cor (run0.setQueue 5 (qw 1 (dws k false)))
      let a := cor (run0.setQueue 2 (qw 1 (dws k true)))
      let f := cor ((run0.setQueue 2 (qw 1 (dws k true))).setQueue 1 { QueueSt.init with halted := true })
      ((s.core 0).queue 5).waiting = qi (dws k false) :: [] ∧ dmaKind (dws k false) = k ∧ dmaSig (dws k false) = false ∧
      dmaOk (dws k false) [] = true ∧ (s.core 0).dep (df (dws k false) 0 17 3) 0 = .ready ∧
      (s.tdRead 0 (dws k false)).1 = some [] ∧
      (s.dmaRun 0 3 0 0 (dws k false) [] (dmaRowCount (dws k false)) 0).1 = 0 ∧
      (a.core 0).dep (df (dws k true) 0 17 3) 1 = .wait ∧ (f.core 0).dep (df (dws k true) 0 17 3) 1 = .failed) ∧
    dmaKind [3, 0, 0, 0, 0, 0, 0, 0] = 3 ∧ dmaOk [3, 0, 0, 0, 0, 0, 0, 0] [] = false ∧ 4 ≤ dmaKind [15] ∧
    (((cor (run0.setQueue 2 (qr (dws 0 false) false))).core 0).queue 2).running = some ⟨dws 0 false, 0, 0, false, none, 0⟩ := by
  decide +kernel
theorem witness_RunAheadAndContexts :
    let d := (dws 0 false).set 0 (w32 (0x110 + 0x8000))
    let s := (cor (run0.setQueue 2 (qw 1 d))).setReg (uPage 0 3 + 0x060) 256
    let t := cor (run0.setQueue 5 (qr (dws 0 false) true))
    let m := (cor { run0 with sigQ := [⟨[]⟩] }).setReg (ctxAt 0 3 0) 0x80000000#32
    let m' := m.setReg (ctxAt 0 3 1) 1
    (s.core 0).aheadFor 0 = some 1 ∧ ((s.core 0).queue 2).halted = false ∧ (s.core 0).ra = [] ∧ 256 ≤ (s.reg (uPage 0 3 + 0x060)).toNat ∧
    (s.core 0).aheadFor 1 = none ∧ ownOff 0 (0x000001000000 + 0) ≠ some 1 ∧
    ownOff 0 0x100000 = none ∧ ((t.core 0).queue 5).running = some (dr (dws 0 false) true) ∧ t.ctxFree 0 = some 0 ∧
    m'.ctxOpen 0 3 = true ∧ (m'.core 0).ctxBusy 3 = false ∧ geomCount (m'.reg (ctxAt 0 3 6)) ≤ m'.regF (ctxAt 0 3 1) 0 17 ∧
    (m'.core 0).sigQ.length < 8 ∧ (m'.core 0).sigQ = ⟨[]⟩ :: [] := by decide +kernel
theorem witness_CoreRegisterWrites :
    let s := State.reset.setRegF (uPage 0 0 + 0x014) 0 3 1
    let clu : UnitId := 0x2000#16
    let h := State.reset.setRegF (statAt 0) 3 1 1
    let b := (cor { run0 with sigBusy := 1 })
    let o := s.setReg (ctxAt 0 3 0) 0x80000000#32
    s.isAbsent 0 = false ∧ s.regF (uPage 0 0 + 0x014) 0 3 = 1 ∧ Tab.get none s.plan.req 0 = none ∧ (s.core 0).ctxBusy 3 = false ∧
    (b.core 0).ctxBusy 0 = true ∧ (∀ k < 4, s.ctxOpen 0 k = false) ∧ o.ctxOpen 0 3 = true ∧ uValid clu = true ∧ uLevel clu = 1 ∧
    s.writerDom .pair ≠ domGk ∧ s.writerDom (.dom domGk) = domGk ∧ (s.setGk { s.gk with up := true }).gk.up = true ∧
    bit (s.reg (spareMapAt clu)) 8 = false ∧ bit (s.reg (spareMapAt clu)) 16 = false ∧
    h.held (mkUid 0 (uDie clu) (uPav clu) (uClu clu) (fld (0x100#32) 0 4)) = true ∧
    s.held (mkUid 0 (uDie clu) (uPav clu) (uClu clu) (fld (0x10F#32) 0 4)) = false ∧ fld (s.reg (spareMapAt clu)) 0 4 ≠ fld (0x1000F#32) 0 4 ∧
    bit ((s.setReg (spareMapAt clu) 0x100#32).reg (spareMapAt clu)) 8 = true := by decide +kernel
theorem witness_ScalarArithmetic :
    let s := cor { run0 with pc := 0x3FFFC#32 }
    s.executing 0 = true ∧ seqPlace (s.core 0).pc.toNat 4 ≠ .out ∧
    (fld 0x003100B3#32 0 7 = 0x33 ∧ fld 0x003100B3#32 25 7 = 0) ∧ (fld 0x403100B3#32 25 7 = 0x20 ∧ fld 0x403100B3#32 12 3 = 0) ∧
    fld 0x023170B3#32 25 7 = 1 ∧ (fld 0x80010093#32 0 7 = 0x13 ∧ fld 0x80010093#32 12 3 = 0) ∧
    (fld 0x01F11093#32 12 3 = 1 ∧ fld 0x01F11093#32 25 7 = 0) ∧ (fld 0x41F15093#32 12 3 = 5 ∧ fld 0x41F15093#32 25 7 = 0x20) ∧
    fld 0xFFFFF0B7#32 0 7 = 0x37 ∧ fld 0xFFFFF097#32 0 7 = 0x17 ∧
    (fld 0x8000006F#32 0 7 = 0x6F ∧ ((s.core 0).pc + immJ 0x8000006F#32).toNat % 4 = 0) ∧
    ((s.core 0).pc + immJ 0x0020006F#32).toNat % 4 = 2 ∧
    (fld 0x00010067#32 0 7 = 0x67 ∧ fld 0x00010067#32 12 3 = 0) ∧
    (fld 0x80208063#32 0 7 = 0x63 ∧ branchIf (fld 0x80208063#32 12 3) 0 0 = some true ∧ branchIf (fld 0x80209063#32 12 3) 0 0 = some false ∧
      ((s.core 0).pc + immB 0x80208063#32).toNat % 4 = 0) := by decide +kernel
theorem witness_ScalarMemory :
    let s := cor ((run0.wx 1 0x3FFFC#32).wx 2 0x1000FFFC#32)
    let o := cor { run0 with pc := 0x40000#32 }
    let ld : W32 := 0x0000A083#32
    let st : W32 := 0x0010A023#32
    s.executing 0 = true ∧ (s.core 0).pc.toNat + 4 ≤ 0x40000 ∧ (o.core 0).pc.toNat = 0x40000 ∧
    (s.core 0).vBehind = false ∧ ((cor (vq0 0 true)).core 0).vBehind = true ∧
    fld ld 0 7 = 0x03 ∧ fld ld 12 3 = 2 ∧ ((s.core 0).rx (iRs1 ld) + immI ld).toNat + 4 = 0x40000 ∧ (s.spRead 0 0x3FFFC 4).1.isSome = true ∧
    ((s.core 0).rx 2 + immI 0x00012083#32).toNat + 4 = 0x10010000 ∧ ((s.core 0).rx 1 + immI 0x0040A083#32).toNat = 0x40000 ∧
    ((s.core 0).rx 1 + immI 0x0010A083#32).toNat % 4 = 1 ∧
    fld st 0 7 = 0x23 ∧ fld st 12 3 = 2 ∧ ((s.core 0).rx (iRs1 st) + immS st).toNat + 4 = 0x40000 ∧
    ((s.core 0).rx 1 + immS 0x0010A223#32).toNat = 0x40000 := by decide +kernel
theorem witness_IllegalInstructions :
    (cor run0).executing 0 = true ∧ seqPlace ((cor run0).core 0).pc.toNat 4 ≠ .out ∧
    (fld 0x0200000B#32 0 7 = 0x0B ∧ fld 0x0200000B#32 25 7 ≠ 0) ∧ (fld 0x0000507B#32 0 7 = 0x7B ∧ 5 ≤ fld 0x0000507B#32 12 3) ∧
    (fld 0x0000605B#32 0 7 = 0x5B ∧ 6 ≤ fld 0x0000605B#32 12 3) ∧ (fld 0x3A00002B#32 0 7 = 0x2B ∧ 0x1D ≤ fld 0x3A00002B#32 25 6) ∧
    (fld 0x0000207B#32 0 7 = 0x7B ∧ fld 0x0000207B#32 25 7 = 0 ∧ fld 0x0000207B#32 12 3 = 2) := by decide +kernel
/-- A state at a tick. -/
def atTick (n : Tick) : State := { State.reset with frc := n }
/-- A message with its CRC for a destination. -/
def msgOf (src dst : BitVec 16) (type : BitVec 8) (bs : List Byte) : PMsg :=
  let m : PMsg := ⟨src, 0, type, false, true, 0, bs, 0⟩
  { m with crc := msgCrc dst m }
def job0 : Job := { bank := 0, entry := 5, proof := false, seq := 1, copyB := false, lp := 0, item := 0, what := ⟨0, 4, 0⟩, save := 0x1000 }
def copy0 (set : Nat) (started : Bool) : CopyRun := ⟨set, false, true, started, none, false, false, [0]⟩
def run5 (started : Bool) : Run :=
  { bank := 0, gen := 0, entry := 5, proof := false, ent := State.reset.entry 0 5, net := ⟨1, 1, 1, 0, [], [], []⟩, constBase := [], tols := [],
    two := false, seq := 1, frame := 0, fire := 0, deadline := some 1000, missing := 0, arrivals := [], arrival := 0, pred := none, golden := 0,
    a := copy0 1 started, b := copy0 0 false, outcome := none, finished := false, forced := false, defer := 0, deferBy := [],
    heldSince := none, heldBy := [], interrupted := false }
def planned (r : Run) (n : Tick) : State := (atTick n).setPlan { PlanSt.init with runs := [r], jobs := [(0, some job0)] }
theorem witness_PackagesAndPlanSwitch :
    let s := State.reset.setRegF (gkBootPage + 0x040) 8 1 1
    let n := s.setReg (rpPage + 0x10000) 1
    let m := msgOf idGatehouse idRunPlan 0x14 [2, 0, 0, 0]
    let w := (atTick 50000000).setPlan { PlanSt.init with switch := some ⟨1, 0, none⟩, declared := [(1, false)] }
    let l := s.setPkgStat 7 1
    s.bankNames s.activeBank 7 = false ∧ n.bankNames n.activeBank 7 = false ∧ bit (s.reg (gkBootPage + 0x040)) 8 = true ∧ s.plan.switch = none ∧
    s.pkgStat 7 ≠ 1 ∧ l.pkgStat 7 = 1 ∧ (l.readB gkSrc 0 256).1 ≠ 0 ∧
    (w.recv 4 true m).1 = some [2, 0, 0, 0] ∧ (w.recv 4 true m).2.plan.switch = some ⟨1, 0, none⟩ ∧ m.type = 0x14 ∧
    (w.recv 4 true m).2.declOpen.head? = some (1, false) ∧ (w.recv 4 true { m with crc := 0 }).1 = none ∧
    w.plan.switch = some ⟨1, 0, none⟩ ∧ (0 + 50000000 ≤ w.frc) ∧ ({ w with frc := 49999999 } : State).frc < 0 + 50000000 ∧
    fld 0xFFFFF000#32 0 12 = 0 ∧ 2 ≤ fld 0x2#32 0 4 ∧ fld 0xA#32 0 4 ≤ 10 ∧ ¬ fld 0xB#32 0 4 ≤ 10 ∧
    nfld (ofBytesLE ([2, 0, 0, 0] : List Byte)) 0 2 = 2 ∧ nfld (ofBytesLE ([3, 0, 0, 0] : List Byte)) 0 2 = 3 := by decide +kernel
theorem witness_RunsAndWorkItems :
    let s := planned (run5 false) 999
    let r := planned (run5 true) 1000
    let c := r.setCore 0 { run0 with wfi := true }
    let g := (atTick 1).setPlan { PlanSt.init with gathers := [(255, some ⟨0, []⟩)] }
    let q := (planned (run5 true) 500000).setPlan { (planned (run5 true) 0).plan with req := [(0, some (0, false))] }
    let p := c.setReg (uPage 0 1 + 0x07C) 1
    g.gatherOver 255 ⟨0, []⟩ = true ∧ ({ g with frc := 0 } : State).gatherOver 255 ⟨0, []⟩ = false ∧
    (s.plan.runs.find? (fun r => decide (r.entry = 5) && decide (r.proof = false) && r.copies.contains false && r.waits false)) = some (run5 false) ∧
    ((pavUid 0 :: enclosersOf (pavUid 0)).foldl (fun t u => t.setRegF (statAt u) 0 3 stRunning) s).gate (pavUid 0) = 0 ∧ s.held (pavUid 0) = false ∧ s.tripped 0 = false ∧
    s.oldHolds (run5 false) false = false ∧ s.overdue (run5 false) = false ∧
    s.deferred (run5 false) false = [] ∧ (c.core 0).run = true ∧ (c.core 0).wfi = true ∧ c.isAbsent 0 = false ∧ (c.runOfJob job0).isSome = true ∧
    bit (c.reg (uPage 0 1 + 0x07C)) 0 = false ∧ bit (p.reg (uPage 0 1 + 0x07C)) 0 = true ∧ (p.runOfJob job0).isSome = true ∧
    r.overdue (run5 true) = true ∧ (r.plan.runs.find? (fun x => decide (x.entry = 5) && decide (x.proof = false) && r.overdue x)).isSome = true ∧
    Tab.get none q.plan.req 0 = some (0, false) ∧ 0 + 500 * (q.reg (rpPage + 0x070)).toNat ≤ q.frc ∧ (q.runOfJob job0).isSome = true ∧
    (s.recv 4 true (msgOf idGatehouse idRunPlan 0x11 (outcomeBytes 5 false 1 1))).1 = some (outcomeBytes 5 false 1 1) := by decide +kernel
/-- The record that coreYield looks for: MAGIC and RUN_SEQ of the item's run. -/
theorem witness_RunsAndWorkItems_record :
    let s := ((planned (run5 true) 1000).setCore 0 { run0 with wfi := true })
    let t := (s.writeB (s.seqSrc 0) 0x1000 (bytesLE 4 0x56414C44 ++ bytesLE 8 0 ++ bytesLE 4 1)).2
    imgW (t.readB (t.seqSrc 0) 0x1000 16).2.1 0 = 0 ∧ imgW (bytesLE 4 0x56414C44 ++ bytesLE 8 0 ++ bytesLE 4 1) 0 = 0x56414C44 ∧
    w32 (imgW (bytesLE 4 0x56414C44 ++ bytesLE 8 0 ++ bytesLE 4 1) 3) = (run5 true).seq := by decide +kernel
theorem witness_MemoryControllers :
    let s := State.reset
    let w := (State.reset.setSyn 0 (cols64.headD 0))
    let w := { w with wback := [(0, 0)] }
    mcLineOk 1 0x600000000 = true ∧ mcLineOk 0 0 = true ∧ (List.replicate 16 (0 : W32)).length = 16 ∧
    w.wback.find? (fun e => decide (e.1 = 0)) = some (0, 0) ∧ (ecc64 (w.synAt 0)).corrected = true ∧
    (s.reg (mcPage 0 + 0x064)).toNat + 1 < dramLines ∧
    dramLines ≤ ((s.setReg (mcPage 0 + 0x064) (w32 (dramLines - 1))).reg (mcPage 0 + 0x064)).toNat + 1 ∧
    uValid 0x2000 = true ∧ uLevel 0x2000 = 1 ∧ uValid 0x4000 = true ∧ uLevel 0x4000 = 2 := by decide +kernel
theorem witness_FirewallsAndDomains :
    let s := State.reset
    fwFirstGh 0 ≤ fwCount 0 - 1 ∧ 0 < fwFirstGh 0 ∧ s.writerDom .pair = domGh ∧ s.writerDom (.dom domGk) = domGk ∧
    s.writerDom (.dom 0x100) ≠ domGk ∧ s.writerDom (.dom 0x100) ≠ domGh ∧ bit (s.reg (fwPage 0 + 0x024)) 0 = false ∧
    bit ((s.setReg (fwPage 0 + 0x024) 1).reg (fwPage 0 + 0x024)) 0 = true ∧ unitsOf 0 = [0] ∧ (s.domainOf 0).toNat < 0xF00 ∧
    fld 0xEFF#32 0 12 = 0xEFF ∧ 0xEFF < fld 0xF00#32 0 12 ∧
    0xF00 ≤ ((s.setReg (domainAt 0) 0xF00#32).domainOf 0).toNat := by decide +kernel
def pkt (kind : BitVec 4) (ws : Nat) : Packet :=
  let p : Packet := ⟨kind, false, 1, 0, 5, 0x001, 0xFFFF, 0x020000000010, 0, 0xF, 0xF, 0, 0, 0, 0, 0, 0, List.replicate ws (0, 0)⟩
  { p with hdrCrc := BitVec.ofNat 16 (pktCrc p) }
theorem witness_FabricRequests :
    let s := State.reset
    let k := pktKey (pkt 0 0) 2
    let rq : Nat → State := fun st => { atTick 4000000 with reqs := [(k, some ⟨1, pkt 0 0, 0, 1000000, st, 0, []⟩)] }
    let early : State := { State.reset with reqs := [(k, some ⟨1, pkt 0 0, 0, 1000000, 1, 0, []⟩)] }
    let wait : State := { State.reset with collWait := [(9, [(1, pkt 4 1)])] }
    let entry := ((s.setReq k (some ⟨1, pkt 0 0, 0, s.respTo 2, 0, 0, []⟩)).injTake (fabPage 2) 0)
    let r := pkt 2 1
    s.mayIssue 2 (pkt 0 0) = true ∧ s.mayIssue 2 { pkt 0 0 with cls := 0 } = false ∧ (rq 0).mayIssue 2 (pkt 0 0) = false ∧ pktCrc (pkt 0 0) = (pkt 0 0).hdrCrc.toNat ∧ entry.1 ≠ 1 ∧
    (entry.2.req k).isSome = true ∧ entry.2.behind 2 (pkt 0 0) 1 = false ∧ (early.behind 2 { pkt 1 1 with tag := 6 } 2) = true ∧
    pktFormed (pkt 0 0) 0 = true ∧ pktFormed (pkt 1 1) 1 = true ∧
    pktFormed (pkt 4 1) 4 = true ∧ pktFormed (pkt 5 0) 5 = true ∧ pktFormed (pkt 4 1) 5 = false ∧
    pktCrc { pkt 0 0 with tag := 6 } ≠ (pkt 0 0).hdrCrc.toNat ∧ (s.payload 2 0x020000000010 (pkt 1 1).payload).1.length = 1 ∧
    Tab.get [] s.collWait 9 = [] ∧ Tab.get [] wait.collWait 9 = (1, pkt 4 1) :: [] ∧ wait.collUsed 9 < 8 ∧
    r.kind = 2 ∧ pktCrc r = r.hdrCrc.toNat ∧ s.req (pktKey r 2) = none ∧ pktKey r 2 = k ∧
    (rq 0).pathStatus ((rq 0).answersFrom 2 { pkt 0 0 with addr := 0x020080000010 }) 2 = 0 ∧ (rq 0).pathStatus ((rq 0).answersFrom 2 (pkt 0 0)) 2 ≠ 0 ∧
    (rq 0).req k = some ⟨1, pkt 0 0, 0, 1000000, 0, 0, []⟩ ∧ (rq 0).absorbs r.srcUnit = none ∧
    s.req k = none ∧ 0 + 1000000 ≤ (rq 1).frc ∧ early.frc < 0 + 1000000 ∧ (early.req k).map (·.again) = some 0 ∧
    early.behind 2 (pkt 0 0) 1 = false ∧ 0 + 4 * 1000000 ≤ (rq 2).frc := by decide +kernel
theorem witness_HostAccesses :
    let up := State.reset.setRegF pcieStatA 9 1 1
    let w := { up with reqs := [(hostKey true 0x022000000000, some ⟨1, hostPkt true 0x022000000000, 0, 9, 1, 1, []⟩)] }
    barOk 0 0x3FFFFFC 4 = true ∧ barOk 2 0xFFFFFF000 4096 = true ∧ State.reset.hostUp = false ∧ up.hostUp = true ∧
    w.hostWaits true 0x022000000000 = true ∧ up.hostWaits true 0x022000000000 = false ∧ up.hostWaits false 0x022000000000 = false ∧
    ({ w with frc := 1 } : State).hostWaits true 0x022000000000 = false ∧
    up.barAddr 0 0x1010000 = none ∧ up.barAddr 0 0x100FFFC = some 0x02200000FFFC ∧ up.barAddr 2 0xFFFFFFFFC = some 0xFFFFFFFFC := by
  decide +kernel
def linkAt (e st : Nat) (n : Tick) : State := (atTick n).setRegF (linkStatA e) 0 3 st
def flit0 (n : Nat) (crcOk : Bool) : Flit :=
  let f : Flit := ⟨List.replicate 240 0, BitVec.ofNat 12 n, 0, 0, 0⟩
  if crcOk then { f with crc := flitCrc 3 f } else f
theorem witness_LinkFlits :
    let s := (linkAt 11 5 5000).setReg (linkPageOf 11 + 0x058) 0xF
    let r : State := { s with links := [(11, { LinkSt.init with cfg := 0x03E80001#32, kept := [(3, [(4097, flit0 1 true)])] })] }
    3 < linkGroups 11 ∧ s.lkState 11 = 5 ∧ nbit (s.lkMask 11) 3 = true ∧ (flit0 0 true).data.length = 240 ∧ State.reset.lkState 11 ≠ 5 ∧
    fld (s.reg (linkPageOf 11 + 0x020)) 8 8 = 0 ∧
    (flit0 0 true).fseq.toNat = Tab.get 0 (s.link 11).expect 3 ∧ (flit0 1 true).fseq.toNat ≠ Tab.get 0 (s.link 11).expect 3 ∧
    1 ≤ fld (s.link 11).cfg 8 8 ∧ fld (r.link 11).cfg 8 8 < 1 ∧ r.lkState 11 = 5 ∧
    ((Tab.get [] (r.link 11).kept 3).dropWhile (fun k => decide (k.1 % 4096 ≠ 1))).map (·.1) = [4097] ∧
    (s.link 11).last + 5000 ≤ s.frc ∧ (linkAt 11 5 4999).frc < ((linkAt 11 5 4999).link 11).last + 5000 := by decide +kernel
theorem witness_LinkFlits_crc (f : Flit) (v : Nat) : ({ f with crc := flitCrc v f } : Flit).crc = flitCrc v { f with crc := flitCrc v f } := rfl
theorem witness_LinkBringUp :
    let both := fun (e a b : Nat) (n : Tick) => (linkAt e a n).setRegF (linkStatA (linkPartner e)) 0 3 b
    let g := (both 2 lkNegotiate lkNegotiate 0)
    let none_ := g.setRegF (linkPageOf 2 + 0x00C) 0 4 0
    let m := ((both 2 lkMaskExchange lkMaskExchange 0).setReg (linkPageOf 2 + 0x050) 0xF).setReg (linkPageOf (linkPartner 2) + 0x050) 0xF
    State.reset.lkMay (.dom domGk) 0 = true ∧ linkGh 0 = false ∧ State.reset.lkState 0 = lkReset ∧ State.reset.lkMay .tsm 9 = false ∧
    ({ State.reset with ghUp := true }).lkState 11 = lkReset ∧
    (both 2 lkDetect lkDetect 0).lkState (linkPartner 2) = lkDetect ∧ (both 2 lkDetect lkDetect 0).lkMin 2 ≤ popcnt (linkGroups 2) 0xF ∧
    ((both 2 lkDetect lkDetect 5000000).link 2).since + 500 * ((both 2 lkDetect lkDetect 0).link 2).trainTo ≤ 5000000 ∧
    g.lkState 2 = lkNegotiate ∧ g.lkVersions 2 &&& g.lkVersions (linkPartner 2) ≠ 0 ∧
    none_.lkVersions 2 &&& none_.lkVersions (linkPartner 2) = 0 ∧ none_.lkState 2 = lkNegotiate ∧
    (linkAt 2 lkGroupTrain 0).lkState 2 = lkGroupTrain ∧ m.lkState 2 = lkMaskExchange ∧
    m.lkMin 2 ≤ popcnt 16 (m.regF (linkPageOf 2 + 0x050) 0 16 &&& m.regF (linkPageOf (linkPartner 2) + 0x050) 0 16) ∧
    popcnt 16 ((both 2 lkMaskExchange lkMaskExchange 0).regF (linkPageOf 2 + 0x050) 0 16) <
      (both 2 lkMaskExchange lkMaskExchange 0).lkMin 2 := by decide +kernel
def svc0 : SvcSt :=
  { drec := ⟨63, false, 1, 1, 3, 5, 100, 0, 1, 0, 0, 0, 0, 0⟩, setA := 1, setB := 0, miss := 0, since := 0, src := 0, checked := none,
    ageGiven := false, staleGiven := false, gold := none, orders := [], needGold := false, causes := [], clean := [], clearAt := none,
    last := (0, 0), readmit := none, pathWas := false }
/-- Service 63 declared and in a belief, with golden state, at a boundary. -/
def believed (st : Nat) (g : GoldSt) (last : Tick) : State :=
  let s := { atTick last with cyc := { CycleSt.init with last := last, next := some last, verdicts := [[0]] } }
  let s := (s.setSvc 63 (some svc0)).setRegF (beliefPage + 0x088 + 4 * (63 / 8)) (4 * (63 % 8)) 4 st
  s.setFol { s.fol with golds := [(63, g)] }
theorem witness_BoundariesAndVerdicts :
    let s := believed stBelieved { GoldSt.init with pass := some 0, due := some 1 } 2000000001
    let e := { s with cyc := { s.cyc with next := some 3000000000 } }
    let g := fun t0 => s.setBel { s.bel with grace := [(3, some (t0, 1000000001))] }
    s.cyc.next = some 2000000001 ∧ 2000000001 ≤ s.frc ∧ e.frc < 3000000000 ∧ Tab.get none (g 1000000000).bel.grace 3 = some (1000000000, 1000000001) ∧
    1000000000 + 1000000001 ≤ 2000000001 ∧ 2000000001 < 1000000001 + 1000000001 ∧ State.reset.cyc.next = none ∧
    s.cyc.verdicts = [0] :: [] ∧ State.reset.cyc.verdicts = [] ∧ s.svc 63 = some svc0 ∧ s.beliefOf 63 = stBelieved ∧ svc0.ageGiven = false ∧
    max (svc0.checked.getD 0) svc0.since + 500000 * svc0.drec.resultAge.toNat < s.cyc.last ∧ (s.gold 63).pass = some 0 ∧
    svc0.staleGiven = false ∧ 0 + 1000000 * max (s.gold 63).interval (s.gold 63).declared < s.cyc.last ∧ (s.gold 63).due = some 1 ∧
    s.beliefOf 63 ≠ stUntested ∧ s.beliefOf 63 ≠ stDoubted ∧ s.goldFree 63 svc0 = true := by decide +kernel
def order0 (again : Option Tick) : Order := ⟨255, .pavs 1, 0, again, 1, false, false, 0⟩
def ord0 (again : Option Tick) (n : Tick) : State := (atTick n).setBel { BeliefSt.init with orders := [order0 again] }
def empty0 : DeclSet := ⟨0, 0, 1, [], [], [], [], [], true⟩
theorem witness_DeclarationsAndOrders :
    let s := State.reset
    let d := msgOf idRunPlan idGatehouse 0x13 (declBytes empty0)
    let bad := { empty0 with reservedZero := false }
    let ok : State := { s with areasOk := true, sio := { s.sio with recOk := true } }
    let a := bytesLE 8 0 ++ bytesLE 8 0x600000000 ++ bytesLE 8 0x1000
    (s.recv 2 true d).1 = some (declBytes empty0) ∧ d.type = 0x13 ∧ ((s.recv 2 true d).2.declReason bad).1 ≠ 0 ∧ ((ok.recv 2 true d).2.declReason empty0).1 = 0 ∧
    (s.recv 2 true { d with crc := d.crc + 1 }).1 = none ∧ (s.recv 2 true { d with more := true }).1 = none ∧ d.src = idRunPlan ∧
    ((s.recv 2 true { d with crc := d.crc + 1 }).2.stream 2 idRunPlan).xfer ≠ 1 ∧
    (s.recv 4 true (msgOf idGatehouse idGk 0x20 (orderBytes 255 .package))).1 = some (orderBytes 255 .package) ∧
    (s.recv 4 true (msgOf idGatehouse idGk 0x27 (List.replicate 24 0))).1.isSome = true ∧
    (s.recv 4 true (msgOf idGatehouse idGk 0x23 [0])).1.isSome = true ∧
    ((ord0 none 0).recv 2 true (msgOf idGk idGatehouse 0x21 [255, 0, 0, 0])).1 = some [255, 0, 0, 0] ∧
    ((ord0 none 0).recv 2 true (msgOf idGk idGatehouse 0x21 [255, 0, 0, 0])).2.order 255 = some (order0 none) ∧
    ((ord0 none 0).recv 2 true (msgOf idGk idGatehouse 0x22 [255, 0, 0, 0])).2.order 255 = some (order0 none) ∧ (order0 none).state = 1 ∧
    State.reset.order 255 = none ∧ (0 + 5000000 ≤ (ord0 none 5000000).frc ∧ (ord0 (some 0) 5000000).order 255 = some (order0 (some 0))) ∧
    (ord0 none 4999999).frc < 0 + 5000000 ∧
    0 + scopeLimit (.pavs 1) ≤ (ord0 none 150000000).frc ∧ (ord0 none 0).frc < 0 + scopeLimit (.pavs 1) ∧
    (s.recv 2 true (msgOf idGk idGatehouse 0x26 [1])).1 = some [1] ∧ (s.recv 2 true (msgOf idGk idGatehouse 0x26 [1])).2.areasOk = false ∧
    areasFit [1] = false ∧ areasFit a = true ∧ (s.recv 2 true (msgOf idGk idGatehouse 0x26 a)).1 = some a ∧
    (({ s with areasOk := true } : State).recv 2 true (msgOf idGk idGatehouse 0x26 [1])).2.areasOk = true := by decide +kernel
def rec0 (clearing two : Bool) : BvRun := ⟨7, two, 0, 0, 0, 0, 63, [], clearing, [], false⟩
def arb0 (k : ArbKind) (start : Option Tick) (n : Tick) : State := (atTick n).setBv { BvSt.init with queue := [⟨0, k, 208, start⟩] }
def gold0 : ArbKind := .golden 63 false 0 ⟨0, 0, 0, false, false, [1], [4], 0, 0, 0, 0, 0, false⟩ 0 ⟨0, 0, 0, []⟩
theorem witness_BelvedereRuns :
    let s := (State.reset.setBel { BeliefSt.init with decl := some empty0 })
    let c := s.setBv { BvSt.init with runs := [(510, some (rec0 true false)), (511, some (rec0 false true))] }
    let sg := msgOf 0x0400 idGatehouse 0x01 (List.replicate 32 0)
    (s.recv 2 true (msgOf idRunPlan idGatehouse 0x10 (runOpenBytes 255 false 7 false 0 0 0))).1 = some (runOpenBytes 255 false 7 false 0 0 0) ∧
    (s.recv 2 true (msgOf idRunPlan idGatehouse 0x10 [])).2.bel.decl = some empty0 ∧ bvKey 255 false = 510 ∧ bvKey 255 true = 511 ∧
    c.bvRun 510 = some (rec0 true false) ∧ c.bvRun 511 = some (rec0 false true) ∧ s.bvRun 511 = none ∧ (rec0 true false).deadline ≤ c.frc ∧
    ({ rec0 true false with deadline := 1 } : BvRun).deadline > c.frc ∧
    safetyDom 0x001 = false ∧ safetyDom 0xF10 = true ∧ (s.lane (laneOf sg.payload)).length < 64 ∧
    ¬ ((s.setBv { BvSt.init with lanes := [(0, List.replicate 64 [])] }).lane (laneOf sg.payload)).length < 64 ∧
    (s.recv 1 true sg).1 = some (List.replicate 32 0) ∧ (s.recv 1 true (msgOf 0x0400 idGatehouse 0x01 [0])).1 = some [0] ∧
    (arb0 (.pair 0) none 0).bv.queue = ⟨0, .pair 0, 208, none⟩ :: [] ∧ ArbKind.isGolden (.pair 0) = false ∧ gold0.isGolden = true ∧
    (((arb0 (.pair 0) (some 0) 1).bvRun 0).bind (fun r => runRange r 0)) = none ∧
    (arb0 (.pair 0) (some 0) 1).frc = 0 + (208 + 207) / 208 ∧ (arb0 (.pair 0) (some 0) 0).frc < 0 + (208 + 207) / 208 ∧
    s.bv.queue = [] ∧ s.bv.scrub = none ∧
    s.bv.scrubNext ≤ s.frc ∧ 0 + scrubTicks ≤ (atTick scrubTicks).frc ∧
    (c.recv 2 true (msgOf idRunPlan idGatehouse 0x12 (deadlineBytes 255 9))).1 = some (deadlineBytes 255 9) ∧
    ((c.recv 2 true (msgOf idRunPlan idGatehouse 0x12 (deadlineBytes 255 9))).2.bvRun 511).isSome = true := by decide +kernel
/-- Checker 4878, the last, in lane 11's slice since a tick. -/
def lane0 (k : Nat) (t0 now : Tick) : State := (atTick now).setFol { FolSt.init with lanes := [(11, some (k, t0))], chks := [(k, { ChkSt.init with pass := some 0 })] }
theorem witness_SelfTestsAndCheckers :
    let s := atTick 50000000
    let lim := fun k => 750 + chkWorst k
    let f := lane0 4878 0 50000000
    Tab.get none s.fol.lanes 11 = none ∧ Tab.get none s.fol.blocked 11 = none ∧ Tab.get none f.fol.lanes 11 = some (4878, 0) ∧
    chkLane 4878 = 11 ∧ s.chkWanted 4878 = true ∧ s.chkReady 4878 = true ∧ s.chkOpen 4878 = true ∧ s.fits 4878 = true ∧
    (f.chk 4878).pass = some 0 ∧ (s.chk 4878).pass = none ∧ 0 + f.stInterval / 2 ≤ f.frc ∧
    (lane0 4878 0 1).frc < 0 + (lane0 4878 0 1).stInterval / 2 ∧ (f.chk 4878).overdue = false ∧ f.chkExists 4878 = true ∧
    bit (f.reg (folPage + 0x018)) 1 = false ∧ bit (f.reg (folPage + 0x01C)) 1 = false ∧ 0 + f.stInterval ≤ f.frc ∧
    0 + lim 4878 ≤ (lane0 4878 0 (lim 4878)).frc ∧ (lane0 4878 0 (lim 4878)).testWaits 4878 = false ∧
    testFirst 4878 none = 0 ∧ testFirst 4878 (some (1, .stays)) ≠ 0 ∧ 0 + lim 4878 < (lane0 4878 0 (lim 4878 + 1)).frc := by decide +kernel
/-- Three classes at level 2: quiet for their period, with a budget of 2 (class 1), of 0 (class 2). -/
def fc0 (n : Tick) : State :=
  let s := ((atTick n).setRegF (fcClsStat 1) 0 3 2).setRegF (fcBudgetA 1) 0 8 2
  let s := ((s.setRegF (fcClsStat 2) 0 3 2).setRegF (fcBudgetA 2) 0 8 0).setRegF (fcQuietA 1) 0 16 1
  s.setFcClass 1 { FcCls.init with mins := [0, 0] }
def heard0 (n : Tick) : State := { atTick n with streams := [(0, ⟨true, 1, 0, 0, false, 0, []⟩)] }
theorem witness_ErrorReports :
    let s := { State.reset with risen := [(fcPage, 0), (uPage 0 3, 0)] }
    let m3 := msgOf (idConc 0) idGatehouse 0x03 (errReport 0 (uPage 0 3) 0)
    let m4 := msgOf (idConc 0) idGatehouse 0x04 []
    let a := msgOf idGk idGatehouse 0x24 [1, 0]
    let f := msgOf idGk idGatehouse 0x25 [1, 0, 0, 0]
    let armed := State.reset.setReg (fcPage + injOff) 0x110
    srcOk fcPage 0 = true ∧ srcOk (uPage 0 3) 0 = true ∧ (fcPage, 0) ≠ lockstepSrc ∧
    s.risen.contains (fcPage, 0) = true ∧ pageDie fcPage = 3 ∧ armed.injArmed fcPage = true ∧ State.reset.injArmed fcPage = false ∧
    (State.reset.setErr folPage 0).risen.contains (folPage, 0) = true ∧ (State.reset.setErr fcPage 0).risen.contains (fcPage, 0) = false ∧
    s.risen.contains (uPage 0 3, 0) = true ∧ pageDie (uPage 0 3) ≠ 3 ∧
    (s.recv 0 true m3).1 = some (errReport 0 (uPage 0 3) 0) ∧ (errReport 0 (uPage 0 3) 0).length = 8 ∧
    pageOf (BitVec.ofNat 16 (ofBytesLE ((errReport 0 (uPage 0 3) 0).take 4))) (nfld (ofBytesLE ((errReport 0 (uPage 0 3) 0).take 4)) 16 12) = uPage 0 3 ∧
    (s.recv 0 true m3).2.fcKnown.contains (uPage 0 3, 0) = false ∧ m3.type = 0x03 ∧ (s.recv 0 true { m3 with crc := 0 }).1 = none ∧
    (s.recv 0 true m4).1 = some [] ∧ m4.type = 0x04 ∧ Tab.get 0 s.vecAt 2 + 25000 ≤ (atTick 25000).frc ∧
    (heard0 100000).lastHeard 0 = some 0 ∧ Tab.get false (heard0 100000).silent 0 = false ∧ 0 + 100000 ≤ (heard0 100000).frc ∧
    State.reset.lastHeard 0 = none ∧ bit (0x80000000#32) 31 = true ∧
    (s.recv 2 true a).1 = some [1, 0] ∧ nbit (nfld (ofBytesLE ([1, 0] : List Byte)) 0 16) 4 = false ∧
    nbit (nfld (ofBytesLE ([16, 0] : List Byte)) 0 16) 4 = true ∧
    (s.recv 2 true f).1 = some [1, 0, 0, 0] ∧ f.type = 0x25 := by decide +kernel
theorem witness_FaultClassRecovery :
    (fc0 499999).fcQuietDue 1 = false ∧ (fc0 500000).fcQuietDue 1 = true ∧ (fc0 500000000).fcQuietDue 2 = true ∧
    (fc0 500000000).regF (fcBudgetA 2) 0 8 < ((fc0 0).fcClass 2).hourly + 1 ∧
    ((fc0 0).fcClass 1).hourly + 1 ≤ (fc0 0).regF (fcBudgetA 1) 0 8 ∧ ((fc0 0).fcClass 1).mins = 0 :: [0] ∧
    (atTick 29999999999).frc < State.reset.fcMinute ∧ State.reset.fcMinute ≤ (atTick 30000000000).frc ∧
    headPage fcPage = true ∧ (winUnit (fcPage + 0x018)).all (fun x => !State.reset.isAbsent x) = true ∧
    (∀ k, pageKind (fcPage + 0x018) = some k → State.reset.headMay .pair k fcPage 0x018 = true) ∧
    (∀ k, pageKind (fcPage + 0x018) = some k → State.reset.headMay (.dom domHost) k fcPage 0x018 = false) := by
  refine ⟨by decide +kernel, by decide +kernel, by decide +kernel, by decide +kernel, by decide +kernel, by decide +kernel,
    by decide +kernel, by decide +kernel, by decide +kernel, by decide +kernel, ?_, ?_⟩ <;>
  · rintro k h
    have e : pageKind (fcPage + 0x018) = some .fc := by decide +kernel
    cases (Option.some.inj (e.symm.trans h))
    decide +kernel
/-- Safe inputs: pair 0 ESTOP on TP outputs 0 and 1, pair 1 unused; both paths' levels as given. -/
def si0 (levels : Nat) (n : Tick) : State :=
  let s := { atTick n with cyc := { CycleSt.init with recLoad := some 0 } }
  let s := (s.setRegF (siCfgA 0) 0 3 fnEstop).setRegF (siCfgA 0) 6 2 1
  let s := s.setReg (sioPage + 0x044) (w32 (200 + 65536 * 100))
  s.setSio { s.sio with hwLevel := BitVec.ofNat 34 levels, prLevel := BitVec.ofNat 34 levels, tpAt := [(0, some 0)], tpReads := [(0, 1, 1)] }
theorem witness_SafeInputs :
    let s := si0 1 150000
    s.tpBlank 32 = false ∧ (State.reset.setReg (sioPage + 0x04C) 4).tpBlank 33 = false ∧ s.scanOn = false ∧ (si0 1 149999).tpBlank 0 = true ∧ s.tpBlank 31 = false ∧
    s.filtered true 31 0 = true ∧ s.filtered true 31 150001 = false ∧ s.filtered false 33 0 = true ∧
    s.cyc.recLoad = some 0 ∧ s.tpPeriod ≠ 0 ∧ (0 + 3 * s.tpPeriod / 4 ≤ (si0 1 (3 * s.tpPeriod / 4)).frc) ∧
    (s.tpPeriod * 3 / 4 - (0 + 3 * s.tpPeriod / 4)) % s.tpPeriod = 0 ∧ s.frc < 0 + 1 * s.tpPeriod / 4 ∧
    s.tpOf 0 = some 0 ∧ (s.setReg (siCfgA 15) 0x100).tpOf 31 = none ∧ Tab.get none s.sio.tpAt 0 = some 0 ∧ bit (Tab.get (0, 0) s.sio.tpReads 0).1 0 = true ∧
    bit (Tab.get (0, 0) s.sio.tpReads 0).1 1 = false ∧ 0 + s.tpWidth + 50000 ≤ s.frc ∧ s.siLevel true 0 = true ∧
    s.siLevel false 0 = true ∧ s.scanEnd ≤ 0 ∧ s.siFunc 0 ≠ 0 ∧ s.siEval true 0 = true ∧ s.siEval false 0 = true ∧
    s.siEval true 15 = false := by decide +kernel
theorem witness_SafeOutputCommands :
    let s := { State.reset with cyc := { CycleSt.init with us := 1000 } }
    let v := fun t => s.setSio { s.sio with hsValid := some t }
    s.sio.sampled = false ∧ s.cyc.last + 250 * s.cyc.us ≤ ({ s with frc := 250000 } : State).frc ∧ s.frc < s.cyc.last + 250 * s.cyc.us ∧
    bit (1 : W32) 0 = true ∧ (v 0).sio.hsValid = some 0 ∧ 0 ≤ (v 0).frc ∧ (v 0).fwHold = none ∧ (v 1).sio.hsValid = some 1 ∧ (v 1).frc < 1 := by
  decide +kernel
/-- Output 3 ON, both switches on and its supply present, with a dark test begun at 0. -/
def so0 (n : Tick) : State :=
  let s := { atTick n with cyc := { CycleSt.init with recLoad := some 0 } }
  let s := ((s.setRegF (outStatA 3) 0 2 1).setReg (soStatA 3) 3).setReg (sioPage + 0x048) 1000
  s.setSio { s.sio with dark := [(3, some ⟨0, false, false, 0⟩)] }
theorem witness_ReadbackAndDarkTests :
    let s := so0 0
    let slot := 0 + 3 * s.dtPeriod / 8 + s.dtPeriod / 2
    s.cyc.recLoad = some 0 ∧ s.dtPeriod ≠ 0 ∧ s.svcAccess = false ∧ s.regF (outStatA 3) 0 2 = 1 ∧ s.hsPin 3 = true ∧ s.lsPin 3 = true ∧
    bit (s.reg (soStatA 3)) 6 = false ∧ slot ≤ (so0 slot).frc ∧ ((so0 slot).frc - slot) % s.dtPeriod = 0 ∧ s.frc < slot ∧
    Tab.get none s.sio.dark 3 = some ⟨0, false, false, 0⟩ ∧ 0 + 150000 ≤ (so0 150000).frc ∧ (so0 149999).frc < 0 + 150000 := by decide +kernel
/-- The resume button: levels of the two contacts, ready, and the press in progress. -/
def rb0 (levels : Nat) (ready : Bool) (press : Option Tick) (n : Tick) : State :=
  let s := (atTick n).setReg (sioPage + 0x04C) 0x0A00#32
  s.setSio { s.sio with hwLevel := BitVec.ofNat 34 (levels * 2 ^ 32), ready := ready, pressAt := press }
theorem witness_ResumeButton :
    let s := rb0 3 true none 100
    let l := rb0 1 true none 50000000000
    let c := rb0 0 false (some 0)
    s.sio.ready = true ∧ s.scanOn = false ∧ s.siLevel true 32 = true ∧ s.siLevel true 33 = true ∧ s.sio.pressAt = none ∧
    max (Tab.get 0 s.sio.closedAt 0) (Tab.get 0 s.sio.closedAt 1) - min (Tab.get 0 s.sio.closedAt 0) (Tab.get 0 s.sio.closedAt 1) < s.resDisc ∧
    (rb0 3 false (some 0) 1).siLevel true (32 + b2n true) = true ∧ (c 0).sio.pressAt = some 0 ∧ (c 0).siLevel true 32 = false ∧
    (c 0).siLevel true 33 = false ∧ (c 49999999).frc - 0 < 50000000 ∧ 50000000 ≤ (c 50000000).frc - 0 ∧ (c 1000000000).frc - 0 ≤ 1000000000 ∧
    bit ((c 50000000).reg sioResStatA) 3 = false ∧
    l.sio.releaseAt = none ∧ l.siLevel true 32 = true ∧ l.siLevel true 33 = false ∧ l.sio.ready = true ∧ l.sio.pressAt = none ∧
    Tab.get 0 l.sio.closedAt 0 + l.resDisc ≤ l.frc ∧ l.siLevel true (32 + b2n false) = true ∧
    Tab.get 0 l.sio.closedAt (b2n false) + 5000000000 < l.frc := by decide +kernel
/-- The Groundskeeper's controller with sources 1 (priority 3, moderated) and 2 (priority 3) pending, source 3 in service. -/
def icu0 : State :=
  let s := (State.reset.setReg (icuCfgA 1 1) 0x00050430#32).setReg (icuCfgA 1 2) 0x00000530#32
  let s := (s.icuSet 1 1 icuPend true).icuSet 1 2 icuPend true
  (((s.setRegF (icuStatA 1 3) 4 2 2).icuSet 1 3 icuInsv true).icuSet 1 4 icuHeld true).setReg (icuCfgA 1 5) 2
theorem witness_InterruptControllers :
    icuSrcOk 1 1 = true ∧ icuTgtOk 1 3 = true ∧ icu0.icuBit 1 1 icuLine = false ∧ icu0.regF (icuCfgA 1 5) 0 3 = 2 ∧
    icu0.icuBit 1 5 icuLine = false ∧
    icu0.icuBest 1 3 = 0 ∧ icu0.icuBest 1 0 = 1 ∧ icu0.icuBest 1 1 = 2 ∧ fld (icu0.reg (icuCfgA 1 1)) 16 16 ≠ 0 ∧
    fld (icu0.reg (icuCfgA 1 2)) 16 16 = 0 ∧ icu0.icuMay (.dom domGk) 1 = true ∧ icu0.icuMay .pair 1 = false ∧
    (icu0.icuServing 1 2).contains (fld 3#32 0 9) = true ∧ (icu0.icuServing 1 3).contains (fld 3#32 0 9) = false ∧
    icu0.icuBit 1 4 icuHeld = true ∧ Tab.get 0 icu0.icuHold (icuKey 1 4) ≤ icu0.frc ∧
    icu0.frc < Tab.get 0 ({ icu0 with icuHold := [(icuKey 1 4, 9)] } : State).icuHold (icuKey 1 4) := by decide +kernel
def wd0 (w st : Nat) (n : Tick) : State :=
  (((atTick n).setReg (wdCloseA w) 2).setWdState w st).setWd w { WdSt.init with boundary := some 0 }
theorem witness_Watchdogs :
    wdOwner .owner 13 = true ∧ (State.reset.wd 13).started = false ∧ wdOwner .pair 1 = true ∧ wdClassD 1 = false ∧
    State.reset.wdState 1 = wdOff ∧ wdOwner (.dom domGk) 0 = false ∧
    (wd0 2 wdRunning 1000000000).wdDue 2 = some causeTimeout ∧ (wd0 2 wdRunning 0).wdDue 2 = none ∧
    (wd0 5 wdBitten 5000000).wdState (2 + 3) = wdBitten ∧ ((wd0 5 wdBitten 0).wd (2 + 3)).biteAt + 5000000 ≤ (wd0 5 wdBitten 5000000).frc ∧
    (wd0 0 wdBitten 5000).wdState 0 = wdBitten ∧ ((wd0 0 wdBitten 5000).wd 0).boundary = some 0 ∧ 0 + 5000 ≤ (wd0 0 wdBitten 5000).frc ∧
    wdClassD 2 = true ∧ (wd0 2 wdRunning 0).wdState 2 = wdRunning ∧ (wd0 13 wdFrozen 0).wdState 13 = wdFrozen ∧
    (wd0 13 wdRunning 0).wdState 13 ≠ wdFrozen := by decide +kernel
theorem witness_TaskMonitorAndCheckIns :
    let m := msgOf (BitVec.ofNat 16 0x0400) idGatehouse 0x02 [255]
    let on := State.reset.setReg (tsmTaskA 255) 0x0001_0F01#32
    let due := { on with cyc := { CycleSt.init with count := 2 } }
    safetyDom 0xF18 = false ∧ safetyDom 0xF10 = true ∧ safetyDom 0xF17 = true ∧ (on.recv 1 true m).1 = some [255] ∧
    (on.recv 1 true m).2.taskDue 255 = false ∧ (on.recv 1 true m).2.taskOn 255 = true ∧ (State.reset.recv 1 true m).2.taskOn 255 = false ∧
    due.taskDue 255 = true ∧ on.taskDue 0 = false ∧ bit (1 : W32) 0 = true := by decide +kernel
theorem witness_CheckValueUnits :
    State.reset.cvuMay .pair 0 = true ∧ State.reset.cvuMay .folly 5 = true ∧ State.reset.cvuMay (.dom domGk) 7 = true ∧
    State.reset.cvuMay .pair 5 = false ∧ State.reset.cvuTest 7 = false ∧ (State.reset.setRegF (cvuStatA 7) 17 1 1).cvuTest 7 = true ∧
    bit (1 : W32) 0 = true ∧ bit ((State.reset.setReg (cvuCfg 7) 3).reg (cvuCfg 7)) 8 = false ∧
    bit ((State.reset.setReg (cvuCfg 7) 0x103).reg (cvuCfg 7)) 8 = true ∧ (State.reset.injTake (cvuPage 7) 0).1 = 0 ∧
    ((State.reset.setReg (cvuPage 7 + injOff) 0x110).injTake (cvuPage 7) 0).1 ≠ 0 := by decide +kernel
theorem witness_StreamsAndHeartbeats :
    let m := msgOf (peerId 7) idGatehouse 0x31 [1, 0, 0, 0]
    let s := State.reset.setT1s { State.reset.t1s with inbox := [m] }
    State.reset.streamLimit 2 (idConc 2) = some 100000 ∧ State.reset.streamLimit 4 0 = none ∧ State.reset.pmMay .pair 2 = true ∧
    State.reset.pmMay .pair 4 = false ∧ s.t1s.inbox.contains m = true ∧ m.src = peerId 7 ∧
    ((s.setT1s { s.t1s with inbox := s.t1s.inbox.erase m }).recv 3 true m).1 = some [1, 0, 0, 0] ∧
    State.reset.t1s.inbox.contains m = false := by decide +kernel
/-- Peer 7 enabled with a heartbeat period of 1 ms and MAC 5, a record loaded at 0 and a cycle of 1 ms. -/
def seg0 (n : Tick) : State :=
  let s := { atTick n with cyc := { CycleSt.init with recLoad := some 0, next := some 1000000, us := 1000, verdictCycles := 1 } }
  (s.setReg (t1sPeer 7 + 8) 0x11).setReg (t1sPeer 7) 5
theorem witness_SegmentBeaconsAndFrames :
    let s := seg0 500000
    let m := msgOf (peerId 7) idGatehouse 0x31 [1, 0, 0, 0]
    let f := fun n => (atTick n).setT1s { (atTick n).t1s with foreign := some 0 }
    s.hbDue 7 = some 500000 ∧ s.cyc.recLoad = some 0 ∧ s.peerEn 7 = true ∧ s.quiet = false ∧ s.t1s.busy ≤ s.frc ∧
    (seg0 499999).hbDue 7 = some 500000 ∧ s.nextVerdict = some 1000000 ∧ 1000000 ≤ (seg0 999000).frc + 1000 ∧
    (seg0 999000).frc < 1000000 ∧ (seg0 999000).coordinator = true ∧ (seg0 999000).t1s.beacon ≠ some 1000000 ∧
    (seg0 998999).frc + 1000 < 1000000 ∧ (f 50000000).t1s.foreign = some 0 ∧ 0 + 50000000 ≤ (f 50000000).frc ∧
    (f 49999999).frc < 0 + 50000000 ∧ s.t1s.foreign = none ∧
    (([1, 2, 3, 4, 5, 6, 7] : List Nat).find? (fun n => s.peerEn n && decide (s.peerMac n = (5 : BitVec 48).toNat))) = some 7 ∧
    (([1, 2, 3, 4, 5, 6, 7] : List Nat).find? (fun n => s.peerEn n && decide (s.peerMac n = (6 : BitVec 48).toNat))) = none ∧
    (0 : BitVec 16).toNat ≠ (s.setReg (t1sPage + 0x054) 1).regF (t1sPage + 0x054) 0 16 ∧
    (1 : BitVec 16).toNat = (s.setReg (t1sPage + 0x054) 1).regF (t1sPage + 0x054) 0 16 ∧ m.src = peerId 7 ∧ m.type = 0x31 := by decide +kernel
/-- MAC 3 with its link up in mode 1 and source 31 (EtherType 0x88B5) on it. -/
def eth0 (gates : W32) : State :=
  let s := (State.reset.setReg (ethPage 3 + 0x044) 1).setReg (ethPage 3 + 0x04C) gates
  (s.setMac 3 ⟨1, 1518, 0⟩).setRxs 31 { FrameSt.init with conf := [7, 0, 0, 0, 0x88B5] }
def frame0 (ety : Byte) : List Byte := List.replicate 12 0 ++ [0x88, ety] ++ List.replicate 46 0
theorem witness_EthernetFrames :
    (eth0 0).ethUp 3 = true ∧ 64 ≤ (frame0 0).length + 4 ∧ (frame0 0).length + 4 ≤ ((eth0 0).mac 3).maxLen ∧ bit ((eth0 0).reg (ethPage 3 + 0x04C)) 7 = false ∧
    ((eth0 0).mac 3).busy ≤ (eth0 0).frc ∧ (eth0 0).gateAhead 3 = false ∧ bit ((eth0 0x80).reg (ethPage 3 + 0x04C)) 7 = true ∧
    ((eth0 0).portSrcs true 3).find? (fun n => ((eth0 0).rxs n).matches (frame0 0xB5)) = some 31 ∧
    ((eth0 0).portSrcs true 3).find? (fun n => ((eth0 0).rxs n).matches (frame0 0)) = none ∧ ([] : List Byte).length + 4 < 64 ∧
    (((eth0 0).setMac 3 ⟨1, 100, 0⟩).mac 3).maxLen < (List.replicate 97 (0 : Byte)).length + 4 ∧ State.reset.ethUp 3 = false ∧
    fld ((State.reset.setReg (ethPage 0 + 0x040) 1).reg (ethPage 0 + 0x040)) 0 2 ≠ 0 ∧ fld ((State.reset.setReg (ethPage 0 + 0x040) 0).reg (ethPage 0 + 0x040)) 0 2 = 0 := by decide +kernel
/-- CSI-2 port 7 on, with source 15 on its virtual channel 15. -/
def cam0 (x : FrameSt) : State :=
  State.reset.setRx { (State.reset.setRxs 15 { x with conf := [1 + 14 + 0xF0] }).rx with csi := [(7, 1)] }
theorem witness_CameraFrames :
    let s := cam0 FrameSt.init
    let i := cam0 { FrameSt.init with inFrame := true, patterns := 1, ctr := some 3 }
    let j : Judged := ⟨0, none, 0, 0, 0, 0⟩
    let y := State.reset.setRxs 31 { FrameSt.init with judged := [j], done := true }
    (s.rxs 15).en = true ∧ (s.rxs 15).port = 7 ∧ bit (Tab.get 0 s.rx.csi 7) 0 = true ∧ (State.reset.rxs 15).en = false ∧
    bit (Tab.get 0 s.rx.csi 6) 0 = false ∧ s.synInPath false 7 = false ∧
    (s.portSrcs false 7).filter (fun n => decide (fld ((s.rxs n).w 0) 4 4 = 0)) = [] ∧
    (s.portSrcs false 7).filter (fun n => decide (fld ((s.rxs n).w 0) 4 4 = 15)) = 15 :: [] ∧
    s.writerDom (.dom domGk) = domGk ∧ bit (1 : W32) 0 = true ∧ s.writerDom .pair ≠ domGk ∧ (i.rxs 15).en = true ∧
    (i.rxs 15).inFrame = true ∧ (i.rxs 15).patterns = 1 ∧ (i.rxs 15).patCrcBad = false ∧ (i.rxs 15).ctr = some 3 ∧ (s.rxs 15).patterns ≠ 1 ∧
    (s.rxs 31).judged = [] ∧ (y.rxs 31).judged = j :: [] ∧ (y.writeB rxSrc (synAddr y 31) (synLine 31 j.num (fld j.cfg 16 14))).1 = 0 ∧
    (y.rxs (16 + 15)).done = true ∧ (s.rxs (16 + 15)).done = false := by decide +kernel
def bs0 (f : BsSt) (n : Tick) : State := { atTick n with bs := f }
theorem witness_SnapshotsAndCommits :
    let s := (State.reset.setReg bsCtrlA 2).setRegF bsStatA 0 1 1
    let d := ((State.reset.setReg bsCtrlA 1).setRegF bsStatA 0 1 1).setReg (domPage 1 + 4) 1
    let b := bs0 { BsSt.init with marker := some 1024 } 1024
    let w := { b with bs := { b.bs with reps := [(2, ⟨0, 0, 0, 0, some 1024⟩)] } }
    (s.commitOk 1 = true ∧ s.commitOk 2 = true ∧ d.commitOk 3 = true ∧ s.bs.commit = none) ∧
    (bs0 { BsSt.init with commit := some (1, 0) } 0).bs.commit ≠ none ∧ (atTick 1024).frc % 1024 = 0 ∧
    (atTick 1024).bs.marker ≠ some (atTick 1024).frc ∧ (atTick 1023).frc % 1024 ≠ 0 ∧ b.bs.marker = some b.frc ∧
    ((b.rep 2).word = none ∧ b.bs.marker = some 1024) ∧ (w.rep 2).word = some 1024 ∧ 1024 + 8192 ≤ ({ w with frc := 9216 } : State).frc ∧
    ({ w with frc := 9215 } : State).frc < 1024 + 8192 ∧ (atTick 1048575).frc % 1048576 ≠ 0 ∧ (atTick 1048576).frc % 1048576 = 0 ∧
    (d.setRegF bsStatA 3 2 d.domSel).domSel < 2 ∧ (d.setRegF bsStatA 3 2 d.domSel).domValid 1 = true ∧ d.domSel = 1 ∧
    (d.setRegF bsStatA 3 2 d.domSel).domIsStale 1 = false ∧ 2 ≤ (s.setRegF bsStatA 3 2 s.domSel).domSel ∧
    (fld 0x00C80000#32 0 2 ≠ 3 ∧ 1 ≤ fld 0x00C80000#32 16 8 ∧ fld 0x00C80000#32 16 8 ≤ 200) ∧
    (bs0 { BsSt.init with fetch := true } 0).bs.fetch = true ∧ ({ State.reset with areasOk := true } : State).areasOk = true ∧
    State.reset.bs.fetch = false ∧ d.domValid 1 = true ∧
    Tab.get 0 d.bs.domAt 1 + 500000 * (d.setRegF (bsPage + 0x05C) 16 16 1).regF (bsPage + 0x05C) 16 16 ≤ (atTick 500000).frc ∧
    (atTick 499999).frc < Tab.get 0 d.bs.domAt 1 + 500000 * (d.setRegF (bsPage + 0x05C) 16 16 1).regF (bsPage + 0x05C) 16 16 := by decide +kernel
/-- Entry 63 armed with an action and a target. -/
def trg0 (action target armedAt : Nat) (n : Tick) : State := bs0 { BsSt.init with trig := [(63, ⟨true, action, false, false, 0, target, 0, [], armedAt, none⟩)] } n
theorem witness_TriggersCapturesAndPps :
    let c := (State.reset.setReg (bsPage + 0x0E0) 0xFF0F#32)
    let p := (bs0 { BsSt.init with ppsSec := 0 } 1000000000).setReg (bsPage + 0x1A0) 0x00010001#32
    trigCtrlOk 63 0 = true ∧ State.reset.trigNear (State.reset.trig 63) = false ∧ (trg0 0 5 0 5).trigReached ((trg0 0 5 0 5).trig 63) = true ∧
    ((trg0 2 5 0 5).trig 63).action = 2 ∧ ((trg0 4 5 0 5).trig 63).action = 4 ∧ ((trg0 3 1000 0 1000).trig 63).action = 3 ∧
    (trg0 3 1000 0 1000).trigReached ((trg0 3 1000 0 1000).trig 63) = true ∧
    (trg0 3 1000 0 1000).ethShort ((trg0 3 1000 0 1000).trig 63) = 0 ∧ (trg0 3 999 0 1000).ethShort ((trg0 3 999 0 1000).trig 63) ≠ 0 ∧
    ((trg0 3 999 0 1000).trig 63).armedAt + 1000 ≤ (trg0 3 999 0 1000).frc ∧ (trg0 0 5 0 4).trigReached ((trg0 0 5 0 4).trig 63) = false ∧
    bit (c.reg (bsPage + 0x0E0)) 3 = true ∧ nbit (fld (c.reg (bsPage + 0x0E0)) (8 + 2 * 3) 2) (b2n true) = true ∧ (c.capList 3).length < 4 ∧
    4 ≤ ((bs0 { BsSt.init with caps := [(3, List.replicate 4 (0, true))] } 0).capList 3).length ∧
    bit (State.reset.reg (bsPage + 0x0E0)) 0 = false ∧ (bs0 { BsSt.init with caps := [(3, [(9, true)])] } 0).capList 3 = (9, true) :: [] ∧
    c.capList 0 = [] ∧ bit (p.reg (bsPage + 0x1A0)) 0 = true ∧ p.bs.ppsSec < p.pt / secUnits ∧
    (bs0 { BsSt.init with ppsOn := some 0 } 0).bs.ppsOn = some 0 ∧ State.reset.bs.ppsOn = none ∧
    ¬ State.reset.bs.ppsSec < State.reset.pt / secUnits := by decide +kernel
theorem witness_HostPort :
    let h := fun m n => ({ (atTick n) with pcie := { State.reset.pcie with hold := [(2047, some (5, m))] } } : State)
    let up := (h true 5).setReg pcieStatA 0x600#32
    Tab.get none (h true 5).pcie.hold 2047 = some (5, true) ∧ 5 ≤ (h true 5).frc ∧ ((h true 5).setHold 2047 none).msixMasked 2047 = true ∧
    (up.setReg (msixA 2047 + 12) 0).msixMasked 2047 = false ∧ (h true 4).frc < 5 ∧
    Tab.get none State.reset.pcie.hold 2047 = none ∧ bit (up.reg pcieStatA) 9 = true ∧ bit (State.reset.reg pcieStatA) 9 = false ∧
    ([1, 2, 4, 8, 16] : List Nat).contains (16 : BitVec 5).toNat = true ∧
    1 ≤ fld (State.reset.reg (pciePage + 0x048)) 0 3 ∧ 1 ≤ fld (State.reset.reg (pciePage + 0x048)) 8 5 ∧
    fld ((State.reset.setReg (pciePage + 0x048) 0x101).reg (pciePage + 0x048)) 0 3 < (2 : BitVec 3).toNat := by decide +kernel
/-- A safety parameter record with an ESTOP pair on outputs 0 to 3. -/
def recSafe (cycle : Nat) : SafetyRecord :=
  ⟨cycle, 5, [100], 100, List.replicate 16 1000, List.replicate 16 4, 200, 100, 1000, 100, 0, 1, 100, 5, [⟨fnEstop, false, 0, 1, false, 15, 100, 5⟩],
   [true, true, true, true], [true, true, true, true], [], 2, 16, 100, 0, 0, 0x88B5, [], []⟩
theorem witness_GatehouseAndIoDie :
    let r := recSafe 0
    let u := { State.reset with ghUp := true }
    let a := (State.reset.setRegF (ghPwrPage + 0x044) (16 + 9) 1 1)
    let rel := State.reset.setGk { State.reset.gk with released := some 0 }
    let arm := fun n => ({ atTick n with pwr := { State.reset.pwr with armFrom := [(1, some 0)] } } : State).setRegF (ghPwrPage + 0x044) 0 1 0
    (u.ghUp = true ∧ u.cyc.recLoad = none ∧ recordOk r = false ∧ recordOk (recSafe 1000) = true) ∧ ioCtrlMay .rom = true ∧ State.reset.gk.released = none ∧
    rel.gk.released = some 0 ∧ bit ((State.reset.setRegF ghIoCtrlA 0 1 1).reg ghIoCtrlA) 0 = true ∧ ioCtrlMay .tsm = false ∧ a.armed 9 = true ∧
    (railWindow 9).1 ≤ 1650 ∧ 1950 ≤ (railWindow 9).2 ∧
    (a.rail 9).out < 2 ∧ ((a.setRail 9 { a.rail 9 with out := 2 }).rail 9).out = 2 ∧
    Tab.get none (arm 0).pwr.armFrom (9 / 5) = some 0 ∧ (arm 0).armed 9 = false ∧ (arm 0).killed = false ∧ 0 + 5000000 ≤ (arm 5000000).frc ∧
    Tab.get 0 ({ State.reset with clkBad := [(2, 3)] } : State).clkBad 2 = 3 ∧ bit ({ State.reset.sec with scopes := 8 } : SecSt).scopes 3 = true ∧
    bit State.reset.sec.scopes 3 = false := by decide +kernel
/-- Pavilion 7's core 0 with a command in a phase from tick 0. -/
def cmd0 (phase : Nat) (n : Tick) : State :=
  { atTick n with ucmds := [((pavUid 7).toNat, some ⟨cmdReset, true, 0, 5000, 0, phase⟩)] }
theorem witness_UnitCommands :
    let s := State.reset
    let u := pavUid 7
    let h := s.setRegF (statAt u) 3 1 1
    let idle := (s.setRegF (statAt 0) 0 3 stIdle)
    let alive := ((s.setRegF (ghPwrPage + 0x044) 0 1 0).setGk { s.gk with up := true })
    uValid u = true ∧ s.unitMay (.dom domGk) u = true ∧ s.unitMay (.seq 0) u = false ∧ s.isAbsent u = false ∧
    (enclosersOf (mkUid 0 1 3 0 0)).any (fun v => ((cmd0 1 0).ucmd v).isSome) = true ∧ (enclosersOf u).any (fun v => (s.ucmd v).isSome) = false ∧
    s.ucmd u = none ∧ s.memberBusy u = false ∧ (9#16).toNat < 10 ∧ 10 ≤ (10#16).toNat ∧ h.held u = true ∧ (s.setRegF (statAt u) 3 1 0).held u = false ∧
    (cmd0 1 0).ucmd u = some ⟨cmdReset, true, 0, 5000, 0, 1⟩ ∧ (cmd0 1 5000).drained u = true ∧
    0 + 5000 ≤ (cmd0 1 5000).frc ∧ (cmd0 1 4999).frc < 0 + 5000 ∧
    (cmd0 2 0).ucmd u = some ⟨cmdReset, true, 0, 5000, 0, 2⟩ ∧ (cmd0 2 0).outstanding u = 0 ∧ 0 + 4 * (cmd0 2 0).respTo (uDie u) ≤ (atTick 100000000).frc ∧
    idle.ustate 0 = stIdle ∧ fld (idle.bootW (idle.physKey 0) 0) 0 4 = 0 ∧ s.ustate 0 ≠ stIdle ∧ s.killed = true ∧ alive.killed = false ∧
    alive.gk.up = true ∧ bit (alive.reg (gkBootPage + 0x040)) (9 + 1) = false ∧
    bit ((alive.setReg (gkBootPage + 0x040) 0x400).reg (gkBootPage + 0x040)) (9 + 1) = true := by decide +kernel
theorem witness_UnitCommands_mailbox :
    let s := fun k : Byte => ((State.reset.setRegF (statAt 0) 0 3 stIdle).setByte (spBase (State.reset.physKey 0) + bootMail) k)
    fld ((s 1).bootW ((s 1).physKey 0) 0) 0 4 = 1 ∧ fld ((s 2).bootW ((s 2).physKey 0) 0) 0 4 = 2 ∧
    fld ((s 3).bootW ((s 3).physKey 0) 0) 0 4 = 3 ∧ (s 3).ustate 0 = stIdle := by decide +kernel
/-- No condition of a firmware switch fails: no class latched, no input or output faulted, no output on. -/
def fw0 (hold : Option Tick) (n : Tick) : State := { atTick n with fwHold := hold }
theorem witness_FirmwareSwitches :
    (fw0 none 0).fwHold = none ∧ (fw0 none 0).fwswDenied true = 0 ∧ ((fw0 none 0).setRegF (fcClsStat 4) 0 3 2).fwswDenied true ≠ 0 ∧
    (fw0 (some 0) 24999999).fwHold = some 0 ∧ (fw0 (some 0) 24999999).frc < 0 + 25000000 ∧ 0 + 25000000 ≤ (fw0 (some 0) 25000000).frc ∧
    (fw0 (some 0) 0).fwswDenied false = 0 ∧ ((fw0 (some 0) 0).setRegF (fcClsStat 4) 0 3 2).fwswDenied false ≠ 0 := by decide +kernel
theorem witness_PowerAndThermal :
    let s := State.reset
    let b := s.setPlan { PlanSt.init with jobs := [(0, some job0)] }
    s.killed = true ∧ s.fcLevel 12 = 7 ∧ (s.setRegF (fcClsStat 12) 0 3 2).fcLevel 12 ≠ 7 ∧ (atTick 49999).frc % 50000 ≠ 0 ∧
    (atTick 50000).frc % 50000 = 0 ∧ s.cap < s.capSum [] 2000000 ∧ s.capSum [] 0 ≤ s.cap ∧ 20 * s.capSum [] 0 < 19 * s.cap ∧
    (s.capSum [] 1500 ≤ s.cap ∧ 19 * s.cap ≤ 20 * s.capSum [] 1500) ∧
    s.pwrMay (.dom domGk) = true ∧ s.pwrMay .rom = true ∧ s.pwrMay (.dom 2) = false ∧ fld (3 : W32) 0 2 = 3 ∧ fld (2 : W32) 0 2 ≠ 3 ∧
    b.pavBusy 0 = true ∧ b.pavBusy 7 = false ∧ (s.setGk { s.gk with up := true }).gk.up = true ∧ s.gk.up = false ∧ railWarns ⟨1000, 1041, false⟩ = true ∧ railWarns ⟨1000, 1040, false⟩ = false ∧ railWarns ⟨1000, 960, false⟩ = false ∧
    railWarns ⟨1000, 959, false⟩ = true := by decide +kernel
/-- A request of a kind with argument words. -/
def sreq (kind : Nat) (args : List W32) : SecReq := ⟨w32 kind :: args, true, []⟩
theorem witness_GrottoRequests :
    let st := fun q : SecReq => ({ State.reset with sec := { State.reset.sec with req := some q } } : State)
    let ch := fun n => ({ atTick n with sec := { State.reset.sec with challenge := some (0, []) } } : State)
    State.reset.sec.req = none ∧ (st (sreq 1 [0, 1])).sec.req = some (sreq 1 [0, 1]) ∧ (sreq 1 [0, 1]).tap = true ∧ (sreq 1 [0, 1]).kind = 1 ∧
    (sreq 1 [0, 1]).addr % 64 ≠ 0 ∧ (sreq 2 []).kind = 2 ∧ (sreq 3 [0, 0, 0, 8193]).kind = 3 ∧ 8192 < ((sreq 3 [0, 0, 0, 8193]).arg 0x310).toNat ∧
    fld ((sreq 4 [0, 0, 0, 0, 3]).arg 0x314) 0 3 < 4 ∧ 4 ≤ fld ((sreq 4 [0, 0, 0, 0, 7]).arg 0x314) 0 3 ∧
    (State.reset.fetchImg (sreq 5 [0, 0, 0, 64])).1 = none ∧ (sreq 5 [0, 0, 0, 64]).kind = 5 ∧ (sreq 6 []).kind = 6 ∧
    4 < fld ((sreq 7 [0, 0, 0, 0, 5]).arg 0x314) 0 3 ∧ fld ((sreq 7 [0, 0, 0, 0, 0x103]).arg 0x314) 0 3 = 3 ∧
    State.reset.arbOf 3 ≤ fld ((sreq 7 [0, 0, 0, 0, 0x103]).arg 0x314) 8 8 ∧
    fld ((sreq 7 [0, 0, 0, 0, 0x103]).arg 0x314) 8 8 < ({ State.reset with sec := { State.reset.sec with arb := [(3, 2)] } } : State).arbOf 3 ∧
    (ch 0).sec.challenge = some (0, []) ∧ 0 + 30000000000 ≤ (ch 30000000000).frc ∧ (ch 29999999999).frc < 0 + 30000000000 ∧
    State.reset.treeBuild = false ∧ State.reset.sec.tapOut = [] ∧
    ({ State.reset with sec := { State.reset.sec with tapOut := [7] } } : State).sec.tapOut = 7 :: [] := by decide +kernel
/-- A host request of a kind stands, with argument 2 as given. -/
def hreq (kind : Nat) (arg : W32) : State :=
  let s := State.reset.setGk { State.reset.gk with up := true }
  (s.setReg (mboxPage + 0x040) (w32 (kind + 65536))).setReg (mboxPage + 0x04C) arg
theorem witness_HostRequests :
    let g := State.reset.setGk { State.reset.gk with up := true, buf := [], telAt := 0 }
    let r := State.reset.setGk { State.reset.gk with released := some 0, romWait := true }
    let z := State.reset.setGk { State.reset.gk with released := some 0 }
    (∀ k < 9, State.reset.hostAsks k = false) ∧ (∀ k < 9, 1 ≤ k → (hreq k 0).hostAsks k = true) ∧
    ((hreq 1 0).mirrorConfig.readB gkSrc (hreq 1 0).mirrorConfig.hostAddr ((hreq 1 0).mirrorConfig.hostArg 2).toNat).1 ≠ 99 ∧
    (hreq 3 0).mirrorConfig.bel.gkOrders = [] ∧ (hreq 4 0).mirrorConfig.gk.trial = false ∧
    117 < ((hreq 7 118).mirrorConfig.hostArg 2).toNat ∧ ((hreq 7 117).mirrorConfig.hostArg 2).toNat ≤ 117 ∧
    g.writerDom (.dom domGk) = domGk ∧ 1 ≤ (1 : BitVec 2).toNat ∧ g.writerDom .pair ≠ domGk ∧ State.reset.gk.up = false ∧ g.gk.up = true ∧
    0 + 500000000 * (g.setRegF (gkIdPage + 0x058) 0 12 1).regF (gkIdPage + 0x058) 0 12 ≤ (atTick 500000000).frc ∧
    (g.setRegF (gkIdPage + 0x058) 0 12 0).regF (gkIdPage + 0x058) 0 12 = 0 ∧ calServed 0 (State.reset.regF (calPage 0 + 0x040) 0 8) = true ∧
    r.gk.released = some 0 ∧ r.gk.romWait = true ∧ bit (r.reg (secPage + 0x040)) 0 = false ∧ State.reset.gkMboxFree = true ∧
    z.gk.released ≠ none ∧ z.gk.waitExt = false ∧ z.gk.halted = false ∧ z.gk.romWait = false ∧ z.romChoose.1 = none ∧
    3 ≤ (z.setGk { z.gk with restarts := [0, 0, 0] }).restartsNow ∧ z.restartsNow < 3 := by decide +kernel
theorem witness_ScanAndService :
    let n := (List.range 4).foldl (fun (t : State) k => (t.setRegF (outStatA k) 0 2 0).setRegF (outStatA k) 8 1 0) (atTick 500000000)
    State.reset.tapIn 3 = true ∧ State.reset.tapIn 0 = true ∧ State.reset.tapIn 1 = false ∧ State.reset.svcAccess = false ∧
    n.svcReady = true ∧ State.reset.svcReady = false ∧ ({ State.reset with svcAccess := true } : State).svcAccess = true ∧
    bit State.reset.sec.scopes (tapScope 0) = false ∧ bit ({ State.reset.sec with scopes := 0xF } : SecSt).scopes (tapScope 0) = true := by
  decide +kernel
theorem witness_RegisterWrites :
    let a := uPage (pavUid 7) 0 + 0x044
    regRow 0x00FFF000 = none ∧ gkSramAt 0x00FFF000 = false ∧ gkSramAt 0x087FFFFC = true ∧
    ghPlace 0x2007FFFC = some .tcm ∧ ghPlace 0x307FFFFC = some .slots ∧ ghPlace 0x20080000 = none ∧ 2 % 4 ≠ 0 ∧ pageKind a = some .unit ∧ (regRow a).isSome = true ∧ a % 4 = 0 ∧
    (winUnit a).all (fun x => !State.reset.isAbsent x) = true ∧ headPage (uPage 0 0) = true ∧ uValid (pavUid 7) = true ∧
    State.reset.ctlDom (.dom domGk) = true ∧ State.reset.ctlDom (.dom 2) = false ∧ fld (3 : W32) 0 2 = 3 ∧ uLevel (pavUid 7) ≠ 0 ∧ coreOk 0 = true ∧
    ((State.reset.setRegF (statAt 0) 0 3 stIdle).ctxSrOpen 0 = true) ∧ State.reset.ctxSrOpen 0 = false := by decide +kernel
theorem witness_NanPatterns :
    FFmt.e4m3.decode 0xFF = .nan ∧ FFmt.e5m2.decode 0xFD = .nan ∧ FFmt.fp16.decode 0x7C01 = .nan ∧ FFmt.bf16.decode 0xFF81 = .nan ∧
    FFmt.fp32.decode 0x7F800001 = .nan ∧ (0 : Nat) ≠ 0xFF := by decide +kernel
theorem witness_RateCommits :
    let s := bs0 { BsSt.init with commit := some (1, 0) } 2048
    (s.setReg bsCtrlA 2).inForm = true ∧ (s.setReg bsCtrlA 2).domSel = 2 ∧ s.bs.commit = some (1, 0) ∧ secondMarker 0 ≤ s.frc ∧
    (s.setReg bsCtrlA 1).domSel ≠ 2 := by decide +kernel
theorem witness_CanonicalForm : State.reset.inForm = true ∧ State.reset.pending = [] := by decide +kernel
theorem witness_RegisterStorage : State.reset.inForm = true ∧ regRow 0 = none := by decide +kernel
/-! ### Values taken from the spec's own tables and worked examples -/

/-- The bytes of "123456789". -/
def digits : List Byte := [0x31, 0x32, 0x33, 0x34, 0x35, 0x36, 0x37, 0x38, 0x39]
/-- R285: the check values of the five CRCs. -/
theorem test_crc_check_values :
    (List.range 5).map (fun sel => (digits.foldl (cvuByte sel) (cvuInit sel)) ^^^ cvuXor sel)
      = [0xDF, 0x29B1, 0xCBF43926, 0xE3069283, 0x995DC9BBDF1939FA] := by decide +kernel
/-- R286, R287: a unit fed the digits by DATA32 and DATA8 shows the check value of its reset CRC, CRC-32C. -/
theorem test_cvu_data :
    let s := ((((State.reset.setReg (cvuCfg 7) 3).setRegF (cvuStatA 7) 2 3 3).setCvuRun 7 (cvuInit 3)).cvuFeed 7 (bytesLE 4 0x34333231)).cvuFeed 7 (bytesLE 4 0x38373635)
    (s.cvuFeed 7 [0x39]).cvuResult 7 = 0xE3069283 ∧ (s.cvuFeed 7 [0x39]).reg (cvuBytesA 7) = 9 := by decide +kernel
/-- R12: the Unit ID examples. -/
theorem test_unit_ids :
    ([0x0000#16, 0x07FF#16, 0x2630#16, 0x4500#16, 0x6400#16, 0x8000#16].map (fun u => (uValid u, uPage u 0)))
      = [(true, 0x020000000000), (true, 0x020007FF0000), (true, 0x020026300000), (true, 0x020045000000), (true, 0x020064000000), (true, 0x020080000000)] ∧
    ([0x2631#16, 0x0A57#16, 0x8400#16].map uValid) = [false, false, false] ∧
    mkUid 0 1 3 15 15 = 0x07FF#16 ∧ mkUid 1 1 2 3 0 = 0x2630#16 ∧ mkUid 2 1 1 0 0 = 0x4500#16 := by decide +kernel
/-- R118: one SPREAD address, and the next alias page. -/
theorem test_spread_address :
    canonical 0x001000005A40 = 0x000600002A40 ∧ canonical 0x001000006000 = 0x000000003000 ∧ canonical 0x001000006FFF = 0x000000003FFF := by decide
/-- R121, R124: a decoder fault that moves a read by A[5]. -/
theorem test_sram_decoder_fault :
    ((check32 0x12345678 0x014000001A00) ^^^ (check32 0x12345678 0x014000001A20)).toNat = 0x1F ∧ ecc32 0x1F = .addr ∧
    check32 0 0x014000001A00 = check32 0 0x014000201A20 := by decide +kernel
/-- R29: the worked MXFP4 block of 13.0, -0.7 and 0.2. -/
theorem test_mxfp4_block :
    (mxBlock 0xC 0 false 0 [0x41500000, 0xBF333333, 0x3E4CCCCD]).1 = 0x80 ∧
    (mxBlock 0xC 0 false 0 [0x41500000, 0xBF333333, 0x3E4CCCCD]).2.1 = [7, 9, 0] := by decide +kernel
/-- R22, R24: a NaN in a block makes the whole block NaN. -/
theorem test_mx_nan_block : (mxBlock 0x8 0 true 0 [0x3F800000, 0x7FC00001]).1 = 0xFF ∧ (mxBlock 0x8 0 true 0 [0x3F800000, 0x7FC00001]).2.1 = [0, 0] := by
  decide +kernel
/-- R73: the grid indices of 2.50, 2.75, -1.125, -1.00, 3.50 and 3.25 at QSTEP 0. -/
theorem test_grid_indices :
    ([0x42, 0x43, 0xB9, 0xB8, 0x46, 0x45].map (gridIx 2 0)) = [(3, 2), (3, 2), (0xFFFFFFFF, 0xFFFFFFFE), (0xFFFFFFFF, 0xFFFFFFFF), (4, 3), (3, 3)] := by
  decide +kernel
/-- R398: the cap lowered from 150 W to 100 W under load; the clocks after each tick. -/
def cap0 (mhz : Nat) : State :=
  let s := ((State.reset.setRegF (pwrPage + 0x040) 0 2 1).setRegF (pwrPage + 0x044) 0 6 (mhz / 25))
  (List.range 8).foldl (fun t p => t.setRegF (pavStatA p) 0 2 1) s
theorem test_cap_step :
    (cap0 1000).cap = 1000 ∧
    ([(1000, 1420), (525, 1132), (450, 1036), (425, 1004), (400, 972)].map fun (e : Nat × Nat) => 25 * (cap0 e.1).capNext e.2) = [525, 450, 425, 400, 400] := by
  decide +kernel
/-- R156: the examples of member sets. -/
def set0 (base mask : BitVec 16) : Packet := { pkt 4 1 with mcBase := base, mcMask := mask }
theorem test_member_sets :
    (State.reset.members (set0 0x0000 0x07FF)).length = 2048 ∧ (State.reset.members (set0 0x0500 0x00FF)).length = 256 ∧
    (State.reset.members (set0 0x2000 0x03F0)).length = 64 ∧ (State.reset.members (set0 0x0400 0x03F3)).length = 256 ∧
    (State.reset.members (set0 0x2000 0x0001)) = [] := by decide +kernel
/-- The memory controller of die 1 (R464, R467): its page and identity. -/
theorem test_memory_controller_page : mcPage 1 = 0x020064002000 ∧ State.reset.readReg (mcPage 1) = 0x01210100 := by decide +kernel

/-! ### Ill-formed commands, one for each check of WellFormed -/

theorem test_wf_core : Instr.wf (.tsub 0x07FF#16 1 2) = true := by decide +kernel
theorem test_wf_core_refused : Instr.wf (.tsub 0x0800#16 1 2) = false := by decide +kernel
/-- The last values that the checks take, and the first that they refuse. -/
theorem test_wf_indices :
    ([.dmaCopy 0 3, .gatherWindowClose 255, .resultRingConfigWrite .pair 0 2 0, .mcRead 1 0xBFFFFFFC0, .fwLogClr .pair 10 0, .blkDomainWrite .pair 0x8000 0,
      .collectiveContextAcquire 9, .linkIdleTimeout 11, .resultAgeExpiry 63, .frameEnd 15, .streamFrameEnd 31, .testSliceStart 11, .filterExpiry true 33 0,
      .irqSourceEvent 1 168 true, .icuClaim 1 3, .wdCtrlWrite .pair 13 0, .railMonitorSample 12 0, .heartbeat (msgOf 0 0 0 []) 7,
      .msixHoldEnd 2047, .ethFrameTransmit 3 7 [] true, .clockMonitorWindow 4 true true, .pcieLinkUp 5 16, .cluSpareMapWrite .pair 0x27F0 0] : List Instr).map Instr.wf
      = List.replicate 23 true := by decide +kernel
theorem test_wf_indices_refused :
    ([.dmaCopy 0 4, .gatherWindowClose 256, .resultRingConfigWrite .pair 0 3 0, .mcRead 1 0xC00000000, .mcRead 0 1, .mcWrite 0 0 [] 0, .fwLogClr .pair 11 0,
      .blkDomainWrite .pair 0x8001 0, .collectiveContextAcquire 10, .linkIdleTimeout 12, .resultAgeExpiry 64, .frameEnd 16, .streamFrameEnd 15,
      .streamFrameEnd 32, .testSliceStart 12, .filterExpiry true 34 0, .irqSourceEvent 1 169 true, .irqSourceEvent 0 17 true, .icuClaim 1 4,
      .wdCtrlWrite .pair 14 0, .railMonitorSample 13 0, .heartbeat (msgOf 0 0 0 []) 8, .heartbeat (msgOf 0 0 0 []) 0, .msixHoldEnd 2048,
      .ethFrameTransmit 3 8 [] true, .clockMonitorWindow 5 true true, .pcieLinkUp 6 16, .pcieLinkUp 5 3, .cluSpareMapWrite .pair 0x0000 0,
      .srcVectorPeriod 3, .checkin 2 0 (msgOf 0 0 0 []), .sourceRise 0x00FFF000 0 false, .blkErrClear .pair 0x00FFF000 0] : List Instr).map Instr.wf
      = List.replicate 33 false := by decide +kernel

end Sys2Proof.Tests
end

section
/-! Registers that no row names, and the storage of registers and bytes (R5, R114). -/

namespace Sys2Proof.Machine

/-! ### Addresses that are no register's -/

/-- REGISTER_WRITE is the register's write. -/
@[simp] theorem exec_registerWrite (w : Writer) (a : Nat) (v : W32) (s : State) :
    exec (.registerWrite w a v) s = .next (s.writeReg w a v) := rfl

/-- A page of no kind holds no register. -/
theorem regRow_eq_none_of_pageKind {a : Nat} (h : pageKind a = none) : regRow a = none := by
  simp only [regRow, h]

theorem State.readReg_of_noRow (s : State) {a : Nat} (h : regRow a = none) : s.readReg a = 0 := by
  cases hk : pageKind a <;> simp only [State.readReg, hk, h]

/-- Where no register stands, the pair reaches its memory map and the Groundskeeper its SRAM (R139). -/
theorem State.writeReg_of_noRow (s : State) (w : Writer) {a : Nat} (v : W32) (h : regRow a = none) :
    s.writeReg w a v = if w = .pair then s.ghMemWrite a v
      else if w = .dom domGk ∧ gkSramAt a = true ∧ a % 4 = 0 then s.gkSramWrite a v else s := by
  cases hk : pageKind a <;> simp only [State.writeReg, hk, h]

theorem State.writeReg_pair_of_noRow (s : State) {a : Nat} (v : W32) (h : regRow a = none) :
    s.writeReg .pair a v = s.ghMemWrite a v := by
  rw [s.writeReg_of_noRow .pair v h, if_pos rfl]

theorem State.writeReg_gk_of_noRow (s : State) {a : Nat} (v : W32) (h : regRow a = none) (hsram : gkSramAt a = true)
    (ha : a % 4 = 0) : s.writeReg (.dom domGk) a v = s.gkSramWrite a v := by
  rw [s.writeReg_of_noRow _ v h, if_neg (by simp), if_pos ⟨rfl, hsram, ha⟩]

/-- Every other write there does nothing. -/
theorem State.writeReg_ignored_of_noRow (s : State) {w : Writer} {a : Nat} (v : W32) (h : regRow a = none) (hp : w ≠ .pair)
    (hg : w ≠ .dom domGk ∨ gkSramAt a = false ∨ a % 4 ≠ 0) : s.writeReg w a v = s := by
  have hgk : ¬ (w = .dom domGk ∧ gkSramAt a = true ∧ a % 4 = 0) := by
    rintro ⟨hw, hsram, ha⟩
    simp [hw, hsram, ha] at hg
  rw [s.writeReg_of_noRow w v h, if_neg hp, if_neg hgk]

/-! ### Fields and ranges -/

/-- A bit outside the field written keeps its value. -/
theorem State.bit_setRegF_ne (s : State) (a : Nat) {lo n i : Nat} (x : Nat) (h : s.inForm = true) (hi : i < 32)
    (ho : i < lo ∨ lo + n ≤ i) : bit ((s.setRegF a lo n x).reg a) i = bit (s.reg a) i := by
  rw [State.setRegF, s.reg_setReg a _ h, bit_setFld_ne _ lo n x i hi ho]

/-- A reset of a range reads through the test of the addresses that it keeps. -/
theorem State.reg_resetRegs (s : State) (lo hi : Nat) (keep : Nat → Bool) (b : Nat) (h : s.inForm = true) :
    (s.resetRegs lo hi keep).reg b = if (!(decide (lo ≤ b) && decide (b < hi)) || keep b) = true then s.reg b else regReset b := by
  obtain ⟨-, -, hregs, -⟩ := (State.inForm_iff s).1 h
  exact Tab.get_keep (regReset b) (fun k => !(decide (lo ≤ k) && decide (k < hi)) || keep k) b s.regs 0 (regsWf_rising hregs)

theorem State.reg_resetRegs_reset (s : State) {lo hi b : Nat} {keep : Nat → Bool} (h : s.inForm = true) (hl : lo ≤ b) (hh : b < hi)
    (hk : keep b = false) : (s.resetRegs lo hi keep).reg b = regReset b := by
  rw [s.reg_resetRegs lo hi keep b h]
  simp [hl, hh, hk]

theorem State.reg_resetRegs_kept (s : State) {lo hi b : Nat} {keep : Nat → Bool} (h : s.inForm = true)
    (hb : b < lo ∨ hi ≤ b ∨ keep b = true) : (s.resetRegs lo hi keep).reg b = s.reg b := by
  rw [s.reg_resetRegs lo hi keep b h, if_pos]
  rcases hb with hlo | hhi | hk
  · simp [Nat.not_le.2 hlo]
  · simp [Nat.not_lt.2 hhi]
  · simp [hk]

/-- Settles O55: each part is a law of sparse tables, carried to registers, fields and bytes; where no row names a register the write
falls through to the two memories. -/
theorem registerStorage : Obligations.RegisterStorage := by
  unfold Obligations.RegisterStorage
  intro s w a b lo n x v y p h
  refine ⟨s.reg_setReg a v h, s.reg_setReg_ne a b v h, ?field, fun _ i hi ho => s.bit_setRegF_ne a x h hi ho,
    s.inForm_setReg a v h, s.byte_setByte a y h, s.byte_setByte_ne a b y h, s.inForm_setByte a y h, rfl, rfl,
    s.inForm_resetRegs lo n p h, fun hl hn hp => s.reg_resetRegs_reset h hl hn hp, fun hb => s.reg_resetRegs_kept h hb, ?noRow⟩
  case field =>
    intro hn hx
    rw [s.regF_setRegF a lo n x h hn, Nat.mod_eq_of_lt hx]
  case noRow =>
    intro hr
    refine ⟨s.readReg_of_noRow hr, fun hp hg => ?_⟩
    rw [exec_registerWrite, s.writeReg_ignored_of_noRow v hr hp (.inl hg)]

end Sys2Proof.Machine
end

section
/-! Register writes (R5 to R7, R13, R139, R152, R223, R466 to R476): the access codes, the header, and who reaches which register. -/

namespace Sys2Proof.Machine

/-! ### A write by the access code (R6) -/

/-- The word that a write of v leaves in a register of row r: its writable bits from v, the others as they stand. -/
def State.written (s : State) (r : RegRow) (a : Nat) (v : W32) : W32 := (s.reg a &&& ~~~ r.mask) ||| (v &&& r.mask)

/-- A register given a word that it takes: the one it holds, its reset value, or one in range. -/
def State.putOk (s : State) (k : PageKind) (page off : Nat) (x : W32) : State :=
  if x = s.reg (page + off) ∨ x = regReset (page + off) ∨ valueOk k page off x = true then s.setReg (page + off) x else s

theorem State.putOk_taken {s : State} {k : PageKind} {page off : Nat} {x : W32}
    (h : x = s.reg (page + off) ∨ x = regReset (page + off) ∨ valueOk k page off x = true) :
    s.putOk k page off x = s.setReg (page + off) x := if_pos h

theorem State.putOk_refused {s : State} {k : PageKind} {page off : Nat} {x : W32}
    (h : ¬ (x = s.reg (page + off) ∨ x = regReset (page + off) ∨ valueOk k page off x = true)) :
    s.putOk k page off x = s := if_neg h

/-- A write-once register written. -/
def State.spend (s : State) (a : Nat) : State := { s with once := Tab.set false s.once a true }

section
variable (s : State) {r : RegRow} {k : PageKind} {page off : Nat} {v : W32}

theorem State.plain_readOnly (h : r.acc = .ro ∨ r.acc = .wo) : s.plain r k page off v = s := by
  rcases h with h | h <;> simp only [State.plain, h]

theorem State.plain_rw (h : r.acc = .rw) : s.plain r k page off v = s.putOk k page off (s.written r (page + off) v) := by
  simp only [State.plain, h]; rfl

theorem State.plain_rwl_unlocked (h : r.acc = .rwl) (hl : s.lockedPage k page = false) :
    s.plain r k page off v = s.putOk k page off (s.written r (page + off) v) := by
  simp only [State.plain, h, hl]; rfl

theorem State.plain_rwl_locked (h : r.acc = .rwl) (hl : s.lockedPage k page = true) : s.plain r k page off v = s := by
  simp only [State.plain, h, hl, if_true]

theorem State.plain_rw1c (h : r.acc = .rw1c) :
    s.plain r k page off v = s.setReg (page + off) (s.reg (page + off) &&& ~~~ (v &&& r.mask)) := by
  simp only [State.plain, h]

theorem State.plain_w1s (h : r.acc = .w1s) :
    s.plain r k page off v = s.setReg (page + off) (s.reg (page + off) ||| (v &&& r.mask)) := by
  simp only [State.plain, h]

theorem State.plain_rwo_spent (h : r.acc = .rwo) (ho : Tab.get false s.once (page + off) = true) : s.plain r k page off v = s := by
  simp only [State.plain, h, ho, if_true]

/-- The first write of a write-once register spends it, whether its value is taken or not. -/
theorem State.plain_rwo_first (h : r.acc = .rwo) (ho : Tab.get false s.once (page + off) = false) :
    s.plain r k page off v = (s.putOk k page off (s.written r (page + off) v)).spend (page + off) := by
  simp only [State.plain, h, ho]; rfl

/-- An RWL register that is not locked is as an RW one. -/
theorem State.plain_writable (h : r.acc = .rw ∨ (r.acc = .rwl ∧ s.lockedPage k page = false)) :
    s.plain r k page off v = s.putOk k page off (s.written r (page + off) v) := by
  rcases h with h | ⟨h, hl⟩
  · exact s.plain_rw h
  · exact s.plain_rwl_unlocked h hl

/-- A word out of range changes nothing, whether the page is locked or not. -/
theorem State.plain_outOfRange (h : r.acc = .rw ∨ r.acc = .rwl)
    (hx : s.putOk k page off (s.written r (page + off) v) = s) : s.plain r k page off v = s := by
  rcases h with h | h
  · exact (s.plain_rw h).trans hx
  · cases hl : s.lockedPage k page with
    | true => exact s.plain_rwl_locked h hl
    | false => exact (s.plain_rwl_unlocked h hl).trans hx

end

/-! ### The header (R466 to R473) -/

section
variable (s : State) (w : Writer) (k : PageKind) (page : Nat) (v : W32)

theorem State.headWrite_genSel : s.headWrite w k page 0x008 v = s.genSelWrite page v := rfl
theorem State.headWrite_err : s.headWrite w k page 0x018 v = s.errWrite w page v := rfl
theorem State.headWrite_errMask :
    s.headWrite w k page 0x01C v = if s.guardMay w page then s.setErrMask page v else s := rfl
theorem State.headWrite_inj :
    s.headWrite w k page 0x020 v = if s.guardMay w page then s.injWrite w k page v else s := rfl
theorem State.headWrite_lock : s.headWrite w k page 0x024 v = s.lockWrite page v := rfl

variable {s w k page v}

theorem State.genSelWrite_ignored (h : fld v 0 2 = 0 ∨ Tab.get false s.once (page + 0x010) = true) : s.genSelWrite page v = s :=
  if_pos h

theorem State.genSelWrite_taken (hv : fld v 0 2 ≠ 0) (ho : Tab.get false s.once (page + 0x010) = false) :
    s.genSelWrite page v = s.setReg (page + 0x008) (w32 (fld v 0 2)) :=
  if_neg (by simp [hv, ho])

theorem State.lockWrite_set (h : bit v 0 = true) : s.lockWrite page v = s.setRegF (page + 0x024) 0 1 1 := if_pos h

theorem State.lockWrite_clear (h : bit v 0 = false) : s.lockWrite page v = s := if_neg (by simp [h])

theorem State.injWrite_ignored (h : pageCheckers page ≤ fld v 0 4 ∨ fld v 4 4 = 0 ∨ injCount k (fld v 0 4) < fld v 4 4) :
    s.injWrite w k page v = s := if_pos h

theorem State.injWrite_taken (hc : fld v 0 4 < pageCheckers page) (h1 : 1 ≤ fld v 4 4) (hn : fld v 4 4 ≤ injCount k (fld v 0 4)) :
    s.injWrite w k page v = s.setReg (page + 0x020) (setBit (v &&& 0xFFFF#32) 31 (decide (w = .folly))) :=
  if_neg (by omega)

end

/-! ### The Gatehouse's memory map (R139) -/

theorem State.ghMemWrite_unaligned (s : State) {a : Nat} (v : W32) (h : a % 4 ≠ 0) : s.ghMemWrite a v = s := if_pos h

theorem State.ghMemWrite_tcm (s : State) {a : Nat} (v : W32) (h : a % 4 = 0) (hp : ghPlace a = some .tcm) :
    s.ghMemWrite a v = s.tcmWrite a v := by
  simp only [State.ghMemWrite, h, hp, ne_eq, not_true_eq_false, if_false]

theorem State.ghMemWrite_slots (s : State) {a : Nat} (v : W32) (h : a % 4 = 0) (hp : ghPlace a = some .slots) :
    s.ghMemWrite a v = s.setSlotWord (a % 0x10000000 / 8) (a / 4 % 2) v := by
  simp only [State.ghMemWrite, h, hp, ne_eq, not_true_eq_false, if_false]

/-- The eFlash, the block pages and what is no place take no word of the pair. -/
theorem State.ghMemWrite_elsewhere (s : State) {a : Nat} (v : W32) (ht : ghPlace a ≠ some .tcm) (hs : ghPlace a ≠ some .slots) :
    s.ghMemWrite a v = s := by
  rcases hp : ghPlace a with _ | (_ | _ | _ | _)
  case none | some.flash | some.pages => simp only [State.ghMemWrite, hp, ite_self]
  case some.tcm => exact absurd hp ht
  case some.slots => exact absurd hp hs

/-! ### Writes at a register's address (R5, R7, R13) -/

section
variable (s : State) {w : Writer} {a : Nat} {v : W32} {k : PageKind} {r : RegRow}

/-- Who reaches the register of a row: nobody but by its word's address, nobody in an absent unit's window, and then whom the
page takes. -/
theorem State.writeReg_of_row (hk : pageKind a = some k) (hr : regRow a = some r) :
    s.writeReg w a v =
      if a % 4 ≠ 0 then s
      else if (winUnit a).any (fun u => s.isAbsent u && decide (k ≠ .unit)) then s
      else if k.hasHead && decide (a % 0x1000 < 0x040) then
        (if s.headMay w k (a / 0x1000 * 0x1000) (a % 0x1000) then s.headWrite w k (a / 0x1000 * 0x1000) (a % 0x1000) v else s)
      else if s.pageMay w k (a / 0x1000 * 0x1000) (a % 0x1000) then s.bodyWrite w k (a / 0x1000 * 0x1000) (a % 0x1000) r v
      else s := by
  simp only [State.writeReg, hk, hr]

theorem State.writeReg_unaligned (h : a % 4 ≠ 0) : s.writeReg w a v = s := by
  cases hr : regRow a with
  | none =>
    by_cases hp : w = .pair
    · rw [hp, s.writeReg_pair_of_noRow v hr, s.ghMemWrite_unaligned v h]
    · exact s.writeReg_ignored_of_noRow v hr hp (.inr (.inr h))
  | some r =>
    cases hk : pageKind a with
    | none => simp [regRow_eq_none_of_pageKind hk] at hr
    | some k => rw [s.writeReg_of_row hk hr, if_pos h]

theorem State.writeReg_absent (hk : pageKind a = some k) (hr : regRow a = some r) (hu : k ≠ .unit)
    (hx : ∃ x, winUnit a = some x ∧ s.isAbsent x = true) : s.writeReg w a v = s := by
  obtain ⟨x, hw, ha⟩ := hx
  rw [s.writeReg_of_row hk hr]
  simp [hw, ha, hu]

/-- A word's address in a present window. -/
theorem State.writeReg_present (hk : pageKind a = some k) (hr : regRow a = some r) (h4 : a % 4 = 0)
    (hx : ∀ x, winUnit a = some x → s.isAbsent x = false ∨ k = .unit) :
    s.writeReg w a v =
      if k.hasHead && decide (a % 0x1000 < 0x040) then
        (if s.headMay w k (a / 0x1000 * 0x1000) (a % 0x1000) then s.headWrite w k (a / 0x1000 * 0x1000) (a % 0x1000) v else s)
      else if s.pageMay w k (a / 0x1000 * 0x1000) (a % 0x1000) then s.bodyWrite w k (a / 0x1000 * 0x1000) (a % 0x1000) r v
      else s := by
  have hany : ¬ (winUnit a).any (fun u => s.isAbsent u && decide (k ≠ .unit)) = true := by
    rw [Option.any_eq_true]
    rintro ⟨x, hw, hb⟩
    rcases hx x hw with hp | hp <;> simp [hp] at hb
  rw [s.writeReg_of_row hk hr, if_neg (by simp [h4]), if_neg hany]

theorem State.writeReg_head (hk : pageKind a = some k) (hr : regRow a = some r) (h4 : a % 4 = 0)
    (hx : ∀ x, winUnit a = some x → s.isAbsent x = false ∨ k = .unit) (ho : a % 0x1000 < 0x040) (hh : k.hasHead = true) :
    s.writeReg w a v =
      if s.headMay w k (a / 0x1000 * 0x1000) (a % 0x1000) then s.headWrite w k (a / 0x1000 * 0x1000) (a % 0x1000) v else s := by
  rw [s.writeReg_present hk hr h4 hx, if_pos (by simp [hh, ho])]

theorem State.writeReg_body (hk : pageKind a = some k) (hr : regRow a = some r) (h4 : a % 4 = 0)
    (hx : ∀ x, winUnit a = some x → s.isAbsent x = false ∨ k = .unit) (ho : 0x040 ≤ a % 0x1000 ∨ k.hasHead = false) :
    s.writeReg w a v =
      if s.pageMay w k (a / 0x1000 * 0x1000) (a % 0x1000) then s.bodyWrite w k (a / 0x1000 * 0x1000) (a % 0x1000) r v else s := by
  have hb : ¬ (k.hasHead && decide (a % 0x1000 < 0x040)) = true := by
    rcases ho with ho | hh
    · simp [Nat.not_lt.2 ho]
    · simp [hh]
  rw [s.writeReg_present hk hr h4 hx, if_neg hb]

end

/-! ### UNIT_CLASS and UNIT_CTX_SR (R152, R476) -/

/-- A core's or group's class set to that of the value written. -/
def State.putClass (v : W32) (s : State) (x : UnitId) : State := s.setReg (uPage x 0 + 0x044) (w32 (fld v 0 2))

/-- Who sets the class of a unit beside the control domains: a core's own sequencer. -/
def ownSequencer (w : Writer) (u : UnitId) : Prop := uLevel u = 0 ∧ ∃ p, w = .seq p ∧ pavIx u = p

section
variable {s : State} {w : Writer} {u : UnitId} {v : W32}

theorem unitClass_reserved (h : fld v 0 2 = 3) : unitClass w u v s = s := by
  simp [unitClass, h]

theorem unitClass_taken (hw : s.ctlDom w = true ∨ ownSequencer w u) (hv : fld v 0 2 ≠ 3) :
    unitClass w u v s =
      ((coresOf u).filter (fun c => decide (c ≠ u) && !s.isAbsent c)).foldl (State.putClass v) (s.putClass v u) := by
  rcases hw with hd | ⟨hu, p, rfl, hp⟩
  · simp only [unitClass, hd, hv, Bool.true_or, Bool.not_true, Bool.false_or, decide_false, Bool.false_eq_true, if_false]
    rfl
  · simp only [unitClass, hu, hp, hv, decide_true, Bool.and_true, Bool.or_true, Bool.not_true, Bool.false_or, decide_false,
      Bool.false_eq_true, if_false]
    rfl

/-- Any other writer's class is not taken. -/
theorem unitClass_refused (hd : s.ctlDom w = false) (ho : ¬ ownSequencer w u) : unitClass w u v s = s := by
  cases w with
  | seq p =>
    have hne : uLevel u = 0 → pavIx u ≠ p := fun hu hp => ho ⟨hu, p, rfl, hp⟩
    by_cases hu : uLevel u = 0
    · simp [unitClass, hd, hne hu]
    · simp [unitClass, hd, hu]
  | dom | pair | owner | tsm | rom | folly => simp [unitClass, hd]

end

theorem ctxSrLoad_closed {s : State} {u : UnitId} (v : W32) (h : s.ctxSrOpen u = false) : ctxSrLoad u v s = s := by
  simp [ctxSrLoad, h]

/-! ### The commands of the header's registers and of the unit control page -/

/-- The four commands of a header's registers are the writes at their offsets. -/
theorem exec_headCommand {page o : Nat} (w : Writer) {v : W32} {h : Instr} (s : State) (hp : headPage page = true)
    (hc : (o = 0x008 ∧ h = Instr.blkGenSelWrite w page v) ∨ (o = 0x024 ∧ h = .blkLockWrite w page v) ∨
      (o = 0x020 ∧ h = .blkInjWrite w page v) ∨ (o = 0x018 ∧ h = .blkErrClear w page v)) :
    exec h s = .next (s.writeReg w (page + o) v) := by
  rcases hc with ⟨rfl, rfl⟩ | ⟨rfl, rfl⟩ | ⟨rfl, rfl⟩ | ⟨rfl, rfl⟩ <;> exact onUnit_next hp

theorem exec_unitClassWrite {u : UnitId} (w : Writer) (v : W32) (s : State) (hu : uValid u = true) :
    exec (.unitClassWrite w u v) s = .next (unitClass w u v s) := onUnit_next hu

theorem exec_unitCtxSrWrite {u : UnitId} (w : Writer) (v : W32) (s : State) (hu : coreOk u = true) :
    exec (.unitCtxSrWrite w u v) s = .next (ctxSrLoad u v s) := onUnit_next hu

/-- Settles O50: the access codes, the header's registers, and then by what stands at the address: no register, a misaligned
address, an absent window, a header, a body; the commands of single registers are these writes. -/
theorem registerWrites : Obligations.RegisterWrites := by
  unfold Obligations.RegisterWrites
  refine ⟨?access, ?header, ?address⟩
  case access =>
    intro s r k page off v x ok
    refine ⟨s.plain_readOnly, fun h hok => (s.plain_writable h).trans (State.putOk_taken hok),
      fun h hok => s.plain_outOfRange h (State.putOk_refused hok), s.plain_rwl_locked, s.plain_rw1c, s.plain_w1s,
      s.plain_rwo_spent, fun h ho hok => ?_, fun h ho hok => ?_⟩
    · exact (s.plain_rwo_first h ho).trans (congrArg (·.spend (page + off)) (State.putOk_taken hok))
    · exact (s.plain_rwo_first h ho).trans (congrArg (·.spend (page + off)) (State.putOk_refused hok))
  case header =>
    intro s w k page v
    rw [State.headWrite_genSel, State.headWrite_lock, State.headWrite_errMask, State.headWrite_inj]
    refine ⟨State.genSelWrite_ignored, State.genSelWrite_taken, State.lockWrite_set, State.lockWrite_clear, ?closed, ?guarded,
      s.headWrite_err w k page v⟩
    case closed =>
      intro hg
      simp only [hg, Bool.false_eq_true, if_false, and_self]
    case guarded =>
      intro hg
      rw [if_pos hg, if_pos hg]
      exact ⟨rfl, State.injWrite_ignored, State.injWrite_taken⟩
  case address =>
    intro s w a page v u k r
    simp only [exec_registerWrite, Host.Outcome.next.injEq]
    refine ⟨?noRow, fun h4 => ⟨s.ghMemWrite_tcm v h4, s.ghMemWrite_slots v h4, s.ghMemWrite_elsewhere v⟩, s.writeReg_unaligned,
      s.writeReg_absent, ?row, fun hp o h hc => ?_, fun hp => ⟨onUnit_fault hp, onUnit_fault hp, onUnit_fault hp, onUnit_fault hp⟩,
      ?unitClass, ?unitCtxSr, onUnit_fault, onUnit_fault⟩
    case noRow =>
      intro h
      have hr : regRow a = none := h.elim id regRow_eq_none_of_pageKind
      refine ⟨?_, ?_, s.writeReg_ignored_of_noRow v hr⟩
      · rintro rfl
        exact s.writeReg_pair_of_noRow v hr
      · rintro rfl
        exact s.writeReg_gk_of_noRow v hr
    case row =>
      intro hk hr h4 hx
      refine ⟨fun ho hh => ?_, fun ho => ?_⟩
      · rw [s.writeReg_head hk hr h4 hx ho hh]
        exact ⟨fun hm => if_pos hm, fun hm => if_neg (by simp [hm])⟩
      · rw [s.writeReg_body hk hr h4 hx ho]
        exact ⟨fun hm => if_pos hm, fun hm => if_neg (by simp [hm])⟩
    case unitClass =>
      intro hu
      rw [exec_unitClassWrite w v s hu]
      exact ⟨fun hw hv => congrArg _ (unitClass_taken hw hv), fun hv => congrArg _ (unitClass_reserved hv),
        fun hd ho => congrArg _ (unitClass_refused hd ho)⟩
    case unitCtxSr =>
      intro hu
      rw [exec_unitCtxSrWrite w v s hu]
      exact ⟨fun ho => congrArg _ (if_pos ho), fun ho => congrArg _ (ctxSrLoad_closed v ho)⟩
    · have he := exec_headCommand w s hp hc
      exact ⟨he, he⟩

end Sys2Proof.Machine
end

section
/-! Commands that name what the part has (R12): a well-formed one completes and any other faults, but for SOURCE_RISE of the lockstep
pair. -/

namespace Sys2Proof.Machine

/-- SOURCE_RISE under the name that the model gives a difference between the lockstep cores (R171, R225). -/
def lockstepRise (injected : Bool) : Instr := .sourceRise lockstepSrc.1 lockstepSrc.2 injected

/-- The name is no BLK_ERR bit, and so none that `Instr.wf` takes. -/
theorem lockstepRise_not_wf (injected : Bool) : (lockstepRise injected).wf = false := by
  have hname : srcOk lockstepSrc.1 lockstepSrc.2 = false := by decide +kernel
  exact hname

theorem exec_lockstepRise (injected : Bool) (s : State) :
    exec (lockstepRise injected) s = .next (s.fcEvent 63 none false false none) := by
  have hname : (srcOk lockstepSrc.1 lockstepSrc.2 || decide ((lockstepSrc.1, lockstepSrc.2) = lockstepSrc)) = true := by simp
  exact (onUnit_next hname).trans (congrArg _ (if_pos rfl))

/-- Each arm of `exec` guards its effect by the check that `Instr.wf` makes of its operands. -/
theorem exec_eq_onUnit {c : Instr} (s : State) (h : ∀ injected, c ≠ lockstepRise injected) : ∃ t, exec c s = onUnit c.wf t := by
  cases c with
  | sourceRise page b injected =>
    have hname : (page, b) ≠ lockstepSrc := fun e => h injected (by rw [lockstepRise, ← e])
    have hguard : (srcOk page b || decide ((page, b) = lockstepSrc)) = srcOk page b := by simp [hname]
    exact ⟨sourceRise page b injected s, congrArg (onUnit · _) hguard⟩
  | _ => exact ⟨_, rfl⟩

theorem exec_completes_of_wf {c : Instr} (s : State) (h : c.wf = true) : Completes (exec c s) := by
  obtain ⟨t, ht⟩ := exec_eq_onUnit s (c := c) (fun injected e => by simp [e, lockstepRise_not_wf] at h)
  exact ⟨t, ht.trans (onUnit_next h)⟩

theorem exec_fault_of_not_wf {c : Instr} (s : State) (hc : ∀ injected, c ≠ lockstepRise injected) (h : c.wf = false) :
    exec c s = .fault .noUnit := by
  obtain ⟨t, ht⟩ := exec_eq_onUnit s hc
  exact ht.trans (onUnit_fault h)

theorem step_completes_of_queueWf {s : State} (h : s.queueWf) : Completes (step s) := by
  rcases hp : s.pending with _ | ⟨c, rest⟩
  · exact ⟨s.idle, by rw [step, hp]⟩
  · rw [step, hp]
    exact exec_completes_of_wf _ (h c (by simp [hp]))

/-- Refutes O57: SOURCE_RISE of the lockstep pair is not well-formed and yet completes after reset. The statement's other two parts hold
(`exec_completes_of_wf`, `step_completes_of_queueWf`), and so does the refuted one of every other command (`exec_fault_of_not_wf`). -/
theorem not_wellFormedCommandsComplete : ¬ Obligations.WellFormedCommandsComplete := by
  unfold Obligations.WellFormedCommandsComplete
  rintro ⟨-, hfault, -⟩
  have hstop := hfault (lockstepRise false) State.reset (lockstepRise_not_wf false)
  rw [exec_lockstepRise] at hstop
  cases hstop

end Sys2Proof.Machine
end

section
/-! Interrupt controllers (R262 to R269): what is an event of a source, and what a claim, a completion and the end of a hold change. -/

namespace Sys2Proof.Machine

/-! ### Events (R263) -/

/-- Whether a line that goes from one level to another makes an event of its source, by the source's SENSE. -/
def IsIrqEvent (sense : Nat) (old now : Bool) : Prop :=
  old ≠ now ∧
    (sense = 0 ∧ now = true ∨ sense = 1 ∧ now = false ∨ sense = 2 ∧ now = true ∨ sense = 3 ∧ now = false ∨ sense = 4)

section
variable {s : State} {i n : Nat} {level : Bool}

/-- The model's test of an event, as the register table puts it. -/
theorem irqEvent_iff (sense : Nat) (old now : Bool) :
    (decide (old ≠ now) &&
      (icuActive sense now || (decide (sense = 2) && now) || (decide (sense = 3) && !now) || decide (sense = 4))) = true ↔
      IsIrqEvent sense old now := by
  simp only [IsIrqEvent, icuActive, Bool.and_eq_true, Bool.or_eq_true, decide_eq_true_eq, Bool.not_eq_true', or_assoc]

theorem State.icuLineTo_noEvent (h : ¬ IsIrqEvent (s.regF (icuCfgA i n) 0 3) (s.icuBit i n icuLine) level) :
    s.icuLineTo i n level = s.icuSet i n icuLine level :=
  if_neg (mt (irqEvent_iff _ _ _).1 h)

theorem State.icuLineTo_event (h : IsIrqEvent (s.regF (icuCfgA i n) 0 3) (s.icuBit i n icuLine) level) :
    s.icuLineTo i n level = (s.icuSet i n icuLine level).icuEvent i n :=
  if_pos ((irqEvent_iff _ _ _).2 h)

/-- An event of a source that is pending or in service is lost. -/
theorem State.icuEvent_lost (h : s.icuBit i n icuPend = true ∨ s.icuBit i n icuInsv = true) :
    s.icuEvent i n = s.icuSet i n icuOver true :=
  if_pos (by simpa using h)

theorem State.icuEvent_idle (hp : s.icuBit i n icuPend = false) (hi : s.icuBit i n icuInsv = false) :
    s.icuEvent i n = (s.icuSet i n icuPend true).icuWake i n :=
  if_neg (by simp [hp, hi])

end

/-! ### Claims (R265, R268) -/

/-- The source claimed is in service at the target, with the priority that it has now. -/
def State.icuTake (s : State) (i t n : Nat) : State :=
  let u := ((s.icuSet i n icuPend false).icuSet i n icuInsv true).setRegF (icuStatA i n) 4 2 t
  { u with icuSvc := Tab.set 0 u.icuSvc (icuKey i n) (fld (s.reg (icuCfgA i n)) 4 4) }

/-- A source held back for a number of microseconds. -/
def State.icuHoldFor (s : State) (i n us : Nat) : State :=
  { s.icuSet i n icuHeld true with icuHold := Tab.set 0 s.icuHold (icuKey i n) (s.frc + 500 * us) }

section
variable {s : State} {i t : Nat}

theorem icuClaim_none (h : s.icuBest i t = 0) : icuClaim i t s = s.setReg (icuPage i + 0x064 + 0x10 * t) 0 := if_pos h

theorem icuClaim_some (h : s.icuBest i t ≠ 0) :
    icuClaim i t s =
      (if fld (s.reg (icuCfgA i (s.icuBest i t))) 16 16 = 0 then s.icuTake i t (s.icuBest i t)
        else (s.icuTake i t (s.icuBest i t)).icuHoldFor i (s.icuBest i t) (fld (s.reg (icuCfgA i (s.icuBest i t))) 16 16)).setReg
        (icuPage i + 0x064 + 0x10 * t) (w32 (s.icuBest i t)) :=
  if_neg h

end

/-! ### Completions (R266) -/

/-- Service of a source has ended. -/
def State.icuDone (s : State) (i n : Nat) : State :=
  let u := (s.icuSet i n icuInsv false).setRegF (icuStatA i n) 4 2 0
  { u with icuSvc := Tab.set 0 u.icuSvc (icuKey i n) 0 }

section
variable {s : State} {w : Writer} {i t n : Nat} {v : W32}

/-- A level source whose line is no longer active stays idle. -/
theorem State.icuEnd_inactive (h : icuActive ((s.icuDone i n).regF (icuCfgA i n) 0 3) ((s.icuDone i n).icuBit i n icuLine) = false) :
    s.icuEnd i n = s.icuDone i n :=
  if_neg (ne_true_of_eq_false h)

theorem State.icuEnd_active (h : icuActive ((s.icuDone i n).regF (icuCfgA i n) 0 3) ((s.icuDone i n).icuBit i n icuLine) = true) :
    s.icuEnd i n = ((s.icuDone i n).icuSet i n icuPend true).icuWake i n :=
  if_pos h

theorem icuComplete_refused (h : s.icuMay w i = false) : icuComplete w i t v s = s := if_pos (by simp [h])

theorem icuComplete_serving (h : s.icuMay w i = true) (hn : (s.icuServing i t).contains (fld v 0 9) = true) :
    icuComplete w i t v s = s.icuEnd i (fld v 0 9) :=
  (if_neg (by simp [h])).trans (if_pos hn)

theorem icuComplete_other (h : s.icuMay w i = true) (hn : (s.icuServing i t).contains (fld v 0 9) = false) :
    icuComplete w i t v s = s.setErr (icuPage i) 0 :=
  (if_neg (by simp [h])).trans (if_neg (ne_true_of_eq_false hn))

/-! ### Moderation and ICU_GCTRL (R268, R269) -/

theorem icuGctrl_taken (h : s.icuMay w i = true) : icuGctrl w i v s = s.setReg (icuPage i + 0x044) (v &&& 1) := if_pos h

theorem icuGctrl_refused (h : s.icuMay w i = false) : icuGctrl w i v s = s := if_neg (by simp [h])

theorem moderationEnd_due (h : s.icuBit i n icuHeld = true ∧ Tab.get 0 s.icuHold (icuKey i n) ≤ s.frc) :
    moderationEnd i n s = { s.icuSet i n icuHeld false with icuHold := Tab.set 0 s.icuHold (icuKey i n) 0 } :=
  if_pos (by simpa using h)

theorem moderationEnd_early (h : ¬ (s.icuBit i n icuHeld = true ∧ Tab.get 0 s.icuHold (icuKey i n) ≤ s.frc)) :
    moderationEnd i n s = s :=
  if_neg (by simpa using h)

end

/-! ### The commands -/

section
variable {i n t : Nat}

theorem exec_irqSourceEvent (level : Bool) (s : State) (h : icuSrcOk i n = true) :
    exec (.irqSourceEvent i n level) s = .next (s.icuLineTo i n (level || s.irqPin i n)) := onUnit_next h

theorem exec_icuClaim (s : State) (h : icuTgtOk i t = true) : exec (.icuClaim i t) s = .next (icuClaim i t s) := onUnit_next h

theorem exec_icuComplete (w : Writer) (v : W32) (s : State) (h : icuTgtOk i t = true) :
    exec (.icuComplete w i t v) s = .next (icuComplete w i t v s) := onUnit_next h

theorem exec_icuGctrlWrite (w : Writer) (v : W32) (s : State) (h : i < 10) :
    exec (.icuGctrlWrite w i v) s = .next (icuGctrl w i v s) := onUnit_next (decide_eq_true h)

theorem exec_irqModerationEnd (s : State) (h : icuSrcOk i n = true) :
    exec (.irqModerationEnd i n) s = .next (moderationEnd i n s) := onUnit_next h

end

/-- Settles O32: each command's equation, and then its branches: a line with and without an event, a claim with none, an unmoderated and
a moderated source, a completion by its writer and its source, and a hold that is over or not. -/
theorem interruptControllers : Obligations.InterruptControllers := by
  unfold Obligations.InterruptControllers
  intro s w i n t level v hsrc htgt hi
  simp only [exec_irqSourceEvent _ _ hsrc, exec_icuClaim _ htgt, exec_icuComplete _ _ _ htgt, exec_icuGctrlWrite _ _ _ hi,
    exec_irqModerationEnd _ hsrc, Host.Outcome.next.injEq]
  refine ⟨⟨State.icuLineTo_noEvent, fun he hb => (State.icuLineTo_event he).trans (State.icuEvent_lost hb),
      fun he hp hq => (State.icuLineTo_event he).trans (State.icuEvent_idle hp hq)⟩, icuClaim_none, ?claim,
    fun hw => ⟨fun hn => ?complete, icuComplete_other hw, icuGctrl_taken hw⟩,
    fun hw => ⟨icuComplete_refused hw, icuGctrl_refused hw⟩, moderationEnd_due, moderationEnd_early⟩
  case claim =>
    rintro k rfl hk
    rw [icuClaim_some hk]
    exact ⟨fun hm => by rw [if_pos hm]; rfl, fun hm => by rw [if_neg hm]; rfl⟩
  case complete =>
    rw [icuComplete_serving hw hn]
    exact ⟨State.icuEnd_inactive, State.icuEnd_active⟩

end Sys2Proof.Machine
end

section
/-! Writes of the core, signature and cluster pages (R13, R37, R77, R78, R82 to R86, R157, R369, R375). -/

namespace Sys2Proof.Machine

/-! ### The core page (R82, R83) -/

section
variable {s : State} {u : UnitId} {v : W32}

theorem srSeedWrite_absent (h : s.isAbsent u = true) : srSeedWrite u v s = s := if_pos h

/-- The write of the fourth seed word loads the generator from all four. -/
theorem srSeedWrite_present (h : s.isAbsent u = false) :
    srSeedWrite u v s =
      let t := s.setReg (uPage u 1 + 0x054) v
      t.setCore u ((t.core u).seed (seedOf (t.reg (uPage u 1 + 0x048)) (t.reg (uPage u 1 + 0x04C)) (t.reg (uPage u 1 + 0x050)) v)) :=
  if_neg (ne_true_of_eq_false h)

theorem State.ustate_present (h : s.isAbsent u = false) : s.ustate u = s.regF (uPage u 0 + 0x014) 0 3 :=
  if_neg (ne_true_of_eq_false h)

theorem coreBootWrite_absent (h : s.isAbsent u = true) : coreBootWrite u v s = s := if_pos h

theorem coreBootWrite_started (h : s.isAbsent u = false) (hb : bit v 0 = true) (hi : s.ustate u = stIdle) :
    coreBootWrite u v s =
      let t := s.setReg (uPage u 1 + 0x060) (v &&& 0x3FFFD#32)
      (t.setCore u { t.core u with run := true, wfi := false, pc := v &&& 0x3FFFC#32 }).setUstate u stRunning :=
  (if_neg (ne_true_of_eq_false h)).trans (if_pos (by simp [hb, hi]))

/-- Without START, or on a core that is not IDLE, the address alone is held. -/
theorem coreBootWrite_addressOnly (h : s.isAbsent u = false) (hb : bit v 0 = false ∨ s.ustate u ≠ stIdle) :
    coreBootWrite u v s = s.setReg (uPage u 1 + 0x060) (v &&& 0x3FFFD#32) :=
  (if_neg (ne_true_of_eq_false h)).trans (if_neg (by rcases hb with hb | hb <;> simp [hb]))

/-- An absent core's REQ takes nothing, and neither does a word without bit 0. -/
theorem preemptWrite_ignored (h : s.isAbsent u = true ∨ bit v 0 = false) : preemptWrite u v s = s := if_pos (by simpa using h)

theorem preemptWrite_first (h : s.isAbsent u = false) (hb : bit v 0 = true) (hr : Tab.get none s.plan.req u.toNat = none) :
    preemptWrite u v s =
      let t := s.setReg (uPage u 1 + 0x07C) 1
      { t with plan := { t.plan with req := Tab.set none t.plan.req u.toNat (some (s.frc, false)) } } := by
  simp only [preemptWrite, h, hb, State.setReg_plan, hr, Bool.not_true, Bool.or_self, Bool.false_eq_true, if_false]

/-- REQ set again keeps the tick at which it was set first (R109). -/
theorem preemptWrite_again (h : s.isAbsent u = false) (hb : bit v 0 = true) (hr : Tab.get none s.plan.req u.toNat ≠ none) :
    preemptWrite u v s = s.setReg (uPage u 1 + 0x07C) 1 := by
  obtain ⟨x, hx⟩ := Option.ne_none_iff_exists'.1 hr
  simp only [preemptWrite, h, hb, State.setReg_plan, hx, Bool.not_true, Bool.or_self, Bool.false_eq_true, if_false]
  rfl

theorem preemptClr_ignored (h : s.isAbsent u = true ∨ bit v 0 = false) : preemptClr u v s = s := if_pos (by simpa using h)

theorem preemptClr_taken (h : s.isAbsent u = false) (hb : bit v 0 = true) :
    preemptClr u v s =
      let t := s.setReg (uPage u 1 + 0x07C) 0
      { t with plan := { t.plan with req := Tab.set none t.plan.req u.toNat none } } :=
  if_neg (by simp [h, hb])

end

/-! ### The signature page (R77, R84) -/

section
variable {s : State} {u : UnitId} {n : Nat} {v : W32}

theorem sigContextWrite_ignored (r : Nat) (h : s.isAbsent u = true ∨ (s.core u).ctxBusy n = true) : sigContextWrite u n r v s = s :=
  if_pos (by simpa using h)

theorem sigContextWrite_taken (r : Nat) (h : s.isAbsent u = false) (hb : (s.core u).ctxBusy n = false) :
    sigContextWrite u n r v s = s.setReg (ctxAt u n r) (v &&& ctxMask r) :=
  if_neg (by simp [h, hb])

theorem any_ctxOpen_iff : [0, 1, 2, 3].any (s.ctxOpen u) = true ↔ ∃ k < 4, s.ctxOpen u k = true := by
  rw [show [0, 1, 2, 3] = List.range 4 from rfl, List.any_eq_true]
  simp only [List.mem_range]

theorem sigSeqWrite_ignored (copy : Bool) (h : s.isAbsent u = true ∨ ∃ k < 4, s.ctxOpen u k = true) :
    sigSeqWrite u copy v s = s :=
  if_pos (by rwa [Bool.or_eq_true, any_ctxOpen_iff])

theorem sigSeqWrite_taken (copy : Bool) (h : s.isAbsent u = false) (hc : ∀ k < 4, s.ctxOpen u k = false) :
    sigSeqWrite u copy v s = if copy then s.setReg (uPage u 2 + 0x044) (v &&& 1) else s.setReg (uPage u 2 + 0x040) v := by
  have hnone : ¬ (s.isAbsent u || [0, 1, 2, 3].any (s.ctxOpen u)) = true := by
    rw [Bool.or_eq_true, any_ctxOpen_iff, h]
    rintro (habs | ⟨k, hk, ho⟩)
    · cases habs
    · simp [hc k hk] at ho
  exact if_neg hnone

end

/-! ### CLU_SPARE_MAP (R78, R86, R157) -/

/-- Core LOGICAL of a cluster. -/
def spareCore (clu : UnitId) (v : W32) : UnitId := mkUid 0 (uDie clu) (uPav clu) (uClu clu) (fld v 0 4)

/-- A map's LOGICAL set to that of the value written. -/
def spareNamed (m v : W32) : W32 := setFld m 0 4 (fld v 0 4)

section
variable {s : State} {clu : UnitId} {v : W32}

/-- A map that is made, or a spare that has failed, is final. -/
theorem spareMapWrite_final (h : bit (s.reg (spareMapAt clu)) 8 = true ∨ bit (s.reg (spareMapAt clu)) 16 = true) :
    spareMapWrite clu v s = s.setErr (uPage clu 1) 0 :=
  if_pos (by simpa using h)

section
variable (h8 : bit (s.reg (spareMapAt clu)) 8 = false) (h16 : bit (s.reg (spareMapAt clu)) 16 = false)
include h8 h16

theorem spareMapWrite_failed (hv : bit v 16 = true)
    (hc : s.held (spareCore clu v) = true ∨ fld (s.reg (spareMapAt clu)) 0 4 = fld v 0 4) :
    spareMapWrite clu v s = s.setReg (spareMapAt clu) (setBit (spareNamed (s.reg (spareMapAt clu)) v) 16 true) :=
  (if_neg (by simp [h8, h16])).trans ((if_pos hv).trans (if_pos (by simpa [spareCore] using hc)))

/-- The spare fails, and a LOGICAL that cannot be taken is reported. -/
theorem spareMapWrite_failedAlone (hv : bit v 16 = true) (hc : s.held (spareCore clu v) = false)
    (hn : fld (s.reg (spareMapAt clu)) 0 4 ≠ fld v 0 4) :
    spareMapWrite clu v s = (s.setReg (spareMapAt clu) (setBit (s.reg (spareMapAt clu)) 16 true)).setErr (uPage clu 1) 0 :=
  (if_neg (by simp [h8, h16])).trans ((if_pos hv).trans (if_neg (by simpa [spareCore, hn] using hc)))

theorem spareMapWrite_notHeld (hv : bit v 16 = false) (hc : s.held (spareCore clu v) = false) :
    spareMapWrite clu v s = s.setErr (uPage clu 1) 0 :=
  (if_neg (by simp [h8, h16])).trans ((if_neg (ne_true_of_eq_false hv)).trans (if_pos (by simpa [spareCore] using hc)))

theorem spareMapWrite_mapped (hv : bit v 16 = false) (hc : s.held (spareCore clu v) = true) (hm : bit v 8 = true) :
    spareMapWrite clu v s =
      (((s.spareFresh clu).setReg (spareMapAt clu) (setBit (spareNamed (s.reg (spareMapAt clu)) v) 8 true)).setReg
        (uPage (spareCore clu v) 1 + 0x05C) (Tab.get (0, 0) s.spareFw (cluIx clu)).1).setReg
        (uPage (spareCore clu v) 1 + 0x024) (Tab.get (0, 0) s.spareFw (cluIx clu)).2 :=
  (if_neg (by simp [h8, h16])).trans ((if_neg (ne_true_of_eq_false hv)).trans
    ((if_neg (by simpa [spareCore] using hc)).trans (if_pos hm)))

theorem spareMapWrite_named (hv : bit v 16 = false) (hc : s.held (spareCore clu v) = true) (hm : bit v 8 = false) :
    spareMapWrite clu v s = s.setReg (spareMapAt clu) (spareNamed (s.reg (spareMapAt clu)) v) :=
  (if_neg (by simp [h8, h16])).trans ((if_neg (ne_true_of_eq_false hv)).trans
    ((if_neg (by simpa [spareCore] using hc)).trans (if_neg (ne_true_of_eq_false hm))))

end
end

/-! ### The Groundskeeper's record of a map (R369, R370) -/

/-- The outcome of a write that has made a cluster's page that of `t`: the running Groundskeeper records a map of its own that has
changed, as a retirement where the spare is mapped. -/
def RecordedBy (s t : State) (w : Writer) (clu : UnitId) (o : Out) : Prop :=
  let m := t.reg (spareMapAt clu)
  let r := recOfMap m (Tab.get 0 t.gk.retire (cluIx clu))
  (s.writerDom w ≠ domGk ∨ s.gk.up = false ∨ m = s.reg (spareMapAt clu) → o = .next t) ∧
  (s.writerDom w = domGk → s.gk.up = true → m ≠ s.reg (spareMapAt clu) →
    (bit m 8 = true → o = .next (t.retired (spareCore clu m) r false)) ∧
    (bit m 8 = false → o = .next (t.setGk { t.gk with retire := Tab.set 0 t.gk.retire (cluIx clu) r })))

section
variable {s : State} {w : Writer} {clu : UnitId} {v : W32}

theorem spareMapBy_unrecorded
    (h : s.writerDom w ≠ domGk ∨ s.gk.up = false ∨ (spareMapWrite clu v s).reg (spareMapAt clu) = s.reg (spareMapAt clu)) :
    spareMapBy w clu v s = spareMapWrite clu v s := by
  refine if_neg ?_
  rintro ⟨hw, hm, hup⟩
  simp [hw, hm, hup] at h

theorem spareMapBy_recorded (hw : s.writerDom w = domGk) (hup : s.gk.up = true)
    (hm : (spareMapWrite clu v s).reg (spareMapAt clu) ≠ s.reg (spareMapAt clu)) :
    spareMapBy w clu v s =
      let t := spareMapWrite clu v s
      let m := t.reg (spareMapAt clu)
      let r := recOfMap m (Tab.get 0 t.gk.retire (cluIx clu))
      if bit m 8 then t.retired (spareCore clu m) r false else t.setGk { t.gk with retire := Tab.set 0 t.gk.retire (cluIx clu) r } :=
  if_pos ⟨hw, hm, hup⟩

end

theorem exec_cluSpareMapWrite {w : Writer} {clu : UnitId} {v : W32} (s : State) (hu : uValid clu = true) (hl : uLevel clu = 1) :
    exec (.cluSpareMapWrite w clu v) s = .next (spareMapBy w clu v s) := onUnit_next (by simp [hu, hl])

theorem exec_cluSpareMapWrite_recordedBy {s t : State} {w : Writer} {clu : UnitId} {v : W32} (hu : uValid clu = true)
    (hl : uLevel clu = 1) (ht : spareMapWrite clu v s = t) : RecordedBy s t w clu (exec (.cluSpareMapWrite w clu v) s) := by
  subst ht
  rw [exec_cluSpareMapWrite s hu hl]
  refine ⟨fun h => congrArg _ (spareMapBy_unrecorded h), fun hw hup hm => ?_⟩
  rw [spareMapBy_recorded hw hup hm]
  exact ⟨fun h8 => congrArg _ (if_pos h8), fun h8 => congrArg _ (if_neg (ne_true_of_eq_false h8))⟩

/-! ### The commands -/

section
variable {u : UnitId}

theorem exec_coreSrSeedWrite (w : Writer) (v : W32) (s : State) (h : coreOk u = true) :
    exec (.coreSrSeedWrite w u v) s = .next (srSeedWrite u v s) := onUnit_next h

theorem exec_coreBootWrite (w : Writer) (v : W32) (s : State) (h : coreOk u = true) :
    exec (.coreBootWrite w u v) s = .next (coreBootWrite u v s).gkAdvance := onUnit_next h

theorem exec_corePreemptWrite (w : Writer) (v : W32) (s : State) (h : coreOk u = true) :
    exec (.corePreemptWrite w u v) s = .next (preemptWrite u v s) := onUnit_next h

theorem exec_corePreemptClr (w : Writer) (v : W32) (s : State) (h : coreOk u = true) :
    exec (.corePreemptClr w u v) s = .next (preemptClr u v s) := onUnit_next h

theorem exec_sigContextWrite {n r : Nat} (w : Writer) (v : W32) (s : State) (h : coreOk u = true) (hn : n < 4) (hr : r < 8) :
    exec (.sigContextWrite w u n r v) s = .next (sigContextWrite u n r v s) := onUnit_next (by simp [h, hn, hr])

theorem exec_sigSeqWrite (w : Writer) (copy : Bool) (v : W32) (s : State) (h : coreOk u = true) :
    exec (.sigSeqWrite w u copy v) s = .next (sigSeqWrite u copy v s) := onUnit_next h

end

/-- Settles O10: each write's equation on an absent and on a present core, and CLU_SPARE_MAP's by what the map holds, what is written and
whether the core named is held. -/
theorem coreRegisterWrites : Obligations.CoreRegisterWrites := by
  unfold Obligations.CoreRegisterWrites
  intro s w u clu v n r hu hn hr p
  rw [exec_coreSrSeedWrite w v s hu, exec_coreBootWrite w v s hu, exec_corePreemptWrite w v s hu, exec_corePreemptClr w v s hu,
    exec_sigContextWrite w v s hu hn hr]
  have hseq := fun copy => exec_sigSeqWrite w copy v s hu
  refine ⟨fun ha => ?absent, fun hp => ?present, fun hc hl => ?spare⟩
  case absent =>
    rw [srSeedWrite_absent ha, coreBootWrite_absent ha, preemptWrite_ignored (.inl ha), preemptClr_ignored (.inl ha),
      sigContextWrite_ignored r (.inl ha)]
    exact ⟨rfl, rfl, rfl, rfl, rfl, fun copy => (hseq copy).trans (congrArg _ (sigSeqWrite_ignored copy (.inl ha)))⟩
  case present =>
    refine ⟨congrArg _ (srSeedWrite_present hp), ⟨fun hb hi => ?started, fun hb => ?addressOnly⟩,
      fun hb => ⟨⟨fun hq => congrArg _ (preemptWrite_first hp hb hq), fun hq => congrArg _ (preemptWrite_again hp hb hq)⟩,
        congrArg _ (preemptClr_taken hp hb)⟩,
      fun hb => ⟨congrArg _ (preemptWrite_ignored (.inr hb)), congrArg _ (preemptClr_ignored (.inr hb))⟩,
      fun hb => congrArg _ (sigContextWrite_taken r hp hb), fun hb => congrArg _ (sigContextWrite_ignored r (.inr hb)),
      fun ho => ⟨?seq, ?copy⟩, fun k hk ho copy => ?opened⟩
    case started =>
      rw [coreBootWrite_started hp hb ((State.ustate_present hp).trans hi)]
      rfl
    case addressOnly => rw [coreBootWrite_addressOnly hp (by rwa [State.ustate_present hp])]
    case seq => exact (hseq false).trans (congrArg _ (sigSeqWrite_taken false hp ho))
    case copy => exact (hseq true).trans (congrArg _ (sigSeqWrite_taken true hp ho))
    case opened => exact (hseq copy).trans (congrArg _ (sigSeqWrite_ignored copy (.inr ⟨k, hk, ho⟩)))
  case spare =>
    intro m core fw new becomes
    have hrec : ∀ t, spareMapWrite clu v s = t → becomes t := fun t => exec_cluSpareMapWrite_recordedBy hc hl
    exact ⟨fun h => hrec _ (spareMapWrite_final h), fun h8 h16 => ⟨fun hv hh => hrec _ (spareMapWrite_failed h8 h16 hv hh),
      fun hv hh hne => hrec _ (spareMapWrite_failedAlone h8 h16 hv hh hne), fun hv hh => hrec _ (spareMapWrite_notHeld h8 h16 hv hh),
      fun hv hh hm => hrec _ (spareMapWrite_mapped h8 h16 hv hh hm), fun hv hh hm => hrec _ (spareMapWrite_named h8 h16 hv hh hm)⟩⟩

end Sys2Proof.Machine
end

section
/-! Commands to units, boot commands and what brings a die up (R13, R14, R63, R79, R365, R368, R369, R371, R372, R374 to R377). -/

namespace Sys2Proof.Machine

/-! ### A command written to a unit (R14, R374 to R376) -/

/-- Whether a command of an enclosing unit is in progress. -/
def State.enclosed (s : State) (u : UnitId) : Bool := (enclosersOf u).any (fun v => (s.ucmd v).isSome)

/-- BLK_CTRL of a unit written with a command. -/
def State.putCtrl (s : State) (u : UnitId) (cmd drainTo : Nat) (absorb : Bool) : State :=
  (s.setReg (uPage u 0 + 0x010) (w32 (cmd + 16 * b2n absorb + 65536 * drainTo))).ctrlTouched (uPage u 0)

/-- A command as it is first held: it waits. -/
def State.newCmd (s : State) (cmd drainTo : Nat) (absorb : Bool) : UCmd := ⟨cmd, absorb, s.frc, 500 * drainTo, 0, 0⟩

/-- A command that a unit takes: its writer may, the unit is present, no encloser's command is in progress, and DRAIN_TO is in range. -/
structure CmdTaken (s : State) (w : Writer) (u : UnitId) (drainTo : Nat) : Prop where
  may : s.unitMay w u = true
  present : s.isAbsent u = false
  free : s.enclosed u = false
  long : 10 ≤ drainTo

section
variable {s : State} {w : Writer} {u : UnitId} {cmd drainTo : Nat} {absorb : Bool} {old : UCmd}

theorem unitCommand_refused (h : s.unitMay w u = false ∨ s.isAbsent u = true) : unitCommand w u cmd absorb drainTo s = s :=
  if_pos (by simpa using h)

theorem unitCommand_enclosed (hw : s.unitMay w u = true) (hp : s.isAbsent u = false) (he : s.enclosed u = true) :
    unitCommand w u cmd absorb drainTo s = s.setErr (uPage u 0) 0 :=
  (if_neg (by simp [hw, hp])).trans (if_pos he)

theorem unitCommand_tooShort (hw : s.unitMay w u = true) (hp : s.isAbsent u = false) (he : s.enclosed u = false) (hd : drainTo < 10) :
    unitCommand w u cmd absorb drainTo s = s :=
  (if_neg (by simp [hw, hp])).trans ((if_neg (ne_true_of_eq_false he)).trans (if_pos hd))

/-- The guards that a command taken has passed. -/
theorem CmdTaken.guards (h : CmdTaken s w u drainTo) :
    (!s.unitMay w u || s.isAbsent u) = false ∧ ((enclosersOf u).any fun v => (s.ucmd v).isSome) = false ∧ ¬ drainTo < 10 :=
  ⟨by simp [h.may, h.present], h.free, Nat.not_lt.2 h.long⟩

section
variable (h : CmdTaken s w u drainTo)
include h

/-! A unit without a command. -/

theorem unitCommand_waits (hn : s.ucmd u = none) (hc : cmd ≠ cmdRelease ∨ s.held u = true) (hb : s.memberBusy u = true) :
    unitCommand w u cmd absorb drainTo s = (s.putCtrl u cmd drainTo absorb).setUcmd u (some (s.newCmd cmd drainTo absorb)) := by
  have hheld : ¬ (cmd = cmdRelease ∧ s.held u = false) := by
    rintro ⟨hr, hf⟩
    simp [hr, hf] at hc
  simp only [unitCommand, h.guards, hn, hheld, hb, Bool.false_eq_true, if_false, if_true]
  rfl

theorem unitCommand_begins (hn : s.ucmd u = none) (hc : cmd ≠ cmdRelease) (hb : s.memberBusy u = false) :
    unitCommand w u cmd absorb drainTo s = (s.putCtrl u cmd drainTo absorb).cmdBegin u (s.newCmd cmd drainTo absorb) := by
  simp only [unitCommand, h.guards, hn, hc, hb, false_and, Bool.false_eq_true, if_false]
  rfl

theorem unitCommand_release_starts (hn : s.ucmd u = none) (hh : s.held u = true) (hb : s.memberBusy u = false) :
    unitCommand w u cmdRelease absorb drainTo s = (s.putCtrl u cmdRelease drainTo absorb).startRelease u := by
  simp only [unitCommand, h.guards, hn, hh, hb, Bool.true_eq_false, and_false, Bool.false_eq_true, if_false, if_true]
  rfl

theorem unitCommand_release_notHeld (hn : s.ucmd u = none) (hh : s.held u = false) :
    unitCommand w u cmdRelease absorb drainTo s = s := by
  simp only [unitCommand, h.guards, hn, hh, and_self, Bool.false_eq_true, if_false, if_true]

/-! A unit whose command is in progress. -/

section
variable (ho : s.ucmd u = some old)
include ho

theorem unitCommand_release_inProgress : unitCommand w u cmdRelease absorb drainTo s = s := by
  simp only [unitCommand, h.guards, ho, Bool.false_eq_true, if_false, if_true]

variable (hc : cmd ≠ cmdRelease)
include hc

/-- A draining command becomes one that absorbs. -/
theorem unitCommand_draining_absorb (hx : old.phase = 1) :
    unitCommand w u cmd true drainTo s = (s.putCtrl u cmd drainTo true).cmdAbsorb u (s.newCmd cmd drainTo true) := by
  simp only [unitCommand, h.guards, ho, hc, hx, Bool.false_eq_true, if_false, if_true]
  rfl

/-- A draining command keeps the tick at which it began to drain. -/
theorem unitCommand_draining_drain (hx : old.phase = 1) :
    unitCommand w u cmd false drainTo s =
      (s.putCtrl u cmd drainTo false).setUcmd u (some { s.newCmd cmd drainTo false with phase := 1, since := old.since }) := by
  simp only [unitCommand, h.guards, ho, hc, hx, Bool.false_eq_true, if_false, if_true]
  rfl

theorem unitCommand_absorbing_same (hx : old.phase = 2) (hs : old.cmd = cmd) : unitCommand w u cmd absorb drainTo s = s := by
  simp only [unitCommand, h.guards, ho, hc, hx, hs, Nat.reduceEqDiff, and_self, Bool.false_eq_true, if_false, if_true]

theorem unitCommand_absorbing_other (hx : old.phase = 2) (hs : old.cmd ≠ cmd) :
    unitCommand w u cmd absorb drainTo s = (s.putCtrl u cmd drainTo absorb).setUcmd u (some { old with cmd := cmd }) := by
  simp only [unitCommand, h.guards, ho, hc, hx, hs, Nat.reduceEqDiff, and_false, Bool.false_eq_true, if_false, if_true]
  rfl

theorem unitCommand_waiting (hx : old.phase = 0) :
    unitCommand w u cmd absorb drainTo s = (s.putCtrl u cmd drainTo absorb).setUcmd u (some (s.newCmd cmd drainTo absorb)) := by
  simp only [unitCommand, h.guards, ho, hc, hx, Nat.reduceEqDiff, false_and, Bool.false_eq_true, if_false, if_true]
  rfl

/-- An initialising unit begins anew. -/
theorem unitCommand_initialising (hx : 3 ≤ old.phase) :
    unitCommand w u cmd absorb drainTo s = (s.putCtrl u cmd drainTo absorb).cmdBegin u (s.newCmd cmd drainTo absorb) := by
  have h0 : old.phase ≠ 0 := by omega
  have h1 : old.phase ≠ 1 := by omega
  have h2 : old.phase ≠ 2 := by omega
  simp only [unitCommand, h.guards, ho, hc, h0, h1, h2, false_and, Bool.false_eq_true, if_false]
  rfl

end
end
/-- A release that is too short, that meets a command, or whose unit is not held does nothing. -/
theorem unitCommand_release_ignored (hw : s.unitMay w u = true) (hp : s.isAbsent u = false) (he : s.enclosed u = false)
    (h : drainTo < 10 ∨ (s.ucmd u).isSome = true ∨ s.held u = false) : unitCommand w u cmdRelease absorb drainTo s = s := by
  by_cases hd : drainTo < 10
  · exact unitCommand_tooShort hw hp he hd
  have ht : CmdTaken s w u drainTo := ⟨hw, hp, he, Nat.not_lt.1 hd⟩
  cases hu : s.ucmd u with
  | some old => exact unitCommand_release_inProgress ht hu
  | none =>
    have hh : s.held u = false := by simpa [hd, hu] using h
    exact unitCommand_release_notHeld ht hu hh

end

/-! ### A command goes on (R375 to R377) -/

section
variable {s : State} {u : UnitId} {x : UCmd}

theorem drainComplete_none (hn : s.ucmd u = none) : drainComplete u s = s := by simp only [drainComplete, hn]

theorem drainComplete_drained (hx : s.ucmd u = some x) (h : x.phase = 1 ∧ s.drained u = true) :
    drainComplete u s = (s.cmdProceed u x).cmdWake := by
  simp only [drainComplete, hx, if_pos h]

theorem drainComplete_early (hx : s.ucmd u = some x) (h : x.phase ≠ 1 ∨ s.drained u = false) : drainComplete u s = s := by
  have hnot : ¬ (x.phase = 1 ∧ s.drained u = true) := fun ⟨h1, hd⟩ => h.elim (absurd h1) (fun hf => ne_true_of_eq_false hf hd)
  simp only [drainComplete, hx, if_neg hnot]

theorem drainTimeout_none (hn : s.ucmd u = none) : drainTimeout u s = s := by simp only [drainTimeout, hn]

theorem drainTimeout_due (hx : s.ucmd u = some x) (h : x.phase = 1 ∧ x.since + x.drainTo ≤ s.frc) :
    drainTimeout u s = (s.cmdAbsorb u x).setStats u 5 1 1 := by
  simp only [drainTimeout, hx, if_pos h]

theorem drainTimeout_early (hx : s.ucmd u = some x) (h : x.phase ≠ 1 ∨ s.frc < x.since + x.drainTo) : drainTimeout u s = s := by
  have hnot : ¬ (x.phase = 1 ∧ x.since + x.drainTo ≤ s.frc) := fun ⟨h1, hd⟩ => h.elim (absurd h1) (Nat.not_lt.2 hd)
  simp only [drainTimeout, hx, if_neg hnot]

theorem absorbComplete_none (hn : s.ucmd u = none) : absorbComplete u s = s := by simp only [absorbComplete, hn]

theorem absorbComplete_due (hx : s.ucmd u = some x)
    (h : x.phase = 2 ∧ (s.outstanding u = 0 ∨ x.since + 4 * s.respTo (uDie u) ≤ s.frc)) :
    absorbComplete u s = (s.cmdProceed u x).cmdWake := by
  simp only [absorbComplete, hx, if_pos h]

theorem absorbComplete_early (hx : s.ucmd u = some x)
    (h : ¬ (x.phase = 2 ∧ (s.outstanding u = 0 ∨ x.since + 4 * s.respTo (uDie u) ≤ s.frc))) : absorbComplete u s = s := by
  simp only [absorbComplete, hx, if_neg h]

end

/-! ### The end of initialisation (R63, R369, R375) -/

/-- The maps that the running Groundskeeper applies where a unit comes out of reset. -/
def State.initMaps (s : State) (u : UnitId) (ok : Bool) : State :=
  if ok = true ∧ s.gk.up = true ∧ s.ustate u = stResetting ∧ s.held u = false then s.retireMaps u else s

/-- What an initialised unit becomes: with what lies below it IDLE, or itself FAULTED. -/
def State.initEnd (s : State) (u : UnitId) (ok : Bool) : State :=
  if ok then (s.reach u).foldl (fun t v => if t.held v then t else t.setUstate v stIdle) s else s.setUstate u stFaulted

theorem initComplete_eq (s : State) (u : UnitId) (ok : Bool) :
    initComplete u ok s = ((unitInitComplete u ok (s.initMaps u ok)).coreLost u).gkAdvance := by
  simp only [initComplete, State.initMaps, Bool.and_eq_true, decide_eq_true_eq, Bool.not_eq_true', and_assoc]

section
variable {s : State} {u : UnitId} {ok : Bool} {c : UCmd}

theorem unitInitComplete_notResetting (h : s.held u = true ∨ s.ustate u ≠ stResetting) : unitInitComplete u ok s = s :=
  if_pos (by simpa using h)

section
variable (h : ¬ (s.held u = true ∨ s.ustate u ≠ stResetting))
include h

theorem unitInitComplete_otherPhase (hc : s.ucmd u = some c) (hp : c.phase ≠ 3) : unitInitComplete u ok s = s := by
  refine (if_neg (by simpa using h)).trans ?_
  simp only [hc, if_pos hp]

theorem unitInitComplete_ofCommand (hc : s.ucmd u = some c) (hp : c.phase = 3) :
    unitInitComplete u ok s =
      (((s.initEnd u ok).setStats u 8 8 (c.cmd + 16 * b2n c.absorb)).setUcmd u none).cmdWake := by
  refine (if_neg (by simpa using h)).trans ?_
  simp only [hc, hp, ne_eq, not_true_eq_false, if_false]
  rfl

theorem unitInitComplete_enclosed (hn : s.ucmd u = none)
    (he : (enclosersOf u).any (fun v => (s.ucmd v).isSome || s.held v) = true) : unitInitComplete u ok s = s := by
  refine (if_neg (by simpa using h)).trans ?_
  simp only [hn, if_pos he]

theorem unitInitComplete_alone (hn : s.ucmd u = none)
    (he : (enclosersOf u).any (fun v => (s.ucmd v).isSome || s.held v) = false) : unitInitComplete u ok s = s.initEnd u ok := by
  refine (if_neg (by simpa using h)).trans ?_
  simp only [hn, if_neg (ne_true_of_eq_false he)]
  rfl

end
end

/-! ### Boot commands (R371, R372) -/

section
variable {s : State} {u : UnitId}

theorem bootCommand_acts {cmd : Nat} (h : s.ustate u = stIdle ∧ fld (s.bootW (s.physKey u) 0) 0 4 = cmd) :
    bootCommand cmd u s = s.bootAct (some u) (s.physKey u) (s.reg (uPage u 1 + 0x05C)).toNat :=
  if_pos (by simpa using h)

theorem bootCommand_ignored {cmd : Nat} (h : s.ustate u ≠ stIdle ∨ fld (s.bootW (s.physKey u) 0) 0 4 ≠ cmd) :
    bootCommand cmd u s = s :=
  if_neg (by rcases h with h | h <;> simp [h])

variable {own : Option UnitId} {key lim : Nat}

theorem State.bootAct_manifest (h : fld (s.bootW key 0) 0 4 = 1) : s.bootAct own key lim = s.bootManifest key lim := if_pos h

theorem State.bootAct_segment (h : fld (s.bootW key 0) 0 4 = 2) : s.bootAct own key lim = s.bootSegment own key := by
  simp only [State.bootAct, h, Nat.reduceEqDiff, if_false, if_true]

theorem State.bootAct_check (h : fld (s.bootW key 0) 0 4 = 3) : s.bootAct own key lim = s.bootCheck own key := by
  simp only [State.bootAct, h, Nat.reduceEqDiff, if_false, if_true]

end

/-! ### Compute dies and training (R365, R368) -/

section
variable {s : State} {d : Nat}

theorem diePowerUp_refused (h : ¬ (s.killed = false ∧ s.gk.up = true ∧ bit (s.reg (gkBootPage + 0x040)) (9 + d) = false)) :
    diePowerUp d s = s := by
  refine if_pos ?_
  refine Decidable.byContradiction fun hstays => h ?_
  simpa [and_assoc] using hstays

theorem diePowerUp_raises (hk : s.killed = false) (hg : s.gk.up = true) (hb : bit (s.reg (gkBootPage + 0x040)) (9 + d) = false) :
    diePowerUp d s =
      let t := { s with cal := { s.cal with fuses := s.cal.fuses ||| BitVec.ofNat 2 (2 ^ d) },
                        taps := Tab.set TapSt.init s.taps (1 + d) TapSt.init }
      let t := ((clusOf (dieUid d)).foldl State.applyRec t).setRegF (gkBootPage + 0x040) (9 + d) 1 1
      let b := t.reg (gkBootPage + 0x040)
      if fld b 0 4 = 4 ∧ fld b 9 2 = 3 then t.setRegF (gkBootPage + 0x040) 0 4 5 else t :=
  if_neg (by simp [hk, hg, hb])

theorem dramTrained_unpowered {ok : Bool} (h : bit (s.reg (gkBootPage + 0x040)) (9 + d) = false) : dramTrained d ok s = s :=
  if_pos (by simp [h])

section
variable (h : bit (s.reg (gkBootPage + 0x040)) (9 + d) = true)
include h

theorem dramTrained_failed : dramTrained d false s = s.setRegF (gkBootPage + 0x040) 12 4 5 :=
  (if_neg (by simp [h])).trans (if_pos rfl)

theorem dramTrained_passed :
    dramTrained d true s =
      let t := s.setRegF (mcPage d + 0x040) 0 1 1
      let all := ([0, 1] : List Nat).all (fun e => bit (t.reg (mcPage e + 0x040)) 0 && bit (t.reg (uPage (dieUid e) 1 + 0x040)) 0)
      if all = true ∧ t.regF (gkBootPage + 0x040) 0 4 = 5 then t.setRegF (gkBootPage + 0x040) 0 4 6 else t :=
  (if_neg (by simp [h])).trans (if_neg (by simp))

end
end

/-! ### The commands -/

section
variable {u : UnitId}

theorem next_gkAdvance {s t : State} (h : s = t) : (.next s.gkAdvance : Out) = .next t.gkAdvance := by rw [h]

/-- RESET, HOLD and POWER_DOWN are unit commands other than RELEASE. -/
theorem exec_unitCommand {w : Writer} {k : Nat} {i : Instr} {absorb : Bool} {drainTo : BitVec 16} (s : State) (hu : uValid u = true)
    (hi : (k = cmdReset ∧ i = .reset w u absorb drainTo) ∨ (k = cmdHold ∧ i = .hold w u absorb drainTo) ∨
      (k = cmdPower ∧ i = .powerDown w u absorb drainTo)) :
    k ≠ cmdRelease ∧ exec i s = .next (unitCommand w u k absorb drainTo.toNat s) := by
  rcases hi with ⟨rfl, rfl⟩ | ⟨rfl, rfl⟩ | ⟨rfl, rfl⟩ <;> exact ⟨by decide, onUnit_next hu⟩

theorem exec_release (w : Writer) (s : State) (hu : uValid u = true) :
    exec (.release w u) s =
      .next (unitCommand w u cmdRelease (bit (s.reg (uPage u 0 + 0x010)) 4) (s.regF (uPage u 0 + 0x010) 16 16) s) := onUnit_next hu

theorem exec_drainComplete (s : State) (hu : uValid u = true) : exec (.drainComplete u) s = .next (drainComplete u s) := onUnit_next hu

theorem exec_drainTimeout (s : State) (hu : uValid u = true) : exec (.drainTimeout u) s = .next (drainTimeout u s) := onUnit_next hu

theorem exec_absorbComplete (s : State) (hu : uValid u = true) :
    exec (.absorbComplete u) s = .next (absorbComplete u s).gkAdvance := onUnit_next hu

theorem exec_unitInitComplete (ok : Bool) (s : State) (hu : uValid u = true) :
    exec (.unitInitComplete u ok) s = .next ((unitInitComplete u ok (s.initMaps u ok)).coreLost u).gkAdvance := by
  rw [← initComplete_eq]
  exact onUnit_next hu

theorem exec_manifest (s : State) (hc : coreOk u = true) : exec (.manifest u) s = .next (bootCommand 1 u s) := onUnit_next hc

theorem exec_segment (s : State) (hc : coreOk u = true) : exec (.segment u) s = .next (bootCommand 2 u s) := onUnit_next hc

theorem exec_check (s : State) (hc : coreOk u = true) : exec (.check u) s = .next (bootCommand 3 u s) := onUnit_next hc

end

theorem exec_computeDiePowerUp {d : Nat} (s : State) (hd : d < 2) :
    exec (.computeDiePowerUp d) s = .next (diePowerUp d s).gkAdvance := onUnit_next (decide_eq_true hd)

theorem exec_dramTrainingComplete {d : Nat} (ok : Bool) (s : State) (hd : d < 2) :
    exec (.dramTrainingComplete d ok) s = .next (dramTrained d ok s).gkAdvance := onUnit_next (decide_eq_true hd)

/-- Settles O44: a command written to a unit by the guards it passes and the command already held, and then each command of its
progress by the phase, the boot commands by the mailbox, and the dies' by what has come up. -/
theorem unitCommands : Obligations.UnitCommands := by
  unfold Obligations.UnitCommands
  intro s w u ab ok dt x d hu hd
  rw [exec_release w s hu, exec_drainComplete s hu, exec_drainTimeout s hu, exec_absorbComplete s hu, exec_unitInitComplete ok s hu,
    exec_computeDiePowerUp s hd, exec_dramTrainingComplete ok s hd, exec_dramTrainingComplete false s hd,
    exec_dramTrainingComplete true s hd]
  refine ⟨?written, fun hx => ?progress, fun hn => ?noCommand, ?initialised, fun hl => ?boot, ?dieUp,
    fun hb => next_gkAdvance (dramTrained_unpowered hb),
    fun hb => ⟨next_gkAdvance (dramTrained_failed hb), next_gkAdvance (dramTrained_passed hb)⟩⟩
  case written =>
    intro enc page ctl rab rdt
    refine ⟨fun k i hi => ?resets, fun hno => congrArg _ (unitCommand_refused hno),
      fun hw hp => ⟨fun he => congrArg _ (unitCommand_enclosed hw hp he),
        fun he hno => congrArg _ (unitCommand_release_ignored hw hp he hno), fun he hlong hn hh => ?release⟩⟩
    case release =>
      have ht : CmdTaken s w u rdt := ⟨hw, hp, he, hlong⟩
      exact ⟨fun hb => congrArg _ (unitCommand_waits ht hn (.inr hh) hb), fun hb => congrArg _ (unitCommand_release_starts ht hn hh hb)⟩
    case resets =>
      obtain ⟨hk, hexec⟩ := exec_unitCommand s hu hi
      rw [hexec]
      refine ⟨fun hno => congrArg _ (unitCommand_refused hno), fun hw hp => ⟨fun he => congrArg _ (unitCommand_enclosed hw hp he),
        fun he hs => congrArg _ (unitCommand_tooShort hw hp he hs), fun he hlong => ?taken⟩⟩
      have ht : CmdTaken s w u dt.toNat := ⟨hw, hp, he, hlong⟩
      refine ⟨fun hn hb => congrArg _ (unitCommand_waits ht hn (.inl hk) hb),
        fun hn hb => congrArg _ (unitCommand_begins ht hn hk hb), fun hx => ⟨?absorb, ?drain, ?_, ?_, ?_, ?_⟩⟩
      case absorb =>
        rintro h1 rfl
        exact congrArg _ (unitCommand_draining_absorb ht hx hk h1)
      case drain =>
        rintro h1 rfl
        exact congrArg _ (unitCommand_draining_drain ht hx hk h1)
      · exact fun h2 hs => congrArg _ (unitCommand_absorbing_same ht hx hk h2 hs)
      · exact fun h2 hs => congrArg _ (unitCommand_absorbing_other ht hx hk h2 hs)
      · exact fun h0 => congrArg _ (unitCommand_waiting ht hx hk h0)
      · exact fun h3 => congrArg _ (unitCommand_initialising ht hx hk h3)
  case progress =>
    exact ⟨fun h => congrArg _ (drainComplete_drained hx h), fun h => congrArg _ (drainComplete_early hx h),
      fun h => congrArg _ (drainTimeout_due hx h), fun h => congrArg _ (drainTimeout_early hx h),
      fun h => next_gkAdvance (absorbComplete_due hx h), fun h => next_gkAdvance (absorbComplete_early hx h)⟩
  case noCommand =>
    rw [drainComplete_none hn, drainTimeout_none hn, absorbComplete_none hn]
    exact ⟨rfl, rfl, rfl⟩
  case initialised =>
    intro r go waits
    have hend : ∀ {t}, unitInitComplete u ok r = t →
        (.next ((unitInitComplete u ok r).coreLost u).gkAdvance : Out) = .next (t.coreLost u).gkAdvance := by
      rintro t rfl
      rfl
    exact ⟨fun hw => hend (unitInitComplete_notResetting hw), fun hw => ⟨fun c hc hp => hend (unitInitComplete_otherPhase hw hc hp),
      fun c hc hp => hend (unitInitComplete_ofCommand hw hc hp), fun hn he => hend (unitInitComplete_enclosed hw hn he),
      fun hn he => hend (unitInitComplete_alone hw hn he)⟩⟩
  case boot =>
    have hc : coreOk u = true := by simp [coreOk, hu, hl]
    rw [exec_manifest s hc, exec_segment s hc, exec_check s hc]
    intro key cmd
    have hignored : ∀ {k}, s.ustate u ≠ stIdle ∨ cmd ≠ k → (.next (bootCommand k u s) : Out) = .next s :=
      fun h => congrArg _ (bootCommand_ignored h)
    refine ⟨?_, ?_, ?_, hignored, hignored, hignored⟩
    · exact fun ⟨hi, hm⟩ => congrArg _ ((bootCommand_acts ⟨hi, hm⟩).trans (State.bootAct_manifest hm))
    · exact fun ⟨hi, hm⟩ => congrArg _ ((bootCommand_acts ⟨hi, hm⟩).trans (State.bootAct_segment hm))
    · exact fun ⟨hi, hm⟩ => congrArg _ ((bootCommand_acts ⟨hi, hm⟩).trans (State.bootAct_check hm))
  case dieUp =>
    exact ⟨fun hr => next_gkAdvance (diePowerUp_refused hr), fun ⟨hk, hg, hb⟩ => next_gkAdvance (diePowerUp_raises hk hg hb)⟩

end Sys2Proof.Machine
end

section
/-! Numbers (R21, R22, R25, R28): which codes of a format are NaN, which ones a rounding writes, and the elements of MXINT8. -/

namespace Sys2Proof.Machine

/-! ### NaN patterns (R21) -/

section
variable {f : FFmt} {n : Nat}

/-- In a format with infinities, NaN has an exponent of ones and a mantissa other than 0. -/
theorem FFmt.decode_eq_nan_ieee (h : f.top = .ieee) :
    f.decode n = .nan ↔ nfld n f.mb f.eb = 2 ^ f.eb - 1 ∧ nfld n 0 f.mb ≠ 0 := by
  simp only [FFmt.decode, h]
  by_cases hex : nfld n f.mb f.eb = 2 ^ f.eb - 1
  · rw [if_pos hex]
    by_cases hm : nfld n 0 f.mb = 0
    · rw [if_pos hm]
      exact ⟨FVal.noConfusion, fun hn => absurd hm hn.2⟩
    · rw [if_neg hm]
      exact ⟨fun _ => ⟨hex, hm⟩, fun _ => rfl⟩
  · rw [if_neg hex]
    refine ⟨fun hn => ?_, fun hn => absurd hn.1 hex⟩
    split at hn <;> cases hn

/-- E4M3 has one NaN magnitude. -/
theorem FFmt.decode_eq_nan_e4m3 (h : f.top = .e4m3) :
    f.decode n = .nan ↔ nfld n f.mb f.eb = 15 ∧ nfld n 0 f.mb = 7 := by
  simp only [FFmt.decode, h]
  by_cases hm : nfld n f.mb f.eb = 15 ∧ nfld n 0 f.mb = 7
  · rw [if_pos hm]
    exact ⟨fun _ => hm, fun _ => rfl⟩
  · rw [if_neg hm]
    refine ⟨fun hn => ?_, fun hn => absurd hn hm⟩
    split at hn <;> cases hn

/-- A field of a magnitude code is that of the code with its sign. -/
theorem FFmt.nfld_withSign {lo k : Nat} (s : Bool) (c : Nat) (h : lo + k ≤ f.eb + f.mb) :
    nfld (f.withSign s c) lo k = nfld c lo k := by
  cases s with
  | false => rfl
  | true =>
    apply Nat.eq_of_testBit_eq
    intro i
    simp only [nfld, FFmt.withSign, if_true, Nat.testBit_mod_two_pow, Nat.testBit_shiftRight]
    by_cases hi : i < k
    · rw [Nat.add_comm c, Nat.testBit_two_pow_add_gt (by omega)]
    · simp [hi]

end

/-! ### What a rounding writes (R28) -/

/-- Rounding a number gives a code of at most the largest finite magnitude with its sign, or what overflow becomes. -/
theorem FFmt.roundFin_bits (f : FFmt) (rm : Rm) (sat s : Bool) (m : Nat) (e : Int) :
    (∃ c ≤ f.maxCode, (f.roundFin rm sat s m e).bits = f.withSign s c) ∨ (f.roundFin rm sat s m e).bits = f.infBits s := by
  unfold FFmt.roundFin
  by_cases hm : m = 0
  · exact .inl ⟨0, Nat.zero_le _, by rw [if_pos hm]⟩
  · rw [if_neg hm]
    extract_lets qmin q0 q toMax k0 tinyRv
    clear_value toMax
    generalize (if q ≤ e then (m <<< (e - q).toNat, false) else roundAt rm s m (q - e).toNat) = kept
    obtain ⟨k, nx⟩ := kept
    dsimp only
    generalize (if 2 ^ (f.mb + 1) ≤ k then (2 ^ f.mb, q + 1) else (k, q)) = normed
    generalize (if normed.1 < 2 ^ f.mb then normed.1 else (normed.2 + f.bias + f.mb).toNat * 2 ^ f.mb + (normed.1 - 2 ^ f.mb)) = code
    by_cases hc : f.maxCode < code
    · rw [if_pos hc]
      cases toMax with
      | true => exact .inl ⟨_, Nat.le_refl _, rfl⟩
      | false => exact .inr rfl
    · rw [if_neg hc]
      exact .inl ⟨code, Nat.le_of_not_lt hc, rfl⟩

/-- Rounding anything but NaN does the same. -/
theorem FFmt.round_bits (f : FFmt) (rm : Rm) (sat : Bool) {v : FVal} (hv : v ≠ .nan) :
    ∃ s, (∃ c ≤ f.maxCode, (f.round rm sat v).bits = f.withSign s c) ∨ (f.round rm sat v).bits = f.infBits s := by
  cases v with
  | nan => exact absurd rfl hv
  | inf s =>
    cases sat with
    | true => exact ⟨s, .inl ⟨_, Nat.le_refl _, rfl⟩⟩
    | false => exact ⟨s, .inr rfl⟩
  | fin s m e => exact ⟨s, f.roundFin_bits rm sat s m e⟩

/-- In a format with infinities no magnitude up to that of infinity is NaN. -/
theorem FFmt.withSign_ne_nan_ieee {f : FFmt} (h : f.top = .ieee) (s : Bool) {c : Nat} (hc : c ≤ f.infCode) :
    f.decode (f.withSign s c) ≠ .nan := by
  rw [Ne, FFmt.decode_eq_nan_ieee h, f.nfld_withSign s c (Nat.le_of_eq (Nat.add_comm _ _)), f.nfld_withSign s c (by omega)]
  rintro ⟨hex, hm⟩
  simp only [FFmt.infCode, h] at hc
  simp only [nfld, Nat.shiftRight_eq_div_pow, Nat.pow_zero, Nat.div_one] at hex hm
  have hle := Nat.mod_le (c / 2 ^ f.mb) (2 ^ f.eb)
  have hge : (2 ^ f.eb - 1) * 2 ^ f.mb ≤ c := (Nat.le_div_iff_mul_le (Nat.two_pow_pos _)).1 (hex ▸ hle)
  exact hm (by rw [Nat.le_antisymm hc hge, Nat.mul_mod_left])

/-- E4M3's magnitudes up to the largest finite one are numbers. -/
theorem FFmt.withSign_ne_nan_e4m3 (s : Bool) {c : Nat} (hc : c ≤ FFmt.e4m3.maxCode) :
    FFmt.e4m3.decode (FFmt.e4m3.withSign s c) ≠ .nan := by
  rw [Ne, FFmt.decode_eq_nan_e4m3 rfl, FFmt.nfld_withSign s c (by decide), FFmt.nfld_withSign s c (by decide)]
  simp only [nfld, Nat.shiftRight_eq_div_pow]
  have : c ≤ 126 := hc
  simp only [FFmt.e4m3]
  omega

/-- A rounding gives no NaN but the canonical one (R22), where none of the format's finite codes is NaN and what overflow becomes is
either no NaN or the canonical one. -/
theorem FFmt.round_canonical {f : FFmt} (hfin : ∀ s c, c ≤ f.maxCode → f.decode (f.withSign s c) ≠ .nan)
    (hinf : ∀ s, f.decode (f.infBits s) = .nan → f.infBits s = f.nanCode) {rm : Rm} {sat : Bool} {v : FVal}
    (hn : f.decode (f.round rm sat v).bits = .nan) : (f.round rm sat v).bits = f.nanCode := by
  by_cases hv : v = .nan
  · rw [hv]; rfl
  · obtain ⟨s, ⟨c, hc, hb⟩ | hb⟩ := f.round_bits rm sat hv
    · exact absurd (hb ▸ hn) (hfin s c hc)
    · rw [hb] at hn ⊢
      exact hinf s hn

theorem FFmt.round_canonical_ieee {f : FFmt} (h : f.top = .ieee) {rm : Rm} {sat : Bool} {v : FVal} :
    f.decode (f.round rm sat v).bits = .nan → (f.round rm sat v).bits = f.nanCode := by
  have hmax : f.maxCode ≤ f.infCode := by simp [FFmt.maxCode, FFmt.infCode, h]
  have hinf : ∀ s, f.infBits s = f.withSign s f.infCode := fun s => by simp only [FFmt.infBits, h]
  exact FFmt.round_canonical (fun s c hc => FFmt.withSign_ne_nan_ieee h s (Nat.le_trans hc hmax))
    (fun s hn => absurd (hinf s ▸ hn) (FFmt.withSign_ne_nan_ieee h s (Nat.le_refl _)))

/-- Settles O51: a rounding gives a number's code, an infinity's or the canonical NaN, and the patterns of R21's table are the codes
that decode to NaN. -/
theorem nanPatterns : Obligations.NanPatterns := by
  unfold Obligations.NanPatterns
  intro rm sat v f c n hf
  refine ⟨?written, ?ofNan, ?_, ?_, ?_, ?_, ?_⟩
  case written =>
    rcases hf with ⟨rfl, rfl⟩ | ⟨rfl, rfl⟩ | ⟨rfl, rfl⟩ | ⟨rfl, rfl⟩ | ⟨rfl, rfl⟩
    · exact FFmt.round_canonical (fun s _ => FFmt.withSign_ne_nan_e4m3 s) (fun _ _ => rfl)
    all_goals exact FFmt.round_canonical_ieee rfl
  case ofNan => rcases hf with ⟨rfl, rfl⟩ | ⟨rfl, rfl⟩ | ⟨rfl, rfl⟩ | ⟨rfl, rfl⟩ | ⟨rfl, rfl⟩ <;> rfl
  · rintro rfl h
    refine (FFmt.decode_eq_nan_e4m3 rfl).2 ?_
    simp only [nfld, Nat.shiftRight_eq_div_pow, FFmt.e4m3]
    omega
  all_goals
    rintro rfl hex hm
    refine (FFmt.decode_eq_nan_ieee rfl).2 ?_
    simp only [nfld, Nat.shiftRight_eq_div_pow, FFmt.e5m2, FFmt.fp16, FFmt.bf16, FFmt.fp32]
    omega

/-! ### MXINT8 (R25) -/

/-- An 8-bit signed value reads back from its two's complement. -/
theorem sfld_ibits_8 {y : Int} (hlo : -128 ≤ y) (hhi : y ≤ 127) : sfld (ibits 8 y) 8 = y := by
  simp only [sfld, ibits, nbit, nfld, Nat.testBit_eq_decide_div_mod_eq, Nat.shiftRight_zero, decide_eq_true_eq]
  split <;> omega

theorem ibits_8_lt (y : Int) : ibits 8 y < 256 := by
  simp only [ibits]
  omega

/-- An MXINT8 element is written as the code of a clamped integer. -/
theorem mxElem_int8 (rm : Rm) (x : Int) (v : FVal) : ∃ y : Int, -127 ≤ y ∧ y ≤ 127 ∧ (mxElem 0xD rm x v).1 = ibits 8 y := by
  cases v with
  | nan => exact ⟨0, by decide, by decide, rfl⟩
  | inf s =>
    cases s with
    | true => exact ⟨-127, by decide, by decide, rfl⟩
    | false => exact ⟨127, by decide, by decide, rfl⟩
  | fin s m e =>
    cases hk : FVal.toInt rm (.fin s m (e - x + 6)) with
    | none => exact ⟨0, by decide, by decide, by simp only [mxElem, if_true, hk]; rfl⟩
    | some k => exact ⟨max (-127) (min 127 k.1), by omega, by omega, by simp only [mxElem, if_true, hk]⟩

/-- Settles O52: the element 0x80 is −128 in units of 2⁻⁶, and what is written is the code of a clamped integer. -/
theorem mxInt8Elements : Obligations.MxInt8Elements := by
  unfold Obligations.MxInt8Elements
  refine ⟨fun scale hs => ?_, fun rm x v => ?_⟩
  · have he : elemVal 0xD 0x80 = .fin true 128 (-6) := by decide
    rw [mxVal, if_neg hs, he]
    simp only [FVal.scale, FVal.fin.injEq, true_and]
    omega
  · obtain ⟨y, hlo, hhi, hy⟩ := mxElem_int8 rm x v
    rw [hy, sfld_ibits_8 (by omega) hhi]
    exact ⟨ibits_8_lt y, hlo, hhi⟩

end Sys2Proof.Machine
end

section
/-! The vector queue, class V and VSETS (R43, R49, R53, R55 to R57): how a vector instruction issues, has its effect and completes. -/

namespace Sys2Proof.Machine

/-! ### The vector queue (R43, R49, R57) -/

section
variable {c : CoreSt}

/-- The queue has room, and every instruction in it has been performed: the next one is performed at once. -/
structure CoreSt.VReady (c : CoreSt) : Prop where
  room : c.vq.length < 8
  allDone : ∀ e ∈ c.vq, e.done = true

theorem CoreSt.vRoom_iff : c.vRoom = true ↔ c.vq.length < 8 := decide_eq_true_iff

theorem CoreSt.vBehind_iff : c.vBehind = true ↔ ∃ e ∈ c.vq, e.done = false := by simp [CoreSt.vBehind]

theorem CoreSt.VReady.vBehind (h : c.VReady) : c.vBehind = false := by
  rw [Bool.eq_false_iff, Ne, CoreSt.vBehind_iff]
  rintro ⟨e, he, hd⟩
  simp [h.allDone e he] at hd

/-- A VACC waits for its busy set, and nothing else of class M waits (R57). -/
theorem CoreSt.vWaits_m {a : MArgs} {f3 : Nat} {done : Bool} :
    c.vWaits (c.vItem (.m a f3) done) = true ↔ f3 = 4 ∧ c.accBusy c.issued (fld (c.rx a.rs1) 0 2) = true := by
  by_cases h : f3 = 4 <;> simp [CoreSt.vWaits, VOp.accOf, CoreSt.vItem, VOp.regs, h]

end

section
variable {s : State} {u : UnitId} {op : VOp}

/-- A full queue stalls what follows. -/
theorem State.vEnter_full (h : 8 ≤ (s.core u).vq.length) : s.vEnter u op = s := by
  have hroom : (s.core u).vRoom = false := by simp [CoreSt.vRoom, h]
  simp [State.vEnter, hroom]

/-- An instruction behind one that waits, or a VACC of a busy set, only takes its place. -/
theorem State.vEnter_waits (hroom : (s.core u).vq.length < 8)
    (h : (∃ e ∈ (s.core u).vq, e.done = false) ∨ (s.core u).vWaits ((s.core u).vItem op false) = true) :
    s.vEnter u op = s.setCore u ((s.core u).vPush ((s.core u).vItem op false)) := by
  rw [← CoreSt.vBehind_iff] at h
  simp only [State.vEnter, CoreSt.vRoom_iff.2 hroom, Bool.not_true, Bool.or_eq_true, h, if_true, Bool.false_eq_true, if_false]

section
variable (h : (s.core u).VReady) (hw : (s.core u).vWaits ((s.core u).vItem op false) = false)
include h hw

theorem State.vEnter_done {t : State} (hp : s.vPerform u op = .done t) :
    s.vEnter u op = t.setCore u ((t.core u).vPush ((s.core u).vItem op true)) := by
  simp [State.vEnter, CoreSt.vRoom_iff.2 h.room, h.vBehind, hw, hp]

theorem State.vEnter_exc {t : State} {k : Nat} {v : W32} (hp : s.vPerform u op = .exc t k v) : s.vEnter u op = t.trap u k v := by
  simp [State.vEnter, CoreSt.vRoom_iff.2 h.room, h.vBehind, hw, hp]

end
end

/-! ### Class V issues (R53, R56) -/

/-- The commands of class V, with their operation codes. -/
def vForms (a : VArgs) : List (Instr × Nat) :=
  [(.vadd a, 0x00), (.vsub a, 0x01), (.vmul a, 0x02), (.vfma a, 0x03), (.vmin a, 0x04), (.vmax a, 0x05), (.vclt a, 0x06),
   (.vceq a, 0x07), (.vsel a, 0x08), (.vexp a, 0x10), (.vlog a, 0x11), (.vrcp a, 0x12), (.vrsqrt a, 0x13), (.vrsum a, 0x18),
   (.vrmax a, 0x19), (.vbcast a, 0x1C)]

section
variable {s : State} {a : VArgs} {i : Instr} {op : Nat}

theorem exec_classV (hi : (i, op) ∈ vForms a) (hc : coreOk a.core = true) : exec i s = .next (s.vIssue a op) := by
  have hall : ∀ p ∈ vForms a, exec p.1 s = onUnit (coreOk a.core) (s.vIssue a p.2) := by
    simp only [vForms, List.forall_mem_cons]
    exact ⟨rfl, rfl, rfl, rfl, rfl, rfl, rfl, rfl, rfl, rfl, rfl, rfl, rfl, rfl, rfl, rfl, List.forall_mem_nil _⟩
  exact (hall _ hi).trans (onUnit_next hc)

/-- A core that does not execute issues nothing. -/
theorem exec_classV_idle (hi : (i, op) ∈ vForms a) (hc : coreOk a.core = true) (h : s.executing a.core = false) :
    exec i s = .next s :=
  (exec_classV hi hc).trans (congrArg _ (if_pos (by simp [h])))

section
variable (hi : (i, op) ∈ vForms a) (hc : coreOk a.core = true) (h : s.executing a.core = true)
include hi hc h

/-- A reserved funct3 is an illegal instruction. -/
theorem exec_classV_illegal (hf : 2 ≤ a.funct3.toNat) : exec i s = .next (s.illegal a.core (vWord a op)) :=
  (exec_classV hi hc).trans (congrArg _ ((if_neg (by simp [h])).trans (if_pos (decide_eq_true hf))))

theorem exec_classV_enters (hf : a.funct3.toNat < 2) : exec i s = .next (s.vEnter a.core (.v a op)) :=
  (exec_classV hi hc).trans (congrArg _ ((if_neg (by simp [h])).trans (if_neg (by simp [hf]))))

end

/-- A class V instruction that is performed at once: its effect on the core, its flags, and its entry. -/
theorem State.vEnter_classV (h : (s.core a.core).VReady) {c : CoreSt} {fl : Nat} (he : vEff a op (s.core a.core) = (c, fl)) :
    s.vEnter a.core (.v a op) =
      let t := (s.setCore a.core c).arith a.core fl
      t.setCore a.core ((t.core a.core).vPush ((s.core a.core).vItem (.v a op) true)) := by
  refine State.vEnter_done h rfl ?_
  simp only [State.vPerform, he]

end

/-! ### Lane operations (R53) -/

/-- The lanes of vd that the mask allows written with the results of an operation, and the flags that the active lanes raise. -/
def laneWrite (a : VArgs) (c : CoreSt) (g : Nat → FRes) : CoreSt × Nat :=
  let m := c.laneMask a.mask
  (c.setLanes a.vd m (laneOp m g).1, (laneOp m g).2)

/-- Lanes that raise no flag give none together, whatever the mask. -/
theorem foldl_noFlags (m : W32) :
    ∀ l : List (FRes × Nat), (∀ e ∈ l, e.1.2 = 0) → l.foldl (fun f e => if bit m e.2 then f ||| e.1.2 else f) 0 = 0
  | [], _ => rfl
  | e :: r, hl => by
    obtain ⟨he, hr⟩ := List.forall_mem_cons.1 hl
    simp only [List.foldl_cons, he, Nat.or_zero, ite_self]
    exact foldl_noFlags m r hr

theorem laneOp_noFlags (m : W32) (g : Nat → W32) : (laneOp m (fun l => (g l, 0))).2 = 0 := by
  refine foldl_noFlags m _ fun e he => ?_
  obtain ⟨-, -, hget⟩ := List.mem_zipIdx he
  rw [hget, List.getElem_map]

theorem laneOp_noFlags_words (m : W32) (g : Nat → W32) : (laneOp m (fun l => (g l, 0))).1 = (List.range 32).map g := by
  simp [laneOp]

theorem vecSel_eq (a : VArgs) (c : CoreSt) :
    vecSel a c = laneWrite a c (fun l => (if bit (c.pred 0) l then c.lane a.vs1 l else c.src2 a l, 0)) := by
  simp only [vecSel, laneWrite, laneOp_noFlags, laneOp_noFlags_words]

theorem vecBcast_eq (a : VArgs) (c : CoreSt) : vecBcast a c = laneWrite a c (fun _ => (c.rf a.vs1, 0)) := by
  simp only [vecBcast, laneWrite, laneOp_noFlags, laneOp_noFlags_words, List.map_const', List.length_range]

/-- Settles O4: each operation's effect is a write of the lanes, and the issue goes by the sequencer, funct3 and the vector queue. -/
theorem vectorLaneOperations : Obligations.VectorLaneOperations := by
  unfold Obligations.VectorLaneOperations
  intro s a i op g hc u c x y hi m rs entry
  have hform : (i, op) ∈ vForms a ∧ vEff a op c = laneWrite a c g := by
    rcases hi with ⟨rfl, rfl, rfl⟩ | ⟨rfl, rfl, rfl⟩ | ⟨rfl, rfl, rfl⟩ | ⟨rfl, rfl, rfl⟩ | ⟨rfl, rfl, rfl⟩ |
      ⟨rfl, rfl, rfl⟩ | ⟨rfl, rfl, rfl⟩ | ⟨rfl, rfl, rfl⟩ | ⟨rfl, rfl, rfl⟩ | ⟨rfl, rfl, rfl⟩ | ⟨rfl, rfl, rfl⟩ | ⟨rfl, rfl, rfl⟩
    iterate 10
      · exact ⟨by simp [vForms], rfl⟩
    · exact ⟨by simp [vForms], vecSel_eq a c⟩
    · exact ⟨by simp [vForms], vecBcast_eq a c⟩
  obtain ⟨hop, heff⟩ := hform
  refine ⟨exec_classV_idle hop hc, exec_classV_illegal hop hc, fun hx hf => ?_⟩
  rw [exec_classV_enters hop hc hx hf]
  exact ⟨fun hfull => congrArg _ (State.vEnter_full hfull),
    fun hroom hdone => congrArg _ (State.vEnter_classV ⟨hroom, hdone⟩ heff),
    fun hroom hwait => congrArg _ (State.vEnter_waits hroom (.inl hwait))⟩

/-! ### Comparisons, reductions and VSETS (R53, R55) -/

section
variable {s : State} {u : UnitId} {fs1 : RegNo}

theorem exec_vsets_idle (hc : coreOk u = true) (h : s.executing u = false) : exec (.vsets u fs1) s = .next s :=
  (onUnit_next hc).trans (congrArg _ (if_pos (by simp [h])))

theorem exec_vsets_enters (hc : coreOk u = true) (h : s.executing u = true) :
    exec (.vsets u fs1) s = .next (s.vEnter u (.sets fs1)) :=
  (onUnit_next hc).trans (congrArg _ (if_neg (by simp [h])))

end

/-- The comparisons, the reductions and VSETS, with their entries' operations. -/
def reduceForms (a : VArgs) : List (Instr × VOp) :=
  [(.vclt a, .v a 0x06), (.vceq a, .v a 0x07), (.vrsum a, .v a 0x18), (.vrmax a, .v a 0x19), (.vsets a.core a.vs1, .sets a.vs1)]

/-- One of them is VSETS, or a class V command. -/
theorem reduceForms_cases {a : VArgs} {i : Instr} {op : VOp} (hi : (i, op) ∈ reduceForms a) :
    (∃ o, (i, o) ∈ vForms a ∧ op = .v a o ∧ i ≠ .vsets a.core a.vs1) ∨ (i = .vsets a.core a.vs1 ∧ op = .sets a.vs1) := by
  simp only [reduceForms, List.mem_cons, Prod.mk.injEq, List.not_mem_nil, or_false] at hi
  rcases hi with ⟨rfl, rfl⟩ | ⟨rfl, rfl⟩ | ⟨rfl, rfl⟩ | ⟨rfl, rfl⟩ | hsets
  iterate 4
    · exact .inl ⟨_, by simp [vForms], rfl, by simp⟩
  · exact .inr hsets

section
variable {s : State} {a : VArgs} {i : Instr} {op : VOp} (hi : (i, op) ∈ reduceForms a) (hc : coreOk a.core = true)
include hi hc

theorem exec_reduceForms_idle (h : s.executing a.core = false) : exec i s = .next s := by
  obtain ⟨o, ho, -, -⟩ | ⟨rfl, -⟩ := reduceForms_cases hi
  · exact exec_classV_idle ho hc h
  · exact exec_vsets_idle hc h

theorem exec_reduceForms_enters (h : s.executing a.core = true) (hf : a.funct3.toNat < 2 ∨ i = .vsets a.core a.vs1) :
    exec i s = .next (s.vEnter a.core op) := by
  obtain ⟨o, ho, rfl, hne⟩ | ⟨rfl, rfl⟩ := reduceForms_cases hi
  · exact exec_classV_enters ho hc h (hf.resolve_right hne)
  · exact exec_vsets_enters hc h

end

/-! ### Completion (R49, R57) -/

/-- The oldest entry leaves the vector queue and the queue's counter advances. -/
def State.vLeave (s : State) (u : UnitId) : State :=
  let c := (s.core u).vPop
  s.setCore u (c.setQueue qVec { c.queue qVec with counter := (c.queue qVec).counter + 1 })

section
variable {s : State} {u : UnitId}

theorem vecComplete_empty (h : (s.core u).vq = []) : vecComplete u s = s := by
  simp only [vecComplete, h]

section
variable {e : VItem} {r : List VItem} (hq : (s.core u).vq = e :: r)
include hq

theorem vecComplete_done (hd : e.done = true) : vecComplete u s = s.vLeave u := by
  simp only [vecComplete, hq, hd, if_true, State.vLeave]

section
variable (hd : e.done = false)
include hd

theorem vecComplete_waits (hw : (s.core u).vWaits e = true) : vecComplete u s = s := by
  simp only [vecComplete, hq, hd, hw, if_true, Bool.false_eq_true, if_false]

variable (hw : (s.core u).vWaits e = false)
include hw

theorem vecComplete_performed {t : State} (ht : s.vTurn u e = .done t) : vecComplete u s = t.vLeave u := by
  simp only [vecComplete, hq, hd, hw, ht, Bool.false_eq_true, if_false, State.vLeave]

theorem vecComplete_exception {t : State} {k : Nat} {v : W32} (ht : s.vTurn u e = .exc t k v) :
    vecComplete u s = (t.setCore u (t.core u).vPop).trap u k v := by
  simp only [vecComplete, hq, hd, hw, ht, Bool.false_eq_true, if_false]

end
end
end

/-- Settles O5: each of the five commands enters the queue with its effect on the core, and a completion goes by the oldest entry. -/
theorem vectorComparesAndReductions : Obligations.VectorComparesAndReductions := by
  unfold Obligations.VectorComparesAndReductions
  intro s a hc u c y m cmp red entry enters
  have hclt : (Instr.vclt a, 0x06) ∈ vForms a := by simp [vForms]
  have hceq : (Instr.vceq a, 0x07) ∈ vForms a := by simp [vForms]
  have hrsum : (Instr.vrsum a, 0x18) ∈ vForms a := by simp [vForms]
  have hrmax : (Instr.vrmax a, 0x19) ∈ vForms a := by simp [vForms]
  refine ⟨fun i op hi => ⟨exec_reduceForms_idle hi hc, fun hx hf => ?issue⟩, fun hx hroom hdone => ?performed,
    fun hx hf => ?illegal, ?complete⟩
  case issue =>
    rw [exec_reduceForms_enters hi hc hx hf]
    exact ⟨fun hfull => congrArg _ (State.vEnter_full hfull), fun hroom hwait => congrArg _ (State.vEnter_waits hroom (.inl hwait))⟩
  case performed =>
    have hr : c.VReady := ⟨hroom, hdone⟩
    have hperf : ∀ {i : Instr} {op fl : Nat} {d : CoreSt}, (i, op) ∈ vForms a → a.funct3.toNat < 2 → vEff a op c = (d, fl) →
        exec i s = enters ((s.setCore u d).arith u fl) (.v a op) := fun hi hf he =>
      (exec_classV_enters hi hc hx hf).trans (congrArg _ (State.vEnter_classV hr he))
    exact ⟨fun hf => ⟨hperf hclt hf rfl, hperf hceq hf rfl, hperf hrsum hf rfl, hperf hrmax hf rfl⟩,
      (exec_vsets_enters hc hx).trans (congrArg _ (State.vEnter_done hr rfl rfl))⟩
  case illegal =>
    exact ⟨exec_classV_illegal hclt hc hx hf, exec_classV_illegal hceq hc hx hf, exec_classV_illegal hrsum hc hx hf,
      exec_classV_illegal hrmax hc hx hf⟩
  case complete =>
    intro leave
    have hexec : ∀ {t : State}, vecComplete u s = t → exec (.vectorInstructionComplete u) s = .next t := fun h =>
      (onUnit_next hc).trans (congrArg _ h)
    exact ⟨fun hq => hexec (vecComplete_empty hq), fun e r hq => ⟨fun hd => hexec (vecComplete_done hq hd),
      fun hd hw => hexec (vecComplete_waits hq hd hw), fun t hd hw ht => hexec (vecComplete_performed hq hd hw ht),
      fun t k v hd hw ht => hexec (vecComplete_exception hq hd hw ht)⟩⟩

end Sys2Proof.Machine
end

section
/-! Class M (R54, R56, R57, R62): which forms are legal, and what each operation does to the state. -/

namespace Sys2Proof.Machine

/-! ### Class M issues (R54, R56) -/

/-- The commands of class M, with their funct3. -/
def mForms (a : MArgs) : List (Instr × Nat) :=
  [(.vld a, 0), (.vst a, 1), (.vldg a, 2), (.vsta a, 3), (.vacc a, 4), (.vcvt a, 5)]

/-- The formats that an operation of class M takes, of those that are not reserved. -/
def mFmtOk (f3 fmt : Nat) : Bool :=
  match f3 with
  | 2 => decide (1 ≤ fmt) && decide (fmt ≤ 6)
  | 3 => decide (fmt = 6)
  | _ => true

/-- A class M instruction that is no illegal one. -/
structure MLegal (a : MArgs) (f3 : Nat) : Prop where
  rnd : a.rnd ≠ 3
  known : fmtReserved a.fmt.toNat = false
  gather : f3 = 2 → 1 ≤ a.fmt.toNat ∧ a.fmt.toNat ≤ 6
  scatter : f3 = 3 → a.fmt.toNat = 6

theorem mFmtOk_iff {f3 fmt : Nat} : mFmtOk f3 fmt = true ↔ (f3 = 2 → 1 ≤ fmt ∧ fmt ≤ 6) ∧ (f3 = 3 → fmt = 6) := by
  unfold mFmtOk
  split
  · simp
  · simp
  next h2 h3 => exact ⟨fun _ => ⟨fun h => absurd h h2, fun h => absurd h h3⟩, fun _ => rfl⟩

/-- The model's test of an illegal instruction. -/
theorem mLegal_iff {a : MArgs} {f3 : Nat} :
    (decide (a.rnd = 3) || fmtReserved a.fmt.toNat || !mFmtOk f3 a.fmt.toNat) = false ↔ MLegal a f3 := by
  simp only [Bool.or_eq_false_iff, decide_eq_false_iff_not, Bool.not_eq_false', mFmtOk_iff]
  exact ⟨fun ⟨⟨hr, hk⟩, hg, hs⟩ => ⟨hr, hk, hg, hs⟩, fun ⟨hr, hk, hg, hs⟩ => ⟨⟨hr, hk⟩, hg, hs⟩⟩

section
variable {s : State} {a : MArgs} {i : Instr} {f3 : Nat} (hi : (i, f3) ∈ mForms a) (hc : coreOk a.core = true)
include hi hc

theorem exec_classM : exec i s = .next (s.mIssue a f3 (mFmtOk f3)) := by
  have hall : ∀ p ∈ mForms a, exec p.1 s = onUnit (coreOk a.core) (s.mIssue a p.2 (mFmtOk p.2)) := by
    simp only [mForms, List.forall_mem_cons]
    exact ⟨rfl, rfl, rfl, rfl, rfl, rfl, List.forall_mem_nil _⟩
  exact (hall _ hi).trans (onUnit_next hc)

theorem exec_classM_idle (h : s.executing a.core = false) : exec i s = .next s :=
  (exec_classM hi hc).trans (congrArg _ (if_pos (by simp [h])))

variable (h : s.executing a.core = true)
include h

theorem exec_classM_illegal (hl : ¬ MLegal a f3) : exec i s = .next (s.illegal a.core (mWord a f3)) :=
  (exec_classM hi hc).trans (congrArg _
    ((if_neg (by simp [h])).trans (if_pos (by rwa [← mLegal_iff, Bool.not_eq_false] at hl))))

variable (hl : MLegal a f3)
include hl

theorem exec_classM_enters : exec i s = .next (s.vEnter a.core (.m a f3)) :=
  (exec_classM hi hc).trans (congrArg _
    ((if_neg (by simp [h])).trans (if_neg (by rw [mLegal_iff.2 hl]; exact Bool.false_ne_true))))

/-- A class M instruction that is performed at once, for its effect or its exception. -/
theorem exec_classM_done (hr : (s.core a.core).VReady)
    (hw : ¬ (f3 = 4 ∧ (s.core a.core).accBusy (s.core a.core).issued (fld ((s.core a.core).rx a.rs1) 0 2) = true))
    {t : State} (he : mEff a f3 s = .done t) :
    exec i s = .next (t.setCore a.core ((t.core a.core).vPush ((s.core a.core).vItem (.m a f3) true))) :=
  (exec_classM_enters hi hc h hl).trans (congrArg _ (State.vEnter_done hr (by rwa [← CoreSt.vWaits_m, Bool.not_eq_true] at hw) he))

theorem exec_classM_exc (hr : (s.core a.core).VReady) (h4 : f3 ≠ 4) {t : State} {k : Nat} {v : W32} (he : mEff a f3 s = .exc t k v) :
    exec i s = .next (t.trap a.core k v) :=
  (exec_classM_enters hi hc h hl).trans (congrArg _
    (State.vEnter_exc hr (Bool.eq_false_iff.2 (mt CoreSt.vWaits_m.1 (fun hw => h4 hw.1))) he))

end

/-! ### The effects of class M (R54) -/

/-- The lanes of vd written with the words of a list, and the list's flags raised beside those given. -/
def State.loadLanes (s : State) (a : MArgs) (rs : List FRes) (fl : Nat) : State :=
  (s.setCore a.core ((s.core a.core).setLanes a.vd 0xFFFFFFFF#32 (rs.map (·.1)))).arith a.core (rs.foldl (fun x r => x ||| r.2) fl)

/-- The row that VLD or VST names is aligned for its format and lies in the scratchpad. -/
structure RowOk (a : MArgs) (c : CoreSt) : Prop where
  aligned : (c.rx a.rs1).toNat % mAlign a.fmt.toNat = 0
  inside : (c.rx a.rs1).toNat + rowBytes a.fmt.toNat ≤ spSize

section
variable {s : State} {a : MArgs}

theorem vld_misaligned (h : ((s.core a.core).rx a.rs1).toNat % mAlign a.fmt.toNat ≠ 0) :
    vld a s = .exc s exLoadMis ((s.core a.core).rx a.rs1) := if_pos h

theorem vst_misaligned (h : ((s.core a.core).rx a.rs1).toNat % mAlign a.fmt.toNat ≠ 0) :
    vst a s = .exc s exStoreMis ((s.core a.core).rx a.rs1) := if_pos h

section
variable (h : ((s.core a.core).rx a.rs1).toNat % mAlign a.fmt.toNat = 0)
  (ho : spSize < ((s.core a.core).rx a.rs1).toNat + rowBytes a.fmt.toNat)
include h ho

theorem vld_outside : vld a s = .exc s exLoad ((s.core a.core).rx a.rs1) := (if_neg (not_not_intro h)).trans (if_pos ho)

theorem vst_outside : vst a s = .exc s exStore ((s.core a.core).rx a.rs1) := (if_neg (not_not_intro h)).trans (if_pos ho)

end

section
variable (h : RowOk a (s.core a.core))
include h

/-- VLD of a row in place, whose scale byte, where it has one, is in place too. -/
theorem vld_inside (hs : isMx a.fmt.toNat = true → ((s.core a.core).rx a.rs2).toNat < spSize) :
    vld a s =
      let fmt := a.fmt.toNat
      let row := s.spRead a.core ((s.core a.core).rx a.rs1).toNat (rowBytes fmt)
      let scale := if isMx fmt then row.2.spRead a.core ((s.core a.core).rx a.rs2).toNat 1 else (some [0], row.2)
      match row.1, scale.1 with
      | some bs, some sb =>
        .done (scale.2.loadLanes a ((unpackElems (elemBits fmt) 32 bs).map (loadLane fmt (ofBytesLE sb) (s.core a.core).vscale))
          (flIf (isMx fmt && decide (ofBytesLE sb = 0xFF)) flMXNAN))
      | _, _ => .exc scale.2 exLoad ((s.core a.core).rx a.rs1) := by
  have hin : ¬ (isMx a.fmt.toNat && decide (spSize ≤ ((s.core a.core).rx a.rs2).toNat)) = true := by simpa using hs
  refine (if_neg (not_not_intro h.aligned)).trans ((if_neg (Nat.not_lt.2 h.inside)).trans ((if_neg hin).trans ?_))
  rfl

/-- VLD of a format without blocks: its lanes, or the exception where a word is uncorrectable (R62). -/
theorem vld_row (hm : isMx a.fmt.toNat = false) {row : Option (List Byte)} {t : State}
    (hr : s.spRead a.core ((s.core a.core).rx a.rs1).toNat (rowBytes a.fmt.toNat) = (row, t)) :
    vld a s = match row with
      | some bs => .done (t.loadLanes a ((unpackElems (elemBits a.fmt.toNat) 32 bs).map
          (loadLane a.fmt.toNat 0 (s.core a.core).vscale)) 0)
      | none => .exc t exLoad ((s.core a.core).rx a.rs1) := by
  rw [vld_inside h (by simp [hm])]
  simp only [hm, hr]
  cases row <;> rfl

/-- VLD of a block with its scale byte (R23, R24). -/
theorem vld_block (hm : isMx a.fmt.toNat = true) (hs : ((s.core a.core).rx a.rs2).toNat < spSize) {bs : List Byte} {sb : Byte}
    {t t' : State} (hr : s.spRead a.core ((s.core a.core).rx a.rs1).toNat (rowBytes a.fmt.toNat) = (some bs, t))
    (hsb : t.spRead a.core ((s.core a.core).rx a.rs2).toNat 1 = (some [sb], t')) :
    vld a s = .done (t'.loadLanes a ((unpackElems (elemBits a.fmt.toNat) 32 bs).map
      (loadLane a.fmt.toNat sb.toNat (s.core a.core).vscale)) (flIf (decide (sb = 0xFF)) flMXNAN)) := by
  have hscale : ofBytesLE [sb] = sb.toNat := rfl
  have hff : (sb.toNat = 0xFF) = (sb = 0xFF) := by simp [BitVec.toNat_eq]
  rw [vld_inside h (fun _ => hs)]
  simp only [hm, hr, hsb, if_true, hscale, hff, Bool.true_and]

/-- VST of a format without blocks: the lanes of vd converted (R28). -/
theorem vst_row (hm : isMx a.fmt.toNat = false) :
    vst a s =
      let c := s.core a.core
      let r := convList a.fmt.toNat a.rnd.toNat a.sat c.vscale c.gen (c.lanes a.vd)
      .done (((s.setCore a.core { c with gen := r.2.2 }).spWrite a.core (c.rx a.rs1).toNat
        (packElems (elemBits a.fmt.toNat) r.1)).arith a.core r.2.1) :=
  (if_neg (not_not_intro h.aligned)).trans ((if_neg (Nat.not_lt.2 h.inside)).trans
    ((if_neg (by simp [hm])).trans (if_neg (by simp [hm]))))

/-- VST of a block: its elements, and its scale byte (R29). -/
theorem vst_block (hm : isMx a.fmt.toNat = true) (hs : ((s.core a.core).rx a.rs2).toNat < spSize) :
    vst a s =
      let c := s.core a.core
      let r := mxBlock a.fmt.toNat a.rnd.toNat a.sat c.gen (c.lanes a.vd)
      .done ((((s.setCore a.core { c with gen := r.2.2.2 }).spWrite a.core (c.rx a.rs1).toNat
        (packElems (elemBits a.fmt.toNat) r.2.1)).spWrite a.core (c.rx a.rs2).toNat (bytesLE 1 r.1)).arith a.core r.2.2.1) :=
  (if_neg (not_not_intro h.aligned)).trans ((if_neg (Nat.not_lt.2 h.inside)).trans
    ((if_neg (by simp [hs])).trans (if_pos hm)))

end

/-- VLDG with every element in the scratchpad and readable. -/
theorem vldg_elements {ns : List Nat} {t : State}
    (hin : (laneAddrs (s.core a.core) ((s.core a.core).rx a.rs1) a.rs2 (elemBits a.fmt.toNat / 8)).all
      (inSp (elemBits a.fmt.toNat / 8)) = true)
    (hg : s.gatherElems a.core (elemBits a.fmt.toNat / 8)
      (laneAddrs (s.core a.core) ((s.core a.core).rx a.rs1) a.rs2 (elemBits a.fmt.toNat / 8)) = (some ns, t)) :
    vldg a s = .done (t.setCore a.core ((t.core a.core).setLanes a.vd 0xFFFFFFFF#32 (ns.map (backToF32 a.fmt.toNat)))) := by
  simp only [vldg, hin, hg, Bool.not_true, Bool.false_eq_true, if_false]

/-- VSTA with every element in the scratchpad and readable. -/
theorem vsta_adds {ns : List Nat} {t t' : State} {fl : Nat}
    (hin : (laneAddrs (s.core a.core) ((s.core a.core).rx a.rs1) a.rs2 4).all (inSp 4) = true)
    (hg : s.gatherElems a.core 4 (laneAddrs (s.core a.core) ((s.core a.core).rx a.rs1) a.rs2 4) = (some ns, t))
    (hadd : t.scatterAdd a.core ((laneAddrs (s.core a.core) ((s.core a.core).rx a.rs1) a.rs2 4).zip ((s.core a.core).lanes a.vd)) =
      some (t', fl)) :
    vsta a s = .done (t'.arith a.core fl) := by
  simp only [vsta, hin, hg, hadd, Bool.not_true, Bool.false_eq_true, if_false]

theorem vcvt_row (hm : isMx a.fmt.toNat = false) :
    vcvt a s =
      let c := s.core a.core
      let r := convList a.fmt.toNat a.rnd.toNat a.sat 0x3F800000#32 c.gen (c.lanes a.rs2)
      .done ((s.setCore a.core (({ c with gen := r.2.2 }).setLanes a.vd 0xFFFFFFFF#32 (r.1.map (backToF32 a.fmt.toNat)))).arith
        a.core r.2.1) :=
  if_neg (by simp [hm])

theorem vcvt_block (hm : isMx a.fmt.toNat = true) :
    vcvt a s =
      let c := s.core a.core
      let r := mxBlock a.fmt.toNat a.rnd.toNat a.sat c.gen (c.lanes a.rs2)
      .done ((s.setCore a.core (({ c with gen := r.2.2.2 }).setLanes a.vd 0xFFFFFFFF#32
        (r.2.1.map (fun n => (widen (mxVal a.fmt.toNat r.1 n)).1)))).arith a.core r.2.2.1) :=
  if_pos hm

end

/-- Settles O6: the illegal forms, the stall and the wait as the vector queue has them, and then each operation's effect. -/
theorem vectorMemory : Obligations.VectorMemory := by
  unfold Obligations.VectorMemory
  intro s a hc u c fmt ad sc set forms entry enters
  refine ⟨fun i f3 hi => ⟨exec_classM_idle hi hc, fun hx => ⟨fun hbad => ?illegal, fun hr hk hg hs => ?queue⟩⟩,
    fun hx hroom hdone hr hk => ?performed⟩
  case illegal =>
    refine exec_classM_illegal hi hc hx fun ⟨hr, hk, hg, hs⟩ => ?_
    rcases hbad with h | h | ⟨h2, h⟩ | ⟨h3, h⟩
    · exact hr h
    · exact Bool.false_ne_true (hk.symm.trans h)
    · exact h (hg h2)
    · exact h (hs h3)
  case queue =>
    rw [exec_classM_enters hi hc hx ⟨hr, hk, hg, hs⟩]
    exact ⟨fun hfull => congrArg _ (State.vEnter_full hfull),
      fun hlt hwait => congrArg _ (State.vEnter_waits hlt (hwait.imp_right CoreSt.vWaits_m.2))⟩
  case performed =>
    have hready : c.VReady := ⟨hroom, hdone⟩
    have hlegal : ∀ {f3}, f3 ≠ 2 → f3 ≠ 3 → MLegal a f3 :=
      fun h2 h3 => ⟨hr, hk, fun h => absurd h h2, fun h => absurd h h3⟩
    have hdo : ∀ i f3 {t}, (i, f3) ∈ forms → MLegal a f3 → f3 ≠ 4 → mEff a f3 s = .done t → exec i s = enters t f3 :=
      fun _ _ _ hi hl h4 he => exec_classM_done hi hc hx hl hready (fun hw => h4 hw.1) he
    have htrap : ∀ i f3 {t k v}, (i, f3) ∈ forms → MLegal a f3 → f3 ≠ 4 → mEff a f3 s = .exc t k v →
        exec i s = .next (t.trap u k v) :=
      fun _ _ _ _ _ hi hl h4 he => exec_classM_exc hi hc hx hl hready h4 he
    have hld {t} := hdo (.vld a) 0 (t := t) (by simp [forms]) (hlegal (by decide) (by decide)) (by decide)
    have hst {t} := hdo (.vst a) 1 (t := t) (by simp [forms]) (hlegal (by decide) (by decide)) (by decide)
    have hcvt {t} := hdo (.vcvt a) 5 (t := t) (by simp [forms]) (hlegal (by decide) (by decide)) (by decide)
    have hldTrap {t k v} := htrap (.vld a) 0 (t := t) (k := k) (v := v) (by simp [forms]) (hlegal (by decide) (by decide)) (by decide)
    have hstTrap {t k v} := htrap (.vst a) 1 (t := t) (k := k) (v := v) (by simp [forms]) (hlegal (by decide) (by decide)) (by decide)
    refine ⟨fun bs t hm ha hb hrd => hld (vld_row ⟨ha, hb⟩ hm hrd),
      fun bs sb t t' hm ha hb hsc hrd hsb => hld (vld_block ⟨ha, hb⟩ hm hsc hrd hsb),
      fun t ha hb hm hrd => hldTrap (vld_row ⟨ha, hb⟩ hm hrd), fun hm ha hb => hst (vst_row ⟨ha, hb⟩ hm),
      fun hm ha hb hsc => hst (vst_block ⟨ha, hb⟩ hm hsc), fun ns t h1 h6 hin hrd => ?gather,
      fun ns t t' fl h6 hin hrd hadd => ?scatter,
      fun hbusy => ?acc, fun hm => hcvt (vcvt_row hm), fun hm => hcvt (vcvt_block hm),
      fun ha => ⟨hldTrap (vld_misaligned ha), hstTrap (vst_misaligned ha)⟩,
      fun ha ho => ⟨hldTrap (vld_outside ha ho), hstTrap (vst_outside ha ho)⟩⟩
    case gather =>
      exact hdo (.vldg a) 2 (by simp [forms]) ⟨hr, hk, fun _ => ⟨h1, h6⟩, by simp⟩ (by decide) (vldg_elements hin hrd)
    case scatter =>
      exact hdo (.vsta a) 3 (by simp [forms]) ⟨hr, hk, by simp, fun _ => h6⟩ (by decide) (vsta_adds hin hrd hadd)
    case acc =>
      exact exec_classM_done (i := .vacc a) (f3 := 4) (by simp [mForms]) hc hx (hlegal (by decide) (by decide)) hready
        (fun hw => Bool.false_ne_true (hbusy.symm.trans hw.2)) rfl

end Sys2Proof.Machine
end

section
/-! Classes Q and S of the core (R49 to R51, R55): submission, waiting, status and reset of queues, the fences and the preemption check. -/

namespace Sys2Proof.Machine

/-! ### Submission (R50) -/

section
variable {s : State} {u : UnitId} {n : Nat} {rd rs1 : RegNo}

theorem submit_idle (hx : s.executing u = false) : submit u n rd rs1 s = s := if_pos (by simp [hx])

section
variable (hx : s.executing u = true)
include hx

theorem submit_misaligned (ha : ((s.core u).rx rs1).toNat % 64 ≠ 0) :
    submit u n rd rs1 s = s.trap u exLoadMis ((s.core u).rx rs1) :=
  (if_neg (by simp [hx])).trans (if_pos ha)

section
variable (ha : ((s.core u).rx rs1).toNat % 64 = 0)
include ha

theorem submit_outside (ho : spSize < ((s.core u).rx rs1).toNat + 64) :
    submit u n rd rs1 s = s.trap u exLoad ((s.core u).rx rs1) :=
  (if_neg (by simp [hx])).trans ((if_neg (not_not_intro ha)).trans (if_pos ho))

variable (hin : ((s.core u).rx rs1).toNat + 64 ≤ spSize)
include hin

/-- A full queue stalls a submission. -/
theorem submit_full (hf : 8 ≤ ((s.core u).queue n).waiting.length) : submit u n rd rs1 s = s :=
  (if_neg (by simp [hx])).trans ((if_neg (not_not_intro ha)).trans ((if_neg (Nat.not_lt.2 hin)).trans (if_pos (decide_eq_true hf))))

variable (hroom : ((s.core u).queue n).waiting.length < 8) {t : State}
include hroom

/-- A descriptor in place, for a queue with room, goes by its words. -/
theorem submit_read {r : Option (List W32)} (hr : s.spReadWs u ((s.core u).rx rs1).toNat 16 = (r, t)) :
    submit u n rd rs1 s = match r with
      | none => t.trap u exLoad ((s.core u).rx rs1)
      | some ws =>
        let q := (s.core u).queue n
        let c := t.core u
        t.setCore u (((c.setQueue n { q with
          waiting := q.waiting ++ [⟨((s.core u).rx rs1).toNat, ws, c.issued, c.epoch⟩] }).issue.wx rd
            (w32 (q.counter + BitVec.ofNat 16 (q.occ + 1)).toNat)).advance) := by
  simp only [submit, hx, ha, Nat.not_lt.2 hin, Nat.not_le.2 hroom, hr, Bool.not_true, Bool.false_eq_true, ne_eq, not_true,
    decide_false, if_false]
  cases r <;> rfl

end
end

/-- TSUB submits to queue 1, and DSUB to the queue of its channel. -/
theorem exec_submission {rs2 : RegNo} {c : Instr} (hu : coreOk u = true)
    (hc : (c = .tsub u rd rs1 ∧ n = 1) ∨ (c = .dsub u rd rs1 rs2 ∧ n = 2 + fld ((s.core u).rx rs2) 0 2)) :
    exec c s = .next (submit u n rd rs1 s) := by
  rcases hc with ⟨rfl, rfl⟩ | ⟨rfl, rfl⟩
  · exact onUnit_next hu
  · exact onUnit_next hu

end

/-- Settles O2: both commands are one submission, which goes by the address, the room in the queue and the words read. -/
theorem queueSubmission : Obligations.QueueSubmission := by
  unfold Obligations.QueueSubmission
  intro s t u rd rs1 rs2 ws n c hu hc ad q
  have hexec : ∀ {z : State}, submit u n rd rs1 s = z → exec c s = .next z := fun h =>
    (exec_submission hu hc).trans (congrArg _ h)
  exact ⟨fun hx => hexec (submit_idle hx), fun hx =>
    ⟨fun ha hin hroom => ⟨fun hr => hexec (submit_read hx ha hin hroom hr), fun hr => hexec (submit_read hx ha hin hroom hr)⟩,
      fun ha hin hfull => hexec (submit_full hx ha hin hfull), fun ha ho => hexec (submit_outside hx ha ho),
      fun ha => hexec (submit_misaligned hx ha)⟩⟩

/-! ### Waiting and status (R49 to R51) -/

theorem queueOk_iff {n : Nat} : queueOk n = true ↔ 1 ≤ n ∧ n ≤ 6 := by simp [queueOk]

theorem queueOk_eq_false_iff {n : Nat} : queueOk n = false ↔ n = 0 ∨ 6 < n := by
  rw [Bool.eq_false_iff, Ne, queueOk_iff]
  omega

section
variable {s : State} {u : UnitId} {rd rs1 rs2 : RegNo}

theorem qwait_idle (hx : s.executing u = false) : qwait u rd rs1 rs2 s = s := if_pos (by simp [hx])
theorem qstat_idle (hx : s.executing u = false) : qstat u rd rs1 s = s := if_pos (by simp [hx])
theorem qrst_idle (hx : s.executing u = false) : qrst u rs1 s = s := if_pos (by simp [hx])

section
variable {n : Nat} (hx : s.executing u = true) (hr : ((s.core u).rx rs1).toNat = n)
include hx hr

/-! A number that names no queue. -/

section
variable (hn : queueOk n = false)
include hn

section
variable {v : W32} {t : State} (hd : s.draw = (v, t))
include hd

theorem qwait_noQueue : qwait u rd rs1 rs2 s = t.setCore u (((s.core u).wx rd v).advance) := by
  simp only [qwait, hx, hr, hn, hd, Bool.not_true, Bool.false_eq_true, if_false, Bool.not_false, if_true]

theorem qstat_noQueue : qstat u rd rs1 s = t.setCore u (((s.core u).wx rd v).advance) := by
  simp only [qstat, hx, hr, hn, hd, Bool.not_true, Bool.false_eq_true, if_false, Bool.not_false, if_true]

end

theorem qrst_noQueue : qrst u rs1 s = s.setCore u (s.core u).advance :=
  (if_neg (by simp [hx])).trans (if_pos (by simp [hr, hn]))

end

/-! A queue. -/

section
variable (hn : queueOk n = true)
include hn

/-- QWAIT of a queue, by the queue's state. -/
theorem qwait_queue :
    qwait u rd rs1 rs2 s =
      let c := s.core u
      if (c.queue n).halted then s.setCore u ((c.wx rd 1).advance)
      else if reached (c.queue n).counter (BitVec.ofNat 16 (fld (c.rx rs2) 0 16)) then s.setCore u ((c.wx rd 0).advance)
      else s := by
  subst hr
  exact (if_neg (by simp [hx])).trans (if_neg (by simp [hn]))

theorem qwait_halted (hh : ((s.core u).queue n).halted = true) :
    qwait u rd rs1 rs2 s = s.setCore u (((s.core u).wx rd 1).advance) :=
  (qwait_queue hx hr hn).trans (if_pos hh)

section
variable (hh : ((s.core u).queue n).halted = false)
include hh

theorem qwait_reached (hc : (((s.core u).queue n).counter - BitVec.ofNat 16 (fld ((s.core u).rx rs2) 0 16)).toNat < 2 ^ 15) :
    qwait u rd rs1 rs2 s = s.setCore u (((s.core u).wx rd 0).advance) :=
  (qwait_queue hx hr hn).trans ((if_neg (by simp [hh])).trans (if_pos (decide_eq_true hc)))

theorem qwait_waits (hc : 2 ^ 15 ≤ (((s.core u).queue n).counter - BitVec.ofNat 16 (fld ((s.core u).rx rs2) 0 16)).toNat) :
    qwait u rd rs1 rs2 s = s :=
  (qwait_queue hx hr hn).trans ((if_neg (by simp [hh])).trans (if_neg (by rw [reached, decide_eq_true_eq]; exact Nat.not_lt.2 hc)))

end

theorem qstat_queue :
    qstat u rd rs1 s =
      let c := s.core u
      s.setCore u ((c.wx rd (if n = qVec then (c.queue n).stat + w32 c.vq.length else (c.queue n).stat)).advance) := by
  subst hr
  exact (if_neg (by simp [hx])).trans (if_neg (by simp [hn]))

end
end
end

/-! ### Reset of a queue (R50, R51) -/

/-- Whether QRST of queue n waits: for what is being written out, and, unless the queue is halted, for what is in progress. -/
def CoreSt.qBusy (c : CoreSt) (n : Nat) : Bool :=
  let q := c.queue n
  (!q.halted && (q.running.isSome || (decide (n = qVec) && !c.vq.isEmpty))) || q.out.isSome

theorem CoreSt.qBusy_iff {c : CoreSt} {n : Nat} : c.qBusy n = true ↔
    (c.queue n).out ≠ none ∨ ((c.queue n).halted = false ∧ ((c.queue n).running ≠ none ∨ (n = 6 ∧ c.vq ≠ []))) := by
  rw [or_comm]
  simp [CoreSt.qBusy, Option.isSome_iff_ne_none]
  rfl

theorem CoreSt.qBusy_eq_false_iff {c : CoreSt} {n : Nat} : c.qBusy n = false ↔
    (c.queue n).out = none ∧ ((c.queue n).halted = true ∨ ((c.queue n).running = none ∧ (n = 6 → c.vq = []))) := by
  rw [Bool.eq_false_iff, Ne, CoreSt.qBusy_iff, not_or, Classical.not_not, Classical.not_and_iff_not_or_not, not_or, Classical.not_not,
    not_and, Classical.not_not, Bool.not_eq_false]

section
variable {s : State} {u : UnitId} {rs1 : RegNo} {n : Nat} (hx : s.executing u = true) (hr : ((s.core u).rx rs1).toNat = n)
  (hn : queueOk n = true)
include hx hr hn

theorem qrst_queue :
    qrst u rs1 s =
      let c := s.core u
      if c.qBusy n then s
      else
        let t := s.setCore u ((c.setQueue n { c.queue n with waiting := [], halted := false, cause := 0 }).advance)
        if 2 ≤ n ∧ n ≤ 5 then t.raDiscard u (n - 2) else t := by
  subst hr
  exact (if_neg (by simp [hx])).trans (if_neg (by simp [hn]))

theorem qrst_waits (hb : (s.core u).qBusy n = true) : qrst u rs1 s = s := (qrst_queue hx hr hn).trans (if_pos hb)

/-- An idle or halted queue is emptied, with its channel's run-ahead data. -/
theorem qrst_resets (hb : (s.core u).qBusy n = false) :
    qrst u rs1 s =
      let c := s.core u
      let t := s.setCore u ((c.setQueue n { c.queue n with waiting := [], halted := false, cause := 0 }).advance)
      if 2 ≤ n ∧ n ≤ 5 then t.raDiscard u (n - 2) else t :=
  (qrst_queue hx hr hn).trans (if_neg (ne_true_of_eq_false hb))

end

/-! ### Fences and the preemption check (R55) -/

/-- A DMA descriptor is in progress that does not stall for a context: it may have issued writes (R75). -/
theorem CoreSt.dmaWriting_iff {c : CoreSt} :
    [2, 3, 4, 5].any (fun n => (c.queue n).running.any (fun d => !d.stalled)) = true ↔
      ∃ k d, 2 ≤ k ∧ k ≤ 5 ∧ (c.queue k).running = some d ∧ d.stalled = false := by
  have hk : ∀ k, k ∈ [2, 3, 4, 5] ↔ 2 ≤ k ∧ k ≤ 5 := fun k => by simp; omega
  simp only [List.any_eq_true, hk, Option.any_eq_true, Bool.not_eq_true', ← exists_and_left, and_assoc]

section
variable {s : State} {u : UnitId} {rd : RegNo}

theorem dfence_idle (hx : s.executing u = false) : dfence u s = s := if_pos (by simp [hx])
theorem sigflush_idle (hx : s.executing u = false) : sigflush u s = s := if_pos (by simp [hx])
theorem pchk_idle (hx : s.executing u = false) : pchk u rd s = s := if_pos (by simp [hx])

theorem dfence_waits {k : Nat} {d : DescRun} (h2 : 2 ≤ k) (h5 : k ≤ 5) (hd : ((s.core u).queue k).running = some d)
    (hs : d.stalled = false) : dfence u s = s :=
  if_pos (by rw [CoreSt.dmaWriting_iff.2 ⟨k, d, h2, h5, hd, hs⟩, Bool.or_true])

theorem sigflush_waits (hq : (s.core u).sigQ ≠ []) : sigflush u s = s := if_pos (by simp [hq])

section
variable (hx : s.executing u = true)
include hx

theorem dfence_passes (h : ∀ k d, 2 ≤ k → k ≤ 5 → ((s.core u).queue k).running = some d → d.stalled = true) :
    dfence u s = s.setCore u (s.core u).advance := by
  refine if_neg ?_
  rw [hx, Bool.not_true, Bool.false_or, CoreSt.dmaWriting_iff]
  rintro ⟨k, d, h2, h5, hd, hs⟩
  exact Bool.false_ne_true (hs.symm.trans (h k d h2 h5 hd))

theorem sigflush_passes (hq : (s.core u).sigQ = []) : sigflush u s = s.setCore u (s.core u).advance :=
  if_neg (by simp [hx, hq])

theorem pchk_reads :
    pchk u rd s = s.setCore u (((s.core u).wx rd (w32 (fld (s.reg (uPage u 1 + 0x07C)) 0 1))).advance) :=
  if_neg (by simp [hx])

end
end

/-! ### The commands -/

section
variable {s : State} {u : UnitId} {rd rs1 rs2 : RegNo} (hu : coreOk u = true)
include hu

theorem exec_qwait : exec (.qwait u rd rs1 rs2) s = .next (qwait u rd rs1 rs2 s) := onUnit_next hu
theorem exec_qstat : exec (.qstat u rd rs1) s = .next (qstat u rd rs1 s) := onUnit_next hu
theorem exec_qrst : exec (.qrst u rs1) s = .next (qrst u rs1 s) := onUnit_next hu
theorem exec_dfence : exec (.dfence u) s = .next (dfence u s) := onUnit_next hu
theorem exec_sigflush : exec (.sigflush u) s = .next (sigflush u s) := onUnit_next hu
theorem exec_pchk : exec (.pchk u rd) s = .next (pchk u rd s) := onUnit_next hu

end

/-- Settles O3: by the sequencer, by whether the number names a queue, and by the state of what is waited for. -/
theorem queueWaitAndStatus : Obligations.QueueWaitAndStatus := by
  unfold Obligations.QueueWaitAndStatus
  intro s u rd rs1 rs2 n hu hr c q target
  rw [exec_qwait hu, exec_qstat hu, exec_qrst hu, exec_dfence hu, exec_sigflush hu, exec_pchk hu]
  refine ⟨fun hx => ?idle, fun hx h1 h6 => ?queue, fun hx hn => ?noQueue, fun hx => ?fences⟩
  case idle =>
    rw [qwait_idle hx, qstat_idle hx, qrst_idle hx, dfence_idle hx, sigflush_idle hx, pchk_idle hx]
    exact ⟨rfl, rfl, rfl, rfl, rfl, rfl⟩
  case queue =>
    have hn : queueOk n = true := queueOk_iff.2 ⟨h1, h6⟩
    exact ⟨fun hh => congrArg _ (qwait_halted hx hr hn hh), fun hh hc => congrArg _ (qwait_reached hx hr hn hh hc),
      fun hh hc => congrArg _ (qwait_waits hx hr hn hh hc), congrArg _ (qstat_queue hx hr hn),
      fun hb => congrArg _ (qrst_resets hx hr hn (CoreSt.qBusy_eq_false_iff.2 hb)),
      fun hb => congrArg _ (qrst_waits hx hr hn (CoreSt.qBusy_iff.2 hb))⟩
  case noQueue =>
    rw [← queueOk_eq_false_iff] at hn
    exact ⟨fun v t hd => ⟨congrArg _ (qwait_noQueue hx hr hn hd), congrArg _ (qstat_noQueue hx hr hn hd)⟩,
      congrArg _ (qrst_noQueue hx hr hn)⟩
  case fences =>
    exact ⟨fun h => congrArg _ (dfence_passes hx h), fun k d h2 h5 hd hs => congrArg _ (dfence_waits h2 h5 hd hs),
      fun hq => congrArg _ (sigflush_passes hx hq), fun hq => congrArg _ (sigflush_waits hq), congrArg _ (pchk_reads hx)⟩

end Sys2Proof.Machine
end

section
/-! The tensor queue (R49, R51, R52, R57 to R60): when an operation starts, what fails it, and what its completion leaves. -/

namespace Sys2Proof.Machine

/-! ### The array and the queue (R57) -/

theorem QueueSt.accFree_iff {q : QueueSt} {set : Nat} : q.accFree set = true ↔
    q.running = none ∨ ∃ d, q.running = some d ∧ bit (dw d.words 0) 16 = true ∧ descAcc d.words ≠ set ∧ q.out = none := by
  cases hr : q.running with
  | none => simp [QueueSt.accFree, hr]
  | some d => simp [QueueSt.accFree, hr, and_assoc]

/-- The first descriptor taken; an operation in progress goes on being written out. -/
theorem QueueSt.take_eq {q : QueueSt} {i : QItem} {rest : List QItem} (hq : q.waiting = i :: rest) :
    q.take = { q with waiting := rest, running := none, out := if q.running = none then q.out else q.running } := by
  cases hr : q.running with
  | none => simp [QueueSt.take, hq, hr]
  | some d => simp [QueueSt.take, hq, hr]

/-- The core's tensor queue without its first waiting descriptor. -/
def State.tensorTaken (s : State) (u : UnitId) : State :=
  s.setCore u ((s.core u).setQueue 1 ((s.core u).queue 1).take)

/-! ### Start (R51, R52, R57, R59) -/

section
variable {s : State} {u : UnitId}

theorem tensorStart_empty (hq : ((s.core u).queue 1).waiting = []) : tensorStart u s = s := by
  simp only [tensorStart, hq]

section
variable {i : QItem} {rest : List QItem} (hq : ((s.core u).queue 1).waiting = i :: rest)
include hq

theorem tensorStart_closed
    (h : ((s.core u).queue 1).halted = true ∨ ((s.core u).queue 1).accFree (descAcc i.words) = false) : tensorStart u s = s := by
  have hg : (((s.core u).queue 1).halted || !((s.core u).queue 1).accFree (descAcc i.words)) = true := by simpa using h
  simp only [tensorStart, hq, hg, if_true]

section
variable (hh : ((s.core u).queue 1).halted = false) (hf : ((s.core u).queue 1).accFree (descAcc i.words) = true)
include hh hf

theorem tensorStart_depWaits (hd : (s.core u).dep (df i.words 0 24 3) (df i.words 1 16 16) = .wait) : tensorStart u s = s := by
  simp only [tensorStart, hq, hh, hf, hd, Bool.not_true, Bool.or_self, Bool.false_eq_true, if_false]

theorem tensorStart_depFails (hd : (s.core u).dep (df i.words 0 24 3) (df i.words 1 16 16) = .failed) :
    tensorStart u s = (s.tensorTaken u).qFail u 1 5 i.addr := by
  simp only [tensorStart, hq, hh, hf, hd, Bool.not_true, Bool.or_self, Bool.false_eq_true, if_false, State.tensorTaken]

section
variable (hd : (s.core u).dep (df i.words 0 24 3) (df i.words 1 16 16) = .ready)
include hd

/-- A VACC that issued before the operation, and reads its set, has not completed. -/
theorem tensorStart_vaccAhead (hv : ∃ v ∈ (s.core u).vq, v.id < i.id ∧ v.op.accOf v.x1 = some (descAcc i.words)) :
    tensorStart u s = s := by
  have hany : (s.core u).vq.any (fun v => decide (v.id < i.id) && decide (v.op.accOf v.x1 = some (descAcc i.words))) = true := by
    simpa using hv
  simp only [tensorStart, hq, hh, hf, hd, hany, Bool.not_true, Bool.or_self, Bool.false_eq_true, if_false, if_true]

section
variable (hv : ∀ v ∈ (s.core u).vq, v.id < i.id → v.op.accOf v.x1 ≠ some (descAcc i.words))
include hv

/-- A descriptor that may start goes by its validity, and by the operands that it reads. -/
theorem tensorStart_ready :
    tensorStart u s =
      if tensorOk i.words = true then
        let r := (s.tensorTaken u).tensorRead u i.words
        match r.1 with
        | none => r.2.qFail u 1 2 i.addr
        | some ops =>
          let m := (r.2.core u).mac i.words ops
          (r.2.setCore u (m.1.setQueue 1 { m.1.queue 1 with running := some ⟨i.words, i.addr, 0, false, none, i.epoch⟩ })).arith u m.2
      else (s.tensorTaken u).qFail u 1 1 i.addr := by
  have hany : (s.core u).vq.any (fun v => decide (v.id < i.id) && decide (v.op.accOf v.x1 = some (descAcc i.words))) = false := by
    simpa using hv
  simp only [tensorStart, hq, hh, hf, hd, hany, Bool.not_true, Bool.or_self, Bool.false_eq_true, if_false]
  cases tensorOk i.words <;> rfl

theorem tensorStart_invalid (hok : tensorOk i.words = false) : tensorStart u s = (s.tensorTaken u).qFail u 1 1 i.addr :=
  (tensorStart_ready hq hh hf hd hv).trans (if_neg (by simp [hok]))

section
variable (hok : tensorOk i.words = true) {t : State}
include hok

theorem tensorStart_uncorrectable (hr : (s.tensorTaken u).tensorRead u i.words = (none, t)) : tensorStart u s = t.qFail u 1 2 i.addr := by
  rw [tensorStart_ready hq hh hf hd hv, if_pos hok]
  simp only [hr]

theorem tensorStart_starts {ops : TensorIn} (hr : (s.tensorTaken u).tensorRead u i.words = (some ops, t)) :
    tensorStart u s = (t.setCore u (((t.core u).mac i.words ops).1.setQueue 1 { ((t.core u).mac i.words ops).1.queue 1 with
      running := some ⟨i.words, i.addr, 0, false, none, i.epoch⟩ })).arith u ((t.core u).mac i.words ops).2 := by
  rw [tensorStart_ready hq hh hf hd hv, if_pos hok]
  simp only [hr]

end
end
end
end
end
end

/-! ### Completion (R49, R57, R60) -/

section
variable {s : State} {u : UnitId} {d : DescRun}

theorem tensorComplete_none (ho : ((s.core u).queue 1).out = none) (hr : ((s.core u).queue 1).running = none) :
    tensorComplete u s = s := by
  simp only [tensorComplete, ho, hr]

/-- The operation being written out is the older one. -/
theorem tensorComplete_out (ho : ((s.core u).queue 1).out = some d) :
    tensorComplete u s =
      let c := (s.writtenOut u d).core u
      (s.writtenOut u d).setCore u (c.setQueue 1 { c.queue 1 with out := none, counter := (c.queue 1).counter + 1 }) := by
  simp only [tensorComplete, ho]

theorem tensorComplete_running (ho : ((s.core u).queue 1).out = none) (hr : ((s.core u).queue 1).running = some d) :
    tensorComplete u s =
      let c := (s.writtenOut u d).core u
      (s.writtenOut u d).setCore u (c.setQueue 1 { c.queue 1 with running := none, counter := (c.queue 1).counter + 1 }) := by
  simp only [tensorComplete, ho, hr]

end

/-- Settles O7: the start goes by the first waiting descriptor and what keeps it, the completion by the older operation in progress. -/
theorem tensorOperations : Obligations.TensorOperations := by
  unfold Obligations.TensorOperations
  intro s u hu c q
  have hstart : exec (.tensorOpStart u) s = .next (tensorStart u s) := onUnit_next hu
  have hcomplete : exec (.tensorOpComplete u) s = .next (tensorComplete u s) := onUnit_next hu
  rw [hstart, hcomplete]
  refine ⟨fun i rest hq => ?start, fun hq => congrArg _ (tensorStart_empty hq), fun d hd => ?complete,
    fun ho hr => congrArg _ (tensorComplete_none ho hr)⟩
  case start =>
    intro ws set open_ q1 s1
    have hs1 : s1 = s.tensorTaken u := by rw [State.tensorTaken, QueueSt.take_eq hq]
    have hopen : open_ ↔ q.accFree (descAcc ws) = true := QueueSt.accFree_iff.symm
    rw [hopen, hs1]
    refine ⟨fun hh hf => ⟨fun hd => congrArg _ (tensorStart_depWaits hq hh hf hd),
      fun hd => congrArg _ (tensorStart_depFails hq hh hf hd), fun hd =>
        ⟨fun hv => congrArg _ (tensorStart_vaccAhead hq hh hf hd hv), fun hv =>
          ⟨fun ops t hok hr => congrArg _ (tensorStart_starts hq hh hf hd hv hok hr),
            fun t hok hr => congrArg _ (tensorStart_uncorrectable hq hh hf hd hv hok hr),
            fun hok => congrArg _ (tensorStart_invalid hq hh hf hd hv hok)⟩⟩⟩, fun h => ?_⟩
    exact congrArg _ (tensorStart_closed hq (h.imp_right Bool.eq_false_iff.2))
  case complete =>
    rcases hd with ho | ⟨ho, hr⟩
    · have hne : ¬ q.out = none := by simp [q, c, ho]
      rw [tensorComplete_out ho]
      simp only [hne, if_false]
      rfl
    · rw [tensorComplete_running ho hr]
      simp only [q, c, ho, if_true]
      rfl

end Sys2Proof.Machine
end

section
/-! DMA channels (R49 to R52, R65 to R72, R75, R77, R150): when a descriptor starts, how it begins and goes on, and its completion. -/

namespace Sys2Proof.Machine

/-! ### A descriptor goes on (R51, R150) -/

/-- Since when the access at row r has been answered TARGET_DRAINING: as noted where a descriptor was at that row before, else from now. -/
def State.drainingSince (s : State) (d : DescRun) (r : Nat) : Tick :=
  if r = d.pos / dmaN d.words 0 then (d.wait.map (·.1)).getD s.frc else s.frc

section
variable {s x : State} {u : UnitId} {ch cause r : Nat} {d : DescRun} {td : List W32}
  (hrun : s.dmaRun u ch ((s.core u).ticketOf ch) d.epoch d.words td (dmaRowCount d.words - d.pos / dmaN d.words 0)
    (d.pos / dmaN d.words 0) = (cause, r, x))
include hrun

/-- By the cause that ended the rows. -/
theorem State.dmaGo_eq :
    s.dmaGo u ch d td =
      if cause = 9 then
        if s.drainingSince d r + x.respTo (uDie u) ≤ x.frc then x.dmaFail u ch 3 d.addr
        else (x.count (fabPage (uDie u) + 0x058)).setRunning u ch
          (some { d with pos := r * dmaN d.words 0, stalled := false, wait := some (s.drainingSince d r, x.frc + x.retryTicks (uDie u)) })
      else if cause ≠ 0 then x.dmaFail u ch cause d.addr
      else x.setRunning u ch (some { d with pos := dmaRowCount d.words * dmaN d.words 0, stalled := false, wait := none }) := by
  simp only [State.dmaGo, hrun]
  rfl

theorem State.dmaGo_ends (hc : cause = 0) :
    s.dmaGo u ch d td =
      x.setRunning u ch (some { d with pos := dmaRowCount d.words * dmaN d.words 0, stalled := false, wait := none }) :=
  (State.dmaGo_eq hrun).trans ((if_neg (by omega)).trans (if_neg (not_not_intro hc)))

theorem State.dmaGo_fails (h0 : cause ≠ 0) (h9 : cause ≠ 9) : s.dmaGo u ch d td = x.dmaFail u ch cause d.addr :=
  (State.dmaGo_eq hrun).trans ((if_neg h9).trans (if_pos h0))

section
variable (h9 : cause = 9)
include h9

/-- The target has drained for the response timeout. -/
theorem State.dmaGo_timesOut (ht : s.drainingSince d r + x.respTo (uDie u) ≤ x.frc) : s.dmaGo u ch d td = x.dmaFail u ch 3 d.addr :=
  (State.dmaGo_eq hrun).trans ((if_pos h9).trans (if_pos ht))

theorem State.dmaGo_waits (ht : x.frc < s.drainingSince d r + x.respTo (uDie u)) :
    s.dmaGo u ch d td = (x.count (fabPage (uDie u) + 0x058)).setRunning u ch
      (some { d with pos := r * dmaN d.words 0, stalled := false, wait := some (s.drainingSince d r, x.frc + x.retryTicks (uDie u)) }) :=
  (State.dmaGo_eq hrun).trans ((if_pos h9).trans (if_neg (Nat.not_le.2 ht)))

end
end

/-! ### A descriptor begins (R65, R70, R72, R75) -/

section
variable {s t : State} {u : UnitId} {ch : Nat} {d : DescRun}

theorem State.dmaBegin_uncorrectable (hr : s.tdRead u d.words = (none, t)) : s.dmaBegin u ch d = t.dmaFail u ch 2 d.addr := by
  simp only [State.dmaBegin, hr]

section
variable {td : List W32} (hr : s.tdRead u d.words = (some td, t))
include hr

theorem State.dmaBegin_invalid (hok : dmaOk d.words td = false) : s.dmaBegin u ch d = t.dmaFail u ch 1 d.addr := by
  simp only [State.dmaBegin, hr, hok, Bool.not_false, if_true]

section
variable (hok : dmaOk d.words td = true)
include hok

/-- A descriptor that may not be signed. -/
theorem State.dmaBegin_refused (hsig : dmaSig d.words = true) (hbad : sigOk u d.words td = false) :
    s.dmaBegin u ch d = (t.dmaFail u ch 6 d.addr).setErr (uPage u 2) 1 := by
  simp only [State.dmaBegin, hr, hok, hsig, hbad, Bool.not_true, Bool.not_false, Bool.and_self, Bool.false_eq_true, if_false, if_true]

section
variable (hs : dmaSig d.words = true → sigOk u d.words td = true)
include hs

/-- A valid descriptor stalls where it needs a context and none is free, and goes on otherwise. -/
theorem State.dmaBegin_eq :
    s.dmaBegin u ch d =
      if (dmaSig d.words = true ∧ df d.words 15 16 16 = 0 ∧ d.pos = 0) ∧ t.ctxFree u = none then
        t.setRunning u ch (some { d with stalled := true })
      else (t.sigRefer u ch d.words td).dmaGo u ch d td := by
  have hsig : (dmaSig d.words && !sigOk u d.words td) = false := by simpa using hs
  simp only [State.dmaBegin, hr, hok, hsig, Bool.not_true, Bool.false_eq_true, if_false, Bool.and_eq_true, decide_eq_true_eq,
    Option.isNone_iff_eq_none, and_assoc]

theorem State.dmaBegin_stalls (ho : dmaSig d.words = true ∧ df d.words 15 16 16 = 0 ∧ d.pos = 0) (hf : t.ctxFree u = none) :
    s.dmaBegin u ch d = t.setRunning u ch (some { d with stalled := true }) :=
  (State.dmaBegin_eq hr hok hs).trans (if_pos ⟨ho, hf⟩)

theorem State.dmaBegin_goes (hn : ¬ ((dmaSig d.words = true ∧ df d.words 15 16 16 = 0 ∧ d.pos = 0) ∧ t.ctxFree u = none)) :
    s.dmaBegin u ch d = (t.sigRefer u ch d.words td).dmaGo u ch d td :=
  (State.dmaBegin_eq hr hok hs).trans (if_neg hn)

end
end
end
end

/-! ### Commands of a kind (R52, R66, R150) -/

/-- Whether a command of a kind takes a descriptor: one of its kind, or a reserved one. -/
def dmaTakes (kind : Nat) (ws : List W32) : Bool := decide (dmaKind ws = kind) || decide (4 ≤ dmaKind ws)

theorem dmaTakes_iff {kind : Nat} {ws : List W32} : dmaTakes kind ws = true ↔ dmaKind ws = kind ∨ 4 ≤ dmaKind ws := by
  simp [dmaTakes]

/-- A channel whose first waiting descriptor is in progress. -/
def State.dmaTaken (s : State) (u : UnitId) (ch : Nat) (i : QItem) (rest : List QItem) : State :=
  s.setCore u ((s.core u).setQueue (2 + ch) { (s.core u).queue (2 + ch) with
    waiting := rest, running := some ⟨i.words, i.addr, 0, false, none, i.epoch⟩ })

section
variable {s : State} {u : UnitId} {ch kind : Nat}

theorem dmaStart_halted (hh : ((s.core u).queue (2 + ch)).halted = true) : dmaStart kind u ch s = s := if_pos hh

section
variable (hh : ((s.core u).queue (2 + ch)).halted = false)
include hh

section
variable {d : DescRun} (hr : ((s.core u).queue (2 + ch)).running = some d)
include hr

/-- A descriptor in progress goes on only when its reissue is due. -/
theorem dmaStart_running :
    dmaStart kind u ch s = if dmaTakes kind d.words = true ∧ ∃ w, d.wait = some w ∧ w.2 ≤ s.frc then s.dmaBegin u ch d else s := by
  refine (if_neg (ne_true_of_eq_false hh)).trans ?_
  simp only [hr, Bool.and_eq_true, Option.any_eq_true, decide_eq_true_eq]
  exact ite_congr (propext and_comm) (fun _ => rfl) (fun _ => rfl)

theorem dmaStart_resumes (hm : dmaTakes kind d.words = true) (hw : ∃ w, d.wait = some w ∧ w.2 ≤ s.frc) :
    dmaStart kind u ch s = s.dmaBegin u ch d :=
  (dmaStart_running hh hr).trans (if_pos ⟨hm, hw⟩)

theorem dmaStart_busy (h : ¬ (dmaTakes kind d.words = true ∧ ∃ w, d.wait = some w ∧ w.2 ≤ s.frc)) : dmaStart kind u ch s = s :=
  (dmaStart_running hh hr).trans (if_neg h)

end

section
variable (hr : ((s.core u).queue (2 + ch)).running = none)
include hr

theorem dmaStart_empty (hq : ((s.core u).queue (2 + ch)).waiting = []) : dmaStart kind u ch s = s := by
  refine (if_neg (ne_true_of_eq_false hh)).trans ?_
  simp only [hr, hq]

section
variable {i : QItem} {rest : List QItem} (hq : ((s.core u).queue (2 + ch)).waiting = i :: rest)
include hq

theorem dmaStart_otherKind (hm : dmaTakes kind i.words = false) : dmaStart kind u ch s = s := by
  refine (if_neg (ne_true_of_eq_false hh)).trans ?_
  simp only [hr, hq]
  exact if_pos (congrArg (!·) hm)

section
variable (hm : dmaTakes kind i.words = true)
include hm

/-- A free channel's first descriptor goes by its dependency. -/
theorem dmaStart_free :
    dmaStart kind u ch s = match (s.core u).dep (df i.words 0 17 3) (df i.words 1 0 16) with
      | .wait => s
      | .failed => (s.dmaTaken u ch i rest).dmaFail u ch 5 i.addr
      | .ready => (s.dmaTaken u ch i rest).dmaBegin u ch ⟨i.words, i.addr, 0, false, none, i.epoch⟩ := by
  refine (if_neg (ne_true_of_eq_false hh)).trans ?_
  simp only [hr, hq]
  exact (if_neg (ne_true_of_eq_false (congrArg (!·) hm))).trans rfl

theorem dmaStart_depWaits (hd : (s.core u).dep (df i.words 0 17 3) (df i.words 1 0 16) = .wait) : dmaStart kind u ch s = s := by
  rw [dmaStart_free hh hr hq hm, hd]

theorem dmaStart_depFails (hd : (s.core u).dep (df i.words 0 17 3) (df i.words 1 0 16) = .failed) :
    dmaStart kind u ch s = (s.dmaTaken u ch i rest).dmaFail u ch 5 i.addr := by
  rw [dmaStart_free hh hr hq hm, hd]

theorem dmaStart_begins (hd : (s.core u).dep (df i.words 0 17 3) (df i.words 1 0 16) = .ready) :
    dmaStart kind u ch s = (s.dmaTaken u ch i rest).dmaBegin u ch ⟨i.words, i.addr, 0, false, none, i.epoch⟩ := by
  rw [dmaStart_free hh hr hq hm, hd]

end
end
end
end
end

/-! ### Completion (R49, R71, R77) -/

section
variable {s : State} {u : UnitId} {ch : Nat}

theorem dmaComplete_none (hr : ((s.core u).queue (2 + ch)).running = none) : dmaComplete u ch s = s := by
  simp only [dmaComplete, hr]

section
variable {d : DescRun} (hr : ((s.core u).queue (2 + ch)).running = some d)
include hr

/-- A descriptor that stalls or waits for a reissue has not ended. -/
theorem dmaComplete_unended (h : d.stalled = true ∨ d.wait ≠ none) : dmaComplete u ch s = s := by
  have hg : (d.stalled || d.wait.isSome) = true := by simpa [Option.isSome_iff_ne_none] using h
  simp only [dmaComplete, hr, hg, if_true]

theorem dmaComplete_ends (hs : d.stalled = false) (hw : d.wait = none) :
    dmaComplete u ch s =
      let k := (s.core u).ticketOf ch
      let t := (s.chanFree u ch).raDrop u (fun r => decide (r.chan = ch) && decide (r.ticket = k))
      t.setCore u ((t.core u).setQueue (2 + ch) { (t.core u).queue (2 + ch) with running := none, counter := k }) := by
  simp only [dmaComplete, hr, hs, hw, Option.isSome_none, Bool.or_self, Bool.false_eq_true, if_false]

end
end

/-! ### The commands -/

section
variable {s : State} {u : UnitId} {ch : Nat} (hu : coreOk u = true) (hch : ch < 4)
include hu hch

theorem exec_dmaStart {kind : Nat} {c : Instr}
    (hc : (c = .dmaCopy u ch ∧ kind = 0) ∨ (c = .dmaGather u ch ∧ kind = 1) ∨ (c = .dmaHashgather u ch ∧ kind = 2) ∨
      (c = .dmaFill u ch ∧ kind = 3)) : exec c s = .next (dmaStart kind u ch s) := by
  have hok : (coreOk u && decide (ch < 4)) = true := by simp [hu, hch]
  rcases hc with ⟨rfl, rfl⟩ | ⟨rfl, rfl⟩ | ⟨rfl, rfl⟩ | ⟨rfl, rfl⟩
  iterate 4
    · exact onUnit_next hok

theorem exec_dmaDescriptorComplete : exec (.dmaDescriptorComplete u ch) s = .next (dmaComplete u ch s) :=
  onUnit_next (by simp [hu, hch])

end

/-- Settles O8: a start goes by the channel and its first descriptor; one that begins goes by its validity, its context and its rows. -/
theorem dmaDescriptors : Obligations.DmaDescriptors := by
  unfold Obligations.DmaDescriptors
  intro s u ch kind c hu hch hc q mine begun
  have hmine : ∀ ws, mine ws ↔ dmaTakes kind ws = true := fun ws => dmaTakes_iff.symm
  have hexec : ∀ {z : State}, dmaStart kind u ch s = z → exec c s = .next z := fun h =>
    (exec_dmaStart hu hch hc).trans (congrArg _ h)
  have hbegun : ∀ {s1 : State} {d : DescRun}, dmaStart kind u ch s = s1.dmaBegin u ch d →
      begun s1 d (fun t => exec c s = .next t) := by
    intro s1 d hstart
    refine ⟨fun t hr => hexec (hstart.trans (State.dmaBegin_uncorrectable hr)), fun td t hr =>
      ⟨fun hok => hexec (hstart.trans (State.dmaBegin_invalid hr hok)),
        fun hok hsig hbad => hexec (hstart.trans (State.dmaBegin_refused hr hok hsig hbad)), fun hok hs =>
          ⟨fun ho hf => hexec (hstart.trans (State.dmaBegin_stalls hr hok hs ho hf)), fun hn cause r x hrun => ?_⟩⟩⟩
    have hgo := hstart.trans (State.dmaBegin_goes hr hok hs hn)
    exact ⟨fun h0 => hexec (hgo.trans (State.dmaGo_ends hrun h0)),
      fun h0 h9 => hexec (hgo.trans (State.dmaGo_fails hrun h0 h9)),
      fun h9 => ⟨fun ht => hexec (hgo.trans (State.dmaGo_timesOut hrun h9 ht)),
        fun ht => hexec (hgo.trans (State.dmaGo_waits hrun h9 ht))⟩⟩
  rw [exec_dmaDescriptorComplete hu hch]
  simp only [hmine]
  refine ⟨fun hh => hexec (dmaStart_halted hh), fun d hh hr => ⟨fun hm hw => hbegun (dmaStart_resumes hh hr hm hw),
    fun h => hexec (dmaStart_busy hh hr h)⟩, fun hh hr hq => hexec (dmaStart_empty hh hr hq), fun i rest hq hh hr => ?waiting,
    fun hr => congrArg _ (dmaComplete_none hr), fun d hr => ⟨fun h => congrArg _ (dmaComplete_unended hr h),
      fun hs hw => congrArg _ (dmaComplete_ends hr hs hw)⟩⟩
  case waiting =>
    exact ⟨fun hm => hexec (dmaStart_otherKind hh hr hq (Bool.eq_false_iff.2 hm)), fun hm =>
      ⟨fun hd => hexec (dmaStart_depWaits hh hr hq hm hd), fun hd => hexec (dmaStart_depFails hh hr hq hm hd),
        fun hd => hbegun (dmaStart_begins hh hr hq hm hd)⟩⟩

end Sys2Proof.Machine
end

section
/-! Run-ahead data, signature contexts and messages, and the scratchpad's scrubber (R62, R71, R75, R76, R155). -/

namespace Sys2Proof.Machine

/-! ### Run-ahead reads (R71, R155) -/

/-- Bytes that a channel's run-ahead buffer holds. -/
def CoreSt.aheadHeld (c : CoreSt) (ch : Nat) : Nat :=
  (c.ra.filter (fun r => decide (r.chan = ch))).foldl (fun x r => x + 4 * r.data.length) 0

/-- The bytes of a core's run-ahead window. -/
def State.aheadWindow (s : State) (u : UnitId) : Nat := (s.reg (uPage u 3 + 0x060)).toNat

/-- Run-ahead data put into the buffer. -/
def State.aheadPut (s : State) (u : UnitId) (x : RaData) : State := s.setCore u { s.core u with ra := (s.core u).ra ++ [x] }

section
variable {s : State} {u : UnitId} {ch a n : Nat}

theorem aheadResponse_none (h : (s.core u).aheadFor ch = none) : aheadResponse u ch a n s = s := by
  simp only [aheadResponse, h]

section
variable {ticket : BitVec 16} (hk : (s.core u).aheadFor ch = some ticket)
include hk

theorem aheadResponse_closed
    (h : ((s.core u).queue (2 + ch)).halted = true ∨ s.aheadWindow u < (s.core u).aheadHeld ch + 4 * n) :
    aheadResponse u ch a n s = s := by
  simp only [aheadResponse, hk]
  exact if_pos (by rwa [Bool.or_eq_true, decide_eq_true_eq])

section
variable (hh : ((s.core u).queue (2 + ch)).halted = false) (hw : (s.core u).aheadHeld ch + 4 * n ≤ s.aheadWindow u)
include hh hw

/-- Within the window the read is done: in the core's own scratchpad, or over the fabric. -/
theorem aheadResponse_open :
    aheadResponse u ch a n s = match ownOff u a with
      | some o => let r := s.sramReadWords u o n; r.2.aheadPut u ⟨ch, ticket, a, r.1, 2⟩
      | none =>
        let r := s.doRead (s.coreSrc u) a n true
        r.2.2.aheadPut u ⟨ch, ticket, a, if r.1 ≤ 1 then r.2.1 else List.replicate n none, if r.1 ≤ 1 then 4 else 3⟩ := by
  have hg : (((s.core u).queue (2 + ch)).halted || decide (s.aheadWindow u < (s.core u).aheadHeld ch + 4 * n)) = false := by
    simp [hh, hw]
  simp only [aheadResponse, hk]
  refine (if_neg (ne_true_of_eq_false hg)).trans ?_
  cases ownOff u a <;> rfl

theorem aheadResponse_own {o : Nat} {ws : List (Option W32)} {t : State} (ho : ownOff u a = some o)
    (hr : s.sramReadWords u o n = (ws, t)) : aheadResponse u ch a n s = t.aheadPut u ⟨ch, ticket, a, ws, 2⟩ := by
  rw [aheadResponse_open hk hh hw, ho]
  simp only [hr]

theorem aheadResponse_fabric {st : Nat} {ws : List (Option W32)} {t : State} (ho : ownOff u a = none)
    (hr : s.doRead (s.coreSrc u) a n true = (st, ws, t)) :
    aheadResponse u ch a n s =
      t.aheadPut u ⟨ch, ticket, a, if st ≤ 1 then ws else List.replicate n none, if st ≤ 1 then 4 else 3⟩ := by
  rw [aheadResponse_open hk hh hw, ho]
  simp only [hr]

end
end

theorem aheadResponse_refused
    (h : (s.core u).aheadFor ch = none ∨ ((s.core u).queue (2 + ch)).halted = true ∨
      s.aheadWindow u < (s.core u).aheadHeld ch + 4 * n) : aheadResponse u ch a n s = s := by
  cases hk : (s.core u).aheadFor ch with
  | none => exact aheadResponse_none hk
  | some ticket => exact aheadResponse_closed hk (h.resolve_left (by simp [hk]))

end

/-! ### Signature contexts and messages (R75, R76) -/

section
variable {s : State} {u : UnitId} {ch : Nat}

theorem contextTake_begins {d : DescRun} {x : Nat} (hr : ((s.core u).queue (2 + ch)).running = some d) (hs : d.stalled = true)
    (hf : s.ctxFree u = some x) : contextTake u ch s = s.dmaBegin u ch { d with stalled := false } := by
  simp only [contextTake, hr, hs, hf, Option.isSome_some, Bool.and_self, if_true]

/-- Without a stalled descriptor, or without a free context, nothing begins. -/
theorem contextTake_waits
    (h : ((s.core u).queue (2 + ch)).running.all (fun d => !d.stalled) = true ∨ s.ctxFree u = none) : contextTake u ch s = s := by
  cases hr : ((s.core u).queue (2 + ch)).running with
  | none => simp only [contextTake, hr]
  | some d =>
    have hg : (d.stalled && (s.ctxFree u).isSome) = false := by
      rcases h with hs | hf
      · have hd : d.stalled = false := by simpa [hr] using hs
        simp [hd]
      · simp [hf]
    simp only [contextTake, hr, hg, Bool.false_eq_true, if_false]

end

/-- A context has received its tile, its writes are acknowledged, and the message queue has room (R76). -/
def CtxReady (s : State) (u : UnitId) (k : Nat) : Prop :=
  s.ctxOpen u k = true ∧ (s.core u).ctxBusy k = false ∧ geomCount (s.reg (ctxAt u k 6)) ≤ s.regF (ctxAt u k 1) 0 17 ∧
    (s.core u).sigQ.length < 8

section
variable {s : State} {u : UnitId} {k : Nat}

/-- The model's test. -/
theorem ctxReady_test_iff :
    (s.ctxOpen u k && !(s.core u).ctxBusy k && decide (geomCount (s.reg (ctxAt u k 6)) ≤ s.regF (ctxAt u k 1) 0 17)
      && decide ((s.core u).sigQ.length < 8)) = true ↔ CtxReady s u k := by
  simp [CtxReady, and_assoc]

theorem sigMessageQueue_ready (h : CtxReady s u k) :
    sigMessageQueue u k s =
      (s.setCore u { s.core u with sigQ := (s.core u).sigQ ++ [⟨s.sigPayload u k⟩] }).setReg (ctxAt u k 0) 0 :=
  if_pos (ctxReady_test_iff.2 h)

theorem sigMessageQueue_unready (h : ¬ CtxReady s u k) : sigMessageQueue u k s = s := if_neg (mt ctxReady_test_iff.1 h)

theorem sigMessageSend_empty (h : (s.core u).sigQ = []) : sigMessageSend u s = s := by
  simp only [sigMessageSend, h]

theorem sigMessageSend_oldest {m : SigMsg} {r : List SigMsg} (h : (s.core u).sigQ = m :: r) :
    sigMessageSend u s =
      (s.setCore u { s.core u with sigQ := r, sigSent := (s.core u).sigSent + 1 }).sendMsg u idGatehouse 0x01 m.payload := by
  simp only [sigMessageSend, h]

end

/-! ### The commands -/

section
variable {s : State} {u : UnitId} {ch n k : Nat} {a : PAddr} (hu : coreOk u = true)
include hu

theorem exec_runaheadReadResponse (hch : ch < 4) (h4 : a.toNat % 4 = 0) (h1 : 1 ≤ n) (hb : a.toNat % 256 + 4 * n ≤ 256) :
    exec (.runaheadReadResponse u ch a n) s = .next (aheadResponse u ch a.toNat n s) :=
  onUnit_next (by simp [hu, hch, h4, h1, hb])

theorem exec_signatureContextAcquire (hch : ch < 4) : exec (.signatureContextAcquire u ch) s = .next (contextTake u ch s) :=
  onUnit_next (by simp [hu, hch])

theorem exec_signatureMessageQueue (hk : k < 4) : exec (.signatureMessageQueue u k) s = .next (sigMessageQueue u k s) :=
  onUnit_next (by simp [hu, hk])

theorem exec_signatureMessageSend : exec (.signatureMessageSend u) s = .next (sigMessageSend u s) := onUnit_next hu

theorem exec_scratchpadScrubLine : exec (.scratchpadScrubLine u) s = .next (scratchpadScrub u s) := onUnit_next hu

end

/-- Settles O9: each command by what keeps it from acting, and what it does otherwise. -/
theorem runAheadAndContexts : Obligations.RunAheadAndContexts := by
  unfold Obligations.RunAheadAndContexts
  intro s u ch n k a hu hch hk c
  refine ⟨fun h4 h1 hb => ?ahead, ?acquire, ?queue, ?send, exec_scratchpadScrubLine hu⟩
  case ahead =>
    intro held win
    rw [exec_runaheadReadResponse hu hch h4 h1 hb]
    exact ⟨fun ticket ht hh hw => ⟨fun o ws t ho hr => congrArg _ (aheadResponse_own ht hh hw ho hr),
      fun st ws t ho hr => congrArg _ (aheadResponse_fabric ht hh hw ho hr)⟩, fun h => congrArg _ (aheadResponse_refused h)⟩
  case acquire =>
    rw [exec_signatureContextAcquire hu hch]
    exact ⟨fun d x hr hs hf => congrArg _ (contextTake_begins hr hs hf), fun h => congrArg _ (contextTake_waits h)⟩
  case queue =>
    rw [exec_signatureMessageQueue hu hk]
    exact ⟨fun h => congrArg _ (sigMessageQueue_ready h), fun h => congrArg _ (sigMessageQueue_unready h)⟩
  case send =>
    rw [exec_signatureMessageSend hu]
    exact ⟨fun m r h => congrArg _ (sigMessageSend_oldest h), fun h => congrArg _ (sigMessageSend_empty h)⟩

end Sys2Proof.Machine
end

section
/-! The sequencer (R44 to R47): when a word is executed, and the integer computational and control-transfer instructions. -/

namespace Sys2Proof.Machine

/-! ### Fields -/

theorem fld_lt {k : Nat} (v : BitVec k) (lo n : Nat) : fld v lo n < 2 ^ n := Nat.mod_lt _ (Nat.two_pow_pos n)

/-- A shift amount of five bits is itself. -/
theorem toNat_w32_fld5 (w : W32) (lo : Nat) : (w32 (fld w lo 5)).toNat % 32 = fld w lo 5 := by
  have h := fld_lt w lo 5
  simp only [w32, BitVec.toNat_ofNat]
  omega

/-! ### The word at the program counter (R45, R56) -/

/-- The opcodes of what keeps its order with vector instructions. -/
def orderedOpcodes : List Nat := [0x03, 0x23, 0x07, 0x27, 0x43, 0x47, 0x4B, 0x4F, 0x53]

theorem seqOrdered_iff {w : W32} : seqOrdered w = true ↔ fld w 0 7 ∈ orderedOpcodes := List.contains_iff_mem

section
variable {s : State} {u : UnitId} {w : W32}

theorem scalarInstruction_idle (hx : s.executing u = false) : scalarInstruction u w s = s := if_pos (by simp [hx])

section
variable (hx : s.executing u = true)
include hx

/-- A fetch outside the map. -/
theorem scalarInstruction_fetchFault (hp : seqPlace (s.core u).pc.toNat 4 = .out) :
    scalarInstruction u w s = s.trap u exFetch (s.core u).pc :=
  (if_neg (by simp [hx])).trans (if_pos hp)

section
variable (hp : seqPlace (s.core u).pc.toNat 4 ≠ .out)
include hp

theorem scalarInstruction_waits (ho : fld w 0 7 ∈ orderedOpcodes) (hv : (s.core u).vBehind = true) : scalarInstruction u w s = s :=
  (if_neg (by simp [hx])).trans ((if_neg hp).trans (if_pos (by rw [seqOrdered_iff.2 ho, hv, Bool.and_self])))

theorem scalarInstruction_runs (h : fld w 0 7 ∉ orderedOpcodes ∨ (s.core u).vBehind = false) :
    scalarInstruction u w s = seqRun u w s := by
  have hg : (seqOrdered w && (s.core u).vBehind) = false := by
    rw [Bool.and_eq_false_iff, ← Bool.not_eq_true (seqOrdered w), seqOrdered_iff]
    exact h
  exact (if_neg (by simp [hx])).trans ((if_neg hp).trans (if_neg (ne_true_of_eq_false hg)))

end
end

theorem exec_scalarInstruction (hu : coreOk u = true) : exec (.scalarInstruction u w) s = .next (scalarInstruction u w s) :=
  onUnit_next hu

/-! ### A word by its opcode (R44) -/

theorem seqRun_lui (h : fld w 0 7 = 0x37) : seqRun u w s = s.toX u (iRd w) (immU w) := by simp only [seqRun, h]
theorem seqRun_auipc (h : fld w 0 7 = 0x17) : seqRun u w s = s.toX u (iRd w) ((s.core u).pc + immU w) := by simp only [seqRun, h]
theorem seqRun_jal (h : fld w 0 7 = 0x6F) : seqRun u w s = s.jump u (iRd w) ((s.core u).pc + immJ w) := by simp only [seqRun, h]
theorem seqRun_load (h : fld w 0 7 = 0x03) : seqRun u w s = seqLoads u w s := by simp only [seqRun, h]
theorem seqRun_store (h : fld w 0 7 = 0x23) : seqRun u w s = seqStores u w s := by simp only [seqRun, h]
theorem seqRun_opImm (h : fld w 0 7 = 0x13) : seqRun u w s = seqOpImm u w s := by simp only [seqRun, h]
theorem seqRun_op (h : fld w 0 7 = 0x33) : seqRun u w s = seqOp u w s := by simp only [seqRun, h]
theorem seqRun_system (h : fld w 0 7 = 0x73) : seqRun u w s = seqSystem u w s := by simp only [seqRun, h]
theorem seqRun_classQ (h : fld w 0 7 = 0x0B) : seqRun u w s = seqQ u w s := by simp only [seqRun, h]
theorem seqRun_classV (h : fld w 0 7 = 0x2B) : seqRun u w s = seqV u w s := by simp only [seqRun, h]
theorem seqRun_classM (h : fld w 0 7 = 0x5B) : seqRun u w s = seqM u w s := by simp only [seqRun, h]
theorem seqRun_classS (h : fld w 0 7 = 0x7B) : seqRun u w s = seqS u w s := by simp only [seqRun, h]

theorem seqRun_jalr (h : fld w 0 7 = 0x67) (h3 : fld w 12 3 = 0) :
    seqRun u w s = s.jump u (iRd w) (((s.core u).rx (iRs1 w) + immI w) &&& 0xFFFFFFFE#32) := by
  simp only [seqRun, h]
  exact if_pos h3

theorem seqRun_branch {taken : Bool} (h : fld w 0 7 = 0x63)
    (hb : branchIf (fld w 12 3) ((s.core u).rx (iRs1 w)) ((s.core u).rx (iRs2 w)) = some taken) :
    seqRun u w s = if taken then s.jump u 0 ((s.core u).pc + immB w) else s.pass u := by
  simp only [seqRun, h, iF3, hb]
  cases taken <;> rfl

theorem seqRun_branch_reserved (h : fld w 0 7 = 0x63)
    (hb : branchIf (fld w 12 3) ((s.core u).rx (iRs1 w)) ((s.core u).rx (iRs2 w)) = none) : seqRun u w s = s.illegal u w := by
  simp only [seqRun, h, iF3, hb]

/-! ### OP and OP-IMM -/

theorem seqOp_base (h7 : fld w 25 7 = 0) :
    seqOp u w s = s.toX u (iRd w) (alu (fld w 12 3) false ((s.core u).rx (iRs1 w)) ((s.core u).rx (iRs2 w))) := if_pos h7

theorem seqOp_mulDiv (h7 : fld w 25 7 = 1) :
    seqOp u w s = s.toX u (iRd w) (mulDiv (fld w 12 3) ((s.core u).rx (iRs1 w)) ((s.core u).rx (iRs2 w))) :=
  (if_neg (by simp [iF7, h7])).trans (if_pos h7)

/-- SUB and SRA. -/
theorem seqOp_alt (h7 : fld w 25 7 = 0x20) (h3 : fld w 12 3 = 0 ∨ fld w 12 3 = 5) :
    seqOp u w s = s.toX u (iRd w) (alu (fld w 12 3) true ((s.core u).rx (iRs1 w)) ((s.core u).rx (iRs2 w))) :=
  (if_neg (by simp [iF7, h7])).trans ((if_neg (by simp [iF7, h7])).trans (if_pos ⟨h7, h3⟩))

theorem seqOp_reserved (h0 : fld w 25 7 ≠ 0) (h1 : fld w 25 7 ≠ 1) (h20 : fld w 25 7 = 0x20 → fld w 12 3 ≠ 0 ∧ fld w 12 3 ≠ 5) :
    seqOp u w s = s.illegal u w :=
  (if_neg h0).trans ((if_neg h1).trans (if_neg fun ⟨h7, h3⟩ => h3.elim (h20 h7).1 (h20 h7).2))

theorem seqOpImm_alu (h1 : fld w 12 3 ≠ 1) (h5 : fld w 12 3 ≠ 5) :
    seqOpImm u w s = s.toX u (iRd w) (alu (fld w 12 3) false ((s.core u).rx (iRs1 w)) (immI w)) := by
  simp only [seqOpImm, iF3]

/-- SLLI and its reserved forms. -/
theorem seqOpImm_shiftLeft (h3 : fld w 12 3 = 1) :
    seqOpImm u w s =
      if fld w 25 7 = 0 then s.toX u (iRd w) ((s.core u).rx (iRs1 w) <<< fld w 20 5) else s.illegal u w := by
  simp only [seqOpImm, iF3, iF7, h3, alu, toNat_w32_fld5]

/-- SRLI, SRAI and their reserved forms. -/
theorem seqOpImm_shiftRight (h3 : fld w 12 3 = 5) :
    seqOpImm u w s =
      if fld w 25 7 = 0 ∨ fld w 25 7 = 0x20 then
        s.toX u (iRd w) (if fld w 25 7 = 0x20 then ((s.core u).rx (iRs1 w)).sshiftRight (fld w 20 5)
          else (s.core u).rx (iRs1 w) >>> fld w 20 5)
      else s.illegal u w := by
  simp only [seqOpImm, iF3, h3, alu, toNat_w32_fld5, decide_eq_true_eq]
  rfl

/-! ### Jumps -/

theorem State.jump_aligned {rd : RegNo} {target : W32} (h : target.toNat % 4 = 0) :
    s.jump u rd target = s.setCore u { ((s.core u).wx rd ((s.core u).pc + 4)).advance with pc := target } :=
  if_neg (not_not_intro h)

/-- A misaligned target traps and links nothing. -/
theorem State.jump_misaligned {rd : RegNo} {target : W32} (h : target.toNat % 4 ≠ 0) :
    s.jump u rd target = s.trap u exFetchMis target := if_pos h

end

/-- Settles O11: the word runs by its opcode, whose meaning its fields select; a jump goes by its target. -/
theorem scalarArithmetic : Obligations.ScalarArithmetic := by
  unfold Obligations.ScalarArithmetic
  intro s u w hu
  refine ⟨fun hx => (exec_scalarInstruction hu).trans (congrArg _ (scalarInstruction_idle hx)), fun hx hp => ?_⟩
  intro c a b run toX jump
  have hrun : ∀ {n : Nat} {t : State}, fld w 0 7 = n → n ∉ orderedOpcodes → seqRun u w s = t → run = .next t := fun ho hn ht =>
    (exec_scalarInstruction hu).trans (congrArg _ ((scalarInstruction_runs hx hp (.inl (ho ▸ hn))).trans ht))
  have hop {t : State} (h : fld w 0 7 = 0x33) (ht : seqOp u w s = t) := hrun h (by decide) ((seqRun_op h).trans ht)
  have himm {t : State} (h : fld w 0 7 = 0x13) (ht : seqOpImm u w s = t) := hrun h (by decide) ((seqRun_opImm h).trans ht)
  have hjal {t : State} (h : fld w 0 7 = 0x6F) (ht : s.jump u (iRd w) (c.pc + immJ w) = t) :=
    hrun h (by decide) ((seqRun_jal h).trans ht)
  have hjalr {t : State} (h : fld w 0 7 = 0x67) (h3 : fld w 12 3 = 0)
      (ht : s.jump u (iRd w) ((a + immI w) &&& 0xFFFFFFFE#32) = t) := hrun h (by decide) ((seqRun_jalr h h3).trans ht)
  have hbranch {t : State} {taken : Bool} (h : fld w 0 7 = 0x63) (hb : branchIf (fld w 12 3) a b = some taken)
      (ht : (if taken then s.jump u 0 (c.pc + immB w) else s.pass u) = t) :=
    hrun h (by decide) ((seqRun_branch h hb).trans ht)
  exact ⟨fun h h7 => hop h (seqOp_base h7), fun h h7 h3 => hop h (seqOp_alt h7 h3), fun h h7 => hop h (seqOp_mulDiv h7),
    fun h h1 h5 => himm h (seqOpImm_alu h1 h5),
    fun h h3 h7 => himm h ((seqOpImm_shiftLeft h3).trans (if_pos h7)),
    fun h h3 h7 => himm h ((seqOpImm_shiftRight h3).trans (by rw [if_pos (.inl h7), if_neg (by omega)]; rfl)),
    fun h h3 h7 => himm h ((seqOpImm_shiftRight h3).trans (by rw [if_pos (.inr h7), if_pos h7]; rfl)),
    fun h => hrun h (by decide) (seqRun_lui h), fun h => hrun h (by decide) (seqRun_auipc h),
    fun h h4 => hjal h (State.jump_aligned h4), fun h h4 => hjal h (State.jump_misaligned h4),
    fun h h3 h4 => hjalr h h3 (State.jump_aligned h4), fun h h3 h4 => hjalr h h3 (State.jump_misaligned h4),
    fun h hb h4 => hbranch h hb (State.jump_misaligned h4), fun h hb h4 => hbranch h hb (State.jump_aligned h4),
    fun h hb => hbranch h hb rfl⟩

end Sys2Proof.Machine
end

section
/-! Traps and illegal instructions of the sequencer (R46, R47, R53 to R55), and CHECKIN. -/

namespace Sys2Proof.Machine

section
variable {s : State} {u : UnitId} {w : W32}

/-! ### Illegal words -/

/-- The opcodes of RV32IMF, Zicsr, Zifencei and the four Daxix classes. -/
def assignedOpcodes : List Nat :=
  [0x03, 0x07, 0x0B, 0x0F, 0x13, 0x17, 0x23, 0x27, 0x2B, 0x33, 0x37, 0x43, 0x47, 0x4B, 0x4F, 0x53, 0x5B, 0x63, 0x67, 0x6F, 0x73, 0x7B]

theorem orderedOpcodes_assigned : orderedOpcodes ⊆ assignedOpcodes := by decide

theorem seqRun_unassigned (h : fld w 0 7 ∉ assignedOpcodes) : seqRun u w s = s.illegal u w := by
  simp only [assignedOpcodes, List.mem_cons, List.not_mem_nil, or_false, not_or] at h
  unfold seqRun
  split
  iterate 22
    · omega
  · rfl

theorem branchIf_reserved {f3 : Nat} (h : f3 = 2 ∨ f3 = 3) (a b : W32) : branchIf f3 a b = none := by
  rcases h with rfl | rfl <;> rfl

theorem seqQ_reserved (h : fld w 25 7 ≠ 0 ∨ 5 ≤ fld w 12 3) : seqQ u w s = s.illegal u w := by
  rcases h with h7 | h3
  · exact if_pos h7
  · obtain ⟨k, hk⟩ := Nat.exists_eq_add_of_le' h3
    simp only [seqQ, iF3, hk, ite_self]

theorem seqS_reserved (h : fld w 25 7 ≠ 0 ∨ 5 ≤ fld w 12 3) : seqS u w s = s.illegal u w := by
  rcases h with h7 | h3
  · exact if_pos h7
  · obtain ⟨k, hk⟩ := Nat.exists_eq_add_of_le' h3
    simp only [seqS, iF3, hk, ite_self]

theorem seqM_reserved (h : 6 ≤ fld w 12 3) : seqM u w s = s.illegal u w := by
  obtain ⟨k, hk⟩ := Nat.exists_eq_add_of_le' h
  simp only [seqM, iF3, hk]

theorem seqV_reserved (h : 0x1D ≤ fld w 25 6) : seqV u w s = s.illegal u w := by
  obtain ⟨k, hk⟩ := Nat.exists_eq_add_of_le' h
  simp only [seqV, hk]

/-! ### The SYSTEM group without CSR instructions -/

theorem seqSystem_ecall : seqSystem u 0x00000073#32 s = s.trap u exEcall 0 := rfl

theorem seqSystem_ebreak : seqSystem u 0x00100073#32 s = s.trap u exBreak (s.core u).pc := rfl

theorem seqSystem_mret :
    seqSystem u 0x30200073#32 s =
      let c := s.core u
      let st := c.rcsr csrMstatus
      s.setCore u { (c.wcsr csrMstatus (setFld (setFld st 3 1 (fld st 7 1)) 7 1 1)).advance with
        pc := c.rcsr csrMepc &&& 0xFFFFFFFC#32 } := rfl

theorem seqSystem_wfi : seqSystem u 0x10500073#32 s = s.setCore u { (s.core u).advance with wfi := true } := rfl

theorem seqSystem_reserved (h3 : fld w 12 3 = 0) (h : w ∉ [0x00000073#32, 0x00100073#32, 0x30200073#32, 0x10500073#32]) :
    seqSystem u w s = s.illegal u w := by
  simp only [List.mem_cons, List.not_mem_nil, or_false, not_or] at h
  obtain ⟨hecall, hebreak, hmret, hwfi⟩ := h
  simp only [seqSystem, iF3, h3, hecall, hebreak, hmret, hwfi, ne_eq, not_true, if_false]

/-! ### CHECKIN (R55) -/

theorem seqS_checkin (h7 : fld w 25 7 = 0) (h3 : fld w 12 3 = 2) : seqS u w s = seqCheckin u (iRs1 w) s := by
  simp only [seqS, iF3, iF7, h7, h3, ne_eq, not_true, if_false]

end

/-- Settles O13: what is reserved of each opcode is illegal, and the words of the SYSTEM group and CHECKIN do what they say. -/
theorem illegalInstructions : Obligations.IllegalInstructions := by
  unfold Obligations.IllegalInstructions
  intro s u w hu hx hp c run st trapped
  have hrun : ∀ {t : State}, fld w 0 7 ∉ orderedOpcodes → seqRun u w s = t → run = .next t := fun hn ht =>
    (exec_scalarInstruction hu).trans (congrArg _ ((scalarInstruction_runs hx hp (.inl hn)).trans ht))
  have hopcode : ∀ {n : Nat} {t : State}, fld w 0 7 = n → n ∉ orderedOpcodes → seqRun u w s = t → run = .next t := fun ho hn =>
    hrun (ho ▸ hn)
  have hsystem {t : State} (h : fld w 0 7 = 0x73) (ht : seqSystem u w s = t) := hopcode h (by decide) ((seqRun_system h).trans ht)
  have himm {t : State} (h : fld w 0 7 = 0x13) (ht : seqOpImm u w s = t) := hopcode h (by decide) ((seqRun_opImm h).trans ht)
  have hclassQS (h : fld w 0 7 = 0x0B ∨ fld w 0 7 = 0x7B) (hr : fld w 25 7 ≠ 0 ∨ 5 ≤ fld w 12 3) : run = .next (s.illegal u w) := by
    rcases h with h | h
    · exact hopcode h (by decide) ((seqRun_classQ h).trans (seqQ_reserved hr))
    · exact hopcode h (by decide) ((seqRun_classS h).trans (seqS_reserved hr))
  refine ⟨fun h h7 => hclassQS h (.inl h7), fun h h3 => hclassQS h (.inr h3),
    fun h h3 => hopcode h (by decide) ((seqRun_classM h).trans (seqM_reserved h3)),
    fun h hv => hopcode h (by decide) ((seqRun_classV h).trans (seqV_reserved hv)),
    fun h => hrun (fun ho => h (orderedOpcodes_assigned ho)) (seqRun_unassigned h),
    fun h h3 h7 => himm h ((seqOpImm_shiftLeft h3).trans (if_neg h7)),
    fun h h3 h0 h20 => himm h ((seqOpImm_shiftRight h3).trans (if_neg (not_or.2 ⟨h0, h20⟩))),
    fun h h0 h1 h20 => hopcode h (by decide) ((seqRun_op h).trans (seqOp_reserved h0 h1 h20)),
    fun h h3 => hopcode h (by decide) (seqRun_branch_reserved h (branchIf_reserved h3 _ _)),
    fun h h3 hw => hsystem h (seqSystem_reserved h3 hw), rfl, ?ecall, ?ebreak, ?wfi, ?mret, fun h h7 h3 => ?checkin⟩
  case ecall => rintro rfl; exact hsystem (by decide) seqSystem_ecall
  case ebreak => rintro rfl; exact hsystem (by decide) seqSystem_ebreak
  case wfi => rintro rfl; exact hsystem (by decide) seqSystem_wfi
  case mret => rintro rfl; exact hsystem (by decide) seqSystem_mret
  case checkin =>
    exact hopcode h (by decide) ((seqRun_classS h).trans (seqS_checkin h7 h3))

end Sys2Proof.Machine
end

section
/-! The sequencer's loads and stores (R45, R56, R62). -/

namespace Sys2Proof.Machine

/-! ### The map (R45) -/

section
variable {a n : Nat}

theorem seqPlace_sp (h : a + n ≤ 0x40000) : seqPlace a n = .sp a := if_pos h

theorem seqPlace_win (h : 0x10000000 ≤ a ∧ a + n ≤ 0x10010000) : seqPlace a n = .win (a % 0x10000) :=
  (if_neg (by simp only [spSize]; omega)).trans (if_pos h)

theorem seqPlace_out (h : ¬ (a + n ≤ 0x40000 ∨ (0x10000000 ≤ a ∧ a + n ≤ 0x10010000))) : seqPlace a n = .out :=
  (if_neg (mt .inl h)).trans (if_neg (mt .inr h))

theorem seqPlace_ne_out (h : a + n ≤ 0x40000 ∨ (0x10000000 ≤ a ∧ a + n ≤ 0x10010000)) : seqPlace a n ≠ .out := by
  rcases h with h | h
  · simp [seqPlace_sp h]
  · simp [seqPlace_win h]

end

/-! ### Loads and stores of n bytes (R45, R62) -/

section
variable {s t : State} {u : UnitId} {a : W32} {n off : Nat}

section
variable {wr : State → Nat → State}

theorem State.load_misaligned (ha : a.toNat % n ≠ 0) : s.load u a n wr = s.trap u exLoadMis a := by
  simp only [State.load, State.seqLoad, ne_eq, ha, not_false_eq_true, if_true]

section
variable (ha : a.toNat % n = 0)
include ha

/-- A load from the scratchpad goes by what its code says of the words. -/
theorem State.load_sp (hp : seqPlace a.toNat n = .sp off) {bs : Option (List Byte)} (hr : s.spRead u off n = (bs, t)) :
    s.load u a n wr = match bs with
      | some bs => wr t (ofBytesLE bs)
      | none => t.trap u exLoad a := by
  simp only [State.load, State.seqLoad, ne_eq, ha, not_true, if_false, hp, hr]
  cases bs <;> rfl

/-- A load from the window takes its bytes of the register. -/
theorem State.load_win (hp : seqPlace a.toNat n = .win off) {x : W32} (hr : s.read (uPage u 0 + off / 4 * 4) = (x, t)) :
    s.load u a n wr = wr t (nfld x.toNat (8 * (off % 4)) (8 * n)) := by
  simp only [State.load, State.seqLoad, ne_eq, ha, not_true, if_false, hp, hr]

theorem State.load_out (hp : seqPlace a.toNat n = .out) : s.load u a n wr = s.trap u exLoad a := by
  simp only [State.load, State.seqLoad, ne_eq, ha, not_true, if_false, hp]

end
end

section
variable {v : W32}

theorem State.store_misaligned (ha : a.toNat % n ≠ 0) : s.store u a n v = s.trap u exStoreMis a := by
  simp only [State.store, State.seqStore, ne_eq, ha, not_false_eq_true, if_true]

section
variable (ha : a.toNat % n = 0)
include ha

theorem State.store_sp (hp : seqPlace a.toNat n = .sp off) :
    s.store u a n v = (s.spWrite u off (bytesLE n (v.toNat % 2 ^ (8 * n)))).pass u := by
  simp only [State.store, State.seqStore, ne_eq, ha, not_true, if_false, hp]

/-- A store to the window writes the register with the byte enables of its bytes. -/
theorem State.store_win (hp : seqPlace a.toNat n = .win off) :
    s.store u a n v = (s.regWriteW (.dom (s.domainOf u)) (uPage u 0 + off / 4 * 4)
      (some (w32 ((v.toNat % 2 ^ (8 * n)) <<< (8 * (off % 4))))) ((2 ^ n - 1) <<< (off % 4))).pass u := by
  simp only [State.store, State.seqStore, ne_eq, ha, not_true, if_false, hp]

theorem State.store_out (hp : seqPlace a.toNat n = .out) : s.store u a n v = s.trap u exStore a := by
  simp only [State.store, State.seqStore, ne_eq, ha, not_true, if_false, hp]

end
end
end

/-! ### The instructions -/

section
variable {s : State} {u : UnitId} {w : W32} {n : Nat}

/-- Widths and extensions of the loads. -/
theorem seqLoads_form {ext : Nat → W32}
    (h : (fld w 12 3 = 0 ∧ n = 1 ∧ ext = sext 8) ∨ (fld w 12 3 = 1 ∧ n = 2 ∧ ext = sext 16) ∨
      (fld w 12 3 = 2 ∧ n = 4 ∧ ext = w32) ∨ (fld w 12 3 = 4 ∧ n = 1 ∧ ext = w32) ∨ (fld w 12 3 = 5 ∧ n = 2 ∧ ext = w32)) :
    seqLoads u w s = s.load u ((s.core u).rx (iRs1 w) + immI w) n (fun t v => t.toX u (iRd w) (ext v)) := by
  rcases h with ⟨h3, rfl, rfl⟩ | ⟨h3, rfl, rfl⟩ | ⟨h3, rfl, rfl⟩ | ⟨h3, rfl, rfl⟩ | ⟨h3, rfl, rfl⟩
  iterate 5
    · simp only [seqLoads, iF3, h3]

/-- Widths of the stores. -/
theorem seqStores_form (h : (fld w 12 3 = 0 ∧ n = 1) ∨ (fld w 12 3 = 1 ∧ n = 2) ∨ (fld w 12 3 = 2 ∧ n = 4)) :
    seqStores u w s = s.store u ((s.core u).rx (iRs1 w) + immS w) n ((s.core u).rx (iRs2 w)) := by
  rcases h with ⟨h3, rfl⟩ | ⟨h3, rfl⟩ | ⟨h3, rfl⟩
  iterate 3
    · simp only [seqStores, iF3, h3]

end

/-- Settles O12: a fetch, a load and a store go by the place of their address; each width and extension is one form. -/
theorem scalarMemory : Obligations.ScalarMemory := by
  unfold Obligations.ScalarMemory
  intro s u w hu hx c run ld st sp win
  have hexec : ∀ {t : State}, scalarInstruction u w s = t → run = .next t := fun ht =>
    (exec_scalarInstruction hu).trans (congrArg _ ht)
  refine ⟨fun hp => hexec (scalarInstruction_fetchFault hx (seqPlace_out hp)), fun hp ho hv => hexec ?behind,
    fun hp hv => ⟨fun ho n ext hform => ?load, fun ho n hform => ?store⟩⟩
  case behind =>
    refine scalarInstruction_waits hx (seqPlace_ne_out hp) ?_ hv
    rcases ho with ho | ho
    · rw [ho]; decide
    · rw [ho]; decide
  case load =>
    have hld : ∀ {t : State}, s.load u ld n (fun t v => t.toX u (iRd w) (ext v)) = t → run = .next t := fun ht =>
      hexec ((scalarInstruction_runs hx (seqPlace_ne_out hp) (.inr hv)).trans
        ((seqRun_load ho).trans ((seqLoads_form hform).trans ht)))
    refine ⟨fun ha => hld (State.load_misaligned ha), fun ha => ⟨fun hsp bs t hr => ?_,
      fun hwin x t hr => hld (State.load_win ha (seqPlace_win hwin) hr), fun hout => hld (State.load_out ha (seqPlace_out hout))⟩⟩
    cases bs with
    | some bs => exact hld (State.load_sp ha (seqPlace_sp hsp) hr)
    | none => exact hld (State.load_sp ha (seqPlace_sp hsp) hr)
  case store =>
    intro v
    have hst : ∀ {t : State}, s.store u st n (c.rx (iRs2 w)) = t → run = .next t := fun ht =>
      hexec ((scalarInstruction_runs hx (seqPlace_ne_out hp) (.inr hv)).trans
        ((seqRun_store ho).trans ((seqStores_form hform).trans ht)))
    exact ⟨fun ha => hst (State.store_misaligned ha), fun ha => ⟨fun hsp => hst (State.store_sp ha (seqPlace_sp hsp)),
      fun hwin => hst (State.store_win ha (seqPlace_win hwin)), fun hout => hst (State.store_out ha (seqPlace_out hout))⟩⟩

end Sys2Proof.Machine
end

section
/-! Packages, the switch of the plan's bank and result rings (R87, R89, R94, R111, R301): how each request is judged, and what ends it. -/

namespace Sys2Proof.Machine

/-! ### Loads and unloads (R89) -/

/-- A package index emptied for a load from the address written before. -/
def State.pkgEmptied (s : State) (n : Nat) : State := { s with plan := { s.plan with
  pkgs := Tab.set none s.plan.pkgs n none, pkgGen := Tab.set 0 s.plan.pkgGen n (Tab.get 0 s.plan.pkgGen n + 1),
  pkgAddr := Tab.set 0 s.plan.pkgAddr n ((s.reg (rpPage + 0x064)).toNat + 2 ^ 32 * s.regF (rpPage + 0x068) 0 16) } }

/-- Whether the bank of a pending switch names a package index. -/
def State.pendingNames (s : State) (n : Nat) : Bool := match s.plan.switch with | some x => s.bankNames x.bank n | none => false

section
variable {s : State} {n : Nat}

theorem pkgLoad_named (h : s.bankNames s.activeBank n = true) : pkgLoad n s = s.pkgResult n false 3 3 := if_pos h

section
variable (h : s.bankNames s.activeBank n = false)
include h

theorem pkgLoad_loads (hb : bit (s.reg (gkBootPage + 0x040)) 8 = true) :
    pkgLoad n s = ((s.pkgEmptied n).setPkgStat n 1).pkgResult n false 1 0 :=
  (if_neg (ne_true_of_eq_false h)).trans (if_pos hb)

/-- The Groundskeeper is not READY. -/
theorem pkgLoad_unready (hb : bit (s.reg (gkBootPage + 0x040)) 8 = false) :
    pkgLoad n s = ((s.pkgEmptied n).setPkgStat n 3).pkgResult n false 3 4 :=
  (if_neg (ne_true_of_eq_false h)).trans (if_neg (ne_true_of_eq_false hb))

end

theorem pkgUnload_named (h : s.bankNames s.activeBank n = true ∨ s.pendingNames n = true) :
    pkgUnload n s = s.pkgResult n true 3 3 := if_pos (Bool.or_eq_true_iff.2 h)

theorem pkgUnload_unnamed (h : s.bankNames s.activeBank n = false) (hp : s.pendingNames n = false) :
    pkgUnload n s = ((({ s with plan := { s.plan with pkgs := Tab.set none s.plan.pkgs n none } } : State)).setPkgStat n 0).pkgResult
      n true 2 0 :=
  if_neg (ne_true_of_eq_false (Bool.or_eq_false_iff.2 ⟨h, hp⟩))

end

/-! ### The end of a load (R87, R89) -/

/-- Both reads of a package succeed, and its signature, digests, epoch and CRC hold. -/
def PkgGenuine (t : State) (st0 st1 : Nat) (all : List Byte) : Prop :=
  st0 = 0 ∧ st1 = 0 ∧ pkgSigned (t.credKey 0x180 8) (t.credArb 24) all = true

theorem pkgGenuine_iff {t : State} {st0 st1 : Nat} {all : List Byte} : PkgGenuine t st0 st1 all ↔
    ¬ (st0 ≠ 0 ∨ st1 ≠ 0 ∨ pkgSigned (t.credKey 0x180 8) (t.credArb 24) all = false) := by
  simp [PkgGenuine]

/-- A package's CONST image written to the places given, and its description held in the index. -/
def State.pkgPlaced (t : State) (n : Nat) (p : PkgDesc) : State :=
  let u := (constPlaces p).foldl (fun t k => (t.writeB gkSrc (p.constBase.getD k 0).toNat p.constImage).2) t
  { u with plan := { u.plan with pkgs := Tab.set none u.plan.pkgs n (some p) } }

section
variable {s t1 t2 : State} {n st0 st1 : Nat} {d : PkgDesc} {hdr all : List Byte}

theorem pkgLoadComplete_notLoading (h : s.pkgStat n ≠ 1) : pkgLoadComplete n d s = s := if_pos h

section
variable (hs : s.pkgStat n = 1) (h0 : s.readB gkSrc (Tab.get 0 s.plan.pkgAddr n) 256 = (st0, hdr, t1))
  (h1 : t1.readB gkSrc (Tab.get 0 s.plan.pkgAddr n) (ofBytesLE ((hdr.drop 16).take 8)) = (st1, all, t2))
include hs h0 h1

theorem pkgLoadComplete_forged (hg : ¬ PkgGenuine t2 st0 st1 all) : pkgLoadComplete n d s = t2.pkgEnd n 3 1 := by
  simp only [pkgLoadComplete, if_neg (not_not_intro hs), h0, h1]
  exact if_pos (Classical.not_not.1 (mt pkgGenuine_iff.2 hg))

section
variable (hg : PkgGenuine t2 st0 st1 all)
include hg

theorem pkgLoadComplete_badTols (ht : parseTols (all.length / 16 + 1) (sectionOf all 5) = none) :
    pkgLoadComplete n d s = t2.pkgEnd n 3 2 := by
  simp only [pkgLoadComplete, if_neg (not_not_intro hs), h0, h1, if_neg (pkgGenuine_iff.1 hg), ht]

section
variable {tols : List TolRec} (ht : parseTols (all.length / 16 + 1) (sectionOf all 5) = some tols)
include ht

/-- A genuine package goes by the rules and by the places given to its CONST image. -/
theorem pkgLoadComplete_genuine :
    pkgLoadComplete n d s =
      let p := readPkg all d tols
      if !pkgRules all p then t2.pkgEnd n 3 2
      else if !basesOk p then s
      else ((t2.pkgPlaced n p).pkgEnd n 2 0).gkExtend 5 (sha256 hdr) := by
  simp only [pkgLoadComplete, if_neg (not_not_intro hs), h0, h1, if_neg (pkgGenuine_iff.1 hg), ht, State.pkgPlaced]

theorem pkgLoadComplete_breaksRules (hr : pkgRules all (readPkg all d tols) = false) :
    pkgLoadComplete n d s = t2.pkgEnd n 3 2 :=
  (pkgLoadComplete_genuine hs h0 h1 hg ht).trans (if_pos (by simp [hr]))

section
variable (hr : pkgRules all (readPkg all d tols) = true)
include hr

theorem pkgLoadComplete_misplaced (hb : basesOk (readPkg all d tols) = false) : pkgLoadComplete n d s = s :=
  (pkgLoadComplete_genuine hs h0 h1 hg ht).trans ((if_neg (by simp [hr])).trans (if_pos (by simp [hb])))

theorem pkgLoadComplete_loaded (hb : basesOk (readPkg all d tols) = true) :
    pkgLoadComplete n d s = ((t2.pkgPlaced n (readPkg all d tols)).pkgEnd n 2 0).gkExtend 5 (sha256 hdr) :=
  (pkgLoadComplete_genuine hs h0 h1 hg ht).trans ((if_neg (by simp [hr])).trans (if_neg (by simp [hb])))

end
end
end
end
end

/-! ### The request for a switch (R94) -/

section
variable {s : State} {b : Nat}

theorem State.supersede_eq : s.supersede = if s.plan.switch = none then s else
    (({ s with plan := { s.plan with switch := none, declared := s.plan.declared.map (fun d => (d.1, true)) } } : State)).switchStat 3 7 0 :=
  ite_congr (propext Option.isNone_iff_eq_none) (fun _ => rfl) (fun _ => rfl)

theorem bankSwitch_active (h : b = s.supersede.activeBank) : bankSwitch b s = s.supersede.switchStat 3 8 0 := if_pos h

section
variable (h : b ≠ s.supersede.activeBank)
include h

theorem bankSwitch_fails (hc : (s.supersede.bankCheck b).1 ≠ 0) :
    bankSwitch b s = s.supersede.switchStat 3 (s.supersede.bankCheck b).1 (s.supersede.bankCheck b).2 :=
  (if_neg h).trans (if_pos hc)

theorem bankSwitch_declares (hc : (s.supersede.bankCheck b).1 = 0) {bs : List Byte} {u : State}
    (hbs : declBytes (s.supersede.declOf b) = bs)
    (hu : (s.supersede.sendXfer idRunPlan idGatehouse 0x13 (bs.length / 240 + 1) bs).switchStat 1 0 0 = u) :
    bankSwitch b s =
      { u with plan := { u.plan with switch := some ⟨b, u.frc, none⟩, declared := u.plan.declared ++ [(u.frc, false)] } } := by
  subst hbs hu
  exact (if_neg h).trans (if_neg (not_not_intro hc))

end
end

/-! ### The reply and its absence (R94, R301) -/

/-- The oldest transfer that waits for a reply has had it. -/
def State.declReplied (t : State) : State := { t with plan := { t.plan with declared := t.declOpen.tail } }
/-- The state that a reply carries: GH_DECL_STAT's. -/
def replyState (bs : List Byte) : Nat := nfld (ofBytesLE (bs.take 4)) 0 2

/-- What the reply to the oldest transfer decides, where `old` says whether that transfer's switch was abandoned. -/
def State.takeReply (u : State) (oldest : Option (Tick × Bool)) (st : Nat) : State :=
  match u.plan.switch, oldest with
  | some x, some (_, old) =>
    if x.accepted.isSome ∨ old = true then u
    else if st = 2 then { u with plan := { u.plan with switch := some { x with accepted := some u.frc } } }
    else if st = 3 then u.switchRefused else u
  | _, _ => u

/-- A reply answers a switch that waits for one. -/
def Answers (u : State) (oldest : Option (Tick × Bool)) : Prop :=
  ∃ x d, u.plan.switch = some x ∧ x.accepted = none ∧ oldest = some (d, false)

section
variable {u : State} {oldest : Option (Tick × Bool)} {st : Nat}

theorem State.takeReply_unasked (h : ¬ Answers u oldest) : u.takeReply oldest st = u := by
  cases hx : u.plan.switch with
  | none => simp only [State.takeReply, hx]
  | some x =>
    rcases oldest with _ | ⟨d, old⟩
    · simp only [State.takeReply, hx]
    · have hg : x.accepted.isSome = true ∨ old = true := by
        refine Classical.byContradiction fun hn => ?_
        obtain ⟨ha, ho⟩ := not_or.1 hn
        exact h ⟨x, d, hx, by simpa using ha, by simpa using ho⟩
      simp only [State.takeReply, hx, if_pos hg]

section
variable {x : SwitchSt} {d : Tick} (hx : u.plan.switch = some x) (ha : x.accepted = none) (ho : oldest = some (d, false))
include hx ha ho

theorem State.takeReply_answers :
    u.takeReply oldest st =
      if st = 2 then { u with plan := { u.plan with switch := some { x with accepted := some u.frc } } }
      else if st = 3 then u.switchRefused else u := by
  simp only [State.takeReply, hx, ho, ha, Option.isSome_none, Bool.false_eq_true, or_self, if_false]

theorem State.takeReply_accepts (h2 : st = 2) :
    u.takeReply oldest st = { u with plan := { u.plan with switch := some { x with accepted := some u.frc } } } :=
  (State.takeReply_answers hx ha ho).trans (if_pos h2)

theorem State.takeReply_refuses (h3 : st = 3) : u.takeReply oldest st = u.switchRefused :=
  (State.takeReply_answers hx ha ho).trans ((if_neg (by omega)).trans (if_pos h3))

theorem State.takeReply_undecided (h2 : st ≠ 2) (h3 : st ≠ 3) : u.takeReply oldest st = u :=
  (State.takeReply_answers hx ha ho).trans ((if_neg h2).trans (if_neg h3))

end
end

section
variable {s t : State} {m : PMsg}

theorem declareReply_unheard (hr : s.recv 4 (decide (m.type = 0x14)) m = (none, t)) : declareReply m s = t := by
  simp only [declareReply, hr]

theorem declareReply_heard {bs : List Byte} (hr : s.recv 4 (decide (m.type = 0x14)) m = (some bs, t)) :
    declareReply m s = t.declReplied.takeReply t.declOpen.head? (replyState bs) := by
  simp only [declareReply, hr]
  rfl

/-- A switch has waited 100 ms for its reply. -/
def SwitchLate (s : State) : Prop := ∃ x, s.plan.switch = some x ∧ x.accepted = none ∧ x.sent + 50000000 ≤ s.frc

theorem declareTimeout_late (h : SwitchLate s) : declareTimeout s = s.switchRefused := by
  obtain ⟨x, hx, ha, ht⟩ := h
  simp only [declareTimeout, hx, if_pos (And.intro ha ht)]

theorem declareTimeout_early (h : ¬ SwitchLate s) : declareTimeout s = s := by
  cases hx : s.plan.switch with
  | none => simp only [declareTimeout, hx]
  | some x => simp only [declareTimeout, hx, if_neg (fun hl => h ⟨x, hx, hl⟩)]

end

/-! ### Result rings (R111) -/

section
variable {s : State} {svc : Nat} {v : W32}

theorem ringWrite_base (h : fld v 0 12 = 0) : ringWrite svc 0 v s = s.setReg (rpPage + 0x400 + 16 * svc) v := if_pos h

theorem ringWrite_baseUnaligned (h : fld v 0 12 ≠ 0) : ringWrite svc 0 v s = s := if_neg h

theorem ringWrite_high : ringWrite svc 1 v s = s.setReg (rpPage + 0x400 + 16 * svc + 4) (v &&& 0xFFFF#32) := rfl

theorem ringWrite_config (h : v &&& 0xFF0F#32 = 0 ∨ (2 ≤ fld v 0 4 ∧ fld v 0 4 ≤ 10)) :
    ringWrite svc 2 v s = s.setReg (rpPage + 0x400 + 16 * svc + 8) (v &&& 0xFF0F#32) := if_pos h

theorem ringWrite_configOut (h0 : v &&& 0xFF0F#32 ≠ 0) (hn : ¬ (2 ≤ fld v 0 4 ∧ fld v 0 4 ≤ 10)) : ringWrite svc 2 v s = s :=
  if_neg (not_or.2 ⟨h0, hn⟩)

theorem exec_resultRingConfigWrite {w : Writer} {svc : BitVec 6} {which : Nat} (h : which < 3) :
    exec (.resultRingConfigWrite w svc which v) s = .next (ringWrite svc.toNat which v s) := onUnit_next (decide_eq_true h)

end

/-- Settles O14: requests go by who names the index and by READY, a load's end by what was read, a switch by the bank's checks, a reply
by the transfer that it answers, and a ring register by its range. -/
theorem packagesAndPlanSwitch : Obligations.PackagesAndPlanSwitch := by
  unfold Obligations.PackagesAndPlanSwitch
  intro s w i v n named pend
  have hload : exec (.pkgLoad w i) s = .next (pkgLoad n s) := rfl
  have hunload : exec (.pkgUnload w i) s = .next (pkgUnload n s) := rfl
  have hcomplete : ∀ {d t}, pkgLoadComplete n d s = t → exec (.pkgLoadComplete i d) s = .next t := fun h => congrArg _ h
  have hswitch : ∀ {t}, bankSwitch (fld v 0 1) s = t → exec (.bankSwitchRequest w v) s = .next t := fun h => congrArg _ h
  have hreply : ∀ {m t}, declareReply m s = t → exec (.declareReply m) s = .next t := fun h => congrArg _ h
  have htimeout : exec .declareReplyTimeout s = .next (declareTimeout s) := rfl
  rw [hload, hunload, htimeout]
  refine ⟨fun h => congrArg _ (pkgLoad_named h), fun h => ⟨fun hb => congrArg _ (pkgLoad_loads h hb),
      fun hb => congrArg _ (pkgLoad_unready h hb)⟩,
    fun h => congrArg _ (pkgUnload_named h), fun h hp => congrArg _ (pkgUnload_unnamed h hp),
    fun d h => hcomplete (pkgLoadComplete_notLoading h), fun d st0 hdr t1 st1 all t2 hs => ?complete, ?switch,
    fun m p t hr => ?reply, ⟨fun h => congrArg _ (declareTimeout_late h), fun h => congrArg _ (declareTimeout_early h)⟩,
    fun svc => ?ring⟩
  case complete =>
    intro addr h0 h1 good
    exact ⟨fun hg => hcomplete (pkgLoadComplete_forged hs h0 h1 hg), fun hg =>
      ⟨fun ht => hcomplete (pkgLoadComplete_badTols hs h0 h1 hg ht), fun tols ht =>
        ⟨fun hr => hcomplete (pkgLoadComplete_breaksRules hs h0 h1 hg ht hr),
          fun hr hb => hcomplete (pkgLoadComplete_misplaced hs h0 h1 hg ht hr hb),
          fun hr hb => hcomplete (pkgLoadComplete_loaded hs h0 h1 hg ht hr hb)⟩⟩⟩
  case switch =>
    intro b t
    have ht : t = s.supersede := State.supersede_eq.symm
    rw [ht]
    refine ⟨fun hb => hswitch (bankSwitch_active hb), fun hb hc => hswitch (bankSwitch_fails hb hc), fun hb hc => ?_⟩
    intro bs u
    exact hswitch (bankSwitch_declares hb hc rfl rfl)
  case reply =>
    refine ⟨fun hp => hreply (declareReply_unheard (hp ▸ hr)), fun bs hp => ?_⟩
    have hheard := declareReply_heard (hp ▸ hr)
    exact ⟨fun h => hreply (hheard.trans (State.takeReply_unasked h)), fun x d hx ha hd =>
      ⟨fun h2 => hreply (hheard.trans (State.takeReply_accepts hx ha hd h2)),
        fun h3 => hreply (hheard.trans (State.takeReply_refuses hx ha hd h3)),
        fun h2 h3 => hreply (hheard.trans (State.takeReply_undecided hx ha hd h2 h3))⟩⟩
  case ring =>
    rw [exec_resultRingConfigWrite (by omega), exec_resultRingConfigWrite (by omega), exec_resultRingConfigWrite (by omega)]
    exact ⟨congrArg _ ringWrite_high, fun h => congrArg _ (ringWrite_base h), fun h => congrArg _ (ringWrite_baseUnaligned h),
      fun h => congrArg _ (ringWrite_config h), fun h0 hn => congrArg _ (ringWrite_configOut h0 hn)⟩

end Sys2Proof.Machine
end

section
/-! The run-plan block's commands (R95, R98, R99, R107, R108, R195, R211 to R213): gathers, starts, what cores report, and deadlines. -/

namespace Sys2Proof.Machine

/-! ### Gathers (R96) -/

section
variable {s : State} {n : Nat}

theorem gatherWindowClose_none (h : Tab.get none s.plan.gathers n = none) : gatherWindowClose n s = s := by
  simp only [gatherWindowClose, h]

section
variable {g : Gather} (h : Tab.get none s.plan.gathers n = some g)
include h

theorem gatherWindowClose_over (ho : s.gatherOver n g = true) : gatherWindowClose n s = s.closeGather n g := by
  simp only [gatherWindowClose, h, if_pos ho]

theorem gatherWindowClose_open (ho : s.gatherOver n g = false) : gatherWindowClose n s = s := by
  simp only [gatherWindowClose, h, if_neg (ne_true_of_eq_false ho)]

end
end

/-! ### Starts (R95, R107, R211) -/

/-- The waiting copy that RUN_START is for. -/
def startable (n : Nat) (proof copyB : Bool) (r : Run) : Bool :=
  decide (r.entry = n) && decide (r.proof = proof) && r.copies.contains copyB && r.waits copyB

/-- A copy of a run needs a Pavilion of a set. -/
def Run.meets (o : Run) (b : Bool) (set : Nat) : Bool := decide ((o.copy b).set &&& set ≠ 0)

/-- Pavilion p takes runs. -/
def State.pavReady (s : State) (p : Nat) : Prop := s.gate (pavUid p) = 0 ∧ s.held (pavUid p) = false ∧ s.tripped (p / 4) = false

/-- Copy b of another run lets a run start on a set: it neither waits before it nor holds a Pavilion that it may not be preempted from. -/
def State.givesWay (s : State) (o r : Run) (b : Bool) (set : Nat) : Prop :=
  ¬ (o.waits b = true ∧ o.meets b set = true ∧ runsBefore o r = true) ∧
  (s.copyHolds o b = true → o.meets b set = true → canPreempt r o = true)

/-- What the start of a copy needs. -/
def State.mayStart (s : State) (r : Run) (copyB : Bool) : Prop :=
  (∀ p ∈ bitsOf 8 (r.copy copyB).set, s.pavReady p) ∧ s.oldHolds r copyB = false ∧ s.overdue r = false ∧
  (∀ o ∈ s.plan.runs, sameRun o r = false → ∀ b ∈ o.copies, s.givesWay o r b (r.copy copyB).set)

/-- The golden runs that the start of a copy would defer for the ninth time. -/
def State.ninths (s : State) (r : Run) (copyB : Bool) : List Run := (s.deferred r copyB).filter (fun g => decide (8 ≤ g.defer))

section
variable {s : State} {n : Nat} {proof copyB : Bool}

theorem State.givesWay_iff {o r : Run} {b : Bool} {set : Nat} : s.givesWay o r b set ↔
    (!(o.waits b && o.meets b set && runsBefore o r)) = true ∧ (!(s.copyHolds o b && o.meets b set) || canPreempt r o) = true := by
  simp [State.givesWay, Decidable.imp_iff_not_or, or_assoc]

/-- The model's tests. -/
theorem State.mayStart_iff {r : Run} :
    s.mayStart r copyB ↔
      ¬ (!(bitsOf 8 (r.copy copyB).set).all (fun p => decide (s.gate (pavUid p) = 0) && !s.held (pavUid p) && !s.tripped (p / 4))
        || s.oldHolds r copyB
        || !s.plan.runs.all (fun o => sameRun o r || o.copies.all (fun b =>
            !(o.waits b && o.meets b (r.copy copyB).set && runsBefore o r)))
        || !s.plan.runs.all (fun o => sameRun o r || o.copies.all (fun b =>
            !(s.copyHolds o b && o.meets b (r.copy copyB).set) || canPreempt r o))
        || s.overdue r) = true := by
  have hready : (bitsOf 8 (r.copy copyB).set).all
      (fun p => decide (s.gate (pavUid p) = 0) && !s.held (pavUid p) && !s.tripped (p / 4)) = true ↔
      ∀ p ∈ bitsOf 8 (r.copy copyB).set, s.pavReady p := by simp [State.pavReady, and_assoc]
  have hway : (∀ o ∈ s.plan.runs, sameRun o r = false → ∀ b ∈ o.copies, s.givesWay o r b (r.copy copyB).set) ↔
      s.plan.runs.all (fun o => sameRun o r || o.copies.all (fun b =>
        !(o.waits b && o.meets b (r.copy copyB).set && runsBefore o r))) = true ∧
      s.plan.runs.all (fun o => sameRun o r || o.copies.all (fun b =>
        !(s.copyHolds o b && o.meets b (r.copy copyB).set) || canPreempt r o)) = true := by
    simp only [State.givesWay_iff, List.all_eq_true, Bool.or_eq_true (sameRun _ _), Decidable.or_iff_not_imp_left, Bool.not_eq_true (sameRun _ _),
      imp_and, forall_and]
  simp only [Bool.not_eq_true, Bool.or_eq_false_iff, Bool.not_eq_false', hready, State.mayStart, hway]
  exact ⟨fun ⟨hp, ho, hd, hfirst, hfree⟩ => ⟨⟨⟨⟨hp, ho⟩, hfirst⟩, hfree⟩, hd⟩,
    fun ⟨⟨⟨⟨hp, ho⟩, hfirst⟩, hfree⟩, hd⟩ => ⟨hp, ho, hd, hfirst, hfree⟩⟩

theorem runStart_none (h : s.plan.runs.find? (startable n proof copyB) = none) : runStart n proof copyB s = s := by
  unfold startable at h
  simp only [runStart, h]

section
variable {r : Run} (h : s.plan.runs.find? (startable n proof copyB) = some r)
include h

theorem runStart_kept (hm : ¬ s.mayStart r copyB) : runStart n proof copyB s = s := by
  unfold startable at h
  simp only [runStart, h]
  exact if_pos (Classical.not_not.1 (mt State.mayStart_iff.2 hm))

section
variable (hm : s.mayStart r copyB)
include hm

/-- A start goes by the golden runs that it would defer once too often. -/
theorem runStart_may :
    runStart n proof copyB s =
      if (s.ninths r copyB).isEmpty then ((s.deferred r copyB).foldl (fun t g => t.deferOne r g) s).startCopy r copyB
      else
        let t := (s.ninths r copyB).foldl (fun t g => t.deferOne r g) s
        if (s.ninths r copyB).any (fun g => decide (g.svc = r.svc)) then t.skipRun r else t := by
  unfold startable at h
  simp only [runStart, h]
  exact if_neg (State.mayStart_iff.1 hm)

theorem runStart_starts (hn : s.ninths r copyB = []) :
    runStart n proof copyB s = ((s.deferred r copyB).foldl (fun t g => t.deferOne r g) s).startCopy r copyB :=
  (runStart_may h hm).trans (if_pos (List.isEmpty_iff.2 hn))

section
variable (hn : s.ninths r copyB ≠ [])
include hn

/-- A golden run of the run's own service costs the run. -/
theorem runStart_skips (hg : ∃ g ∈ s.ninths r copyB, g.svc = r.svc) :
    runStart n proof copyB s = ((s.ninths r copyB).foldl (fun t g => t.deferOne r g) s).skipRun r :=
  (runStart_may h hm).trans ((if_neg (mt List.isEmpty_iff.1 hn)).trans (if_pos (by simpa using hg)))

theorem runStart_forces (hg : ∀ g ∈ s.ninths r copyB, g.svc ≠ r.svc) :
    runStart n proof copyB s = (s.ninths r copyB).foldl (fun t g => t.deferOne r g) s :=
  (runStart_may h hm).trans ((if_neg (mt List.isEmpty_iff.1 hn)).trans (if_neg (by simpa using hg)))

end
end
end
end

/-! ### What cores report (R99, R107, R108) -/

/-- A core in the wait of the resident firmware. -/
def State.inWait (s : State) (u : UnitId) : Prop := (s.core u).run = true ∧ (s.core u).wfi = true ∧ s.isAbsent u = false

/-- A core whose item has ended: its Pavilion's controller is told, and the core takes up other work. -/
def State.itemEnded (s : State) (u : UnitId) : State := ((s.coreDone u).icuPulse (2 + pavIx u) (1 + uClu u)).assignCore u

/-- A core's present item goes to the list of saved ones. -/
def State.saveItem (t : State) (u : UnitId) (j : Job) : State :=
  t.setPlan { t.plan with saved := t.plan.saved ++ [⟨j, pavIx u, coreNo u, j.save⟩] }

section
variable {s : State} {u : UnitId}

theorem State.coreWaits_iff : s.coreWaits u = true ↔ s.inWait u := by
  simp [State.coreWaits, State.inWait, and_assoc]

theorem State.coreWaits_false (h : ¬ s.inWait u) : s.coreWaits u = false := Bool.eq_false_iff.2 (mt State.coreWaits_iff.1 h)

theorem workItemComplete_ignored (h : Tab.get none s.plan.jobs u.toNat = none ∨ ¬ s.inWait u) : workItemComplete u s = s := by
  cases hj : Tab.get none s.plan.jobs u.toNat with
  | none => simp only [workItemComplete, hj]
  | some j =>
    have hw := State.coreWaits_false (h.resolve_left (by simp [hj]))
    simp only [workItemComplete, hj, hw, Bool.not_false, if_true]

theorem coreYield_ignored (h : Tab.get none s.plan.jobs u.toNat = none ∨ ¬ s.inWait u) : coreYield u s = s := by
  cases hj : Tab.get none s.plan.jobs u.toNat with
  | none => simp only [coreYield, hj]
  | some j =>
    have hw := State.coreWaits_false (h.resolve_left (by simp [hj]))
    simp only [coreYield, hj, hw, Bool.not_false, true_or, if_true]

section
variable {j : Job} (hj : Tab.get none s.plan.jobs u.toNat = some j)
include hj

theorem coreYield_unrequested (hb : bit (s.reg (uPage u 1 + 0x07C)) 0 = false) : coreYield u s = s := by
  simp only [coreYield, hj, hb, or_true, if_true]

section
variable (hw : s.inWait u)
include hw

theorem workItemComplete_runGone (hr : (s.itemEnded u).runOfJob j = none) : workItemComplete u s = s.itemEnded u := by
  unfold State.itemEnded at hr ⊢
  simp only [workItemComplete, hj, State.coreWaits_iff.2 hw, Bool.not_true, Bool.false_eq_true, if_false, hr]

/-- The copy of an item that has ended is looked at again. -/
theorem workItemComplete_checks {r : Run} (hr : (s.itemEnded u).runOfJob j = some r) :
    workItemComplete u s = (s.itemEnded u).copyCheck r j.copyB := by
  unfold State.itemEnded at hr ⊢
  simp only [workItemComplete, hj, State.coreWaits_iff.2 hw, Bool.not_true, Bool.false_eq_true, if_false, hr]

section
variable (hb : bit (s.reg (uPage u 1 + 0x07C)) 0 = true)
include hb

theorem coreYield_runGone (hr : s.runOfJob j = none) : coreYield u s = (s.coreDone u).assignCore u := by
  simp only [coreYield, hj, State.coreWaits_iff.2 hw, hb, Bool.not_true, Bool.false_eq_true, reduceCtorEq, or_self, if_false, hr]

section
variable {r : Run} (hr : s.runOfJob j = some r)
include hr

theorem coreYield_stopped (hs : (r.copy j.copyB).stopped = true) : coreYield u s = ((s.coreDone u).assignCore u).goldTimes := by
  simp only [coreYield, hj, State.coreWaits_iff.2 hw, hb, Bool.not_true, Bool.false_eq_true, reduceCtorEq, or_self, if_false, hr, hs,
    if_true]

section
variable (hs : (r.copy j.copyB).stopped = false) {st : Nat} {bs : List Byte} {t : State}
  (hd : s.readB (s.seqSrc (pavIx u)) j.save 16 = (st, bs, t))
include hs hd

/-- A yield goes by the record that the core has written. -/
theorem coreYield_read :
    coreYield u s =
      if imgW bs 0 ≠ 0x56414C44 ∨ w32 (imgW bs 3) ≠ r.seq then t
      else (((((t.writeB (s.seqSrc (pavIx u)) (j.save + 0x150) (bytesLE 16 (t.core u).gen.toNat)).2.coreDone u).saveItem u j).assignCore
        u).goldTimes) := by
  simp only [coreYield, hj, State.coreWaits_iff.2 hw, hb, Bool.not_true, Bool.false_eq_true, reduceCtorEq, or_self, if_false, hr, hs, hd,
    State.saveItem]

theorem coreYield_incomplete (h : imgW bs 0 ≠ 0x56414C44 ∨ w32 (imgW bs 3) ≠ r.seq) : coreYield u s = t :=
  (coreYield_read hj hw hb hr hs hd).trans (if_pos h)

theorem coreYield_saves (h0 : imgW bs 0 = 0x56414C44) (h3 : w32 (imgW bs 3) = r.seq) :
    coreYield u s = ((((t.writeB (s.seqSrc (pavIx u)) (j.save + 0x150) (bytesLE 16 (t.core u).gen.toNat)).2.coreDone u).saveItem
      u j).assignCore u).goldTimes :=
  (coreYield_read hj hw hb hr hs hd).trans (if_neg (by simp [h0, h3]))

end
end
end
end
end
end

/-! ### Requests to yield that are late (R98, R107) -/

/-- The timeout of a request to yield. -/
def State.yieldTicks (s : State) : Nat := 500 * (s.reg (rpPage + 0x070)).toNat

/-- A core with an item has not yielded in time, and that has not been counted. -/
def YieldLate (s : State) (u : UnitId) : Prop :=
  ∃ t0 j, Tab.get none s.plan.req u.toNat = some (t0, false) ∧ Tab.get none s.plan.jobs u.toNat = some j ∧ t0 + s.yieldTicks ≤ s.frc

/-- A request noted as late. -/
def State.yieldSeen (s : State) (u : UnitId) (t0 : Tick) : State :=
  s.setPlan { s.plan with req := Tab.set none s.plan.req u.toNat (some (t0, true)) }

section
variable {s : State} {u : UnitId}

theorem preemptTimeout_early (h : ¬ YieldLate s u) : preemptTimeout u s = s := by
  cases hq : Tab.get none s.plan.req u.toNat with
  | none => simp only [preemptTimeout, hq]
  | some e =>
    obtain ⟨t0, seen⟩ := e
    cases hj : Tab.get none s.plan.jobs u.toNat with
    | none => simp only [preemptTimeout, hq, hj]
    | some j =>
      have hg : s.frc < t0 + 500 * (s.reg (rpPage + 0x070)).toNat ∨ seen = true := by
        refine Classical.byContradiction fun hn => ?_
        obtain ⟨ht, hseen⟩ := not_or.1 hn
        exact h ⟨t0, j, by rw [hq, Bool.eq_false_iff.2 hseen], hj, Nat.not_lt.1 ht⟩
      simp only [preemptTimeout, hq, hj, if_pos hg]

theorem yieldTicks_over {t0 : Tick} (ht : t0 + s.yieldTicks ≤ s.frc) : ¬ s.frc < t0 + 500 * (s.reg (rpPage + 0x070)).toNat :=
  Nat.not_lt.2 ht

section
variable {t0 : Tick} {j : Job} (hq : Tab.get none s.plan.req u.toNat = some (t0, false))
  (hj : Tab.get none s.plan.jobs u.toNat = some j) (ht : t0 + s.yieldTicks ≤ s.frc)
include hq hj ht

theorem preemptTimeout_counts {r : Run} (hr : s.runOfJob j = some r) (hs : (r.copy j.copyB).stopped = false) :
    preemptTimeout u s = (s.yieldSeen u t0).count (rpPage + 0x090) := by
  simp only [preemptTimeout, hq, hj, yieldTicks_over ht, hr, hs, Bool.false_eq_true, or_self, if_false, State.yieldSeen]

/-- The core of a stopped copy, or of a run that has ended, is reset. -/
theorem preemptTimeout_resets (hs : ∀ r, s.runOfJob j = some r → (r.copy j.copyB).stopped = true) :
    preemptTimeout u s = unitCommand (.seq (pavIx u)) u cmdReset true 10 (s.yieldSeen u t0) := by
  cases hr : s.runOfJob j with
  | none => simp only [preemptTimeout, hq, hj, yieldTicks_over ht, hr, Bool.false_eq_true, or_self, if_false, if_true, State.yieldSeen]
  | some r => simp only [preemptTimeout, hq, hj, yieldTicks_over ht, hr, hs r hr, Bool.false_eq_true, or_self, if_false, if_true, State.yieldSeen]

end
end

/-! ### Outcomes (R195) -/

section
variable {s t : State} {m : PMsg} {n o : Nat} {proof : Bool} {seq : W32} {p : Option (List Byte)}
  (hr : s.recv 4 (decide (m.type = 0x11)) m = (p, t))
include hr

theorem runOutcome_accepted (hp : p = some (outcomeBytes n proof seq o)) (hproof : proof = false) :
    runOutcome m n proof seq o s = t.outcomeAt n false seq o := by
  simp only [runOutcome, hr, hp, hproof, and_self, if_true]

theorem runOutcome_dropped (h : p ≠ some (outcomeBytes n proof seq o) ∨ proof = true) : runOutcome m n proof seq o s = t := by
  cases p with
  | none => simp only [runOutcome, hr]
  | some bs =>
    have hn : ¬ (bs = outcomeBytes n proof seq o ∧ proof = false) := by simpa [Decidable.imp_iff_not_or] using h
    simp only [runOutcome, hr, if_neg hn]

end

/-! ### The commands -/

section
variable {s : State} {n : Nat} (hn : n < 256)
include hn

theorem exec_gatherWindowClose : exec (.gatherWindowClose n) s = .next (gatherWindowClose n s) := onUnit_next (decide_eq_true hn)

theorem exec_runStart (proof copyB : Bool) : exec (.runStart n proof copyB) s = .next (runStart n proof copyB s) :=
  onUnit_next (decide_eq_true hn)

theorem exec_runDeadline : exec (.runDeadline n) s = .next (deadlineOf n false s) := onUnit_next (decide_eq_true hn)

theorem exec_goldenRunDeadline : exec (.goldenRunDeadline n) s = .next (goldenDeadline n s) := onUnit_next (decide_eq_true hn)

end

section
variable {s : State} {u : UnitId} (hu : coreOk u = true)
include hu

theorem exec_workItemComplete : exec (.workItemComplete u) s = .next (workItemComplete u s) := onUnit_next hu

theorem exec_coreYield : exec (.coreYield u) s = .next (coreYield u s) := onUnit_next hu

theorem exec_preemptTimeout : exec (.preemptTimeout u) s = .next (preemptTimeout u s) := onUnit_next hu

end

/-- Settles O15: a gather goes by its window, a start by what keeps it and by the golden runs it defers, a core's report by its wait and
its item's run, a late request by whether the copy is stopped, and an outcome by what the receiver accepted. -/
theorem runsAndWorkItems : Obligations.RunsAndWorkItems := by
  unfold Obligations.RunsAndWorkItems
  intro s n u hn hu
  have hstart : ∀ {proof copyB t}, runStart n proof copyB s = t → exec (.runStart n proof copyB) s = .next t := fun h =>
    (exec_runStart hn _ _).trans (congrArg _ h)
  have houtcome : ∀ {m proof seq} {o : BitVec 2} {t}, runOutcome m n proof seq o.toNat s = t →
      exec (.runOutcome m n proof seq o) s = .next t := fun h => congrArg _ h
  rw [exec_gatherWindowClose hn, exec_workItemComplete hu, exec_coreYield hu, exec_runDeadline hn, exec_goldenRunDeadline hn,
    exec_preemptTimeout hu]
  refine ⟨⟨fun g hg => ⟨fun ho => congrArg _ (gatherWindowClose_over hg ho), fun ho => congrArg _ (gatherWindowClose_open hg ho)⟩,
      fun hg => congrArg _ (gatherWindowClose_none hg)⟩,
    fun proof copyB => ?start, ?report, fun proof => ?deadline, ?late, fun m proof seq o p t hr =>
      ⟨fun hp hproof => houtcome (runOutcome_accepted hr hp hproof), fun h => houtcome (runOutcome_dropped hr h)⟩⟩
  case start =>
    refine ⟨fun hf => hstart (runStart_none hf), fun r hf => ?_⟩
    intro meets may gs ninth
    exact ⟨fun hm => hstart (runStart_kept hf hm), fun hm h9 => hstart (runStart_starts hf hm h9), fun hm h9 =>
      ⟨fun hg => hstart (runStart_skips hf hm h9 hg), fun hg => hstart (runStart_forces hf hm h9 hg)⟩⟩
  case report =>
    refine ⟨fun h => ⟨congrArg _ (workItemComplete_ignored h), congrArg _ (coreYield_ignored h)⟩, fun j hj hw =>
      ⟨?complete, fun hb => congrArg _ (coreYield_unrequested hj hb), fun hb =>
        ⟨fun hr => congrArg _ (coreYield_runGone hj hw hb hr), fun r hr =>
          ⟨fun hs => congrArg _ (coreYield_stopped hj hw hb hr hs), fun st bs t hs hd =>
            ⟨fun h => congrArg _ (coreYield_incomplete hj hw hb hr hs hd h),
              fun h0 h3 => congrArg _ (coreYield_saves hj hw hb hr hs hd h0 h3)⟩⟩⟩⟩⟩
    case complete =>
      exact ⟨fun r hr => congrArg _ (workItemComplete_checks hj hw hr), fun hr => congrArg _ (workItemComplete_runGone hj hw hr)⟩
  case deadline =>
    exact ⟨fun hp => by subst hp; rfl, fun hp => by subst hp; rfl⟩
  case late =>
    exact ⟨fun h => congrArg _ (preemptTimeout_early h), fun t0 j hq hj ht =>
      ⟨fun r hr hs => congrArg _ (preemptTimeout_counts hq hj ht hr hs), fun hs => congrArg _ (preemptTimeout_resets hq hj ht hs)⟩⟩

end Sys2Proof.Machine
end

section
/-! Messages between the Gatehouse, the Groundskeeper and the run-plan block (R94, R175, R186, R188, R233, R297, R380), and restart orders. -/

namespace Sys2Proof.Machine

/-! ### Declarations (R94, R175, R297) -/

/-- What a complete declaration transfer is judged by: reason, service and range. -/
def State.declVerdict (t : State) (d : DeclSet) (bs : List Byte) : Nat × Nat × Nat :=
  if bs = declBytes d then t.declReason d else (1, 0, 0)

/-- The Gatehouse after its verdict: GH_DECL_STAT, and the set that waits for the switch. -/
def State.declJudged (t : State) (d : DeclSet) (v : Nat × Nat × Nat) : State :=
  let u := t.setReg ghDeclStatA (w32 ((if v.1 = 0 then 2 else 3) + 16 * v.1 + 256 * v.2.1 + 65536 * v.2.2))
  u.setBel { u.bel with pend := if v.1 = 0 then some d else none }

section
variable {s t : State} {m : PMsg} {d : DeclSet}

theorem declare_judged {bs : List Byte} (hr : s.recv 2 (decide (m.type = 0x13)) m = (some bs, t)) {v : Nat × Nat × Nat} {u : State}
    (hv : t.declVerdict d bs = v) (hu : t.declJudged d v = u) :
    declare m d s = u.sendMsg idGatehouse idRunPlan 0x14 (bytesLE 4 (u.reg ghDeclStatA).toNat) := by
  subst hv hu
  simp only [declare, hr]
  rfl

section
variable (hr : s.recv 2 (decide (m.type = 0x13)) m = (none, t))
include hr

theorem declare_foreign (hm : ¬ (m.type = 0x13 ∧ m.src = idRunPlan)) : declare m d s = t := by
  simp only [declare, hr]
  exact if_pos (by rwa [ne_eq, ne_eq, ← Classical.not_and_iff_not_or_not])

section
variable (hm : m.type = 0x13 ∧ m.src = idRunPlan)
include hm

/-- A part of a transfer that does not complete it goes by the message check. -/
theorem declare_part :
    declare m d s =
      if m.crc = msgCrc idGatehouse m ∧ (t.stream 2 idRunPlan).expect = m.seq + 1 ∧ (t.stream 2 idRunPlan).xfer = 1 then
        t.setRegF ghDeclStatA 0 2 1
      else t.setReg ghDeclStatA 0x13#32 := by
  simp only [declare, hr]
  exact if_neg (by simp [hm])

theorem declare_coming
    (hg : m.crc = msgCrc idGatehouse m ∧ (t.stream 2 idRunPlan).expect = m.seq + 1 ∧ (t.stream 2 idRunPlan).xfer = 1) :
    declare m d s = t.setRegF ghDeclStatA 0 2 1 := (declare_part hr hm).trans (if_pos hg)

theorem declare_spoiled
    (hg : ¬ (m.crc = msgCrc idGatehouse m ∧ (t.stream 2 idRunPlan).expect = m.seq + 1 ∧ (t.stream 2 idRunPlan).xfer = 1)) :
    declare m d s = t.setReg ghDeclStatA 0x13#32 := (declare_part hr hm).trans (if_neg hg)

end
end
end

/-! ### Messages to the Groundskeeper (R186, R188, R233) -/

section
variable {s t : State} {m : PMsg} {p : Option (List Byte)}

section
variable {num : Nat} {sc : Scope} (hr : s.recv 4 (decide (m.type = 0x20)) m = (p, t))
include hr

theorem restartOrder_delivered (hp : p = some (orderBytes num sc)) : restartOrder m num sc s = t.gkDeliver m := by
  simp only [restartOrder, hr, hp, if_true]

theorem restartOrder_dropped (hp : p ≠ some (orderBytes num sc)) : restartOrder m num sc s = t := by
  cases p with
  | none => simp only [restartOrder, hr]
  | some bs => simp only [restartOrder, hr, if_neg (mt (congrArg some) hp)]

end

theorem ite_isSome {u : State} : (if p.isSome then u else t) = if p = none then t else u := by
  cases p <;> rfl

theorem areasReply_eq (hr : s.recv 4 (decide (m.type = 0x27)) m = (p, t)) :
    areasReply m s = if p = none then t else t.gkDeliver m := by
  simp only [areasReply, hr, ite_isSome]

theorem faultNoteRx_eq (hr : s.recv 4 (decide (m.type = 0x23)) m = (p, t)) :
    faultNoteRx m s = if p = none then t else t.gkDeliver m := by
  simp only [faultNoteRx, hr, ite_isSome]

/-! ### Acknowledgements and ends of orders (R186, R380) -/

section
variable (hr : s.recv 2 (decide (m.type = 0x21)) m = (p, t))
include hr

theorem restartAck_acks {bs : List Byte} {o : Order} (hp : p = some bs) (ho : t.order (orderOf bs) = some o) (h1 : o.state = 1) :
    restartAck m s = t.putOrder { o with state := 2 } := by
  simp only [restartAck, hr, hp, ho, if_pos h1]

theorem restartAck_ignored (h : ¬ ∃ bs o, p = some bs ∧ t.order (orderOf bs) = some o ∧ o.state = 1) : restartAck m s = t := by
  cases p with
  | none => simp only [restartAck, hr]
  | some bs =>
    cases ho : t.order (orderOf bs) with
    | none => simp only [restartAck, hr, ho]
    | some o => simp only [restartAck, hr, ho, if_neg (fun h1 => h ⟨bs, o, rfl, ho, h1⟩)]

end

/-- The safety domains and the Gatehouse's windows of an order's scope written again. -/
def State.scopeRestored (t : State) (o : Order) : State :=
  (scopeDies o.scope).foldl State.regionWindows
    ((bitsOf 8 (scopePavs o.scope &&& t.safetyPavs t.activeBank)).foldl State.assignSafety t)

section
variable (hr : s.recv 2 (decide (m.type = 0x22)) m = (p, t))
include hr

theorem restartDone_ends {bs : List Byte} {o : Order} (hp : p = some bs) (ho : t.order (orderOf bs) = some o) :
    restartDone m s = (t.scopeRestored o).orderOver o 3 := by
  simp only [restartDone, hr, hp, ho, State.scopeRestored]

theorem restartDone_ignored (h : ¬ ∃ bs o, p = some bs ∧ t.order (orderOf bs) = some o) : restartDone m s = t := by
  cases p with
  | none => simp only [restartDone, hr]
  | some bs =>
    have ho : t.order (orderOf bs) = none := Option.eq_none_iff_forall_ne_some.2 fun o ho => h ⟨bs, o, rfl, ho⟩
    simp only [restartDone, hr, ho]

end
end

/-! ### Timeouts of orders (R186) -/

/-- A sent order has waited 10 ms for its acknowledgement. -/
def AckLate (s : State) (o : Order) : Prop := o.state = 1 ∧ o.again.getD o.sent + 5000000 ≤ s.frc

section
variable {s : State} {num : Nat}

theorem ackTimeout_none (h : s.order num = none) : ackTimeout num s = s := by
  simp only [ackTimeout, h]

theorem doneTimeout_none (h : s.order num = none) : doneTimeout num s = s := by
  simp only [doneTimeout, h]

theorem ackLate_iff {o : Order} : AckLate s o ↔ ¬ (o.state ≠ 1 ∨ s.frc < o.again.getD o.sent + 5000000) := by
  simp [AckLate]

section
variable {o : Order} (h : s.order num = some o)
include h

theorem ackTimeout_early (hl : ¬ AckLate s o) : ackTimeout num s = s := by
  simp only [ackTimeout, h, if_pos (Classical.not_not.1 (mt ackLate_iff.2 hl))]

theorem ackTimeout_again (hl : AckLate s o) (ha : o.again = none) :
    ackTimeout num s = (s.putOrder { o with again := some s.frc }).orderSend o := by
  simp only [ackTimeout, h, if_neg (ackLate_iff.1 hl)]
  rw [ha]

theorem ackTimeout_fails (hl : AckLate s o) (ha : o.again ≠ none) : ackTimeout num s = s.orderFail o := by
  obtain ⟨t, ha⟩ := Option.ne_none_iff_exists'.1 ha
  simp only [ackTimeout, h, if_neg (ackLate_iff.1 hl)]
  rw [ha]

theorem doneTimeout_fails (ht : o.sent + scopeLimit o.scope ≤ s.frc) : doneTimeout num s = s.orderFail o := by
  simp only [doneTimeout, h, if_pos ht]

theorem doneTimeout_early (ht : s.frc < o.sent + scopeLimit o.scope) : doneTimeout num s = s := by
  simp only [doneTimeout, h, if_neg (Nat.not_le.2 ht)]

end
end

/-! ### Areas (R188) -/

/-- The addresses of an AREAS payload set and locked. -/
def State.areasTaken (t : State) (bs : List Byte) : State :=
  let w := fun (o : Nat) => w32 (ofBytesLE ((bs.drop o).take 4))
  let b := ghPage 0x02
  let u := ((((((t.setReg (b + 0x044) (w 0)).setReg (b + 0x048) (w 4 &&& 0xFFFF#32)).setReg (b + 0x04C) (w 8)).setReg (b + 0x050)
    (w 12 &&& 0xFFFF#32)).setReg (bsPage + 0x0A0) (w 16)).setReg (bsPage + 0x0A4) (w 20 &&& 0xFFFF#32))
  { (u.setRegF (b + 0x024) 0 1 1).setRegF (bsPage + 0x024) 0 1 1 with areasOk := true }

section
variable {s t : State} {m : PMsg}

theorem areas_refused (hr : s.recv 2 (decide (m.type = 0x26)) m = (none, t)) : areas m s = t := by
  simp only [areas, hr]

section
variable {bs : List Byte} (hr : s.recv 2 (decide (m.type = 0x26)) m = (some bs, t))
include hr

theorem areas_inForce (hk : t.areasOk = true) : areas m s = t.sendMsg idGatehouse idGk 0x27 t.areasBytes := by
  simp only [areas, hr, hk, if_true]

section
variable (hk : t.areasOk = false)
include hk

theorem areas_unfit (hf : areasFit bs = false) : areas m s = t.sendMsg idGatehouse idGk 0x27 (List.replicate 24 0) := by
  simp only [areas, hr, hk, hf, Bool.not_false, Bool.false_eq_true, if_false, if_true]

theorem areas_taken (hf : areasFit bs = true) {u : State} (hu : t.areasTaken bs = u) :
    areas m s = u.sendMsg idGatehouse idGk 0x27 u.areasBytes := by
  subst hu
  simp only [areas, hr, hk, hf, Bool.not_true, Bool.false_eq_true, if_false]
  rfl

end
end
end

/-- Settles O23: each message by what the receiver accepts of it and by the order or the set that it concerns, and the timeouts by the
order's state and times. -/
theorem declarationsAndOrders : Obligations.DeclarationsAndOrders := by
  unfold Obligations.DeclarationsAndOrders
  intro s t m num p
  have hdeclare : ∀ {d x}, declare m d s = x → exec (.declare m d) s = .next x := fun h => congrArg _ h
  have horder : ∀ {sc x}, restartOrder m num.toNat sc s = x → exec (.restartOrder m num sc) s = .next x := fun h => congrArg _ h
  have hreply : exec (.areasReply m) s = .next (areasReply m s) := rfl
  have hnote : exec (.faultNote m) s = .next (faultNoteRx m s) := rfl
  have hack : exec (.restartAck m) s = .next (restartAck m s) := rfl
  have hdone : exec (.restartDone m) s = .next (restartDone m s) := rfl
  have hackTo : exec (.restartAckTimeout num) s = .next (ackTimeout num.toNat s) := rfl
  have hdoneTo : exec (.restartDoneTimeout num) s = .next (doneTimeout num.toNat s) := rfl
  have hareas : ∀ {x}, areas m s = x → exec (.areas m) s = .next x := fun h => congrArg _ h
  rw [hreply, hnote, hack, hdone, hackTo, hdoneTo]
  refine ⟨fun d hr => ⟨fun bs hp => ?judged, fun hp => ?part⟩,
    fun sc hr => ⟨fun hp => horder (restartOrder_delivered hr hp), fun hp => horder (restartOrder_dropped hr hp)⟩,
    fun hr => congrArg _ (areasReply_eq hr), fun hr => congrArg _ (faultNoteRx_eq hr),
    fun hr => ⟨fun bs o hp ho h1 => congrArg _ (restartAck_acks hr hp ho h1), fun h => congrArg _ (restartAck_ignored hr h)⟩,
    fun hr => ⟨fun bs o hp ho => congrArg _ (restartDone_ends hr hp ho), fun h => congrArg _ (restartDone_ignored hr h)⟩,
    fun h => ⟨congrArg _ (ackTimeout_none h), congrArg _ (doneTimeout_none h)⟩,
    fun o ho => ⟨fun hl ha => congrArg _ (ackTimeout_again ho hl ha), fun hl ha => congrArg _ (ackTimeout_fails ho hl ha),
      fun hl => congrArg _ (ackTimeout_early ho hl), fun ht => congrArg _ (doneTimeout_fails ho ht),
      fun ht => congrArg _ (doneTimeout_early ho ht)⟩,
    fun hr => ⟨fun hp => hareas (areas_refused (hp ▸ hr)), fun bs hp => ?areas⟩⟩
  case judged =>
    intro v _ u
    exact hdeclare (declare_judged (hp ▸ hr) rfl rfl)
  case part =>
    subst hp
    exact ⟨fun hm => hdeclare (declare_foreign hr hm), fun hm hg => hdeclare (declare_coming hr hm hg),
      fun hm hg => hdeclare (declare_spoiled hr hm hg)⟩
  case areas =>
    subst hp
    refine ⟨fun hk => hareas (areas_inForce hr hk), fun hk hf => hareas (areas_unfit hr hk hf), fun hk hf => ?_⟩
    intro w b _ u
    exact hareas (areas_taken hr hk hf rfl)

end Sys2Proof.Machine
end

section
/-! What every command keeps (R112, R114, R121, R303): the queue, FRC but for the two power-ons, and the canonical form of memory, check
bits and registers. -/

namespace Sys2Proof.Machine

/-- Every command but the two power-ons leaves the queue and FRC alone and keeps the canonical form, by the law of its own effect. -/
theorem exec_held {c : Instr} {s t : State} (hc : ∀ ok, c ≠ .gatehousePowerOn ok ∧ c ≠ .brownOutRecovery ok)
    (h : exec c s = .next t) : Held s t := by
  cases c with
  | scalarInstruction core word => exact execScalarInstruction_held core word s t h
  | tsub core rd rs1 => exact execTsub_held core rd rs1 s t h
  | dsub core rd rs1 rs2 => exact execDsub_held core rd rs1 rs2 s t h
  | qwait core rd rs1 rs2 => exact execQwait_held core rd rs1 rs2 s t h
  | qstat core rd rs1 => exact execQstat_held core rd rs1 s t h
  | qrst core rs1 => exact execQrst_held core rs1 s t h
  | vadd a => exact execVadd_held a s t h
  | vsub a => exact execVsub_held a s t h
  | vmul a => exact execVmul_held a s t h
  | vfma a => exact execVfma_held a s t h
  | vmin a => exact execVmin_held a s t h
  | vmax a => exact execVmax_held a s t h
  | vclt a => exact execVclt_held a s t h
  | vceq a => exact execVceq_held a s t h
  | vsel a => exact execVsel_held a s t h
  | vexp a => exact execVexp_held a s t h
  | vlog a => exact execVlog_held a s t h
  | vrcp a => exact execVrcp_held a s t h
  | vrsqrt a => exact execVrsqrt_held a s t h
  | vrsum a => exact execVrsum_held a s t h
  | vrmax a => exact execVrmax_held a s t h
  | vbcast a => exact execVbcast_held a s t h
  | vld a => exact execVld_held a s t h
  | vst a => exact execVst_held a s t h
  | vldg a => exact execVldg_held a s t h
  | vsta a => exact execVsta_held a s t h
  | vacc a => exact execVacc_held a s t h
  | vcvt a => exact execVcvt_held a s t h
  | dfence core => exact execDfence_held core s t h
  | vsets core fs1 => exact execVsets_held core fs1 s t h
  | checkin link dom m => exact execCheckin_held link dom m s t h
  | sigflush core => exact execSigflush_held core s t h
  | pchk core rd => exact execPchk_held core rd s t h
  | tensorOpStart core => exact execTensorOpStart_held core s t h
  | tensorOpComplete core => exact execTensorOpComplete_held core s t h
  | dmaCopy core ch => exact execDmaCopy_held core ch s t h
  | dmaGather core ch => exact execDmaGather_held core ch s t h
  | dmaHashgather core ch => exact execDmaHashgather_held core ch s t h
  | dmaFill core ch => exact execDmaFill_held core ch s t h
  | dmaDescriptorComplete core ch => exact execDmaDescriptorComplete_held core ch s t h
  | vectorInstructionComplete core => exact execVectorInstructionComplete_held core s t h
  | runaheadReadResponse core ch addr words => exact execRunaheadReadResponse_held core ch addr words s t h
  | signatureContextAcquire core ch => exact execSignatureContextAcquire_held core ch s t h
  | signatureMessageQueue core ctx => exact execSignatureMessageQueue_held core ctx s t h
  | signatureMessageSend core => exact execSignatureMessageSend_held core s t h
  | scratchpadScrubLine core => exact execScratchpadScrubLine_held core s t h
  | coreSrSeedWrite w core v => exact execCoreSrSeedWrite_held w core v s t h
  | coreBootWrite w core v => exact execCoreBootWrite_held w core v s t h
  | corePreemptWrite w core v => exact execCorePreemptWrite_held w core v s t h
  | corePreemptClr w core v => exact execCorePreemptClr_held w core v s t h
  | sigContextWrite w core ctx idx v => exact execSigContextWrite_held w core ctx idx v s t h
  | sigSeqWrite w core copy v => exact execSigSeqWrite_held w core copy v s t h
  | cluSpareMapWrite w clu v => exact execCluSpareMapWrite_held w clu v s t h
  | pkgLoad w index => exact execPkgLoad_held w index s t h
  | pkgUnload w index => exact execPkgUnload_held w index s t h
  | pkgLoadComplete index desc => exact execPkgLoadComplete_held index desc s t h
  | bankSwitchRequest w v => exact execBankSwitchRequest_held w v s t h
  | declareReply m => exact execDeclareReply_held m s t h
  | declareReplyTimeout => exact execDeclareReplyTimeout_held s t h
  | gatherWindowClose entry => exact execGatherWindowClose_held entry s t h
  | runStart entry proof copyB => exact execRunStart_held entry proof copyB s t h
  | coreYield core => exact execCoreYield_held core s t h
  | workItemComplete core => exact execWorkItemComplete_held core s t h
  | runDeadline entry => exact execRunDeadline_held entry s t h
  | preemptTimeout core => exact execPreemptTimeout_held core s t h
  | runOutcome m entry proof runSeq outcome => exact execRunOutcome_held m entry proof runSeq outcome s t h
  | resultRingConfigWrite w service which v => exact execResultRingConfigWrite_held w service which v s t h
  | mcRead die addr => exact execMcRead_held die addr s t h
  | mcWrite die addr words be => exact execMcWrite_held die addr words be s t h
  | correctedWriteback die => exact execCorrectedWriteback_held die s t h
  | dramScrubLine die => exact execDramScrubLine_held die s t h
  | sramScrubLine unit => exact execSramScrubLine_held unit s t h
  | fwWindowCtrlWrite w inst win v => exact execFwWindowCtrlWrite_held w inst win v s t h
  | fwLogClr w inst v => exact execFwLogClr_held w inst v s t h
  | mcLogClr w die v => exact execMcLogClr_held w die v s t h
  | blkDomainWrite w unit v => exact execBlkDomainWrite_held w unit v s t h
  | hostRead bar off words => exact execHostRead_held bar off words s t h
  | hostWrite bar off bytes ep relaxed => exact execHostWrite_held bar off bytes ep relaxed s t h
  | fabricRead die p => exact execFabricRead_held die p s t h
  | fabricWrite die p => exact execFabricWrite_held die p s t h
  | fabricResponse die p => exact execFabricResponse_held die p s t h
  | fabricRetry die srcUnit ret tag => exact execFabricRetry_held die srcUnit ret tag s t h
  | fabricTimeout die srcUnit ret tag => exact execFabricTimeout_held die srcUnit ret tag s t h
  | tagQuarantineEnd die srcUnit ret tag => exact execTagQuarantineEnd_held die srcUnit ret tag s t h
  | mcastWrite die p => exact execMcastWrite_held die p s t h
  | reduce die p => exact execReduce_held die p s t h
  | collectiveContextAcquire node => exact execCollectiveContextAcquire_held node s t h
  | flitReceive lend group f => exact execFlitReceive_held lend group f s t h
  | linkReplay lend group fseq => exact execLinkReplay_held lend group fseq s t h
  | linkIdleTimeout lend => exact execLinkIdleTimeout_held lend s t h
  | linkTrain w lend v => exact execLinkTrain_held w lend v s t h
  | ghLinkAutoDetect link => exact execGhLinkAutoDetect_held link s t h
  | linkPartnerDetected lend groups => exact execLinkPartnerDetected_held lend groups s t h
  | linkTrainTimeout lend => exact execLinkTrainTimeout_held lend s t h
  | linkNegotiate lend => exact execLinkNegotiate_held lend s t h
  | linkGroupTrainEnd lend pass => exact execLinkGroupTrainEnd_held lend pass s t h
  | linkMaskExchange lend => exact execLinkMaskExchange_held lend s t h
  | triggerCycle => exact execTriggerCycle_held s t h
  | graceExpiry out => exact execGraceExpiry_held out s t h
  | verdictInstant delay collisions => exact execVerdictInstant_held delay collisions s t h
  | resultAgeExpiry service => exact execResultAgeExpiry_held service s t h
  | proofStale service => exact execProofStale_held service s t h
  | declare m d => exact execDeclare_held m d s t h
  | restartOrder m order scope => exact execRestartOrder_held m order scope s t h
  | restartAck m => exact execRestartAck_held m s t h
  | restartAckTimeout order => exact execRestartAckTimeout_held order s t h
  | restartDone m => exact execRestartDone_held m s t h
  | restartDoneTimeout order => exact execRestartDoneTimeout_held order s t h
  | areas m => exact execAreas_held m s t h
  | areasReply m => exact execAreasReply_held m s t h
  | runOpen m entry proof runSeq twoCopy dieA dieB deadline => exact execRunOpen_held m entry proof runSeq twoCopy dieA dieB deadline s t h
  | slotClearComplete entry proof => exact execSlotClearComplete_held entry proof s t h
  | signature link dom m => exact execSignature_held link dom m s t h
  | arbitrationStart => exact execArbitrationStart_held s t h
  | arbitrationEnd fetchOk => exact execArbitrationEnd_held fetchOk s t h
  | belvedereDeadline entry proof => exact execBelvedereDeadline_held entry proof s t h
  | slotScrubPassStart => exact execSlotScrubPassStart_held s t h
  | slotScrubPassEnd => exact execSlotScrubPassEnd_held s t h
  | bvFailClr w v => exact execBvFailClr_held w v s t h
  | deadline m entry newDeadline => exact execDeadline_held m entry newDeadline s t h
  | frameEnd src => exact execFrameEnd_held src s t h
  | syntheticLineComplete src spoiled writesOk => exact execSyntheticLineComplete_held src spoiled writesOk s t h
  | streamFrameEnd src => exact execStreamFrameEnd_held src s t h
  | goldenDue service => exact execGoldenDue_held service s t h
  | goldenRunDeadline entry => exact execGoldenRunDeadline_held entry s t h
  | testSliceStart lane => exact execTestSliceStart_held lane s t h
  | testSliceEnd lane defect noReport => exact execTestSliceEnd_held lane defect noReport s t h
  | checkerEligible checker => exact execCheckerEligible_held checker s t h
  | checkerOverdue checker => exact execCheckerOverdue_held checker s t h
  | folStFailClr w v => exact execFolStFailClr_held w v s t h
  | sourceRise page bit injected => exact execSourceRise_held page bit injected s t h
  | errReport link dom m => exact execErrReport_held link dom m s t h
  | srcVector link dom m => exact execSrcVector_held link dom m s t h
  | srcVectorPeriod die => exact execSrcVectorPeriod_held die s t h
  | concentratorSilence die => exact execConcentratorSilence_held die s t h
  | blkErrClear w page v => exact execBlkErrClear_held w page v s t h
  | quietPeriodExpiry cls => exact execQuietPeriodExpiry_held cls s t h
  | hourlyWindowAdvance => exact execHourlyWindowAdvance_held s t h
  | fcAck w v => exact execFcAck_held w v s t h
  | faultAck m => exact execFaultAck_held m s t h
  | fcForce w v => exact execFcForce_held w v s t h
  | faultForce m => exact execFaultForce_held m s t h
  | faultNote m => exact execFaultNote_held m s t h
  | filterExpiry hw chan since => exact execFilterExpiry_held hw chan since s t h
  | testPulseStart tp hwReads prReads => exact execTestPulseStart_held tp hwReads prReads s t h
  | testPulseCheck hw chan sawLow => exact execTestPulseCheck_held hw chan sawLow s t h
  | discrepancyTimeout hw pair => exact execDiscrepancyTimeout_held hw pair s t h
  | processorSample => exact execProcessorSample_held s t h
  | sioHsCmd w v => exact execSioHsCmd_held w v s t h
  | hsCmdExpiry => exact execHsCmdExpiry_held s t h
  | sioLatchSet w v => exact execSioLatchSet_held w v s t h
  | adcSample chan val => exact execAdcSample_held chan val s t h
  | darkTestStart out lowSide => exact execDarkTestStart_held out lowSide s t h
  | darkTestTimeout out => exact execDarkTestTimeout_held out s t h
  | sioLockClr w v => exact execSioLockClr_held w v s t h
  | resumePressBegin => exact execResumePressBegin_held s t h
  | resumeRelease first => exact execResumeRelease_held first s t h
  | resumeDiscrepancyTimeout => exact execResumeDiscrepancyTimeout_held s t h
  | resumeStuckTimeout contact => exact execResumeStuckTimeout_held contact s t h
  | sioResumeClr w v => exact execSioResumeClr_held w v s t h
  | irqSourceEvent inst src level => exact execIrqSourceEvent_held inst src level s t h
  | icuClaim inst tgt => exact execIcuClaim_held inst tgt s t h
  | icuComplete w inst tgt v => exact execIcuComplete_held w inst tgt v s t h
  | irqModerationEnd inst src => exact execIrqModerationEnd_held inst src s t h
  | icuGctrlWrite w inst v => exact execIcuGctrlWrite_held w inst v s t h
  | wdCtrlWrite w wd v => exact execWdCtrlWrite_held w wd v s t h
  | wdWindowWrite w wd close v => exact execWdWindowWrite_held w wd close v s t h
  | wdKey w wd v => exact execWdKey_held w wd v s t h
  | watchdogTimeout wd => exact execWatchdogTimeout_held wd s t h
  | watchdogCoreReset core => exact execWatchdogCoreReset_held core s t h
  | watchdogGatehouseReset imageOk => exact execWatchdogGatehouseReset_held imageOk s t h
  | wdBiteClr w wd v => exact execWdBiteClr_held w wd v s t h
  | debugHalt wd crossTrigger => exact execDebugHalt_held wd crossTrigger s t h
  | debugResume wd => exact execDebugResume_held wd s t h
  | clockMonitorWindow clk good imageOk => exact execClockMonitorWindow_held clk good imageOk s t h
  | taskWindowClose task => exact execTaskWindowClose_held task s t h
  | tsmFailClr w v => exact execTsmFailClr_held w v s t h
  | cvuStart w u v => exact execCvuStart_held w u v s t h
  | cvuData8 w u v => exact execCvuData8_held w u v s t h
  | cvuData16 w u v => exact execCvuData16_held w u v s t h
  | cvuData32 w u v => exact execCvuData32_held w u v s t h
  | cvuRunWrite w u hi v => exact execCvuRunWrite_held w u hi v s t h
  | cvuStatRead u => exact execCvuStatRead_held u s t h
  | streamTimeout rx src => exact execStreamTimeout_held rx src s t h
  | pmLastClr w rx v => exact execPmLastClr_held w rx v s t h
  | heartbeat m node => exact execHeartbeat_held m node s t h
  | frcSnapshot => exact execFrcSnapshot_held s t h
  | replicaSnapshot r => exact execReplicaSnapshot_held r s t h
  | commitRate w => exact execCommitRate_held w s t h
  | commitStepValue w => exact execCommitStepValue_held w s t h
  | commitStepDomain w => exact execCommitStepDomain_held w s t h
  | marker echo => exact execMarker_held echo s t h
  | syncWord r => exact execSyncWord_held r s t h
  | replicaSyncLoss r => exact execReplicaSyncLoss_held r s t h
  | steeringTick => exact execSteeringTick_held s t h
  | domainSelectWrite w v => exact execDomainSelectWrite_held w v s t h
  | domainRecordFetch => exact execDomainRecordFetch_held s t h
  | domainStale d => exact execDomainStale_held d s t h
  | triggerCtrlWrite w e v => exact execTriggerCtrlWrite_held w e v s t h
  | triggerIrq e => exact execTriggerIrq_held e s t h
  | triggerRun e => exact execTriggerRun_held e s t h
  | triggerEth e => exact execTriggerEth_held e s t h
  | triggerAdc e => exact execTriggerAdc_held e s t h
  | captureEdge inp falling at_ => exact execCaptureEdge_held inp falling at_ s t h
  | captureRead inp => exact execCaptureRead_held inp s t h
  | ppsPulse => exact execPpsPulse_held s t h
  | ppsPulseEnd => exact execPpsPulseEnd_held s t h
  | msixHoldEnd vec => exact execMsixHoldEnd_held vec s t h
  | msixUnmask vec cfg => exact execMsixUnmask_held vec cfg s t h
  | functionLevelReset => exact execFunctionLevelReset_held s t h
  | pcieLinkDown => exact execPcieLinkDown_held s t h
  | pcieRetrain w v => exact execPcieRetrain_held w v s t h
  | csiFrameStart src => exact execCsiFrameStart_held src s t h
  | csiLongPacket port vc dt payload eccErrs crcOk => exact execCsiLongPacket_held port vc dt payload eccErrs crcOk s t h
  | csiRestart w port v => exact execCsiRestart_held w port v s t h
  | ethFrameReceive mac f => exact execEthFrameReceive_held mac f s t h
  | ethFrameTransmit mac queue bytes oneStep => exact execEthFrameTransmit_held mac queue bytes oneStep s t h
  | ethLinkUp mac speed => exact execEthLinkUp_held mac speed s t h
  | t1sFrameReceive mac etype fcsOk m => exact execT1sFrameReceive_held mac etype fcsOk m s t h
  | verdictBeacon => exact execVerdictBeacon_held s t h
  | foreignBeacon => exact execForeignBeacon_held s t h
  | coordinatorResume => exact execCoordinatorResume_held s t h
  | heartbeatDue peer => exact execHeartbeatDue_held peer s t h
  | gatehousePowerOn ok => exact absurd rfl (hc ok).1
  | gatehouseReset cause imageOk => exact execGatehouseReset_held cause imageOk s t h
  | safetyRecordLoad rec => exact execSafetyRecordLoad_held rec s t h
  | ioDieRelease w => exact execIoDieRelease_held w s t h
  | ioDieReset w => exact execIoDieReset_held w s t h
  | manifest core => exact execManifest_held core s t h
  | segment core => exact execSegment_held core s t h
  | check core => exact execCheck_held core s t h
  | reset w unit absorb drainTo => exact execReset_held w unit absorb drainTo s t h
  | hold w unit absorb drainTo => exact execHold_held w unit absorb drainTo s t h
  | release w unit => exact execRelease_held w unit s t h
  | powerDown w unit absorb drainTo => exact execPowerDown_held w unit absorb drainTo s t h
  | drainComplete unit => exact execDrainComplete_held unit s t h
  | drainTimeout unit => exact execDrainTimeout_held unit s t h
  | absorbComplete unit => exact execAbsorbComplete_held unit s t h
  | unitInitComplete unit ok => exact execUnitInitComplete_held unit ok s t h
  | firmwareSwitchRequest w => exact execFirmwareSwitchRequest_held w s t h
  | firmwareSwitchDone w => exact execFirmwareSwitchDone_held w s t h
  | firmwareSwitchTimeout => exact execFirmwareSwitchTimeout_held s t h
  | railMonitorSample chan mv => exact execRailMonitorSample_held chan mv s t h
  | railArmTimeout chan => exact execRailArmTimeout_held chan s t h
  | killSet w => exact execKillSet_held w s t h
  | killRelease w => exact execKillRelease_held w s t h
  | brownOut => exact execBrownOut_held s t h
  | brownOutRecovery ok => exact absurd rfl (hc ok).2
  | capTick est other => exact execCapTick_held est other s t h
  | thermalTick temps stackTemps => exact execThermalTick_held temps stackTemps s t h
  | thermalTrip die => exact execThermalTrip_held die s t h
  | pwrPavCfgWrite w pav v => exact execPwrPavCfgWrite_held w pav v s t h
  | pwrVreadyWrite w die v => exact execPwrVreadyWrite_held w die v s t h
  | profileChange pav => exact execProfileChange_held pav s t h
  | droopPause island => exact execDroopPause_held island s t h
  | railTelemetryRead warn => exact execRailTelemetryRead_held warn s t h
  | quote => exact execQuote_held s t h
  | challenge => exact execChallenge_held s t h
  | unlock => exact execUnlock_held s t h
  | extend => exact execExtend_held s t h
  | sprInstall rec => exact execSprInstall_held rec s t h
  | ghInstall => exact execGhInstall_held s t h
  | grottoCommit => exact execGrottoCommit_held s t h
  | idTreeBuildComplete => exact execIdTreeBuildComplete_held s t h
  | challengeLapse => exact execChallengeLapse_held s t h
  | gkRestart w cause => exact execGkRestart_held w cause s t h
  | stageSet flashOk => exact execStageSet_held flashOk s t h
  | stageGh flashOk => exact execStageGh_held flashOk s t h
  | activate flashOk => exact execActivate_held flashOk s t h
  | confirm flashOk => exact execConfirm_held flashOk s t h
  | hostCommit => exact execHostCommit_held s t h
  | hostFaultAck => exact execHostFaultAck_held s t h
  | cal flashOk => exact execCal_held flashOk s t h
  | note => exact execNote_held s t h
  | logPageProgram => exact execLogPageProgram_held s t h
  | telemetryPeriod => exact execTelemetryPeriod_held s t h
  | calUserWrite w inst v => exact execCalUserWrite_held w inst v s t h
  | serviceAccessGrant => exact execServiceAccessGrant_held s t h
  | serviceAccessEnd => exact execServiceAccessEnd_held s t h
  | tapReset tap => exact execTapReset_held tap s t h
  | idcode tap => exact execIdcode_held tap s t h
  | samplePreload tap cells => exact execSamplePreload_held tap cells s t h
  | extest tap => exact execExtest_held tap s t h
  | extestPulse tap => exact execExtestPulse_held tap s t h
  | extestTrain tap => exact execExtestTrain_held tap s t h
  | clamp tap => exact execClamp_held tap s t h
  | highz tap => exact execHighz_held tap s t h
  | ghMbox word valid => exact execGhMbox_held word valid s t h
  | debugAccess tap op => exact execDebugAccess_held tap op s t h
  | bypass tap => exact execBypass_held tap s t h
  | blkGenSelWrite w page v => exact execBlkGenSelWrite_held w page v s t h
  | blkLockWrite w page v => exact execBlkLockWrite_held w page v s t h
  | blkInjWrite w page v => exact execBlkInjWrite_held w page v s t h
  | unitClassWrite w unit v => exact execUnitClassWrite_held w unit v s t h
  | unitCtxSrWrite w core v => exact execUnitCtxSrWrite_held w core v s t h
  | registerWrite w addr v => exact execRegisterWrite_held w addr v s t h
  | computeDiePowerUp die => exact execComputeDiePowerUp_held die s t h
  | dramTrainingComplete die ok => exact execDramTrainingComplete_held die ok s t h
  | pcieLinkUp rate width => exact execPcieLinkUp_held rate width s t h
  | ethLinkDown mac => exact execEthLinkDown_held mac s t h
  | dphySyncError port => exact execDphySyncError_held port s t h
  | ioDieThermalReset => exact execIoDieThermalReset_held s t h
  | credentialValidTimeout => exact execCredentialValidTimeout_held s t h

/-- The two power-ons keep the queue and the canonical form and start FRC from 0. -/
theorem exec_powerOn_form {c : Instr} {s t : State} {ok : Bool} (hc : c = .gatehousePowerOn ok ∨ c = .brownOutRecovery ok)
    (h : exec c s = .next t) : t.pending = s.pending ∧ t.frc = 0 ∧ (s.inForm = true → t.inForm = true) := by
  rcases hc with rfl | rfl
  · exact execGatehousePowerOn_form ok s t h
  · exact execBrownOutRecovery_form ok s t h

/-- Every command keeps the canonical form. -/
theorem exec_inForm {c : Instr} {s t : State} (h : exec c s = .next t) (hs : s.inForm = true) : t.inForm = true := by
  by_cases hc : ∃ ok, c = .gatehousePowerOn ok ∨ c = .brownOutRecovery ok
  · obtain ⟨ok, hp⟩ := hc
    exact (exec_powerOn_form hp h).2.2 hs
  · have hn : ∀ ok, c ≠ .gatehousePowerOn ok ∧ c ≠ .brownOutRecovery ok := by simpa [not_or] using hc
    exact (exec_held hn h).form hs

/-- The queue is no part of the canonical form, -/
theorem State.inForm_pending (s : State) (q : List Instr) : ({ s with pending := q } : State).inForm = s.inForm := rfl

/-- and neither is FRC. -/
theorem State.inForm_idle (s : State) : s.idle.inForm = s.inForm := rfl

/-- Settles O59: an idle step moves FRC alone, and any other runs a command, which keeps the form (`exec_inForm`). -/
theorem canonicalFormKept : Obligations.CanonicalFormKept := by
  unfold Obligations.CanonicalFormKept
  intro s t hs h
  rcases hp : s.pending with _ | ⟨c, rest⟩
  · rw [step, hp, Host.Outcome.next.injEq] at h
    rw [← h, s.inForm_idle, hs]
  · rw [step, hp] at h
    exact exec_inForm h ((s.inForm_pending rest).trans hs)

/-- Settles O60: after reset every table is empty. -/
theorem resetCanonical : Obligations.ResetCanonical := by
  unfold Obligations.ResetCanonical
  exact (State.inForm_iff _).2 ⟨Memory.wf_reset, rfl, rfl, rfl⟩

end Sys2Proof.Machine
end

section
/-! Memory controllers (R126 to R128, R143): the commands, the write-back by what waits, the scrubber by its place and the log. -/

namespace Sys2Proof.Machine

/-! ### Write-back, scrubber and log -/

section
variable {s : State} {d a : Nat}

theorem correctedWriteback_none (hw : s.wback.find? (fun e => decide (e.1 = d)) = none) : correctedWriteback d s = s := by
  simp only [correctedWriteback, hw]

section
variable (hw : s.wback.find? (fun e => decide (e.1 = d)) = some (d, a))
include hw

/-- The oldest word waiting still reads as corrected. -/
theorem correctedWriteback_writes (hc : (ecc64 (s.synAt a)).corrected = true) :
    correctedWriteback d s = s.dramPut d a ((ecc64 (s.synAt a)).fix (s.rawD a)) false := by
  simp only [correctedWriteback, hw, hc, if_true]

theorem correctedWriteback_drops (hc : (ecc64 (s.synAt a)).corrected = false) :
    correctedWriteback d s = { s with wback := s.wback.filter (fun e => !(decide (e = (d, a)))) } := by
  simp only [correctedWriteback, hw, hc, Bool.false_eq_true, if_false]

end

theorem dramScrub_within (h : (s.reg (mcPage d + 0x064)).toNat + 1 < dramLines) :
    dramScrub d s = (s.dramReadDs d true (d * 0x600000000 + (s.reg (mcPage d + 0x064)).toNat % dramLines * 64) 8).2.setReg
      (mcPage d + 0x064) (w32 ((s.reg (mcPage d + 0x064)).toNat + 1)) :=
  if_pos h

/-- A pass ends after the last line. -/
theorem dramScrub_last (h : dramLines ≤ (s.reg (mcPage d + 0x064)).toNat + 1) :
    dramScrub d s = ((s.dramReadDs d true (d * 0x600000000 + (s.reg (mcPage d + 0x064)).toNat % dramLines * 64) 8).2.setReg
      (mcPage d + 0x064) 0).countWrap (mcPage d + 0x068) 1 :=
  if_neg (Nat.not_lt.2 h)

theorem mcLogClr_set {v : W32} (h : bit v 0 = true) :
    mcLogClr d v s = (s.setReg (mcPage d + 0x054) 0).setReg (mcPage d + 0x058) 0 := if_pos h

theorem mcLogClr_clear {v : W32} (h : bit v 0 = false) : mcLogClr d v s = s := if_neg (ne_true_of_eq_false h)

end

/-! ### The commands -/

theorem exec_mcRead (s : State) {d : Nat} {a : PAddr} (h : mcLineOk d a.toNat = true) :
    exec (.mcRead d a) s = .next (mcRead d a.toNat s) := onUnit_next h

theorem exec_mcWrite (s : State) {d : Nat} {a : PAddr} {ws : List (W32 × BitVec 7)} (be : BitVec 64)
    (h : mcLineOk d a.toNat = true) (hl : ws.length = 16) :
    exec (.mcWrite d a ws be) s = .next (mcWrite d a.toNat ws be.toNat s) := onUnit_next (by simp [h, hl])

theorem exec_sramScrubLine (s : State) {u : UnitId} (hu : uValid u = true) (hl : uLevel u = 1 ∨ uLevel u = 2) :
    exec (.sramScrubLine u) s = .next (sramScrubLine u s) := onUnit_next (by simpa [hu] using hl)

section
variable {d : Nat} (s : State) (h : d < 2)
include h

theorem exec_correctedWriteback : exec (.correctedWriteback d) s = .next (correctedWriteback d s) := onUnit_next (decide_eq_true h)

theorem exec_dramScrubLine : exec (.dramScrubLine d) s = .next (dramScrub d s) := onUnit_next (decide_eq_true h)

theorem exec_mcLogClr (w : Writer) (v : W32) : exec (.mcLogClr w d v) s = .next (mcLogClr d v s) := onUnit_next (decide_eq_true h)

end

/-- Settles O16: a line's commands are their equations; the write-back goes by the oldest word waiting and what it reads, the scrubber by
whether its line is the last, and the log by bit 0. -/
theorem memoryControllers : Obligations.MemoryControllers := by
  unfold Obligations.MemoryControllers
  intro s w d u v hd
  have hback {x : State} (h : correctedWriteback d s = x) : exec (.correctedWriteback d) s = .next x :=
    (exec_correctedWriteback s hd).trans (congrArg _ h)
  have hscrub {x : State} (h : dramScrub d s = x) : exec (.dramScrubLine d) s = .next x := (exec_dramScrubLine s hd).trans (congrArg _ h)
  have hlog {x : State} (h : mcLogClr d v s = x) : exec (.mcLogClr w d v) s = .next x := (exec_mcLogClr s hd w v).trans (congrArg _ h)
  exact ⟨fun a ha => ⟨exec_mcRead s ha, fun ws be hl => exec_mcWrite s be ha hl⟩,
    fun a hw hc => hback (correctedWriteback_writes hw hc), fun a hw hc => hback (correctedWriteback_drops hw hc),
    fun hw => hback (correctedWriteback_none hw), ⟨fun h => hscrub (dramScrub_within h), fun h => hscrub (dramScrub_last h)⟩,
    fun hu hl => exec_sramScrubLine s hu hl, fun hb => hlog (mcLogClr_set hb), fun hb => hlog (mcLogClr_clear hb)⟩

end Sys2Proof.Machine
end

section
/-! Firewalls and domains (R131, R136, R138): who may write a window, its log and a domain field, and what each write does. -/

namespace Sys2Proof.Machine

/-! ### The fields of domains (R130, R131) -/

theorem State.toNat_domainOf (s : State) (u : UnitId) : (s.domainOf u).toNat = s.regF (domainAt u) 0 12 := by
  rw [State.domainOf, BitVec.toNat_ofNat]
  exact Nat.mod_eq_of_lt (fld_lt _ 0 12)

/-- Whether a domain may give a field that holds one value another (R131). -/
theorem State.domainSet_eq (s : State) (d : Domain) (v : Nat) (u : UnitId) :
    s.domainSet d v u =
      if d = domGh ∨ (d = domGk ∧ v ≤ 0xEFF ∧ s.regF (domainAt u) 0 12 < 0xF00) then s.setReg (domainAt u) (w32 v) else s := by
  simp only [State.domainSet, s.toNat_domainOf]

/-! ### Windows and logs (R136, R138) -/

section
variable {s : State} {w : Writer} {i win : Nat} {v : W32}

theorem State.fwWriter_iff {gh : Bool} :
    s.fwWriter w gh = true ↔ s.writerDom w = domGh ∨ (s.writerDom w = domGk ∧ gh = false) := by
  simp only [State.fwWriter, Bool.or_eq_true, Bool.and_eq_true, Bool.not_eq_true', decide_eq_true_eq, and_comm]

/-- Who may write a window: the Gatehouse, or the Groundskeeper one of its own, which a lock of the page holds from both. -/
def State.mayWindow (s : State) (w : Writer) (i win : Nat) : Prop :=
  (s.writerDom w = domGh ∨ (s.writerDom w = domGk ∧ win < fwFirstGh i)) ∧
    (win < fwFirstGh i → bit (s.reg (fwPage i + 0x024)) 0 = false)

/-- The model's test of a window's write, as the register table puts it. -/
theorem State.mayWindow_iff :
    s.mayWindow w i win ↔
      ¬ (!s.fwWriter w (decide (fwFirstGh i ≤ win)) || (!decide (fwFirstGh i ≤ win) && bit (s.reg (fwPage i + 0x024)) 0)) = true := by
  simp [State.mayWindow, State.fwWriter_iff]

/-- A window written and put in force whole. -/
def State.fwForced (s : State) (a : Nat) (v : W32) : State :=
  let t := s.setReg (a + 12) (v &&& 0xFF7#32)
  { t with fwForce := Tab.set (fwWinReset a) t.fwForce a ⟨t.reg a, t.reg (a + 4), t.reg (a + 8), t.reg (a + 12)⟩ }

theorem fwCtrlWrite_forces (h : s.mayWindow w i win) : fwCtrlWrite w i win v s = s.fwForced (fwWinAt i win) v :=
  if_neg (State.mayWindow_iff.1 h)

theorem fwCtrlWrite_refused (h : ¬ s.mayWindow w i win) : fwCtrlWrite w i win v s = s :=
  if_pos (Decidable.of_not_not (mt State.mayWindow_iff.2 h))

theorem fwLogClr_test :
    (s.fwWriter w false && bit v 0) = true ↔ (s.writerDom w = domGh ∨ s.writerDom w = domGk) ∧ bit v 0 = true := by
  simp [State.fwWriter_iff]

theorem fwLogClr_empties (h : (s.writerDom w = domGh ∨ s.writerDom w = domGk) ∧ bit v 0 = true) :
    fwLogClr w i v s = ((s.setReg (fwPage i + 0x044) 0).setReg (fwPage i + 0x048) 0).setReg (fwPage i + 0x04C) 0 :=
  if_pos (fwLogClr_test.2 h)

theorem fwLogClr_refused (h : ¬ ((s.writerDom w = domGh ∨ s.writerDom w = domGk) ∧ bit v 0 = true)) : fwLogClr w i v s = s :=
  if_neg (mt fwLogClr_test.1 h)

end

/-! ### The commands -/

theorem exec_fwWindowCtrlWrite {i win : Nat} (w : Writer) (v : W32) (s : State) (hi : i < 11) (hw : win < fwCount i) :
    exec (.fwWindowCtrlWrite w i win v) s = .next (fwCtrlWrite w i win v s) := onUnit_next (by simp [hi, hw])

theorem exec_fwLogClr {i : Nat} (w : Writer) (v : W32) (s : State) (hi : i < 11) :
    exec (.fwLogClr w i v) s = .next (fwLogClr w i v s) := onUnit_next (decide_eq_true hi)

theorem exec_blkDomainWrite {u : UnitId} (w : Writer) (v : W32) (s : State) (hu : uValid u = true) :
    exec (.blkDomainWrite w u v) s = .next (s.writeDomain (s.writerDom w) u (fld v 0 12)) := onUnit_next hu

/-- Settles O17: a window and a log go by their writer, and a domain field is a fold of the test of R131 over the unit and those below. -/
theorem firewallsAndDomains : Obligations.FirewallsAndDomains := by
  unfold Obligations.FirewallsAndDomains
  intro s w i win u v hi hwin hu
  refine ⟨fun h => (exec_fwWindowCtrlWrite w v s hi hwin).trans (congrArg _ (fwCtrlWrite_forces h)),
    fun h => (exec_fwWindowCtrlWrite w v s hi hwin).trans (congrArg _ (fwCtrlWrite_refused h)),
    ⟨fun h => (exec_fwLogClr w v s hi).trans (congrArg _ (fwLogClr_empties h)),
      fun h => (exec_fwLogClr w v s hi).trans (congrArg _ (fwLogClr_refused h))⟩, ?domains⟩
  case domains =>
    rw [exec_blkDomainWrite w v s hu]
    simp only [State.writeDomain, State.domainSet_eq]

end Sys2Proof.Machine
end

section
/-! The host (R140, R141, R150, R151, R339): where an offset leads, an access at its target, and the two commands. -/

namespace Sys2Proof.Machine

/-! ### Where an offset leads (R140) -/

section
variable (s : State) {o : Nat}

theorem State.barAddr_memory (o : Nat) : s.barAddr 2 o = some o := if_pos rfl

theorem State.barAddr_io (h : o < 0x1000000) : s.barAddr 0 o = some (0x021000000000 + o) := (if_neg (by decide)).trans (if_pos h)

section
variable (h : 0x1000000 ≤ o)
include h

/-- Past the I/O die's pages an offset leads to the status window, to nothing, or to the unit pages that a register picks. -/
theorem State.barAddr_beyondIo :
    s.barAddr 0 o =
      if o < 0x1010000 then some (0x022000000000 + o % 0x10000)
      else if o < 0x2000000 then none
      else some (0x020000000000
        + (s.regF (ioPage 0x000 + 0x040) 0 7 * 0x200 + o % 0x2000000 / 0x10000) * 0x10000 + o % 0x2000000 % 0x10000) :=
  (if_neg (by decide)).trans (if_neg (Nat.not_lt.2 h))

theorem State.barAddr_window (h' : o < 0x1010000) : s.barAddr 0 o = some (0x022000000000 + o % 0x10000) :=
  (s.barAddr_beyondIo h).trans (if_pos h')

end

theorem State.barAddr_hole (h : 0x1010000 ≤ o) (h' : o < 0x2000000) : s.barAddr 0 o = none := by
  rw [s.barAddr_beyondIo (by omega), if_neg (by omega), if_pos h']

theorem State.barAddr_units (h : 0x2000000 ≤ o) :
    s.barAddr 0 o = some (0x020000000000
      + (s.regF (ioPage 0x000 + 0x040) 0 7 * 0x200 + o % 0x2000000 / 0x10000) * 0x10000 + o % 0x2000000 % 0x10000) := by
  rw [s.barAddr_beyondIo (by omega), if_neg (by omega), if_neg (by omega)]

end

/-! ### An access at its target (R150, R151) -/

section
variable {s : State} {write : Bool} {a st : Nat} {fin : Nat → State → State}

/-- A target that does not drain ends the access with its status. -/
theorem State.hostTry_final (h : st ≠ 2) : s.hostTry write a st fin = fin st ((s.setReq (hostKey write a) none).ended 2 st) := if_neg h

/-- The first answer of a draining target opens the wait for the reissue. -/
theorem State.hostTry_opens (h : st = 2) (hr : s.req (hostKey write a) = none) :
    s.hostTry write a st fin =
      s.setReq (hostKey write a) (some ⟨0, hostPkt write a, s.frc, s.respTo 2, 1, s.frc + s.retryTicks 2, []⟩) := by
  simp only [State.hostTry, h, if_true, hr]

section
variable {r : ReqSt} (h : st = 2) (hr : s.req (hostKey write a) = some r)
include h hr

theorem State.hostTry_timesOut (ht : r.first + r.respTo ≤ s.frc) :
    s.hostTry write a st fin = fin 2 (s.setReq (hostKey write a) none) := by
  simp only [State.hostTry, h, if_true, hr, ht]

theorem State.hostTry_again (ht : s.frc < r.first + r.respTo) :
    s.hostTry write a st fin =
      (s.setReq (hostKey write a) (some { r with again := s.frc + s.retryTicks 2 })).count (fabPage 2 + 0x058) := by
  simp only [State.hostTry, h, if_true, hr, Nat.not_le.2 ht, if_false]

end
end

/-! ### Reads and writes (R141, R339) -/

section
variable {s : State} {bar off : Nat}

theorem hostRead_linkDown {n : Nat} (h : s.hostUp = false) : hostRead bar off n s = s := if_pos (by simp [h])

theorem hostWrite_linkDown {bs : List Byte} {ep : Bool} (h : s.hostUp = false) : hostWrite bar off bs ep s = s := if_pos (by simp [h])

section
variable (hup : s.hostUp = true)
include hup

/-- A read of nothing completes as an unsupported address. -/
theorem hostRead_nowhere {n : Nat} (ha : s.barAddr bar off = none) :
    hostRead bar off n s = (s.count (pciePage + 0x054)).emit (.completion 1 false []) := by
  simp only [hostRead, hup, ha, Bool.not_true, Bool.false_eq_true, if_false]
  rfl

theorem hostWrite_nowhere {bs : List Byte} {ep : Bool} (ha : s.barAddr bar off = none) :
    hostWrite bar off bs ep s = if ep then s.count (pciePage + 0x050) else s := by
  simp only [hostWrite, hup, ha, Bool.not_true, Bool.false_eq_true, if_false]

section
variable {a : Nat} (ha : s.barAddr bar off = some a)
include ha

theorem hostRead_waits {n : Nat} (hw : s.hostWaits false a = true) : hostRead bar off n s = s := by
  simp only [hostRead, hup, ha, hw, Bool.not_true, Bool.false_eq_true, if_false, if_true]

theorem hostRead_tries {n st : Nat} {ws : List (Option W32)} {t : State} (hw : s.hostWaits false a = false)
    (hr : s.hostReads (n / 64 + 2) a n = (st, ws, t)) :
    hostRead bar off n s = t.hostTry false a st (fun st t => t.complete st ws) := by
  simp only [hostRead, hup, ha, hw, hr, Bool.not_true, Bool.false_eq_true, if_false]

section
variable {bs : List Byte} {ep : Bool}

theorem hostWrite_waits (hw : s.hostWaits true a = true) : hostWrite bar off bs ep s = s := by
  simp only [hostWrite, hup, ha, hw, Bool.not_true, Bool.false_eq_true, if_false, if_true]

/-- A poisoned write counts where it is not a reissue. -/
theorem hostWrite_tries {st : Nat} {t : State} (hw : s.hostWaits true a = false)
    (hr : (if ep = true ∧ s.req (hostKey true a) = none then s.count (pciePage + 0x050) else s).hostWrites
      (blocksOf bs.length) a bs ep = (st, t)) :
    hostWrite bar off bs ep s = t.hostTry true a st (fun _ t => t) := by
  simp only [hostWrite, hup, ha, hw, hr, Bool.not_true, Bool.false_eq_true, if_false, Bool.and_eq_true, Option.isNone_iff_eq_none]

end
end
end
end

/-! ### The commands -/

theorem exec_hostRead {bar off n : Nat} (s : State) (hb : barOk bar off (4 * n) = true) (ho : off % 4 = 0) (h1 : 1 ≤ n)
    (hn : n ≤ 1024) : exec (.hostRead bar off n) s = .next (hostRead bar off n s) := onUnit_next (by simp [hb, ho, h1, hn])

theorem exec_hostWrite {bar off : Nat} {bs : List Byte} (ep ro : Bool) (s : State) (hb : barOk bar off bs.length = true)
    (hl : bs.length ≤ 4096) : exec (.hostWrite bar off bs ep ro) s = .next (hostWrite bar off bs ep s) :=
  onUnit_next (by simp [hb, hl])

/-- Settles O19: an offset goes by its range, an access by its target's status and its wait, and each command by the link, by where its
offset leads and by whether it waits. -/
theorem hostAccesses : Obligations.HostAccesses := by
  unfold Obligations.HostAccesses
  intro s bar off n bs ep ro
  refine ⟨s.barAddr_memory, fun o h => s.barAddr_io h, fun o h h' => s.barAddr_window h h', fun o h h' => s.barAddr_hole h h',
    fun o h => s.barAddr_units h, fun t write a st fin => ⟨State.hostTry_final, State.hostTry_opens,
      fun r h hr => ⟨State.hostTry_timesOut h hr, State.hostTry_again h hr⟩⟩, fun hb ho h1 hn => ?read, fun hb hl => ?write⟩
  case read =>
    rw [exec_hostRead s hb ho h1 hn]
    exact ⟨fun h => congrArg _ (hostRead_linkDown h), fun hup ha => congrArg _ (hostRead_nowhere hup ha),
      fun a hup ha => ⟨fun hw => congrArg _ (hostRead_waits hup ha hw),
        fun st ws t hw hr => congrArg _ (hostRead_tries hup ha hw hr)⟩⟩
  case write =>
    rw [exec_hostWrite ep ro s hb hl]
    exact ⟨fun h => congrArg _ (hostWrite_linkDown h), fun hup ha => congrArg _ (hostWrite_nowhere hup ha),
      fun a hup ha => ⟨fun hw => congrArg _ (hostWrite_waits hup ha hw),
        fun hw st t hr => congrArg _ (hostWrite_tries hup ha hw hr)⟩⟩

end Sys2Proof.Machine
end

section
/-! The Belvedere (R133, R189 to R197, R201, R212, R213): run records, signature messages, arbitrations, deadlines and scrub passes. -/

namespace Sys2Proof.Machine

/-! ### Run records (R189, R212) -/

/-- The record of a new run under a declaration (R189). -/
def State.bvNew (s : State) (d : DeclSet) (n : Nat) (proof : Bool) (seq : W32) (two : Bool) (dieA dieB : Nat) (deadline : Tick) : BvRun :=
  let rs := d.ranges.filter (fun g => decide (g.entry.toNat = n) && decide (g.proof = proof))
  ⟨seq, two, dieA, dieB, deadline, s.bv.gen, (s.entry d.bank n).svc, rs.map (fun g => (g, d.tols.getD g.tol.toNat ⟨0, 0, 0, []⟩)),
    true, rs.map (fun g => g.count.toNat), false⟩

section
variable {s t : State} {m : PMsg} {n : Nat} {proof : Bool} {p : Option (List Byte)}

section
variable {seq : W32} {two : Bool} {dieA dieB : Nat} {dl : Tick} (hr : s.recv 2 (decide (m.type = 0x10)) m = (p, t))
include hr

/-- An accepted opening under a declaration takes the place of a record that still stands open, its slots emptied. -/
theorem runOpen_opens {d : DeclSet} (hp : p = some (runOpenBytes n proof seq two dieA dieB dl)) (hd : t.bel.decl = some d) :
    runOpen m n proof seq two dieA dieB dl s =
      let rs := d.ranges.filter (fun g => decide (g.entry.toNat = n) && decide (g.proof = proof))
      let u := t.bvDrop (bvKey n proof)
      let inRs := fun x => rs.any (fun g => rangeHas g x)
      u.setBv { u.bv with
        runs := Tab.set none u.bv.runs (bvKey n proof) (some (t.bvNew d n proof seq two dieA dieB dl)),
        states := Tab.keep u.bv.states (fun x => !inRs x), info := Tab.keep u.bv.info (fun x => !inRs x),
        syn := Tab.keep u.bv.syn (fun x => decide (x < 2097152) || !rs.any (fun g =>
          decide (g.first.toNat / 16 ≤ x % 2097152) && decide (16 * (x % 2097152) < g.first.toNat + g.count.toNat))) } := by
  subst hp
  simp only [runOpen, hr, hd, ne_eq, not_true_eq_false, if_false]
  rfl

theorem runOpen_ignored (h : p ≠ some (runOpenBytes n proof seq two dieA dieB dl) ∨ t.bel.decl = none) :
    runOpen m n proof seq two dieA dieB dl s = t := by
  simp only [runOpen, hr]
  rcases p with _ | bs <;> rcases hd : t.bel.decl with _ | d <;> simp only
  have hbs : bs ≠ runOpenBytes n proof seq two dieA dieB dl := by simpa [hd] using h
  exact if_pos hbs

end

/-- DEADLINE of an open proof run record. -/
theorem deadline_moves {d : Tick} {r : BvRun} (hr : s.recv 2 (decide (m.type = 0x12)) m = (some (deadlineBytes n d), t))
    (hk : t.bvRun (bvKey n true) = some r) :
    deadline m n d s = t.setBvRun (bvKey n true) (some { r with deadline := d }) := by
  simp only [deadline, hr, State.bvFind, hk, ne_eq, not_true_eq_false, if_false, Option.filter_some, if_true]

theorem deadline_ignored {d : Tick} (hr : s.recv 2 (decide (m.type = 0x12)) m = (p, t))
    (h : p ≠ some (deadlineBytes n d) ∨ t.bvRun (bvKey n true) = none) : deadline m n d s = t := by
  rcases p with _ | bs
  · simp only [deadline, hr]
  · by_cases hbs : bs = deadlineBytes n d
    · have hk : t.bvRun (bvKey n true) = none := by simpa [hbs] using h
      simp only [deadline, hr, State.bvFind, hk, Option.filter_none, ite_self]
    · simp only [deadline, hr, ne_eq, hbs, not_false_eq_true, if_true]

end

/-! ### Clearing and the deadline of a record (R189, R195) -/

section
variable {s : State} {n : Nat} {proof : Bool}

theorem State.bvFind_some {c : BvRun → Bool} {r : BvRun} (hr : s.bvRun (bvKey n proof) = some r) :
    s.bvFind n proof c = if c r = true then some r else none := by
  simp only [State.bvFind, hr, Option.filter_some]

section
variable (hr : s.bvRun (bvKey n proof) = none)
include hr

theorem slotClear_noRecord : slotClear n proof s = s := by
  simp only [slotClear, State.bvFind, hr, Option.filter_none]

theorem bvDeadline_noRecord : bvDeadline n proof s = s := by
  simp only [bvDeadline, State.bvFind, hr, Option.filter_none]

end

section
variable {r : BvRun} (hr : s.bvRun (bvKey n proof) = some r)
include hr

theorem slotClear_ends (h : r.clearing = true) :
    slotClear n proof s =
      ((s.setBvRun (bvKey n proof) (some { r with clearing := false })).lanesRun).bvResolve (bvKey n proof) := by
  simp only [slotClear, State.bvFind_some hr, h, if_true]

theorem slotClear_cleared (h : r.clearing = false) : slotClear n proof s = s := by
  simp only [slotClear, State.bvFind_some hr, h, Bool.false_eq_true, if_false]

theorem bvDeadline_early (h : s.frc < r.deadline) : bvDeadline n proof s = s := by
  simp only [bvDeadline, State.bvFind_some hr, decide_eq_true_eq, Nat.not_le.2 h, if_false]

section
variable (hd : r.deadline ≤ s.frc)
include hd

/-- A one-copy run's record goes without an outcome (R190). -/
theorem bvDeadline_oneCopy (h : r.two = false) : bvDeadline n proof s = (s.bvDrop (bvKey n proof)).lanesRun := by
  simp only [bvDeadline, State.bvFind_some hr, decide_eq_true_eq, hd, if_true, h, Bool.not_false]

/-- A two-copy run's open arbitrations fail and its unresolved slots are counted, and the outcome goes by both. -/
theorem bvDeadline_twoCopies (h : r.two = true) :
    bvDeadline n proof s =
      let k := bvKey n proof
      let mine := s.bv.queue.filter (fun a => decide (a.key = k) && !a.kind.isGolden)
      let x := mine.foldl (fun t a => (t.arbSlots a.kind).foldl (fun t x => t.pairFail k x pfDeadline 0) t) s
      let left := r.left.foldl (· + ·) 0
      let y := x.countN (bvPage + 0x078) left
      let failed := match y.bvRun k with | some x => x.failed | none => false
      ((y.bvClose k r (if failed then chkFail else if left ≠ 0 then chkMissing else chkPass)).goldRetry).lanesRun := by
  simp only [bvDeadline, State.bvFind_some hr, decide_eq_true_eq, hd, if_true, h, Bool.not_true, Bool.false_eq_true, if_false] <;> rfl

end
end
end

/-! ### Signature messages (R133, R190, R197) -/

section
variable {s t : State} {link : Nat} {dom : Domain} {m : PMsg}

/-- A message of another domain, and one whose lane is full, are not received. -/
theorem signature_untaken (h : safetyDom dom = false ∨ ¬ (s.lane (laneOf m.payload)).length < 64) : signature link dom m s = s :=
  if_pos (by simpa using h)

section
variable {p : Option (List Byte)} (hd : safetyDom dom = true) (hroom : (s.lane (laneOf m.payload)).length < 64)
  (hr : s.recv link (decide (m.type = 0x01)) m = (p, t))
include hd hroom

theorem signature_room : ¬ ((!safetyDom dom) = true ∨ 64 ≤ (s.lane (laneOf m.payload)).length) := by simp [hd, hroom]

include hr

theorem signature_enters {bs : List Byte} (hp : p = some bs) (hl : bs.length = 32) : signature link dom m s = t.laneIn bs := by
  subst hp
  simp only [signature, if_neg (signature_room hd hroom), hr, hl, if_true]

theorem signature_ignored (h : ∀ bs, p = some bs → bs.length ≠ 32) : signature link dom m s = t := by
  simp only [signature, if_neg (signature_room hd hroom), hr]
  rcases p with _ | bs
  · rfl
  · exact if_neg (h bs rfl)

end
end

/-! ### Arbitrations (R192, R194, R213) -/

/-- The end of an arbitration of slots, which is judged under the range of its first slot. -/
def State.arbDecide (s : State) (a : Arb) (ok : Bool) : State :=
  let slots := s.arbSlots a.kind
  match s.bvRun a.key with
  | none => s.goldRetry
  | some r =>
    match runRange r (slots.headD 0) with
    | none => s.goldRetry
    | some (_, rg, tol) =>
      let (res, t) := s.judgeSlots r rg tol ok slots
      let t := match res with
        | some (slot, reason, elem) => (t.count (bvPage + 0x070)).pairFail a.key slot reason elem
        | none => t
      (t.bvResolve a.key).goldRetry

section
variable {s : State} {a : Arb} {ok : Bool}

/-- No open run, or none of its ranges, holds the first slot. -/
theorem State.arbDecide_unheld (h : (s.bvRun a.key).bind (fun r => runRange r ((s.arbSlots a.kind).headD 0)) = none) :
    s.arbDecide a ok = s.goldRetry := by
  rcases hr : s.bvRun a.key with _ | r
  · simp only [State.arbDecide, hr]
  · rw [hr, Option.bind_some] at h
    simp only [State.arbDecide, hr, h]

section
variable {r : BvRun} {i : Nat} {rg : RangeRec} {tol : TolRec} {x : State} (hr : s.bvRun a.key = some r)
  (hg : runRange r ((s.arbSlots a.kind).headD 0) = some (i, rg, tol))
include hr hg

theorem State.arbDecide_passes (hj : s.judgeSlots r rg tol ok (s.arbSlots a.kind) = (none, x)) :
    s.arbDecide a ok = (x.bvResolve a.key).goldRetry := by
  simp only [State.arbDecide, hr, hg, hj]

theorem State.arbDecide_fails {slot reason elem : Nat}
    (hj : s.judgeSlots r rg tol ok (s.arbSlots a.kind) = (some (slot, reason, elem), x)) :
    s.arbDecide a ok = (((x.count (bvPage + 0x070)).pairFail a.key slot reason elem).bvResolve a.key).goldRetry := by
  simp only [State.arbDecide, hr, hg, hj]

end
end

section
variable {s : State}

section
variable (hq : s.bv.queue = [])
include hq

theorem arbStart_empty : arbStart s = s := by simp only [arbStart, hq]

theorem arbEnd_empty (ok : Bool) : arbEnd ok s = s := by simp only [arbEnd, hq]

end

section
variable {a : Arb} {q : List Arb} (hq : s.bv.queue = a :: q)
include hq

section
variable (ha : a.start = none)
include ha

theorem arbStart_starts :
    arbStart s = (s.setBv { s.bv with queue := { a with start := some s.frc } :: q }).count (bvPage + 0x06C) := by
  simp only [arbStart, hq, ha, Option.isSome_none, Bool.false_eq_true, if_false]

theorem arbEnd_unstarted (ok : Bool) : arbEnd ok s = s := by simp only [arbEnd, hq, ha]

end

section
variable {t0 : Tick} {ok : Bool} (ha : a.start = some t0)
include ha

theorem arbStart_running : arbStart s = s := by simp only [arbStart, hq, ha, Option.isSome_some, if_true]

theorem arbEnd_early (h : s.frc < t0 + (a.cost + 207) / 208) : arbEnd ok s = s := by simp only [arbEnd, hq, ha, h, if_true]

section
variable (h : t0 + (a.cost + 207) / 208 ≤ s.frc)
include h

/-- The comparison of a golden run ends by its judgement. -/
theorem arbEnd_golden {svc : Nat} {copyB good : Bool} {base : Nat} {desc : TensorDesc} {expect : Nat} {tol : TolRec} {x : State}
    (hk : a.kind = .golden svc copyB base desc expect tol)
    (hj : (s.setBv { s.bv with queue := q }).judgeGolden ok base desc expect tol = (good, x)) :
    arbEnd ok s = ((if good then x else x.count (bvPage + 0x070)).goldCmp svc copyB good).goldRetry := by
  simp only [arbEnd, hq, ha, Nat.not_lt.2 h, if_false, hk, hj]

/-- Any other arbitration decides its slots. -/
theorem arbEnd_slots (hk : a.kind.isGolden = false) : arbEnd ok s = (s.setBv { s.bv with queue := q }).arbDecide a ok := by
  rcases hkind : a.kind with slot | ⟨first, count⟩ | ⟨svc, copyB, base, desc, expect, tol⟩
  case golden => simp [hkind, ArbKind.isGolden] at hk
  all_goals
    simp only [arbEnd, hq, ha, Nat.not_lt.2 h, if_false, hkind, State.arbDecide] <;> rfl

end
end
end
end

/-! ### Scrub passes (R196) and BV_FAIL_CLR (R201) -/

/-- One word of a pass: a slot word or a state word read, and lost where it cannot be. -/
def State.scrubWord (s : State) (e : Nat × Byte) : State :=
  if e.1 < 2097152 then
    (if (s.slotRead (e.1 / 2) (e.1 % 2)).1.isSome then (s.slotRead (e.1 / 2) (e.1 % 2)).2
      else (s.slotRead (e.1 / 2) (e.1 % 2)).2.wordLost (e.1 / 2))
  else (if (s.stateRead (16 * (e.1 % 2097152))).1 then (s.stateRead (16 * (e.1 % 2097152))).2
    else (s.stateRead (16 * (e.1 % 2097152))).2.stateLost (16 * (e.1 % 2097152)))

section
variable {s : State}

theorem scrubStart_starts (h : s.bv.scrub = none ∧ s.bv.scrubNext ≤ s.frc) :
    scrubStart s = s.setBv { s.bv with scrub := some s.frc, scrubNext := s.frc + 500000000 * s.regF (bvPage + 0x054) 0 12 } :=
  if_neg (by simp [h.1, h.2])

theorem scrubStart_notDue (h : ¬ (s.bv.scrub = none ∧ s.bv.scrubNext ≤ s.frc)) : scrubStart s = s :=
  if_pos (by
    rw [Classical.not_and_iff_not_or_not, Nat.not_le] at h
    exact h.imp_left Option.isSome_iff_ne_none.2)

theorem scrubEnd_ends {t0 : Tick} (hs : s.bv.scrub = some t0) (h : t0 + scrubTicks ≤ s.frc) :
    scrubEnd s = (s.bv.syn.foldl State.scrubWord s).setBv { (s.bv.syn.foldl State.scrubWord s).bv with scrub := none } := by
  simp only [scrubEnd, hs, Nat.not_lt.2 h, if_false]
  rfl

theorem scrubEnd_notDue (h : ∀ t0, s.bv.scrub = some t0 → s.frc < t0 + scrubTicks) : scrubEnd s = s := by
  rcases hs : s.bv.scrub with _ | t0
  · simp only [scrubEnd, hs]
  · simp only [scrubEnd, hs, h t0 hs, if_true]

theorem bvFailClr_clears {w : Writer} {v : W32} (h : w = .pair ∧ bit v 0 = true) :
    bvFailClr w v s = (s.setReg (bvPage + 0x084) 0).setReg (bvPage + 0x088) 0 := if_pos (by simpa using h)

theorem bvFailClr_ignored {w : Writer} {v : W32} (h : ¬ (w = .pair ∧ bit v 0 = true)) : bvFailClr w v s = s :=
  if_neg (by simpa using h)

end

/-! ### The commands -/

section
variable {n : Nat} (hn : n < 256) (s : State)
include hn

theorem exec_runOpen (m : PMsg) (proof : Bool) (seq : W32) (two : Bool) (dieA dieB : Nat) (dl : Tick) :
    exec (.runOpen m n proof seq two dieA dieB dl) s = .next (runOpen m n proof seq two dieA dieB dl s) := onUnit_next (decide_eq_true hn)

theorem exec_slotClearComplete (proof : Bool) : exec (.slotClearComplete n proof) s = .next (slotClear n proof s) :=
  onUnit_next (decide_eq_true hn)

theorem exec_belvedereDeadline (proof : Bool) : exec (.belvedereDeadline n proof) s = .next (bvDeadline n proof s) :=
  onUnit_next (decide_eq_true hn)

theorem exec_deadline (m : PMsg) (d : Tick) : exec (.deadline m n d) s = .next (deadline m n d s) := onUnit_next (decide_eq_true hn)

end

theorem exec_signature {link : Nat} (dom : Domain) (m : PMsg) (s : State) (h : link < 2) :
    exec (.signature link dom m) s = .next (signature link dom m s) := onUnit_next (decide_eq_true h)

/-- Settles O24: messages by what the receiver accepts of them and the records that stand open, a record by its clearing, its deadline
and its copies, an arbitration by its start, its cost and its kind, a pass by its times, and the clear by its writer. -/
theorem belvedereRuns : Obligations.BelvedereRuns := by
  unfold Obligations.BelvedereRuns
  intro s t w m n proof p v hn
  have hstart : exec .arbitrationStart s = .next (arbStart s) := rfl
  have hend : ∀ ok, exec (.arbitrationEnd ok) s = .next (arbEnd ok s) := fun _ => rfl
  simp only [exec_runOpen hn, exec_slotClearComplete hn, exec_belvedereDeadline hn, exec_deadline hn, hstart, hend]
  refine ⟨fun seq two dieA dieB dl hr =>
      ⟨fun d hp hd => congrArg _ (runOpen_opens hr hp hd), fun h => congrArg _ (runOpen_ignored hr h)⟩,
    fun r hr => ⟨fun h => congrArg _ (slotClear_ends hr h), fun h => congrArg _ (slotClear_cleared hr h),
      fun h => congrArg _ (bvDeadline_early hr h), fun hd h => congrArg _ (bvDeadline_oneCopy hr hd h),
      fun hd h => congrArg _ (bvDeadline_twoCopies hr hd h)⟩,
    fun hr => ⟨congrArg _ (slotClear_noRecord hr), congrArg _ (bvDeadline_noRecord hr)⟩, fun link dom hl => ?signature,
    fun hq => ⟨congrArg _ (arbStart_empty hq), fun ok => congrArg _ (arbEnd_empty hq ok)⟩, fun a q hq => ?arbitration,
    ⟨fun h => congrArg _ (scrubStart_starts h), fun h => congrArg _ (scrubStart_notDue h)⟩,
    ⟨fun t0 hs h => congrArg _ (scrubEnd_ends hs h), fun h => congrArg _ (scrubEnd_notDue h)⟩,
    fun h => congrArg _ (bvFailClr_clears h), fun h => congrArg _ (bvFailClr_ignored h),
    fun d hr => ⟨fun r hp hk => congrArg _ (deadline_moves (hp ▸ hr) hk), fun h => congrArg _ (deadline_ignored hr h)⟩⟩
  case signature =>
    rw [exec_signature dom m s hl]
    exact ⟨fun h => congrArg _ (signature_untaken h), fun hd hroom hr =>
      ⟨fun bs hp hlen => congrArg _ (signature_enters hd hroom hr hp hlen), fun h => congrArg _ (signature_ignored hd hroom hr h)⟩⟩
  case arbitration =>
    refine ⟨fun ha => ⟨congrArg _ (arbStart_starts hq ha), fun ok => congrArg _ (arbEnd_unstarted hq ha ok)⟩, fun t0 ok ha =>
      ⟨congrArg _ (arbStart_running hq ha), fun h => congrArg _ (arbEnd_early hq ha h),
        fun h => ⟨?golden, fun hk => ⟨?slots, ?unheld⟩⟩⟩⟩
    case golden =>
      intro svc copyB base desc expect tol good x hk hj
      exact congrArg _ (arbEnd_golden hq ha h hk hj)
    case slots =>
      intro r rg tol i res x hr hg hj
      have hslots := arbEnd_slots (ok := ok) hq ha h hk
      exact ⟨fun hres => congrArg _ (hslots.trans (State.arbDecide_passes hr hg (hres ▸ hj))),
        fun slot reason elem hres => congrArg _ (hslots.trans (State.arbDecide_fails hr hg (hres ▸ hj)))⟩
    case unheld =>
      intro hu
      exact congrArg _ ((arbEnd_slots hq ha h hk).trans (State.arbDecide_unheld hu))

end Sys2Proof.Machine
end

section
/-! The task sequence monitor (R133, R280 to R283): check-ins, the judgement of a window that is due, and the failure record. -/

namespace Sys2Proof.Machine

/-! ### Windows (R281, R282) -/

/-- Whether a window's count is judged a failure: not in the first window since the plan began, and outside the range of a task on. -/
def State.taskBad (s : State) (k : Nat) : Prop :=
  s.cyc.count - s.tsm.origin ≠ tsmSpan s k ∧
    ¬ (s.taskOn k = true ∧ tsmMin s k ≤ s.regF (tsmStatA k) 0 4 ∧ s.regF (tsmStatA k) 0 4 ≤ tsmMax s k)

/-- A window marked as judged at the present boundary. -/
def State.taskMarked (s : State) (k : Nat) : State :=
  { s with tsm := { s.tsm with judged := Tab.set 0 s.tsm.judged k s.cyc.count } }

/-- A failed window counted, recorded where no failure stands yet, and given as evidence. -/
def State.taskFailed (s : State) (k : Nat) : State :=
  let n := s.regF (tsmStatA k) 0 4
  let u := ((s.taskMarked k).setReg (tsmStatA k) (w32 (16 * n + 256))).count (tsmPage + 0x040)
  let u := if bit (u.reg (tsmPage + 0x048)) 31 = true then u
    else (u.setReg (tsmPage + 0x048) (w32 (k + 256 * n + 2 ^ 31))).setReg (tsmPage + 0x04C) (w32 (nfld s.cyc.last 16 32))
  { u with evid := u.evid ++ [⟨s.cyc.last, .task k⟩] }

section
variable {s : State} {k : Nat}

/-- The model's test of a failure, as R281 puts it. -/
theorem State.taskBad_iff :
    (!decide (s.cyc.count - s.tsm.origin = tsmSpan s k) &&
      !(s.taskOn k && decide (tsmMin s k ≤ s.regF (tsmStatA k) 0 4) && decide (s.regF (tsmStatA k) 0 4 ≤ tsmMax s k))) = true ↔
      s.taskBad k := by
  simp only [State.taskBad, Bool.and_eq_true, Bool.not_eq_true', ← Bool.not_eq_true, decide_eq_true_eq,
    and_assoc, ne_eq]

theorem State.taskJudge_passes (h : ¬ s.taskBad k) :
    s.taskJudge k = (s.taskMarked k).setReg (tsmStatA k) (w32 (16 * s.regF (tsmStatA k) 0 4)) := by
  have hb := Bool.eq_false_iff.2 (mt State.taskBad_iff.1 h)
  simp only [State.taskJudge, hb, Bool.not_false, if_true]
  rfl

theorem State.taskJudge_fails (h : s.taskBad k) : s.taskJudge k = s.taskFailed k := by
  have hb := State.taskBad_iff.2 h
  simp only [State.taskJudge, hb, Bool.not_true, Bool.false_eq_true, if_false]
  rfl

theorem taskClose_due (h : s.taskDue k = true) : taskClose k s = (s.taskJudge k).tsmServe := if_pos h

theorem taskClose_early (h : s.taskDue k = false) : taskClose k s = s := if_neg (ne_true_of_eq_false h)

end

/-! ### Check-ins (R133, R280) and TSM_FAIL_CLR (R283) -/

section
variable {s t : State} {link : Nat} {dom : Domain} {m : PMsg}

theorem checkinRx_foreign (h : safetyDom dom = false) : checkinRx link dom m s = s := if_pos (by simp [h])

section
variable (hd : safetyDom dom = true)
include hd

/-- What the receiver does not accept, and an empty payload, change the receiver alone. -/
theorem checkinRx_empty (h : s.recv link (decide (m.type = 0x02)) m = (none, t) ∨ s.recv link (decide (m.type = 0x02)) m = (some [], t)) :
    checkinRx link dom m s = t := by
  rcases h with h | h <;> simp only [checkinRx, hd, h, Bool.not_true, Bool.false_eq_true, if_false]

theorem checkinRx_accepted {b : Byte} {bs : List Byte} (h : s.recv link (decide (m.type = 0x02)) m = (some (b :: bs), t)) :
    checkinRx link dom m s = t.checkIn b.toNat := by
  simp only [checkinRx, hd, h, Bool.not_true, Bool.false_eq_true, if_false]

end

theorem State.checkIn_on {n : Nat} (h : (taskClose n s).taskOn n = true) :
    s.checkIn n = (taskClose n s).setRegF (tsmStatA n) 0 4 (satN 4 ((taskClose n s).regF (tsmStatA n) 0 4 + 1)) := if_pos h

theorem State.checkIn_unknown {n : Nat} (h : (taskClose n s).taskOn n = false) :
    s.checkIn n = (taskClose n s).count (tsmPage + 0x044) := if_neg (ne_true_of_eq_false h)

end

theorem tsmFailClr_clears {s : State} {v : W32} (h : bit v 0 = true) :
    tsmFailClr .pair v s = (s.setReg (tsmPage + 0x048) 0).setReg (tsmPage + 0x04C) 0 := if_pos ⟨rfl, h⟩

theorem tsmFailClr_ignored {s : State} {w : Writer} {v : W32} (h : w ≠ .pair ∨ bit v 0 = false) : tsmFailClr w v s = s :=
  if_neg (by rintro ⟨hw, hb⟩; simp [hw, hb] at h)

/-! ### The commands -/

theorem exec_checkin {link : Nat} (dom : Domain) (m : PMsg) (s : State) (h : link < 2) :
    exec (.checkin link dom m) s = .next (checkinRx link dom m s) := onUnit_next (decide_eq_true h)

theorem exec_taskWindowClose {k : Nat} (s : State) (h : k < 256) : exec (.taskWindowClose k) s = .next (taskClose k s) :=
  onUnit_next (decide_eq_true h)

/-- Settles O34: a check-in goes by its domain, its payload and its task, a window by whether it is due and whether its count is bad, and
the clear by its writer. -/
theorem taskMonitorAndCheckIns : Obligations.TaskMonitorAndCheckIns := by
  unfold Obligations.TaskMonitorAndCheckIns
  intro s t w link k dom m b bs v hlink hk
  have hcheck {x : State} (h : checkinRx link dom m s = x) : exec (.checkin link dom m) s = .next x :=
    (exec_checkin dom m s hlink).trans (congrArg _ h)
  have hclose {x : State} (h : taskClose k s = x) : exec (.taskWindowClose k) s = .next x :=
    (exec_taskWindowClose s hk).trans (congrArg _ h)
  refine ⟨fun hd => hcheck (checkinRx_foreign hd), fun hd hr => hcheck (checkinRx_empty hd hr), fun hd hr => ?accepted,
    fun hdue => ⟨fun hb => hclose ((taskClose_due hdue).trans (congrArg _ (State.taskJudge_passes hb))),
      fun hb => hclose ((taskClose_due hdue).trans (congrArg _ (State.taskJudge_fails hb)))⟩,
    fun hdue => hclose (taskClose_early hdue), fun hb => congrArg _ (tsmFailClr_clears hb), fun h => congrArg _ (tsmFailClr_ignored h)⟩
  case accepted =>
    have hrx := checkinRx_accepted hd hr
    exact ⟨fun hon => hcheck (hrx.trans (State.checkIn_on hon)), fun hoff => hcheck (hrx.trans (State.checkIn_unknown hoff))⟩

end Sys2Proof.Machine
end

section
/-! The part right after reset (R114, R137, R184, R232, R273, R303, R306, R366, R390, R397): registers hold their reset values. -/

namespace Sys2Proof.Machine

/-- No register is listed after reset, so each reads as its row of the register tables gives it. -/
@[simp] theorem State.reset_reg (a : Nat) : State.reset.reg a = regReset a := rfl

/-- Every output lacks PERMIT and is latched (R183, R184). -/
theorem State.reset_outputs : ∀ n < 4, State.reset.permit n = false ∧ State.reset.latched n = true := by
  simp only [State.permit, State.latched, State.regF, State.reset_reg]
  decide +kernel

/-- Every fault class is clear (R232). -/
theorem State.reset_fcLevel : ∀ k < 16, State.reset.fcLevel k = 7 := by
  simp only [State.fcLevel, State.regF, State.reset_reg]
  decide +kernel

/-- Every watchdog is OFF (R273). -/
theorem State.reset_wdState : ∀ w < 14, State.reset.wdState w = wdOff := by
  simp only [State.wdState, State.regF, State.reset_reg]
  decide +kernel

/-- Presented time is 0 at the nominal rate (R303, R306). -/
theorem State.reset_time : State.reset.pt = 0 ∧ State.reset.bsRate = 0x200000000 := by
  decide +kernel

/-- The I/O die is held in reset and KILL_N asserted (R366, R390). -/
theorem State.reset_held : bit (State.reset.reg ghIoCtrlA) 0 = false ∧ State.reset.killed = true := by
  simp only [State.killed, State.reset_reg]
  decide +kernel

/-- PWR_CAP stands at 150 W and the ceiling of C at 1,000 MHz (R397). -/
theorem State.reset_power : State.reset.cap = 1500 ∧ State.reset.ceilC = 40 := by
  simp only [State.cap, State.ceilC, State.regF, State.reset_reg]
  decide +kernel

theorem State.reset_ethMaxLen : ∀ k < 4, State.reset.reg (ethPage k + 0x048) = 0x5EE := by
  simp only [State.reset_reg]
  decide +kernel

/-- Settles O54: the parts above, each read from the reset values of its registers. -/
theorem resetState : Obligations.ResetState := by
  unfold Obligations.ResetState
  obtain ⟨hpt, hrate⟩ := State.reset_time
  obtain ⟨hio, hkill⟩ := State.reset_held
  obtain ⟨hcap, hceil⟩ := State.reset_power
  exact ⟨rfl, rfl, hpt, hrate, hio, hkill, State.reset_outputs, State.reset_fcLevel, State.reset_wdState, hcap, hceil,
    State.reset_ethMaxLen⟩

end Sys2Proof.Machine
end

section
/-! Requests of the fabric (R146 to R151, R154, R155, R158, R160, R163, R377): from their issue over their performance to their completion. -/

namespace Sys2Proof.Machine

/-! ### A request at its target (R145, R149, R151) -/

section
variable {s t : State} {die st : Nat} {p : Packet} {data : List (W32 × BitVec 7)}

theorem State.reply_silent (h : st = 8) : s.reply die p st data = s := if_pos h

theorem State.reply_answers (h : st ≠ 8) : s.reply die p st data = s.answer die p st 0 data := if_neg h

/-- A packet laid into the links to every other die that it travels to. -/
def State.travelled (s : State) (die : Nat) (p : Packet) : State := (s.farDies die p).foldl (fun t d => t.overLink die d p) s

/-- A well-formed packet is of the kind that it was formed as. -/
theorem pktFormed_kind {kind : Nat} (h : pktFormed p kind = true) : p.kind.toNat = kind := by
  simp only [pktFormed, Bool.and_eq_true, decide_eq_true_eq] at h
  obtain ⟨⟨⟨⟨⟨hk, -⟩, -⟩, -⟩, -⟩, -⟩ := h
  exact hk

/-- A packet is performed by its kind: 1 writes, 4 and 5 are collective, and any other reads. -/
theorem State.performPkt_eq :
    s.performPkt die p =
      if p.kind.toNat = 1 then (s.travelled die p).writePkt die p
      else if p.kind.toNat = 4 ∨ p.kind.toNat = 5 then (s.travelled die p).collective die p
      else (s.travelled die p).readPkt die p := by
  simp only [State.performPkt, State.travelled, ← BitVec.toNat_inj]
  rfl

theorem State.performPkt_read {ws : List (Option W32)} (hk : p.kind.toNat = 0)
    (hr : (s.travelled die p).doRead (pktSrc p die) p.addr.toNat (pktLen p) p.spec = (st, ws, t)) :
    s.performPkt die p = t.reply die p st (if st ≤ 1 then coded (canonical p.addr.toNat) ws else []) := by
  rw [State.performPkt_eq, if_neg (by omega), if_neg (by omega)]
  simp only [State.readPkt, hr]

theorem State.performPkt_write {ws : List (Option W32)} {z : State} (hk : p.kind.toNat = 1)
    (hp : (s.travelled die p).payload die (canonical p.addr.toNat) p.payload = (ws, t))
    (hw : t.doWrite (pktSrc p die) p.addr.toNat ws (pktBe p) = (st, z)) : s.performPkt die p = z.reply die p st [] := by
  rw [State.performPkt_eq, if_pos hk]
  simp only [State.writePkt, hp, hw]

theorem State.performPkt_collective (hk : p.kind.toNat = 4 ∨ p.kind.toNat = 5) :
    s.performPkt die p = (s.travelled die p).collective die p := by
  rw [State.performPkt_eq, if_neg (by omega), if_pos hk]

end

/-! ### From issue to performance (R146 to R148, R154) -/

/-- A packet at the entry of its die's Promenade: the injection applied to its check, and the state with its request outstanding. -/
def State.pktEntry (s : State) (die : Nat) (p : Packet) : Nat × State := (s.issueReq die p).injTake (fabPage die) 0

/-- A packet that entry passes: its header checks, no injection spoils the check, and its form is that of its kind. -/
def State.pktPasses (s : State) (die kind : Nat) (p : Packet) : Prop :=
  pktCrc p = p.hdrCrc.toNat ∧ (s.pktEntry die p).1 ≠ 1 ∧ pktFormed p kind = true

section
variable {s : State} {die kind : Nat} {p : Packet}

/-- The model's test of a drop on entry. -/
theorem State.not_pktPasses_iff :
    (decide (pktCrc p ≠ p.hdrCrc.toNat) || decide ((s.pktEntry die p).1 = 1) || !pktFormed p kind) = true ↔
      ¬ s.pktPasses die kind p := by
  simp only [State.pktPasses, Bool.or_eq_true, decide_eq_true_eq, Bool.not_eq_true', Classical.not_and_iff_not_or_not,
    ne_eq, Classical.not_not, Bool.not_eq_true, or_assoc]

theorem State.sendPkt_refused (h : s.mayIssue die p = false) : s.sendPkt die kind p = s := if_pos (by simp [h])

section
variable (hm : s.mayIssue die p = true)
include hm

/-- A packet issued goes by entry's check, and then by its outstanding request. -/
theorem State.sendPkt_issued :
    s.sendPkt die kind p =
      if decide (pktCrc p ≠ p.hdrCrc.toNat) || decide ((s.pktEntry die p).1 = 1) || !pktFormed p kind then
        (s.pktEntry die p).2.droppedBy die (s.pktEntry die p).1
      else ((s.pktEntry die p).2.req (pktKey p die)).elim (s.pktEntry die p).2 (fun r =>
        if (s.pktEntry die p).2.behind die p r.ord then (s.pktEntry die p).2.setReq (pktKey p die) (some { r with st := 3 })
        else (s.pktEntry die p).2.performPkt die p) := by
  simp only [State.sendPkt, hm, Bool.not_true, Bool.false_eq_true, if_false, State.pktEntry]
  cases ((s.issueReq die p).injTake (fabPage die) 0).2.req (pktKey p die) <;> rfl

theorem State.sendPkt_dropped (hg : ¬ s.pktPasses die kind p) :
    s.sendPkt die kind p = (s.pktEntry die p).2.droppedBy die (s.pktEntry die p).1 :=
  (State.sendPkt_issued hm).trans (if_pos (State.not_pktPasses_iff.2 hg))

section
variable (hg : s.pktPasses die kind p)
include hg

theorem State.sendPkt_passed :
    s.sendPkt die kind p = ((s.pktEntry die p).2.req (pktKey p die)).elim (s.pktEntry die p).2 (fun r =>
      if (s.pktEntry die p).2.behind die p r.ord then (s.pktEntry die p).2.setReq (pktKey p die) (some { r with st := 3 })
      else (s.pktEntry die p).2.performPkt die p) :=
  (State.sendPkt_issued hm).trans (if_neg (mt State.not_pktPasses_iff.1 (not_not_intro hg)))

theorem State.sendPkt_noRequest (hr : (s.pktEntry die p).2.req (pktKey p die) = none) :
    s.sendPkt die kind p = (s.pktEntry die p).2 := by
  rw [State.sendPkt_passed hm hg, hr, Option.elim_none]

section
variable {r : ReqSt} (hr : (s.pktEntry die p).2.req (pktKey p die) = some r)
include hr

theorem State.sendPkt_waits (hb : (s.pktEntry die p).2.behind die p r.ord = true) :
    s.sendPkt die kind p = (s.pktEntry die p).2.setReq (pktKey p die) (some { r with st := 3 }) := by
  rw [State.sendPkt_passed hm hg, hr, Option.elim_some, if_pos hb]

theorem State.sendPkt_performs (hb : (s.pktEntry die p).2.behind die p r.ord = false) :
    s.sendPkt die kind p = (s.pktEntry die p).2.performPkt die p := by
  rw [State.sendPkt_passed hm hg, hr, Option.elim_some, if_neg (ne_true_of_eq_false hb)]

end
end
end
end

/-! ### A collective that waits for a context (R160) -/

section
variable {s : State} {n d : Nat} {q : Packet} {rest : List (Nat × Packet)}

theorem contextAcquire_nobody (hw : Tab.get [] s.collWait n = []) : contextAcquire n s = s := by
  simp only [contextAcquire, hw]

/-- The collective that has waited longest at a node no longer waits there. -/
def State.collFirst (s : State) (n : Nat) (rest : List (Nat × Packet)) : State :=
  { s with collWait := Tab.set [] s.collWait n rest }

section
variable (hw : Tab.get [] s.collWait n = (d, q) :: rest)
include hw

theorem contextAcquire_full (hu : 8 ≤ s.collUsed n) : contextAcquire n s = s := by
  simp only [contextAcquire, hw, hu, if_true]

theorem contextAcquire_runs (hu : s.collUsed n < 8) {r : ReqSt} (hr : (s.collFirst n rest).req (pktKey q d) = some r) (hst : r.st = 4) :
    contextAcquire n s = (s.collFirst n rest).collective d q := by
  rw [State.collFirst] at hr ⊢
  simp only [contextAcquire, hw, Nat.not_le.2 hu, if_false, hr, hst, if_true]

/-- A collective whose request has ended meanwhile only leaves the wait. -/
theorem contextAcquire_stale (hu : s.collUsed n < 8) (h : ¬ ∃ r, (s.collFirst n rest).req (pktKey q d) = some r ∧ r.st = 4) :
    contextAcquire n s = s.collFirst n rest := by
  rw [State.collFirst] at h ⊢
  simp only [contextAcquire, hw, Nat.not_le.2 hu, if_false]
  rcases hr : ({ s with collWait := Tab.set [] s.collWait n rest } : State).req (pktKey q d) with _ | r
  · rfl
  · exact if_neg fun hst => h ⟨r, hr, hst⟩

end
end

/-! ### Responses (R148 to R151, R163, R377) -/

/-- A response whose header checks. -/
def respSound (p : Packet) : Prop := p.kind = 2 ∧ pktCrc p = p.hdrCrc.toNat

/-- The status that a response's words leave of the one it names: an unknown one is a target error, and poison spoils OK. -/
def respStatus (p : Packet) (ws : List (Option W32)) : Nat :=
  let named := if 9 ≤ p.status.toNat then 4 else p.status.toNat
  if named = 0 ∧ (∃ w ∈ ws, w = none) then 1 else named

/-- A response that has its unicast request reissued: TARGET_DRAINING within FAB_RESP_TO, and not of a speculative read. -/
abbrev State.reissues (s : State) (r : ReqSt) (st : Nat) : Prop :=
  st = 2 ∧ r.pkt.spec = false ∧ r.pkt.kind.toNat ≤ 1 ∧ s.frc < r.first + r.respTo

section
variable {s t : State} {die : Nat} {p : Packet}

theorem fabricResponse_unsound (h : ¬ respSound p) : fabricResponse die p s = s.dropped die := if_pos (Decidable.not_and_iff_or_not.1 h)

section
variable (h : respSound p)
include h

theorem fabricResponse_unknown (hr : s.req (pktKey p die) = none) : fabricResponse die p s = s.late die := by
  obtain ⟨hk, hc⟩ := h
  simp only [fabricResponse, hk, hc, hr, ne_eq, not_true_eq_false, or_self, if_false]

section
variable {r : ReqSt} (hr : s.req (pktKey p die) = some r)
include hr

theorem fabricResponse_lost (hp : s.pathStatus (s.answersFrom die r.pkt) die ≠ 0) : fabricResponse die p s = s := by
  obtain ⟨hk, hc⟩ := h
  simp only [fabricResponse, hk, hc, hr, hp, ne_eq, not_true_eq_false, not_false_eq_true, or_self, if_false, if_true]

section
variable (hp : s.pathStatus (s.answersFrom die r.pkt) die = 0)
include hp

/-- The late response of a timed-out request frees its tag. -/
theorem fabricResponse_frees (hst : r.st = 2) : fabricResponse die p s = (s.setReq (pktKey p die) none).late die := by
  obtain ⟨hk, hc⟩ := h
  simp only [fabricResponse, hk, hc, hr, hp, hst, ne_eq, not_true_eq_false, or_self, if_false, if_true]

theorem fabricResponse_late (h2 : r.st ≠ 2) (h0 : r.st ≠ 0) : fabricResponse die p s = s.late die := by
  obtain ⟨hk, hc⟩ := h
  simp only [fabricResponse, hk, hc, hr, hp, h2, h0, ne_eq, not_true_eq_false, not_false_eq_true, or_self, if_false, if_true]

section
variable (h0 : r.st = 0) {ws : List (Option W32)} (hw : s.payload die (canonical r.pkt.addr.toNat) p.payload = (ws, t))
include h0 hw

/-- The response to an outstanding request goes by its source's fence, and then by its status. -/
theorem fabricResponse_outstanding :
    fabricResponse die p s = (t.absorbs p.srcUnit).elim
      (if t.reissues r (respStatus p ws) then
        t.setReq (pktKey p die) (some { r with st := 1, again := t.frc + t.retryTicks die })
      else t.finishN (pktKey p die) die r.pkt (respStatus p ws) p.count.toNat)
      (fun c => (t.setReq (pktKey p die) none).setUcmd c.1 (some { c.2 with absorbed := c.2.absorbed + 1 })) := by
  obtain ⟨hk, hc⟩ := h
  have hnone : ws.any Option.isNone = true ↔ ∃ w ∈ ws, w = none := by simp
  simp only [fabricResponse, hk, hc, hr, hp, h0, hw, hnone, ne_eq, not_true_eq_false, or_self, Nat.reduceEqDiff, if_false,
    State.reissues, respStatus]
  rcases t.absorbs p.srcUnit with _ | ⟨u, c⟩ <;> rfl

theorem fabricResponse_absorbed {v : UnitId} {f : UCmd} (ha : t.absorbs p.srcUnit = some (v, f)) :
    fabricResponse die p s = (t.setReq (pktKey p die) none).setUcmd v (some { f with absorbed := f.absorbed + 1 }) := by
  rw [fabricResponse_outstanding h hr hp h0 hw, ha, Option.elim_some]

section
variable (ha : t.absorbs p.srcUnit = none)
include ha

theorem fabricResponse_reissues (hi : t.reissues r (respStatus p ws)) :
    fabricResponse die p s = t.setReq (pktKey p die) (some { r with st := 1, again := t.frc + t.retryTicks die }) := by
  rw [fabricResponse_outstanding h hr hp h0 hw, ha, Option.elim_none, if_pos hi]

theorem fabricResponse_completes (hi : ¬ t.reissues r (respStatus p ws)) :
    fabricResponse die p s = t.finishN (pktKey p die) die r.pkt (respStatus p ws) p.count.toNat := by
  rw [fabricResponse_outstanding h hr hp h0 hw, ha, Option.elim_none, if_neg hi]

end
end
end
end
end
end

/-! ### Reissue, timeout and quarantine (R150, R151, R154, R155) -/

section
variable {s : State} {die : Nat} {src : BitVec 16} {ret : BitVec 8} {tag : BitVec 10}

section
variable (hr : s.req (reqKey die src ret tag) = none)
include hr

theorem fabricRetry_noRequest : fabricRetry die src ret tag s = s := by simp only [fabricRetry, hr]

theorem fabricTimeout_noRequest : fabricTimeout die src ret tag s = s := by simp only [fabricTimeout, hr]

theorem quarantineEnd_noRequest : quarantineEnd die src ret tag s = s := by simp only [quarantineEnd, hr]

end

section
variable {r : ReqSt} (hr : s.req (reqKey die src ret tag) = some r)
include hr

section
variable (hst : r.st = 3)
include hst

theorem fabricRetry_behind (hb : s.behind die r.pkt r.ord = true) : fabricRetry die src ret tag s = s := by
  simp only [fabricRetry, hr, hst, hb, if_true]

theorem fabricRetry_goesOn (hb : s.behind die r.pkt r.ord = false) :
    fabricRetry die src ret tag s = (s.setReq (reqKey die src ret tag) (some { r with st := 0 })).performPkt die r.pkt := by
  simp only [fabricRetry, hr, hst, hb, if_true, Bool.false_eq_true, if_false]

end

theorem fabricRetry_notWaiting (h1 : r.st ≠ 1) (h3 : r.st ≠ 3) : fabricRetry die src ret tag s = s := by
  simp only [fabricRetry, hr, h1, h3, ne_eq, not_false_eq_true, if_true, if_false]

section
variable (hst : r.st = 1)
include hst

theorem fabricRetry_late (hl : r.first + r.respTo ≤ s.frc) :
    fabricRetry die src ret tag s = s.finish (reqKey die src ret tag) die r.pkt 2 := by
  simp only [fabricRetry, hr, hst, hl, ne_eq, not_true_eq_false, if_true, if_false, Nat.reduceEqDiff]

section
variable (hl : ¬ r.first + r.respTo ≤ s.frc)
include hl

theorem fabricRetry_notYet (hw : s.frc < r.again ∨ s.behind die r.pkt r.ord = true) : fabricRetry die src ret tag s = s := by
  simp only [fabricRetry, hr, hst, hl, hw, ne_eq, not_true_eq_false, if_true, if_false, Nat.reduceEqDiff]

theorem fabricRetry_reissues (ha : r.again ≤ s.frc) (hb : s.behind die r.pkt r.ord = false) :
    fabricRetry die src ret tag s =
      ((s.setReq (reqKey die src ret tag) (some { r with st := 0 })).count (fabPage die + 0x058)).performPkt die r.pkt := by
  simp only [fabricRetry, hr, hst, hl, hb, Nat.not_lt.2 ha, ne_eq, not_true_eq_false, if_false, Bool.false_eq_true, or_self,
    Nat.reduceEqDiff]

end

theorem fabricTimeout_draining (hl : r.first + r.respTo ≤ s.frc) :
    fabricTimeout die src ret tag s = s.finish (reqKey die src ret tag) die r.pkt 2 := by
  simp only [fabricTimeout, hr, hst, Nat.not_lt.2 hl, Nat.reduceEqDiff, or_self, if_false, if_true]

end

theorem fabricTimeout_idle (h : r.st = 2 ∨ ¬ r.first + r.respTo ≤ s.frc) : fabricTimeout die src ret tag s = s := by
  simp only [fabricTimeout, hr]
  exact if_pos (h.imp id Nat.not_le.1)

section
variable (h1 : r.st ≠ 1) (h2 : r.st ≠ 2) (hl : r.first + r.respTo ≤ s.frc)
include h1 h2 hl

/-- A request that expires without a final answer leaves its tag in quarantine. -/
theorem fabricTimeout_expires :
    fabricTimeout die src ret tag s =
      ((if r.pkt.spec then s else (s.count (fabPage die + 0x050)).setErr (fabPage die) 2).finish (reqKey die src ret tag) die r.pkt
        (if r.pkt.spec then 7 else 8)).setReq (reqKey die src ret tag) (some { r with st := 2, nodes := [] }) := by
  simp only [fabricTimeout, hr, h1, h2, Nat.not_lt.2 hl, or_self, if_false]

theorem fabricTimeout_reports (hs : r.pkt.spec = false) :
    fabricTimeout die src ret tag s =
      (((s.count (fabPage die + 0x050)).setErr (fabPage die) 2).finish (reqKey die src ret tag) die r.pkt 8).setReq
        (reqKey die src ret tag) (some { r with st := 2, nodes := [] }) := by
  rw [fabricTimeout_expires hr h1 h2 hl, hs, if_neg Bool.false_ne_true, if_neg Bool.false_ne_true]

theorem fabricTimeout_silent (hs : r.pkt.spec = true) :
    fabricTimeout die src ret tag s =
      (s.finish (reqKey die src ret tag) die r.pkt 7).setReq (reqKey die src ret tag) (some { r with st := 2, nodes := [] }) := by
  rw [fabricTimeout_expires hr h1 h2 hl, hs, if_pos rfl, if_pos rfl]

end

theorem quarantineEnd_frees (hst : r.st = 2) (hl : r.first + 4 * r.respTo ≤ s.frc) :
    quarantineEnd die src ret tag s = s.setReq (reqKey die src ret tag) none := by
  simp only [quarantineEnd, hr, hst, hl, and_self, if_true]

theorem quarantineEnd_holds (h : r.st ≠ 2 ∨ s.frc < r.first + 4 * r.respTo) : quarantineEnd die src ret tag s = s := by
  simp only [quarantineEnd, hr]
  exact if_neg fun ⟨hst, hl⟩ => h.elim (· hst) (Nat.not_lt.2 hl)

end
end

/-! ### The commands -/

section
variable {die : Nat} (s : State) (hd : die < 3)
include hd

/-- The four request commands send their packet as one of their kind. -/
theorem exec_request {kind : Nat} {c : Instr} {p : Packet}
    (hc : (c = .fabricRead die p ∧ kind = 0) ∨ (c = .fabricWrite die p ∧ kind = 1) ∨ (c = .mcastWrite die p ∧ kind = 4) ∨
      (c = .reduce die p ∧ kind = 5)) : exec c s = .next (s.sendPkt die kind p) := by
  rcases hc with ⟨rfl, rfl⟩ | ⟨rfl, rfl⟩ | ⟨rfl, rfl⟩ | ⟨rfl, rfl⟩ <;> exact onUnit_next (decide_eq_true hd)

theorem exec_fabricResponse (p : Packet) : exec (.fabricResponse die p) s = .next (fabricResponse die p s) :=
  onUnit_next (decide_eq_true hd)

section
variable (src : BitVec 16) (ret : BitVec 8) (tag : BitVec 10)

theorem exec_fabricRetry : exec (.fabricRetry die src ret tag) s = .next (fabricRetry die src ret tag s) :=
  onUnit_next (decide_eq_true hd)

theorem exec_fabricTimeout : exec (.fabricTimeout die src ret tag) s = .next (fabricTimeout die src ret tag s) :=
  onUnit_next (decide_eq_true hd)

theorem exec_tagQuarantineEnd : exec (.tagQuarantineEnd die src ret tag) s = .next (quarantineEnd die src ret tag s) :=
  onUnit_next (decide_eq_true hd)

end
end

theorem exec_collectiveContextAcquire {n : Nat} (s : State) (hn : n < 10) :
    exec (.collectiveContextAcquire n) s = .next (contextAcquire n s) := onUnit_next (decide_eq_true hn)

/-- Settles O18: a packet goes by what its source may issue, by its check on entry and by what it waits for, and is performed by its kind;
a context, a response and the commands of a tag go by the request that is outstanding. -/
theorem fabricRequests : Obligations.FabricRequests := by
  unfold Obligations.FabricRequests
  intro s die n kind c p src ret tag hd hn hc
  have hsend {x : State} (h : s.sendPkt die kind p = x) : exec c s = .next x := (exec_request s hd hc).trans (congrArg _ h)
  rw [exec_collectiveContextAcquire s hn, exec_fabricResponse s hd, exec_fabricRetry s hd, exec_fabricTimeout s hd,
    exec_tagQuarantineEnd s hd]
  refine ⟨fun hm => hsend (State.sendPkt_refused hm), fun hm hg => hsend (State.sendPkt_dropped hm hg),
    fun hm hg hr => hsend (State.sendPkt_noRequest hm hg hr), fun r hm hg hr hb => hsend (State.sendPkt_waits hm hg hr hb),
    fun r hm hg hr hb => ?performed,
    fun d q rest => ⟨fun hw => congrArg _ (contextAcquire_nobody hw), fun hw => ⟨fun hu => congrArg _ (contextAcquire_full hw hu),
      fun hu ⟨_, hr, hst⟩ => congrArg _ (contextAcquire_runs hw hu hr hst),
      fun hu h => congrArg _ (contextAcquire_stale hw hu h)⟩⟩, ?response, ?ofTag⟩
  case performed =>
    have hperf {x : State} (h : (s.pktEntry die p).2.performPkt die p = x) : exec c s = .next x :=
      hsend ((State.sendPkt_performs hm hg hr hb).trans h)
    obtain ⟨-, -, hform⟩ := hg
    have hk := pktFormed_kind hform
    refine ⟨fun h0 st ws t hread => ?read, fun h1 ws t st z hpay hwr => ?write,
      fun h4 => hperf (State.performPkt_collective (by omega))⟩
    case read =>
      have hp := State.performPkt_read (hk.trans h0) hread
      exact ⟨fun hst => hperf (hp.trans (State.reply_silent hst)), fun hst => hperf (hp.trans (State.reply_answers hst))⟩
    case write =>
      have hp := State.performPkt_write (hk.trans h1) hpay hwr
      exact ⟨fun hst => hperf (hp.trans (State.reply_silent hst)), fun hst => hperf (hp.trans (State.reply_answers hst))⟩
  case response =>
    exact ⟨fun h => congrArg _ (fabricResponse_unsound h), fun h hr => congrArg _ (fabricResponse_unknown h hr),
      fun r h hr => ⟨fun hp => congrArg _ (fabricResponse_lost h hr hp), fun hp =>
        ⟨fun hst => congrArg _ (fabricResponse_frees h hr hp hst), fun h2 h0 => congrArg _ (fabricResponse_late h hr hp h2 h0),
          fun h0 ws t hw => ⟨fun v f ha => congrArg _ (fabricResponse_absorbed h hr hp h0 hw ha),
            fun ha hi => congrArg _ (fabricResponse_reissues h hr hp h0 hw ha hi),
            fun ha hi => congrArg _ (fabricResponse_completes h hr hp h0 hw ha hi)⟩⟩⟩⟩
  case ofTag =>
    exact ⟨fun hr => ⟨congrArg _ (fabricRetry_noRequest hr), congrArg _ (fabricTimeout_noRequest hr),
        congrArg _ (quarantineEnd_noRequest hr)⟩,
      fun r hr => ⟨fun hst hb => congrArg _ (fabricRetry_behind hr hst hb), fun hst hb => congrArg _ (fabricRetry_goesOn hr hst hb),
        fun h1 h3 => congrArg _ (fabricRetry_notWaiting hr h1 h3),
        fun hst hl => ⟨congrArg _ (fabricRetry_late hr hst hl), congrArg _ (fabricTimeout_draining hr hst hl)⟩,
        fun hst hl hw => congrArg _ (fabricRetry_notYet hr hst hl hw),
        fun hst hl ha hb => congrArg _ (fabricRetry_reissues hr hst hl ha hb), fun h => congrArg _ (fabricTimeout_idle hr h),
        fun h1 h2 hl hs => congrArg _ (fabricTimeout_reports hr h1 h2 hl hs),
        fun h1 h2 hl hs => congrArg _ (fabricTimeout_silent hr h1 h2 hl hs),
        fun hst hl => congrArg _ (quarantineEnd_frees hr hst hl), fun h => congrArg _ (quarantineEnd_holds hr h)⟩⟩

end Sys2Proof.Machine
end

section
/-! Links (R161 to R169): an end's training from RESET to ACTIVE, flits and replays on an active group, and the loss of a link. -/

namespace Sys2Proof.Machine

/-! ### From RESET to ACTIVE (R164 to R166) -/

section
variable {s : State} {w : Writer} {e : Nat} {v : W32}

/-- What LINK_TRAIN asks of its writer, its value and its end. -/
def State.mayTrain (s : State) (w : Writer) (e : Nat) (v : W32) : Prop :=
  (if linkGh e then w = .pair else s.writerDom w = domGk ∨ s.writerDom w = domGh) ∧ bit v 0 = true ∧ linkGh e = false ∧
    s.lkState e = lkReset

/-- The model's test of LINK_TRAIN, as R164 and R169 put it. -/
theorem State.mayTrain_iff :
    (s.lkMay w e && bit v 0 && !linkGh e && decide (s.lkState e = lkReset)) = true ↔ s.mayTrain w e v := by
  cases hg : linkGh e <;> simp [State.mayTrain, State.lkMay, hg, and_assoc]

theorem linkTrain_starts (h : s.mayTrain w e v) : linkTrain w e v s = s.lkDetectIn e := if_pos (State.mayTrain_iff.2 h)

theorem linkTrain_ignored (h : ¬ s.mayTrain w e v) : linkTrain w e v s = s := if_neg (mt State.mayTrain_iff.1 h)

theorem ghAutoDetect_starts {k : Nat} (hup : s.ghUp = true) (hst : s.lkState (9 + k) = lkReset) :
    ghAutoDetect k s = s.lkDetectIn (9 + k) := if_pos (by simp [hup, hst])

theorem ghAutoDetect_idle {k : Nat} (h : s.ghUp = false ∨ s.lkState (9 + k) ≠ lkReset) : ghAutoDetect k s = s :=
  if_neg (by rcases h with h | h <;> simp [h])

/-- The partner is heard: it is not DOWN, and no state behind. -/
def State.lkHears (s : State) (e : Nat) : Prop :=
  s.lkState (linkPartner e) ≠ lkDown ∧ s.lkState e ≤ s.lkState (linkPartner e)

/-- The model's test of a step that waits for the partner, in the state that the step leaves. -/
theorem State.lkWaits_iff {st : Nat} :
    (s.lkState e ≠ st ∨ s.lkState (linkPartner e) < st ∨ s.lkState (linkPartner e) = lkDown) ↔
      s.lkState e ≠ st ∨ ¬ s.lkHears e := by
  by_cases hst : s.lkState e = st
  · subst hst
    rw [State.lkHears, Classical.not_and_iff_not_or_not, Classical.not_not, Nat.not_le, or_comm (a := _ = lkDown)]
  · simp only [ne_eq, hst, not_false_eq_true, true_or]

theorem State.not_lkWaits {st : Nat} (hst : s.lkState e = st) (hh : s.lkHears e) :
    ¬ (s.lkState e ≠ st ∨ s.lkState (linkPartner e) < st ∨ s.lkState (linkPartner e) = lkDown) :=
  mt State.lkWaits_iff.1 (by simp [hst, hh])

/-- The model's test of a partner detected. -/
theorem partnerDetected_test {groups : Nat} :
    (decide (s.lkState e = lkDetect) && decide (lkDetect ≤ s.lkState (linkPartner e)) && decide (s.lkState (linkPartner e) ≠ lkDown)
      && decide (s.lkMin e ≤ popcnt (linkGroups e) groups)) = true ↔
      s.lkState e = lkDetect ∧ s.lkHears e ∧ s.lkMin e ≤ popcnt (linkGroups e) groups := by
  by_cases hst : s.lkState e = lkDetect
  · simp [State.lkHears, hst, and_assoc, and_left_comm]
  · simp [hst]

theorem partnerDetected_negotiates {groups : Nat} (hst : s.lkState e = lkDetect) (hh : s.lkHears e)
    (hm : s.lkMin e ≤ popcnt (linkGroups e) groups) : partnerDetected e groups s = s.lkEnter e lkNegotiate :=
  if_pos (partnerDetected_test.2 ⟨hst, hh, hm⟩)

theorem partnerDetected_waits {groups : Nat}
    (h : s.lkState e ≠ lkDetect ∨ ¬ s.lkHears e ∨ popcnt (linkGroups e) groups < s.lkMin e) : partnerDetected e groups s = s := by
  refine if_neg (mt partnerDetected_test.1 ?_)
  rintro ⟨hst, hh, hm⟩
  exact h.elim (· hst) (Or.elim · (· hh) (Nat.not_lt.2 hm))

/-- DETECT has lasted TRAIN_TO at an end that is not the Gatehouse's. -/
def State.lkTrainLate (s : State) (e : Nat) : Prop :=
  linkGh e = false ∧ s.lkState e = lkDetect ∧ (s.link e).since + 500 * (s.link e).trainTo ≤ s.frc

theorem State.lkTrainLate_iff :
    (!linkGh e && decide (s.lkState e = lkDetect) && decide ((s.link e).since + 500 * (s.link e).trainTo ≤ s.frc)) = true ↔
      s.lkTrainLate e := by
  simp [State.lkTrainLate, and_assoc]

theorem linkTrainTimeout_late (h : s.lkTrainLate e) : linkTrainTimeout e s = s.lkDownBy e dnNoPartner :=
  if_pos (State.lkTrainLate_iff.2 h)

theorem linkTrainTimeout_early (h : ¬ s.lkTrainLate e) : linkTrainTimeout e s = s := if_neg (mt State.lkTrainLate_iff.1 h)

theorem linkNegotiate_waits (h : s.lkState e ≠ lkNegotiate ∨ ¬ s.lkHears e) : linkNegotiate e s = s := if_pos (State.lkWaits_iff.2 h)

section
variable (hst : s.lkState e = lkNegotiate) (hh : s.lkHears e)
include hst hh

theorem linkNegotiate_agrees (hb : s.lkVersions e &&& s.lkVersions (linkPartner e) ≠ 0) :
    linkNegotiate e s =
      (s.setRegF (linkStatA e) 8 4 (topVersion (s.lkVersions e &&& s.lkVersions (linkPartner e)))).lkEnter e lkGroupTrain :=
  (if_neg (State.not_lkWaits hst hh)).trans (if_neg hb)

theorem linkNegotiate_noVersion (hb : s.lkVersions e &&& s.lkVersions (linkPartner e) = 0) :
    linkNegotiate e s = s.lkDownBy e dnNoVersion :=
  (if_neg (State.not_lkWaits hst hh)).trans (if_pos hb)

end

theorem groupTrainEnd_passes {pass : Nat} (hst : s.lkState e = lkGroupTrain) :
    groupTrainEnd e pass s =
      let m := pass % 2 ^ linkGroups e
      ((s.setReg (linkPageOf e + 0x050) (w32 m)).setErrIf (decide (m ≠ 2 ^ linkGroups e - 1)) (linkPageOf e) 0).lkEnter e lkMaskExchange :=
  if_neg (not_not_intro hst)

theorem groupTrainEnd_waits {pass : Nat} (hst : s.lkState e ≠ lkGroupTrain) : groupTrainEnd e pass s = s := if_pos hst

/-- The groups that passed at both ends. -/
def State.lkCommon (s : State) (e : Nat) : Nat :=
  s.regF (linkPageOf e + 0x050) 0 16 &&& s.regF (linkPageOf (linkPartner e) + 0x050) 0 16

/-- The partner's pass mask shown at an end. -/
def State.lkRemote (s : State) (e : Nat) : State :=
  s.setReg (linkPageOf e + 0x054) (w32 (s.regF (linkPageOf (linkPartner e) + 0x050) 0 16))

theorem maskExchange_waits (h : s.lkState e ≠ lkMaskExchange ∨ ¬ s.lkHears e) : maskExchange e s = s := if_pos (State.lkWaits_iff.2 h)

section
variable (hst : s.lkState e = lkMaskExchange) (hh : s.lkHears e)
include hst hh

theorem maskExchange_tooFew (hm : popcnt 16 (s.lkCommon e) < s.lkMin e) : maskExchange e s = (s.lkRemote e).lkDownBy e dnTooFew :=
  (if_neg (State.not_lkWaits hst hh)).trans (if_pos hm)

theorem maskExchange_activates (hm : s.lkMin e ≤ popcnt 16 (s.lkCommon e)) :
    maskExchange e s =
      let a := ((s.lkRemote e).setReg (linkPageOf e + 0x058) (w32 (s.lkCommon e))).setRegF (linkStatA e) 16 5 (popcnt 16 (s.lkCommon e))
      (a.setLink e { a.link e with last := s.frc }).lkEnter e lkActive :=
  (if_neg (State.not_lkWaits hst hh)).trans (if_neg (Nat.not_lt.2 hm))

end
end

/-! ### Flits, replays and loss (R161 to R163, R214) -/

/-- A group that carries traffic: its end ACTIVE, and not masked. -/
def State.lkLive (s : State) (e g : Nat) : Prop := s.lkState e = lkActive ∧ nbit (s.lkMask e) g = true

/-- An injection armed on the CRC checker of a group. -/
abbrev State.flitArmed (s : State) (e g : Nat) : Prop :=
  fld (s.reg (linkPageOf e + 0x020)) 8 8 ≠ 0 ∧ fld (s.reg (linkPageOf e + 0x020)) 0 4 = g

/-- A flit checked by a group's checker: an injection armed there is spent on it. -/
def State.flitSpent (s : State) (e g : Nat) : State :=
  if s.flitArmed e g then s.setRegF (linkPageOf e + 0x020) 8 8 (fld (s.reg (linkPageOf e + 0x020)) 8 8 - 1) else s

/-- An end that has heard a flit at the present tick. -/
def State.flitHeard (s : State) (e g : Nat) : LinkSt := { (s.flitSpent e g).link e with last := (s.flitSpent e g).frc }

/-- A flit that checks, is the one expected, and that no injection spoils. -/
abbrev State.flitGood (s : State) (e g : Nat) (f : Flit) : Prop :=
  ¬ (s.flitArmed e g ∧ fld (s.reg (linkPageOf e + 0x020)) 4 4 = 1) ∧ f.crc = flitCrc g f ∧
    f.fseq.toNat = Tab.get 0 (s.flitHeard e g).expect g

section
variable {s : State} {e g : Nat} {f : Flit} {q : BitVec 12}

/-- The model's test of a group without traffic. -/
theorem State.not_lkLive_iff : (s.lkState e ≠ lkActive ∨ nbit (s.lkMask e) g = false) ↔ ¬ s.lkLive e g := by
  rw [State.lkLive, Classical.not_and_iff_not_or_not, Bool.not_eq_true]

theorem flitReceive_ignored (h : ¬ s.lkLive e g) : flitReceive e g f s = s := if_pos (State.not_lkLive_iff.2 h)

theorem linkReplay_ignored (h : ¬ s.lkLive e g) : linkReplay e g q s = s := if_pos (State.not_lkLive_iff.2 h)

section
variable (h : s.lkLive e g)
include h

/-- A flit on a live group is taken, or asked for again. -/
theorem flitReceive_live :
    flitReceive e g f s =
      if s.flitGood e g f then
        ((s.flitSpent e g).setLink e { s.flitHeard e g with
          expect := Tab.set 0 (s.flitHeard e g).expect g ((f.fseq.toNat + 1) % 4096) }).lkTake e g f
      else (((s.flitSpent e g).setLink e (s.flitHeard e g)).count (linkPageOf e + 0x060)).emit
        (.replay e g (BitVec.ofNat 12 (Tab.get 0 (s.flitHeard e g).expect g))) := by
  have hlive : ¬ (s.lkState e ≠ lkActive ∨ nbit (s.lkMask e) g = false) := mt State.not_lkLive_iff.1 (not_not_intro h)
  simp only [flitReceive, hlive, if_false, State.flitGood, State.flitHeard, State.flitSpent, State.flitArmed, Bool.and_eq_true,
    Bool.and_eq_false_iff, decide_eq_true_eq, decide_eq_false_iff_not, Classical.not_and_iff_not_or_not]

theorem flitReceive_taken (hg : s.flitGood e g f) :
    flitReceive e g f s = ((s.flitSpent e g).setLink e { s.flitHeard e g with
      expect := Tab.set 0 (s.flitHeard e g).expect g ((f.fseq.toNat + 1) % 4096) }).lkTake e g f :=
  (flitReceive_live h).trans (if_pos hg)

theorem flitReceive_bad (hg : ¬ s.flitGood e g f) :
    flitReceive e g f s = (((s.flitSpent e g).setLink e (s.flitHeard e g)).count (linkPageOf e + 0x060)).emit
      (.replay e g (BitVec.ofNat 12 (Tab.get 0 (s.flitHeard e g).expect g))) :=
  (flitReceive_live h).trans (if_neg hg)

end

/-- The replays asked of a group within 1 ms, the present one first. -/
def State.replayTimes (s : State) (e g : Nat) : List Tick :=
  s.frc :: (Tab.get [] (s.link e).replays g).filter (fun t0 => decide (s.frc < t0 + 500000))

/-- A replay request counted. -/
def State.replayCounted (s : State) (e g : Nat) : State :=
  (s.setLink e { s.link e with replays := Tab.set [] (s.link e).replays g (s.replayTimes e g) }).count (linkPageOf e + 0x064)

section
variable (h : s.lkLive e g)
include h

theorem linkReplay_sends (hn : (s.replayTimes e g).length ≤ fld (s.link e).cfg 8 8) :
    linkReplay e g q s = ((Tab.get [] (s.link e).kept g).dropWhile (fun k => decide (k.1 % 4096 ≠ q.toNat))).foldl
      (fun t k => t.emit (.flit e g k.2)) (s.replayCounted e g) :=
  (if_neg (mt State.not_lkLive_iff.1 (not_not_intro h))).trans (if_neg (Nat.not_lt.2 hn))

theorem linkReplay_retires (hn : fld (s.link e).cfg 8 8 < (s.replayTimes e g).length) :
    linkReplay e g q s = ((s.replayCounted e g).lkRetire e g).lkRetire (linkPartner e) g :=
  (if_neg (mt State.not_lkLive_iff.1 (not_not_intro h))).trans (if_pos hn)

end

theorem linkIdle_lost (hst : s.lkState e = lkActive) (hl : (s.link e).last + 5000 ≤ s.frc) : linkIdle e s = s.lkDownBy e dnLost :=
  if_pos (by simp [hst, hl])

theorem linkIdle_stays (h : s.lkState e ≠ lkActive ∨ s.frc < (s.link e).last + 5000) : linkIdle e s = s :=
  if_neg (by rcases h with h | h <;> simp [h])

end

/-! ### The commands -/

section
variable {e : Nat} (s : State) (he : e < 12)
include he

theorem exec_linkTrain (w : Writer) (v : W32) : exec (.linkTrain w e v) s = .next (linkTrain w e v s) := onUnit_next (decide_eq_true he)

theorem exec_linkPartnerDetected (groups : BitVec 16) :
    exec (.linkPartnerDetected e groups) s = .next (partnerDetected e groups.toNat s) := onUnit_next (decide_eq_true he)

theorem exec_linkTrainTimeout : exec (.linkTrainTimeout e) s = .next (linkTrainTimeout e s) := onUnit_next (decide_eq_true he)

theorem exec_linkNegotiate : exec (.linkNegotiate e) s = .next (linkNegotiate e s) := onUnit_next (decide_eq_true he)

theorem exec_linkGroupTrainEnd (pass : BitVec 16) :
    exec (.linkGroupTrainEnd e pass) s = .next (groupTrainEnd e pass.toNat s) := onUnit_next (decide_eq_true he)

theorem exec_linkMaskExchange : exec (.linkMaskExchange e) s = .next (maskExchange e s) := onUnit_next (decide_eq_true he)

theorem exec_linkIdleTimeout : exec (.linkIdleTimeout e) s = .next (linkIdle e s) := onUnit_next (decide_eq_true he)

theorem exec_linkReplay {g : Nat} (hg : g < linkGroups e) (q : BitVec 12) :
    exec (.linkReplay e g q) s = .next (linkReplay e g q s) := onUnit_next (by simp [he, hg])

theorem exec_flitReceive {g : Nat} {f : Flit} (hg : g < linkGroups e) (hf : f.data.length = 240) :
    exec (.flitReceive e g f) s = .next (flitReceive e g f s) := onUnit_next (by simp [he, hg, hf])

end

theorem exec_ghLinkAutoDetect {k : Nat} (s : State) (hk : k < 3) : exec (.ghLinkAutoDetect k) s = .next (ghAutoDetect k s) :=
  onUnit_next (decide_eq_true hk)

/-- Settles O21: each command goes by the end's state, and where it waits for the partner by whether that is heard; then by the groups
heard, the time in DETECT, the common versions, or the groups that passed at both ends. -/
theorem linkBringUp : Obligations.LinkBringUp := by
  unfold Obligations.LinkBringUp
  intro s w e k v groups pass he hk
  rw [exec_linkTrain s he, exec_ghLinkAutoDetect s hk, exec_linkPartnerDetected s he, exec_linkTrainTimeout s he,
    exec_linkNegotiate s he, exec_linkGroupTrainEnd s he, exec_linkMaskExchange s he]
  exact ⟨fun h => congrArg _ (linkTrain_starts h), fun h => congrArg _ (linkTrain_ignored h),
    fun hup hst => congrArg _ (ghAutoDetect_starts hup hst), fun h => congrArg _ (ghAutoDetect_idle h),
    fun hst hh hm => congrArg _ (partnerDetected_negotiates hst hh hm), fun h => congrArg _ (partnerDetected_waits h),
    ⟨fun h => congrArg _ (linkTrainTimeout_late h), fun h => congrArg _ (linkTrainTimeout_early h)⟩,
    ⟨fun hst hh hb => congrArg _ (linkNegotiate_agrees hst hh hb), fun hst hh hb => congrArg _ (linkNegotiate_noVersion hst hh hb),
      fun h => congrArg _ (linkNegotiate_waits h)⟩,
    fun hst => congrArg _ (groupTrainEnd_passes hst), fun hst => congrArg _ (groupTrainEnd_waits hst),
    ⟨fun hst hh hm => congrArg _ (maskExchange_tooFew hst hh hm), fun hst hh hm => congrArg _ (maskExchange_activates hst hh hm),
      fun h => congrArg _ (maskExchange_waits h)⟩⟩

/-- Settles O20: a flit and a replay request go by whether the group is live; a flit then by its check, its number and the injection, a
replay by its count within 1 ms, and the loss by the tick of the last flit. -/
theorem linkFlits : Obligations.LinkFlits := by
  unfold Obligations.LinkFlits
  intro s e g f q he hg
  have hflit (hf : f.data.length = 240) {x : State} (h : flitReceive e g f s = x) : exec (.flitReceive e g f) s = .next x :=
    (exec_flitReceive s he hg hf).trans (congrArg _ h)
  rw [exec_linkReplay s he hg, exec_linkIdleTimeout s he]
  exact ⟨fun h => ⟨congrArg _ (linkReplay_ignored h), fun hf => hflit hf (flitReceive_ignored h)⟩,
    fun h hf => ⟨fun hgood => hflit hf (flitReceive_taken h hgood), fun hbad => hflit hf (flitReceive_bad h hbad)⟩,
    fun h => ⟨fun hn => congrArg _ (linkReplay_sends h hn), fun hn => congrArg _ (linkReplay_retires h hn)⟩,
    fun hst hl => congrArg _ (linkIdle_lost hst hl), fun h => congrArg _ (linkIdle_stays h)⟩

end Sys2Proof.Machine
end

section
/-! The turn of the control cycle (R172, R183, R210), verdict instants (R198, R199, R354), and the ages of results and proofs (R176,
R209). -/

namespace Sys2Proof.Machine

/-! ### When a boundary runs (R172, R183, R210) -/

section
variable {s : State} {b : Tick} {n k : Nat}

theorem triggerCycle_runs (hb : s.cyc.next = some b) (ht : b ≤ s.frc) : triggerCycle s = s.boundary b := by
  simp only [triggerCycle, hb, if_pos ht]

theorem triggerCycle_waits (h : ∀ b, s.cyc.next = some b → s.frc < b) : triggerCycle s = s := by
  cases hb : s.cyc.next with
  | none => simp only [triggerCycle, hb]
  | some b => simp only [triggerCycle, hb, if_neg (Nat.not_le.2 (h b hb))]

theorem graceExpiry_runs {t0 iv : Tick} (hb : s.cyc.next = some b) (hg : Tab.get none s.bel.grace k = some (t0, iv)) (ht : b ≤ s.frc)
    (he : t0 + iv ≤ b) : graceExpiry k s = s.boundary b := by
  simp only [graceExpiry, hb, hg, if_pos (And.intro ht he)]

/-- Without a boundary, without a timer, before the boundary and before the timer's end nothing happens. -/
theorem graceExpiry_waits
    (h : ∀ b t0 iv, s.cyc.next = some b → Tab.get none s.bel.grace k = some (t0, iv) → ¬ (b ≤ s.frc ∧ t0 + iv ≤ b)) :
    graceExpiry k s = s := by
  cases hb : s.cyc.next with
  | none => simp only [graceExpiry, hb]
  | some b =>
    cases hg : Tab.get none s.bel.grace k with
    | none => simp only [graceExpiry, hb, hg]
    | some g => simp only [graceExpiry, hb, hg, if_neg (h b g.1 g.2 hb hg)]

/-- A golden frame that falls due at a boundary and may run, as R210 puts it. -/
theorem State.goldRuns_iff {v : SvcSt} :
    s.goldTime b n = true ∧ s.goldFree n v = true ↔
      (∃ d, (s.gold n).due = some d ∧ d ≤ b) ∧ s.beliefOf n ≠ stUntested ∧ s.beliefOf n ≠ stDoubted ∧ s.goldFree n v = true := by
  simp only [State.goldTime, Bool.and_eq_true, Option.any_eq_true, decide_eq_true_eq, and_assoc]

theorem goldenDue_runs {v : SvcSt} (hb : s.cyc.next = some b) (hv : s.svc n = some v) (ht : b ≤ s.frc)
    (hr : s.goldTime b n = true ∧ s.goldFree n v = true) : goldenDue n s = s.boundary b := by
  simp only [goldenDue, hb, hv, if_pos (And.intro ht hr)]

/-- Without a boundary, without a service, before the boundary and where no golden frame is due or free to run nothing happens. -/
theorem goldenDue_waits
    (h : ∀ b v, s.cyc.next = some b → s.svc n = some v → ¬ (b ≤ s.frc ∧ s.goldTime b n = true ∧ s.goldFree n v = true)) :
    goldenDue n s = s := by
  cases hb : s.cyc.next with
  | none => simp only [goldenDue, hb]
  | some b =>
    cases hv : s.svc n with
    | none => simp only [goldenDue, hb, hv]
    | some v => simp only [goldenDue, hb, hv, if_neg (h b v hb hv)]

end

/-! ### Verdict instants (R198, R199, R354) -/

/-- A verdict leaves on the segment, and the others stay kept. -/
def State.verdictSent (s : State) (c : List Byte) (rest : List (List Byte)) (at_ : Tick) : State :=
  let t : State := { s with cyc := { s.cyc with verdicts := rest } }
  t.t1sSend idBroadcast ((t.reg (t1sPage + 0x04C)).toNat + 2 ^ 32 * t.regF (t1sPage + 0x050) 0 16) 0x30 c at_

/-- A verdict's delay counted, and kept in microseconds where it is the longest. -/
def State.delayCounted (s : State) (delay : Nat) : State :=
  if delay = 0 then s
  else
    let us := satN 16 ((delay + 499) / 500)
    let t := s.count (t1sPage + 0x068)
    if t.regF (t1sPage + 0x06C) 0 16 < us then t.setReg (t1sPage + 0x06C) (w32 us) else t

/-- The domain records are to be fetched, and the request block is served. -/
def State.instantServed (s : State) : State := ({ s with bs := { s.bs with fetch := true } } : State).secInstant.gkRom

section
variable {s : State} {delay collisions : Nat}

theorem verdictInstant_none (h : s.cyc.verdicts = []) : verdictInstant delay collisions s = s := by
  simp only [verdictInstant, h]

theorem verdictInstant_sends {c : List Byte} {rest : List (List Byte)} (h : s.cyc.verdicts = c :: rest) :
    verdictInstant delay collisions s =
      (((s.verdictSent c rest (s.frc + delay)).delayCounted delay).countN (t1sPage + 0x064) collisions).instantServed := by
  simp only [verdictInstant, h]
  rfl

end

/-! ### Ages of results and proofs (R176, R209) -/

/-- The result of a service is too old at the last boundary, and no evidence of it has been given. -/
def State.resultOld (s : State) (n : Nat) : Prop :=
  ∃ v, s.svc n = some v ∧ (s.beliefOf n = stAdmitted ∨ s.beliefOf n = stBelieved) ∧ v.ageGiven = false ∧
    max (v.checked.getD 0) v.since + 500000 * v.drec.resultAge.toNat < s.cyc.last

/-- The last golden run of a service that passed is too old at the last boundary, and no evidence of it has been given. -/
def State.proofOld (s : State) (n : Nat) : Prop :=
  ∃ v p, s.svc n = some v ∧ (s.gold n).pass = some p ∧
    (s.beliefOf n = stAdmitted ∨ s.beliefOf n = stBelieved ∨ s.beliefOf n = stDoubted) ∧ v.staleGiven = false ∧
    p + 1000000 * max (s.gold n).interval (s.gold n).declared < s.cyc.last

/-- A service's state changed and a piece of evidence registered at the last boundary. -/
def State.judged (s : State) (n : Nat) (v : SvcSt) (k : EvKind) : State :=
  let t := s.setSvc n (some v)
  { t with evid := t.evid ++ [⟨s.cyc.last, k⟩] }

section
variable {s : State} {n : Nat} {v : SvcSt}

theorem resultAge_old (h : s.resultOld n) (hv : s.svc n = some v) :
    resultAge n s = s.judged n { v with ageGiven := true } (.age n) := by
  obtain ⟨v', hv', hold⟩ := h
  obtain rfl : v = v' := Option.some.inj (hv.symm.trans hv')
  simp only [resultAge, hv]
  exact if_pos hold

theorem resultAge_fresh (h : ¬ s.resultOld n) : resultAge n s = s := by
  cases hv : s.svc n with
  | none => simp only [resultAge, hv]
  | some v =>
    simp only [resultAge, hv]
    exact if_neg fun hold => h ⟨v, hv, hold⟩

theorem proofStale_old (h : s.proofOld n) (hv : s.svc n = some v) :
    proofStale n s = s.judged n { v with staleGiven := true } (.stale n) := by
  obtain ⟨v', p, hv', hp, hold⟩ := h
  obtain rfl : v = v' := Option.some.inj (hv.symm.trans hv')
  simp only [proofStale, hv, hp]
  exact if_pos hold

theorem proofStale_fresh (h : ¬ s.proofOld n) : proofStale n s = s := by
  cases hv : s.svc n with
  | none => simp only [proofStale, hv]
  | some v =>
    cases hp : (s.gold n).pass with
    | none => simp only [proofStale, hv, hp]
    | some p =>
      simp only [proofStale, hv, hp]
      exact if_neg fun hold => h ⟨v, p, hv, hp, hold⟩

end

/-! ### The commands -/

theorem exec_graceExpiry {k : Nat} (s : State) (h : k < 4) : exec (.graceExpiry k) s = .next (graceExpiry k s) :=
  onUnit_next (decide_eq_true h)

section
variable {n : Nat} (s : State) (h : n < 64)
include h

theorem exec_goldenDue : exec (.goldenDue n) s = .next (goldenDue n s) := onUnit_next (decide_eq_true h)

theorem exec_resultAgeExpiry : exec (.resultAgeExpiry n) s = .next (resultAge n s) := onUnit_next (decide_eq_true h)

theorem exec_proofStale : exec (.proofStale n) s = .next (proofStale n s) := onUnit_next (decide_eq_true h)

end

/-- Settles O22: the three commands of a boundary go by whether one is set and has come, and GRACE_EXPIRY and GOLDEN_DUE then by what ends
or falls due there; a verdict instant by the verdicts kept, and the two ages by their tests. -/
theorem boundariesAndVerdicts : Obligations.BoundariesAndVerdicts := by
  unfold Obligations.BoundariesAndVerdicts
  intro s n k delay collisions hn hk
  have hcycle : exec .triggerCycle s = .next (triggerCycle s) := rfl
  have hinstant : exec (.verdictInstant delay collisions) s = .next (verdictInstant delay collisions s) := rfl
  rw [hcycle, hinstant, exec_graceExpiry s hk, exec_goldenDue s hn, exec_resultAgeExpiry s hn, exec_proofStale s hn]
  refine ⟨fun b hb => ⟨fun ht => congrArg _ (triggerCycle_runs hb ht), fun ht => ?early, fun t0 iv hg ht => ?grace,
      fun v hv ht => ?gold⟩,
    fun hb => ?unset, fun hg => congrArg _ (graceExpiry_waits (by simp [hg])), fun hv => congrArg _ (goldenDue_waits (by simp [hv])),
    fun h => congrArg _ (verdictInstant_none h), fun c rest h => congrArg _ (verdictInstant_sends h),
    ⟨fun v h hv => congrArg _ (resultAge_old h hv), fun h => congrArg _ (resultAge_fresh h)⟩,
    ⟨fun v h hv => congrArg _ (proofStale_old h hv), fun h => congrArg _ (proofStale_fresh h)⟩⟩
  case early =>
    have hearly : ∀ b', s.cyc.next = some b' → s.frc < b' := fun b' hb' => Option.some.inj (hb.symm.trans hb') ▸ ht
    exact ⟨congrArg _ (triggerCycle_waits hearly),
      congrArg _ (graceExpiry_waits fun b' _ _ hb' _ h => Nat.not_le.2 (hearly b' hb') h.1),
      congrArg _ (goldenDue_waits fun b' _ hb' _ h => Nat.not_le.2 (hearly b' hb') h.1)⟩
  case grace =>
    refine ⟨fun he => congrArg _ (graceExpiry_runs hb hg ht he), fun he => congrArg _ (graceExpiry_waits ?_)⟩
    simp only [hb, hg, Option.some.injEq, Prod.mk.injEq]
    rintro _ _ _ rfl ⟨rfl, rfl⟩ ⟨-, hended⟩
    exact Nat.not_le.2 he hended
  case gold =>
    refine ⟨fun h => congrArg _ (goldenDue_runs hb hv ht (State.goldRuns_iff.2 h)), fun h => congrArg _ (goldenDue_waits ?_)⟩
    simp only [hb, hv, Option.some.injEq]
    rintro _ _ rfl rfl ⟨-, hruns⟩
    exact h (State.goldRuns_iff.1 hruns)
  case unset =>
    exact ⟨congrArg _ (triggerCycle_waits (by simp [hb])), congrArg _ (graceExpiry_waits (by simp [hb])),
      congrArg _ (goldenDue_waits (by simp [hb]))⟩

end Sys2Proof.Machine
end

section
/-! How an error reaches the fault collector (R171, R222, R224, R228, R229, R235, R296), and the pair's acknowledgements and forces (R231,
R236, R254, R258). -/

namespace Sys2Proof.Machine

/-! ### Sources that rise (R222, R224, R235) -/

/-- The error bit of a source set by its cause, unless the source has risen already: an injection armed on the page is spent on it. -/
def State.errRaised (s : State) (page b : Nat) (inj : Bool) : State :=
  if s.risen.contains (page, b) = true then s
  else if (inj && s.injArmed page) = true then (s.injTake page (s.regF (page + injOff) 0 4)).2.setErrBy 1 page b
  else s.setErr page b

/-- A source that stood as risen is spent. -/
def State.riseSpent (s : State) (page b : Nat) : State := { s with risen := s.risen.erase (page, b) }

section
variable {s : State} {page b : Nat} {inj : Bool} (hn : (page, b) ≠ lockstepSrc)
include hn

/-- A masked source does not rise. -/
theorem sourceRise_masked (hr : (s.errRaised page b inj).risen.contains (page, b) = false) :
    sourceRise page b inj s = s.errRaised page b inj :=
  (if_neg hn).trans (if_pos (by rw [Bool.not_eq_true']; exact hr))

/-- A risen source goes to the collector: by its latch in the Gatehouse, by a report from a die. -/
theorem sourceRise_risen (hr : (s.errRaised page b inj).risen.contains (page, b) = true) {x : State}
    (hx : (s.errRaised page b inj).riseSpent page b = x) :
    sourceRise page b inj s =
      if pageDie page = 3 then x.fcLatchSrc page b (x.injSrc.contains (page, b))
      else x.sendMsg (idConc (pageDie page)) idGatehouse 0x03 (errReport x.frc page b) := by
  subst hx
  exact (if_neg hn).trans (if_neg (by rw [Bool.not_eq_true', Bool.not_eq_false]; exact hr))

end

/-! ### Reports and vectors at the Gatehouse (R224, R296) -/

/-- The page of the source that a report names. -/
def reportPage (bs : List Byte) : Nat :=
  pageOf (BitVec.ofNat 16 (ofBytesLE (bs.take 4))) (nfld (ofBytesLE (bs.take 4)) 16 12)

/-- The error bit that a report names. -/
def reportBit (bs : List Byte) : Nat := nfld (ofBytesLE ((bs.drop 4).take 4)) 0 5

/-- What is known of a die replaced by what a vector shows, and its sources that were never reported counted and latched. -/
def State.vectorTaken (t : State) (link : Nat) (bs : List Byte) : State :=
  let now := (vectorSources bs (bs.length / 8)).filter (fun e => decide (pageDie e.1 = link))
  let lost := now.filter (fun e => !t.fcKnown.contains e)
  let x := t.withFalls { t with fcKnown := t.fcKnown.filter (fun e => decide (pageDie e.1 ≠ link) || now.contains e) }
  lost.foldl (fun y e => (y.count (fcPage + 0x078)).fcLatchSrc e.1 e.2 (y.injSrc.contains e)) (x.known lost)

section
variable {s t : State} {link : Nat} {dom : Domain} {m : PMsg} {bs : List Byte}

theorem errReportRx_foreign (h : dom ≠ 0xF01#12) : errReportRx link dom m s = s := if_pos h

theorem srcVectorRx_foreign (h : dom ≠ 0xF01#12) : srcVectorRx link dom m s = s := if_pos h

theorem errReportRx_dropped (hr : s.recv link (decide (m.type = 0x03)) m = (none, t)) : errReportRx link 0xF01#12 m s = t := by
  simp only [errReportRx, hr, ne_eq, not_true_eq_false, if_false]

/-- An accepted report latches the source that it names, where its die has one. -/
theorem errReportRx_accepted (hr : s.recv link (decide (m.type = 0x03)) m = (some bs, t)) :
    errReportRx link 0xF01#12 m s =
      if bs.length = 8 ∧ srcOk (reportPage bs) (reportBit bs) = true ∧ pageDie (reportPage bs) = link then
        (t.known [(reportPage bs, reportBit bs)]).fcLatchSrc (reportPage bs) (reportBit bs)
          (t.injSrc.contains (reportPage bs, reportBit bs))
      else t := by
  simp only [errReportRx, hr, ne_eq, not_true_eq_false, if_false]
  rfl

theorem srcVectorRx_dropped (hr : s.recv link (decide (m.type = 0x04)) m = (none, t)) : srcVectorRx link 0xF01#12 m s = t := by
  simp only [srcVectorRx, hr, ne_eq, not_true_eq_false, if_false]

theorem srcVectorRx_accepted (hr : s.recv link (decide (m.type = 0x04)) m = (some bs, t)) :
    srcVectorRx link 0xF01#12 m s = t.vectorTaken link bs := by
  simp only [srcVectorRx, hr, ne_eq, not_true_eq_false, if_false]
  rfl

end

/-! ### Vectors and silence of a concentrator (R224) -/

/-- A vector of every block of a die that has an unmasked error, sent at the present tick. -/
def State.vectorSent (s : State) (die : Nat) : State :=
  let high := fun (e : Nat × W32) => e.2 &&& ~~~ s.reg (e.1 - errOff + errMaskOff)
  let blocks := s.regs.filter (fun e => decide (e.1 % 0x1000 = errOff)
    && (match pageKind e.1 with | some k => k.hasHead | none => false) && decide (pageDie e.1 = die) && decide (high e ≠ 0))
  let payload := blocks.flatMap (fun e => bytesLE 4 ((srcUnit e.1).toNat + pageNo (e.1 - errOff) * 65536) ++ bytesLE 4 (high e).toNat)
  { s.sendXfer (idConc die) idGatehouse 0x04 (payload.length / 240 + 1) payload with vecAt := Tab.set 0 s.vecAt die s.frc }

/-- A die held to be silent: its silence source goes high, and its link's condition is latched as the die end's report. -/
def State.dieSilent (s : State) (r : Nat) : State :=
  let g := if r < 2 then 37 + r else 39
  ({ s with silent := Tab.set false s.silent r true }.extHigh (16 * g) true).fcLatchSrc
    (if r < 2 then uPage (dieUid r) 6 else ioPage 5) 2 false

section
variable {s : State} {r : Nat}

theorem srcVectorSend_early (h : s.frc < Tab.get 0 s.vecAt r + 25000) : srcVectorSend r s = s := if_pos h

theorem srcVectorSend_due (h : Tab.get 0 s.vecAt r + 25000 ≤ s.frc) : srcVectorSend r s = s.vectorSent r := if_neg (Nat.not_lt.2 h)

theorem concSilence_unheard (h : s.lastHeard r = none) : concSilence r s = s := by
  simp only [concSilence, h]

section
variable {t0 : Tick} (hl : s.lastHeard r = some t0)
include hl

theorem concSilence_found (hs : Tab.get false s.silent r = false) (ht : t0 + 100000 ≤ s.frc) : concSilence r s = s.dieSilent r := by
  simp only [concSilence, hl]
  exact if_neg (by simp [hs, ht])

theorem concSilence_known (h : Tab.get false s.silent r = true ∨ s.frc < t0 + 100000) : concSilence r s = s := by
  simp only [concSilence, hl]
  exact if_pos (by simpa using h)

end
end

/-! ### Acknowledgements and forces (R231, R236, R254, R258) -/

section
variable {s t : State} {w : Writer} {v : W32} {m : PMsg} {bs : List Byte}

theorem State.fcForce_unset (h : bit v 31 = false) : s.fcForce v = s := if_pos (by simp [h])

/-- A force acts under service access alone, and is an error otherwise. -/
theorem State.fcForce_set (h : bit v 31 = true) :
    s.fcForce v = if s.svcAccess = true then s.fcEvent (fld v 0 6) none false true none else s.setErr fcPage 0 := if_neg (by simp [h])

theorem fcAckWrite_pair : fcAckWrite .pair v s = s.fcAck (fld v 0 16) := if_pos rfl

theorem fcForceWrite_pair : fcForceWrite .pair v s = s.fcForce v := if_pos rfl

theorem fcAckWrite_refused (h : w ≠ .pair) : fcAckWrite w v s = s := if_neg h

theorem fcForceWrite_refused (h : w ≠ .pair) : fcForceWrite w v s = s := if_neg h

theorem faultAck_dropped (hr : s.recv 2 (decide (m.type = 0x24)) m = (none, t)) : faultAck m s = t := by
  simp only [faultAck, hr]

/-- An accepted FAULT_ACK that names SAFETY_IO also clears the locks and the RESUME fault. -/
theorem faultAck_accepted (hr : s.recv 2 (decide (m.type = 0x24)) m = (some bs, t)) {n : Nat}
    (hn : nfld (ofBytesLE (bs.take 2)) 0 16 = n) :
    faultAck m s = if nbit n 4 = true then ((t.fcAck n).lockClr 15).resumeClr else t.fcAck n := by
  simp only [faultAck, hr, hn]

theorem faultForce_dropped (hr : s.recv 2 (decide (m.type = 0x25)) m = (none, t)) : faultForce m s = t := by
  simp only [faultForce, hr]

theorem faultForce_accepted (hr : s.recv 2 (decide (m.type = 0x25)) m = (some bs, t)) :
    faultForce m s = t.fcForce (w32 (nfld (ofBytesLE (bs.take 4)) 0 6 + 2 ^ 31)) := by
  simp only [faultForce, hr]

end

/-! ### The commands -/

theorem exec_sourceRise {page b : Nat} (inj : Bool) (s : State) (h : srcOk page b = true) :
    exec (.sourceRise page b inj) s = .next (sourceRise page b inj s) := onUnit_next (by simp [h])

section
variable {link : Nat} (s : State) (h : link < 3)
include h

theorem exec_errReport (dom : Domain) (m : PMsg) : exec (.errReport link dom m) s = .next (errReportRx link dom m s) :=
  onUnit_next (decide_eq_true h)

theorem exec_srcVector (dom : Domain) (m : PMsg) : exec (.srcVector link dom m) s = .next (srcVectorRx link dom m s) :=
  onUnit_next (decide_eq_true h)

theorem exec_srcVectorPeriod : exec (.srcVectorPeriod link) s = .next (srcVectorSend link s) := onUnit_next (decide_eq_true h)

theorem exec_concentratorSilence : exec (.concentratorSilence link) s = .next (concSilence link s) := onUnit_next (decide_eq_true h)

end

/-- Settles O26: a rise by whether the source stands as risen and whose it is, a report and a vector by their domain and by what the
receiver accepts, a concentrator's two commands by the time, and acknowledgements and forces by their writer and service access. -/
theorem errorReports : Obligations.ErrorReports := by
  unfold Obligations.ErrorReports
  intro s t u w page b link r inj dom m bs v hlink hdie
  have hack (w : Writer) : exec (.fcAck w v) s = .next (fcAckWrite w v s) := rfl
  have hforce (w : Writer) : exec (.fcForce w v) s = .next (fcForceWrite w v s) := rfl
  have hfaultAck : exec (.faultAck m) s = .next (faultAck m s) := rfl
  have hfaultForce : exec (.faultForce m) s = .next (faultForce m s) := rfl
  simp only [exec_errReport s hlink, exec_srcVector s hlink, exec_srcVectorPeriod s hdie, exec_concentratorSilence s hdie, hack, hforce,
    hfaultAck, hfaultForce, fcAckWrite_pair, fcForceWrite_pair, Host.Outcome.next.injEq]
  refine ⟨exec_lockstepRise inj s, fun hok hn hu => ?rise, fun hd => ⟨errReportRx_foreign hd, srcVectorRx_foreign hd⟩,
    errReportRx_dropped, fun hr hp hb => ?report, srcVectorRx_dropped, srcVectorRx_accepted, srcVectorSend_early, srcVectorSend_due,
    concSilence_unheard, fun t0 hl => ⟨concSilence_found hl, concSilence_known hl⟩, rfl,
    fun hv ha => (State.fcForce_set hv).trans (if_pos ha), fun hv ha => (State.fcForce_set hv).trans (if_neg (ne_true_of_eq_false ha)),
    State.fcForce_unset, fun hw => ⟨fcAckWrite_refused hw, fcForceWrite_refused hw⟩, faultAck_dropped, fun hr => ?ack,
    faultForce_dropped, faultForce_accepted⟩
  case rise =>
    rw [exec_sourceRise inj s hok]
    subst hu
    refine ⟨fun hm => congrArg _ (sourceRise_masked hn hm), fun hrisen => ?_⟩
    have hrise := sourceRise_risen hn hrisen rfl
    exact ⟨fun hd => congrArg _ (hrise.trans (if_pos hd)), fun hd => congrArg _ (hrise.trans (if_neg hd))⟩
  case report =>
    have hrx := errReportRx_accepted hr
    rw [show reportPage bs = page from hp, show reportBit bs = b from hb] at hrx
    exact ⟨fun h8 hok hd => hrx.trans (if_pos ⟨h8, hok, hd⟩), fun h => hrx.trans (if_neg h)⟩
  case ack =>
    have hrx := faultAck_accepted hr rfl
    exact ⟨fun h => hrx.trans (if_neg (ne_true_of_eq_false h)), fun h => hrx.trans (if_pos h)⟩

end Sys2Proof.Machine
end

section
/-! Check value units (R214, R285 to R289, KL-12): who may write, what waits for the end of a test slice, what each write does at once, and
the comparison that a read of CVU_STAT makes. -/

namespace Sys2Proof.Machine

/-! ### A write that reaches a unit (R286, R289) -/

/-- A write kept until the unit's test slice ends. -/
def State.cvuStall (s : State) (u off : Nat) (v : W32) : State := { s with cvuStalled := s.cvuStalled ++ [⟨u, off, v⟩] }

/-- A unit's last write is at the present tick. -/
def State.cvuTouched (s : State) (u : Nat) : State := { s with cvuLast := Tab.set none s.cvuLast u (some s.frc) }

section
variable {s : State} {w : Writer} {u : Nat}

theorem State.cvuPut_refused (hw : s.cvuMay w u = false) (off : Nat) (v : W32) : s.cvuPut w u off v = s := if_pos (by simp [hw])

section
variable (hw : s.cvuMay w u = true)
include hw

theorem State.cvuPut_stalled (ht : s.cvuTest u = true) (off : Nat) (v : W32) : s.cvuPut w u off v = s.cvuStall u off v :=
  (if_neg (by simp [hw])).trans (if_pos ht)

theorem State.cvuPut_acts (ht : s.cvuTest u = false) (off : Nat) (v : W32) : s.cvuPut w u off v = s.cvuAct u off v :=
  (if_neg (by simp [hw])).trans (if_neg (ne_true_of_eq_false ht))

end
end

/-! ### What a write does (R285, R287, R288) -/

section
variable (s : State) (u : Nat) (v : W32)

theorem State.cvuAct_start : s.cvuAct u 0x04C v = (s.cvuTouched u).cvuStartAct u v := rfl

theorem State.cvuAct_data8 : s.cvuAct u 0x050 v = (s.cvuTouched u).cvuFeed u (bytesLE 1 v.toNat) := rfl

theorem State.cvuAct_data16 : s.cvuAct u 0x054 v = (s.cvuTouched u).cvuFeed u (bytesLE 2 v.toNat) := rfl

theorem State.cvuAct_data32 : s.cvuAct u 0x058 v = (s.cvuTouched u).cvuFeed u (bytesLE 4 v.toNat) := rfl

/-- CVU_RUN_LO and CVU_RUN_HI replace the half that the write names. -/
theorem State.cvuAct_run (hi : Bool) : s.cvuAct u (if hi = true then 0x060 else 0x05C) v = (s.cvuTouched u).cvuRunAct u hi v := by
  cases hi <;> rfl

end

/-- The bytes of the fold word, least significant first. -/
def State.cvuFold (s : State) (u : Nat) : List Byte :=
  bytesLE 4 (s.reg (cvuPage u + 0x044)).toNat ++ bytesLE 4 (s.reg (cvuPage u + 0x048)).toNat

section
variable {s : State} {u : Nat} {v : W32}

theorem State.cvuStartAct_unset (hv : bit v 0 = false) : s.cvuStartAct u v = s := if_neg (ne_true_of_eq_false hv)

section
variable (hv : bit v 0 = true) {sel : Nat} (hsel : fld (s.reg (cvuCfg u)) 0 3 = sel) {y : State} (hy : s.setRegF (cvuStatA u) 2 3 sel = y)
include hv hsel hy

/-- A start puts the CRC selected in force and loads its initial value. -/
theorem State.cvuStartAct_init (hf : bit (s.reg (cvuCfg u)) 8 = false) :
    s.cvuStartAct u v = (y.setCvuRun u (cvuInit sel)).setReg (cvuBytesA u) 0 := by
  subst hsel hy
  simp only [State.cvuStartAct, hv, hf, if_true, Bool.false_eq_true, if_false]

/-- With FOLD_EN set the fold word is processed as well. -/
theorem State.cvuStartAct_fold (hf : bit (s.reg (cvuCfg u)) 8 = true) :
    s.cvuStartAct u v = (y.setCvuRun u ((y.cvuFold u).foldl (cvuByte sel) (cvuInit sel))).setReg (cvuBytesA u) 0 := by
  subst hsel hy
  simp only [State.cvuStartAct, State.cvuFold, hv, hf, if_true]

end
end

/-! ### CVU_STAT read (R214, R289, KL-12) -/

/-- The comparison is with the expected value as the injection taken leaves it. -/
theorem cvuStatRead_taken {s t : State} {u n : Nat} (h : s.injTake (cvuPage u) 0 = (n, t)) :
    cvuStatRead u s =
      let e := if n ≠ 0 then s.cvuExpect u ^^^ (2 ^ cvuWidth (s.cvuSel u) - 1) else s.cvuExpect u
      let y := t.setRegF (cvuStatA u) 1 1 (b2n (decide (s.cvuResult u = e)))
      { y with cvuOld := Tab.set none y.cvuOld u none } := by
  simp only [cvuStatRead, h]

/-! ### The commands -/

section
variable {u : Nat} (s : State) (h : u < 8)
include h

theorem exec_cvuStart (w : Writer) (v : W32) : exec (.cvuStart w u v) s = .next (s.cvuPut w u 0x04C v) := onUnit_next (decide_eq_true h)

theorem exec_cvuData8 (w : Writer) (v : W32) : exec (.cvuData8 w u v) s = .next (s.cvuPut w u 0x050 v) := onUnit_next (decide_eq_true h)

theorem exec_cvuData16 (w : Writer) (v : W32) : exec (.cvuData16 w u v) s = .next (s.cvuPut w u 0x054 v) := onUnit_next (decide_eq_true h)

theorem exec_cvuData32 (w : Writer) (v : W32) : exec (.cvuData32 w u v) s = .next (s.cvuPut w u 0x058 v) := onUnit_next (decide_eq_true h)

theorem exec_cvuRunWrite (w : Writer) (hi : Bool) (v : W32) :
    exec (.cvuRunWrite w u hi v) s = .next (s.cvuPut w u (if hi = true then 0x060 else 0x05C) v) := onUnit_next (decide_eq_true h)

theorem exec_cvuStatRead : exec (.cvuStatRead u) s = .next (cvuStatRead u s) := onUnit_next (decide_eq_true h)

end

/-- Settles O35: the five writes go alike by their writer and by the test slice, and then each by what it does at once; a start also by its
bit and by FOLD_EN. -/
theorem checkValueUnits : Obligations.CheckValueUnits := by
  unfold Obligations.CheckValueUnits
  intro s t w u n v hi hu
  rw [exec_cvuStart s hu, exec_cvuData8 s hu, exec_cvuData16 s hu, exec_cvuData32 s hu, exec_cvuRunWrite s hu, exec_cvuStatRead s hu]
  refine ⟨fun hw => ?refused, fun hw ht => ?stalled, fun hw ht => ?acts, fun h => congrArg _ (cvuStatRead_taken h)⟩
  case refused =>
    have hput := State.cvuPut_refused hw
    exact ⟨congrArg _ (hput _ v), congrArg _ (hput _ v), congrArg _ (hput _ v), congrArg _ (hput _ v), congrArg _ (hput _ v)⟩
  case stalled =>
    have hput := State.cvuPut_stalled hw ht
    exact ⟨congrArg _ (hput _ v), congrArg _ (hput _ v), congrArg _ (hput _ v), congrArg _ (hput _ v), congrArg _ (hput _ v)⟩
  case acts =>
    rw [State.cvuPut_acts hw ht, State.cvuPut_acts hw ht, State.cvuPut_acts hw ht, State.cvuPut_acts hw ht, State.cvuPut_acts hw ht,
      State.cvuAct_start, State.cvuAct_data8, State.cvuAct_data16, State.cvuAct_data32, State.cvuAct_run]
    exact ⟨fun hv => congrArg _ (State.cvuStartAct_unset hv),
      fun hv => ⟨fun hf => congrArg _ (State.cvuStartAct_init hv rfl rfl hf), fun hf => congrArg _ (State.cvuStartAct_fold hv rfl rfl hf)⟩,
      rfl, rfl, rfl, rfl⟩

end Sys2Proof.Machine
end

section
/-! Self-tests of the checkers (R214 to R220): the slices of a test lane, eligible and overdue checkers, and the record of a failure. -/

namespace Sys2Proof.Machine

/-! ### The start of a slice (R215 to R217) -/

/-- Whether a lane waits for a safety event. -/
def State.laneWaits (s : State) (l : Nat) : Bool :=
  match Tab.get none s.fol.blocked l with
  | some t => decide (s.frc < t)
  | none => false

/-- A lane with no slice on it that waits for no safety event. -/
def State.laneFree (s : State) (l : Nat) : Prop :=
  Tab.get none s.fol.lanes l = none ∧ ∀ x, Tab.get none s.fol.blocked l = some x → x ≤ s.frc

/-- The checkers of a lane that are wanted and open. -/
def State.laneWanted (s : State) (l : Nat) : List Nat :=
  (List.range chkCount).filter (fun n => decide (chkLane n = l) && s.chkWanted n && s.chkExists n && s.chkReady n && s.chkOpen n)

/-- The checker of a list with the lowest key, the first of them where keys are equal. -/
def State.chkLowest (s : State) (n0 : Nat) (ns : List Nat) : Nat := ns.foldl (fun a b => if s.chkKey b < s.chkKey a then b else a) n0

/-- A slice of checker k begun on a lane. -/
def State.sliceBegun (s : State) (l k : Nat) : State :=
  let t := (s.setChk k { s.chk k with left := if (s.chk k).left = 0 then chkSlices k else (s.chk k).left }).armTest k
  t.setFol { t.fol with lanes := Tab.set none t.fol.lanes l (some (k, t.frc)), blocked := Tab.set none t.fol.blocked l none }

/-- A lane blocked until the next safety event. -/
def State.laneBlocked (s : State) (l : Nat) : State :=
  (s.setFol { s.fol with blocked := Tab.set none s.fol.blocked l s.nextSafety }).count (folPage + 0x06C)

section
variable {s : State} {l : Nat}

theorem State.laneWaits_eq_true : s.laneWaits l = true ↔ ∃ t, Tab.get none s.fol.blocked l = some t ∧ s.frc < t := by
  cases h : Tab.get none s.fol.blocked l <;> simp [State.laneWaits, h]

theorem State.laneFree_iff : s.laneFree l ↔ ¬ ((Tab.get none s.fol.lanes l).isSome = true ∨ s.laneWaits l = true) := by
  simp [State.laneFree, State.laneWaits_eq_true]

theorem sliceStart_busy (h : ¬ s.laneFree l) : sliceStart l s = s := by
  unfold sliceStart
  exact if_pos (Classical.not_not.1 (mt State.laneFree_iff.2 h))

section
variable (hfree : s.laneFree l)
include hfree

theorem sliceStart_begins {n0 : Nat} {ns : List Nat} (hfit : (s.laneWanted l).filter s.fits = n0 :: ns) :
    sliceStart l s = s.sliceBegun l (s.chkLowest n0 ns) := by
  unfold sliceStart
  refine (if_neg (State.laneFree_iff.1 hfree)).trans ?_
  rw [State.laneWanted] at hfit
  simp only [hfit]
  rfl

theorem sliceStart_blocks (hfit : (s.laneWanted l).filter s.fits = []) (hw : s.laneWanted l ≠ []) :
    sliceStart l s = s.laneBlocked l := by
  unfold sliceStart
  refine (if_neg (State.laneFree_iff.1 hfree)).trans ?_
  rw [State.laneWanted] at hfit hw
  simp only [hfit]
  exact if_neg (mt List.isEmpty_iff.1 hw)

theorem sliceStart_unwanted (hw : s.laneWanted l = []) : sliceStart l s = s := by
  unfold sliceStart
  refine (if_neg (State.laneFree_iff.1 hfree)).trans ?_
  rw [State.laneWanted] at hw
  simp only [hw, List.filter_nil, List.isEmpty_nil, if_true]

end
end

/-! ### The end of a slice (R214, R218) -/

/-- A lane without its slice, checker k's last injection made. -/
def State.sliceOver (s : State) (l k : Nat) : State := (s.setFol { s.fol with lanes := Tab.set none s.fol.lanes l none }).disarmTest k

section
variable {s : State} {l : Nat} {defect : Option (Nat × TestReport)} {noReport : Bool}

theorem sliceEnd_idle (h : Tab.get none s.fol.lanes l = none) : sliceEnd l defect noReport s = s := by
  simp only [sliceEnd, h]

/-- A lane's slice goes on while its reports may still come, fails without them, and is judged by them otherwise. -/
theorem sliceEnd_running {k : Nat} {t0 : Tick} (h : Tab.get none s.fol.lanes l = some (k, t0)) :
    sliceEnd l defect noReport s =
      if (noReport = true ∨ s.testWaits k = true) ∧ s.frc < t0 + 750 + chkWorst k then s
      else if (noReport = true ∨ s.testWaits k = true) ∨ t0 + 750 + chkWorst k < s.frc then
        (s.sliceOver l k).chkFail k (testNumber k defect) true
      else if testFirst k defect = 0 then s.withFalls ((s.sliceOver l k).chkPass k)
      else (s.sliceOver l k).chkFail k (testFirst k defect) false := by
  simp only [sliceEnd, h, Bool.or_eq_true, State.sliceOver]

end

/-! ### Eligible and overdue checkers (R216, R219), and the record of a failure (R220) -/

/-- A checker marked overdue and counted, and the Folly's error bit set. -/
def State.overdueMarked (s : State) (n : Nat) : State :=
  let t := (s.setChk n { s.chk n with overdue := true }).count (folPage + 0x074)
  t.setReg (folPage + errOff) (setBit (t.reg (folPage + errOff)) 1 true)

section
variable {s : State} {n : Nat}

section
variable (h : (s.chk n).pass = none)
include h

theorem chkEligible_unpassed : chkEligible n s = s := by simp only [chkEligible, h]

theorem chkOverdue_unpassed : chkOverdue n s = s := by simp only [chkOverdue, h]

end

section
variable {p : Tick} (hp : (s.chk n).pass = some p)
include hp

theorem chkEligible_passed :
    chkEligible n s = if p + s.stInterval / 2 ≤ s.frc then s.setChk n { s.chk n with eligible := true } else s := by
  simp only [chkEligible, hp]

theorem chkOverdue_skips (h : s.frc < p + s.stInterval ∨ (s.chk n).overdue = true ∨ s.chkExists n = false) : chkOverdue n s = s := by
  simp only [chkOverdue, hp]
  exact if_pos h

/-- The source that an unmasked overdue checker raises is named only by the first. -/
theorem chkOverdue_marks (ht : p + s.stInterval ≤ s.frc) (ho : (s.chk n).overdue = false) (hx : s.chkExists n = true) :
    chkOverdue n s =
      if bit ((s.overdueMarked n).reg (folPage + errMaskOff)) 1 = true then s.overdueMarked n
      else (s.overdueMarked n).fcEvent (srcGroup folPage 1)
        (if bit (s.reg (folPage + errOff)) 1 = true then none else some (folPage, 1)) false false (some (chkLoc n)) := by
  simp only [chkOverdue, State.overdueMarked, hp]
  refine (if_neg (by simp [ht, ho, hx])).trans ?_
  cases bit (s.reg (folPage + errOff)) 1 <;> rfl

end
end

/-! ### The commands -/

section
variable {l : Nat} (s : State) (h : l < 12)
include h

theorem exec_testSliceStart : exec (.testSliceStart l) s = .next (sliceStart l s) := onUnit_next (decide_eq_true h)

theorem exec_testSliceEnd (defect : Option (Nat × TestReport)) (noReport : Bool) :
    exec (.testSliceEnd l defect noReport) s = .next (sliceEnd l defect noReport s) := onUnit_next (decide_eq_true h)

end

section
variable {n : Nat} (s : State) (h : n < chkCount)
include h

theorem exec_checkerEligible : exec (.checkerEligible n) s = .next (chkEligible n s) := onUnit_next (decide_eq_true h)

theorem exec_checkerOverdue : exec (.checkerOverdue n) s = .next (chkOverdue n s) := onUnit_next (decide_eq_true h)

end

/-- Settles O25: a slice starts by whether its lane is free and what is wanted and fits there, and ends by its reports and the time; a
checker is eligible or overdue by its last pass. -/
theorem selfTestsAndCheckers : Obligations.SelfTestsAndCheckers := by
  unfold Obligations.SelfTestsAndCheckers
  intro s w l n defect noReport v hl hn
  have hclr : exec (.folStFailClr w v) s = .next (folFailClr w v s) := rfl
  rw [exec_testSliceStart s hl, exec_testSliceEnd s hl, exec_checkerEligible s hn, exec_checkerOverdue s hn, hclr]
  refine ⟨fun hfree => ⟨fun n0 ns hfit => congrArg _ (sliceStart_begins hfree hfit),
      fun hfit hw => congrArg _ (sliceStart_blocks hfree hfit hw), fun hw => congrArg _ (sliceStart_unwanted hfree hw)⟩,
    fun hbusy => congrArg _ (sliceStart_busy hbusy), fun k t0 hk => ?running, fun hk => congrArg _ (sliceEnd_idle hk), fun p hp => ?passed,
    fun hp => ⟨congrArg _ (chkEligible_unpassed hp), congrArg _ (chkOverdue_unpassed hp)⟩,
    fun hw hv => congrArg _ (if_pos ⟨hw, hv⟩), fun h => congrArg _ (if_neg ?refused)⟩
  case running =>
    rw [sliceEnd_running hk]
    refine ⟨fun hs ht => congrArg _ (if_pos ⟨hs, ht⟩), fun hs ht => congrArg _ ?silent, fun ht => congrArg _ ?late,
      fun hs ht => ?judged⟩
    case silent => exact (if_neg fun h => Nat.not_le.2 h.2 ht).trans (if_pos (.inl hs))
    case late => exact (if_neg fun h => Nat.lt_asymm h.2 ht).trans (if_pos (.inr ht))
    case judged =>
      rw [if_neg fun h => hs h.1, if_neg fun h => h.elim hs (Nat.not_lt.2 ht)]
      exact ⟨fun h0 => congrArg _ (if_pos h0), fun h0 => congrArg _ (if_neg h0)⟩
  case passed =>
    refine ⟨fun ht => congrArg _ ((chkEligible_passed hp).trans (if_pos ht)),
      fun ht => congrArg _ ((chkEligible_passed hp).trans (if_neg (Nat.not_le.2 ht))),
      fun h => congrArg _ (chkOverdue_skips hp h), fun ht ho hx => ?_⟩
    have hmarks := chkOverdue_marks hp ht ho hx
    exact ⟨fun hm => congrArg _ (hmarks.trans (if_neg (ne_true_of_eq_false hm))), fun hm => congrArg _ (hmarks.trans (if_pos hm))⟩
  case refused =>
    rintro ⟨hw, hv⟩
    simp [hw, hv] at h

end Sys2Proof.Machine
end

section
/-! Cameras and streams (R203 to R207, R336, R343 to R345, R362): frames from their start to their end, long packets, restarts and synthetic
lines. -/

namespace Sys2Proof.Machine

/-! ### A frame starts, a port restarts (R336, R345) -/

section
variable {s : State} {n k : Nat} {w : Writer} {v : W32}

theorem csiFrameStart_runs (he : (s.rxs n).en = true) (hp : bit (Tab.get 0 s.rx.csi (s.rxs n).port) 0 = true) :
    csiFrameStart n s = (s.setRegF (csiPage (s.rxs n).port + 0x048) 0 2 3).frameStart n := by
  simp only [csiFrameStart, he, hp, Bool.not_true, Bool.or_self, Bool.false_eq_true, if_false]

theorem csiFrameStart_unseen (h : ¬ ((s.rxs n).en = true ∧ bit (Tab.get 0 s.rx.csi (s.rxs n).port) 0 = true)) :
    csiFrameStart n s = s := by
  refine if_pos ?_
  rw [Bool.or_eq_true, Bool.not_eq_true', Bool.not_eq_true', ← Bool.not_eq_true, ← Bool.not_eq_true]
  exact Classical.not_and_iff_not_or_not.1 h

/-- The port's configuration in force is that of its registers, and its sources start. -/
theorem csiRestart_starts (hw : s.writerDom w = domGk) (hv : bit v 0 = true) :
    csiRestart w k v s =
      ((s.setRx { s.rx with csi := Tab.set 0 s.rx.csi k (s.reg (csiPage k + 0x040)) }).setReg (csiPage k + 0x048) 0).portStart false k :=
  if_neg (by simp [hw, hv])

theorem csiRestart_ignored (h : s.writerDom w ≠ domGk ∨ bit v 0 = false) : csiRestart w k v s = s := if_pos h

end

/-! ### Long packets (R203, R205, R343, R344) -/

/-- The sources of a virtual channel of a port. -/
def State.vcSrcs (s : State) (k vc : Nat) : List Nat := (s.portSrcs false k).filter (fun n => decide (fld ((s.rxs n).w 0) 4 4 = vc))

/-- The bytes of a port's lane buffer in use when a packet of n bytes has come behind a synthetic line. -/
def State.laneLen (s : State) (k n : Nat) : Nat := Tab.get 0 s.rx.lane k + n + 6

/-- A packet of n bytes queued behind a synthetic line, where one is in the port's path. -/
def State.laneQueued (s : State) (k n : Nat) : State :=
  if s.synInPath false k = true then s.setRx { s.rx with lane := Tab.set 0 s.rx.lane k (s.laneLen k n) } else s

/-- A packet past the lane buffer counted, and the line of every source of a list spoiled. -/
def State.laneOverrun (s : State) (k : Nat) (srcs : List Nat) : State :=
  srcs.foldl State.badLine ((s.setErr (csiPage k) 2).count (csiPage k + 0x058))

/-- A header that does not check counted, and the line of every frame in progress spoiled. -/
def State.headerLost (s : State) (k : Nat) : State :=
  ((s.portSrcs false k).filter (fun n => (s.rxs n).inFrame)).foldl State.badLine ((s.setErr (csiPage k) 0).count (csiPage k + 0x050))

/-- The errors of a packet whose header checks, counted: one corrected in its header, one in its payload. -/
def State.packetCounted (s : State) (k ec : Nat) (crc : Bool) : State :=
  let u := if ec = 1 then s.count (csiPage k + 0x04C) else s
  if crc = true then u else (u.setErr (csiPage k) 1).count (csiPage k + 0x054)

/-- A packet to the first source of a list, or unclaimed where there is none. -/
def State.packetTo (s : State) (srcs : List Nat) (dt : Nat) (bs : List Byte) (crc : Bool) : State :=
  match srcs with
  | [] => s.count (snsPage + 0x044)
  | n :: _ => s.srcPacket n dt bs crc

section
variable {s : State} {k vc dt ec : Nat} {bs : List Byte} {crc : Bool}

theorem State.packetTo_nil {srcs : List Nat} (h : srcs = []) : s.packetTo srcs dt bs crc = s.count (snsPage + 0x044) := by
  subst h
  rfl

theorem State.packetTo_cons {srcs r : List Nat} {a : Nat} (h : srcs = a :: r) : s.packetTo srcs dt bs crc = s.srcPacket a dt bs crc := by
  subst h
  rfl

theorem csiLongPacket_off (h : bit (Tab.get 0 s.rx.csi k) 0 = false) : csiLongPacket k vc dt bs ec crc s = s := by
  simp only [csiLongPacket, h, Bool.not_false, if_true]

/-- A packet at a port that is on: past the lane buffer, with a header that does not check, or on its way to a source. -/
theorem csiLongPacket_on (h : bit (Tab.get 0 s.rx.csi k) 0 = true) :
    csiLongPacket k vc dt bs ec crc s =
      if s.synInPath false k = true ∧ 16384 < s.laneLen k bs.length then s.laneOverrun k (s.vcSrcs k vc)
      else if 2 ≤ ec then (s.laneQueued k bs.length).headerLost k
      else ((s.laneQueued k bs.length).packetCounted k ec crc).packetTo (s.vcSrcs k vc) dt bs crc := by
  simp only [csiLongPacket, h, Bool.not_true, Bool.false_eq_true, if_false]
  rfl

theorem State.laneFits_iff {k n : Nat} :
    ¬ (s.synInPath false k = true ∧ 16384 < s.laneLen k n) ↔ s.synInPath false k = false ∨ s.laneLen k n ≤ 16384 := by
  rw [Classical.not_and_iff_not_or_not, Bool.not_eq_true, Nat.not_lt]

end

/-! ### The end of a frame (R203, R204, R206) -/

/-- The reason of the first check that a frame fails whose counter c was read, by its source's RX_STAT. -/
def FrameSt.readReason (x : FrameSt) (st : W32) (c : Nat) : Nat :=
  if x.lineBad = true then 1 else if bit x.cfg 0 = false then 0 else if x.patBad = true then 4
  else if bit st 8 = false ∧ c ≠ fld st 16 16 then 5 else 0

/-- The reason of the first check that a frame fails of which no counter was read. -/
def FrameSt.unreadReason (x : FrameSt) : Nat :=
  if x.lineBad = true then 1 else if bit x.cfg 0 = false then 0 else if x.patterns ≠ 1 then 2
  else if x.patCrcBad = true then 3 else if x.patBad = true then 4 else 5

/-- A frame counted at its port, and ended for a reason with the value of its counter. -/
def State.frameCounted (s : State) (n reason ctr ca : Nat) : State := (s.setRegF ca 16 16 (s.regF ca 16 16 + 1)).frameOver n reason ctr

section
variable {s : State} {n : Nat}

theorem frameEnd_none (h : (s.rxs n).en = false ∨ (s.rxs n).inFrame = false) : frameEnd n s = s := if_pos (by simpa using h)

section
variable (he : (s.rxs n).en = true) (hf : (s.rxs n).inFrame = true) {st : W32} (hst : s.reg (rxStat n) = st)
include he hf hst

/-- EXPECTED steps past the counter that the frame's one pattern line gave, and RESYNC ends. -/
theorem frameEnd_read {c : Nat} (hp : (s.rxs n).patterns = 1) (hb : (s.rxs n).patCrcBad = false) (hc : (s.rxs n).ctr = some c) :
    frameEnd n s =
      (s.setReg (rxStat n) (setFld (setBit st 8 false) 16 16 (c + 1))).frameCounted n ((s.rxs n).readReason st c) c
        (csiPage (s.rxs n).port + 0x048) := by
  refine (if_neg (by simp [he, hf])).trans ?_
  simp only [hst, hp, hb, hc, and_self, if_true, ne_eq, not_true_eq_false, if_false, Bool.false_eq_true, Bool.not_eq_true',
    Bool.or_eq_false_iff, decide_eq_false_iff_not, Option.getD_some]
  rfl

/-- EXPECTED steps past itself where no counter was read. -/
theorem frameEnd_unread (h : (s.rxs n).patterns ≠ 1 ∨ (s.rxs n).patCrcBad = true ∨ (s.rxs n).ctr = none) :
    frameEnd n s =
      (s.setReg (rxStat n) (setFld st 16 16 (fld st 16 16 + 1))).frameCounted n (s.rxs n).unreadReason ((s.rxs n).ctr.getD 0)
        (csiPage (s.rxs n).port + 0x048) := by
  have hread : (if (s.rxs n).patterns = 1 ∧ (s.rxs n).patCrcBad = false then (s.rxs n).ctr else none) = none := by
    rw [ite_eq_right_iff]
    rintro ⟨hp, hb⟩
    exact (h.resolve_left (not_not_intro hp)).resolve_left (ne_true_of_eq_false hb)
  refine (if_neg (by simp [he, hf])).trans ?_
  simp only [hst, hread, Bool.not_eq_true', if_true]
  rfl

end

theorem streamFrameEnd_done (h : (s.rxs n).done = true) : streamFrameEnd n s = s.frameOver n (b2n (s.rxs n).lineBad) 0 := if_pos h

theorem streamFrameEnd_open (h : (s.rxs n).done = false) : streamFrameEnd n s = s := if_neg (ne_true_of_eq_false h)

end

/-! ### Synthetic lines (R205, R206) -/

/-- A line's bytes with some of them spoiled. -/
def synSpoiled (pay : List Byte) (spoiled : List (Nat × Byte)) : List Byte :=
  pay.zipIdx.map (fun e => spoiled.foldl (fun b x => if x.1 = e.2 then b ^^^ x.2 else b) e.1)

/-- A synthetic line compared: the source's error where it was not written, the check values of the line as made and as it came in their
units, and the frames that still wait. -/
def State.synCompared (t : State) (m num : Nat) (pay got : List Byte) (wrote : Bool) (waiting : List Judged) : State :=
  let u := ((t.setErrIf (!wrote) rxPage 0).synUnit 4 (synCrc m num pay) pay.length).synUnit 5 (synCrc m num got) got.length
  u.setRxs m { u.rxs m with judged := waiting }

/-- The lane buffer of a camera's port is empty once no synthetic line is in its path. -/
def State.laneEmptied (u : State) (m port : Nat) : State :=
  if m < 16 ∧ u.synInPath false port = false then u.setRx { u.rx with lane := Tab.set 0 u.rx.lane port 0 } else u

section
variable {s t : State} {m st : Nat} {spoiled : List (Nat × Byte)} {ok : Bool}

theorem synComplete_none (h : (s.rxs m).judged = []) : synComplete m spoiled ok s = s := by
  simp only [synComplete, h]

/-- The oldest frame that waits is judged by whether the line was written and its two check values agree. -/
theorem synComplete_judges {j : Judged} {r : List Judged} {pay got : List Byte} (hj : (s.rxs m).judged = j :: r)
    (hpay : synLine m j.num (fld j.cfg 16 14) = pay) (hgot : synSpoiled pay spoiled = got)
    (hwrite : s.writeB rxSrc (synAddr s m) got = (st, t)) :
    synComplete m spoiled ok s =
      ((t.synCompared m j.num pay got (ok && decide (st = 0)) r).laneEmptied m (s.rxs m).port).frameJudged m j
        ((ok && decide (st = 0)) && decide (synCrc m j.num pay = synCrc m j.num got)) := by
  rw [synSpoiled] at hgot
  simp only [synComplete, hj, hpay, hgot, hwrite]
  rfl

end

/-! ### The commands -/

section
variable {n : Nat} (s : State) (h : n < 16)
include h

theorem exec_csiFrameStart : exec (.csiFrameStart n) s = .next (csiFrameStart n s) := onUnit_next (decide_eq_true h)

theorem exec_frameEnd : exec (.frameEnd n) s = .next (frameEnd n s) := onUnit_next (decide_eq_true h)

theorem exec_streamFrameEnd : exec (.streamFrameEnd (16 + n)) s = .next (streamFrameEnd (16 + n) s) :=
  onUnit_next (by simp; omega)

end

section
variable {k : Nat} (s : State) (h : k < 8)
include h

theorem exec_csiLongPacket {vc : Nat} (hvc : vc < 16) (dt : BitVec 6) (bs : List Byte) (ec : Nat) (crc : Bool) :
    exec (.csiLongPacket k vc dt bs ec crc) s = .next (csiLongPacket k vc dt.toNat bs ec crc s) := onUnit_next (by simp [h, hvc])

theorem exec_csiRestart (w : Writer) (v : W32) : exec (.csiRestart w k v) s = .next (csiRestart w k v s) :=
  onUnit_next (decide_eq_true h)

theorem exec_dphySyncError : exec (.dphySyncError k) s = .next (s.setErr (csiPage k) 3) := onUnit_next (decide_eq_true h)

end

theorem exec_syntheticLineComplete {m : Nat} (s : State) (h : m < 32) (spoiled : List (Nat × Byte)) (ok : Bool) :
    exec (.syntheticLineComplete m spoiled ok) s = .next (synComplete m spoiled ok s) := onUnit_next (decide_eq_true h)

/-- Settles O39: a packet goes by its port, the lane buffer, its header and its sources, a frame's end by whether its counter was read, a
synthetic line by the frame that waits for it, and each other command by what lets it act. -/
theorem cameraFrames : Obligations.CameraFrames := by
  unfold Obligations.CameraFrames
  intro s t w n m k vc ec st dt bs crc ok spoiled v hn hm hk hvc
  rw [exec_csiFrameStart s hn, exec_csiLongPacket s hk hvc, exec_csiRestart s hk, exec_dphySyncError s hk, exec_frameEnd s hn,
    exec_syntheticLineComplete s hm, exec_streamFrameEnd s hn]
  refine ⟨⟨fun h => congrArg _ (csiFrameStart_runs h.1 h.2), fun h => congrArg _ (csiFrameStart_unseen h)⟩,
    fun h => congrArg _ (csiLongPacket_off h), fun hon => ?packet, fun hw hv => congrArg _ (csiRestart_starts hw hv),
    fun h => congrArg _ (csiRestart_ignored h), rfl,
    fun he hf => ⟨fun c hp hb hc => congrArg _ (frameEnd_read he hf rfl hp hb hc), fun h => congrArg _ (frameEnd_unread he hf rfl h)⟩,
    fun h => congrArg _ (frameEnd_none h), fun h => congrArg _ (synComplete_none h),
    fun j r pay got hj hpay hgot hwrite => congrArg _ (synComplete_judges hj hpay hgot hwrite),
    fun h => congrArg _ (streamFrameEnd_done h), fun h => congrArg _ (streamFrameEnd_open h)⟩
  case packet =>
    rw [csiLongPacket_on hon]
    refine ⟨fun hq hl => congrArg _ (if_pos ⟨hq, hl⟩), fun hfits => ?_⟩
    rw [if_neg (State.laneFits_iff.2 hfits)]
    refine ⟨fun hec => congrArg _ (if_pos hec), fun hec => ?_⟩
    rw [if_neg (Nat.not_le.2 hec)]
    exact ⟨fun hsrcs => congrArg _ (State.packetTo_nil hsrcs), fun a r hsrcs => congrArg _ (State.packetTo_cons hsrcs)⟩

end Sys2Proof.Machine
end

section
/-! Recovery of a fault class, its hourly counts and the clearing of error bits (R219, R222, R229, R230, R421, R440): what a quiet period
that ends does, what leaves the counts as a minute ends, and which bits of BLK_ERR a write clears. -/

namespace Sys2Proof.Machine

/-! ### Quiet periods (R229, R230) -/

section
variable {s : State} {k : Nat}

theorem State.fcQuiet_notDue (h : s.fcQuietDue k = false) : s.fcQuiet k = s := if_pos (by simp [h])

/-- The recovery that a class has counted: one more in the current minute, in its RECOVERIES and in FC_CNT_RECOVER. -/
def State.fcRecovered (s : State) (k : Nat) : State :=
  let mins := match (s.fcClass k).mins with | [] => [1] | m :: r => (m + 1) :: r
  let t := s.setFcClass k { s.fcClass k with mins := mins }
  let t := t.setRegF (fcClsStat k) 16 16 (satN 16 (t.regF (fcClsStat k) 16 16 + 1))
  let t := t.setRegF (fcClsStat k) 8 8 (satN 8 (t.fcClass k).hourly)
  t.count (fcPage + 0x074)

theorem State.fcQuiet_due (h : s.fcQuietDue k = true) :
    s.fcQuiet k = if s.regF (fcBudgetA k) 0 8 < (s.fcClass k).hourly + 1 then (s.setRegF (fcClsStat k) 3 1 1).icuPulse 0 2
      else (s.fcRecovered k).fcClear k :=
  if_neg (by simp [h])

theorem State.fcQuiet_overBudget (h : s.fcQuietDue k = true) (hb : s.regF (fcBudgetA k) 0 8 < (s.fcClass k).hourly + 1) :
    s.fcQuiet k = (s.setRegF (fcClsStat k) 3 1 1).icuPulse 0 2 :=
  (State.fcQuiet_due h).trans (if_pos hb)

theorem State.fcQuiet_inBudget (h : s.fcQuietDue k = true) (hb : (s.fcClass k).hourly + 1 ≤ s.regF (fcBudgetA k) 0 8) :
    s.fcQuiet k = (s.fcRecovered k).fcClear k :=
  (State.fcQuiet_due h).trans (if_neg (Nat.not_lt.2 hb))

end

/-! ### The hourly counts (R230) -/

/-- A class's counts as a minute ends: an empty minute begins, and the one that is an hour old leaves. -/
def State.fcMinuteOf (t : State) (k : Nat) : State :=
  let c := t.fcClass k
  let mins := if c.hourly = 0 then [] else (0 :: c.mins).take 60
  let t := t.setFcClass k { c with mins := mins }
  t.setRegF (fcClsStat k) 8 8 (satN 8 (t.fcClass k).hourly)

theorem hourlyAdvance_early {s : State} (h : s.frc < s.fcMinute) : hourlyAdvance s = s := if_pos h

theorem hourlyAdvance_minute {s : State} (h : s.fcMinute ≤ s.frc) :
    hourlyAdvance s = (List.range 16).foldl State.fcMinuteOf { s with fcMinute := s.fcMinute + 30000000000 } :=
  if_neg (Nat.not_lt.2 h)

/-! ### Pages and their headers (R4, R466) -/

theorem winUnit_of_samePage {a b : Nat} (h : a / 0x1000 = b / 0x1000) : winUnit a = winUnit b := by
  have hwin : a / 0x10000 = b / 0x10000 := by omega
  have hin : (0x020000000000 ≤ a ∧ a < 0x020100000000) ↔ (0x020000000000 ≤ b ∧ b < 0x020100000000) := by omega
  simp only [winUnit, hwin, hin]

/-- A page is of one kind at all its addresses. -/
theorem pageKind_of_samePage {a b : Nat} (h : a / 0x1000 = b / 0x1000) : pageKind a = pageKind b := by
  have hio : (0x021000000000 ≤ a ∧ a < 0x021001000000) ↔ (0x021000000000 ≤ b ∧ b < 0x021001000000) := by omega
  have hgh : (0x40000000 ≤ a ∧ a < 0x40100000) ↔ (0x40000000 ≤ b ∧ b < 0x40100000) := by omega
  simp only [pageKind, winUnit_of_samePage h, h, hio, hgh]

theorem headPage_iff {page : Nat} :
    headPage page = true ↔ page % 0x1000 = 0 ∧ ∃ k, pageKind page = some k ∧ k.hasHead = true := by
  cases hk : pageKind page <;> simp [headPage, hk]

/-- A header's register stands on every page that has the header. -/
theorem exists_regRow_of_headRow {a : Nat} {k : PageKind} {r : RegRow} (hk : pageKind a = some k) (hh : k.hasHead = true)
    (hr : r ∈ headRows) (hc : r.covers (a % 0x1000) = true) : ∃ x, regRow a = some x := by
  have hfound : (regRow a).isSome = true := by
    simp only [regRow, hk, hh, if_true]
    exact List.find?_isSome.2 ⟨r, List.mem_append_right _ hr, hc⟩
  exact Option.isSome_iff_exists.1 hfound

/-! ### BLK_ERR (R219, R222, R421, R440) -/

/-- BLK_ERR bits that a write does not clear: DEBUG_OPEN while debug is open, OVERDUE while a checker of the Folly is overdue. -/
def State.errKept (s : State) (page : Nat) : W32 :=
  (if page = ghPage 0x14 ∧ s.dbgOpen = true then 1#32 else 0#32)
    ||| (if page = ghPage 0x03 ∧ s.fol.chks.any (fun e => e.2.overdue) = true then 2#32 else 0#32)

/-- A mask that holds only under a condition. -/
theorem ite_and_not {p : Prop} [Decidable p] (v m : W32) :
    (if p then v &&& ~~~ m else v) = v &&& ~~~ (if p then m else 0#32) := by
  split
  · rfl
  · exact BitVec.and_allOnes.symm

theorem State.blkErrClear_eq (s : State) (page : Nat) (v : W32) :
    s.blkErrClear page v =
      s.withFalls (s.setReg (page + 0x018) (s.reg (page + 0x018) &&& ~~~ (v &&& ~~~ s.errKept page))) := by
  simp only [State.blkErrClear, State.errKept, ite_and_not, BitVec.not_or, ← BitVec.and_assoc, errOff]

/-- Whether a write that leaves a state `t` has cleared bits that the Groundskeeper records (R440). -/
def State.gkCleared (s t : State) (w : Writer) (page : Nat) : Prop :=
  s.writerDom w = domGk ∧ w ≠ .rom ∧ s.reg (page + 0x018) ≠ t.reg (page + 0x018) ∧ s.gk.up = true

section
variable {s t : State} {w : Writer} {page : Nat} {v : W32}

theorem State.errWrite_unrecorded (ht : s.blkErrClear page v = t) (h : ¬ s.gkCleared t w page) : s.errWrite w page v = t := by
  subst ht
  exact if_neg h

theorem State.errWrite_recorded (ht : s.blkErrClear page v = t) (h : s.gkCleared t w page) :
    s.errWrite w page v = t.logAdd 0x0004
      (bytesLE 2 (srcUnit page).toNat ++ bytesLE 2 (pageNo page) ++ bytesLE 4 (s.reg (page + 0x018)).toNat) false 0 := by
  subst ht
  exact if_pos h

/-- BLK_ERR of a page whose unit is there is its header's. -/
theorem State.writeReg_blkErr {kind : PageKind} (hp : headPage page = true) (hk : pageKind (page + 0x018) = some kind)
    (hx : (winUnit (page + 0x018)).all (fun x => !s.isAbsent x || decide (kind = .unit)) = true) :
    s.writeReg w (page + 0x018) v = if s.headMay w kind page 0x018 then s.errWrite w page v else s := by
  obtain ⟨h0, k, hk', hh⟩ := headPage_iff.1 hp
  obtain rfl : kind = k := by
    rw [pageKind_of_samePage (b := page) (by omega), hk'] at hk
    exact (Option.some.inj hk).symm
  have hbase : (page + 0x018) / 0x1000 * 0x1000 = page := by omega
  have hoff : (page + 0x018) % 0x1000 = 0x018 := by omega
  obtain ⟨r, hr⟩ := exists_regRow_of_headRow (r := row1 0x018 .rw1c 0xFFFFFFFF#32 0) hk hh (by simp [headRows])
    (by rw [hoff]; decide)
  have hhere : ∀ x, winUnit (page + 0x018) = some x → s.isAbsent x = false ∨ kind = .unit := by
    intro x hu
    simpa [hu] using hx
  rw [s.writeReg_head hk hr (by omega) hhere (by omega) hh, hbase, hoff, s.headWrite_err]

end

/-! ### The commands -/

theorem exec_quietPeriodExpiry {k : Nat} (s : State) (h : k < 16) : exec (.quietPeriodExpiry k) s = .next (s.fcQuiet k) :=
  onUnit_next (decide_eq_true h)

theorem exec_hourlyWindowAdvance (s : State) : exec .hourlyWindowAdvance s = .next (hourlyAdvance s) := rfl

/-- Settles O27: a quiet period by whether the class is due and has budget left, the hourly counts by whether their minute has ended,
BLK_ERR_CLEAR by who may write the header and whether the Groundskeeper cleared a bit. -/
theorem faultClassRecovery : Obligations.FaultClassRecovery := by
  unfold Obligations.FaultClassRecovery
  intro s w k page kind v hk
  rw [exec_quietPeriodExpiry s hk, exec_hourlyWindowAdvance]
  refine ⟨fun h => congrArg _ (State.fcQuiet_notDue h), fun h hb => congrArg _ (State.fcQuiet_overBudget h hb),
    fun h hb => congrArg _ (State.fcQuiet_inBudget h hb), fun h => congrArg _ (hourlyAdvance_early h),
    fun h => congrArg _ (hourlyAdvance_minute h), fun hp hkind hx => ?blkErr⟩
  case blkErr =>
    rw [exec_headCommand (o := 0x018) (v := v) w s hp (by simp), State.writeReg_blkErr hp hkind hx]
    refine ⟨fun hm => congrArg _ (if_neg (by simp [hm])), fun hm => ?_⟩
    rw [if_pos hm]
    have ht := s.blkErrClear_eq page v
    exact ⟨fun h => congrArg _ (State.errWrite_unrecorded ht h), fun h => congrArg _ (State.errWrite_recorded ht h)⟩

end Sys2Proof.Machine
end

section
/-! The resume button (R257, R258, R462): how a press begins and ends, and what its contacts show when they differ or stay closed. -/

namespace Sys2Proof.Machine

/-! ### Presses (R257, R462) -/

/-- The times between which the two contacts have closed. -/
def State.closingGap (s : State) : Tick :=
  max (Tab.get 0 s.sio.closedAt 0) (Tab.get 0 s.sio.closedAt 1) - min (Tab.get 0 s.sio.closedAt 0) (Tab.get 0 s.sio.closedAt 1)

/-- A ready button whose contacts have both closed, the one soon after the other. -/
def State.pressBegins (s : State) : Prop :=
  s.sio.ready = true ∧ s.scanOn = false ∧ s.siLevel true 32 = true ∧ s.siLevel true 33 = true ∧ s.sio.pressAt = none ∧
    s.closingGap < s.resDisc

/-- Both contacts are filtered open. -/
def State.bothOpen (s : State) : Bool := !s.siLevel true 32 && !s.siLevel true 33

/-- A press that began at a tick is over, its length kept in milliseconds. -/
def State.pressOver (s : State) (t0 : Tick) : State :=
  ((s.setSio { s.sio with pressAt := none, ready := s.bothOpen, releaseAt := if s.bothOpen then none else some s.frc }).setRegF
    sioResStatA 2 1 0).setRegF sioResStatA 16 16 (satN 16 ((s.frc - t0) / 500000))

section
variable {s : State}

theorem State.pressBegins_iff : s.pressBegins ↔
    (s.sio.ready && !s.scanOn && s.siLevel true 32 && s.siLevel true 33 && s.sio.pressAt.isNone
      && decide (s.closingGap < s.resDisc)) = true := by
  simp [State.pressBegins, and_assoc]

theorem resumePressBegin_begins (h : s.pressBegins) :
    resumePressBegin s = (s.setSio { s.sio with pressAt := some s.frc, ready := false }).setRegF sioResStatA 2 1 1 :=
  if_pos (State.pressBegins_iff.1 h)

theorem resumePressBegin_ignored (h : ¬ s.pressBegins) : resumePressBegin s = s := if_neg (mt State.pressBegins_iff.2 h)

variable {second : Bool}

theorem resumeRelease_unpressed (h : s.sio.pressAt = none) : resumeRelease second s = s := by simp only [resumeRelease, h]

section
variable {t0 : Tick} (hp : s.sio.pressAt = some t0)
include hp

theorem resumeRelease_closed (h : s.siLevel true (32 + b2n second) = true) : resumeRelease second s = s := by
  simp only [resumeRelease, hp, if_pos h]

section
variable (ho : s.siLevel true (32 + b2n second) = false)
include ho

/-- A contact that opens ends the press, which is judged by its length and by the button's stop. -/
theorem resumeRelease_opened :
    resumeRelease second s =
      if 50000000 ≤ s.frc - t0 ∧ s.frc - t0 ≤ 1000000000 then
        if bit ((s.pressOver t0).reg sioResStatA) 3 = true then s.pressOver t0
        else (s.pressOver t0).setSio { (s.pressOver t0).sio with events := (s.pressOver t0).sio.events ++ [((s.pressOver t0).frc, t0)] }
      else (s.pressOver t0).count (sioPage + 0x070) := by
  simp only [resumeRelease, hp, ho]
  rfl

theorem resumeRelease_rejected (hl : s.frc - t0 < 50000000 ∨ 1000000000 < s.frc - t0) :
    resumeRelease second s = (s.pressOver t0).count (sioPage + 0x070) :=
  (resumeRelease_opened hp ho).trans (if_neg fun hc => hl.elim (Nat.not_lt.2 hc.1) (Nat.not_lt.2 hc.2))

variable (hmin : 50000000 ≤ s.frc - t0) (hmax : s.frc - t0 ≤ 1000000000)
include hmin hmax

theorem resumeRelease_event (hb : bit ((s.pressOver t0).reg sioResStatA) 3 = false) :
    resumeRelease second s =
      (s.pressOver t0).setSio { (s.pressOver t0).sio with events := (s.pressOver t0).sio.events ++ [((s.pressOver t0).frc, t0)] } :=
  ((resumeRelease_opened hp ho).trans (if_pos ⟨hmin, hmax⟩)).trans (if_neg (by simp [hb]))

theorem resumeRelease_stopped (hb : bit ((s.pressOver t0).reg sioResStatA) 3 = true) : resumeRelease second s = s.pressOver t0 :=
  ((resumeRelease_opened hp ho).trans (if_pos ⟨hmin, hmax⟩)).trans (if_pos hb)

end
end
end

/-! ### Contacts that differ (R257) or stay closed (R258) -/

/-- One contact alone has been closed for the discrepancy time, without a press. -/
def State.contactLate (s : State) : Prop :=
  s.siLevel true 32 ≠ s.siLevel true 33 ∧ s.sio.ready = true ∧ s.sio.pressAt = none ∧
    (if s.siLevel true 32 = true then Tab.get 0 s.sio.closedAt 0 else Tab.get 0 s.sio.closedAt 1) + s.resDisc ≤ s.frc

section
variable {s : State}

/-- After the release of a press one contact may stay closed for the discrepancy time. -/
theorem resumeDiscTimeout_released {t0 : Tick} (h : s.sio.releaseAt = some t0) :
    resumeDiscTimeout s =
      if s.siLevel true 32 ≠ s.siLevel true 33 ∧ t0 + s.resDisc < s.frc then
        (s.setSio { s.sio with releaseAt := none, ready := false }).setErr sioPage 7
      else s := by
  simp only [resumeDiscTimeout, h, Bool.and_eq_true, decide_eq_true_eq]

section
variable (hr : s.sio.releaseAt = none)
include hr

theorem resumeDiscTimeout_late (h : s.contactLate) :
    resumeDiscTimeout s = (s.setSio { s.sio with ready := false }).setErr sioPage 7 := by
  obtain ⟨hd, hy, hp, ht⟩ := h
  simp only [resumeDiscTimeout, hr]
  exact if_pos (by simp [hd, hy, hp, ht])

theorem resumeDiscTimeout_intime (h : ¬ s.contactLate) : resumeDiscTimeout s = s := by
  simp only [resumeDiscTimeout, hr]
  exact if_neg fun hc => h (by simpa [State.contactLate, and_assoc] using hc)

end

/-- A contact that has been closed for more than 10 s. -/
theorem resumeStuckTimeout_eq {second : Bool} :
    resumeStuckTimeout second s =
      if s.siLevel true (32 + b2n second) = true ∧ Tab.get 0 s.sio.closedAt (b2n second) + 5000000000 < s.frc then
        (s.setRegF sioResStatA 3 1 1).setErr sioPage 6
      else s := by
  simp only [resumeStuckTimeout, State.resumeStuck, Bool.and_eq_true, decide_eq_true_eq]

end

/-- Settles O31: a press begins by what the contacts and the button show; a release goes by whether a press is on, by the contact and by
the press's length; the two timeouts go by how long the contacts have differed or stayed closed. -/
theorem resumeButton : Obligations.ResumeButton := by
  unfold Obligations.ResumeButton
  intro s second
  have hbegin : exec .resumePressBegin s = .next (resumePressBegin s) := rfl
  have hrelease : exec (.resumeRelease second) s = .next (resumeRelease second s) := rfl
  have hdisc : exec .resumeDiscrepancyTimeout s = .next (resumeDiscTimeout s) := rfl
  have hstuck : exec (.resumeStuckTimeout second) s = .next (resumeStuckTimeout second s) := rfl
  rw [hbegin, hrelease, hdisc, hstuck, resumeStuckTimeout_eq]
  refine ⟨⟨fun h => congrArg _ (resumePressBegin_begins h), fun h => congrArg _ (resumePressBegin_ignored h)⟩,
    fun hp => congrArg _ (resumeRelease_unpressed hp),
    fun t0 hp => ⟨fun h => congrArg _ (resumeRelease_closed hp h), fun h => ⟨fun hl => congrArg _ (resumeRelease_rejected hp h hl),
        fun hmin hmax => ⟨fun hb => congrArg _ (resumeRelease_event hp h hmin hmax hb),
          fun hb => congrArg _ (resumeRelease_stopped hp h hmin hmax hb)⟩⟩⟩,
    fun t0 hr => ?released,
    fun hr => ⟨fun h => congrArg _ (resumeDiscTimeout_late hr h), fun h => congrArg _ (resumeDiscTimeout_intime hr h)⟩,
    fun h => congrArg _ (if_pos h), fun h => congrArg _ (if_neg h)⟩
  case released =>
    rw [resumeDiscTimeout_released hr]
    exact ⟨fun hd ht => congrArg _ (if_pos ⟨hd, ht⟩), fun h => congrArg _ (if_neg fun hc => h.elim hc.1 (Nat.not_le.2 hc.2))⟩

end Sys2Proof.Machine
end

section
/-! The processor path and its registers (R248 to R252, R254, R258): the sample of a cycle, handshakes and latches, and the expiry. -/

namespace Sys2Proof.Machine

/-! ### The sample (R249, R250) -/

/-- The latches that the pairs which have left RUN ask for. -/
def State.stopMask (s : State) : Nat :=
  mask4 (fun n => (List.range 16).any (fun k => bit s.sio.left k && s.siStop k && !s.siAuto k && s.siMask k n))

/-- The cycle's sample is taken, and its handshakes and latches wait for the second boundary after. -/
def State.sampleTaken (s : State) : State :=
  s.setSio { s.sio with sampled := true, left := 0, sched := s.sio.sched ++ [(2, mask4 s.prHs, s.stopMask)] }

section
variable {s : State}

theorem processorSample_taken (h : s.sio.sampled = false) (ht : s.cyc.last + 250 * s.cyc.us ≤ s.frc) :
    processorSample s = ((List.range 16).foldl State.pathCompare s).sampleTaken.drive :=
  if_neg (by simp [h, ht])

theorem processorSample_skips (h : s.sio.sampled = true ∨ s.frc < s.cyc.last + 250 * s.cyc.us) : processorSample s = s :=
  if_pos (by simpa using h)

/-! ### Writes (R251, R252, R254, R258) -/

variable {w : Writer} {v : W32}

theorem sioHsCmd_other (h : w ≠ .pair) : sioHsCmd w v s = s := if_neg h

theorem sioLatchSet_other (h : w ≠ .pair) : sioLatchSet w v s = s := if_neg h

theorem sioLockClr_other (h : w ≠ .pair) : sioLockClr w v s = s := if_neg h

theorem sioResumeClr_other (h : w ≠ .pair) : sioResumeClr w v s = s := if_neg (by simp [h])

/-- LOCK is cleared where it is set and both nodes have read MID for 10 ms. -/
theorem sioLockClr_pair : sioLockClr .pair v s = ((bitsOf 4 (fld v 0 4)).foldl (fun t n =>
    if t.locked n = true ∧ t.midLong n = true then t.setRegF (soStatA n) 3 1 0 else t) s).drive := by
  rw [sioLockClr, if_pos rfl]
  simp only [State.lockClr, Bool.and_eq_true]

/-- A contact has been filtered open for 1 s. -/
def State.openLong (s : State) (c : Nat) : Bool :=
  !s.siLevel true (32 + c) && decide (Tab.get 0 s.sio.openAt c + 500000000 ≤ s.frc)

theorem State.openLong_iff {c : Nat} :
    s.openLong c = true ↔ s.siLevel true (32 + c) = false ∧ Tab.get 0 s.sio.openAt c + 500000000 ≤ s.frc := by
  simp [State.openLong]

/-- RESUME_STUCK is cleared by a write of 1 while both contacts have been open for long. -/
theorem sioResumeClr_pair :
    sioResumeClr .pair v s = if bit v 0 = true ∧ s.openLong 0 = true ∧ s.openLong 1 = true then s.setRegF sioResStatA 3 1 0 else s := by
  cases hv : bit v 0
  · simp [sioResumeClr, hv]
  · simp [sioResumeClr, State.resumeClr, State.openLong, hv]

end

/-! ### The expiry of the handshakes (R251) -/

/-- A firmware-switch hold suspends the expiry for at most 50 ms. -/
def State.expiryHeld (s : State) : Bool :=
  match s.fwHold with
  | some t1 => decide (s.frc < t1 + 25000000)
  | none => false

section
variable {s : State} {t0 : Tick}

theorem State.expiryHeld_iff : s.expiryHeld = true ↔ ∃ t1, s.fwHold = some t1 ∧ s.frc < t1 + 25000000 := by
  cases h : s.fwHold <;> simp [State.expiryHeld, h]

theorem hsCmdExpiry_none (h : s.sio.hsValid = none) : hsCmdExpiry s = s := by simp only [hsCmdExpiry, h]

/-- Handshakes whose time has passed are dropped and the outputs latched, unless a hold suspends that. -/
theorem hsCmdExpiry_some (hv : s.sio.hsValid = some t0) :
    hsCmdExpiry s =
      if s.frc < t0 ∨ s.expiryHeld = true then s
      else (((s.setReg sioHsCmdA 0).setSio { s.sio with hsValid := none }).setLatches 15 lcProcessor).drive := by
  cases hh : s.fwHold <;> simp [hsCmdExpiry, State.expiryHeld, hv, hh, or_comm]

end

/-- Settles O29: the sample goes by whether the cycle's half has come and its sample is taken, a write by its writer and, for the two
clears, by what the outputs and the contacts show, and the expiry by the handshakes' time and the hold. -/
theorem safeOutputCommands : Obligations.SafeOutputCommands := by
  unfold Obligations.SafeOutputCommands
  intro s w v
  have hsample : exec .processorSample s = .next (processorSample s) := rfl
  have hexpiry : exec .hsCmdExpiry s = .next (hsCmdExpiry s) := rfl
  have hresume : ∀ w, exec (.sioResumeClr w v) s = .next (sioResumeClr w v s) := fun _ => rfl
  have hlock : ∀ w, exec (.sioLockClr w v) s = .next (sioLockClr w v s) := fun _ => rfl
  rw [hsample, hexpiry, hresume, hresume, hlock, hlock, sioLockClr_pair, sioResumeClr_pair]
  refine ⟨fun h ht => congrArg _ (processorSample_taken h ht), fun h => congrArg _ (processorSample_skips h), rfl, rfl, rfl,
    ⟨fun h h0 h1 => congrArg _ (if_pos ⟨h, State.openLong_iff.2 h0, State.openLong_iff.2 h1⟩), fun h => congrArg _ (if_neg ?kept)⟩,
    fun h => ⟨congrArg _ (sioHsCmd_other h), congrArg _ (sioLatchSet_other h), congrArg _ (sioLockClr_other h),
      congrArg _ (sioResumeClr_other h)⟩,
    fun t0 hv ht hh => ?expires, fun t0 hv h => ?waits, fun h => congrArg _ (hsCmdExpiry_none h)⟩
  case kept =>
    rintro ⟨hv, h0, h1⟩
    rcases h with h | h | h
    · simp [h] at hv
    · exact h (State.openLong_iff.1 h0)
    · exact h (State.openLong_iff.1 h1)
  case expires =>
    rw [hsCmdExpiry_some hv, if_neg fun h => h.elim (Nat.not_lt.2 ht) (mt State.expiryHeld_iff.1 hh)]
  case waits =>
    rw [hsCmdExpiry_some hv, if_pos (h.imp_right State.expiryHeld_iff.2)]

end Sys2Proof.Machine
end

section
/-! Safe inputs (R243 to R247, R257, R462): levels that the filters take, test pulses and their checks, and discrepancies. -/

namespace Sys2Proof.Machine

/-! ### Filters (R243, R245, R462) -/

/-- Whether the level that a channel has in a path is its active one. -/
def State.chanActive (s : State) (hw : Bool) (ch : Nat) : Bool :=
  if 32 ≤ ch then s.siLevel hw ch else s.siActive hw (ch / 2) (ch % 2)

/-- Whether a path takes the level that a channel has read since a tick: it is not blanked by a test pulse, under scan it leaves the active
level, and FILTER has passed. -/
def State.levelTaken (s : State) (hw : Bool) (ch since : Nat) : Prop :=
  s.tpBlank ch = false ∧ (s.scanOn = true → s.chanActive hw ch = true) ∧ s.filtered hw ch since = true

/-- A new level of a pair's channel in a path, and the pair's transition. -/
def State.pairLevel (s : State) (hw : Bool) (ch : Nat) : State :=
  let k := ch / 2
  let t := (if s.siEval hw k = true then s.discExpire hw k else s).flipLevel hw ch
  let t := if hw = true then t else t.setRegF (siStatA k) (6 + ch % 2) 1 (b2n (t.siActive false k (ch % 2)))
  if t.siEval hw k = true then t.pairStep hw k (ch % 2) else t

section
variable {s : State} {hw : Bool} {ch since : Nat}

theorem State.levelTaken_iff : s.levelTaken hw ch since ↔
    ¬ (s.tpBlank ch || (s.scanOn && !s.chanActive hw ch) || !s.filtered hw ch since) = true := by
  simp [State.levelTaken, and_assoc]

theorem filterExpiry_refused (h : ¬ s.levelTaken hw ch since) : filterExpiry hw ch since s = s :=
  if_pos (Classical.not_not.1 (mt State.levelTaken_iff.2 h))

section
variable (h : s.levelTaken hw ch since)
include h

/-- A contact of the resume button has a level in both paths, but only the hard-wired one looks for presses. -/
theorem filterExpiry_contact (hch : 32 ≤ ch) :
    filterExpiry hw ch since s = if hw = true then (s.flipLevel hw ch).contactChanged (ch - 32) else s.flipLevel hw ch :=
  (if_neg (State.levelTaken_iff.1 h)).trans (if_pos hch)

theorem filterExpiry_pair (hch : ch < 32) :
    filterExpiry hw ch since s = (if hw = true then s.pairLevel hw ch else (s.pairLevel hw ch).twohandOf (ch / 2)).drive :=
  (if_neg (State.levelTaken_iff.1 h)).trans (if_neg (Nat.not_le.2 hch))

end

/-! ### Test pulses (R244, R462) -/

/-- The start of a pulse of output m, a quarter period after that of the output before. -/
def State.pulseDue (s : State) (t0 : Tick) (m : Nat) : Prop :=
  t0 + m * s.tpPeriod / 4 ≤ s.frc ∧ s.tpPeriod ≠ 0 ∧ (s.frc - (t0 + m * s.tpPeriod / 4)) % s.tpPeriod = 0

section
variable {m : Nat} {a b : BitVec 34} {t0 : Tick}

theorem testPulseStart_unloaded (h : s.cyc.recLoad = none) : testPulseStart m a b s = s := by simp only [testPulseStart, h]

theorem testPulseStart_starts (hr : s.cyc.recLoad = some t0) (h : s.pulseDue t0 m) :
    testPulseStart m a b s =
      s.setSio { s.sio with tpAt := Tab.set none s.sio.tpAt m (some s.frc), tpReads := Tab.set (0, 0) s.sio.tpReads m (a, b) } := by
  simp only [testPulseStart, hr]
  exact if_pos h

theorem testPulseStart_waits (hr : s.cyc.recLoad = some t0) (h : ¬ s.pulseDue t0 m) : testPulseStart m a b s = s := by
  simp only [testPulseStart, hr]
  exact if_neg h

end

/-- What a channel read in a path at the start of its output's last pulse. -/
def State.pulseRead (s : State) (hw : Bool) (p ch : Nat) : Bool :=
  bit (if hw = true then (Tab.get (0, 0) s.sio.tpReads p).1 else (Tab.get (0, 0) s.sio.tpReads p).2) ch

/-- A channel high at the start of a pulse has not read low, and the blank of the pulse is over without a scan. -/
def State.pulseFails (s : State) (hw sawLow : Bool) (ch p : Nat) (t0 : Tick) : Prop :=
  t0 + s.tpWidth + 50000 ≤ s.frc ∧ sawLow = false ∧ s.pulseRead hw p ch = true ∧ s.scanOn = false ∧ s.scanEnd ≤ t0

theorem State.pulseFails_iff {sawLow : Bool} {p : Nat} {t0 : Tick} : s.pulseFails hw sawLow ch p t0 ↔
    ¬ (s.frc < t0 + s.tpWidth + 50000 ∨ sawLow = true ∨ s.pulseRead hw p ch = false ∨ s.scanOn = true ∨ t0 < s.scanEnd) := by
  simp [State.pulseFails, not_or]

theorem testPulseCheck_unfed {sawLow : Bool} (h : s.tpOf ch = none) : testPulseCheck hw ch sawLow s = s := by
  simp only [testPulseCheck, h]

section
variable {sawLow : Bool} {p : Nat} (hp : s.tpOf ch = some p)
include hp

theorem testPulseCheck_unpulsed (h : Tab.get none s.sio.tpAt p = none) : testPulseCheck hw ch sawLow s = s := by
  simp only [testPulseCheck, hp, h]

variable {t0 : Tick} (ht : Tab.get none s.sio.tpAt p = some t0)
include ht

theorem testPulseCheck_passes (h : ¬ s.pulseFails hw sawLow ch p t0) : testPulseCheck hw ch sawLow s = s := by
  simp only [testPulseCheck, hp, ht]
  exact if_pos (Classical.not_not.1 (mt State.pulseFails_iff.2 h))

variable (h : s.pulseFails hw sawLow ch p t0)
include h

/-- A failed pulse stops the resume button in the hard-wired path, or faults its pair where that is evaluated. -/
theorem testPulseCheck_fails :
    testPulseCheck hw ch sawLow s =
      if 32 ≤ ch then (if hw = true then s.resumeStuck else s)
      else if s.siFunc (ch / 2) = 0 ∨ s.siEval hw (ch / 2) = false then s
      else ((s.pairFault hw (ch / 2) (2 + ch % 2) 1).twohandOf (ch / 2)).drive := by
  simp only [testPulseCheck, hp, ht]
  exact if_neg (State.pulseFails_iff.1 h)

theorem testPulseCheck_contact (hch : 32 ≤ ch) : testPulseCheck hw ch sawLow s = if hw = true then s.resumeStuck else s :=
  (testPulseCheck_fails hp ht h).trans (if_pos hch)

theorem testPulseCheck_unevaluated (hch : ch < 32) (he : s.siFunc (ch / 2) = 0 ∨ s.siEval hw (ch / 2) = false) :
    testPulseCheck hw ch sawLow s = s :=
  (testPulseCheck_fails hp ht h).trans ((if_neg (Nat.not_le.2 hch)).trans (if_pos he))

theorem testPulseCheck_faults (hch : ch < 32) (hf : s.siFunc (ch / 2) ≠ 0) (he : s.siEval hw (ch / 2) = true) :
    testPulseCheck hw ch sawLow s = ((s.pairFault hw (ch / 2) (2 + ch % 2) 1).twohandOf (ch / 2)).drive :=
  (testPulseCheck_fails hp ht h).trans ((if_neg (Nat.not_le.2 hch)).trans (if_neg (by simp [hf, he])))

end

/-! ### Discrepancies (R245) -/

theorem discrepancyTimeout_judges {k : Nat} (h : s.siEval hw k = true) :
    discrepancyTimeout hw k s = ((s.discExpire hw k).twohandOf k).drive := if_pos h

theorem discrepancyTimeout_unevaluated {k : Nat} (h : s.siEval hw k = false) : discrepancyTimeout hw k s = s := if_neg (by simp [h])

end

/-! ### The commands -/

section
variable (s : State) (hw : Bool) {ch : Nat}

theorem exec_filterExpiry (since : Tick) (h : ch < 34) : exec (.filterExpiry hw ch since) s = .next (filterExpiry hw ch since s) :=
  onUnit_next (decide_eq_true h)

theorem exec_testPulseStart {m : Nat} (a b : BitVec 34) (h : m < 4) : exec (.testPulseStart m a b) s = .next (testPulseStart m a b s) :=
  onUnit_next (decide_eq_true h)

theorem exec_testPulseCheck (sawLow : Bool) (h : ch < 34) :
    exec (.testPulseCheck hw ch sawLow) s = .next (testPulseCheck hw ch sawLow s) := onUnit_next (decide_eq_true h)

theorem exec_discrepancyTimeout {k : Nat} (h : k < 16) : exec (.discrepancyTimeout hw k) s = .next (discrepancyTimeout hw k s) :=
  onUnit_next (decide_eq_true h)

end

/-- Settles O28: a filter goes by whether the level is taken and whose channel it is, a pulse by its quarter of the period, a check by
whether the pulse fails and whose channel it is, and a discrepancy by whether the pair is evaluated. -/
theorem safeInputs : Obligations.SafeInputs := by
  unfold Obligations.SafeInputs
  intro s hw sawLow ch m k since a b hch hm hk
  rw [exec_filterExpiry s hw since hch, exec_testPulseStart s a b hm, exec_testPulseCheck s hw sawLow hch, exec_discrepancyTimeout s hw hk]
  refine ⟨fun h => congrArg _ (filterExpiry_refused h), fun h h32 => ?contact, fun h h32 => congrArg _ (filterExpiry_pair h h32),
    fun h => congrArg _ (testPulseStart_unloaded h),
    fun t0 hr => ⟨fun h => congrArg _ (testPulseStart_starts hr h), fun h => congrArg _ (testPulseStart_waits hr h)⟩,
    fun h => congrArg _ (testPulseCheck_unfed h),
    fun p hp => ⟨fun ht => congrArg _ (testPulseCheck_unpulsed hp ht), fun t0 ht => ⟨fun h => congrArg _ (testPulseCheck_passes hp ht h),
      fun h h32 hhw => ?stops, fun h h32 hhw => ?kept,
      fun h h32 hf he => congrArg _ (testPulseCheck_faults hp ht h h32 hf he),
      fun h h32 he => congrArg _ (testPulseCheck_unevaluated hp ht h h32 he)⟩⟩,
    fun h => congrArg _ (discrepancyTimeout_judges h), fun h => congrArg _ (discrepancyTimeout_unevaluated h)⟩
  case contact =>
    rw [filterExpiry_contact h h32]
    exact ⟨fun hhw => congrArg _ (if_pos hhw), fun hhw => congrArg _ (if_neg (by simp [hhw]))⟩
  case stops => exact congrArg _ ((testPulseCheck_contact hp ht h h32).trans (if_pos hhw))
  case kept => exact congrArg _ ((testPulseCheck_contact hp ht h h32).trans (if_neg (by simp [hhw])))

end Sys2Proof.Machine
end

section
/-! Read-back and dark tests of the outputs (R253 to R255, R322, R464): conversions by what their channel measures, and the tests. -/

namespace Sys2Proof.Machine

/-! ### Read-back (R253, R254, R464) -/

/-- The cause that a node's deviation gives now, 0 for none. -/
def State.nodeCause (s : State) (c : Nat) : Nat :=
  deviation (s.hsPin (c / 2)) (s.lsPin (c / 2)) (decide (c % 2 = 0)) (s.node c)

/-- The deviating conversions of a node in a row. -/
def State.setDeviate (s : State) (c x : Nat) : State := s.setSio { s.sio with deviate := Tab.set 0 s.sio.deviate c x }

section
variable {s : State} {c : Nat}

theorem State.readBack_suspended (h : s.svcAccess = true ∨ s.frc < s.svcEnd + s.dtSettle) : s.readBack c = s :=
  if_pos (by simpa using h)

section
variable (ha : s.svcAccess = false) (hend : s.svcEnd + s.dtSettle ≤ s.frc)
include ha hend

theorem State.readBack_matches (h : s.nodeCause c = 0) : s.readBack c = s.setDeviate c 0 :=
  (if_neg (by simp [ha, Nat.not_lt.2 hend])).trans (if_pos h)

section
variable (h : s.nodeCause c ≠ 0)
include h

theorem State.readBack_deviates :
    s.readBack c =
      let k := Tab.get 0 s.sio.deviate c + 1
      if 3 ≤ k then (s.setDeviate c (if 3 ≤ k then 0 else k)).setLock (c / 2) (s.nodeCause c) (if s.nodeCause c = 5 then 4 else 2)
      else s.setDeviate c (if 3 ≤ k then 0 else k) :=
  (if_neg (by simp [ha, Nat.not_lt.2 hend])).trans (if_neg h)

theorem State.readBack_counts (hk : Tab.get 0 s.sio.deviate c + 1 < 3) :
    s.readBack c = s.setDeviate c (Tab.get 0 s.sio.deviate c + 1) := by
  simp only [State.readBack_deviates ha hend h, if_neg (Nat.not_le.2 hk)]

theorem State.readBack_locks (hk : 3 ≤ Tab.get 0 s.sio.deviate c + 1) :
    s.readBack c = (s.setDeviate c 0).setLock (c / 2) (s.nodeCause c) (if s.nodeCause c = 5 then 4 else 2) := by
  simp only [State.readBack_deviates ha hend h, if_pos hk]

end
end
end

/-! ### Conversions (R253, R255, R322) -/

/-- A conversion as it is stored: FIRST with a channel's first one, which is then seen. -/
def State.converted (s : State) (c : Nat) (v : BitVec 12) : State :=
  let t := (s.snapCopy c v).setReg (sioPage + 0x080 + 4 * c) (w32 (v.toNat + b2n (!bit s.sio.adcSeen c) * 32768))
  t.setSio { t.sio with adcSeen := t.sio.adcSeen ||| BitVec.ofNat 16 (2 ^ c) }

/-- A supply's conversion, and whether its output has none. -/
def State.supplySeen (s : State) (c : Nat) (v : BitVec 12) : State :=
  (s.converted c v).setRegF (soStatA (c - 8)) 6 1 (b2n (decide (10 * v.toNat < 4096)))

/-- A node's conversion, and since when the node reads MID. -/
def State.nodeSeen (s : State) (c : Nat) (v : BitVec 12) : State :=
  let t := s.converted c v
  let since := match Tab.get none t.sio.mid c with | some x => some x | none => some t.frc
  t.setSio { t.sio with mid := Tab.set none t.sio.mid c (if t.node c = .mid then since else none) }

/-- A dark test ends without a verdict where its output has no supply. -/
def State.darkSupply (s : State) (n : Nat) (noSupply : Bool) : State :=
  match noSupply, Tab.get none s.sio.dark n with
  | true, some d => s.darkEnd n d.low false
  | _, _ => s

theorem State.darkSupply_lost {s : State} {n : Nat} {d : DarkSt} (h : Tab.get none s.sio.dark n = some d) :
    s.darkSupply n true = s.darkEnd n d.low false := by simp only [State.darkSupply, h]

theorem State.darkSupply_kept {s : State} {n : Nat} {noSupply : Bool} (h : noSupply = false ∨ Tab.get none s.sio.dark n = none) :
    s.darkSupply n noSupply = s := by
  rcases h with rfl | h
  · rfl
  · cases noSupply <;> simp only [State.darkSupply, h]

section
variable {s : State} {c : Nat} {v : BitVec 12}

theorem adcSample_stored (hc : 12 ≤ c) : adcSample c v s = s.converted c v := if_pos hc

section
variable (h8 : 8 ≤ c) (h12 : c < 12)
include h8 h12

theorem adcSample_supply : adcSample c v s = (s.supplySeen c v).darkSupply (c - 8) (decide (10 * v.toNat < 4096)) :=
  (if_neg (Nat.not_le.2 h12)).trans (if_pos h8)

theorem adcSample_unsupplied {d : DarkSt} (hv : 10 * v.toNat < 4096) (hd : Tab.get none (s.supplySeen c v).sio.dark (c - 8) = some d) :
    adcSample c v s = (s.supplySeen c v).darkEnd (c - 8) d.low false := by
  rw [adcSample_supply h8 h12, decide_eq_true hv, State.darkSupply_lost hd]

theorem adcSample_supplied (h : 4096 ≤ 10 * v.toNat ∨ Tab.get none (s.supplySeen c v).sio.dark (c - 8) = none) :
    adcSample c v s = s.supplySeen c v :=
  (adcSample_supply h8 h12).trans (State.darkSupply_kept (h.imp_left fun hv => decide_eq_false (Nat.not_lt.2 hv)))

end

section
variable (hc : c < 8)
include hc

theorem adcSample_node :
    adcSample c v s =
      if (!bit s.sio.adcSeen c || bit ((s.nodeSeen c v).reg (soStatA (c / 2))) 6) = true then s.nodeSeen c v
      else match Tab.get none (s.nodeSeen c v).sio.dark (c / 2) with
        | some d => (s.nodeSeen c v).darkSample c d
        | none =>
          if (s.nodeSeen c v).frc < Tab.get 0 (s.nodeSeen c v).sio.changedAt (c / 2) + (s.nodeSeen c v).dtSettle then s.nodeSeen c v
          else (s.nodeSeen c v).readBack c := by
  refine (if_neg (by omega)).trans ((if_neg (by omega)).trans ?_)
  simp only [decide_eq_true_eq]
  rfl

theorem adcSample_unjudged (h : (!bit s.sio.adcSeen c) = true ∨ bit ((s.nodeSeen c v).reg (soStatA (c / 2))) 6 = true) :
    adcSample c v s = s.nodeSeen c v :=
  (adcSample_node hc).trans (if_pos (by simpa using h))

section
variable (hs : (!bit s.sio.adcSeen c) = false) (hv : bit ((s.nodeSeen c v).reg (soStatA (c / 2))) 6 = false)
include hs hv

theorem adcSample_dark {d : DarkSt} (hd : Tab.get none (s.nodeSeen c v).sio.dark (c / 2) = some d) :
    adcSample c v s = (s.nodeSeen c v).darkSample c d := by
  rw [adcSample_node hc, if_neg (by simp [hs, hv]), hd]

variable (hd : Tab.get none (s.nodeSeen c v).sio.dark (c / 2) = none)
include hd

theorem adcSample_unsettled
    (h : (s.nodeSeen c v).frc < Tab.get 0 (s.nodeSeen c v).sio.changedAt (c / 2) + (s.nodeSeen c v).dtSettle) :
    adcSample c v s = s.nodeSeen c v := by
  rw [adcSample_node hc, if_neg (by simp [hs, hv]), hd]
  exact if_pos h

theorem adcSample_settled
    (h : Tab.get 0 (s.nodeSeen c v).sio.changedAt (c / 2) + (s.nodeSeen c v).dtSettle ≤ (s.nodeSeen c v).frc) :
    adcSample c v s = (s.nodeSeen c v).readBack c := by
  rw [adcSample_node hc, if_neg (by simp [hs, hv]), hd]
  exact if_neg (Nat.not_lt.2 h)

end
end
end

/-! ### Dark tests (R255) -/

/-- The first slot in which an output's test of a switch may start. -/
def State.darkSlot (s : State) (t0 : Tick) (n : Nat) (low : Bool) : Tick :=
  t0 + n * s.dtPeriod / 8 + (if low = true then s.dtPeriod / 2 else 0)

/-- An output in its slot that is ON with both switches on and its supply present, without service access. -/
def State.darkStarts (s : State) (t0 : Tick) (n : Nat) (low : Bool) : Prop :=
  s.dtPeriod ≠ 0 ∧ s.darkSlot t0 n low ≤ s.frc ∧ (s.frc - s.darkSlot t0 n low) % s.dtPeriod = 0 ∧ s.svcAccess = false ∧
    s.regF (outStatA n) 0 2 = 1 ∧ s.hsPin n = true ∧ s.lsPin n = true ∧ bit (s.reg (soStatA n)) 6 = false

section
variable {s : State} {n : Nat} {low : Bool} {t0 : Tick}

theorem State.darkStarts_iff : s.darkStarts t0 n low ↔
    (decide (s.dtPeriod ≠ 0) && decide (s.darkSlot t0 n low ≤ s.frc) && decide ((s.frc - s.darkSlot t0 n low) % s.dtPeriod = 0)
      && !s.svcAccess && decide (s.regF (outStatA n) 0 2 = 1) && s.hsPin n && s.lsPin n && !bit (s.reg (soStatA n)) 6) = true := by
  simp [State.darkStarts, and_assoc]

theorem darkTestStart_unloaded (h : s.cyc.recLoad = none) : darkTestStart n low s = s := by simp only [darkTestStart, h]

theorem darkTestStart_starts (hr : s.cyc.recLoad = some t0) (h : s.darkStarts t0 n low) :
    darkTestStart n low s =
      (s.setSio { s.sio with dark := Tab.set none s.sio.dark n (some ⟨s.frc, low, false, 0⟩) }).drive := by
  simp only [darkTestStart, hr]
  exact if_pos (State.darkStarts_iff.1 h)

theorem darkTestStart_waits (hr : s.cyc.recLoad = some t0) (h : ¬ s.darkStarts t0 n low) : darkTestStart n low s = s := by
  simp only [darkTestStart, hr]
  exact if_neg (mt State.darkStarts_iff.2 h)

theorem darkTestTimeout_none (h : Tab.get none s.sio.dark n = none) : darkTestTimeout n s = s := by simp only [darkTestTimeout, h]

section
variable {d : DarkSt} (hd : Tab.get none s.sio.dark n = some d)
include hd

theorem darkTestTimeout_fails (h : d.start + 150000 ≤ s.frc) :
    darkTestTimeout n s =
      (s.setSio { s.sio with dark := Tab.set none s.sio.dark n none }).setLock n (s.darkCause n) (if s.darkCause n = 5 then 4 else 3) := by
  simp only [darkTestTimeout, hd, if_neg (Nat.not_lt.2 h)]

theorem darkTestTimeout_waits (h : s.frc < d.start + 150000) : darkTestTimeout n s = s := by
  simp only [darkTestTimeout, hd, if_pos h]

end
end

/-! ### The commands -/

section
variable {n : Nat} (s : State)

theorem exec_adcSample {c : Nat} (v : BitVec 12) (h : c < 16) : exec (.adcSample c v) s = .next (adcSample c v s) :=
  onUnit_next (decide_eq_true h)

theorem exec_darkTestStart (low : Bool) (h : n < 4) : exec (.darkTestStart n low) s = .next (darkTestStart n low s) :=
  onUnit_next (decide_eq_true h)

theorem exec_darkTestTimeout (h : n < 4) : exec (.darkTestTimeout n) s = .next (darkTestTimeout n s) := onUnit_next (decide_eq_true h)

end

/-- Settles O30: a conversion goes by what its channel measures, a node's by the dark test and by whether the output is settled, then by the
deviations in a row; a dark test starts by its slot and its output, and ends by the time. -/
theorem readbackAndDarkTests : Obligations.ReadbackAndDarkTests := by
  unfold Obligations.ReadbackAndDarkTests
  intro s c n v low hc hn
  rw [exec_adcSample s v hc, exec_darkTestStart s low hn, exec_darkTestTimeout s hn]
  refine ⟨⟨fun h => congrArg _ (adcSample_stored h),
      fun h8 h12 => ⟨fun d hv hd => congrArg _ (adcSample_unsupplied h8 h12 hv hd), fun h => congrArg _ (adcSample_supplied h8 h12 h)⟩,
      fun h8 => ⟨fun h => congrArg _ (adcSample_unjudged h8 h), fun hs hv =>
        ⟨fun d hd => congrArg _ (adcSample_dark h8 hs hv hd), fun hd => ⟨fun h => ?unsettled, fun ht ha he => ?settled⟩⟩⟩⟩,
    fun h => congrArg _ (darkTestStart_unloaded h),
    fun t0 hr => ⟨fun h => congrArg _ (darkTestStart_starts hr h), fun h => congrArg _ (darkTestStart_waits hr h)⟩,
    fun d hd => ⟨fun h => congrArg _ (darkTestTimeout_fails hd h), fun h => congrArg _ (darkTestTimeout_waits hd h)⟩,
    fun h => congrArg _ (darkTestTimeout_none h)⟩
  case unsettled =>
    by_cases ht : (s.nodeSeen c v).frc < Tab.get 0 (s.nodeSeen c v).sio.changedAt (c / 2) + (s.nodeSeen c v).dtSettle
    · exact congrArg _ (adcSample_unsettled h8 hs hv hd ht)
    · exact congrArg _ ((adcSample_settled h8 hs hv hd (Nat.not_lt.1 ht)).trans (State.readBack_suspended (h.resolve_left ht)))
  case settled =>
    rw [adcSample_settled h8 hs hv hd ht]
    exact ⟨fun h => congrArg _ (State.readBack_matches ha he h), fun h hk => congrArg _ (State.readBack_counts ha he h hk),
      fun h hk => congrArg _ (State.readBack_locks ha he h hk)⟩

end Sys2Proof.Machine
end

section
/-! Firmware switches of the Gatehouse (R251, R384, R385, R412): how a request is answered, and how a hold ends. -/

namespace Sys2Proof.Machine

/-- A granted switch: the hold starts, the processor's watchdog is reset and the boot ROM runs. -/
def State.switchGranted (s : State) : State :=
  let t := (s.setRegF fwswStatA 0 2 1).setRegF fwswStatA 4 3 0
  (({ t with fwHold := some t.frc }.wdReset 0).ghRom true).drive

section
variable {s : State} {w : Writer} {t0 : Tick}

theorem fwSwitch_other (h : w ≠ .pair) : fwSwitch w s = s := if_pos (Or.inl h)

theorem fwDone_other (h : w ≠ .pair) : fwDone w s = s := by
  cases hs : s.fwHold <;> simp [fwDone, hs, h]

/-! ### Outside a hold -/

section
variable (hs : s.fwHold = none)
include hs

theorem fwSwitch_denied (h : s.fwswDenied true ≠ 0) : fwSwitch .pair s = s.setRegF fwswStatA 4 3 (s.fwswDenied true) :=
  (if_neg (by simp [hs])).trans (if_pos h)

theorem fwSwitch_granted (h : s.fwswDenied true = 0) : fwSwitch .pair s = s.switchGranted :=
  (if_neg (by simp [hs])).trans (if_neg (not_not_intro h))

theorem fwDone_unheld : fwDone w s = s := by simp only [fwDone, hs]

theorem fwTimeout_unheld : fwTimeout s = s := by simp only [fwTimeout, hs]

end

/-! ### In a hold -/

section
variable (hs : s.fwHold = some t0)
include hs

theorem fwSwitch_inHold : fwSwitch w s = s := if_pos (Or.inr (by simp [hs]))

theorem fwDone_ends (ht : s.frc < t0 + 25000000) : fwDone .pair s = (s.fwEnd t0 2).drive := by
  simp only [fwDone, hs, true_and, if_pos ht]

theorem fwDone_late (ht : t0 + 25000000 ≤ s.frc) : fwDone .pair s = s := by
  simp only [fwDone, hs, true_and, if_neg (Nat.not_lt.2 ht)]

/-- A hold fails by its time or by a condition of its grant, orders apart. -/
theorem fwTimeout_inHold : fwTimeout s = if t0 + 25000000 ≤ s.frc ∨ s.fwswDenied false ≠ 0 then s.fwFail t0 else s := by
  simp only [fwTimeout, hs]

end
end

/-- Settles O45: a request goes by its writer, by the hold and by the first condition that fails; the end of a hold by its writer and its
time, and its failure by the time and the conditions. -/
theorem firmwareSwitches : Obligations.FirmwareSwitches := by
  unfold Obligations.FirmwareSwitches
  intro s w t0
  have hrequest : ∀ w, exec (.firmwareSwitchRequest w) s = .next (fwSwitch w s) := fun _ => rfl
  have hdone : ∀ w, exec (.firmwareSwitchDone w) s = .next (fwDone w s) := fun _ => rfl
  have htimeout : exec .firmwareSwitchTimeout s = .next (fwTimeout s) := rfl
  rw [hrequest, hrequest, hdone, hdone, htimeout]
  refine ⟨fun hs => ⟨fun h => congrArg _ (fwSwitch_denied hs h), fun h => congrArg _ (fwSwitch_granted hs h), congrArg _ (fwDone_unheld hs),
      congrArg _ (fwTimeout_unheld hs)⟩,
    fun hw => ⟨congrArg _ (fwSwitch_other hw), congrArg _ (fwDone_other hw)⟩,
    fun hs => ⟨congrArg _ (fwSwitch_inHold hs), fun ht => congrArg _ (fwDone_ends hs ht), fun ht => congrArg _ (fwDone_late hs ht), ?timeout⟩⟩
  case timeout =>
    rw [fwTimeout_inHold hs]
    exact ⟨fun h => congrArg _ (if_pos h),
      fun ht hd => congrArg _ (if_neg fun h => h.elim (Nat.not_le.2 ht) (not_not_intro hd))⟩

end Sys2Proof.Machine
end

section
/-! The Gatehouse and the I/O die (R242, R257, R278, R303, R365, R366, R385, R389, R392, R393, R400, R411, R491): what a power-on leaves of
memory, resets, the safety record, the I/O die's release and reset, rails and clocks. -/

namespace Sys2Proof.Machine

/-! ### What leaves memory alone: loops, events and reports -/

section
variable {s : State}

/-- A loop of steps that leave memory alone leaves it alone. -/
theorem foldl_mem {α : Type} {f : State → α → State} (h : ∀ t x, (f t x).mem = t.mem) (l : List α) (s : State) :
    (l.foldl f s).mem = s.mem :=
  (List.foldl_hom State.mem (g₁ := f) (g₂ := fun m _ => m) fun t x => (h t x).symm).symm.trans (List.foldl_fixed l)

/-- Memory where a condition decides between two states. -/
theorem ite_mem {m : Tab Byte} {c : Prop} {_ : Decidable c} {t u : State} (ht : t.mem = m) (hu : u.mem = m) : (if c then t else u).mem = m := by
  split <;> assumption

@[simp] theorem State.icuEvent_mem {i n : Nat} : (s.icuEvent i n).mem = s.mem := ite_mem rfl (ite_mem rfl rfl)

@[simp] theorem State.icuLineTo_mem {i n : Nat} {level : Bool} : (s.icuLineTo i n level).mem = s.mem := ite_mem State.icuEvent_mem rfl

@[simp] theorem State.icuPulse_mem {i n : Nat} : (s.icuPulse i n).mem = s.mem := by simp [State.icuPulse]

@[simp] theorem State.fcClear_mem {k : Nat} : (s.fcClear k).mem = s.mem := by
  have hlatch : ((clsGroups k).foldl (fun t g => t.fcLatch g false) s).mem = s.mem := foldl_mem (fun _ _ => by rfl) _ _
  exact State.icuPulse_mem.trans (ite_mem hlatch hlatch)

@[simp] theorem State.fcQuiet_mem {k : Nat} : (s.fcQuiet k).mem = s.mem :=
  ite_mem rfl (ite_mem State.icuPulse_mem State.fcClear_mem)

@[simp] theorem State.evidence_mem {k : EvKind} : (s.evidence k).mem = s.mem := rfl

@[simp] theorem State.faultNote_mem {g lvl : Nat} : (s.faultNote g lvl).mem = s.mem := rfl

@[simp] theorem State.fcLatch_mem {g : Nat} {v : Bool} : (s.fcLatch g v).mem = s.mem := rfl

@[simp] theorem State.setFcClass_mem {k : Nat} {c : FcCls} : (s.setFcClass k c).mem = s.mem := rfl

@[simp] theorem State.countN_mem {a n : Nat} : (s.countN a n).mem = s.mem := rfl

@[simp] theorem State.count_mem {a : Nat} : (s.count a).mem = s.mem := rfl

@[simp] theorem State.fcEvent_mem {g : Nat} {src : Option (Nat × Nat)} {injected forced : Bool} {loc : Option Loc} :
    (s.fcEvent g src injected forced loc).mem = s.mem := by
  unfold State.fcEvent
  extract_lets k q old c again before gs lvl wasLatched q0 q1 q2 q3 src0 t0 src1 t1 t2 t3 t4 located evident noted
  have hlocated : located.mem = s.mem := by
    unfold located
    split <;> simp [t0, t1, t2, t3, t4, src0, q]
  clear_value located
  have hevident : evident.mem = s.mem := by
    unfold evident
    exact ite_mem (ite_mem hlocated ((foldl_mem (fun _ _ => State.evidence_mem) _ _).trans hlocated)) hlocated
  clear_value evident
  have hnoted : noted.mem = s.mem := State.faultNote_mem.trans hevident
  clear_value noted
  exact ite_mem State.fcQuiet_mem (ite_mem (State.icuPulse_mem.trans hnoted) hnoted)

@[simp] theorem State.ghWordBad_mem : s.ghWordBad.mem = s.mem := State.fcEvent_mem

/-! ### What leaves memory alone: the eFlash, the boot ROM and a power-on (R303, R393, R411, R412) -/

@[simp] theorem State.flashRead_mem {i : Nat} : (s.flashRead i).2.mem = s.mem := by
  unfold State.flashRead
  extract_lets es
  split
  · exact State.ghWordBad_mem
  · rfl

@[simp] theorem State.ghRom_mem {ok : Bool} : (s.ghRom ok).mem = s.mem := by
  unfold State.ghRom
  extract_lets x t
  have hother : (if x.try_ then t.flashRead (1 - x.active) else ([], t)).2.mem = s.mem := by
    split
    · exact State.flashRead_mem
    · rfl
  generalize (if x.try_ then t.flashRead (1 - x.active) else ([], t)) = other at hother ⊢
  have hactive : (other.2.flashRead x.active).2.mem = s.mem := State.flashRead_mem.trans hother
  dsimp only
  split_ifs <;> exact hactive

@[simp] theorem State.calApply_mem {i : Nat} : (s.calApply i).mem = s.mem := by
  unfold State.calApply
  split <;> rfl

@[simp] theorem State.setLatches_mem {mask cause : Nat} : (s.setLatches mask cause).mem = s.mem := foldl_mem (fun _ _ => by rfl) _ _

/-- What follows the fresh start of a power-on leaves memory alone. -/
theorem bringUp_mem {a : Nat} {v : W32} {l : List Nat} {ok : Bool} (t : State) :
    (((((l.foldl State.calApply t).setReg a v).setLatches 15 lcReset).ghRom ok)).mem = t.mem := by
  rw [State.ghRom_mem, State.setLatches_mem, State.setReg_mem, foldl_mem (fun _ _ => State.calApply_mem)]

/-- A power-on drops what memory held. -/
theorem State.powerOn_mem {ok : Bool} : (s.powerOn ok).mem = [] := bringUp_mem _

end

/-! ### Resets of the Gatehouse (R366, R385, R422) -/

section
variable {s : State} {k : Nat} {ok : Bool}

theorem gatehouseReset_resets (h : (1 ≤ k ∧ k ≤ 3) ∨ (k = 4 ∧ bit s.sec.scopes 3 = true)) : gatehouseReset k ok s = s.ghReset k ok := by
  refine if_neg ?_
  rcases h with ⟨hlo, hhi⟩ | ⟨rfl, hscope⟩
  · omega
  · simp [hscope]

theorem gatehouseReset_ignored (h : k = 0 ∨ 4 < k ∨ (k = 4 ∧ bit s.sec.scopes 3 = false)) : gatehouseReset k ok s = s := if_pos h

end

/-! ### The safety record (R172, R242, R257, R491) -/

/-- Evaluation starts: the resume button arms, and the first boundary is the first multiple of the control cycle, a verdict instant. -/
def State.evaluationStarted (s : State) : State :=
  let t := s.armResume
  let p := 500 * t.cyc.us
  { t with cyc := { t.cyc with recLoad := some t.frc, next := some ((t.frc + p - 1) / p * p), since := t.cyc.verdictCycles - 1 } }.drive

/-- A valid record from the image of its copy: measured, loaded, and its pairs started. -/
def State.recordTaken (s : State) (img : List Byte) (rec : SafetyRecord) : State :=
  (({ s with sec := { s.sec with recHdr := img.take 64 } }.mrExtend 1 2 (sha256 (img.take 64))).loadRecord rec).startPairs

/-- What a load does before evaluation starts: the copy that passes is taken where its record is valid. -/
def State.recordEffect (s : State) : Option SafetyRecord → State
  | none => s
  | some rec =>
    match s.recCopy with
    | (some img, u) => if recordOk rec then u.recordTaken img rec else u
    | (none, u) => u

section
variable {s u : State} {r : Option SafetyRecord} {rec : SafetyRecord} {img : List Byte}

theorem State.recordEffect_unreadable (hc : s.recCopy = (none, u)) : s.recordEffect (some rec) = u := by
  simp only [State.recordEffect, hc]

theorem State.recordEffect_valid (hc : s.recCopy = (some img, u)) (hr : recordOk rec = true) :
    s.recordEffect (some rec) = u.recordTaken img rec := by
  simp only [State.recordEffect, hc, if_pos hr]

theorem State.recordEffect_invalid (hc : s.recCopy = (some img, u)) (hr : recordOk rec = false) : s.recordEffect (some rec) = u := by
  simp only [State.recordEffect, hc, hr, Bool.false_eq_true, if_false]

theorem recordLoad_ignored (h : s.ghUp = false ∨ s.cyc.recLoad.isSome = true) : recordLoad r s = s := if_pos (by simpa using h)

/-- A load acts once per reset, with the Gatehouse up. -/
theorem recordLoad_acts (hup : s.ghUp = true) (hload : s.cyc.recLoad = none) :
    recordLoad r s = (s.recordEffect r).evaluationStarted := by
  refine (if_neg (by simp [hup, hload])).trans ?_
  cases r with
  | none => rfl
  | some rec => rfl

end

/-! ### The I/O die (R365, R366, R385, R392, R400) -/

/-- The I/O die leaves reset, and its boot ROM waits for the credentials. -/
def State.ioReleased (s : State) : State :=
  let t := (s.setRegF ghIoCtrlA 0 1 1).setRegF (gkBootPage + 0x040) 0 4 3
  { t with gk := { t.gk with released := some t.frc, romWait := true },
           sec := { t.sec with releases := t.sec.releases + 1, measRead := false } }.ioLost 1 false

section
variable {s : State} {w : Writer}

theorem ioDieRelease_releases (hw : ioCtrlMay w = true) (h : s.gk.released = none) : ioDieRelease w s = s.ioReleased :=
  if_neg (by simp [hw, h])

theorem ioDieRelease_ignored (h : ioCtrlMay w = false ∨ s.gk.released.isSome = true) : ioDieRelease w s = s := if_pos (by simpa using h)

theorem ioDieReset_resets (hw : ioCtrlMay w = true) (h : bit (s.reg ghIoCtrlA) 0 = true) : ioDieReset w s = s.ioDown :=
  if_pos (by simp [hw, h])

theorem ioDieReset_ignored (h : ioCtrlMay w = false ∨ bit (s.reg ghIoCtrlA) 0 = false) : ioDieReset w s = s :=
  if_neg (by rcases h with h | h <;> simp [h])

theorem ioThermal_resets {t0 : Tick} (h : s.gk.released = some t0) : ioThermal s = s.ioReset.ioLost 1 true := if_pos (by simp [h])

theorem ioThermal_ignored (h : s.gk.released = none) : ioThermal s = s := if_neg (by simp [h])

end

/-! ### Rails (R389, R392) -/

/-- What a channel's sample in mV reads under its calibration. -/
def State.railValue (s : State) (c mv : Nat) : Nat := mv * (s.calEff (121 + c)).1.toNat / 65536

/-- A value inside a channel's fault window. -/
def railInside (c v : Nat) : Prop := (railWindow c).1 ≤ v ∧ v ≤ (railWindow c).2

theorem railInside_iff {c v : Nat} : railInside c v ↔ (decide ((railWindow c).1 ≤ v) && decide (v ≤ (railWindow c).2)) = true := by
  simp [railInside]

/-- Whether a channel is watched: one of a compute die while it is armed, one of the I/O die while that is released. -/
def State.railWatched (s : State) (c : Nat) : Bool := if c < 10 then s.armed c else bit (s.reg ghIoCtrlA) 0

theorem State.railWatched_iff {s : State} {c : Nat} :
    s.railWatched c = true ↔ if c < 10 then s.armed c = true else bit (s.reg ghIoCtrlA) 0 = true := by
  unfold State.railWatched
  split <;> rfl

/-- The channel of a die that is off, or under an order, is not to be armed. -/
def State.railIdle (s : State) (c : Nat) : Prop := 10 ≤ c ∨ s.killed = true ∨ s.dieOrdered (c / 5) = true

/-- A sample of a channel that is not watched, inside its window since a tick, if at all. -/
def State.railUnwatched (s : State) (c mv : Nat) (since : Option Tick) : State := s.setRail c ⟨satN 16 (s.railValue c mv), 0, since⟩

/-- A sample of a channel that is watched, with its samples outside the window in a row. -/
def State.railSampled (s : State) (c mv out : Nat) : State := s.setRail c { s.rail c with mv := satN 16 (s.railValue c mv), out := out }

/-- Since when a channel has been inside its window: now, where the sample before was not. -/
def State.insideFrom (s : State) (c : Nat) : Tick :=
  match (s.rail c).inside with
  | some x => x
  | none => s.frc

theorem State.insideFrom_eq {s : State} {c : Nat} : s.insideFrom c = (s.rail c).inside.getD s.frc := by
  unfold State.insideFrom
  cases (s.rail c).inside <;> rfl

/-- Since when a sample that is inside its window has been there without a sample outside. -/
def State.railSince (s : State) (c mv : Nat) : Option Tick :=
  if (decide ((railWindow c).1 ≤ s.railValue c mv) && decide (s.railValue c mv ≤ (railWindow c).2)) = true then
    some ((s.rail c).inside.getD s.frc)
  else none

/-- A channel that is not watched is armed once it has been inside its window for 1 ms. -/
def State.railArming (s : State) (c mv : Nat) (since : Option Tick) : State :=
  let t := s.railUnwatched c mv since
  match since with
  | some t0 => if t0 + 500000 ≤ s.frc then t.setRegF (ghPwrPage + 0x044) (16 + c) 1 1 else t
  | none => t

section
variable {s : State} {c mv : Nat}

theorem State.railSince_inside (h : railInside c (s.railValue c mv)) : s.railSince c mv = some (s.insideFrom c) :=
  (if_pos (railInside_iff.1 h)).trans (congrArg some State.insideFrom_eq.symm)

theorem State.railSince_outside (h : ¬ railInside c (s.railValue c mv)) : s.railSince c mv = none := if_neg (mt railInside_iff.2 h)

section
variable (hon : s.railWatched c = true)
include hon

theorem railSample_watched :
    railSample c mv s =
      let out := if (decide ((railWindow c).1 ≤ s.railValue c mv) && decide (s.railValue c mv ≤ (railWindow c).2)) = true then 0
        else min 3 ((s.rail c).out + 1)
      if out = 3 ∧ (s.rail c).out < 3 then (s.railSampled c mv out).railFault c else s.railSampled c mv out := if_pos hon

theorem railSample_inside (h : railInside c (s.railValue c mv)) : railSample c mv s = s.railSampled c mv 0 := by
  rw [railSample_watched hon, if_pos (railInside_iff.1 h)]
  exact if_neg (by simp)

section
variable (h : ¬ railInside c (s.railValue c mv))
include h

theorem railSample_third (ho : (s.rail c).out = 2) : railSample c mv s = (s.railSampled c mv 3).railFault c := by
  rw [railSample_watched hon, if_neg (mt railInside_iff.2 h), ho]
  exact if_pos (by decide)

theorem railSample_outside (ho : (s.rail c).out ≠ 2) : railSample c mv s = s.railSampled c mv (min 3 ((s.rail c).out + 1)) := by
  rw [railSample_watched hon, if_neg (mt railInside_iff.2 h)]
  exact if_neg (by omega)

end
end

section
variable (hoff : ¬ s.railWatched c = true)
include hoff

theorem railSample_idle (h : s.railIdle c) : railSample c mv s = s.railUnwatched c mv none := (if_neg hoff).trans (if_pos h)

variable (h : ¬ s.railIdle c)
include h

theorem railSample_unwatched : railSample c mv s = s.railArming c mv (s.railSince c mv) := (if_neg hoff).trans (if_neg h)

theorem railSample_unready (hi : ¬ railInside c (s.railValue c mv)) : railSample c mv s = s.railUnwatched c mv none := by
  rw [railSample_unwatched hoff h, State.railSince_outside hi]
  rfl

section
variable (hi : railInside c (s.railValue c mv))
include hi

theorem railSample_arms (ht : s.insideFrom c + 500000 ≤ s.frc) :
    railSample c mv s =
      (s.railUnwatched c mv (some (s.insideFrom c))).setRegF (ghPwrPage + 0x044) (16 + c) 1 1 := by
  rw [railSample_unwatched hoff h, State.railSince_inside hi]
  exact if_pos ht

theorem railSample_waits (ht : s.frc < s.insideFrom c + 500000) :
    railSample c mv s = s.railUnwatched c mv (some (s.insideFrom c)) := by
  rw [railSample_unwatched hoff h, State.railSince_inside hi]
  exact if_neg (Nat.not_le.2 ht)

end
end

/-- A channel that is not armed within 10 ms of its die's release. -/
def State.railLate (s : State) (c : Nat) : Prop :=
  ∃ x, Tab.get none s.pwr.armFrom (c / 5) = some x ∧ s.armed c = false ∧ s.killed = false ∧ x + 5000000 ≤ s.frc

theorem railArmTimeout_faults (h : s.railLate c) : railArmTimeout c s = s.railFault c := by
  obtain ⟨x, hx, hlate⟩ := h
  simp only [railArmTimeout, hx, if_pos hlate]

theorem railArmTimeout_ignored (h : ¬ s.railLate c) : railArmTimeout c s = s := by
  cases hx : Tab.get none s.pwr.armFrom (c / 5) with
  | none => simp only [railArmTimeout, hx]
  | some x => simp only [railArmTimeout, hx, if_neg fun hlate => h ⟨x, hx, hlate⟩]

end

/-! ### Clocks (R278) -/

/-- The windows in a row in which a clock was bad. -/
def State.setClkBad (s : State) (c n : Nat) : State := { s with clkBad := Tab.set 0 s.clkBad c n }

section
variable {s : State} {c n : Nat} {ok : Bool} (hn : Tab.get 0 s.clkBad c = n)
include hn

theorem clockWindow_bad :
    clockWindow c false ok s =
      let t := s.setClkBad c (min 4 (n + 1))
      if n ≠ 3 then t
      else if c < 2 then (t.extHigh (16 * (30 + c)) true).fcEvent (30 + c) none false false none
      else if c = 2 then t.ioLost 2 true
      else t.ghReset 3 ok := by
  subst hn
  rfl

end

theorem clockWindow_good {s : State} {c : Nat} {ok : Bool} :
    clockWindow c true ok s =
      let g := s.setClkBad c 0
      if c < 2 then s.withFalls (g.extHigh (16 * (30 + c)) false) else if c = 2 then g.ioLost 2 false else g := rfl

/-! ### The commands -/

section
variable {c : Nat} (s : State)

theorem exec_railMonitorSample (mv : Nat) (h : c < 13) : exec (.railMonitorSample c mv) s = .next (railSample c mv s) :=
  onUnit_next (decide_eq_true h)

theorem exec_railArmTimeout (h : c < 10) : exec (.railArmTimeout c) s = .next (railArmTimeout c s) := onUnit_next (decide_eq_true h)

theorem exec_clockMonitorWindow (good ok : Bool) (h : c < 5) : exec (.clockMonitorWindow c good ok) s = .next (clockWindow c good ok s) :=
  onUnit_next (decide_eq_true h)

end

/-- The two power-ons start the part anew: FRC from 0, the queue as it was, and memory empty. -/
theorem exec_powerOn_fresh (s : State) (ok : Bool) :
    ∃ t, exec (.gatehousePowerOn ok) s = .next t ∧ exec (.brownOutRecovery ok) s = .next t ∧ t.frc = 0 ∧ t.pending = s.pending ∧
      t.mem = [] := by
  obtain ⟨hpending, hfrc, -⟩ := s.powerOn_form ok
  exact ⟨s.powerOn ok, rfl, rfl, hfrc, hpending, State.powerOn_mem⟩

/-- Settles O43: the power-ons by what they start, the resets by their cause, a record's load by the reset and by the copy that passes, the
I/O die by the writer and by its state, a rail's sample by whether the channel is watched and what it reads, and a clock's window by the
windows before it and by the clock. -/
theorem gatehouseAndIoDie : Obligations.GatehouseAndIoDie := by
  unfold Obligations.GatehouseAndIoDie
  intro s w ok c mv n k rec t0
  have hreset : exec (.gatehouseReset k ok) s = .next (gatehouseReset k.toNat ok s) := rfl
  have hload : ∀ r, exec (.safetyRecordLoad r) s = .next (recordLoad r s) := fun _ => rfl
  have hrelease : exec (.ioDieRelease w) s = .next (ioDieRelease w s) := rfl
  have hioReset : exec (.ioDieReset w) s = .next (ioDieReset w s) := rfl
  have hthermal : exec .ioDieThermalReset s = .next (ioThermal s) := rfl
  rw [hreset, hload, hload, hrelease, hioReset, hthermal]
  refine ⟨exec_powerOn_fresh s ok, fun h => congrArg _ (gatehouseReset_resets h), fun h => congrArg _ (gatehouseReset_ignored h), rfl,
    ?load, fun h => ?loaded,
    fun hw => ⟨fun h => congrArg _ (ioDieRelease_releases hw h), fun h => congrArg _ (ioDieRelease_ignored (.inr (by simp [h]))),
      fun h => congrArg _ (ioDieReset_resets hw h), fun h => congrArg _ (ioDieReset_ignored (.inr h))⟩,
    fun hw => ⟨congrArg _ (ioDieRelease_ignored (.inl hw)), congrArg _ (ioDieReset_ignored (.inl hw))⟩,
    fun h => congrArg _ (ioThermal_resets h), fun h => congrArg _ (ioThermal_ignored h), fun hc => ?sample, fun hc => ?late,
    fun hc hn => ?clock⟩
  case load =>
    intro first hup hl
    have hfirst : ∀ t, first t = t.evaluationStarted := fun _ => rfl
    clear_value first
    simp only [recordLoad_acts hup hl, hfirst]
    exact ⟨rfl, fun u hu => by rw [State.recordEffect_unreadable hu],
      fun img u hu => ⟨fun hr => by rw [State.recordEffect_valid hu hr]; rfl, fun hr => by rw [State.recordEffect_invalid hu hr]⟩⟩
  case loaded =>
    have hskip : s.ghUp = false ∨ s.cyc.recLoad.isSome = true := h.imp_right fun hl => by simp [hl]
    exact ⟨congrArg _ (recordLoad_ignored hskip), congrArg _ (recordLoad_ignored hskip)⟩
  case sample =>
    rw [exec_railMonitorSample s mv hc]
    have hoff := mt (State.railWatched_iff (s := s) (c := c)).1
    refine ⟨fun hon hi => congrArg _ (railSample_inside (State.railWatched_iff.2 hon) hi),
      fun hon hi ho => congrArg _ (railSample_third (State.railWatched_iff.2 hon) hi ho),
      fun hon hi ho => congrArg _ (railSample_outside (State.railWatched_iff.2 hon) hi ho),
      fun hon h => congrArg _ (railSample_idle (hoff hon) h), fun hon hdie hk ho => ?_⟩
    have hready : ¬ s.railIdle c := by simp [State.railIdle, hdie, hk, ho]
    exact ⟨fun hi => congrArg _ (railSample_unready (hoff hon) hready hi),
      fun hi => ⟨fun ht => congrArg _ (railSample_arms (hoff hon) hready hi ht),
        fun ht => congrArg _ (railSample_waits (hoff hon) hready hi ht)⟩⟩
  case late =>
    rw [exec_railArmTimeout s hc]
    exact ⟨fun h => congrArg _ (railArmTimeout_faults h), fun h => congrArg _ (railArmTimeout_ignored h)⟩
  case clock =>
    rw [exec_clockMonitorWindow s false ok hc, exec_clockMonitorWindow s true ok hc, clockWindow_bad hn, clockWindow_good]
    refine ⟨fun h3 => congrArg _ (if_pos h3), fun h3 h2 => ?_, fun h3 h2 => ?_, fun h3 h2 => ?_, fun h2 => ?_, fun h2 => ?_, fun h2 => ?_⟩
    · exact congrArg _ ((if_neg (not_not_intro h3)).trans (if_pos h2))
    · exact congrArg _ ((if_neg (not_not_intro h3)).trans ((if_neg (by omega)).trans (if_pos h2)))
    · exact congrArg _ ((if_neg (not_not_intro h3)).trans ((if_neg (by omega)).trans (if_neg (by omega))))
    · exact congrArg _ (if_pos h2)
    · exact congrArg _ ((if_neg (by omega)).trans (if_pos h2))
    · exact congrArg _ ((if_neg (by omega)).trans (if_neg (by omega)))
end Sys2Proof.Machine
end

section
/-! The step (R303): the front command runs, an idle step counts one tick, and no command moves the queue or, a power-on apart, FRC. -/

namespace Sys2Proof.Machine

/-- With a command at the front a step is that command on the queue's rest. -/
theorem step_cons (c : Instr) (rest : List Instr) (s : State) :
    step { s with pending := c :: rest } = exec c { s with pending := rest } := rfl

/-- With nothing commanded a step is a tick. -/
theorem step_idle {s : State} (h : s.pending = []) : step s = .next s.idle := by rw [step, h]

/-- Settles O1: that is what `step` does with a queue that has a front (`step_cons`). -/
theorem stepRunsFront : Obligations.StepRunsFront := by
  unfold Obligations.StepRunsFront
  exact step_cons

/-- Settles O56: the other branch of `step` (`step_idle`). -/
theorem idleStep : Obligations.IdleStep := by
  unfold Obligations.IdleStep
  exact fun _ => step_idle

/-- Settles O58: a power-on starts FRC from 0 (`exec_powerOn_form`), and any other command holds queue and clock (`exec_held`). -/
theorem queueAndClockKept : Obligations.QueueAndClockKept := by
  unfold Obligations.QueueAndClockKept
  intro c s t h
  refine ⟨?_, fun hc => (exec_held hc h).frc, fun ok hc => (exec_powerOn_form hc h).2.1⟩
  by_cases hc : ∃ ok, c = .gatehousePowerOn ok ∨ c = .brownOutRecovery ok
  · obtain ⟨ok, hp⟩ := hc
    exact (exec_powerOn_form hp h).1
  · have hn : ∀ ok, c ≠ .gatehousePowerOn ok ∧ c ≠ .brownOutRecovery ok := by simpa [not_or] using hc
    exact (exec_held hn h).pending

end Sys2Proof.Machine
end

section
/-! Watchdogs (R273 to R278, R429): configuration by the watched processor, keys, bites and what they reset, and debug halts. -/

namespace Sys2Proof.Machine

/-! ### Configuration (R273, R275 to R277) -/

section
variable {s : State} {x : Writer} {w : Nat} {close : Bool} {v : W32}

theorem wdCtrlWrite_other (h : wdOwner x w = false) : wdCtrlWrite x w v s = s := if_pos (by simp [h])

theorem wdWindowWrite_other (h : wdOwner x w = false) : wdWindowWrite x w close v s = s := if_pos (by simp [h])

theorem wdBiteClr_other (h : wdOwner x w = false) : wdBiteClr x w v s = s := if_pos (by simp [h])

section
variable (hx : wdOwner x w = true)
include hx

theorem wdCtrlWrite_starts (h : (s.wd w).started = false) : wdCtrlWrite x w v s = (s.wdTouch w).wdStart w v :=
  (if_neg (by simp [hx])).trans (if_pos (by simp [h]))

theorem wdCtrlWrite_started (h : (s.wd w).started = true) :
    wdCtrlWrite x w v s =
      let t := s.wdTouch w
      if (!wdClassD w && s.wdInWindow w) = true then
        (t.setWd w { t.wd w with heldCtrl := some (v &&& 0xF#32) }).setRegF (wdStatA w) 7 1 1
      else t :=
  (if_neg (by simp [hx])).trans (if_neg (by simp [h]))

/-- A class D watchdog takes each of WD_OPEN and WD_CLOSE once. -/
theorem wdWindowWrite_classD (h : wdClassD w = true) :
    wdWindowWrite x w close v s =
      let t := s.wdTouch w
      if (if close = true then (s.wd w).wroteClose else (s.wd w).wroteOpen) = true then t
      else
        let u := t.setReg (if close = true then wdCloseA w else wdOpenA w) (v &&& 0xFFFFFF#32)
        u.setWd w (if close = true then { t.wd w with wroteClose := true } else { t.wd w with wroteOpen := true }) :=
  (if_neg (by simp [hx])).trans (if_pos h)

/-- A class S watchdog takes them while OFF and holds them inside its window. -/
theorem wdWindowWrite_classS (h : wdClassD w = false) :
    wdWindowWrite x w close v s =
      let a := if close = true then wdCloseA w else wdOpenA w
      let v24 := v &&& 0xFFFFFF#32
      let t := s.wdTouch w
      if s.wdState w = wdOff then s.setReg a v24
      else if s.wdInWindow w = true then
        (t.setWd w (if close = true then { t.wd w with heldClose := some v24 } else { t.wd w with heldOpen := some v24 })).setRegF
          (wdStatA w) 7 1 1
      else t :=
  (if_neg (by simp [hx])).trans (if_neg (by simp [h]))

theorem wdBiteClr_owner :
    wdBiteClr x w v s =
      if bit v 0 = true then ((s.wdTouch w).setRegF (wdStatA w) 4 3 0).setReg (wdPage w + 0x058) 0 else s.wdTouch w :=
  if_neg (by simp [hx])

end
end

/-! ### Keys (R273, R274) -/

/-- Who may write WD_KEY. -/
def wdKeyOwner (x : Writer) (w : Nat) : Prop := if w = 1 then x = .tsm else wdOwner x w = true

theorem wdKeyOwner_iff {x : Writer} {w : Nat} : wdKeyOwner x w ↔ (if w = 1 then decide (x = .tsm) else wdOwner x w) = true := by
  unfold wdKeyOwner
  split <;> simp

section
variable {s : State} {x : Writer} {w k : Nat} {v : W32}

theorem wdKeyWrite_owner (h : wdKeyOwner x w) : wdKeyWrite x w v s = s.wdKey w (fld v 0 16) := if_pos (wdKeyOwner_iff.1 h)

theorem wdKeyWrite_other (h : ¬ wdKeyOwner x w) : wdKeyWrite x w v s = s := if_neg (mt wdKeyOwner_iff.2 h)

theorem State.wdKey_off (h : s.wdState w = wdOff ∨ s.wdState w = wdBitten) : s.wdKey w k = s := if_pos h

section
variable (hoff : s.wdState w ≠ wdOff) (hbit : s.wdState w ≠ wdBitten)
include hoff hbit

theorem State.wdKey_due {c : Nat} (h : s.wdDue w = some c) : s.wdKey w k = s.wdBite w c :=
  (if_neg (not_or.2 ⟨hoff, hbit⟩)).trans (by rw [h])

variable (hdue : s.wdDue w = none)
include hdue

theorem State.wdKey_intime :
    s.wdKey w k =
      if (!bit (s.reg (wdStatA w)) 2) = true then
        if k = 0x6D2B then (s.setRegF (wdStatA w) 2 1 1).setWd w { s.wd w with broken := false } else s.wdBite w causeKey
      else if k ≠ 0x92D4 ∨ (s.wd w).broken = true then s.wdBite w causeKey
      else if s.wdCount w < s.regF (wdOpenA w) 0 24 then s.wdBite w causeEarly
      else s.wdAccept w :=
  (if_neg (not_or.2 ⟨hoff, hbit⟩)).trans (by rw [hdue])

theorem State.wdKey_first (h : bit (s.reg (wdStatA w)) 2 = false) :
    s.wdKey w k =
      if k = 0x6D2B then (s.setRegF (wdStatA w) 2 1 1).setWd w { s.wd w with broken := false } else s.wdBite w causeKey :=
  (State.wdKey_intime hoff hbit hdue).trans (if_pos (by simp [h]))

section
variable (h : bit (s.reg (wdStatA w)) 2 = true)
include h

theorem State.wdKey_second_wrong (hk : k ≠ 0x92D4 ∨ (s.wd w).broken = true) : s.wdKey w k = s.wdBite w causeKey :=
  (State.wdKey_intime hoff hbit hdue).trans ((if_neg (by simp [h])).trans (if_pos hk))

/-- The second key is an accepted service from OPEN on. -/
theorem State.wdKey_second (hk : k = 0x92D4) (hbroken : (s.wd w).broken = false) :
    s.wdKey w k = if s.wdCount w < s.regF (wdOpenA w) 0 24 then s.wdBite w causeEarly else s.wdAccept w :=
  (State.wdKey_intime hoff hbit hdue).trans ((if_neg (by simp [h])).trans (if_neg (by simp [hk, hbroken])))

end
end

/-! ### Bites (R274, R277) -/

theorem wdTimeout_due (h : s.wdDue w = some k) : wdTimeout w s = s.wdBite w k := by rw [wdTimeout, h]

theorem wdTimeout_intime (h : s.wdDue w = none) : wdTimeout w s = s := by rw [wdTimeout, h]

theorem wdCoreReset_waits (h : s.wdState (2 + k) ≠ wdBitten ∨ s.frc < (s.wd (2 + k)).biteAt + 5000000) : wdCoreReset k s = s :=
  if_neg fun hc => h.elim (fun hb => hb hc.1) (Nat.not_lt.2 hc.2)

/-- A class S bite resets the Gatehouse 10 microseconds after its next boundary. -/
def State.wdResetDue (s : State) (w : Nat) : Bool :=
  decide (s.wdState w = wdBitten) && (match (s.wd w).boundary with
    | some b => decide (b + 5000 ≤ s.frc)
    | none => false)

theorem State.wdResetDue_iff : s.wdResetDue w = true ↔
    s.wdState w = wdBitten ∧ ∃ b, (s.wd w).boundary = some b ∧ b + 5000 ≤ s.frc := by
  cases h : (s.wd w).boundary <;> simp [State.wdResetDue, h]

theorem wdGatehouseReset_eq {ok : Bool} :
    wdGatehouseReset ok s = if (s.wdResetDue 0 || s.wdResetDue 1) = true then s.ghReset 2 ok else s := rfl

/-! ### Debug (R275, R276) -/

theorem debugHalt_eq {cross : Bool} :
    debugHalt w cross s =
      let t := { s with dbgHalted := Tab.set false s.dbgHalted w true }
      if wdClassD w = true ∧ cross = false ∧ s.wdState w = wdRunning then
        (t.setWd w { s.wd w with counted := s.wdElapsed w }).setWdState w wdFrozen
      else t := by
  simp [debugHalt, and_assoc]

end

/-! ### The commands -/

section
variable {w : Nat} (s : State) (x : Writer) (v : W32) (hw : w < 14)
include hw

theorem exec_wdCtrlWrite : exec (.wdCtrlWrite x w v) s = .next (wdCtrlWrite x w v s) := onUnit_next (decide_eq_true hw)

theorem exec_wdWindowWrite (close : Bool) : exec (.wdWindowWrite x w close v) s = .next (wdWindowWrite x w close v s) :=
  onUnit_next (decide_eq_true hw)

theorem exec_wdBiteClr : exec (.wdBiteClr x w v) s = .next (wdBiteClr x w v s) := onUnit_next (decide_eq_true hw)

theorem exec_wdKey : exec (.wdKey x w v) s = .next (wdKeyWrite x w v s) := onUnit_next (decide_eq_true hw)

theorem exec_watchdogTimeout : exec (.watchdogTimeout w) s = .next (wdTimeout w s) := onUnit_next (decide_eq_true hw)

theorem exec_debugHalt (cross : Bool) : exec (.debugHalt w cross) s = .next (debugHalt w cross s) := onUnit_next (decide_eq_true hw)

theorem exec_debugResume : exec (.debugResume w) s = .next (debugResume w s) := onUnit_next (decide_eq_true hw)

end

theorem exec_watchdogCoreReset {c : Nat} (s : State) (h : c < 4) : exec (.watchdogCoreReset c) s = .next (wdCoreReset c s) :=
  onUnit_next (decide_eq_true h)

/-- Settles O33: a write of configuration by its writer, its class and the window, a key by the state, the keys before it and the count,
a bite's resets by the time since it, and a debug halt by the class and by how it came. -/
theorem watchdogs : Obligations.Watchdogs := by
  unfold Obligations.Watchdogs
  intro s x w c close cross imageOk v hw hc
  have hreset : exec (.watchdogGatehouseReset imageOk) s = .next (wdGatehouseReset imageOk s) := rfl
  rw [exec_wdCtrlWrite s x v hw, exec_wdWindowWrite s x v hw close, exec_wdBiteClr s x v hw, exec_wdKey s x v hw,
    exec_watchdogTimeout s hw, exec_watchdogCoreReset s hc, hreset, exec_debugHalt s hw, exec_debugResume s hw, debugHalt_eq]
  refine ⟨⟨fun hx => ?config, fun hx => ⟨congrArg _ (wdCtrlWrite_other hx), congrArg _ (wdWindowWrite_other hx),
      congrArg _ (wdBiteClr_other hx)⟩⟩,
    ⟨fun hx => congrArg _ (wdKeyWrite_other hx), fun hx => ?key⟩,
    fun k h => congrArg _ (wdTimeout_due h), fun h => congrArg _ (wdTimeout_intime h),
    fun hb ht => congrArg _ (if_pos ⟨hb, ht⟩), fun h => congrArg _ (wdCoreReset_waits h), ?gatehouse,
    fun h => congrArg _ (if_pos h), fun h => congrArg _ (if_neg h), fun h => congrArg _ (if_pos h), fun h => congrArg _ (if_neg h)⟩
  case config =>
    refine ⟨fun h => congrArg _ (wdCtrlWrite_starts hx h), fun h hd hin => ?_, fun h hin => ?_, fun hd => ?_, fun hd => ?_, ?_⟩
    · rw [wdCtrlWrite_started hx h]
      exact congrArg _ (if_pos (by simp [hd, hin]))
    · rw [wdCtrlWrite_started hx h]
      exact congrArg _ (if_neg (by rcases hin with hin | hin <;> simp [hin]))
    · rw [wdWindowWrite_classD hx hd]
      exact ⟨fun h => congrArg _ (if_pos h), fun h => congrArg _ (if_neg (Bool.eq_false_iff.1 h))⟩
    · rw [wdWindowWrite_classS hx hd]
      exact ⟨fun h => congrArg _ (if_pos h), fun h hin => congrArg _ ((if_neg h).trans (if_pos hin)),
        fun h hin => congrArg _ ((if_neg h).trans (if_neg (Bool.eq_false_iff.1 hin)))⟩
    · rw [wdBiteClr_owner hx]
      exact ⟨fun h => congrArg _ (if_pos h), fun h => congrArg _ (if_neg (Bool.eq_false_iff.1 h))⟩
  case key =>
    rw [wdKeyWrite_owner hx]
    refine ⟨fun h => congrArg _ (State.wdKey_off h), fun hoff hbit => ⟨fun k h => congrArg _ (State.wdKey_due hoff hbit h),
      fun hdue h => ?_, fun hdue h => ⟨fun hk => congrArg _ (State.wdKey_second_wrong hoff hbit hdue h hk), fun hk hbroken => ?_⟩⟩⟩
    · rw [State.wdKey_first hoff hbit hdue h]
      exact ⟨fun hk => congrArg _ (if_pos hk), fun hk => congrArg _ (if_neg hk)⟩
    · rw [State.wdKey_second hoff hbit hdue h hk hbroken]
      exact ⟨fun hlt => congrArg _ (if_pos hlt), fun hle => congrArg _ (if_neg (Nat.not_lt.2 hle))⟩
  case gatehouse =>
    rw [wdGatehouseReset_eq]
    simp only [Bool.or_eq_true, State.wdResetDue_iff]
    exact ⟨fun h => congrArg _ (if_pos h), fun h0 h1 => congrArg _ (if_neg (not_or.2 ⟨h0, h1⟩))⟩

end Sys2Proof.Machine
end

section
/-! Streams and heartbeats (R297, R301, R302, R355, R356): silence past a stream's limit, the receivers' drop log, and the heartbeats that
frames brought. -/

namespace Sys2Proof.Machine

/-! ### Silence (R297, R301, R356) -/

/-- A stream that was heard has been silent for its limit, and that is not counted yet. -/
def State.silentFor (s : State) (r : Nat) (src : BitVec 16) (lim : Tick) : Prop :=
  (s.stream r src).seen = true ∧ (s.stream r src).timedOut = false ∧ (s.stream r src).last + lim ≤ s.frc

/-- What a silence does to its stream: it is counted, the transfer under assembly dropped, and the stream marked. -/
def State.silenceCounted (s : State) (r : Nat) (src : BitVec 16) : State :=
  let p := s.stream r src
  let u := (s.count (pmPage r + 0x05C)).xferDrop r p
  u.2.setStream r src { u.1 with timedOut := true, xfer := if p.xfer = 1 then 2 else u.1.xfer }

/-- A peer of the segment is lost, and the loss raised where the peer asks for it. -/
def State.peerLost (s : State) (peer : Nat) : State :=
  (s.setRegF (t1sPeer peer + 12) 2 1 1).setErrIf (bit (s.reg (t1sPeer peer + 8)) 1) t1sPage 0

section
variable {s : State} {r : Nat} {src : BitVec 16} {lim : Tick}

theorem State.streamTimeout_silent (h : s.silentFor r src lim) : s.streamTimeout r src lim = (true, s.silenceCounted r src) := by
  obtain ⟨hseen, hto, hlast⟩ := h
  exact if_pos (by simp [hseen, hto, hlast])

theorem State.streamTimeout_heard (h : ¬ s.silentFor r src lim) : s.streamTimeout r src lim = (false, s) :=
  if_neg fun hc => h (by simpa [State.silentFor, and_assoc] using hc)

theorem streamTimeoutAt_unlimited (h : s.streamLimit r src = none) : streamTimeoutAt r src s = s := by rw [streamTimeoutAt, h]

section
variable (hlim : s.streamLimit r src = some lim)
include hlim

theorem streamTimeoutAt_heard (h : ¬ s.silentFor r src lim) : streamTimeoutAt r src s = s := by
  simp [streamTimeoutAt, hlim, State.streamTimeout_heard h]

theorem streamTimeoutAt_silent (h : s.silentFor r src lim) (hr : r ≠ 3) : streamTimeoutAt r src s = s.silenceCounted r src := by
  simp [streamTimeoutAt, hlim, State.streamTimeout_silent h, hr]

end

/-- On the segment's receiver the silence of a stream is the loss of its peer. -/
theorem streamTimeoutAt_peer (hlim : s.streamLimit 3 src = some lim) (h : s.silentFor 3 src lim) :
    streamTimeoutAt 3 src s = (s.silenceCounted 3 src).peerLost (src.toNat % 0x200) := by
  simp [streamTimeoutAt, hlim, State.streamTimeout_silent h, State.peerLost]

theorem exec_streamTimeout (s : State) (hr : r < 5) (hsrc : r = 3 → 0xFE01 ≤ src.toNat ∧ src.toNat ≤ 0xFE07) :
    exec (.streamTimeout r src) s = .next (streamTimeoutAt r src s) := by
  refine onUnit_next ?_
  by_cases h : r = 3
  · simp [h, hsrc h]
  · simp [h, hr]

end

/-! ### The drop log (R302) -/

section
variable {s : State} {w : Writer} {r : Nat} {v : W32}

theorem pmLastClr_clears (hw : s.pmMay w r = true) (hv : bit v 0 = true) : pmLastClr w r v s = s.setReg (pmPage r + 0x064) 0 :=
  if_pos (by simp [hw, hv])

theorem pmLastClr_ignored (h : s.pmMay w r = false ∨ bit v 0 = false) : pmLastClr w r v s = s :=
  if_neg (by rcases h with h | h <;> simp [h])

theorem exec_pmLastClr (s : State) (w : Writer) (v : W32) (hr : r < 5) : exec (.pmLastClr w r v) s = .next (pmLastClr w r v s) :=
  onUnit_next (decide_eq_true hr)

end

/-! ### Heartbeats that frames brought (R355) -/

section
variable {s t : State} {m : PMsg} {n : Nat} {bs : List Byte}

theorem heartbeat_absent (h : s.t1s.inbox.contains m = false ∨ m.src ≠ peerId n) : heartbeat m n s = s :=
  if_pos (by rcases h with h | h <;> simp only [h, Bool.false_and, decide_false, Bool.and_false, Bool.not_false])

section
variable (hin : s.t1s.inbox.contains m = true) (hsrc : m.src = peerId n)
include hin hsrc

theorem heartbeat_waiting :
    heartbeat m n s =
      let (p, t) := (s.setT1s { s.t1s with inbox := s.t1s.inbox.erase m }).recv 3 true m
      match p with
      | some bs => (t.setRegF (t1sPeer n + 12) 0 2 (ofBytesLE (bs.take 4) % 4)).setRegF (t1sPeer n + 12) 2 1 0
      | none => t := if_neg (by rw [hin, decide_eq_true hsrc]; decide)

theorem heartbeat_accepted (h : (s.setT1s { s.t1s with inbox := s.t1s.inbox.erase m }).recv 3 true m = (some bs, t)) :
    heartbeat m n s = (t.setRegF (t1sPeer n + 12) 0 2 (ofBytesLE (bs.take 4) % 4)).setRegF (t1sPeer n + 12) 2 1 0 := by
  rw [heartbeat_waiting hin hsrc, h]

theorem heartbeat_refused (h : (s.setT1s { s.t1s with inbox := s.t1s.inbox.erase m }).recv 3 true m = (none, t)) :
    heartbeat m n s = t := by
  rw [heartbeat_waiting hin hsrc, h]

end

theorem exec_heartbeat (s : State) (m : PMsg) (h1 : 1 ≤ n) (h7 : n ≤ 7) : exec (.heartbeat m n) s = .next (heartbeat m n s) :=
  onUnit_next (by simp [h1, h7])

end

/-- Settles O36: a silence by the stream's limit, by what was heard and by the receiver, the drop log's clear by the writer, and a heartbeat
by whether it waits and by the receiver's judgement. -/
theorem streamsAndHeartbeats : Obligations.StreamsAndHeartbeats := by
  unfold Obligations.StreamsAndHeartbeats
  intro s t w r n src m bs v lim hr h1 h7
  rw [exec_pmLastClr s w v hr, exec_heartbeat s m h1 h7]
  refine ⟨fun hsrc => ?silence, fun hw hv => congrArg _ (pmLastClr_clears hw hv), fun h => congrArg _ (pmLastClr_ignored h),
    fun hin hm => ⟨fun h => congrArg _ (heartbeat_accepted hin hm h), fun h => congrArg _ (heartbeat_refused hin hm h)⟩,
    fun h => congrArg _ (heartbeat_absent h)⟩
  case silence =>
    rw [exec_streamTimeout s hr hsrc]
    refine ⟨fun h => congrArg _ (streamTimeoutAt_unlimited h), fun hlim => ⟨fun h => congrArg _ (streamTimeoutAt_heard hlim h),
      fun h hne => congrArg _ (streamTimeoutAt_silent hlim h hne), ?_⟩⟩
    rintro h rfl
    exact congrArg _ (streamTimeoutAt_peer hlim h)

end Sys2Proof.Machine
end

section
/-! The safety segment (R351 to R355): heartbeats sent, the coordinator's beacons, and frames received. -/

namespace Sys2Proof.Machine

/-! ### Heartbeats sent (R353, R355) -/

/-- A heartbeat that has fallen due at a tick leaves: the peer is enabled, the quiet window is not on, and the line is free. -/
def State.heartbeatSends (s : State) (n : Nat) (due : Tick) : Prop :=
  s.peerEn n = true ∧ due ≤ s.frc ∧ s.quiet = false ∧ s.t1s.busy ≤ s.frc

/-- The heartbeat to a peer, with the next one a period on, counted from the record's load. -/
def State.heartbeatSent (s : State) (n : Nat) (load : Tick) : State :=
  let p := 500000 * s.regF (t1sPeer n + 8) 4 10
  let seq := if (s.stream 3 (peerId n)).seen = true then ((s.stream 3 (peerId n)).expect - 1).toNat else 0
  let t := s.t1sSend (peerId n) (s.peerMac n) 0x31
    (bytesLE 4 (s.hbState + 65536 * seq) ++ bytesLE 4 (s.frc / 500000) ++ bytesLE 8 0) s.frc
  t.setT1s { t.t1s with hbNext := Tab.set 0 t.t1s.hbNext n (load + ((s.frc - load) / p + 1) * p) }

section
variable {s : State} {n : Nat} {d t0 : Tick}

theorem State.heartbeatSends_iff :
    s.heartbeatSends n d ↔ ¬ ((!s.peerEn n) = true ∨ s.frc < d ∨ s.quiet = true ∨ s.frc < s.t1s.busy) := by
  simp [State.heartbeatSends]

theorem heartbeatDue_unloaded (h : s.hbDue n = none ∨ s.cyc.recLoad = none) : heartbeatDue n s = s := by
  rcases h with h | h
  · simp only [heartbeatDue, h]
  · cases hd : s.hbDue n <;> simp only [heartbeatDue, h, hd]

section
variable (hd : s.hbDue n = some d) (hl : s.cyc.recLoad = some t0)
include hd hl

theorem heartbeatDue_loaded :
    heartbeatDue n s =
      if (!s.peerEn n) = true ∨ s.frc < d ∨ s.quiet = true ∨ s.frc < s.t1s.busy then s else s.heartbeatSent n t0 := by
  rw [heartbeatDue, hd, hl]
  rfl

theorem heartbeatDue_sends (h : s.heartbeatSends n d) : heartbeatDue n s = s.heartbeatSent n t0 :=
  (heartbeatDue_loaded hd hl).trans (if_neg (State.heartbeatSends_iff.1 h))

theorem heartbeatDue_waits (h : ¬ s.heartbeatSends n d) : heartbeatDue n s = s :=
  (heartbeatDue_loaded hd hl).trans (if_pos (Classical.not_not.1 (mt State.heartbeatSends_iff.2 h)))

end

theorem exec_heartbeatDue (s : State) (h1 : 1 ≤ n) (h7 : n ≤ 7) : exec (.heartbeatDue n) s = .next (heartbeatDue n s) :=
  onUnit_next (by simp [h1, h7])

/-! ### Beacons (R353, R354) -/

theorem verdictBeacon_unscheduled (h : s.nextVerdict = none) : verdictBeacon s = s := by rw [verdictBeacon, h]

theorem verdictBeacon_scheduled {v : Tick} (h : s.nextVerdict = some v) :
    verdictBeacon s =
      if v ≤ s.frc + 1000 ∧ s.frc < v ∧ s.coordinator = true ∧ s.t1s.beacon ≠ some v then
        (s.setT1s { s.t1s with beacon := some v }).emit .beacon
      else s := by rw [verdictBeacon, h]

theorem coordinatorResume_alone (h : s.t1s.foreign = none) : coordinatorResume s = s := by rw [coordinatorResume, h]

theorem coordinatorResume_heard (h : s.t1s.foreign = some t0) :
    coordinatorResume s = if t0 + 50000000 ≤ s.frc then s.setT1s { s.t1s with foreign := none } else s := by
  rw [coordinatorResume, h]

end

/-! ### Frames received (R351) -/

/-- The enabled peer of an address. -/
def State.peerOf (s : State) (mac : Nat) : Option Nat :=
  ([1, 2, 3, 4, 5, 6, 7] : List Nat).find? (fun n => s.peerEn n && decide (s.peerMac n = mac))

section
variable {s : State} {mac ety n : Nat} {m : PMsg}

theorem t1sReceive_damaged : t1sReceive mac ety false m s = s := rfl

theorem t1sReceive_unknown (h : s.peerOf mac = none) : t1sReceive mac ety true m s = s.count (t1sPage + 0x05C) := by
  unfold State.peerOf at h
  simp only [t1sReceive, h]
  rfl

/-- A frame of a peer goes by its EtherType and by whether it brings the peer's heartbeat. -/
theorem t1sReceive_peer (h : s.peerOf mac = some n) :
    t1sReceive mac ety true m s =
      if ety ≠ s.regF (t1sPage + 0x054) 0 16 then s.count (t1sPage + 0x060)
      else if m.type = 0x31 ∧ m.src = peerId n then s.setT1s { s.t1s with inbox := s.t1s.inbox ++ [m] }
      else (s.recv 3 (decide (m.src = peerId n)) m).2 := by
  unfold State.peerOf at h
  simp only [t1sReceive, h]
  rfl

end

/-- Settles O37: a heartbeat by the record's load and by what lets it leave, a beacon by the next verdict, and a frame by its check, its
peer, its EtherType and its message. -/
theorem segmentBeaconsAndFrames : Obligations.SegmentBeaconsAndFrames := by
  unfold Obligations.SegmentBeaconsAndFrames
  intro s n mac ety fcs m d t0 v h1 h7
  have hbeacon : exec .verdictBeacon s = .next (verdictBeacon s) := rfl
  have hresume : exec .coordinatorResume s = .next (coordinatorResume s) := rfl
  have hframe : exec (.t1sFrameReceive mac ety fcs m) s = .next (t1sReceive mac.toNat ety.toNat fcs m s) := rfl
  rw [exec_heartbeatDue s h1 h7, hbeacon, hresume, hframe]
  refine ⟨fun h => congrArg _ (heartbeatDue_unloaded h),
    fun hd hl => ⟨fun h => congrArg _ (heartbeatDue_sends hd hl h), fun h => congrArg _ (heartbeatDue_waits hd hl h)⟩,
    fun h => congrArg _ (verdictBeacon_unscheduled h), fun hv => ?beacon, rfl, fun hf => ?resume,
    fun h => congrArg _ (coordinatorResume_alone h), ?damaged, ?frame⟩
  case beacon =>
    rw [verdictBeacon_scheduled hv]
    exact ⟨fun h => congrArg _ (if_pos h), fun h => congrArg _ (if_neg h)⟩
  case resume =>
    rw [coordinatorResume_heard hf]
    exact ⟨fun h => congrArg _ (if_pos h), fun h => congrArg _ (if_neg (Nat.not_le.2 h))⟩
  case damaged =>
    rintro rfl
    exact congrArg _ t1sReceive_damaged
  case frame =>
    rintro rfl
    refine ⟨fun h => congrArg _ (t1sReceive_unknown h), fun h he => ?_, fun h he => ?_⟩ <;> rw [t1sReceive_peer h]
    · exact congrArg _ (if_pos he)
    · exact ⟨fun hm => congrArg _ ((if_neg (not_not_intro he)).trans (if_pos hm)),
        fun hm => congrArg _ ((if_neg (not_not_intro he)).trans (if_neg hm))⟩

end Sys2Proof.Machine
end

section
/-! The MACs (R346 to R348, R363): frames sent and received, and links that come up. -/

namespace Sys2Proof.Machine

/-- The length of a frame with its FCS is one that a MAC takes. -/
def State.ethFits (s : State) (k : Nat) (bs : List Byte) : Prop := 64 ≤ bs.length + 4 ∧ bs.length + 4 ≤ (s.mac k).maxLen

/-- The first source of a MAC whose filter a frame matches. -/
def State.ethSource (s : State) (k : Nat) (bs : List Byte) : Option Nat :=
  (s.portSrcs true k).find? (fun n => (s.rxs n).matches bs)

section
variable {s : State} {k q n : Nat} {bs : List Byte} {one fcs : Bool}

/-! ### Frames sent (R346, R348) -/

theorem ethTransmit_down (h : s.ethUp k = false) : ethTransmit k q bs one s = s := if_pos (by simp [h])

theorem ethTransmit_badLength (h : bs.length + 4 < 64 ∨ (s.mac k).maxLen < bs.length + 4) : ethTransmit k q bs one s = s :=
  if_pos (.inr h)

section
variable (hup : s.ethUp k = true) (hlen : s.ethFits k bs)
include hup hlen

/-- A frame that a MAC takes goes by its queue's gate and by what is in its way. -/
theorem ethTransmit_fits :
    ethTransmit k q bs one s =
      if bit (s.reg (ethPage k + 0x04C)) q = true then
        s.setRx { s.rx with gated := Tab.set [] s.rx.gated (gatedKey k q) (Tab.get [] s.rx.gated (gatedKey k q) ++ [(bs, one)]) }
      else if s.frc < (s.mac k).busy ∨ s.gateAhead k = true then s
      else s.ethSend k bs one s.frc := by
  obtain ⟨hlo, hhi⟩ := hlen
  exact if_neg (by simp [hup, hlo, hhi])

theorem ethTransmit_gated (hq : bit (s.reg (ethPage k + 0x04C)) q = true) :
    ethTransmit k q bs one s =
      s.setRx { s.rx with gated := Tab.set [] s.rx.gated (gatedKey k q) (Tab.get [] s.rx.gated (gatedKey k q) ++ [(bs, one)]) } :=
  (ethTransmit_fits hup hlen).trans (if_pos hq)

section
variable (hq : bit (s.reg (ethPage k + 0x04C)) q = false)
include hq

theorem ethTransmit_blocked (h : s.frc < (s.mac k).busy ∨ s.gateAhead k = true) : ethTransmit k q bs one s = s :=
  (ethTransmit_fits hup hlen).trans ((if_neg (by simp [hq])).trans (if_pos h))

theorem ethTransmit_leaves (hbusy : (s.mac k).busy ≤ s.frc) (hahead : s.gateAhead k = false) :
    ethTransmit k q bs one s = s.ethSend k bs one s.frc :=
  (ethTransmit_fits hup hlen).trans ((if_neg (by simp [hq])).trans (if_neg (by simp [hbusy, hahead])))

end
end

/-! ### Frames received (R346, R347) -/

theorem ethReceive_down (h : s.ethUp k = false) : ethReceive k ⟨bs, fcs⟩ s = s := if_pos (by simp [h])

section
variable (hup : s.ethUp k = true)
include hup

theorem ethReceive_damaged : ethReceive k ⟨bs, false⟩ s = (s.setErr (ethPage k) 0).count (ethPage k + 0x054) :=
  (if_neg (by simp [hup])).trans (if_pos rfl)

theorem ethReceive_badLength (h : bs.length + 4 < 64 ∨ (s.mac k).maxLen < bs.length + 4) : ethReceive k ⟨bs, true⟩ s = s :=
  (if_neg (by simp [hup])).trans ((if_neg (by simp)).trans (if_pos h))

variable (hlen : s.ethFits k bs)
include hlen

theorem ethReceive_fits :
    ethReceive k ⟨bs, true⟩ s =
      match s.ethSource k bs with
      | some n => s.streamTake n bs
      | none => s.emit (.gkFrame k bs (s.ingress k)) := by
  obtain ⟨hlo, hhi⟩ := hlen
  exact (if_neg (by simp [hup])).trans ((if_neg (by simp)).trans (if_neg (by simp [hlo, hhi])))

theorem ethReceive_source (h : s.ethSource k bs = some n) : ethReceive k ⟨bs, true⟩ s = s.streamTake n bs := by
  rw [ethReceive_fits hup hlen, h]

theorem ethReceive_other (h : s.ethSource k bs = none) : ethReceive k ⟨bs, true⟩ s = s.emit (.gkFrame k bs (s.ingress k)) := by
  rw [ethReceive_fits hup hlen, h]

end

/-! ### Links (R363) -/

theorem ethLinkUp_up {sp : Nat} (h : s.ethUp k = true) : ethLinkUp k sp s = s := if_pos (.inr h)

theorem ethLinkUp_off {sp : Nat} (h : fld (s.reg (ethPage k + 0x040)) 0 2 = 0) : ethLinkUp k sp s = s := if_pos (.inl h)

theorem ethLinkUp_starts {sp : Nat} (hdown : s.ethUp k = false) (hmode : fld (s.reg (ethPage k + 0x040)) 0 2 ≠ 0) :
    ethLinkUp k sp s =
      let c := s.reg (ethPage k + 0x040)
      let rate := if fld c 0 2 = 1 then 0 else if bit c 2 then sp else fld c 4 2
      ((s.setMac k ⟨fld c 0 2, s.regF (ethPage k + 0x048) 0 14, s.frc⟩).setReg (ethPage k + 0x044) (w32 (1 + 2 * rate))).portStart true k :=
  if_neg (by simp [hdown, hmode])

/-! ### The commands -/

section
variable (s) (hk : k < 4)
include hk

theorem exec_ethFrameTransmit (bs : List Byte) (one : Bool) (hq : q < 8) :
    exec (.ethFrameTransmit k q bs one) s = .next (ethTransmit k q bs one s) := onUnit_next (by simp [hk, hq])

theorem exec_ethFrameReceive (f : EthFrame) : exec (.ethFrameReceive k f) s = .next (ethReceive k f s) := onUnit_next (decide_eq_true hk)

theorem exec_ethLinkUp (sp : BitVec 2) : exec (.ethLinkUp k sp) s = .next (ethLinkUp k sp.toNat s) := onUnit_next (decide_eq_true hk)

theorem exec_ethLinkDown :
    exec (.ethLinkDown k) s = .next ((s.setErr (ethPage k) 1).setRegF (ethPage k + 0x044) 0 1 0) := onUnit_next (decide_eq_true hk)

end
end

/-- Settles O38: a frame goes by the link, its length, its queue or the sources' filters, and a link comes up by the MAC's mode. -/
theorem ethernetFrames : Obligations.EthernetFrames := by
  unfold Obligations.EthernetFrames
  intro s k q n bs one fcs sp hk hq
  rw [exec_ethFrameTransmit s hk bs one hq, exec_ethFrameReceive s hk, exec_ethFrameReceive s hk, exec_ethFrameReceive s hk,
    exec_ethLinkUp s hk sp]
  refine ⟨fun hup => ⟨fun hlo hhi => ?taken, fun h => ⟨congrArg _ (ethTransmit_badLength h), congrArg _ (ethReceive_badLength hup h)⟩,
      congrArg _ (ethReceive_damaged hup), congrArg _ (ethLinkUp_up hup)⟩,
    fun hdown => ⟨congrArg _ (ethTransmit_down hdown), congrArg _ (ethReceive_down hdown),
      fun h => congrArg _ (ethLinkUp_starts hdown h), fun h => congrArg _ (ethLinkUp_off h)⟩,
    exec_ethLinkDown s hk⟩
  case taken =>
    have hlen : s.ethFits k bs := ⟨hlo, hhi⟩
    exact ⟨fun h hb ha => congrArg _ (ethTransmit_leaves hup hlen h hb ha), fun h hb => congrArg _ (ethTransmit_blocked hup hlen h hb),
      fun h => congrArg _ (ethTransmit_gated hup hlen h), fun h => congrArg _ (ethReceive_source hup hlen h),
      fun h => congrArg _ (ethReceive_other hup hlen h)⟩

end Sys2Proof.Machine
end

section
/-! Presented time (R305, R307 to R316): snapshots, commits and their markers, sync words, steering and domain records. -/

namespace Sys2Proof.Machine

/-! ### Snapshots and replicas (R305, R315, R333) -/

section
variable {s t : State} {r n : Nat} {m : Tick}

/-- A replica's count draws at most, so registers are as before. -/
theorem State.repCount_regF {a lo w : Nat} : (s.repCount r).2.regF a lo w = s.regF a lo w := by
  unfold State.repCount
  split <;> rfl

theorem replicaSnapshot_eq {c : Nat} (h : s.repCount r = (c, t)) :
    replicaSnapshot r s =
      let u := (t.setReg64 (repPage r + 0x040) c).setTimeAt (repPage r + 0x048) (t.ptAt c)
      let k := s.regF (repPage r + 0x05C) 0 1
      u.setTimeAt (repPage r + 0x060) (if t.domValid k = true then t.domAt k c else 0) := by
  have hreg : t.regF (repPage r + 0x05C) 0 1 = s.regF (repPage r + 0x05C) 0 1 := by
    rw [← State.repCount_regF (s := s) (r := r), h]
  simp only [replicaSnapshot, h, hreg]

/-- A marker's word is newer than the last one that a replica took. -/
def State.wordNew (s : State) (r : Nat) (m : Tick) : Prop := ∀ x, (s.rep r).word = some x → x < m

/-- A sync word locks its replica, with the error that it leaves and one tick of correction at most. -/
def State.wordTaken (s : State) (r : Nat) (m : Tick) : State :=
  let (k, t) := s.drawNat
  let off : Int := (k % 5 : Nat) - 2
  let cor : Int := if t.repLocked r = true then (if 0 < (s.rep r).off then -1 else if (s.rep r).off < 0 then 1 else 0) else 0
  (t.setRep r { s.rep r with off := off, word := some m }).setReg (repPage r + 0x058)
    (setFld (setFld (setFld (t.reg (repPage r + 0x058)) 0 2 1) 8 8 (ibits 8 cor)) 16 2 t.domForce)

theorem syncWord_unmarked (h : s.bs.marker = none) : syncWord r s = s := by rw [syncWord, h]

section
variable (hm : s.bs.marker = some m)
include hm

theorem syncWord_old {x : Tick} (hw : (s.rep r).word = some x) (h : m ≤ x) : syncWord r s = s := by
  simp only [syncWord, hm, hw, decide_eq_false (Nat.not_lt.2 h), Bool.not_false, if_true]

theorem syncWord_new (h : s.wordNew r m) : syncWord r s = s.wordTaken r m := by
  unfold State.wordNew at h
  cases hw : (s.rep r).word with
  | none => simp only [syncWord, hm, hw]; rfl
  | some x => simp only [syncWord, hm, hw, decide_eq_true (h x hw)]; rfl

end

theorem replicaLoss_locked (h : (s.rep r).word = some m) :
    replicaLoss r s = if m + 8192 ≤ s.frc then s.setRegF (repPage r + 0x058) 1 1 1 else s := by rw [replicaLoss, h]

theorem replicaLoss_unlocked (h : (s.rep r).word = none) : replicaLoss r s = s := by rw [replicaLoss, h]

end

/-! ### Commits and markers (R308 to R310, R325) -/

section
variable {s : State} {w : Writer} {k : Nat}

theorem commitWrite_requested (h : w = .pair ∧ s.bs.commit = none) (hok : s.commitOk k = true) :
    commitWrite k w s = { s.setRegF bsStatA 1 1 1 with bs := { s.bs with commit := some (k, s.frc) } } :=
  if_pos ⟨h.1, h.2, hok⟩

theorem commitWrite_ignored (h : ¬ (w = .pair ∧ s.bs.commit = none) ∨ s.commitOk k = false) : commitWrite k w s = s :=
  if_neg fun ⟨hw, hc, hok⟩ => h.elim (fun hn => hn ⟨hw, hc⟩) (fun hf => by simp [hf] at hok)

/-- At a marker the commits of both domain slots come first, then presented time's, then the entries that this one has made past. -/
theorem State.commits_marker (h : s.frc % 1024 = 0) :
    s.commits =
      let c := ((s.commitDomain 0).commitDomain 1).commitTime
      if c.bs.commit = s.bs.commit then c else (List.range 64).foldl State.trigPassed c := by
  unfold State.commits State.commitsDue
  rw [if_pos h]

theorem markerAt_makes {echo : List (Option Int)} (h : s.frc % 1024 = 0) (hm : s.bs.marker ≠ some s.frc) :
    markerAt echo s =
      let t := { s.commits with bs := { s.commits.bs with marker := some s.commits.frc } }
      (List.range 3).foldl (fun t r => t.echo r ((echo[r]?).getD none)) t :=
  if_neg fun hc => hc.elim (fun hn => hn h) hm

theorem markerAt_ignored {echo : List (Option Int)} (h : s.frc % 1024 ≠ 0 ∨ s.bs.marker = some s.frc) : markerAt echo s = s := if_pos h

end

/-! ### Steering and domain records (R312 to R314) -/

section
variable {s t : State} {w : Writer} {d st : Nat} {v : W32} {bs : List Byte}

theorem steering_between (h : s.frc % 1048576 ≠ 0) : steering s = s := if_pos h

/-- A slot is VALID and not STALE, so RATE follows it. -/
def State.slotSteers (s : State) : Prop := s.domSel < 2 ∧ s.domValid s.domSel = true ∧ s.domIsStale s.domSel = false

/-- At a steering tick, once the commits are made, the selection takes effect. -/
def State.selectionInForce (s : State) : State := s.commits.setRegF bsStatA 3 2 s.commits.domSel

section
variable (h : s.frc % 1048576 = 0)
include h

theorem steering_steers (hs : s.selectionInForce.slotSteers) :
    steering s = let u := s.selectionInForce; u.showErr (u.showErr (u.steerTo u.domSel) 0) 1 :=
  (if_neg (not_not_intro h)).trans (congrArg (fun t => s.selectionInForce.showErr (s.selectionInForce.showErr t 0) 1) (if_pos hs))

theorem steering_holds (hs : ¬ s.selectionInForce.slotSteers) :
    steering s = let u := s.selectionInForce; u.showErr (u.showErr (u.setRegF bsStatA 5 1 0) 0) 1 :=
  (if_neg (not_not_intro h)).trans (congrArg (fun t => s.selectionInForce.showErr (s.selectionInForce.showErr t 0) 1) (if_neg hs))

end

theorem domainFetch_reads (hf : s.bs.fetch = true) (ha : s.areasOk = true) (h : s.readB ghSrc s.trecBase 3072 = (st, bs, t)) :
    domainFetch s = (List.range 64).foldl (fun t i => t.takeRecord ((bs.drop (48 * i)).take 48))
      { t with bs := { t.bs with fetch := false } } :=
  (if_pos (by simp [hf, ha])).trans (by rw [h]; rfl)

theorem domainFetch_ignored (h : s.bs.fetch = false ∨ s.areasOk = false) : domainFetch s = s :=
  if_neg (by rcases h with h | h <;> simp [h])

/-- A VALID slot has had no record for HOLD_MS. -/
def State.slotSilent (s : State) (d : Nat) : Prop :=
  s.domValid d = true ∧ Tab.get 0 s.bs.domAt d + 500000 * s.regF (bsPage + 0x05C) 16 16 ≤ s.frc

theorem domainStale_silent (h : s.slotSilent d) : domainStale d s = s.setRegF (domPage d + 4) 1 1 1 :=
  if_pos (by simp [h.1, h.2])

theorem domainStale_heard (h : ¬ s.slotSilent d) : domainStale d s = s :=
  if_neg fun hc => h (by simpa [State.slotSilent] using hc)

end

/-! ### The commands -/

section
variable {r : Nat} (s : State) (h : r < 3)
include h

theorem exec_replicaSnapshot : exec (.replicaSnapshot r) s = .next (replicaSnapshot r s) := onUnit_next (decide_eq_true h)

theorem exec_syncWord : exec (.syncWord r) s = .next (syncWord r s) := onUnit_next (decide_eq_true h)

theorem exec_replicaSyncLoss : exec (.replicaSyncLoss r) s = .next (replicaLoss r s) := onUnit_next (decide_eq_true h)

end

theorem exec_domainStale {d : Nat} (s : State) (h : d < 2) : exec (.domainStale d) s = .next (domainStale d s) :=
  onUnit_next (decide_eq_true h)

/-- Settles O40: a commit by its writer and its conditions, a marker by its tick, a sync word by the last one taken, steering by its tick
and the selected slot, and the ring by the verdict instant. -/
theorem snapshotsAndCommits : Obligations.SnapshotsAndCommits := by
  unfold Obligations.SnapshotsAndCommits
  intro s w r d v echo m hr hd
  have hrate : exec (.commitRate w) s = .next (commitWrite 1 w s) := rfl
  have hvalue : exec (.commitStepValue w) s = .next (commitWrite 2 w s) := rfl
  have hdomain : exec (.commitStepDomain w) s = .next (commitWrite 3 w s) := rfl
  have hmarker : exec (.marker echo) s = .next (markerAt echo s) := rfl
  have hsteer : exec .steeringTick s = .next (steering s) := rfl
  have hfetch : exec .domainRecordFetch s = .next (domainFetch s) := rfl
  rw [exec_replicaSnapshot s hr, hrate, hvalue, hdomain, hmarker, exec_syncWord s hr, exec_replicaSyncLoss s hr, hsteer, hfetch,
    exec_domainStale s hd]
  refine ⟨rfl, fun c t h => congrArg _ (replicaSnapshot_eq h), ?commit, fun h hm => ?marker, fun h => congrArg _ (markerAt_ignored h),
    fun h => congrArg _ (syncWord_unmarked h), fun hm => ⟨?old, ?new⟩, fun h => ?loss, fun h => congrArg _ (replicaLoss_unlocked h),
    fun h => congrArg _ (steering_between h),
    fun h => ⟨fun hs => congrArg _ (steering_steers h hs), fun hs => congrArg _ (steering_holds h hs)⟩,
    ⟨fun h => congrArg _ (if_pos h), fun h => congrArg _ (if_neg h)⟩,
    fun hf ha st bs t h => congrArg _ (domainFetch_reads hf ha h), fun h => congrArg _ (domainFetch_ignored h),
    fun h => congrArg _ (domainStale_silent h), fun h => congrArg _ (domainStale_heard h)⟩
  case commit =>
    exact ⟨fun h hok => congrArg _ (commitWrite_requested h hok), fun h hok => congrArg _ (commitWrite_requested h hok),
      fun h hok => congrArg _ (commitWrite_requested h hok), fun h => congrArg _ (commitWrite_ignored h),
      fun h => congrArg _ (commitWrite_ignored h), fun h => congrArg _ (commitWrite_ignored h)⟩
  case marker => rw [markerAt_makes h hm, State.commits_marker h]
  case old =>
    rintro ⟨x, hx, hle⟩
    exact congrArg _ (syncWord_old hm hx hle)
  case new =>
    rintro h k t hdraw
    rw [syncWord_new hm h, State.wordTaken, hdraw]
  case loss =>
    rw [replicaLoss_locked h]
    exact ⟨fun ht => congrArg _ (if_pos ht), fun ht => congrArg _ (if_neg (Nat.not_le.2 ht))⟩

end Sys2Proof.Machine
end

section
/-! Triggers, captures and the PPS output (R308, R320 to R325, R329, R330, R488; KL-11). -/

namespace Sys2Proof.Machine

/-! ### Trigger entries (R320 to R324) -/

section
variable {s t : State} {w : Writer} {a e k : Nat} {v : W32}

/-- The CTRL value is taken while the old target of its armed entry is near. -/
def State.trigContested (s : State) (e : Nat) (v : W32) : Prop := bit v 0 = true ∧ s.trigNear (s.trig e) = true

/-- The new fields of an entry wait for its old target's firing. -/
def State.trigHold (s : State) (e : Nat) (v : W32) : State :=
  let u := s.setReg (trigAt e) (v &&& 0x3F#32)
  u.setTrig e { u.trig e with held := some (u.trigWords e) }

theorem trigCtrlWrite_refused (h : ¬ (w = .pair ∧ trigCtrlOk e v = true)) : trigCtrlWrite w e v s = s :=
  if_pos (by simpa [imp_iff_not_or] using h)

section
variable (hok : w = .pair ∧ trigCtrlOk e v = true)
include hok

theorem trigCtrlWrite_applies (h : ¬ s.trigContested e v) : trigCtrlWrite w e v s = s.trigApply e v :=
  (if_neg (by simp [hok.1, hok.2])).trans (if_neg fun hc => h (by simpa [State.trigContested] using hc))

/-- A free value says whether the old target of a near entry fires first (KL-11). -/
theorem trigCtrlWrite_contested (h : s.trigContested e v) (hdraw : s.drawNat = (k, t)) :
    trigCtrlWrite w e v s = if k % 2 = 1 then t.trigHold e v else t.trigApply e v := by
  refine (if_neg (by simp [hok.1, hok.2])).trans ((if_pos (by simp [h.1, h.2])).trans ?_)
  rw [hdraw]
  rfl

end

theorem trigAtTarget_fires (ha : (s.commits.trig e).action = a) (h : s.commits.trigReached (s.commits.trig e) = true) :
    trigAtTarget a e s = s.commits.trigGo e none := if_pos (by simp [ha, h])

theorem trigAtTarget_waits (h : (s.commits.trig e).action ≠ a ∨ s.commits.trigReached (s.commits.trig e) = false) :
    trigAtTarget a e s = s.commits := if_neg (by rcases h with h | h <;> simp [h])

theorem triggerEth_unready (h : (s.commits.trig e).action ≠ 3 ∨ s.commits.trigReached (s.commits.trig e) = false) :
    triggerEth e s = s.commits := if_pos (h.imp_right .inl)

theorem triggerEth_waits (hs : s.commits.ethShort (s.commits.trig e) ≠ 0)
    (ht : s.commits.frc < (s.commits.trig e).armedAt + 1000) : triggerEth e s = s.commits := if_pos (.inr (.inr ⟨hs, ht⟩))

section
variable (ha : (s.commits.trig e).action = 3) (h : s.commits.trigReached (s.commits.trig e) = true)
include ha h

theorem triggerEth_intime (hs : s.commits.ethShort (s.commits.trig e) = 0) : triggerEth e s = s.commits.trigGo e none :=
  (if_neg (by simp [ha, h, hs])).trans (congrArg _ (if_pos hs))

theorem triggerEth_late (hs : s.commits.ethShort (s.commits.trig e) ≠ 0)
    (ht : (s.commits.trig e).armedAt + 1000 ≤ s.commits.frc) :
    triggerEth e s = s.commits.trigGo e (some (s.commits.ethShort (s.commits.trig e))) :=
  (if_neg (by simp [ha, h, ht])).trans (congrArg _ (if_neg hs))

end
end

/-! ### Captures (R329) -/

section
variable {s : State} {c : Nat} {fall : Bool} {at_ : Tick}

/-- An input is enabled for an edge. -/
def State.capTakes (s : State) (c : Nat) (fall : Bool) : Prop :=
  bit (s.reg (bsPage + 0x0E0)) c = true ∧ nbit (fld (s.reg (bsPage + 0x0E0)) (8 + 2 * c) 2) (b2n fall) = true

theorem captureEdge_disabled (h : ¬ s.capTakes c fall) : captureEdge c fall at_ s = s :=
  if_pos (by simpa [State.capTakes, imp_iff_not_or] using h)

theorem captureEdge_enabled (h : s.capTakes c fall) :
    captureEdge c fall at_ s =
      if 4 ≤ (s.capList c).length then s.setRegF (bsPage + 0x0E4) c 1 1
      else (s.setCap c (s.capList c ++ [(at_, fall)])).icuPulse 0 12 :=
  if_neg (by simp [h.1, h.2])

theorem captureRead_stamp {l : List (Tick × Bool)} (h : s.capList c = (at_, fall) :: l) :
    captureRead c s =
      ((s.setReg64 (bsPage + 0x180 + 8 * c) (at_ % 2 ^ 64)).setCap c l).setRegF (bsPage + 0x0E8) (16 + c) 1 (b2n fall) := by
  rw [captureRead, h]

theorem captureRead_empty (h : s.capList c = []) : captureRead c s = s := by rw [captureRead, h]

end

/-! ### PPS (R330) -/

section
variable {s : State} {t0 : Tick}

/-- A whole second is reached with PPS enabled. -/
def State.ppsReached (s : State) : Prop := bit (s.reg (bsPage + 0x1A0)) 0 = true ∧ s.bs.ppsSec < s.pt / secUnits

/-- The end of the pulse that is on, or of one that starts now. -/
def State.ppsEnd (s : State) : Tick :=
  match s.bs.ppsOn with
  | some t1 => t1
  | none => s.frc + 500000 * s.regF (bsPage + 0x1A0) 16 10

theorem State.ppsEnd_eq : s.ppsEnd = s.bs.ppsOn.getD (s.frc + 500000 * s.regF (bsPage + 0x1A0) 16 10) := by
  cases h : s.bs.ppsOn <;> simp [State.ppsEnd, h]

theorem ppsPulse_reached (hp : s.ppsReached) :
    ppsPulse s = { s with bs := { s.bs with ppsSec := s.pt / secUnits, ppsOn := some s.ppsEnd } } := by
  rw [State.ppsEnd_eq]
  exact if_pos (by simp [hp.1, hp.2])

theorem ppsPulse_none (h : ¬ s.ppsReached) : ppsPulse s = s := if_neg fun hc => h (by simpa [State.ppsReached] using hc)

theorem ppsPulseEnd_on (h : s.bs.ppsOn = some t0) :
    ppsPulseEnd s = if t0 ≤ s.frc then { s with bs := { s.bs with ppsOn := none } } else s := by rw [ppsPulseEnd, h]

theorem ppsPulseEnd_off (h : s.bs.ppsOn = none) : ppsPulseEnd s = s := by rw [ppsPulseEnd, h]

end

/-! ### The commands -/

section
variable {e : Nat} (s : State) (h : e < 64)
include h

theorem exec_triggerCtrlWrite (w : Writer) (v : W32) : exec (.triggerCtrlWrite w e v) s = .next (trigCtrlWrite w e v s) :=
  onUnit_next (decide_eq_true h)

theorem exec_triggerIrq : exec (.triggerIrq e) s = .next (trigAtTarget 0 e s) := onUnit_next (decide_eq_true h)

theorem exec_triggerRun : exec (.triggerRun e) s = .next (trigAtTarget 2 e s) := onUnit_next (decide_eq_true h)

theorem exec_triggerAdc : exec (.triggerAdc e) s = .next (trigAtTarget 4 e s) := onUnit_next (decide_eq_true h)

theorem exec_triggerEth : exec (.triggerEth e) s = .next (triggerEth e s) := onUnit_next (decide_eq_true h)

end

theorem exec_captureEdge {c : Nat} (s : State) (fall : Bool) (at_ : Tick) (h : c < 4) :
    exec (.captureEdge c fall at_) s = .next (captureEdge c fall at_ s) := onUnit_next (decide_eq_true h)

theorem exec_captureRead {c : Nat} (s : State) (h : c < 4) : exec (.captureRead c) s = .next (captureRead c s) :=
  onUnit_next (decide_eq_true h)

/-- Settles O41: a CTRL write by its writer, its value and how near the old target is, an entry by its action and its target, a capture by
the input's edges and stamps, and a pulse by the second and by its end. -/
theorem triggersCapturesAndPps : Obligations.TriggersCapturesAndPps := by
  unfold Obligations.TriggersCapturesAndPps
  intro s w e c v fall at_ t0 he hc
  have hpulse : exec .ppsPulse s = .next (ppsPulse s) := rfl
  have hend : exec .ppsPulseEnd s = .next (ppsPulseEnd s) := rfl
  rw [exec_triggerCtrlWrite s he, exec_triggerIrq s he, exec_triggerRun s he, exec_triggerAdc s he, exec_triggerEth s he,
    exec_captureEdge s fall at_ hc, exec_captureRead s hc, hpulse, hend]
  refine ⟨⟨fun h => congrArg _ (trigCtrlWrite_refused h), fun hok h => congrArg _ (trigCtrlWrite_applies hok h),
      fun hok h k t hdraw => ?contested⟩,
    ⟨fun ha h => congrArg _ (trigAtTarget_fires ha h), fun h => congrArg _ (trigAtTarget_waits h),
      fun ha h => congrArg _ (trigAtTarget_fires ha h), fun h => congrArg _ (trigAtTarget_waits h),
      fun ha h => congrArg _ (trigAtTarget_fires ha h), fun h => congrArg _ (trigAtTarget_waits h),
      fun ha h => ⟨fun hs => congrArg _ (triggerEth_intime ha h hs), fun hs ht => congrArg _ (triggerEth_late ha h hs ht),
        fun hs ht => congrArg _ (triggerEth_waits hs ht)⟩,
      fun h => congrArg _ (triggerEth_unready h)⟩,
    ⟨fun h => ?edge, fun h => congrArg _ (captureEdge_disabled h)⟩,
    fun l h => congrArg _ (captureRead_stamp h), fun h => congrArg _ (captureRead_empty h),
    ⟨fun h => congrArg _ (ppsPulse_reached h), fun h => congrArg _ (ppsPulse_none h)⟩,
    fun h => ?ends, fun h => congrArg _ (ppsPulseEnd_off h)⟩
  case contested =>
    rw [trigCtrlWrite_contested hok h hdraw]
    exact ⟨fun hk => congrArg _ (if_pos hk), fun hk => congrArg _ (if_neg hk)⟩
  case edge =>
    rw [captureEdge_enabled h]
    exact ⟨fun hl => congrArg _ (if_neg (Nat.not_le.2 hl)), fun hl => congrArg _ (if_pos hl)⟩
  case ends =>
    rw [ppsPulseEnd_on h]
    exact ⟨fun ht => congrArg _ (if_pos ht), fun ht => congrArg _ (if_neg (Nat.not_le.2 ht))⟩

end Sys2Proof.Machine
end

section
/-! Commits of RATE (R306, R307, R310): what the registers of presented time hold after a re-base. -/

namespace Sys2Proof.Machine

/-! ### Values over several registers -/

section
variable {s : State} (h : s.inForm = true)
include h

/-- A register after a write of one. -/
theorem State.reg_setReg_eq_ite {a b : Nat} {v : W32} : (s.setReg a v).reg b = if b = a then v else s.reg b := by
  split
  · rename_i hb; rw [hb, s.reg_setReg a v h]
  · rename_i hb; rw [s.reg_setReg_ne a b v h hb]

theorem State.inForm_setReg64 {lo v : Nat} : (s.setReg64 lo v).inForm = true := (State.setReg64_held (Held.refl s)).form h

theorem State.inForm_setTimeAt {a p : Nat} : (s.setTimeAt a p).inForm = true := (State.setTimeAt_held (Held.refl s)).form h

theorem State.reg_setReg64 {lo v b : Nat} :
    (s.setReg64 lo v).reg b = if b = lo + 4 then w32 (nfld v 32 32) else if b = lo then w32 (nfld v 0 32) else s.reg b := by
  rw [State.setReg64, State.reg_setReg_eq_ite (s.inForm_setReg _ _ h), State.reg_setReg_eq_ite h]

theorem State.reg_setTimeAt {a p b : Nat} :
    (s.setTimeAt a p).reg b =
      if b = a + 12 then w32 (nfld (p / secUnits) 32 32) else if b = a + 8 then w32 (nfld (p / secUnits) 0 32)
      else if b = a + 4 then w32 (p % secUnits / 65536) else if b = a then w32 (p % secUnits % 65536) else s.reg b := by
  have h1 := s.inForm_setReg a (w32 (p % secUnits % 65536)) h
  have h2 := State.inForm_setReg _ (a + 4) (w32 (p % secUnits / 65536)) h1
  have h3 := State.inForm_setReg _ (a + 8) (w32 (nfld (p / secUnits) 0 32)) h2
  rw [State.setTimeAt, State.reg_setReg_eq_ite h3, State.reg_setReg_eq_ite h2, State.reg_setReg_eq_ite h1, State.reg_setReg_eq_ite h]

/-- Two registers hold a number to 64 bits. -/
theorem State.reg64_setReg64 {lo v : Nat} : (s.setReg64 lo v).reg64 lo = v % 2 ^ 64 := by
  simp [State.reg64, State.reg_setReg64 h, w32, nfld, Nat.shiftRight_eq_div_pow]
  omega

/-- Four registers hold a time with its seconds to 64 bits. -/
theorem State.timeAt_setTimeAt {a p : Nat} : (s.setTimeAt a p).timeAt a = p % (2 ^ 64 * secUnits) := by
  rw [Nat.mul_comm, Nat.mod_mul]
  simp [State.timeAt, State.regF, State.reg_setTimeAt h, w32, fld, nfld, Nat.shiftRight_eq_div_pow, secUnits]
  omega

end

/-! ### A re-base (R306, R307) -/

section
variable {s : State} (h : s.inForm = true) {off anchor rate : Nat}
include h

/-- The parameters of presented time are RATE's two registers, then ANCHOR's, then OFFSET's. -/
theorem State.reg_setBase {b : Nat} (hb : b < bsPage + 0x06C) :
    (s.setBase off anchor rate).reg b =
      if b = bsPage + 0x068 then w32 (nfld rate 32 8) else if b = bsPage + 0x064 then w32 (nfld rate 0 32) else s.reg b := by
  have h1 := s.inForm_setReg (bsPage + 0x064) (w32 (nfld rate 0 32)) h
  have h2 := State.inForm_setReg _ (bsPage + 0x068) (w32 (nfld rate 32 8)) h1
  rw [State.setBase, State.reg_setTimeAt (State.inForm_setReg64 h2), if_neg (by omega), if_neg (by omega), if_neg (by omega),
    if_neg (by omega), State.reg_setReg64 h2, if_neg (by omega), if_neg (by omega), State.reg_setReg_eq_ite h1, State.reg_setReg_eq_ite h]

theorem State.inForm_setBase : (s.setBase off anchor rate).inForm = true :=
  State.inForm_setTimeAt (State.inForm_setReg64 (State.inForm_setReg _ _ _ (State.inForm_setReg _ _ _ h)))

theorem State.bsRate_setBase (hr : rate < 2 ^ 40) : (s.setBase off anchor rate).bsRate = rate := by
  simp [State.bsRate, State.regF, State.reg_setBase h, w32, fld, nfld, Nat.shiftRight_eq_div_pow]
  omega

theorem State.reg64_setBase : (s.setBase off anchor rate).reg64 (bsPage + 0x06C) = anchor % 2 ^ 64 := by
  have h1 := State.inForm_setReg _ (bsPage + 0x068) (w32 (nfld rate 32 8)) (s.inForm_setReg (bsPage + 0x064) (w32 (nfld rate 0 32)) h)
  rw [← State.reg64_setReg64 h1 (lo := bsPage + 0x06C), State.setBase]
  simp [State.reg64, State.reg_setTimeAt (State.inForm_setReg64 h1)]

theorem State.timeAt_setBase : (s.setBase off anchor rate).timeAt (bsPage + 0x074) = off % (2 ^ 64 * secUnits) :=
  State.timeAt_setTimeAt (State.inForm_setReg64 (State.inForm_setReg _ _ _ (State.inForm_setReg _ _ _ h)))

end

/-! ### The commit (R310) -/

/-- A commit is spent: COMMIT_PENDING falls. -/
def State.commitSpent (s : State) : State := { s.setRegF bsStatA 1 1 0 with bs := { s.bs with commit := none } }

/-- BS_NEXT_RATE, and the bounds that SLEW_PPM sets. -/
def State.nextRate (s : State) : Nat := (s.reg (bsPage + 0x084)).toNat + 2 ^ 32 * s.regF (bsPage + 0x088) 0 8
def State.rateHi (s : State) : Nat := rateNom * (1000000 + s.slew) / 1000000
def State.rateLo (s : State) : Nat := (rateNom * (1000000 - s.slew) + 999999) / 1000000

/-- RATE as a commit sets it. -/
def State.clampedRate (s : State) : Nat := max s.rateLo (min s.rateHi s.nextRate)

/-- A commit of kind RATE is made. -/
def State.rateCommitted (s : State) : State :=
  (s.commitSpent.rebase s.clampedRate).setRegF bsStatA 2 1 (b2n (decide (s.nextRate < s.rateLo) || decide (s.rateHi < s.nextRate)))

section
variable {s : State} {t0 : Tick}

/-- The bounds leave RATE's 40 bits. -/
theorem State.clampedRate_lt : s.clampedRate < 2 ^ 40 := by
  have hslew : s.slew < 2 ^ 8 := Nat.mod_lt _ (by decide)
  simp only [State.clampedRate, State.rateLo, State.rateHi, rateNom]
  omega

theorem commitOk_rate : s.commitOk 1 = decide (s.domSel = 2) := rfl

section
variable (hc : s.bs.commit = some (1, t0))
include hc

theorem State.commitTime_early (ht : s.frc < secondMarker t0) : s.commitTime = s := by
  rw [State.commitTime, hc]
  exact if_pos ht

theorem State.commitTime_dropped (hd : s.domSel ≠ 2) (ht : secondMarker t0 ≤ s.frc) : s.commitTime = s.commitSpent := by
  rw [State.commitTime, hc]
  exact (if_neg (Nat.not_lt.2 ht)).trans (if_pos (by simp [commitOk_rate, hd]))

theorem State.commitTime_rate (hd : s.domSel = 2) (ht : secondMarker t0 ≤ s.frc) : s.commitTime = s.rateCommitted := by
  rw [State.commitTime, hc]
  exact (if_neg (Nat.not_lt.2 ht)).trans ((if_neg (by simp [commitOk_rate, hd])).trans (if_pos rfl))

end

section
variable (h : s.inForm = true) {lo n x : Nat}
include h

/-- A field of BS_STAT is no part of presented time's parameters. -/
theorem State.bsRate_setStat : (s.setRegF bsStatA lo n x).bsRate = s.bsRate := by
  simp [State.bsRate, State.regF, bsStatA, s.reg_setRegF_ne _ lo n x _ h]

theorem State.anchor_setStat : (s.setRegF bsStatA lo n x).reg64 (bsPage + 0x06C) = s.reg64 (bsPage + 0x06C) := by
  simp [State.reg64, bsStatA, s.reg_setRegF_ne _ lo n x _ h]

theorem State.offset_setStat : (s.setRegF bsStatA lo n x).timeAt (bsPage + 0x074) = s.timeAt (bsPage + 0x074) := by
  simp [State.timeAt, State.regF, bsStatA, s.reg_setRegF_ne _ lo n x _ h]

theorem State.pt_setStat : (s.setRegF bsStatA lo n x).pt = s.pt := by
  simp only [State.pt, State.ptAt, State.bsOffset, State.bsAnchor, State.bsRate_setStat h, State.anchor_setStat h,
    State.offset_setStat h]
  rfl

/-- What the re-base of a spent commit leaves: presented time goes on from now. -/
theorem State.commitSpent_rebase {rate : Nat} : s.commitSpent.rebase rate = s.commitSpent.setBase s.pt (s.frc % 2 ^ 64) rate :=
  congrArg (fun p => s.commitSpent.setBase p (s.frc % 2 ^ 64) rate) (State.pt_setStat h)

theorem State.inForm_commitSpent : s.commitSpent.inForm = true := s.inForm_setRegF bsStatA 1 1 0 h

theorem State.inForm_commitSpent_rebase {rate : Nat} : (s.commitSpent.rebase rate).inForm = true :=
  State.inForm_setBase (State.inForm_commitSpent h)

/-- A commit of kind RATE gives RATE the clamped value, -/
theorem State.bsRate_rateCommitted : s.rateCommitted.bsRate = s.clampedRate :=
  (State.bsRate_setStat (State.inForm_commitSpent_rebase h)).trans (State.bsRate_setBase (State.inForm_commitSpent h) State.clampedRate_lt)

/-- ANCHOR the free-running counter, -/
theorem State.anchor_rateCommitted : s.rateCommitted.reg64 (bsPage + 0x06C) = s.frc % 2 ^ 64 :=
  (State.anchor_setStat (State.inForm_commitSpent_rebase h)).trans
    ((State.reg64_setBase (State.inForm_commitSpent h)).trans (Nat.mod_mod _ _))

/-- OFFSET presented time, -/
theorem State.offset_rateCommitted : s.rateCommitted.timeAt (bsPage + 0x074) = s.pt % (2 ^ 64 * secUnits) := by
  refine (State.offset_setStat (State.inForm_commitSpent_rebase h)).trans ?_
  rw [State.commitSpent_rebase h, State.timeAt_setBase (State.inForm_commitSpent h)]

/-- and CLAMPED whether the clamp acted. -/
theorem State.clamped_rateCommitted :
    s.rateCommitted.regF bsStatA 2 1 = if s.nextRate < s.rateLo ∨ s.rateHi < s.nextRate then 1 else 0 := by
  refine (State.regF_setRegF _ bsStatA 2 1 _ (State.inForm_commitSpent_rebase h) (by decide)).trans ?_
  by_cases hcl : s.nextRate < s.rateLo ∨ s.rateHi < s.nextRate <;> simp [hcl, b2n]

/-- A spent commit leaves CLAMPED. -/
theorem State.clamped_commitSpent : s.commitSpent.regF bsStatA 2 1 = s.regF bsStatA 2 1 :=
  s.regF_setRegF_ne bsStatA 1 1 0 2 1 h (by decide) (by decide)

end
end

/-- Settles O53: with no domain selected the commit is made (`State.commitTime_rate`) and each of its registers is read; with one selected
the request fails its condition, and a pending commit is dropped at its marker. -/
theorem rateCommits : Obligations.RateCommits := by
  unfold Obligations.RateCommits
  intro s w t0 h
  refine ⟨fun hd hc ht => ?_, fun hd => ⟨?_, fun hc => ?_⟩⟩
  · rw [State.commitTime_rate hc hd ht]
    exact ⟨State.bsRate_rateCommitted h, State.anchor_rateCommitted h, State.offset_rateCommitted h, State.clamped_rateCommitted h⟩
  · have hok : s.commitOk 1 = false := decide_eq_false hd
    exact congrArg _ (commitWrite_ignored (.inr hok))
  · rcases Nat.lt_or_ge s.frc (secondMarker t0) with ht | ht
    · rw [State.commitTime_early hc ht]
      exact ⟨rfl, rfl, rfl, rfl⟩
    · rw [State.commitTime_dropped hc hd ht]
      exact ⟨State.bsRate_setStat h, State.anchor_setStat h, State.offset_setStat h, State.clamped_commitSpent h⟩

end Sys2Proof.Machine
end

section
/-! The host port (R337 to R341): holds, masks, the link and its training. -/

namespace Sys2Proof.Machine

/-! ### Vectors (R340, R341) -/

section
variable {s : State} {n : Nat} {t : Tick} {merged : Bool}

theorem msixHoldEnd_none (h : Tab.get none s.pcie.hold n = none) : msixHoldEnd n s = s := by rw [msixHoldEnd, h]

section
variable (h : Tab.get none s.pcie.hold n = some (t, merged))
include h

theorem msixHoldEnd_some :
    msixHoldEnd n s =
      if s.frc < t then s
      else
        let u := s.setHold n none
        if (!merged) = true then u else if u.msixMasked n = true then u.setPending n true else u.msixSend n := by
  rw [msixHoldEnd, h]

theorem msixHoldEnd_early (ht : s.frc < t) : msixHoldEnd n s = s := (msixHoldEnd_some h).trans (if_pos ht)

/-- A hold whose time has come ends: nothing was merged into it, or one message stands for what was. -/
theorem msixHoldEnd_ends (ht : t ≤ s.frc) :
    msixHoldEnd n s =
      let u := s.setHold n none
      if (!merged) = true then u else if u.msixMasked n = true then u.setPending n true else u.msixSend n :=
  (msixHoldEnd_some h).trans (if_neg (Nat.not_lt.2 ht))

end

theorem exec_msixHoldEnd (s : State) (h : n < 2048) : exec (.msixHoldEnd n) s = .next (msixHoldEnd n s) := onUnit_next (decide_eq_true h)

theorem exec_msixUnmask (s : State) (cfg : Option (Bool × Bool)) (h : n < 2048) :
    exec (.msixUnmask n cfg) s = .next (msixUnmask n cfg s) := onUnit_next (decide_eq_true h)

end

/-! ### The link (R337 to R339) -/

/-- The caps in force: those of the training before while the link is up, else the registers'. -/
def State.pcieCap (s : State) : W32 := if bit (s.reg pcieStatA) 9 = true then s.pcie.maxGen else s.reg (pciePage + 0x048)

section
variable {s : State} {w : Writer} {v : W32} {rate width : Nat}

theorem pcieDown_up (h : bit (s.reg pcieStatA) 9 = true) :
    pcieDown s = ((s.setReg pcieStatA (s.reg pcieStatA &&& 0xC00#32)).count (pciePage + 0x05C)).setErr pciePage 0 := if_pos h

theorem pcieDown_down (h : bit (s.reg pcieStatA) 9 = false) : pcieDown s = s := if_neg (by simp [h])

theorem pcieRetrain_loads (hv : bit v 0 = true) :
    pcieRetrain (.dom 0x001#12) v s =
      { s with pcie := { s.pcie with maxGen := s.reg (pciePage + 0x048), eq := s.reg (pciePage + 0x044) } } := if_pos ⟨rfl, hv⟩

theorem pcieRetrain_ignored (h : w ≠ .dom 0x001#12 ∨ bit v 0 = false) : pcieRetrain w v s = s :=
  if_neg fun ⟨hw, hv⟩ => h.elim (fun hn => hn hw) (fun hf => by simp [hf] at hv)

theorem pcieUp_above (h : fld s.pcieCap 0 3 < rate ∨ fld s.pcieCap 8 5 < width) : pcieUp rate width s = s :=
  if_pos (h.elim (fun hr => .inr (.inl hr)) fun hw => .inr (.inr (.inr hw)))

theorem pcieUp_within (hr1 : 1 ≤ rate) (hw1 : 1 ≤ width) (hr : rate ≤ fld s.pcieCap 0 3) (hw : width ≤ fld s.pcieCap 8 5) :
    pcieUp rate width s =
      let u := s.setReg pcieStatA ((s.reg pcieStatA &&& 0xC00#32) ||| w32 (rate + 16 * width + 512))
      (List.range 2048).foldl State.msixFlush { u with pcie := { u.pcie with maxGen := s.pcieCap, eq := s.reg (pciePage + 0x044) } } := by
  refine if_neg ?_
  rw [State.pcieCap] at hr hw
  omega

end

/-- Settles O42: a hold by its time, what merged into it and the masks, the link's loss and training by the link and the writer, and a link
that comes up by the caps. -/
theorem hostPort : Obligations.HostPort := by
  unfold Obligations.HostPort
  intro s w n t merged bme fm v rate width hn
  have hdown : exec .pcieLinkDown s = .next (pcieDown s) := rfl
  have hretrain : ∀ w, exec (.pcieRetrain w v) s = .next (pcieRetrain w v s) := fun _ => rfl
  rw [exec_msixHoldEnd s hn, exec_msixUnmask s none hn, exec_msixUnmask s (some (bme, fm)) hn, hdown, hretrain, hretrain]
  refine ⟨fun h => ⟨fun ht => ?ends, fun ht => congrArg _ (msixHoldEnd_early h ht)⟩, fun h => congrArg _ (msixHoldEnd_none h),
    rfl, rfl, rfl, fun h => congrArg _ (pcieDown_up h), fun h => congrArg _ (pcieDown_down h),
    fun h => congrArg _ (pcieRetrain_loads h), fun h => congrArg _ (pcieRetrain_ignored h), fun hr1 hr5 hw => ?up⟩
  case ends =>
    rw [msixHoldEnd_ends h ht]
    exact ⟨fun hm => congrArg _ (if_pos (by simp [hm])),
      fun hm hmask => congrArg _ ((if_neg (by simp [hm])).trans (if_pos hmask)),
      fun hm hmask => congrArg _ ((if_neg (by simp [hm])).trans (if_neg (Bool.eq_false_iff.1 hmask)))⟩
  case up =>
    have hup : exec (.pcieLinkUp rate width) s = .next (pcieUp rate.toNat width.toNat s) :=
      onUnit_next (by rw [hw, decide_eq_true hr1, decide_eq_true hr5]; rfl)
    have hw1 : 1 ≤ width.toNat := by
      have hmem := List.contains_iff_mem.1 hw
      simp only [List.mem_cons, List.not_mem_nil, or_false] at hmem
      omega
    rw [hup]
    exact ⟨fun hr hw => congrArg _ (pcieUp_within hr1 hw1 hr hw), fun h => congrArg _ (pcieUp_above h)⟩

end Sys2Proof.Machine
end

section
/-! Power and temperature (R388, R390, R391, R395 to R403): KILL_N, the power ceiling, thermal control, profiles and rails. -/

namespace Sys2Proof.Machine

/-! ### KILL_N (R390, R391) -/

section
variable {s : State} {w : Writer}

theorem killSet_other (h : w ≠ .pair) : killSet w s = s := if_neg h

theorem killRelease_other (h : w ≠ .pair) : killRelease w s = s := if_neg fun hc => h hc.1

theorem killRelease_refused (h : s.killed = false ∨ s.fcLevel 12 ≠ 7) : killRelease w s = s :=
  if_neg fun ⟨_, hk, hsupply⟩ => h.elim (fun hf => by simp [hf] at hk) (fun hn => hn hsupply)

/-- A release of KILL_N clears the releases pending, and a Groundskeeper that is up brings up again from stage 4. -/
theorem killRelease_pair (hk : s.killed = true) (hsupply : s.fcLevel 12 = 7) :
    killRelease .pair s =
      let t := ((s.setRegF (ghPwrPage + 0x044) 0 1 0).setReg (ghPwrPage + 0x048) 0).setRegF (pwrPage + 0x044) 8 1 1
      if t.gk.up then t.setReg (gkBootPage + 0x040) 4 else t := if_pos ⟨rfl, hk, hsupply⟩

end

/-! ### The power ceiling (R397, R398) -/

section
variable {s : State} {est : List Nat} {other p : Nat}

theorem capTick_between (h : s.frc % 50000 ≠ 0) : capTick est other s = s := if_pos h

theorem capTick_tick (h : s.frc % 50000 = 0) (hp : s.capSum est other = p) : capTick est other s = s.capPut p (s.capNext p) := by
  subst hp
  exact if_neg (not_not_intro h)

theorem State.capNext_above (h : s.cap < p) : s.capNext p = max 10 (min 40 (s.capClock * s.cap / p / 25)) := if_pos h

theorem State.capNext_near (h : p ≤ s.cap) (hlo : 19 * s.cap ≤ 20 * p) : s.capNext p = s.ceilC :=
  (if_neg (Nat.not_lt.2 h)).trans (if_neg (Nat.not_lt.2 hlo))

theorem State.capNext_below (h : 20 * p < 19 * s.cap) : s.capNext p = min 40 (s.ceilC + 1) :=
  (if_neg (by omega)).trans (if_pos h)

end

/-! ### Temperatures (R399 to R402) -/

section
variable {s : State} {ts st : List Int}

theorem thermalTick_between (h : s.frc % 50000 ≠ 0) : thermalTick ts st s = s := if_pos h

/-- A thermal tick judges both compute dies, then the I/O die, then counts a ceiling below the highest. -/
theorem thermalTick_tick (h : s.frc % 50000 = 0) :
    thermalTick ts st s =
      let temps := (List.range 96).foldl (fun t i => Tab.set 0 t i (ts.getD i 0 + (s.calEff (14 + i)).1)) s.pwr.temps
      let a : State := { s with pwr := { s.pwr with temps := temps, stks := [(0, st.getD 0 0), (1, st.getD 1 0)] } }
      let b := (a.dieHeat 0 (st.getD 0 0)).dieHeat 1 (st.getD 1 0)
      let b := if 760 ≤ b.dieTemp 2 then b.setErr pwrPage 1 else b
      (if b.ceilT 0 < 40 ∨ b.ceilT 1 < 40 then b.count (pwrPage + 0x0CC) else b).clocks :=
  (if_neg (not_not_intro h)).trans (by simp only [State.setErrIf, Bool.or_eq_true, decide_eq_true_eq])

end

/-! ### Profiles and rails (R388, R396, R403) -/

section
variable {s : State} {w : Writer} {p d : Nat} {v : W32} {rails : List RailReport}

theorem pavCfgWrite_taken (hw : s.pwrMay w = true) (hv : fld v 0 2 ≠ 3) :
    pavCfgWrite w p v s = (s.setReg (pavCfgA p) (v &&& 3#32)).clocks := if_pos (by simp [hw, hv])

theorem pavCfgWrite_refused (h : s.pwrMay w = false ∨ fld v 0 2 = 3) : pavCfgWrite w p v s = s :=
  if_neg (by rcases h with h | h <;> simp [h])

theorem vreadyWrite_taken (hw : s.pwrMay w = true) (hv : fld v 0 2 ≠ 3) :
    vreadyWrite w d v s = ((List.range 4).foldl
      (fun t i => t.setRegF (pavStatA (4 * d + i)) 0 2 (min (t.profile (4 * d + i)) (fld v 0 2)))
      (s.setReg (pwrPage + 0x054 + 4 * d) (v &&& 3#32))).clocks := if_pos (by simp [hw, hv])

theorem vreadyWrite_refused (h : s.pwrMay w = false ∨ fld v 0 2 = 3) : vreadyWrite w d v s = s :=
  if_neg (by rcases h with h | h <;> simp [h])

theorem profileChange_busy (h : s.pavBusy p = true) : profileChange p s = s := if_pos h

theorem profileChange_idle (h : s.pavBusy p = false) :
    profileChange p s = (s.setRegF (pavStatA p) 0 2 (min (s.regF (pavCfgA p) 0 2) (s.vready (p / 4)))).clocks :=
  if_neg (Bool.eq_false_iff.1 h)

theorem railTelemetry_warns (hup : s.gk.up = true) (h : ∃ r ∈ rails, railWarns r = true) : railTelemetry rails s = s.setErr pwrPage 0 :=
  if_pos (by rw [hup, List.any_eq_true.2 h]; rfl)

theorem railTelemetry_quiet (h : s.gk.up = false ∨ ∀ r ∈ rails, railWarns r = false) : railTelemetry rails s = s := by
  refine if_neg ?_
  rcases h with h | h
  · simp [h]
  · simp [List.any_eq_false.2 fun r hr => Bool.eq_false_iff.1 (h r hr)]

theorem railWarns_iff {r : RailReport} : railWarns r = true ↔
    r.overCurrent = true ∨ r.target < 25 * (r.volts - r.target) ∨ r.target < 25 * (r.target - r.volts) := by
  simp [railWarns, or_assoc]

end

/-! ### The commands -/

section
variable (s : State) (w : Writer) (v : W32)

theorem exec_thermalTrip {d : Nat} (h : d < 2) : exec (.thermalTrip d) s = .next (thermalTrip d s) := onUnit_next (decide_eq_true h)

theorem exec_pwrVreadyWrite {d : Nat} (h : d < 2) : exec (.pwrVreadyWrite w d v) s = .next (vreadyWrite w d v s) :=
  onUnit_next (decide_eq_true h)

theorem exec_profileChange {p : Nat} (h : p < 8) : exec (.profileChange p) s = .next (profileChange p s) :=
  onUnit_next (decide_eq_true h)

theorem exec_pwrPavCfgWrite {p : Nat} (h : p < 8) : exec (.pwrPavCfgWrite w p v) s = .next (pavCfgWrite w p v s) :=
  onUnit_next (decide_eq_true h)

/-- The part has two compute dies, -/
theorem exec_power_noDie {n : Nat} (h : 2 ≤ n) :
    exec (.thermalTrip n) s = .fault .noUnit ∧ exec (.pwrVreadyWrite w n v) s = .fault .noUnit :=
  ⟨onUnit_fault (decide_eq_false (Nat.not_lt.2 h)), onUnit_fault (decide_eq_false (Nat.not_lt.2 h))⟩

/-- and eight Pavilions. -/
theorem exec_power_noPavilion {n : Nat} (h : 8 ≤ n) :
    exec (.profileChange n) s = .fault .noUnit ∧ exec (.pwrPavCfgWrite w n v) s = .fault .noUnit :=
  ⟨onUnit_fault (decide_eq_false (Nat.not_lt.2 h)), onUnit_fault (decide_eq_false (Nat.not_lt.2 h))⟩

end

/-- Settles O46: KILL_N by the writer and SUPPLY, the ceiling by the estimate against the cap, temperatures by the tick, and profiles by the
writer, the value and the Pavilion's work. -/
theorem powerAndThermal : Obligations.PowerAndThermal := by
  unfold Obligations.PowerAndThermal
  intro s w p d v est other i ts st rails hp hd
  have hset : ∀ w, exec (.killSet w) s = .next (killSet w s) := fun _ => rfl
  have hrelease : ∀ w, exec (.killRelease w) s = .next (killRelease w s) := fun _ => rfl
  have hcap : exec (.capTick est other) s = .next (capTick est other s) := rfl
  have hthermal : exec (.thermalTick ts st) s = .next (thermalTick ts st s) := rfl
  have hrails : exec (.railTelemetryRead rails) s = .next (railTelemetry rails s) := rfl
  rw [hset, hset, hrelease, hrelease, hcap, hthermal, hrails, exec_thermalTrip s hd, exec_pwrVreadyWrite s w v hd, exec_profileChange s hp,
    exec_pwrPavCfgWrite s w v hp]
  refine ⟨congrArg _ (if_pos rfl), fun h => ⟨congrArg _ (killSet_other h), congrArg _ (killRelease_other h)⟩, ?release,
    fun h => congrArg _ (killRelease_refused h), fun h => ⟨congrArg _ (capTick_between h), congrArg _ (thermalTick_between h)⟩,
    fun h sum hsum => ?cap, fun h => congrArg _ (thermalTick_tick h), rfl,
    fun hw => ⟨fun hv => ⟨congrArg _ (pavCfgWrite_taken hw hv), congrArg _ (vreadyWrite_taken hw hv)⟩,
      fun hv => ⟨congrArg _ (pavCfgWrite_refused (.inr hv)), congrArg _ (vreadyWrite_refused (.inr hv))⟩⟩,
    fun hw => ⟨congrArg _ (pavCfgWrite_refused (.inl hw)), congrArg _ (vreadyWrite_refused (.inl hw))⟩,
    fun h => congrArg _ (profileChange_busy h), fun h => congrArg _ (profileChange_idle h), rfl,
    fun hup h => congrArg _ (railTelemetry_warns hup h), fun h => congrArg _ (railTelemetry_quiet h), fun r => railWarns_iff,
    fun n h => exec_power_noDie s w v h, fun n h => exec_power_noPavilion s w v h⟩
  case release =>
    rintro hk hsupply t rfl
    exact congrArg _ (killRelease_pair hk hsupply)
  case cap =>
    rw [capTick_tick h hsum]
    exact ⟨fun ha => by rw [State.capNext_above ha], fun hn hlo => by rw [State.capNext_near hn hlo],
      fun hb => by rw [State.capNext_below hb]⟩

end Sys2Proof.Machine
end

section
/-! Service access (R463) and the test access ports (R422, R458 to R462). -/

namespace Sys2Proof.Machine

/-! ### Service access (R463) -/

section
variable {s : State}

theorem State.svcReady_iff : s.svcReady = true ↔
    (∀ o < 4, s.permit o = false ∧ s.latched o = true ∧ Tab.get 0 s.safeSince o + 500000000 ≤ s.frc) ∧
    s.sec.scopes.toNat < 2 ∧ s.scopesAt + 500000000 ≤ s.frc := by
  have hout : ∀ p : Nat → Prop, (∀ o < 4, p o) ↔ p 0 ∧ p 1 ∧ p 2 ∧ p 3 := fun p =>
    ⟨fun h => ⟨h 0 (by decide), h 1 (by decide), h 2 (by decide), h 3 (by decide)⟩, fun ⟨h0, h1, h2, h3⟩ o ho => by
      interval_cases o <;> assumption⟩
  rw [hout]
  simp [State.svcReady, and_assoc]

theorem serviceGrant_grants (h : s.svcReady = true) (ha : s.svcAccess = false) :
    serviceGrant s = { s with svcAccess := true, svcFrom := some s.frc } := if_pos (by simp [h, ha])

theorem serviceGrant_ignored (h : s.svcReady = false ∨ s.svcAccess = true) : serviceGrant s = s :=
  if_neg (by rcases h with h | h <;> simp [h])

theorem serviceEnd_granted (h : s.svcAccess = true) :
    serviceEnd s = { s with svcAccess := false, svcFrom := none, svcEnd := s.frc } := if_pos h

theorem serviceEnd_ignored (h : s.svcAccess = false) : serviceEnd s = s := if_neg (by simp [h])

end

/-! ### The chain (R458) -/

/-- An instruction is current on a TAP; the Gatehouse's pins leave scan where its instruction no longer takes them. -/
def State.tapLoaded (s : State) (t ir dr : Nat) : State :=
  let y : State := { s with taps := Tab.set TapSt.init s.taps t { s.tap t with instr := ir, dr := dr } }
  if t = 3 ∧ 3 ≤ (s.tap 3).instr ∧ (s.tap 3).instr ≤ 7 ∧ ¬ (3 ≤ ir ∧ ir ≤ 7) then { y with scanEnd := s.frc } else y

theorem irScan_iff {ir : Nat} : irScan ir = true ↔ 3 ≤ ir ∧ ir ≤ 7 := by
  simp [irScan]
  omega

section
variable {s : State} {t ir dr n cells op : Nat}

theorem State.tapIn_eq_false_iff (ht : t < 4) : s.tapIn t = false ↔
    (t = 1 ∨ t = 2) ∧ (s.killed = true ∨ bit (s.reg (gkBootPage + 0x040)) (8 + t) = false) := by
  interval_cases t <;> simp [State.tapIn, imp_iff_not_or]

theorem State.tapLoad_out (h : s.tapIn t = false) : s.tapLoad t ir dr = s := if_pos (by simp [h])

theorem State.tapLoad_in (h : s.tapIn t = true) : s.tapLoad t ir dr = s.tapLoaded t ir dr := by
  refine (if_neg (by simp [h])).trans ?_
  simp only [State.tapLoaded, ← irScan_iff, ← and_assoc, Bool.not_eq_true]

/-- An instruction moves no TAP into or out of the chain. -/
theorem State.tapIn_tapLoad {k : Nat} : (s.tapLoad t ir dr).tapIn k = s.tapIn k := by
  unfold State.tapLoad
  split
  · rfl
  · dsimp only
    split <;> rfl

/-! ### Instructions over captured pins (R460) -/

section
variable {u : State} (hdraw : s.drawNat = (n, u))
include hdraw

/-- Capturing pins moves no TAP into or out of the chain. -/
theorem State.tapIn_draw : u.tapIn t = s.tapIn t := by
  cases hdraw
  rfl

theorem State.tapBoundary_eq : s.tapBoundary t ir = u.tapLoad t ir n := by rw [State.tapBoundary, hdraw]

theorem samplePreload_in (h : s.tapIn t = true) :
    samplePreload t cells s =
      let x := u.tapLoaded t 0x02 n
      { x with taps := Tab.set TapSt.init x.taps t { x.tap t with cells := cells } } := by
  rw [← State.tapIn_draw hdraw] at h
  rw [samplePreload, hdraw, ← State.tapLoad_in h]
  exact if_pos (State.tapIn_tapLoad.trans h)

theorem samplePreload_out (h : s.tapIn t = false) : samplePreload t cells s = u := by
  rw [← State.tapIn_draw hdraw] at h
  rw [samplePreload, hdraw]
  dsimp only
  rw [State.tapLoad_out h, if_neg (Bool.eq_false_iff.1 h)]

theorem State.tapBoundary_in (h : s.tapIn t = true) : s.tapBoundary t ir = u.tapLoaded t ir n :=
  (State.tapBoundary_eq hdraw).trans (State.tapLoad_in ((State.tapIn_draw hdraw).trans h))

theorem State.tapBoundary_out (h : s.tapIn t = false) : s.tapBoundary t ir = u :=
  (State.tapBoundary_eq hdraw).trans (State.tapLoad_out ((State.tapIn_draw hdraw).trans h))

/-- The instructions of IEEE 1149.6 on the I/O die and on the Gatehouse, -/
theorem State.tapAc_boundary (ht : t = 0 ∨ t = 3) (h : s.tapIn t = true) : s.tapAc t ir = u.tapLoaded t ir n :=
  (if_pos ht).trans (State.tapBoundary_in hdraw h)

end

/-- and on a compute die, where they are as BYPASS. -/
theorem State.tapAc_bypass (ht : t = 1 ∨ t = 2) (h : s.tapIn t = true) : s.tapAc t ir = s.tapLoaded t 0xFF 0 :=
  (if_neg (by omega)).trans (State.tapLoad_in h)

/-- The I/O die and the Gatehouse are always in the chain. -/
theorem State.tapAc_out (ht : t < 4) (h : s.tapIn t = false) : s.tapAc t ir = s := by
  obtain ⟨hdie, -⟩ := (State.tapIn_eq_false_iff ht).1 h
  exact (if_neg (by omega)).trans (State.tapLoad_out h)

/-! ### Debug (R422, R460) -/

theorem debugAccess_open (hs : bit s.sec.scopes (tapScope t) = true) (h : s.tapIn t = true) :
    debugAccess t op s = s.tapLoaded t (0x30 + op) 0 := (if_pos hs).trans (State.tapLoad_in h)

theorem debugAccess_closed (hs : bit s.sec.scopes (tapScope t) = false) (h : s.tapIn t = true) :
    debugAccess t op s = s.tapLoaded t 0xFF 0 := (if_neg (Bool.eq_false_iff.1 hs)).trans (State.tapLoad_in h)

theorem debugAccess_out (h : s.tapIn t = false) : debugAccess t op s = s := by
  unfold debugAccess
  split <;> exact State.tapLoad_out h

end

/-- Settles O49: service access by its conditions and by whether it is granted, and an instruction by whether its TAP is in the chain
(`State.tapLoad_in`, `State.tapLoad_out`), by the die, and for a debug module by the scope. -/
theorem scanAndService : Obligations.ScanAndService := by
  unfold Obligations.ScanAndService
  intro s u t cells n op ht
  have hgrant : exec .serviceAccessGrant s = .next (serviceGrant s) := rfl
  have hend : exec .serviceAccessEnd s = .next (serviceEnd s) := rfl
  have hunit : ∀ x, onUnit (decide (t < 4)) x = .next x := fun _ => onUnit_next (decide_eq_true ht)
  have hreset : exec (.tapReset t) s = .next (s.tapLoad t 0x01 (tapId t)) := hunit _
  have hidcode : exec (.idcode t) s = .next (s.tapLoad t 0x01 (tapId t)) := hunit _
  have hsample : exec (.samplePreload t cells) s = .next (samplePreload t cells s) := hunit _
  have hextest : exec (.extest t) s = .next (s.tapBoundary t 0x03) := hunit _
  have hpulse : exec (.extestPulse t) s = .next (s.tapAc t 0x06) := hunit _
  have htrain : exec (.extestTrain t) s = .next (s.tapAc t 0x07) := hunit _
  have hclamp : exec (.clamp t) s = .next (s.tapLoad t 0x04 0) := hunit _
  have hhighz : exec (.highz t) s = .next (s.tapLoad t 0x05 0) := hunit _
  have hbypass : exec (.bypass t) s = .next (s.tapLoad t 0xFF 0) := hunit _
  have hdebug : exec (.debugAccess t op) s = .next (debugAccess t op.toNat s) := hunit _
  rw [hgrant, hend, hreset, hidcode, hsample, hextest, hpulse, htrain, hclamp, hhighz, hbypass, hdebug]
  refine ⟨State.svcReady_iff, fun h ha => congrArg _ (serviceGrant_grants h ha), fun h => congrArg _ (serviceGrant_ignored h),
    fun h => congrArg _ (serviceEnd_granted h), fun h => congrArg _ (serviceEnd_ignored h), State.tapIn_eq_false_iff ht,
    fun hdraw => ⟨fun h => ?chained, fun h => ?bridged⟩⟩
  case chained =>
    have hload : ∀ ir dr, s.tapLoad t ir dr = s.tapLoaded t ir dr := fun _ _ => State.tapLoad_in h
    exact ⟨congrArg _ (hload _ _), congrArg _ (hload _ _), congrArg _ (samplePreload_in hdraw h), congrArg _ (State.tapBoundary_in hdraw h),
      fun hd => ⟨congrArg _ (State.tapAc_boundary hdraw hd h), congrArg _ (State.tapAc_boundary hdraw hd h)⟩,
      fun hd => ⟨congrArg _ (State.tapAc_bypass hd h), congrArg _ (State.tapAc_bypass hd h)⟩,
      congrArg _ (hload _ _), congrArg _ (hload _ _), congrArg _ (hload _ _),
      fun hs => congrArg _ (debugAccess_open hs h), fun hs => congrArg _ (debugAccess_closed hs h)⟩
  case bridged =>
    have hload : ∀ ir dr, s.tapLoad t ir dr = s := fun _ _ => State.tapLoad_out h
    exact ⟨congrArg _ (hload _ _), congrArg _ (hload _ _), congrArg _ (hload _ _), congrArg _ (hload _ _), congrArg _ (hload _ _),
      congrArg _ (debugAccess_out h), congrArg _ (samplePreload_out hdraw h), congrArg _ (State.tapBoundary_out hdraw h),
      congrArg _ (State.tapAc_out ht h), congrArg _ (State.tapAc_out ht h)⟩

end Sys2Proof.Machine
end

section
/-! The Grotto's checks of images and tokens (R405, R409, R424), and the words of the TAP's mailbox (R460). -/

namespace Sys2Proof.Machine

/-! ### Checks in order (R409, R424) -/

/-- A check passes exactly where its first test does not fail and the rest passes. -/
theorem check_eq_zero_iff {c : Prop} [Decidable c] {reason rest : Nat} (h : reason ≠ 0) :
    (if c then reason else rest) = 0 ↔ ¬ c ∧ rest = 0 := by
  by_cases hc : c <;> simp [hc, h]

theorem imgCheck_eq_zero_iff {role kind arb : Nat} {keyOk : Nat → List Byte → Bool} {img : List Byte} :
    let len := imgW img 3
    let tr := 64 + (len + 63) / 64 * 64
    let key := (img.drop tr).take 60
    imgCheck role kind keyOk arb img = 0 ↔
      (imgW img 0 = 0x474D4948 ∧ imgW img 1 = role + 256 * kind ∧ nfld (imgW img 6) 20 4 = 0 ∧ nfld (imgW img 6) 26 6 = 0 ∧
        len ≤ kindLimit kind ∧ tr + 64 + imgW img 7 ≤ img.length) ∧
      keyOk (hdrSlot img) key = true ∧ hssVerify key (img.take 64) ((img.drop (tr + 64)).take (imgW img 7)) = true ∧
      arb ≤ hdrEpoch img ∧ sha256 ((img.drop 64).take len) = (img.drop 32).take 32 := by
  simp only [imgCheck, check_eq_zero_iff (show rqArg ≠ 0 by decide), check_eq_zero_iff (show rqKey ≠ 0 by decide),
    check_eq_zero_iff (show rqSignature ≠ 0 by decide), check_eq_zero_iff (show rqRollback ≠ 0 by decide),
    check_eq_zero_iff (show rqDigest ≠ 0 by decide)]
  simp only [not_or, ne_eq, Decidable.not_not, Nat.not_lt, Bool.not_eq_true', Bool.not_eq_false, and_true]

/-- Whether a challenge that stands is the one given. -/
def State.challenged (s : State) (c : List Byte) : Bool :=
  match s.sec.challenge with
  | some (_, x) => decide (x = c)
  | none => false

section
variable {s : State} {tok : List Byte} {n : Nat}

theorem State.challenged_iff {c : List Byte} : s.challenged c = true ↔ ∃ t0, s.sec.challenge = some (t0, c) := by
  rcases h : s.sec.challenge with _ | ⟨t0, x⟩ <;> simp [State.challenged, h]

theorem State.tokenCheck_eq :
    s.tokenCheck tok n =
      let w := imgW tok 1
      let key := (tok.drop 64).take 60
      if imgW tok 0 ≠ 0x4B544244 ∨ nfld w 4 4 ≠ 0 ∨ nfld w 18 14 ≠ 0 ∨ (tok.drop 48).take 16 ≠ List.replicate 16 0 then rqArg
      else if (!s.otpKey 4 (nfld w 16 2) key) = true then rqKey
      else if (!hssVerify key (tok.take 64) (tok.drop 128)) = true then rqSignature
      else if nfld w 8 8 < s.arbOf 4 then rqRollback
      else if ofBytesLE ((tok.drop 8).take 8) ≠ s.sec.serial.toNat ∨ s.challenged ((tok.drop 16).take 32) = false then 1 + n % 10
      else if 2 ≤ nfld w 0 4 ∧ ([0, 1, 2, 3] : List Nat).any s.permit = true then rqState
      else 0 := rfl

/-- Scopes beyond the first two need every output stopped. -/
theorem State.tokenScopes_iff {k : Nat} : ¬ (2 ≤ k ∧ ([0, 1, 2, 3] : List Nat).any s.permit = true) ↔
    k < 2 ∨ (s.permit 0 = false ∧ s.permit 1 = false ∧ s.permit 2 = false ∧ s.permit 3 = false) := by
  rw [not_and_or, Nat.not_le]
  simp

theorem State.tokenCheck_eq_zero_iff :
    let w := imgW tok 1
    s.tokenCheck tok n = 0 ↔
      (imgW tok 0 = 0x4B544244 ∧ nfld w 4 4 = 0 ∧ nfld w 18 14 = 0 ∧ (tok.drop 48).take 16 = List.replicate 16 0) ∧
      s.otpKey 4 (nfld w 16 2) ((tok.drop 64).take 60) = true ∧
      hssVerify ((tok.drop 64).take 60) (tok.take 64) (tok.drop 128) = true ∧ s.arbOf 4 ≤ nfld w 8 8 ∧
      ofBytesLE ((tok.drop 8).take 8) = s.sec.serial.toNat ∧ (∃ t0, s.sec.challenge = some (t0, (tok.drop 16).take 32)) ∧
      (nfld w 0 4 < 2 ∨ (s.permit 0 = false ∧ s.permit 1 = false ∧ s.permit 2 = false ∧ s.permit 3 = false)) := by
  simp only [State.tokenCheck_eq, check_eq_zero_iff (show rqArg ≠ 0 by decide), check_eq_zero_iff (show rqKey ≠ 0 by decide),
    check_eq_zero_iff (show rqSignature ≠ 0 by decide), check_eq_zero_iff (show rqRollback ≠ 0 by decide),
    check_eq_zero_iff (show 1 + n % 10 ≠ 0 by omega), check_eq_zero_iff (show rqState ≠ 0 by decide), State.tokenScopes_iff,
    ← State.challenged_iff]
  simp only [not_or, ne_eq, Decidable.not_not, Nat.not_lt, Bool.not_eq_true', Bool.not_eq_false, and_true, and_assoc]

end

/-! ### The TAP's mailbox (R423, R460) -/

/-- What Capture-DR takes: the next response word with its VALID, and the words left. -/
def State.tapNext (s : State) : Nat × List W32 :=
  match s.sec.tapOut with
  | [] => (0, [])
  | x :: r => (x.toNat + 2 ^ 32, r)

/-- GH_MBOX is current, and its data register holds what Capture-DR took. -/
def State.tapCaptured (s : State) (dr : Nat) (out : List W32) : State :=
  { s with taps := Tab.set TapSt.init s.taps 3 { Tab.get TapSt.init s.taps 3 with instr := 0x20, dr := dr },
           sec := { s.sec with tapOut := out }, scanEnd := if s.scanOn then s.frc else s.scanEnd }

section
variable {s : State} {word : W32} {dr : Nat} {out : List W32} (hnext : s.tapNext = (dr, out))
include hnext

theorem ghMbox_capture : ghMbox word false s = s.tapCaptured dr out := by
  have hcase : ghMbox word false s = s.tapCaptured s.tapNext.1 s.tapNext.2 := rfl
  rw [hcase, hnext]

/-- A word shifted in with VALID waits for the rest of its request. -/
theorem ghMbox_word :
    ghMbox word true s =
      let t := s.tapCaptured dr out
      let ws := s.sec.tapIn ++ [word]
      let u : State := { t with sec := { t.sec with tapIn := [] } }
      if ws.length < tapNeed ws ∨ s.sec.req.isSome = true then { t with sec := { t.sec with tapIn := ws } }
      else if blockOk (ws.take 17) = true then u.takeReq ⟨ws.take 17, true, ws.drop 17⟩ else u := by
  have hcase : ghMbox word true s =
      let t := s.tapCaptured s.tapNext.1 s.tapNext.2
      let ws := s.sec.tapIn ++ [word]
      let u : State := { t with sec := { t.sec with tapIn := [] } }
      if ws.length < tapNeed ws ∨ s.sec.req.isSome = true then { t with sec := { t.sec with tapIn := ws } }
      else if blockOk (ws.take 17) = true then u.takeReq ⟨ws.take 17, true, ws.drop 17⟩ else u := rfl
  rw [hcase, hnext]

end

/-- The TAP may ask for a challenge and for an unlock, and for nothing else. -/
theorem State.takeReq_tap_refused {s : State} {q : SecReq} (htap : q.tap = true) (h : q.kind ≠ 2 ∧ q.kind ≠ 3) :
    s.takeReq q = s.respond q rqArg 0 [] := if_pos (.inr (.inr ⟨htap, h⟩))

theorem State.takeReq_tap_stands {s : State} {q : SecReq} (h : q.kind = 2 ∨ q.kind = 3) :
    s.takeReq q = { s with sec := { s.sec with req := some q } } := if_neg (by omega)

end Sys2Proof.Machine
end

section
/-! Requests to the Grotto (R413 to R418, R421, R423): what is served, and what each request is answered. -/

namespace Sys2Proof.Machine

/-! ### What is served (R416 to R418) -/

section
variable {s t : State} {q : SecReq} {k st len : Nat} {data : List W32} {f : SecReq → State → Nat × Nat × List W32 × State}

/-- No request stands that could be answered. -/
def State.reqIdle (s : State) : Prop := ∀ p, s.sec.req = some p → p.tap = false ∧ s.pathStatus 3 2 ≠ 0

theorem State.serve_idle (h : s.reqIdle) : s.serve k f = s := by
  unfold State.reqIdle at h
  cases hq : s.sec.req with
  | none => simp only [State.serve, hq]
  | some q =>
    obtain ⟨htap, hpath⟩ := h q hq
    simp only [State.serve, hq]
    exact if_neg (by simp [htap, hpath])

section
variable (hq : s.sec.req = some q)
include hq

theorem State.serve_otherKind (hk : q.kind ≠ k) : s.serve k f = s := by
  simp only [State.serve, hq]
  exact if_neg fun h => hk h.1

theorem State.serve_answer (hpath : q.tap = true ∨ s.pathStatus 3 2 = 0) (hk : q.kind = k) (hf : f q s = (st, len, data, t)) :
    s.serve k f = t.respond q st len data := by
  simp only [State.serve, hq, hf]
  exact if_pos ⟨hk, hpath⟩

end
end

/-! ### QUOTE (R418, R419, R421) -/

/-- A quote was made within the last second. -/
def State.quotedLately (s : State) : Bool :=
  match s.sec.quoteAt with
  | some t => decide (s.frc < t + 500000000)
  | none => false

/-- The quote with the next index, signed and written: the status of its write, and the state after. -/
def State.quoteWritten (s : State) (q : SecReq) : Nat × State :=
  let ix := s.takeIndex.1
  let t := s.takeIndex.2
  let body := t.quoteBytes (q.bytes 0x320 32) ix
  ({ t with sec := { t.sec with quoteAt := some s.frc } }.count (grtPage + 0x084)).writeB ghSrc q.addr (body ++ quoteSig ix body)

section
variable {s : State} {q : SecReq}

theorem State.quotedLately_iff : s.quotedLately = true ↔ ∃ t, s.sec.quoteAt = some t ∧ s.frc < t + 500000000 := by
  cases h : s.sec.quoteAt <;> simp [State.quotedLately, h]

theorem quoteMake_eq {st : Nat} {t : State} (h : s.quoteWritten q = (st, t)) :
    quoteMake q s = if st = 0 then (0, 6036, [], t) else (rqFetch, 0, [], t) := by
  unfold State.quoteWritten at h
  rcases hix : s.takeIndex with ⟨ix, u⟩
  simp only [hix] at h
  simp only [quoteMake, hix, h]

theorem quoteServe_unaligned (ha : q.addr % 64 ≠ 0) : quoteServe q s = (rqArg, 0, [], s) := if_pos ha

section
variable (ha : q.addr % 64 = 0)
include ha

theorem quoteServe_spent (hs : s.idSpent = true) : quoteServe q s = (rqSpent, 0, [], s) :=
  (if_neg (not_not_intro ha)).trans (if_pos hs)

section
variable (hs : s.idSpent = false)
include hs

theorem quoteServe_busy (hr : s.idReady = false) : quoteServe q s = (rqBusy, 0, [], s) :=
  (if_neg (not_not_intro ha)).trans ((if_neg (Bool.eq_false_iff.1 hs)).trans (if_pos (by simp [hr])))

theorem quoteServe_ready (hr : s.idReady = true) :
    quoteServe q s = if s.quotedLately = true then (rqRate, 0, [], s) else quoteMake q s :=
  (if_neg (not_not_intro ha)).trans ((if_neg (Bool.eq_false_iff.1 hs)).trans (if_neg (by simp [hr])))

end
end
end

/-! ### UNLOCK (R423, R424) -/

/-- The challenge is spent. -/
def State.challengeSpent (s : State) : State := { s with sec := { s.sec with challenge := none } }

/-- The token of an UNLOCK: from the TAP with the request, else read at its address. -/
def State.unlockToken (s : State) (q : SecReq) : Option (List Byte) × State :=
  if q.tap then (some ((q.token.flatMap (fun w => bytesLE 4 w.toNat)).take (q.arg 0x310).toNat), s) else s.fetchImg q

/-- The scopes that a token names. -/
def tokenScopes (b : List Byte) : BitVec 4 := BitVec.ofNat 4 (nfld (imgW b 1) 0 4)

/-- A token that passes spends the challenge and is measured, -/
def State.tokenMeasured (s : State) (b : List Byte) : State := s.challengeSpent.mrExtend 3 3 (sha256 (b.take 64))

/-- where it names COMPUTE has both dies still to be reset, -/
def State.diesOpened (s : State) : State := { s with sec := { s.sec with diesLeft := 3 } }

/-- and adds its scopes. -/
def State.scopesOpened (s : State) (b : List Byte) : State := s.setScopes (s.sec.scopes ||| tokenScopes b)

section
variable {s t u : State} {q : SecReq} {b : List Byte} {n : Nat}

theorem unlockServe_long (h : 8192 < (q.arg 0x310).toNat) : unlockServe q s = (rqArg, 0, [], s.challengeSpent) := if_pos h

section
variable (hlen : (q.arg 0x310).toNat ≤ 8192)
include hlen

theorem unlockServe_short :
    unlockServe q s =
      match s.unlockToken q with
      | (none, t) => (rqFetch, 0, [], t.challengeSpent)
      | (some tok, t) =>
        let (n, u) := t.drawNat
        if u.tokenCheck tok n ≠ 0 then (u.tokenCheck tok n, 0, [], u.challengeSpent)
        else
          (0, 0, [], (if bit (tokenScopes tok) 2 = true then (u.tokenMeasured tok).diesOpened else u.tokenMeasured tok).scopesOpened tok) := by
  unfold unlockServe
  extract_lets spend len
  have htok : (if q.tap then (some ((q.token.flatMap (fun w => bytesLE 4 w.toNat)).take len), s) else s.fetchImg q) = s.unlockToken q := rfl
  rw [if_neg (Nat.not_lt.2 hlen), htok]
  rcases s.unlockToken q with ⟨_ | tok, t⟩ <;> rfl

theorem unlockServe_unread (h : s.unlockToken q = (none, t)) : unlockServe q s = (rqFetch, 0, [], t.challengeSpent) := by
  rw [unlockServe_short hlen, h]

section
variable (htok : s.unlockToken q = (some b, t)) (hdraw : t.drawNat = (n, u))
include htok hdraw

theorem unlockServe_failed (h : u.tokenCheck b n ≠ 0) : unlockServe q s = (u.tokenCheck b n, 0, [], u.challengeSpent) := by
  rw [unlockServe_short hlen, htok]
  dsimp only
  rw [hdraw]
  exact if_pos h

theorem unlockServe_passed (h : u.tokenCheck b n = 0) :
    unlockServe q s =
      (0, 0, [], (if bit (tokenScopes b) 2 = true then (u.tokenMeasured b).diesOpened else u.tokenMeasured b).scopesOpened b) := by
  rw [unlockServe_short hlen, htok]
  dsimp only
  rw [hdraw]
  exact if_neg (not_not_intro h)

/-- A token that passes opens its scopes, -/
theorem unlockServe_opens (h : u.tokenCheck b n = 0) (hd : bit (tokenScopes b) 2 = false) :
    unlockServe q s = (0, 0, [], (u.tokenMeasured b).scopesOpened b) :=
  (unlockServe_passed hlen htok hdraw h).trans (congrArg (fun m : State => (0, 0, [], m.scopesOpened b)) (if_neg (Bool.eq_false_iff.1 hd)))

/-- and where COMPUTE is one of them, both dies have still to be reset before it closes. -/
theorem unlockServe_opensDies (h : u.tokenCheck b n = 0) (hd : bit (tokenScopes b) 2 = true) :
    unlockServe q s = (0, 0, [], (u.tokenMeasured b).diesOpened.scopesOpened b) :=
  (unlockServe_passed hlen htok hdraw h).trans (congrArg (fun m : State => (0, 0, [], m.scopesOpened b)) (if_pos hd))

end
end
end

/-! ### EXTEND, installation and COMMIT (R413 to R415) -/

section
variable {s t : State} {q : SecReq} {x : List Byte} {e : Nat}

theorem extendServe_reserved (h : fld (q.arg 0x314) 0 3 < 4) : extendServe q s = (rqArg, 0, [], s) := if_pos h

theorem extendServe_extends (h : 4 ≤ fld (q.arg 0x314) 0 3) :
    extendServe q s = (0, 0, [], s.mrExtend (fld (q.arg 0x314) 0 3) 4 (q.bytes 0x320 32)) := if_neg (Nat.not_lt.2 h)

theorem sprServe_unread (h : s.fetchImg q = (none, t)) : sprServe q s = (rqFetch, 0, [], t) := by rw [sprServe, h]

theorem ghServe_unread (h : s.fetchImg q = (none, t)) : ghServe q s = (rqFetch, 0, [], t) := by rw [ghServe, h]

section
variable (h : s.fetchImg q = (some x, t))
include h

theorem sprServe_failed (he : imgCheck 1 2 (t.otpKey 1) (t.arbOf 1) x = e) (h0 : e ≠ 0) : sprServe q s = (e, 0, [], t) := by
  subst he
  rw [sprServe, h]
  exact if_pos h0

theorem sprServe_passed (he : imgCheck 1 2 (t.otpKey 1) (t.arbOf 1) x = 0) :
    sprServe q s =
      let k := if t.sec.recNew = 2 then 3 else 2
      let u := t.flashPut k x
      (0, 0, [], { u with sec := { u.sec with recNew := k } }.mrExtend 1 2 (sha256 (x.take 64))) := by
  rw [sprServe, h]
  exact if_neg (not_not_intro he)

theorem ghServe_failed (he : imgCheck 0 1 (t.otpKey 0) (t.arbOf 0) x = e) (h0 : e ≠ 0) : ghServe q s = (e, 0, [], t) := by
  subst he
  rw [ghServe, h]
  exact if_pos h0

theorem ghServe_passed (he : imgCheck 0 1 (t.otpKey 0) (t.arbOf 0) x = 0) :
    ghServe q s =
      let u := t.flashPut (1 - t.sec.active) x
      (0, 0, [], { u with sec := { u.sec with try_ := true } }.mrExtend 0 1 (sha256 (x.take 64))) := by
  rw [ghServe, h]
  exact if_neg (not_not_intro he)

end

/-- As a record is installed, the pair writes the registers that it sets. -/
def State.recordWritten (s u : State) : Option SafetyRecord → State
  | some r => if u.sec.recNew = s.sec.recNew then u else (recordRw r).foldl (fun t e => t.writeReg .pair e.1 e.2) u
  | none => u

variable {rec : Option SafetyRecord}

theorem sprInstall_eq : sprInstall rec s = s.recordWritten (s.serve 5 sprServe) rec := by cases rec <;> rfl

theorem State.recordWritten_self : s.recordWritten s rec = s := by
  cases rec with
  | none => rfl
  | some r => exact if_pos rfl

/-- How far a role's counter may go (R414). -/
def State.commitLimit (s : State) (role : Nat) : Nat :=
  if role = 0 then hdrEpoch ((Tab.get [] s.sec.flash s.sec.running).take 64) else if role = 1 then hdrEpoch s.sec.recHdr
  else if role = 2 then s.regF (secPage + 0x220) 16 16 else 255

/-- A role's counter advances. -/
def State.counterAt (s : State) (role e : Nat) : State := { s with sec := { s.sec with arb := Tab.set 0 s.sec.arb role e } }

/-- A role's counter advances to an epoch, with the revocations of the Gatehouse's firmware, whose slot becomes the active one, or of the
Groundskeeper's. -/
def State.roleCommitted (s : State) (role e : Nat) : State :=
  let fw := (Tab.get [] s.sec.flash s.sec.running).take 64
  let t := s.counterAt role e
  if role = 0 then { t.revokeBy fw 0 0xF00FF with sec := { (t.revokeBy fw 0 0xF00FF).sec with active := t.sec.running } }
  else if role = 2 then t.revokeBy t.gk.hdr 2 0x0FF00 else t

theorem commitServe_noRole (h : 4 < fld (q.arg 0x314) 0 3) : commitServe q s = (rqArg, 0, [], s) := if_pos h

section
variable {role : Nat} (hrole : fld (q.arg 0x314) 0 3 = role) (hr : role ≤ 4)
include hrole hr

theorem commitServe_role :
    commitServe q s =
      let e := fld (q.arg 0x314) 8 8
      if e < s.arbOf role then (rqRollback, 0, [], s)
      else if s.commitLimit role < e then (rqState, 0, [], s)
      else (0, 0, [], s.roleCommitted role e) := by
  subst hrole
  exact if_neg (Nat.not_lt.2 hr)

theorem commitServe_rollback (h : fld (q.arg 0x314) 8 8 < s.arbOf role) : commitServe q s = (rqRollback, 0, [], s) :=
  (commitServe_role hrole hr).trans (if_pos h)

section
variable (hlo : s.arbOf role ≤ fld (q.arg 0x314) 8 8)
include hlo

theorem commitServe_beyond (h : s.commitLimit role < fld (q.arg 0x314) 8 8) : commitServe q s = (rqState, 0, [], s) :=
  (commitServe_role hrole hr).trans ((if_neg (Nat.not_lt.2 hlo)).trans (if_pos h))

theorem commitServe_advances (h : fld (q.arg 0x314) 8 8 ≤ s.commitLimit role) :
    commitServe q s = (0, 0, [], s.roleCommitted role (fld (q.arg 0x314) 8 8)) :=
  (commitServe_role hrole hr).trans ((if_neg (Nat.not_lt.2 hlo)).trans (if_neg (Nat.not_lt.2 h)))

end
end
end

/-! ### Time (R421, R423) -/

section
variable {s : State} {t0 : Tick} {bs : List Byte}

theorem challengeLapse_none (h : s.sec.challenge = none) : challengeLapse s = s := by rw [challengeLapse, h]

theorem challengeLapse_some (h : s.sec.challenge = some (t0, bs)) :
    challengeLapse s = if t0 + 30000000000 ≤ s.frc then s.challengeSpent else s := by
  rw [challengeLapse, h]
  rfl

end

/-- Settles O47: an image and a token pass their checks in order, a request is served by its kind and its path, each answer goes by what its
request is refused for, and the TAP's words by what they complete. -/
theorem grottoRequests : Obligations.GrottoRequests := by
  unfold Obligations.GrottoRequests
  refine ⟨fun role kind keyOk arb img => imgCheck_eq_zero_iff, fun s tok n => State.tokenCheck_eq_zero_iff,
    fun s q word t0 bs rec => ?_⟩
  have hquote : exec .quote s = .next (s.serve 1 quoteServe) := rfl
  have hchallenge : exec .challenge s = .next (s.serve 2 challengeServe) := rfl
  have hunlock : exec .unlock s = .next (s.serve 3 unlockServe) := rfl
  have hextend : exec .extend s = .next (s.gkOnResp (s.serve 4 extendServe)) := rfl
  have hspr : exec (.sprInstall rec) s = .next (s.gkOnResp (sprInstall rec s)) := rfl
  have hgh : exec .ghInstall s = .next (s.gkOnResp (s.serve 6 ghServe)) := rfl
  have hcommit : exec .grottoCommit s = .next (s.gkOnResp (s.serve 7 commitServe)) := rfl
  have hlapse : exec .challengeLapse s = .next (challengeLapse s) := rfl
  have htree : exec .idTreeBuildComplete s = .next (treeBuilt s) := rfl
  have hmbox : ∀ valid, exec (.ghMbox word valid) s = .next (ghMbox word valid s) := fun _ => rfl
  rw [hquote, hchallenge, hunlock, hextend, hspr, hgh, hcommit, hlapse, htree, hmbox, hmbox, sprInstall_eq]
  refine ⟨fun h => ?idle, fun hq => ?otherKind, fun hq hpath => ?served, fun h => congrArg _ (challengeLapse_none h), fun h => ?lapse,
    fun h => congrArg _ (if_pos h), fun h => congrArg _ (if_neg (Bool.eq_false_iff.1 h)), fun dr out hnext => ?mailbox⟩
  case idle =>
    have hserve : ∀ k f, s.serve k f = s := fun _ _ => State.serve_idle h
    simp only [hserve, State.recordWritten_self, and_self]
  case otherKind =>
    have hserve : ∀ {k f}, q.kind ≠ k → s.serve k f = s := State.serve_otherKind hq
    exact ⟨fun h => congrArg _ (hserve h), fun h => congrArg _ (hserve h), fun h => congrArg _ (hserve h),
      fun h => by rw [hserve h], fun h => by rw [hserve h, State.recordWritten_self], fun h => by rw [hserve h], fun h => by rw [hserve h]⟩
  case lapse =>
    rw [challengeLapse_some h]
    exact ⟨fun ht => congrArg _ (if_pos ht), fun ht => congrArg _ (if_neg (Nat.not_le.2 ht))⟩
  case mailbox =>
    rw [ghMbox_capture hnext, ghMbox_word hnext]
    refine ⟨rfl, fun h => congrArg _ (if_pos h), fun hlen hreq => ?_⟩
    have hwhole : ¬ ((s.sec.tapIn ++ [word]).length < tapNeed (s.sec.tapIn ++ [word]) ∨ s.sec.req.isSome = true) :=
      not_or.2 ⟨Nat.not_lt.2 hlen, by simp [hreq]⟩
    exact ⟨fun hb => congrArg _ ((if_neg hwhole).trans (if_neg (Bool.eq_false_iff.1 hb))),
      fun hb => ⟨fun hk => congrArg _ ((if_neg hwhole).trans ((if_pos hb).trans (State.takeReq_tap_refused rfl hk))),
        fun hk => congrArg _ ((if_neg hwhole).trans ((if_pos hb).trans (State.takeReq_tap_stands hk)))⟩⟩
  case served =>
    have hserve : ∀ {k st len data t f}, q.kind = k → f q s = (st, len, data, t) → s.serve k f = t.respond q st len data :=
      State.serve_answer hq hpath
    refine ⟨fun hk => ?quote, fun hk => congrArg _ (hserve hk rfl), fun hk => ?unlock, fun hk => ?extend, fun img t hf => ?install,
      fun hk => ?commit⟩
    case quote =>
      refine ⟨fun ha => congrArg _ (hserve hk (quoteServe_unaligned ha)), fun ha hs => congrArg _ (hserve hk (quoteServe_spent ha hs)),
        fun ha hs hr => congrArg _ (hserve hk (quoteServe_busy ha hs hr)), fun ha hs hr hlate => ?_, fun ha hs hr hlate => ?_⟩
      · exact congrArg _ (hserve hk ((quoteServe_ready ha hs hr).trans (if_pos (State.quotedLately_iff.2 hlate))))
      · have hmake : quoteServe q s = quoteMake q s := (quoteServe_ready ha hs hr).trans (if_neg (mt State.quotedLately_iff.1 hlate))
        change _ = Host.Outcome.next (if (s.quoteWritten q).1 = 0 then (s.quoteWritten q).2.respond q 0 6036 []
          else (s.quoteWritten q).2.respond q rqFetch 0 [])
        rcases hwr : s.quoteWritten q with ⟨st, u⟩
        dsimp only
        split
        · rename_i hst
          exact congrArg _ (hserve hk (hmake.trans ((quoteMake_eq hwr).trans (if_pos hst))))
        · rename_i hst
          exact congrArg _ (hserve hk (hmake.trans ((quoteMake_eq hwr).trans (if_neg hst))))
    case unlock =>
      refine ⟨fun h => congrArg _ (hserve hk (unlockServe_long h)), fun hlen tok t htok => ⟨?_, fun b n u hb hdraw => ?_⟩⟩
      · rintro rfl
        exact congrArg _ (hserve hk (unlockServe_unread hlen htok))
      · subst hb
        exact ⟨fun h => congrArg _ (hserve hk (unlockServe_failed hlen htok hdraw h)),
          fun h hd => congrArg _ (hserve hk (unlockServe_opens hlen htok hdraw h hd)),
          fun h hd => congrArg _ (hserve hk (unlockServe_opensDies hlen htok hdraw h hd))⟩
    case extend =>
      exact ⟨fun h => by rw [hserve hk (extendServe_reserved h)], fun h => by rw [hserve hk (extendServe_extends h)]⟩
    case install =>
      refine ⟨fun hk => ⟨?_, fun x e hx he => ?_⟩, fun hk => ⟨?_, fun x e hx he => ?_⟩⟩
      · rintro rfl
        rw [hserve hk (sprServe_unread hf)]
        cases rec <;> rfl
      · subst hx
        refine ⟨fun h0 => ?_, fun h0 => ?_⟩
        · rw [hserve hk (sprServe_failed hf he h0)]
          cases rec <;> rfl
        · rw [hserve hk (sprServe_passed hf (he.trans h0))]
          cases rec <;> rfl
      · rintro rfl
        rw [hserve hk (ghServe_unread hf)]
      · subst hx
        exact ⟨fun h0 => by rw [hserve hk (ghServe_failed hf he h0)], fun h0 => by rw [hserve hk (ghServe_passed hf (he.trans h0))]⟩
    case commit =>
      refine ⟨fun h => by rw [hserve hk (commitServe_noRole h)], fun hr h => by rw [hserve hk (commitServe_rollback rfl hr h)],
        fun hr hlo h => by rw [hserve hk (commitServe_beyond rfl hr hlo h)], fun hlo hhi => ⟨fun h0 => ?_, fun h2 => ?_, fun h => ?_⟩⟩
      · rw [hserve hk (commitServe_advances rfl (by omega) hlo hhi), State.roleCommitted, if_pos h0]
        rfl
      · rw [hserve hk (commitServe_advances rfl (by omega) hlo hhi), State.roleCommitted, if_neg (by omega), if_pos h2]
        rfl
      · rw [hserve hk (commitServe_advances rfl (by omega) hlo hhi), State.roleCommitted, if_neg (by omega), if_neg (by omega)]
        rfl

end Sys2Proof.Machine
end

section
/-! Host requests (R437, R438): what is served, and what each request is answered. -/

namespace Sys2Proof.Machine

/-! ### What is served (R437) -/

section
variable {s m t : State} {k st : Nat} {data : W32} {f : State → Nat × W32 × State} {ok : Bool}

theorem State.hostServe_idle (h : s.hostAsks k = false) : s.hostServe k f = s := if_neg (Bool.eq_false_iff.1 h)

theorem State.hostServe_answer (h : s.hostAsks k = true) (hm : s.mirrorConfig = m) (hf : f m = (st, data, t)) :
    s.hostServe k f = t.hostRespond k st data := by
  subst hm
  refine (if_pos h).trans ?_
  rw [hf]

/-! ### STAGE_SET (R435, R437) -/

/-- What a verifier answers for the images of a set: the reasons other than 0, in order. -/
theorem refusals_first {α : Type} {why : α → Nat} {e : α} {p r : List α} (hp : ∀ x ∈ p, why x = 0) (he : why e ≠ 0) :
    ∃ l, ((p ++ e :: r).map why).filter (fun x => decide (x ≠ 0)) = why e :: l := by
  have hnil : (p.map why).filter (fun x => decide (x ≠ 0)) = [] := by simpa [List.filter_eq_nil_iff] using hp
  rw [List.map_append, List.filter_append, hnil, List.nil_append, List.map_cons, List.filter_cons_of_pos (by simpa using he)]
  exact ⟨_, rfl⟩

theorem refusals_none {α : Type} {why : α → Nat} {l : List α} (h : ∀ e ∈ l, why e = 0) :
    (l.map why).filter (fun x => decide (x ≠ 0)) = [] := by simpa [List.filter_eq_nil_iff] using h

/-- The images of a set. -/
def setImages (all : List Byte) : List (Nat × List Byte) := (dirEntries all).map (fun e => (e.1, (all.drop e.2.1).take e.2.2))

/-- Why an image of a set does not pass, 0 where it does. -/
def State.imageWhy (s : State) (e : Nat × List Byte) : Nat := imgCheck 2 e.1 (s.credKey 0x100 4) (s.credArb 16) e.2

section
variable {all : List Byte} (hread : m.readB gkSrc m.hostAddr (m.hostArg 2).toNat = (st, all, t))
include hread

theorem stageSet_read :
    stageSet ok m =
      if st ≠ 0 ∨ imgW all 0 ≠ 0x52494453 ∨ dirOk (dirEntries all) = false then (hrArg, 0, t)
      else match ((setImages all).map t.imageWhy).filter (fun r => decide (r ≠ 0)) with
        | r :: _ => (hrRefused, w32 r, t)
        | [] =>
          if !ok then (hrFlash, 0, t.setGk { t.gk with slots := Tab.set none t.gk.slots (1 - t.gk.running) none })
          else (0, 0, (setImages all).foldl (fun t e => t.logImage 1 e.2 0)
            (t.setGk { t.gk with slots := Tab.set none t.gk.slots (1 - t.gk.running) (some (setImages all)) })) := by
  rw [stageSet, hread]
  rfl

theorem stageSet_bad (h : st ≠ 0 ∨ imgW all 0 ≠ 0x52494453 ∨ dirOk (dirEntries all) = false) : stageSet ok m = (hrArg, 0, t) :=
  (stageSet_read hread).trans (if_pos h)

section
variable (hst : st = 0) (hmagic : imgW all 0 = 0x52494453) (hdir : dirOk (dirEntries all) = true)
include hst hmagic hdir

theorem stageSet_refused {p r : List (Nat × List Byte)} {e : Nat × List Byte} (himgs : setImages all = p ++ e :: r)
    (hp : ∀ x ∈ p, t.imageWhy x = 0) (he : t.imageWhy e ≠ 0) : stageSet ok m = (hrRefused, w32 (t.imageWhy e), t) := by
  obtain ⟨l, hl⟩ := refusals_first (r := r) hp he
  rw [stageSet_read hread, if_neg (by simp [hst, hmagic, hdir]), himgs, hl]

theorem stageSet_passed (h : ∀ e ∈ setImages all, t.imageWhy e = 0) :
    stageSet ok m =
      if !ok then (hrFlash, 0, t.setGk { t.gk with slots := Tab.set none t.gk.slots (1 - t.gk.running) none })
      else (0, 0, (setImages all).foldl (fun t e => t.logImage 1 e.2 0)
        (t.setGk { t.gk with slots := Tab.set none t.gk.slots (1 - t.gk.running) (some (setImages all)) })) := by
  rw [stageSet_read hread, if_neg (by simp [hst, hmagic, hdir]), refusals_none h]

end
end

/-! ### Requests that wait for the Grotto (R437, R449) -/

theorem stageGh_waits (h : s.hostAsks 2 = false ∨ s.gkMboxFree = false) : stageGh ok s = s :=
  if_pos (by rcases h with h | h <;> simp [h])

theorem hostCommit_waits (h : s.hostAsks 5 = false ∨ s.gkMboxFree = false) : hostCommit s = s :=
  if_pos (by rcases h with h | h <;> simp [h])

theorem hostCommit_asks (h : s.hostAsks 5 = true) (hfree : s.gkMboxFree = true) (hm : s.mirrorConfig = m) :
    hostCommit s = (m.setGk { m.gk with hostWait := some 5 }).gkRequest 7 [(0x314, m.hostArg 3 &&& 0xFF07#32)] := by
  subst hm
  exact if_neg (by simp [h, hfree])

section
variable (h : s.hostAsks 2 = true) (hfree : s.gkMboxFree = true) (hm : s.mirrorConfig = m) {img : List Byte}
  (hread : m.readB gkSrc m.hostAddr (m.hostArg 2).toNat = (st, img, t))
include h hfree hm hread

theorem stageGh_read :
    stageGh ok s =
      let kind := nfld (imgW img 1) 8 8
      if st ≠ 0 ∨ (kind ≠ 1 ∧ kind ≠ 2) then t.hostRespond 2 hrArg 0
      else if !ok then t.hostRespond 2 hrFlash 0
      else (t.setGk { t.gk with staging := img, hostWait := some 2 }).gkRequest (if kind = 1 then 6 else 5)
        [(0x308, m.hostArg 0), (0x30C, m.hostArg 1), (0x310, m.hostArg 2)] := by
  refine (if_neg (by simp [h, hfree])).trans ?_
  simp only [hm, hread]

theorem stageGh_bad (hbad : st ≠ 0 ∨ (nfld (imgW img 1) 8 8 ≠ 1 ∧ nfld (imgW img 1) 8 8 ≠ 2)) :
    stageGh ok s = t.hostRespond 2 hrArg 0 := (stageGh_read h hfree hm hread).trans (if_pos hbad)

theorem stageGh_good (hst : st = 0) (hkind : nfld (imgW img 1) 8 8 = 1 ∨ nfld (imgW img 1) 8 8 = 2) :
    stageGh ok s =
      if !ok then t.hostRespond 2 hrFlash 0
      else (t.setGk { t.gk with staging := img, hostWait := some 2 }).gkRequest (if nfld (imgW img 1) 8 8 = 1 then 6 else 5)
        [(0x308, m.hostArg 0), (0x30C, m.hostArg 1), (0x310, m.hostArg 2)] :=
  (stageGh_read h hfree hm hread).trans (if_neg (by omega))

end

/-! ### ACTIVATE and CONFIRM (R437, R438) -/

/-- Why the other slot may not be activated: standing orders, a broadcast, or no set. -/
def State.activateRefused (s : State) : Prop :=
  s.bel.gkOrders ≠ [] ∨ s.bcastBusy = true ∨ Tab.get none s.gk.slots (1 - s.gk.running) = none

theorem State.activateRefused_iff : s.activateRefused ↔
    (!s.bel.gkOrders.isEmpty || s.bcastBusy || (Tab.get none s.gk.slots (1 - s.gk.running)).isNone) = true := by
  simp [State.activateRefused, or_assoc]

theorem activate_idle (h : s.hostAsks 3 = false) : activate ok s = s := if_pos (by simp [h])

theorem activate_asked (h : s.hostAsks 3 = true) (hm : s.mirrorConfig = m) :
    activate ok s =
      if (!m.bel.gkOrders.isEmpty || m.bcastBusy || (Tab.get none m.gk.slots (1 - m.gk.running)).isNone) = true then
        m.hostRespond 3 hrState 0
      else if !ok then m.hostRespond 3 hrFlash 0
      else ((m.setGk { m.gk with selOk := true, active := m.gk.running, try_ := true }).hostRespond 3 0 0).gkRestart 1 := by
  subst hm
  exact if_neg (by simp [h])

theorem confirm_noTrial (h : s.gk.trial = false) : confirm ok s = (hrState, 0, s) := if_pos (by simp [h])

theorem confirm_trial (h : s.gk.trial = true) :
    confirm ok s =
      let t := s.setGk { s.gk with selOk := true, active := s.gk.running, trial := false, try_ := false }
      if !ok then (hrFlash, 0, s) else (0, 0, t.setReg (gkIdPage + 0x048) (w32 (t.gk.running + 4 * t.gk.active))) :=
  if_neg (by simp [h])

/-! ### CAL and NOTE (R436, R437, R441, R447) -/

/-- The CAL record of item i with a user value x. -/
def State.calLogged (s : State) (i : Nat) (x : Int) : State :=
  let t := s.calWrite i x
  let e := t.calEff i
  t.logAdd 0x0009 (bytesLE 4 i ++ bytesLE 4 (ibits 32 (s.calUser i)) ++ bytesLE 4 (ibits 32 x) ++ bytesLE 4 (ibits 32 e.1)
    ++ bytesLE 4 (b2n e.2.1 + 2 * b2n e.2.2)) true 2

theorem cal_noItem (h : 117 < (s.hostArg 2).toNat) : cal ok s = (hrArg, 0, s) := if_pos h

theorem cal_item (h : (s.hostArg 2).toNat ≤ 117) :
    cal ok s =
      let i := (s.hostArg 2).toNat
      let x := (s.hostArg 3).toInt
      let u := s.calLogged i x
      if !ok then (hrFlash, 0, s.calWrite i x)
      else (0, 0, u.setGk { u.gk with userCal := Tab.set (calUserNeutral i) u.gk.userCal i x }) := if_neg (Nat.not_lt.2 h)

theorem note_eq {n : Nat} (h : s.drawNat = (n, t)) :
    note s = (0, 0, t.logAdd (0x8000 + n % 0x7FFF) ((List.range 6).flatMap (fun i => bytesLE 4 (t.hostArg (2 + i)).toNat)) false 2) := by
  have harg : t.hostArg = s.hostArg := by
    cases h
    rfl
  rw [note, h, harg]

end

end Sys2Proof.Machine
end

section
/-! The Groundskeeper (R411, R429, R431, R432, R443, R447, R450): restarts, the log's pages, telemetry, calibration and the boot ROM. -/

namespace Sys2Proof.Machine

/-! ### Restarts (R429, R431) -/

/-- A restart counted, with the watchdogs and interrupt targets of the cores reset. -/
def State.restartCounted (s : State) (n : Nat) : State :=
  let t := s.setGk { s.gk with up := false, restartAt := s.frc, hostWait := none,
                               restarts := s.gk.restarts.filter (fun x => decide (s.frc < x + 300000000000)) ++ [s.frc] }
  let t := t.setReg (gkIdPage + 0x054) (w32 (n + 16 * min t.restartsNow 3))
  ([2, 3, 4, 5] : List Nat).foldl (fun t w => (t.wdReset w).icuTargetReset 1 (w - 2)) t

/-- The firmware that the boot ROM has chosen waits for its measurement. -/
def State.firmwareChosen (s : State) (slot : Nat) (trial : Bool) (img : List Byte) : State :=
  s.setGk { s.gk with running := slot, trial := trial, hdr := img.take 64, waitExt := true }

/-- The measurement of a firmware is asked of the Grotto. -/
def State.measureAsked (s : State) (img : List Byte) : State :=
  s.gkRequest 4 ((0x314, 4#32) :: digestArgs 0x320 (sha256 (img.take 64)))

section
variable {s u : State} {n slot : Nat} {trial : Bool} {img : List Byte}

theorem State.gkRestart_ignored (h : s.gk.waitExt = true ∨ s.gk.halted = true ∨ s.gk.romWait = true ∨ s.gk.released = none) :
    s.gkRestart n = s := if_pos (by rcases h with h | h | h | h <;> simp [h])

section
variable (hext : s.gk.waitExt = false) (hhalt : s.gk.halted = false) (hrom : s.gk.romWait = false) (hrel : s.gk.released ≠ none)
include hext hhalt hrom hrel

theorem State.gkRestart_acts :
    s.gkRestart n =
      if 3 ≤ (s.restartCounted n).restartsNow then (s.restartCounted n).romStop
      else match (s.restartCounted n).romChoose with
        | (none, u) => u.romStop
        | (some (slot, trial, img), u) =>
          let x := u.firmwareChosen slot trial img
          (if bit (x.reg (gkBootPage + 0x040)) 8 = true then x else (x.diePowerOff 0 false).diePowerOff 1 false).measureAsked img :=
  if_neg (by simp [hext, hhalt, hrom, hrel])

/-- The third restart within 600 s stops the boot ROM. -/
theorem State.gkRestart_third (h : 3 ≤ (s.restartCounted n).restartsNow) : s.gkRestart n = (s.restartCounted n).romStop :=
  (State.gkRestart_acts hext hhalt hrom hrel).trans (if_pos h)

section
variable (h : (s.restartCounted n).restartsNow < 3)
include h

theorem State.gkRestart_noFirmware (hchoose : (s.restartCounted n).romChoose = (none, u)) : s.gkRestart n = u.romStop := by
  rw [State.gkRestart_acts hext hhalt hrom hrel, if_neg (Nat.not_le.2 h), hchoose]

theorem State.gkRestart_firmware (hchoose : (s.restartCounted n).romChoose = (some (slot, trial, img), u)) :
    s.gkRestart n =
      let x := u.firmwareChosen slot trial img
      (if bit (x.reg (gkBootPage + 0x040)) 8 = true then x else (x.diePowerOff 0 false).diePowerOff 1 false).measureAsked img := by
  rw [State.gkRestart_acts hext hhalt hrom hrel, if_neg (Nat.not_le.2 h), hchoose]

end
end

theorem gkRestart_restarts {w : Writer} (hw : s.writerDom w = domGk) (hn : 1 ≤ n) : gkRestart w n s = s.gkRestart n := if_pos ⟨hw, hn⟩

theorem gkRestart_refused {w : Writer} (h : s.writerDom w ≠ domGk ∨ n = 0) : gkRestart w n s = s :=
  if_neg fun hc => h.elim (fun hw => hw hc.1) (by omega)

end

/-! ### The log and telemetry (R432, R443) -/

section
variable {s : State}

theorem logPageProgram_idle (h : s.gk.up = false ∨ s.gk.buf = []) : logPageProgram s = s :=
  if_pos (by rcases h with h | h <;> simp [h])

section
variable (hup : s.gk.up = true) (hbuf : s.gk.buf ≠ [])
include hup hbuf

theorem logPageProgram_old (h : s.gk.bufAt + 50000000 ≤ s.frc) : logPageProgram s = s.logFlush.logLost :=
  (if_neg (by simp [hup, hbuf])).trans (if_pos h)

/-- Before the oldest record is 100 ms old, the pages that are full are programmed. -/
theorem logPageProgram_young (h : s.frc < s.gk.bufAt + 50000000) {now later : List LogRec}
    (hfull : let total := s.gk.buf.foldl (fun a x => a + x.size) 0
      fullPages ((s.gk.used % 256 + total) / 256 * 256 - s.gk.used % 256) s.gk.buf = (now, later)) :
    logPageProgram s = (now.foldl State.logProgram (s.setGk { s.gk with buf := later, bufAt := s.frc })).logLost := by
  refine (if_neg (by simp [hup, hbuf])).trans ((if_neg (Nat.not_le.2 h)).trans ?_)
  dsimp only at hfull ⊢
  rw [hfull]

end

/-- The bounds and the time of the telemetry period. -/
def State.telemetryWaits (s : State) : Prop :=
  let p := s.regF (gkIdPage + 0x058) 0 12
  s.gk.up = false ∨ p = 0 ∨ 3600 < p ∨ s.frc < s.gk.telAt + 500000000 * p

theorem State.telemetryWaits_iff : s.telemetryWaits ↔
    (!s.gk.up || decide (s.regF (gkIdPage + 0x058) 0 12 = 0) || decide (3600 < s.regF (gkIdPage + 0x058) 0 12)
      || decide (s.frc < s.gk.telAt + 500000000 * s.regF (gkIdPage + 0x058) 0 12)) = true := by
  simp [State.telemetryWaits, or_assoc]

/-- The telemetry record with what the regulators and the monitors report. -/
def State.telemetryLogged (s t : State) (rails mons : List Byte) : State :=
  let io := (List.range 12).foldl (fun m i => max m (Tab.get 0 t.pwr.temps (84 + i))) (Tab.get 0 t.pwr.temps 84)
  let body := bytesLE 4 (t.reg (pwrPage + 0x05C)).toNat ++ bytesLE 4 (t.reg (pwrPage + 0x060)).toNat
    ++ bytesLE 4 (t.reg (mcPage 0 + 0x040)).toNat ++ bytesLE 4 (t.reg (mcPage 1 + 0x040)).toNat
    ++ bytesLE 4 (ibits 32 (io / 8)) ++ bytesLE 4 (t.reg (pwrPage + 0x048)).toNat ++ rails ++ mons
    ++ bytesLE 4 (t.reg (pwrPage + 0x0D0)).toNat
  (t.setGk { t.gk with telAt := s.frc }).logAdd 0x000A body false 0

theorem telemetry_waits (h : s.telemetryWaits) : telemetry s = s := by
  unfold telemetry
  extract_lets p
  rw [if_pos (State.telemetryWaits_iff.1 h)]

/-- A record that is due is logged. The numbers of free words are taken as variables, so that none of them is drawn in the proof. -/
theorem telemetry_due (h : ¬ s.telemetryWaits) {rails mons : List Byte} {u t : State} (hrails : s.freeBytes 26 = (rails, u))
    (hmons : u.freeBytes 138 = (mons, t)) : telemetry s = s.telemetryLogged t rails mons := by
  unfold telemetry
  generalize (26 : Nat) = railWords at hrails ⊢
  generalize (138 : Nat) = monWords at hmons ⊢
  refine (if_neg (mt State.telemetryWaits_iff.2 h)).trans ?_
  rw [hrails]
  dsimp only
  rw [hmons]
  rfl

end

/-! ### Calibration and the boot ROM (R411, R447, R450) -/

section
variable {s : State} {w : Writer} {v : W32} {t0 : Tick}

theorem calUserWrite_served (hw : s.writerDom w = domGk) (h : calServed 0 (s.regF (calPage 0 + 0x040) 0 8) = true) :
    calUserWrite w 0 v s = s.calWrite (s.regF (calPage 0 + 0x040) 0 8) v.toInt := if_pos ⟨rfl, hw, h⟩

theorem calUserWrite_refused (h : s.writerDom w ≠ domGk ∨ calServed 0 (s.regF (calPage 0 + 0x040) 0 8) = false) :
    calUserWrite w 0 v s = s := if_neg fun ⟨_, hw, hc⟩ => h.elim (fun hn => hn hw) (fun hf => by simp [hf] at hc)

/-- The Gatehouse's page takes no writes. -/
theorem calUserWrite_gatehouse : calUserWrite w 1 v s = s := by simp [calUserWrite]

theorem exec_calUserWrite {n : Nat} (h : n < 2) : exec (.calUserWrite w n v) s = .next (calUserWrite w n v s) :=
  onUnit_next (decide_eq_true h)

theorem exec_calUserWrite_noPage {n : Nat} (h : 2 ≤ n) : exec (.calUserWrite w n v) s = .fault .noUnit :=
  onUnit_fault (decide_eq_false (Nat.not_lt.2 h))

theorem credTimeout_ignored (h : s.gk.released = none ∨ s.gk.romWait = false ∨ bit (s.reg (secPage + 0x040)) 0 = true) :
    credTimeout s = s := by
  cases hr : s.gk.released with
  | none => simp only [credTimeout, hr]
  | some t0 =>
    simp only [credTimeout, hr]
    exact if_neg (by rcases h with h | h | h <;> simp_all)

theorem credTimeout_waiting (hr : s.gk.released = some t0) (hw : s.gk.romWait = true) (hc : bit (s.reg (secPage + 0x040)) 0 = false) :
    credTimeout s = if t0 + 50000000 ≤ s.frc then s.romStop else s := by
  simp [credTimeout, hr, hw, hc]

end

/-- Settles O48: a host request is served where one of its kind stands and answered by what it is refused for; a restart goes by the
Groundskeeper's state, the restarts counted and the firmware chosen, and the rest by time, bounds and writer. -/
theorem hostRequests : Obligations.HostRequests := by
  unfold Obligations.HostRequests
  intro s w v c t0 n ok
  have hset : exec (.stageSet ok) s = .next (s.hostServe 1 (stageSet ok)) := rfl
  have hgh : exec (.stageGh ok) s = .next (stageGh ok s) := rfl
  have hactivate : exec (.activate ok) s = .next (activate ok s) := rfl
  have hconfirm : exec (.confirm ok) s = .next (s.hostServe 4 (confirm ok)) := rfl
  have hcommit : exec .hostCommit s = .next (hostCommit s) := rfl
  have hack : exec .hostFaultAck s =
    .next (s.hostServe 6 (fun t => (0, 0, t.sendMsg idGk idGatehouse 0x24 (bytesLE 4 (fld (t.hostArg 2) 0 16))))) := rfl
  have hcal : exec (.cal ok) s = .next (s.hostServe 7 (cal ok)) := rfl
  have hnote : exec .note s = .next (s.hostServe 8 note) := rfl
  have hrestart : exec (.gkRestart w c) s = .next (gkRestart w c.toNat s) := rfl
  have hlog : exec .logPageProgram s = .next (logPageProgram s) := rfl
  have htel : exec .telemetryPeriod s = .next (telemetry s) := rfl
  have hcred : exec .credentialValidTimeout s = .next (credTimeout s) := rfl
  rw [hset, hgh, hactivate, hconfirm, hcommit, hack, hcal, hnote, hrestart, hlog, htel, hcred, exec_calUserWrite Nat.zero_lt_two,
    exec_calUserWrite Nat.one_lt_two]
  have hidle : ∀ {k f}, s.hostAsks k = false → s.hostServe k f = s := State.hostServe_idle
  refine ⟨fun h => ?noRequest, fun h => congrArg _ (hidle h), fun h => congrArg _ (stageGh_waits (.inl h)),
    fun h => congrArg _ (activate_idle h), fun h => congrArg _ (hidle h), fun h => congrArg _ (hostCommit_waits (.inl h)),
    fun h => congrArg _ (hidle h), fun h => congrArg _ (hidle h), fun h => congrArg _ (hidle h),
    fun h => ⟨congrArg _ (stageGh_waits (.inr h)), congrArg _ (hostCommit_waits (.inr h))⟩, fun m hm => ?served,
    fun hw hc => congrArg _ (gkRestart_restarts hw hc), fun h => congrArg _ (gkRestart_refused (h.imp_right fun hc => by rw [hc]; rfl)),
    State.gkRestart_ignored, fun hext hhalt hrom hrel => ?restart, fun h => congrArg _ (logPageProgram_idle h),
    fun hup hbuf => ⟨fun h => congrArg _ (logPageProgram_old hup hbuf h),
      fun h now later hfull => congrArg _ (logPageProgram_young hup hbuf h hfull)⟩,
    ⟨fun h => congrArg _ (telemetry_waits h),
      fun hup h1 hp ht rails u mons t hrails hmons => congrArg _ (telemetry_due ?due hrails hmons)⟩,
    ⟨fun hw h => congrArg _ (calUserWrite_served hw h), fun h => congrArg _ (calUserWrite_refused h)⟩,
    congrArg _ calUserWrite_gatehouse, exec_calUserWrite_noPage, fun h => congrArg _ (credTimeout_ignored h),
    fun hr hw hc => ?credential⟩
  case noRequest =>
    exact ⟨congrArg _ (hidle (h 1 (by decide) (by decide))), congrArg _ (stageGh_waits (.inl (h 2 (by decide) (by decide)))),
      congrArg _ (activate_idle (h 3 (by decide) (by decide))), congrArg _ (hidle (h 4 (by decide) (by decide))),
      congrArg _ (hostCommit_waits (.inl (h 5 (by decide) (by decide)))), congrArg _ (hidle (h 6 (by decide) (by decide))),
      congrArg _ (hidle (h 7 (by decide) (by decide))), congrArg _ (hidle (h 8 (by decide) (by decide)))⟩
  case restart =>
    change (3 ≤ (s.restartCounted n).restartsNow → _) ∧ ((s.restartCounted n).restartsNow < 3 → ∀ u,
      ((s.restartCounted n).romChoose = (none, u) → _) ∧
      ∀ slot trial img, (s.restartCounted n).romChoose = (some (slot, trial, img), u) → _)
    refine ⟨State.gkRestart_third hext hhalt hrom hrel, fun h u => ⟨State.gkRestart_noFirmware hext hhalt hrom hrel h,
      fun slot trial img hchoose => ?_⟩⟩
    rw [State.gkRestart_firmware hext hhalt hrom hrel h hchoose]
    exact ⟨fun hb => congrArg (State.measureAsked · img) (if_pos hb),
      fun hb => congrArg (State.measureAsked · img) (if_neg (Bool.eq_false_iff.1 hb))⟩
  case due =>
    rintro (hf | hf | hf | hf)
    · simp [hup] at hf
    · omega
    · omega
    · exact Nat.not_lt.2 ht hf
  case credential =>
    rw [credTimeout_waiting hr hw hc]
    exact ⟨fun ht => congrArg _ (if_pos ht), fun ht => congrArg _ (if_neg (Nat.not_le.2 ht))⟩
  case served =>
    have hserve : ∀ {k st data t f}, s.hostAsks k = true → f m = (st, data, t) → s.hostServe k f = t.hostRespond k st data :=
      fun h => State.hostServe_answer h hm
    refine ⟨fun h st all t hread => ?set, fun h hfree st img t hread k hk => ?gh, fun h => ?activate, fun h => ?confirm,
      fun h hfree => congrArg _ (hostCommit_asks h hfree hm), fun h => congrArg _ (hserve h rfl), fun h => ?cal,
      fun h t hdraw => congrArg _ (hserve h (note_eq hdraw))⟩
    case set =>
      refine ⟨fun hbad => congrArg _ (hserve h (stageSet_bad hread hbad)), fun hst hmagic hdir =>
        ⟨fun p e r himgs hp he => congrArg _ (hserve h (stageSet_refused hread hst hmagic hdir himgs hp he)), fun hall => ?_⟩⟩
      have hpass := @stageSet_passed m t st ok all hread hst hmagic hdir hall
      exact ⟨fun hok => congrArg _ (hserve h (hpass.trans (if_pos (by simp [hok])))),
        fun hok => congrArg _ (hserve h (hpass.trans (if_neg (by simp [hok]))))⟩
    case gh =>
      subst hk
      refine ⟨fun hbad => congrArg _ (stageGh_bad h hfree hm hread hbad), fun hst hkind => ?_⟩
      rw [stageGh_good h hfree hm hread hst hkind]
      exact ⟨fun hok => congrArg _ (if_pos (by simp [hok])), fun hok => congrArg _ (if_neg (by simp [hok]))⟩
    case activate =>
      rw [activate_asked h hm]
      refine ⟨fun hr => congrArg _ (if_pos (State.activateRefused_iff.1 hr)), fun hr hok => ?_, fun hr hok => ?_⟩ <;>
        rw [if_neg (mt State.activateRefused_iff.2 hr)]
      · exact congrArg _ (if_pos (by simp [hok]))
      · exact congrArg _ (if_neg (by simp [hok]))
    case confirm =>
      exact ⟨fun ht => congrArg _ (hserve h (confirm_noTrial ht)),
        fun ht hok => congrArg _ (hserve h ((confirm_trial ht).trans (if_pos (by simp [hok])))),
        fun ht hok => congrArg _ (hserve h ((confirm_trial ht).trans (if_neg (by simp [hok]))))⟩
    case cal =>
      exact ⟨fun hi => congrArg _ (hserve h (cal_noItem hi)),
        fun hi hok => congrArg _ (hserve h ((cal_item hi).trans (if_pos (by simp [hok])))),
        fun hi hok => congrArg _ (hserve h ((cal_item hi).trans (if_neg (by simp [hok]))))⟩

end Sys2Proof.Machine
end
